-- ==== Sys2Proof/Word.lean ====
section
/-! DEFINITION. The words of the part (R8, R9): 32-bit registers and lanes, bytes, sparse tables and byte memories. -/

namespace Sys2Proof

/-- A register, a lane of a 32-bit DTYPE, or a tumbler name (R9, R198, R428). -/
abbrev Word := BitVec 32

/-- One byte of a memory or of a beat. -/
abbrev Byte := BitVec 8

/-- A sparse table: keys strictly rising, no entry equal to what an unlisted key reads as. -/
abbrev Tab (α : Type) := List (Nat × α)

/-- A sparse byte memory; an unlisted address reads 0 (assumption 2). -/
abbrev Mem := List Host.Cell

/-- A beat of a queue: up to 4,096 bytes (R137). -/
abbrev Bytes := List Byte

end Sys2Proof
end

