-- ==== Sys2Proof/Syntax.lean ====
section
/-! DEFINITION. The commands of the block: one constructor per row of spec/opcode_table.json, with the row's operands.
A unit is a core index 0 to 511 (R18), or 512 + s for stack engine s (the numbering of R559). -/

namespace Sys2Proof

/-- Who makes a register access (R546, R554): the host through BAR0, a control core of a region (R34), or the sideband port. -/
inductive Requester
  | bar0 | control (r : Nat) | sideband | bar4
  deriving DecidableEq, Repr

/-- A DMA engine (R326): that of a block (block index) or of a region. -/
inductive DmaEng
  | blk (b : Nat) | rgn (r : Nat)
  deriving DecidableEq, Repr

/-- An error queue (R522). -/
inductive QueueId
  | blk (b : Nat) | rgn (r : Nat) | part
  deriving DecidableEq, Repr

/-- What a liveness poll or a heartbeat names (R502): the unit kinds of R506. -/
inductive PolledUnit
  | core (c : Nat) | block (b : Nat) | region (r : Nat) | engine (s : Nat) | controlCore (n : Nat)
  deriving DecidableEq, Repr

/-- The side of an error that ends a DMA transfer (R335, R338). -/
inductive XferError
  | busError | translation
  deriving DecidableEq, Repr

/-- A segment as it has arrived whole: its head (R453) with SRC, DST and SEG of its flits (R450), and its bytes. -/
structure Segment where
  src : Nat
  dst : Nat
  seg : Nat
  held : Bool
  final : Bool
  sig : Bool
  tableId : Nat
  offset : Nat
  gen : Nat
  xid : Nat
  lap : Nat
  length : Nat
  replyAddr : Nat
  readLen : Nat
  data : Bytes
  /-- It came in class URGENT (R450): a restore's writes and reads do (R306, R536). -/
  urgent : Bool
  /-- Port by which it came (R454); of no meaning in one that leaves. -/
  port : Nat
  deriving DecidableEq, Repr

/-- What a write to a register carries: the word, and how many bytes the access has (R481). -/
structure RegData where
  word : Word
  size : Nat
  deriving DecidableEq, Repr

/-- What a posted BAR2 write carries: its bytes, and whether it is poisoned (R479). -/
structure BarData where
  bytes : Bytes
  poisoned : Bool
  deriving DecidableEq, Repr

/-- A port at which a flit fails its CRC or leaves a gap in SEQ, and the SEQ of the last flit in order there (R457). -/
structure BadFlit where
  port : Nat
  good : Nat
  deriving DecidableEq, Repr

/-- A flit as its two ends see it (R450, R463): the header fields but those of the one link it crosses, and its payload. -/
structure Flit where
  ftype : Nat
  cls : Nat
  last : Bool
  dst : Nat
  src : Nat
  hops : Nat
  /-- Payload bytes in use of a DATA flit, in units of 16. -/
  valid : Nat
  vc : Nat
  seg : Nat
  payload : Bytes
  deriving DecidableEq, Repr

/-- A lap marker as it arrives (R466), with its arrival measured against the receiver's own expected mark (R467). -/
structure Marker where
  lap : Nat
  periodUs : Nat
  depth : Nat
  gmId : Nat
  gmRank : Nat
  residencePs : Nat
  arrivalPs : Int
  deriving DecidableEq, Repr

/-- SPDM transports (R578). -/
inductive Transport
  | doe | mctp
  deriving DecidableEq, Repr

/-- The commands. -/
inductive Instr
  -- the lap and lap commit (R46, R68, R69, R95, R45; R489)
  | lapMark
  | doorbellPoll
  | lapCleanSend (dst : Nat)
  | lapClean (w : BitVec 256)
  | commitPoint
  | firstIssue
  | planPoint
  | holdoverLimit
  -- tasks and held memory (R129, R48, R604, R285, R283, R280)
  | taskStart (u : Nat)
  | taskFinish (u activeNs energyNj : Nat)
  | frameWaitResume (u m : Nat)
  | fillCopyComplete (r frame : Nat)
  | fold (r : Nat)
  | ptRecordWrite (r : Nat)
  | ptUpdateRecord (who : Requester) (r : Nat) (word1 : Word)
  -- the sequencer (R118)
  | nop (u : Nat)
  | endTask (u : Nat)
  | loop (u : Nat)
  | branch (u : Nat)
  | branchIf (u : Nat)
  | lrSet (u : Nat)
  | lrAdd (u : Nat)
  | lrFromSum (u : Nat)
  | sbPost (u : Nat)
  | sbWait (u : Nat)
  | sbRelease (u : Nat)
  | sbWaitFree (u : Nat)
  | tumSignal (u : Nat)
  | tumWait (u : Nat)
  | fence (u : Nat)
  | sumPost (u : Nat)
  | halt (u : Nat)
  -- the matrix array (R120)
  | mac (u : Nat)
  | macT (u : Nat)
  | mtxLoad (u : Nat)
  | drain (u : Nat)
  | zero (u : Nat)
  | batch (u : Nat)
  | batchTimeout (u : Nat)
  -- the vector engine (R122)
  | vecNop (u : Nat)
  | mov (u : Nat)
  | add (u : Nat)
  | sub (u : Nat)
  | mul (u : Nat)
  | fma (u : Nat)
  | vecMin (u : Nat)
  | vecMax (u : Nat)
  | abs (u : Nat)
  | neg (u : Nat)
  | cmpLt (u : Nat)
  | cmpLe (u : Nat)
  | cmpEq (u : Nat)
  | cmpNe (u : Nat)
  | sel (u : Nat)
  | cvt (u : Nat)
  | srCvt (u : Nat)
  | compress (u : Nat)
  | expand (u : Nat)
  | and (u : Nat)
  | or (u : Nat)
  | xor (u : Nat)
  | shl (u : Nat)
  | shr (u : Nat)
  | rand (u : Nat)
  -- special functions (R231)
  | exp (u : Nat)
  | log (u : Nat)
  | rcp (u : Nat)
  | rsqrt (u : Nat)
  -- the reduction unit (R214)
  | rowStart (u : Nat)
  | redSum (u : Nat)
  | redMax (u : Nat)
  | sumExp (u : Nat)
  | shiftedSq (u : Nat)
  | normTap (u : Nat)
  | rowEnd (u : Nat)
  -- the scan unit (R219)
  | scanStep (u : Nat)
  | loadH (u : Nat)
  | storeH (u : Nat)
  | chunk (u : Nat)
  -- the hinge and the core's DMA operations (R307, R310, R327)
  | hingeSubmit (u : Nat)
  | hingeWait (u : Nat)
  | hingeOperation (b : Nat)
  | hingeComplete (b : Nat)
  | dmaKick (u : Nat)
  | dmaWait (u : Nat)
  -- stream movers (R320, R157, R319, R337)
  | moverStart (u m : Nat)
  | moverStop (u m : Nat)
  | rearm (u m : Nat)
  | flush (u m : Nat)
  | takeBaton (u m : Nat)
  | streamRun (u m : Nat)
  | streamBusError (u m : Nat)
  -- DMA channels (R329 to R341)
  | dmaCopy (e : DmaEng) (ch : Nat)
  | dmaFill (e : DmaEng) (ch : Nat)
  | dmaSwap64 (e : DmaEng) (ch : Nat)
  | dmaComplete (e : DmaEng) (ch : Nat)
  | dmaTransferError (e : DmaEng) (ch : Nat) (kind : XferError) (write : Bool) (delivered : Nat)
  | dmaTailWrite (e : DmaEng) (tail : Nat)
  | resume (e : DmaEng)
  | abort (e : DmaEng)
  -- core, engine and block registers with rows of their own (R151, R365, R153, R170, R295, R443, R446)
  | haltClear (c : Nat)
  | forceHalt (c level : Nat) (fromBar0 : Bool)
  | seHaltClear (e : Nat)
  | seForceHalt (e level : Nat) (fromBar0 : Bool)
  | engineReset (e : Nat)
  | sbEntryWrite (b : Nat) (hi : Bool) (value : Word)
  | oobClear (c : Nat) (mask : Word)
  | bsConfClearAll (b : Nat)
  | tumSet (region : Bool) (unit : Nat) (value : Word)
  | syncDumpStart
  | syncDumpCancel
  | syncDumpDataRead
  -- the host interface (R84 to R86, R301, R367, R440, R489 to R492, R500, R305, R482, R483)
  | graph (ring : Nat)
  | graphResolved (graphId : Nat)
  | ownerTable (ring : Nat)
  | guardTable (ring : Nat)
  | hurdleTable (ring : Nat)
  | stopGraph (ring : Nat)
  | nudge (ring : Nat)
  | ringEnable (side : Bool) (ring : Nat) (value : Word)
  | ownerUpdateRecord (word3 : Word)
  | bar2Write (offset : Nat) (data : BarData)
  | bar2WriteRelease
  | bar2Read (offset len : Nat)
  -- registers (R550, R553, R80, R585, R556)
  | registerWrite (who : Requester) (offset : Nat) (value : RegData)
  | fwFlagsWrite (value : Word)
  | lapNumLoRead
  | measDataRead
  | indDataRead (who : Requester) (r : Nat)
  | indDataWrite (who : Requester) (r : Nat) (value : Word)
  | indTimeout (who : Requester) (r : Nat) (write : Bool)
  | flr
  | atsInvalidation (addr len : Nat)
  -- the Drivezar link (R453 to R473, R592)
  | writeOwner (s : Segment)
  | writeExchange (s : Segment)
  | writeResend (s : Segment)
  | readOwner (s : Segment)
  | readReply (s : Segment)
  | ledger (s : Segment)
  | signalFlit (s : Segment) (name : Word)
  | confirm (w : BitVec 256)
  | confirmTimeout
  | offer (w : BitVec 256)
  | decline (w : BitVec 256)
  | noRoute (w : BitVec 256)
  | probe (w : BitVec 256) (turnaroundPs : Nat)
  | probeReply (w : BitVec 256) (nowPs : Nat)
  | probeInterval (nowPs : Nat)
  | marker (port : Nat) (m : Marker)
  | grandmasterTakeover
  | lapRefEdge (offsetPs : Int)
  | lapRefHoldover
  | echo (port roundTripPs turnaroundPs : Nat)
  | nak (port ack : Nat)
  | laneFailure (port lane : Nat)
  | retrainComplete (port lanesGood : Nat)
  | dzlPortEnable (port : Nat) (enable : Bool)
  | retrain (port : Nat)
  | trainingComplete (port lanesGood farId farPort delayPs : Nat)
  | trainingTimeout (port : Nat)
  -- faults and containment (R502, R522, R503, R505, R291, R519, R24, R40)
  | livenessPoll (u : PolledUnit) (answered : Bool)
  | heartbeatMiss (u : PolledUnit)
  | errqPop (q : QueueId)
  | selfTestComplete (c : Nat) (failing : Option Nat)
  | deadboltCmd (value : Word)
  | deadboltCutComplete
  | partRegionReset (value : Word)
  | regionResetComplete (r : Nat) (passed : Bool)
  | bridgeFailed (b : Nat)
  | bridgeEnable (value : Word)
  -- pins and sensors (R606, R98, R590)
  | sensorSample (r i : Nat) (degrees : Int)
  | shedNChange (high : Bool)
  | paceReqChange (level : Nat)
  -- snapshots and the trackside recorder (R526 to R545)
  | snapshotRequest (value : Word)
  | restore (value : Word)
  | push (value : Word)
  | flashDrainComplete (slot : Nat) (ok : Bool)
  | streamsLoad (value : Word)
  | trigger
  | tracksideFreeze
  | release
  | exportImage
  | importImage
  -- power, boot and service (R566 to R575, R584)
  | powerGoodRise
  | powerGoodFall
  | perstN (high : Bool)
  | firmwareVerified (slotB : Bool) (romOk : Bool)
  | listTimeout
  | service (value : Word)
  -- the sideband port (R580 to R583)
  | regRead (offset count tag : Nat)
  | errqRead (q : QueueId) (tag : Nat)
  | deadbolt (kind unit tag : Nat)
  | regionReset (r tag : Nat)
  | syncDump (start : Bool) (tag : Nat)
  | trkTrigger (tag : Nat)
  | listPut (entries : List (BitVec 64)) (tag : Nat)
  | listDone (tag : Nat)
  | notifyAck
  | notifyResend
  | debugNonce (tag : Nat)
  | debugUnlock (token : Bytes) (tag : Nat)
  | ownerEnroll (digest : BitVec 256) (tag : Nat)
  | indRead (r target offset count tag : Nat)
  | setEndpointId (eid : Nat)
  -- SPDM (R578)
  | getVersion (t : Transport)
  | getCapabilities (t : Transport) (req : Bytes)
  | negotiateAlgorithms (t : Transport) (req : Bytes)
  | getDigests (t : Transport)
  | getCertificate (t : Transport) (slot offset len : Nat)
  | challenge (t : Transport) (req : Bytes)
  | getMeasurements (t : Transport) (req : Bytes)
  -- rows that stand at the table's end
  | builtInTestComplete (failed : List (Nat × Nat)) (regionsFailed : List Nat)
  | flitCrcFailure (port : BadFlit)
  | idle (port ack : Nat)
  | forward (r : Nat) (f : Flit)
  | streamResponse (u m : Nat)
  | flashPortReady (port width rate : Nat)
  deriving DecidableEq, Repr

end Sys2Proof
end

