-- ==== Sys2Proof/Decode.lean ====
section
/-! DEFINITION. The words that spell commands. The command table of this block gives no row any bits, so no word spells a
command (log entry 40). -/

namespace Sys2Proof

/-- The command that a word spells by the table's bits: none, since no row gives bits. -/
def decodeTableWord (_nbits _w : Nat) : Option Instr := none

end Sys2Proof
end

