-- ==== Sys2Proof/Config.lean ====
section
/-! DEFINITION. What the manual leaves open, as constants with no body: nothing can evaluate them or prove a value of
them (assumption 3). -/

namespace Sys2Proof.Config

/-- FREE VALUE. The n-th value the manual leaves open at a point where it names no operand it depends on: an arrival
time within a lap (R538), a nonce (R579). -/
opaque freeNat : Nat → Nat

/-- FREE VALUE. SHAKE256 with 256 bits of output over the bytes absorbed in order (R541, R562, R577): the manual names
the function and does not define it. -/
opaque shake256 : List Byte → BitVec 256

/-- FREE VALUE. Whether a Falcon-1024 signature verifies: key, message, signature (R562, R570, R579). -/
opaque falconVerify : List Byte → List Byte → List Byte → Bool

/-- FREE VALUE. Genlon's root public key, which boot ROM holds (R570). -/
opaque genlonRootKey : List Byte

/-- FREE VALUE. The public key of the DeviceID key pair derived from the fused seed (R576). -/
opaque deviceIdKey : BitVec 256 → List Byte

/-- FREE VALUE. The Falcon-1024 signature the alias key makes over a message: seed, M1, M2, M5, message (R576, R578). -/
opaque aliasSign : BitVec 256 → BitVec 256 → BitVec 256 → BitVec 256 → List Byte → List Byte

/-- FREE VALUE. The alias public key: seed, M1, M2, M5 (R576). -/
opaque aliasKey : BitVec 256 → BitVec 256 → BitVec 256 → BitVec 256 → List Byte

/-- FREE VALUE. The body of the alias certificate, DER, over the alias public key (R576, R578). -/
opaque certBody : List Byte → List Byte

/-- FREE VALUE. The Falcon-1024 signature the DeviceID key makes over a message: seed, message (R576). -/
opaque deviceSign : BitVec 256 → List Byte → List Byte

/-- FREE VALUE. SHA3-256 of a message (R578). -/
opaque sha3 : List Byte → BitVec 256

/-- FREE VALUE. The ROM contents' digest, M1 (R577): fixed per stepping. -/
opaque romDigest : BitVec 256

/-- FREE VALUE. The factory image in fuse ROM as records of R563, and whether its own CRC holds (R564). -/
opaque factoryImage : List (BitVec 64)

/-- FREE VALUE. Whether the factory image passes its own check (R564). -/
opaque factoryImageOk : Bool

/-- FREE VALUE. Training and lane state of PHY and SerDes targets (R557): region, target, word. -/
opaque phyWord : Nat → Nat → Nat → Word

/-- FREE VALUE. The registers of a flash root port (R557, targets FLASH0 and FLASH1): region, target, word. -/
opaque flashWord : Nat → Nat → Nat → Word

/-- FREE VALUE. Whether a part of the given grade code holds region r, for another part named by its ID (R305): the
part does not hold other parts' grades. -/
opaque partHasRegion : Nat → Nat → Bool

/-- FREE VALUE. A correctly rounded result that the enclosures of Machine/Special.lean do not settle at their last
precision (assumption 20): function, input. -/
opaque specialTie : Nat → Nat → Nat

/-- FREE VALUE. A byte of the scale field of an MX record above its last block (R177, R255): target code, byte of the field. -/
opaque mxScaleRest : Nat → Nat → Byte

/-- FREE VALUE. The exchange ID firmware gives to a rendezvous key and slot between a sender and a receiver (R66, R90):
key, slot, sender, receiver. -/
opaque exchangeId : Nat → Nat → Nat → Nat → Nat

/-- FREE VALUE. How much at most of what a core has counted the counter of one engine takes (R103): draw, engine number. -/
opaque energyShare : Nat → Nat → Nat

/-- FREE VALUE. Flits that a DZL port's transmit queue holds (R331): the manual gives no capacity. -/
opaque txQueueFlits : Nat

/-- FREE VALUE. Genlon's PCIe vendor ID, which the manual names and gives no number for (R477). -/
opaque vendorId : BitVec 16

/-- FREE VALUE. The revision ID of this stepping (R477). -/
opaque revisionId : BitVec 8

/-- FREE VALUE. Size of the page in which the host translates an address, as the base-2 logarithm above 12 (R485): host address. -/
opaque atsPageLog : Nat → Nat

/-- FREE VALUE. Sub-unit code in the DETAIL of BLOCK_CHECK, which the manual names and gives no values for (R507): number of the
sub-unit in the order of R507. -/
opaque subUnitCode : Nat → Nat

/-- FREE VALUE. The bytes of an SPDM response, ahead of its content, that the manual gives no layout for (R578): request code, request bytes. -/
opaque spdmBody : Nat → List Byte → List Byte

/-- FREE VALUE. Images of one slot's size that namespace 1 of a snapshot flash port holds (R533): it hangs on the device. -/
opaque flashImages : Nat

end Sys2Proof.Config
end

