-- ==== Sys2Proof/Machine/Tab.lean ====
section
/-! DEFINITION. Sparse tables and byte memories in their one canonical form (assumption 2): keys strictly rising, no entry
equal to what an unlisted key reads as. -/

namespace Sys2Proof.Machine

/-- The entry at a key; d is what an unlisted key reads as. -/
def tabGet {α : Type} (d : α) : Tab α → Nat → α
  | [], _ => d
  | (k', v) :: t, k => if k' = k then v else tabGet d t k

/-- A table without the entry of a key. -/
def tabDel {α : Type} : Tab α → Nat → Tab α
  | [], _ => []
  | (k', v') :: t, k => if k' = k then tabDel t k else (k', v') :: tabDel t k

/-- Insert an entry before the first larger key. -/
def tabIns {α : Type} : Tab α → Nat → α → Tab α
  | [], k, v => [(k, v)]
  | (k', v') :: t, k, v => if k' < k then (k', v') :: tabIns t k v else (k, v) :: (k', v') :: t

/-- Write one entry, keeping the canonical form: writing what an unlisted key reads as removes the entry. -/
def tabSet {α : Type} [DecidableEq α] (d : α) (t : Tab α) (k : Nat) (v : α) : Tab α :=
  if v = d then tabDel t k else tabIns (tabDel t k) k v

/-- Change one entry by a function of what it held. -/
def tabUpd {α : Type} [DecidableEq α] (d : α) (t : Tab α) (k : Nat) (f : α → α) : Tab α :=
  tabSet d t k (f (tabGet d t k))

/-- Every key of the table lies above k and no entry equals d. -/
def tabWfFrom {α : Type} [DecidableEq α] (d : α) : Nat → Tab α → Bool
  | _, [] => true
  | lo, (k, v) :: t => decide (lo ≤ k) && decide (v ≠ d) && tabWfFrom d (k + 1) t

/-- The canonical form of a table. -/
def tabWf {α : Type} [DecidableEq α] (d : α) (t : Tab α) : Bool := tabWfFrom d 0 t

/-- The canonical form of a byte memory. -/
abbrev Memory.wf (m : Mem) : Bool := tabWf (0 : Byte) m

/-- One byte; an unlisted address reads 0 (assumption 2). -/
def memGet (m : Mem) (a : Nat) : Byte := tabGet (0 : Byte) m a

/-- Write one byte. -/
def memSet (m : Mem) (a : Nat) (b : Byte) : Mem := tabSet (0 : Byte) m a b

/-- n bytes from address a, lowest address first. -/
def memRead (m : Mem) : Nat → Nat → Bytes
  | _, 0 => []
  | a, n + 1 => memGet m a :: memRead m (a + 1) n

/-- Write bytes from address a upwards. -/
def memWrite (m : Mem) : Nat → Bytes → Mem
  | _, [] => m
  | a, b :: bs => memWrite (memSet m a b) (a + 1) bs

/-- The numbers lo to lo + n - 1. -/
def rangeFrom : Nat → Nat → List Nat
  | _, 0 => []
  | lo, n + 1 => lo :: rangeFrom (lo + 1) n

/-- Whether a number is in a list. -/
def hasNat (l : List Nat) (k : Nat) : Bool := l.any (fun x => x == k)

/-- Insert into a rising list of numbers without repeats. -/
def insNat : List Nat → Nat → List Nat
  | [], k => [k]
  | x :: t, k => if x < k then x :: insNat t k else if x = k then x :: t else k :: x :: t

/-- Insert by a rank, after entries of the same rank: a stable ordering. -/
def insertBy {α : Type} (le : α → α → Bool) (a : α) : List α → List α
  | [] => [a]
  | x :: t => if le x a then x :: insertBy le a t else a :: x :: t

/-- Stable insertion sort. -/
def sortBy {α : Type} (le : α → α → Bool) (l : List α) : List α := l.foldl (fun acc a => insertBy le a acc) []

end Sys2Proof.Machine
end

