-- ==== Sys2Proof/Machine/Bits.lean ====
section
/-! DEFINITION. Bit fields, byte order, two's complement and the CRC-32C check word (R8, R67, R84). -/

namespace Sys2Proof.Machine

/-- Bits [lo + n - 1 : lo] of a word (R8). -/
def nbits (w lo n : Nat) : Nat := w / 2 ^ lo % 2 ^ n

/-- Bit i of a word. -/
def nbit (w i : Nat) : Bool := w / 2 ^ i % 2 == 1

/-- 1 for true. -/
def b2n (b : Bool) : Nat := if b then 1 else 0

/-- Replace bits [lo + n - 1 : lo] of a word. -/
def putBits (w lo n v : Nat) : Nat := w / 2 ^ (lo + n) * 2 ^ (lo + n) + v % 2 ^ n * 2 ^ lo + w % 2 ^ lo

/-- The low n bits as a two's-complement number. -/
def toSigned (n w : Nat) : Int :=
  let v := w % 2 ^ n
  if v < 2 ^ (n - 1) then (v : Int) else (v : Int) - ((2 ^ n : Nat) : Int)

/-- An integer modulo 2^n. -/
def ofSigned (n : Nat) (x : Int) : Nat := (x % ((2 ^ n : Nat) : Int)).toNat

/-- Little-endian bytes as a number (R8). -/
def leNat : Bytes → Nat
  | [] => 0
  | b :: t => b.toNat + 256 * leNat t

/-- A number as n little-endian bytes (R8). -/
def natLe : Nat → Nat → Bytes
  | 0, _ => []
  | n + 1, v => BitVec.ofNat 8 v :: natLe n (v / 256)

/-- Saturating increment by k. -/
def satAdd (width v k : Nat) : Nat := min (v + k) (2 ^ width - 1)

/-- Number of bits of a number: 0 for 0. -/
def bitLen (n : Nat) : Nat := if n = 0 then 0 else Nat.log2 n + 1

/-- Integer division rounded up. -/
def ceilDiv (a b : Nat) : Nat := (a + b - 1) / b

def crcStep : Nat → Nat → Nat
  | 0, c => c
  | n + 1, c => crcStep n (if c % 2 = 1 then Nat.xor (c / 2) 0x82F63B78 else c / 2)

def crcBytes (c : Nat) (bs : Bytes) : Nat := bs.foldl (fun c b => crcStep 8 (Nat.xor c b.toNat)) c

/-- CRC-32C: the reflected Castagnoli polynomial, initial value and final exclusive-or all ones (PRESUMED, assumption 4:
the manual names the code and does not write it out). -/
def crc32c (bs : Bytes) : Nat := Nat.xor (crcBytes 0xFFFF_FFFF bs) 0xFFFF_FFFF

/-- Whether the last 32 bits of an n-byte record hold the CRC-32C of the bytes before them. -/
def crcOk (n w : Nat) : Bool := crc32c (natLe (n - 4) w) == nbits w (8 * (n - 4)) 32

/-- Put the CRC-32C of the bytes before it in the last 32 bits of an n-byte record. -/
def crcSeal (n w : Nat) : Nat :=
  let body := w % 2 ^ (8 * (n - 4))
  body + crc32c (natLe (n - 4) body) * 2 ^ (8 * (n - 4))

/-- Index of the lowest 1 bit among bits lo to lo + n - 1. -/
def lowestBit (w : Nat) : Nat → Nat → Option Nat
  | _, 0 => none
  | lo, n + 1 => if nbit w lo then some lo else lowestBit w (lo + 1) n

end Sys2Proof.Machine
end

