-- ==== Sys2Proof/Machine/RegTable.lean ====
section
/-! DEFINITION. The register fields of the part, one row per field of the register tables of spec/ (R549 and the
tables it gathers: R40, R78 to R83, R111 to R113, R150 to R153, R170, R194 to R197, R224, R225, R249, R250, R292 to
R295, R315, R341 to R343, R363 to R365, R382, R392, R406, R446, R474, R500, R520 to R522, R545, R555, R559 to R561,
R585, R606). Offsets are bytes within the unit's space (R546, R549); SE_ and DZL_ offsets are those of their indirect
target (R557). -/

namespace Sys2Proof.Machine

/-- The register spaces of R546, and the two indirect targets that hold registers (R557). -/
inductive Space
  | host | part | rgn | blk | core | se | dzl
  deriving DecidableEq, Repr

/-- Access codes (R10). -/
inductive Access
  | rw | ro | wo | w1c | mw
  deriving DecidableEq, Repr

/-- Field kinds (R14). -/
inductive Kind
  | free | lapApplied | heldRunning | none
  deriving DecidableEq, Repr

/-- Which index register selects the copy that an access reaches: none, or that of the group. -/
inductive Sel
  | one | bridge | cap | dma | sb | route | port | ring
  deriving DecidableEq, Repr

/-- One field of one register. -/
structure Fld where
  space : Space
  off : Nat
  lo : Nat
  width : Nat
  access : Access
  reset : Nat
  kind : Kind
  voted : Bool
  sel : Sel
  deriving DecidableEq, Repr

def fHOST_DB_BASE_LO_BASE_LO : Fld := ⟨.host, 0, 12, 20, .rw, 0, .heldRunning, false, .one⟩
def fHOST_DB_BASE_HI_BASE_HI : Fld := ⟨.host, 4, 0, 19, .rw, 0, .heldRunning, false, .one⟩
def fHOST_IDX_BASE_LO_BASE_LO : Fld := ⟨.host, 8, 12, 20, .rw, 0, .heldRunning, false, .one⟩
def fHOST_IDX_BASE_HI_BASE_HI : Fld := ⟨.host, 0xc, 0, 19, .rw, 0, .heldRunning, false, .one⟩
def fHOST_RING_IDX_RING : Fld := ⟨.host, 0x10, 0, 10, .rw, 0, .free, false, .one⟩
def fHOST_RING_IDX_SIDE : Fld := ⟨.host, 0x10, 10, 1, .rw, 0, .free, false, .one⟩
def fHOST_RING_BASE_LO_BASE_LO : Fld := ⟨.host, 0x14, 12, 20, .rw, 0, .heldRunning, false, .ring⟩
def fHOST_RING_BASE_HI_BASE_HI : Fld := ⟨.host, 0x18, 0, 19, .rw, 0, .heldRunning, false, .ring⟩
def fHOST_RING_CFG_SIZE_LOG2 : Fld := ⟨.host, 0x1c, 0, 4, .rw, 4, .heldRunning, false, .ring⟩
def fHOST_RING_CFG_ENABLE : Fld := ⟨.host, 0x1c, 4, 1, .rw, 0, .free, false, .ring⟩
def fHOST_RING_CFG_TYPE : Fld := ⟨.host, 0x1c, 5, 2, .rw, 0, .heldRunning, false, .ring⟩
def fHOST_RING_CFG_IRQ_EN : Fld := ⟨.host, 0x1c, 7, 1, .rw, 0, .free, false, .ring⟩
def fHOST_RING_STATUS_INDEX : Fld := ⟨.host, 0x20, 0, 16, .ro, 0, .none, false, .ring⟩
def fHOST_RING_STATUS_WRITE_REJECTED : Fld := ⟨.host, 0x20, 16, 1, .w1c, 0, .none, false, .ring⟩
def fHOST_RING_STATUS_FAULT : Fld := ⟨.host, 0x20, 17, 1, .w1c, 0, .none, false, .ring⟩
def fHOST_RING_STATUS_BAD_ENTRY : Fld := ⟨.host, 0x20, 18, 1, .w1c, 0, .none, false, .ring⟩
def fHOST_RING_STATUS_LOST : Fld := ⟨.host, 0x20, 24, 8, .ro, 0, .none, false, .ring⟩
def fHOST_NUDGE_RING : Fld := ⟨.host, 0x24, 0, 10, .wo, 0, .free, false, .one⟩
def fHOST_BAR2_CFG_WINDOW : Fld := ⟨.host, 0x28, 0, 4, .rw, 0, .lapApplied, false, .one⟩
def fHOST_BAR2_CFG_HOST_FRAMES : Fld := ⟨.host, 0x28, 8, 16, .rw, 0x100, .lapApplied, false, .one⟩
def fHOST_BAR_STATUS_DROPPED : Fld := ⟨.host, 0x2c, 0, 16, .ro, 0, .none, false, .one⟩
def fHOST_BAR_STATUS_ONES_READS : Fld := ⟨.host, 0x2c, 16, 15, .ro, 0, .none, false, .one⟩
def fHOST_BAR_STATUS_WRITE_REJECTED : Fld := ⟨.host, 0x2c, 31, 1, .w1c, 0, .none, false, .one⟩
def fPART_STATUS_CFG_FALLBACK : Fld := ⟨.part, 0, 0, 1, .ro, 0, .none, false, .one⟩
def fPART_STATUS_CFG_REASON : Fld := ⟨.part, 0, 1, 3, .ro, 0, .none, false, .one⟩
def fPART_STATUS_MANAGER : Fld := ⟨.part, 0, 5, 3, .ro, 0, .none, false, .one⟩
def fPART_STATUS_VOTE_FIXES : Fld := ⟨.part, 0, 8, 8, .ro, 0, .none, false, .one⟩
def fPART_STATUS_CFG_RECORD : Fld := ⟨.part, 0, 16, 13, .ro, 0, .none, false, .one⟩
def fPART_STATUS_WRITE_REJECTED : Fld := ⟨.part, 0, 29, 1, .w1c, 0, .none, false, .one⟩
def fPART_ID_ID : Fld := ⟨.part, 4, 0, 17, .rw, 0, .heldRunning, true, .one⟩
def fPART_FW_FLAGS_FLAGS : Fld := ⟨.part, 8, 0, 16, .mw, 0, .free, false, .one⟩
def fPART_CAP_IDX_INDEX : Fld := ⟨.part, 0xc, 0, 10, .rw, 0, .free, false, .one⟩
def fPART_CAP_ENTRY_UNITS : Fld := ⟨.part, 0x10, 0, 16, .ro, 0, .none, false, .cap⟩
def fPART_CAP_ENTRY_ENABLED : Fld := ⟨.part, 0x10, 16, 1, .ro, 0, .none, false, .cap⟩
def fPART_CAP_ENTRY_SCAN_FUSED : Fld := ⟨.part, 0x10, 17, 1, .ro, 0, .none, false, .cap⟩
def fPART_CAP_ENTRY_QUARANTINED : Fld := ⟨.part, 0x10, 18, 1, .ro, 0, .none, false, .cap⟩
def fPART_CAP_ENTRY_DEADBOLTED : Fld := ⟨.part, 0x10, 19, 1, .ro, 0, .none, false, .cap⟩
def fPART_CAP_ENTRY_OOS_UNITS : Fld := ⟨.part, 0x10, 21, 7, .rw, 0, .heldRunning, true, .cap⟩
def fPART_LAP_CFG_PERIOD_US : Fld := ⟨.part, 0x100, 0, 11, .rw, 0x64, .heldRunning, true, .one⟩
def fPART_LAP_CFG_COMMIT_WIN : Fld := ⟨.part, 0x100, 16, 8, .rw, 0x10, .heldRunning, true, .one⟩
def fPART_LAP_CFG_GRANDMASTER : Fld := ⟨.part, 0x100, 24, 1, .rw, 0, .heldRunning, true, .one⟩
def fPART_LAP_STATUS_IN_SERVICE : Fld := ⟨.part, 0x104, 0, 1, .ro, 0, .none, false, .one⟩
def fPART_LAP_STATUS_HOLDOVER : Fld := ⟨.part, 0x104, 1, 1, .ro, 0, .none, false, .one⟩
def fPART_LAP_STATUS_PERIOD_MISMATCH : Fld := ⟨.part, 0x104, 2, 1, .w1c, 0, .none, false, .one⟩
def fPART_LAP_STATUS_WRITE_REJECTED : Fld := ⟨.part, 0x104, 3, 1, .w1c, 0, .none, false, .one⟩
def fPART_LAP_STATUS_VOTE_FIXES : Fld := ⟨.part, 0x104, 8, 8, .ro, 0, .none, false, .one⟩
def fPART_LAP_STATUS_LATE_VOTES : Fld := ⟨.part, 0x104, 16, 16, .ro, 0, .none, false, .one⟩
def fPART_LAP_NUM_LO_LAP_LO : Fld := ⟨.part, 0x108, 0, 32, .ro, 0, .none, false, .one⟩
def fPART_LAP_NUM_HI_LAP_HI : Fld := ⟨.part, 0x10c, 0, 16, .ro, 0, .none, false, .one⟩
def fPART_LAP_BACKUP_RANK : Fld := ⟨.part, 0x110, 0, 4, .rw, 0, .heldRunning, true, .one⟩
def fPART_LAP_BACKUP_ACTIVE_GM : Fld := ⟨.part, 0x110, 4, 1, .ro, 0, .none, false, .one⟩
def fPART_LAP_BACKUP_DEPTH : Fld := ⟨.part, 0x110, 5, 5, .ro, 0, .none, false, .one⟩
def fPART_LAP_BACKUP_DEPTH_EXCEEDED : Fld := ⟨.part, 0x110, 10, 1, .w1c, 0, .none, false, .one⟩
def fPART_LAP_BACKUP_WRITE_REJECTED : Fld := ⟨.part, 0x110, 11, 1, .w1c, 0, .none, false, .one⟩
def fPART_PACER_CFG_MARGIN_PCT : Fld := ⟨.part, 0x200, 0, 8, .rw, 5, .lapApplied, true, .one⟩
def fPART_PACER_CFG_SLEW_PCT : Fld := ⟨.part, 0x200, 8, 8, .rw, 0xa, .lapApplied, true, .one⟩
def fPART_PACER_CFG_THERM_GUARD_C : Fld := ⟨.part, 0x200, 16, 4, .rw, 3, .lapApplied, true, .one⟩
def fPART_PACER_CFG_SPEC_ENABLE : Fld := ⟨.part, 0x200, 20, 1, .rw, 1, .lapApplied, true, .one⟩
def fPART_PACER_CFG_PEAK_ENABLE : Fld := ⟨.part, 0x200, 21, 1, .rw, 1, .lapApplied, true, .one⟩
def fPART_PACER_CFG_PLAN_LEAD_US : Fld := ⟨.part, 0x200, 22, 10, .rw, 0xa, .heldRunning, true, .one⟩
def fPART_PACER_STATUS_PACE_REQ : Fld := ⟨.part, 0x204, 0, 2, .ro, 0, .none, false, .one⟩
def fPART_PACER_STATUS_SHED : Fld := ⟨.part, 0x204, 2, 1, .ro, 0, .none, false, .one⟩
def fPART_PACER_STATUS_PEAK_LAP : Fld := ⟨.part, 0x204, 3, 1, .ro, 0, .none, false, .one⟩
def fPART_PACER_STATUS_BUDGET_SHORT : Fld := ⟨.part, 0x204, 4, 1, .w1c, 0, .none, false, .one⟩
def fPART_PACER_STATUS_WRITE_REJECTED : Fld := ⟨.part, 0x204, 5, 1, .w1c, 0, .none, false, .one⟩
def fPART_PACER_STATUS_VOTE_FIXES : Fld := ⟨.part, 0x204, 8, 8, .ro, 0, .none, false, .one⟩
def fPART_PACER_STATUS_DEFERRED : Fld := ⟨.part, 0x204, 16, 16, .ro, 0, .none, false, .one⟩
def fPART_PACER_BUDGET_E_BUDGET : Fld := ⟨.part, 0x208, 0, 32, .ro, 0, .none, false, .one⟩
def fPART_PACER_LOG_CFG_SIZE_MIB : Fld := ⟨.part, 0x20c, 0, 8, .rw, 0x40, .heldRunning, true, .one⟩
def fPART_PACER_LOG_HEAD_HEAD : Fld := ⟨.part, 0x210, 0, 28, .ro, 0, .none, false, .one⟩
def fPART_OFFLOAD_CFG_OUT_MIB : Fld := ⟨.part, 0x300, 0, 8, .rw, 8, .lapApplied, false, .one⟩
def fPART_OFFLOAD_CFG_IN_MIB : Fld := ⟨.part, 0x300, 8, 8, .rw, 8, .lapApplied, false, .one⟩
def fPART_OFFLOAD_STATUS_OUT_LAST : Fld := ⟨.part, 0x304, 0, 8, .ro, 0, .none, false, .one⟩
def fPART_OFFLOAD_STATUS_IN_LAST : Fld := ⟨.part, 0x304, 8, 8, .ro, 0, .none, false, .one⟩
def fPART_OFFLOAD_STATUS_WRITE_REJECTED : Fld := ⟨.part, 0x304, 16, 1, .w1c, 0, .none, false, .one⟩
def fPART_LEDGER_CFG_ENABLE : Fld := ⟨.part, 0x400, 0, 1, .rw, 0, .free, false, .one⟩
def fPART_LEDGER_CFG_EXCHANGE : Fld := ⟨.part, 0x400, 1, 1, .rw, 0, .lapApplied, false, .one⟩
def fPART_LEDGER_CFG_RING_LOG2 : Fld := ⟨.part, 0x400, 2, 4, .rw, 8, .heldRunning, false, .one⟩
def fPART_LEDGER_COLLECTOR_PART : Fld := ⟨.part, 0x404, 0, 17, .rw, 0, .lapApplied, false, .one⟩
def fPART_LEDGER_COLLECTOR_COLLECT : Fld := ⟨.part, 0x404, 17, 1, .rw, 0, .lapApplied, false, .one⟩
def fPART_LEDGER_RING_LO_BASE_LO : Fld := ⟨.part, 0x408, 10, 22, .rw, 0, .heldRunning, false, .one⟩
def fPART_LEDGER_RING_HI_BASE_HI : Fld := ⟨.part, 0x40c, 0, 20, .rw, 0, .heldRunning, false, .one⟩
def fPART_LEDGER_HEAD_HEAD : Fld := ⟨.part, 0x410, 0, 32, .ro, 0, .none, false, .one⟩
def fPART_LEDGER_TAIL_TAIL : Fld := ⟨.part, 0x414, 0, 32, .rw, 0, .free, false, .one⟩
def fPART_LEDGER_STATUS_DROPS : Fld := ⟨.part, 0x418, 0, 16, .ro, 0, .none, false, .one⟩
def fPART_LEDGER_STATUS_RING_ERROR : Fld := ⟨.part, 0x418, 16, 1, .w1c, 0, .none, false, .one⟩
def fPART_LEDGER_STATUS_WRITE_REJECTED : Fld := ⟨.part, 0x418, 17, 1, .w1c, 0, .none, false, .one⟩
def fPART_OWN_UPD0_DATA : Fld := ⟨.part, 0x500, 0, 32, .wo, 0, .free, false, .one⟩
def fPART_OWN_UPD1_DATA : Fld := ⟨.part, 0x504, 0, 32, .wo, 0, .free, false, .one⟩
def fPART_OWN_UPD2_DATA : Fld := ⟨.part, 0x508, 0, 32, .wo, 0, .free, false, .one⟩
def fPART_OWN_UPD3_DATA : Fld := ⟨.part, 0x50c, 0, 32, .wo, 0, .free, false, .one⟩
def fPART_OWN_STATUS_PENDING : Fld := ⟨.part, 0x510, 0, 13, .ro, 0, .none, false, .one⟩
def fPART_OWN_STATUS_LATE : Fld := ⟨.part, 0x510, 13, 1, .w1c, 0, .none, false, .one⟩
def fPART_OWN_STATUS_QUEUE_FULL : Fld := ⟨.part, 0x510, 14, 1, .w1c, 0, .none, false, .one⟩
def fPART_OWN_STATUS_BAD_RECORD : Fld := ⟨.part, 0x510, 15, 1, .w1c, 0, .none, false, .one⟩
def fPART_OWN_STATUS_TABLES : Fld := ⟨.part, 0x510, 16, 8, .ro, 0, .none, false, .one⟩
def fPART_SYNC_DUMP_CTRL_START : Fld := ⟨.part, 0x600, 0, 1, .wo, 0, .free, false, .one⟩
def fPART_SYNC_DUMP_CTRL_CANCEL : Fld := ⟨.part, 0x600, 1, 1, .wo, 0, .free, false, .one⟩
def fPART_SYNC_DUMP_STATUS_BUSY : Fld := ⟨.part, 0x604, 0, 1, .ro, 0, .none, false, .one⟩
def fPART_SYNC_DUMP_STATUS_DONE : Fld := ⟨.part, 0x604, 1, 1, .w1c, 0, .none, false, .one⟩
def fPART_SYNC_DUMP_DATA_DATA : Fld := ⟨.part, 0x608, 0, 32, .ro, 0, .none, false, .one⟩
def fPART_DEADBOLT_CMD_KIND : Fld := ⟨.part, 0x700, 0, 4, .wo, 0, .free, false, .one⟩
def fPART_DEADBOLT_CMD_UNIT : Fld := ⟨.part, 0x700, 4, 12, .wo, 0, .free, false, .one⟩
def fPART_DEADBOLT_STATUS_BUSY : Fld := ⟨.part, 0x704, 0, 1, .ro, 0, .none, false, .one⟩
def fPART_DEADBOLT_STATUS_DONE : Fld := ⟨.part, 0x704, 1, 1, .w1c, 0, .none, false, .one⟩
def fPART_DEADBOLT_STATUS_REJECTED : Fld := ⟨.part, 0x704, 2, 1, .w1c, 0, .none, false, .one⟩
def fPART_DEADBOLT_STATUS_CORES : Fld := ⟨.part, 0x704, 8, 10, .ro, 0, .none, false, .one⟩
def fPART_DEADBOLT_STATUS_BLOCKS : Fld := ⟨.part, 0x704, 18, 7, .ro, 0, .none, false, .one⟩
def fPART_DEADBOLT_STATUS_REGIONS : Fld := ⟨.part, 0x704, 25, 4, .ro, 0, .none, false, .one⟩
def fPART_REGION_RESET_REGION : Fld := ⟨.part, 0x708, 0, 3, .wo, 0, .free, false, .one⟩
def fPART_REGION_RESET_GO : Fld := ⟨.part, 0x708, 3, 1, .wo, 0, .free, false, .one⟩
def fPART_ERRQ_REC_DATA (i : Nat) : Fld := ⟨.part, 0x800 + 4 * i, 0, 32, .ro, 0, .none, false, .one⟩
def fPART_ERRQ_STATUS_COUNT : Fld := ⟨.part, 0x820, 0, 4, .ro, 0, .none, false, .one⟩
def fPART_ERRQ_STATUS_HANDLING : Fld := ⟨.part, 0x820, 4, 1, .ro, 0, .none, false, .one⟩
def fPART_ERRQ_STATUS_ESCALATED : Fld := ⟨.part, 0x820, 5, 1, .w1c, 0, .none, false, .one⟩
def fPART_ERRQ_STATUS_TOTAL : Fld := ⟨.part, 0x820, 16, 16, .ro, 0, .none, false, .one⟩
def fPART_ERRQ_CTRL_POP : Fld := ⟨.part, 0x824, 0, 1, .wo, 0, .free, false, .one⟩
def fPART_SNAP_CFG_RELAY_TABLE : Fld := ⟨.part, 0x900, 0, 8, .rw, 0, .heldRunning, true, .one⟩
def fPART_SNAP_CFG_RELAY_MIB : Fld := ⟨.part, 0x900, 8, 10, .rw, 0x100, .lapApplied, false, .one⟩
def fPART_SNAP_PARTNER_PARTNER : Fld := ⟨.part, 0x904, 0, 17, .rw, 0, .heldRunning, true, .one⟩
def fPART_SNAP_MANIFEST_LO_BASE_LO : Fld := ⟨.part, 0x908, 6, 26, .rw, 0, .heldRunning, false, .one⟩
def fPART_SNAP_MANIFEST_HI_BASE_HI : Fld := ⟨.part, 0x90c, 0, 19, .rw, 0, .heldRunning, false, .one⟩
def fPART_SNAP_REQ_LAP : Fld := ⟨.part, 0x910, 0, 16, .wo, 0, .free, false, .one⟩
def fPART_SNAP_REQ_SNAP : Fld := ⟨.part, 0x910, 16, 1, .wo, 0, .free, false, .one⟩
def fPART_SNAP_REQ_RESTORE : Fld := ⟨.part, 0x910, 17, 1, .wo, 0, .free, false, .one⟩
def fPART_SNAP_REQ_SLOT : Fld := ⟨.part, 0x910, 18, 1, .wo, 0, .free, false, .one⟩
def fPART_SNAP_STATUS_STATE : Fld := ⟨.part, 0x914, 0, 3, .ro, 0, .none, false, .one⟩
def fPART_SNAP_STATUS_SEALED : Fld := ⟨.part, 0x914, 3, 1, .w1c, 0, .none, false, .one⟩
def fPART_SNAP_STATUS_FAILED : Fld := ⟨.part, 0x914, 4, 1, .w1c, 0, .none, false, .one⟩
def fPART_SNAP_STATUS_LATE : Fld := ⟨.part, 0x914, 5, 1, .w1c, 0, .none, false, .one⟩
def fPART_SNAP_STATUS_REFUSED : Fld := ⟨.part, 0x914, 6, 1, .w1c, 0, .none, false, .one⟩
def fPART_SNAP_STATUS_UNPROTECTED : Fld := ⟨.part, 0x914, 7, 1, .ro, 0, .none, false, .one⟩
def fPART_SNAP_STATUS_RESTORED : Fld := ⟨.part, 0x914, 8, 1, .w1c, 0, .none, false, .one⟩
def fPART_SNAP_STATUS_WRITE_REJECTED : Fld := ⟨.part, 0x914, 9, 1, .w1c, 0, .none, false, .one⟩
def fPART_SNAP_SEQ_SEQ : Fld := ⟨.part, 0x918, 0, 32, .ro, 0, .none, false, .one⟩
def fPART_SNAP_LEFT_PAGES : Fld := ⟨.part, 0x91c, 0, 24, .ro, 0, .none, false, .one⟩
def fPART_SNAP_STREAMS_LO_BASE_LO : Fld := ⟨.part, 0x920, 6, 26, .rw, 0, .heldRunning, false, .one⟩
def fPART_SNAP_STREAMS_HI_BASE_HI : Fld := ⟨.part, 0x924, 0, 19, .rw, 0, .heldRunning, false, .one⟩
def fPART_SNAP_STREAMS_CTRL_COUNT : Fld := ⟨.part, 0x928, 0, 17, .wo, 0, .free, false, .one⟩
def fPART_SNAP_STREAMS_CTRL_GO : Fld := ⟨.part, 0x928, 17, 1, .wo, 0, .free, false, .one⟩
def fPART_RELAY_SRC_SOURCE : Fld := ⟨.part, 0xa00, 0, 17, .rw, 0, .heldRunning, true, .one⟩
def fPART_RELAY_SRC_ENABLE : Fld := ⟨.part, 0xa00, 17, 1, .rw, 0, .heldRunning, true, .one⟩
def fPART_RELAY_AREA_FIRST_PAGE : Fld := ⟨.part, 0xa04, 0, 21, .rw, 0, .heldRunning, true, .one⟩
def fPART_RELAY_PAGES_PAGES : Fld := ⟨.part, 0xa08, 0, 22, .rw, 0, .heldRunning, true, .one⟩
def fPART_RELAY_CTRL_PUSH : Fld := ⟨.part, 0xa0c, 0, 1, .wo, 0, .free, false, .one⟩
def fPART_RELAY_CTRL_SLOT : Fld := ⟨.part, 0xa0c, 1, 1, .wo, 0, .free, false, .one⟩
def fPART_RELAY_STATUS_SLOT0 : Fld := ⟨.part, 0xa10, 0, 2, .ro, 0, .none, false, .one⟩
def fPART_RELAY_STATUS_SLOT1 : Fld := ⟨.part, 0xa10, 2, 2, .ro, 0, .none, false, .one⟩
def fPART_RELAY_STATUS_FLASH : Fld := ⟨.part, 0xa10, 4, 2, .ro, 0, .none, false, .one⟩
def fPART_TRK_CFG_WINDOW_LAPS : Fld := ⟨.part, 0xb00, 0, 9, .rw, 0x40, .heldRunning, false, .one⟩
def fPART_TRK_CFG_POST_LAPS : Fld := ⟨.part, 0xb00, 9, 4, .rw, 2, .heldRunning, false, .one⟩
def fPART_TRK_CFG_ENABLE : Fld := ⟨.part, 0xb00, 13, 1, .rw, 0, .free, false, .one⟩
def fPART_TRK_CFG_BENCH : Fld := ⟨.part, 0xb00, 14, 1, .rw, 0, .heldRunning, false, .one⟩
def fPART_TRK_CFG_CLASS_MASK : Fld := ⟨.part, 0xb00, 16, 16, .rw, 0, .lapApplied, false, .one⟩
def fPART_TRK_CTRL_TRIGGER : Fld := ⟨.part, 0xb04, 0, 1, .wo, 0, .free, false, .one⟩
def fPART_TRK_CTRL_RELEASE : Fld := ⟨.part, 0xb04, 1, 1, .wo, 0, .free, false, .one⟩
def fPART_TRK_CTRL_EXPORT : Fld := ⟨.part, 0xb04, 2, 1, .wo, 0, .free, false, .one⟩
def fPART_TRK_CTRL_IMPORT : Fld := ⟨.part, 0xb04, 3, 1, .wo, 0, .free, false, .one⟩
def fPART_TRK_STATUS_STATE : Fld := ⟨.part, 0xb08, 0, 3, .ro, 0, .none, false, .one⟩
def fPART_TRK_STATUS_LAPS_KEPT : Fld := ⟨.part, 0xb08, 3, 9, .ro, 0, .none, false, .one⟩
def fPART_TRK_STATUS_SHORT : Fld := ⟨.part, 0xb08, 12, 1, .w1c, 0, .none, false, .one⟩
def fPART_TRK_STATUS_WRITE_REJECTED : Fld := ⟨.part, 0xb08, 13, 1, .w1c, 0, .none, false, .one⟩
def fPART_TRK_STATUS_TRIGGERS : Fld := ⟨.part, 0xb08, 16, 8, .ro, 0, .none, false, .one⟩
def fPART_TRK_IMG_LO_BASE_LO : Fld := ⟨.part, 0xb0c, 12, 20, .rw, 0, .heldRunning, false, .one⟩
def fPART_TRK_IMG_HI_BASE_HI : Fld := ⟨.part, 0xb10, 0, 19, .rw, 0, .heldRunning, false, .one⟩
def fPART_TRK_IMG_BYTES_LO_BYTES_LO : Fld := ⟨.part, 0xb14, 0, 32, .ro, 0, .none, false, .one⟩
def fPART_TRK_IMG_BYTES_HI_BYTES_HI : Fld := ⟨.part, 0xb18, 0, 12, .ro, 0, .none, false, .one⟩
def fPART_TRK_DIVERGED_LO_LAP_LO : Fld := ⟨.part, 0xb1c, 0, 32, .ro, 0, .none, false, .one⟩
def fPART_TRK_DIVERGED_HI_LAP_HI : Fld := ⟨.part, 0xb20, 0, 16, .ro, 0, .none, false, .one⟩
def fPART_FLASH_STATUS_STATE0 : Fld := ⟨.part, 0xc00, 0, 2, .ro, 0, .none, false, .one⟩
def fPART_FLASH_STATUS_WIDTH0 : Fld := ⟨.part, 0xc00, 2, 3, .ro, 0, .none, false, .one⟩
def fPART_FLASH_STATUS_RATE0 : Fld := ⟨.part, 0xc00, 5, 3, .ro, 0, .none, false, .one⟩
def fPART_FLASH_STATUS_STATE1 : Fld := ⟨.part, 0xc00, 8, 2, .ro, 0, .none, false, .one⟩
def fPART_FLASH_STATUS_WIDTH1 : Fld := ⟨.part, 0xc00, 10, 3, .ro, 0, .none, false, .one⟩
def fPART_FLASH_STATUS_RATE1 : Fld := ⟨.part, 0xc00, 13, 3, .ro, 0, .none, false, .one⟩
def fPART_BRIDGE_IDX_BRIDGE : Fld := ⟨.part, 0xc04, 0, 4, .rw, 0, .free, false, .one⟩
def fPART_BRIDGE_CFG_ENABLE : Fld := ⟨.part, 0xc08, 0, 1, .rw, 1, .free, true, .bridge⟩
def fPART_BRIDGE_STATUS_STATE : Fld := ⟨.part, 0xc0c, 0, 2, .ro, 0, .none, false, .bridge⟩
def fPART_BRIDGE_STATUS_SERVICE_UP : Fld := ⟨.part, 0xc0c, 2, 1, .ro, 0, .none, false, .bridge⟩
def fPART_BRIDGE_STATUS_PART_DEGRADED : Fld := ⟨.part, 0xc0c, 3, 1, .ro, 0, .none, false, .one⟩
def fPART_BRIDGE_STATUS_WRITE_REJECTED : Fld := ⟨.part, 0xc0c, 4, 1, .w1c, 0, .none, false, .one⟩
def fPART_BRIDGE_STATUS_FAILURES : Fld := ⟨.part, 0xc0c, 16, 16, .ro, 0, .none, false, .bridge⟩
def fPART_BOOT_STATUS_PHASE : Fld := ⟨.part, 0xd00, 0, 4, .ro, 0, .none, false, .one⟩
def fPART_BOOT_STATUS_FAIL_REASON : Fld := ⟨.part, 0xd00, 4, 4, .ro, 0, .none, false, .one⟩
def fPART_BOOT_STATUS_SLOT : Fld := ⟨.part, 0xd00, 8, 1, .ro, 0, .none, false, .one⟩
def fPART_BOOT_STATUS_NO_BOARD_LISTS : Fld := ⟨.part, 0xd00, 9, 1, .ro, 0, .none, false, .one⟩
def fPART_BOOT_STATUS_OWNER_ENROLLED : Fld := ⟨.part, 0xd00, 10, 1, .ro, 0, .none, false, .one⟩
def fPART_BOOT_STATUS_DEBUG_LEVEL : Fld := ⟨.part, 0xd00, 11, 2, .ro, 0, .none, false, .one⟩
def fPART_BOOT_STATUS_WRITE_REJECTED : Fld := ⟨.part, 0xd00, 13, 1, .w1c, 0, .none, false, .one⟩
def fPART_BOOT_STATUS_ROLLBACK_FLOOR : Fld := ⟨.part, 0xd00, 16, 7, .ro, 0, .none, false, .one⟩
def fPART_BOOT_CTRL_SERVICE : Fld := ⟨.part, 0xd04, 0, 1, .rw, 0, .free, false, .one⟩
def fPART_BOOT_LAP0_LO_LAP_LO : Fld := ⟨.part, 0xd08, 0, 32, .rw, 0, .heldRunning, false, .one⟩
def fPART_BOOT_LAP0_HI_LAP_HI : Fld := ⟨.part, 0xd0c, 0, 16, .rw, 0, .heldRunning, false, .one⟩
def fPART_SERIAL_LO_SERIAL : Fld := ⟨.part, 0xd10, 0, 32, .ro, 0, .none, false, .one⟩
def fPART_SERIAL_HI_SERIAL : Fld := ⟨.part, 0xd14, 0, 32, .ro, 0, .none, false, .one⟩
def fPART_SEC_CFG_DEBUG_ALLOW : Fld := ⟨.part, 0xd18, 0, 1, .rw, 0, .heldRunning, true, .one⟩
def fPART_SEC_CFG_DOE_ATTEST : Fld := ⟨.part, 0xd18, 1, 1, .rw, 1, .heldRunning, true, .one⟩
def fPART_SEC_CFG_MCTP_ATTEST : Fld := ⟨.part, 0xd18, 2, 1, .rw, 1, .heldRunning, true, .one⟩
def fPART_MEAS_IDX_INDEX : Fld := ⟨.part, 0xd1c, 0, 3, .rw, 1, .free, false, .one⟩
def fPART_MEAS_IDX_WORD : Fld := ⟨.part, 0xd1c, 3, 3, .rw, 0, .free, false, .one⟩
def fPART_MEAS_DATA_DATA : Fld := ⟨.part, 0xd20, 0, 32, .ro, 0, .none, false, .one⟩
def fRGN_STATUS_VOTE_FIXES : Fld := ⟨.rgn, 0, 0, 8, .ro, 0, .none, false, .one⟩
def fRGN_STATUS_IN_SERVICE : Fld := ⟨.rgn, 0, 8, 1, .ro, 0, .none, false, .one⟩
def fRGN_STATUS_DEADBOLTED : Fld := ⟨.rgn, 0, 9, 1, .ro, 0, .none, false, .one⟩
def fRGN_STATUS_MANAGER : Fld := ⟨.rgn, 0, 10, 1, .ro, 0, .none, false, .one⟩
def fRGN_IND_ADDR_OFFSET : Fld := ⟨.rgn, 4, 2, 20, .rw, 0, .free, false, .one⟩
def fRGN_IND_ADDR_HOLD : Fld := ⟨.rgn, 4, 22, 1, .rw, 0, .free, false, .one⟩
def fRGN_IND_ADDR_TARGET : Fld := ⟨.rgn, 4, 24, 8, .rw, 0, .free, false, .one⟩
def fRGN_IND_DATA_DATA : Fld := ⟨.rgn, 8, 0, 32, .rw, 0, .free, false, .one⟩
def fRGN_IND_STATUS_BUSY : Fld := ⟨.rgn, 0xc, 0, 1, .ro, 0, .none, false, .one⟩
def fRGN_IND_STATUS_TIMEOUT : Fld := ⟨.rgn, 0xc, 1, 1, .w1c, 0, .none, false, .one⟩
def fRGN_IND_STATUS_REFUSED : Fld := ⟨.rgn, 0xc, 2, 1, .w1c, 0, .none, false, .one⟩
def fRGN_IND_STATUS_BAD_RECORD : Fld := ⟨.rgn, 0xc, 3, 1, .w1c, 0, .none, false, .one⟩
def fRGN_IND_STATUS_REJECTED : Fld := ⟨.rgn, 0xc, 4, 1, .w1c, 0, .none, false, .one⟩
def fRGN_LAP_POOL_CFG_POOL_SIZE : Fld := ⟨.rgn, 0x100, 0, 6, .rw, 8, .heldRunning, true, .one⟩
def fRGN_LAP_POOL_CFG_RESEND_SIZE : Fld := ⟨.rgn, 0x100, 8, 6, .rw, 8, .heldRunning, true, .one⟩
def fRGN_LAP_STATUS_FREE_FRAMES : Fld := ⟨.rgn, 0x104, 0, 19, .ro, 0, .none, false, .one⟩
def fRGN_LAP_STATUS_WRITE_REJECTED : Fld := ⟨.rgn, 0x104, 19, 1, .w1c, 0, .none, false, .one⟩
def fRGN_LAP_STATUS_LL_ZERO_READS : Fld := ⟨.rgn, 0x104, 20, 12, .ro, 0, .none, false, .one⟩
def fRGN_THERM_CFG_THETA : Fld := ⟨.rgn, 0x108, 0, 16, .rw, 0x5a, .heldRunning, true, .one⟩
def fRGN_THERM_CFG_WRITE_REJECTED : Fld := ⟨.rgn, 0x108, 16, 1, .w1c, 0, .none, false, .one⟩
def fRGN_THERM_MODEL_STANDING_W : Fld := ⟨.rgn, 0x10c, 0, 12, .ro, 0, .none, false, .one⟩
def fRGN_THERM_MODEL_LEAK85_W : Fld := ⟨.rgn, 0x10c, 12, 12, .ro, 0, .none, false, .one⟩
def fRGN_HBM_CFG_RETIRE_CE : Fld := ⟨.rgn, 0x200, 0, 8, .rw, 8, .lapApplied, true, .one⟩
def fRGN_HBM_CFG_PC_FAIL_UE : Fld := ⟨.rgn, 0x200, 8, 8, .rw, 0x10, .lapApplied, true, .one⟩
def fRGN_HBM_STATUS_FAILED_PC_A : Fld := ⟨.rgn, 0x204, 0, 6, .ro, 0, .none, false, .one⟩
def fRGN_HBM_STATUS_DEGRADED_A : Fld := ⟨.rgn, 0x204, 6, 1, .ro, 0, .none, false, .one⟩
def fRGN_HBM_STATUS_WORN_A : Fld := ⟨.rgn, 0x204, 7, 1, .ro, 0, .none, false, .one⟩
def fRGN_HBM_STATUS_FAILED_PC_B : Fld := ⟨.rgn, 0x204, 8, 6, .ro, 0, .none, false, .one⟩
def fRGN_HBM_STATUS_DEGRADED_B : Fld := ⟨.rgn, 0x204, 14, 1, .ro, 0, .none, false, .one⟩
def fRGN_HBM_STATUS_WORN_B : Fld := ⟨.rgn, 0x204, 15, 1, .ro, 0, .none, false, .one⟩
def fRGN_HBM_STATUS_RECONSTRUCTS : Fld := ⟨.rgn, 0x204, 16, 12, .ro, 0, .none, false, .one⟩
def fRGN_HBM_STATUS_WRITE_REJECTED : Fld := ⟨.rgn, 0x204, 28, 1, .w1c, 0, .none, false, .one⟩
def fRGN_PT_BASE_FRAME : Fld := ⟨.rgn, 0x208, 0, 21, .rw, 0, .heldRunning, true, .one⟩
def fRGN_PT_STATUS_PENDING : Fld := ⟨.rgn, 0x20c, 0, 13, .ro, 0, .none, false, .one⟩
def fRGN_PT_STATUS_UPDATE_REJECTED : Fld := ⟨.rgn, 0x20c, 13, 1, .w1c, 0, .none, false, .one⟩
def fRGN_PT_STATUS_QUEUE_FULL : Fld := ⟨.rgn, 0x20c, 14, 1, .w1c, 0, .none, false, .one⟩
def fRGN_PT_STATUS_FOLD_BACKLOG : Fld := ⟨.rgn, 0x20c, 16, 16, .ro, 0, .none, false, .one⟩
def fRGN_POOL_FREE_A_FREE : Fld := ⟨.rgn, 0x210, 0, 18, .ro, 0, .none, false, .one⟩
def fRGN_POOL_FREE_B_FREE : Fld := ⟨.rgn, 0x214, 0, 18, .ro, 0, .none, false, .one⟩
def fRGN_DMA_IDX_CHANNEL : Fld := ⟨.rgn, 0x300, 0, 5, .rw, 0, .free, false, .one⟩
def fRGN_DMA_CFG_FW : Fld := ⟨.rgn, 0x304, 3, 1, .rw, 0, .heldRunning, true, .dma⟩
def fRGN_DMA_CFG_RING_LOG2 : Fld := ⟨.rgn, 0x304, 4, 4, .rw, 4, .heldRunning, false, .dma⟩
def fRGN_DMA_CFG_URGENT_OK : Fld := ⟨.rgn, 0x304, 8, 1, .rw, 0, .heldRunning, true, .dma⟩
def fRGN_DMA_CFG_SLOT : Fld := ⟨.rgn, 0x304, 9, 14, .rw, 0, .lapApplied, false, .dma⟩
def fRGN_DMA_RING_LO_BASE_LO : Fld := ⟨.rgn, 0x308, 6, 26, .rw, 0, .heldRunning, false, .dma⟩
def fRGN_DMA_RING_HI_BASE_HI : Fld := ⟨.rgn, 0x30c, 0, 20, .rw, 0, .heldRunning, false, .dma⟩
def fRGN_DMA_TAIL_TAIL : Fld := ⟨.rgn, 0x310, 0, 12, .rw, 0, .free, false, .dma⟩
def fRGN_DMA_STATUS_STATE : Fld := ⟨.rgn, 0x314, 0, 2, .ro, 0, .none, false, .dma⟩
def fRGN_DMA_STATUS_HEAD : Fld := ⟨.rgn, 0x314, 2, 12, .ro, 0, .none, false, .dma⟩
def fRGN_DMA_STATUS_ERR_KIND : Fld := ⟨.rgn, 0x314, 14, 2, .ro, 0, .none, false, .dma⟩
def fRGN_DMA_STATUS_ERR_DIR : Fld := ⟨.rgn, 0x314, 16, 1, .ro, 0, .none, false, .dma⟩
def fRGN_DMA_STATUS_WRITE_REJECTED : Fld := ⟨.rgn, 0x314, 17, 1, .w1c, 0, .none, false, .dma⟩
def fRGN_DMA_ERR_LO_ADDR_LO : Fld := ⟨.rgn, 0x318, 0, 32, .ro, 0, .none, false, .dma⟩
def fRGN_DMA_ERR_HI_ADDR_HI : Fld := ⟨.rgn, 0x31c, 0, 20, .ro, 0, .none, false, .dma⟩
def fRGN_DMA_ERR_HI_SPACE : Fld := ⟨.rgn, 0x31c, 20, 2, .ro, 0, .none, false, .dma⟩
def fRGN_DMA_CTRL_RESUME : Fld := ⟨.rgn, 0x320, 0, 1, .wo, 0, .free, false, .dma⟩
def fRGN_DMA_CTRL_ABORT : Fld := ⟨.rgn, 0x320, 1, 1, .wo, 0, .free, false, .dma⟩
def fRGN_TUM_IDX_INDEX : Fld := ⟨.rgn, 0x400, 0, 10, .rw, 0, .free, false, .one⟩
def fRGN_TUM_REC0_DATA : Fld := ⟨.rgn, 0x404, 0, 32, .ro, 0, .none, false, .one⟩
def fRGN_TUM_REC1_DATA : Fld := ⟨.rgn, 0x408, 0, 32, .ro, 0, .none, false, .one⟩
def fRGN_TUM_SET_VALUE : Fld := ⟨.rgn, 0x40c, 0, 16, .wo, 0, .free, false, .one⟩
def fRGN_DZL_ROUTE_IDX_MEMBER : Fld := ⟨.rgn, 0x500, 0, 15, .rw, 0, .free, false, .one⟩
def fRGN_DZL_ROUTE_ENTRY : Fld := ⟨.rgn, 0x504, 0, 32, .rw, 0, .lapApplied, false, .route⟩
def fRGN_DZL_GW0_MEMBER : Fld := ⟨.rgn, 0x508, 0, 15, .rw, 0, .lapApplied, false, .one⟩
def fRGN_DZL_GW1_MEMBER : Fld := ⟨.rgn, 0x50c, 0, 15, .rw, 0, .lapApplied, false, .one⟩
def fRGN_DZL_GW2_MEMBER : Fld := ⟨.rgn, 0x510, 0, 15, .rw, 0, .lapApplied, false, .one⟩
def fRGN_DZL_GW3_MEMBER : Fld := ⟨.rgn, 0x514, 0, 15, .rw, 0, .lapApplied, false, .one⟩
def fRGN_ERRQ_REC_DATA (i : Nat) : Fld := ⟨.rgn, 0x600 + 4 * i, 0, 32, .ro, 0, .none, false, .one⟩
def fRGN_ERRQ_STATUS_COUNT : Fld := ⟨.rgn, 0x620, 0, 4, .ro, 0, .none, false, .one⟩
def fRGN_ERRQ_STATUS_HANDLING : Fld := ⟨.rgn, 0x620, 4, 1, .ro, 0, .none, false, .one⟩
def fRGN_ERRQ_STATUS_ESCALATED : Fld := ⟨.rgn, 0x620, 5, 1, .w1c, 0, .none, false, .one⟩
def fRGN_ERRQ_STATUS_TOTAL : Fld := ⟨.rgn, 0x620, 16, 16, .ro, 0, .none, false, .one⟩
def fRGN_ERRQ_CTRL_POP : Fld := ⟨.rgn, 0x624, 0, 1, .wo, 0, .free, false, .one⟩
def fRGN_DEADBOLT_CORES_LO_CORES : Fld := ⟨.rgn, 0x700, 0, 32, .ro, 0, .none, false, .one⟩
def fRGN_DEADBOLT_CORES_HI_CORES : Fld := ⟨.rgn, 0x704, 0, 32, .ro, 0, .none, false, .one⟩
def fRGN_DEADBOLT_UNITS_BLOCKS : Fld := ⟨.rgn, 0x708, 0, 8, .ro, 0, .none, false, .one⟩
def fRGN_DEADBOLT_UNITS_SE : Fld := ⟨.rgn, 0x708, 8, 2, .ro, 0, .none, false, .one⟩
def fRGN_DEADBOLT_UNITS_CONTROL : Fld := ⟨.rgn, 0x708, 10, 4, .ro, 0, .none, false, .one⟩
def fRGN_DEADBOLT_UNITS_QUARANTINE : Fld := ⟨.rgn, 0x708, 14, 1, .ro, 0, .none, false, .one⟩
def fRGN_TRK_CFG_RING_GIB : Fld := ⟨.rgn, 0x800, 0, 8, .rw, 4, .heldRunning, false, .one⟩
def fRGN_TRK_CFG_RETAIN : Fld := ⟨.rgn, 0x800, 8, 8, .rw, 0x40, .heldRunning, false, .one⟩
def fBLK_STATUS_VOTE_FIXES : Fld := ⟨.blk, 0, 0, 8, .ro, 0, .none, false, .one⟩
def fBLK_STATUS_IN_SERVICE : Fld := ⟨.blk, 0, 8, 1, .ro, 0, .none, false, .one⟩
def fBLK_STATUS_DEADBOLTED : Fld := ⟨.blk, 0, 9, 1, .ro, 0, .none, false, .one⟩
def fBLK_STATUS_WRITE_REJECTED : Fld := ⟨.blk, 0, 10, 1, .w1c, 0, .none, false, .one⟩
def fBLK_SHADOW_CFG_SHADOW_SIZE : Fld := ⟨.blk, 4, 0, 5, .rw, 8, .heldRunning, false, .one⟩
def fBLK_SB_IDX_INDEX : Fld := ⟨.blk, 0x100, 0, 8, .rw, 0, .free, false, .one⟩
def fBLK_SB_ENTRY_LO_BASE_LINE : Fld := ⟨.blk, 0x104, 0, 18, .rw, 0, .heldRunning, false, .sb⟩
def fBLK_SB_ENTRY_LO_PRODUCER : Fld := ⟨.blk, 0x104, 18, 3, .rw, 0, .heldRunning, false, .sb⟩
def fBLK_SB_ENTRY_LO_CONSUMERS : Fld := ⟨.blk, 0x104, 21, 8, .rw, 0, .heldRunning, false, .sb⟩
def fBLK_SB_ENTRY_LO_VALID : Fld := ⟨.blk, 0x104, 29, 1, .rw, 0, .heldRunning, false, .sb⟩
def fBLK_SB_ENTRY_HI_LINES : Fld := ⟨.blk, 0x108, 0, 18, .rw, 0, .heldRunning, false, .sb⟩
def fBLK_SB_COUNT_POSTED : Fld := ⟨.blk, 0x10c, 0, 8, .ro, 0, .none, false, .sb⟩
def fBLK_SB_COUNT_RELEASED : Fld := ⟨.blk, 0x10c, 8, 8, .ro, 0, .none, false, .sb⟩
def fBLK_SB_COUNT_WRITE_REJECTED : Fld := ⟨.blk, 0x10c, 16, 1, .w1c, 0, .none, false, .one⟩
def fBLK_BS_CONF_IDX_MASTER : Fld := ⟨.blk, 0x200, 0, 7, .rw, 0, .free, false, .one⟩
def fBLK_BS_CONF_IDX_CLEAR_ALL : Fld := ⟨.blk, 0x200, 7, 1, .wo, 0, .free, false, .one⟩
def fBLK_BS_CONF_COUNT : Fld := ⟨.blk, 0x204, 0, 32, .ro, 0, .none, false, .one⟩
def fBLK_DMA_IDX_CHANNEL : Fld := ⟨.blk, 0x300, 0, 4, .rw, 0, .free, false, .one⟩
def fBLK_DMA_CFG_OWNER : Fld := ⟨.blk, 0x304, 0, 3, .rw, 0, .heldRunning, true, .dma⟩
def fBLK_DMA_CFG_FW : Fld := ⟨.blk, 0x304, 3, 1, .rw, 0, .heldRunning, true, .dma⟩
def fBLK_DMA_CFG_RING_LOG2 : Fld := ⟨.blk, 0x304, 4, 4, .rw, 4, .heldRunning, false, .dma⟩
def fBLK_DMA_CFG_URGENT_OK : Fld := ⟨.blk, 0x304, 8, 1, .rw, 0, .heldRunning, true, .dma⟩
def fBLK_DMA_CFG_SLOT : Fld := ⟨.blk, 0x304, 9, 14, .rw, 0, .lapApplied, false, .dma⟩
def fBLK_DMA_RING_LO_BASE_LO : Fld := ⟨.blk, 0x308, 6, 26, .rw, 0, .heldRunning, false, .dma⟩
def fBLK_DMA_RING_HI_BASE_HI : Fld := ⟨.blk, 0x30c, 0, 20, .rw, 0, .heldRunning, false, .dma⟩
def fBLK_DMA_TAIL_TAIL : Fld := ⟨.blk, 0x310, 0, 12, .rw, 0, .free, false, .dma⟩
def fBLK_DMA_STATUS_STATE : Fld := ⟨.blk, 0x314, 0, 2, .ro, 0, .none, false, .dma⟩
def fBLK_DMA_STATUS_HEAD : Fld := ⟨.blk, 0x314, 2, 12, .ro, 0, .none, false, .dma⟩
def fBLK_DMA_STATUS_ERR_KIND : Fld := ⟨.blk, 0x314, 14, 2, .ro, 0, .none, false, .dma⟩
def fBLK_DMA_STATUS_ERR_DIR : Fld := ⟨.blk, 0x314, 16, 1, .ro, 0, .none, false, .dma⟩
def fBLK_DMA_STATUS_WRITE_REJECTED : Fld := ⟨.blk, 0x314, 17, 1, .w1c, 0, .none, false, .dma⟩
def fBLK_DMA_ERR_LO_ADDR_LO : Fld := ⟨.blk, 0x318, 0, 32, .ro, 0, .none, false, .dma⟩
def fBLK_DMA_ERR_HI_ADDR_HI : Fld := ⟨.blk, 0x31c, 0, 20, .ro, 0, .none, false, .dma⟩
def fBLK_DMA_ERR_HI_SPACE : Fld := ⟨.blk, 0x31c, 20, 2, .ro, 0, .none, false, .dma⟩
def fBLK_DMA_CTRL_RESUME : Fld := ⟨.blk, 0x320, 0, 1, .wo, 0, .free, false, .dma⟩
def fBLK_DMA_CTRL_ABORT : Fld := ⟨.blk, 0x320, 1, 1, .wo, 0, .free, false, .dma⟩
def fBLK_TUM_IDX_INDEX : Fld := ⟨.blk, 0x400, 0, 12, .rw, 0, .free, false, .one⟩
def fBLK_TUM_REC0_DATA : Fld := ⟨.blk, 0x404, 0, 32, .ro, 0, .none, false, .one⟩
def fBLK_TUM_REC1_DATA : Fld := ⟨.blk, 0x408, 0, 32, .ro, 0, .none, false, .one⟩
def fBLK_TUM_SET_VALUE : Fld := ⟨.blk, 0x40c, 0, 16, .wo, 0, .free, false, .one⟩
def fBLK_HINGE_STATUS_BUSY : Fld := ⟨.blk, 0x500, 0, 1, .ro, 0, .none, false, .one⟩
def fBLK_HINGE_STATUS_QUEUED : Fld := ⟨.blk, 0x500, 1, 5, .ro, 0, .none, false, .one⟩
def fBLK_HINGE_STATUS_STAGED_OPS : Fld := ⟨.blk, 0x500, 16, 16, .ro, 0, .none, false, .one⟩
def fBLK_HINGE_OPS_OPS : Fld := ⟨.blk, 0x504, 0, 32, .ro, 0, .none, false, .one⟩
def fBLK_SPEC_IDX_INDEX : Fld := ⟨.blk, 0x600, 0, 4, .rw, 0, .free, false, .one⟩
def fBLK_SPEC_REC_DATA (i : Nat) : Fld := ⟨.blk, 0x604 + 4 * i, 0, 32, .ro, 0, .none, false, .one⟩
def fBLK_SPEC_STATUS_OPEN : Fld := ⟨.blk, 0x614, 0, 5, .ro, 0, .none, false, .one⟩
def fBLK_SPEC_STATUS_CONFIRMS : Fld := ⟨.blk, 0x614, 8, 8, .ro, 0, .none, false, .one⟩
def fBLK_SPEC_STATUS_DISCARDS : Fld := ⟨.blk, 0x614, 16, 8, .ro, 0, .none, false, .one⟩
def fBLK_SPEC_STATUS_EXPIRIES : Fld := ⟨.blk, 0x614, 24, 8, .ro, 0, .none, false, .one⟩
def fBLK_ERRQ_REC_DATA (i : Nat) : Fld := ⟨.blk, 0x700 + 4 * i, 0, 32, .ro, 0, .none, false, .one⟩
def fBLK_ERRQ_STATUS_COUNT : Fld := ⟨.blk, 0x720, 0, 4, .ro, 0, .none, false, .one⟩
def fBLK_ERRQ_STATUS_HANDLING : Fld := ⟨.blk, 0x720, 4, 1, .ro, 0, .none, false, .one⟩
def fBLK_ERRQ_STATUS_ESCALATED : Fld := ⟨.blk, 0x720, 5, 1, .w1c, 0, .none, false, .one⟩
def fBLK_ERRQ_STATUS_TOTAL : Fld := ⟨.blk, 0x720, 16, 16, .ro, 0, .none, false, .one⟩
def fBLK_ERRQ_CTRL_POP : Fld := ⟨.blk, 0x724, 0, 1, .wo, 0, .free, false, .one⟩
def fCORE_SEQ_STATUS_STATE : Fld := ⟨.core, 0, 0, 2, .ro, 0, .none, false, .one⟩
def fCORE_SEQ_STATUS_WAIT_SB : Fld := ⟨.core, 0, 2, 1, .ro, 0, .none, false, .one⟩
def fCORE_SEQ_STATUS_WAIT_SUM : Fld := ⟨.core, 0, 3, 1, .ro, 0, .none, false, .one⟩
def fCORE_SEQ_STATUS_WAIT_TUM : Fld := ⟨.core, 0, 4, 1, .ro, 0, .none, false, .one⟩
def fCORE_SEQ_STATUS_QUEUE_FULL : Fld := ⟨.core, 0, 5, 1, .ro, 0, .none, false, .one⟩
def fCORE_SEQ_STATUS_PC : Fld := ⟨.core, 0, 8, 11, .ro, 0, .none, false, .one⟩
def fCORE_SEQ_STATUS_LOOP_DEPTH : Fld := ⟨.core, 0, 19, 4, .ro, 0, .none, false, .one⟩
def fCORE_SEQ_CTRL_HALT_CLEAR : Fld := ⟨.core, 4, 0, 1, .wo, 0, .free, false, .one⟩
def fCORE_SEQ_CTRL_FORCE_HALT : Fld := ⟨.core, 4, 1, 1, .wo, 0, .free, false, .one⟩
def fCORE_HALT_REC_DATA (i : Nat) : Fld := ⟨.core, 8 + 4 * i, 0, 32, .ro, 0, .none, false, .one⟩
def fCORE_MTX_CFG_BATCH_WINDOW : Fld := ⟨.core, 0x80, 0, 7, .rw, 8, .heldRunning, false, .one⟩
def fCORE_MTX_CFG_BATCH_TIMEOUT : Fld := ⟨.core, 0x80, 8, 16, .rw, 0x1000, .heldRunning, false, .one⟩
def fCORE_MTX_STATUS_SLOT_READY : Fld := ⟨.core, 0x84, 0, 16, .ro, 0, .none, false, .one⟩
def fCORE_MTX_STATUS_BATCH_OPEN : Fld := ⟨.core, 0x84, 16, 1, .ro, 0, .none, false, .one⟩
def fCORE_MTX_STATUS_WRITE_REJECTED : Fld := ⟨.core, 0x84, 17, 1, .w1c, 0, .none, false, .one⟩
def fCORE_MTX_STATUS_ECC_FIXES : Fld := ⟨.core, 0x84, 24, 8, .ro, 0, .none, false, .one⟩
def fCORE_MTX_ACC_BP0 : Fld := ⟨.core, 0x88, 0, 8, .ro, 0, .none, false, .one⟩
def fCORE_MTX_ACC_BP1 : Fld := ⟨.core, 0x88, 8, 8, .ro, 0, .none, false, .one⟩
def fCORE_MTX_ARRAY_CYCLES_COUNT : Fld := ⟨.core, 0x8c, 0, 32, .ro, 0, .none, false, .one⟩
def fCORE_MTX_BATCH_STAT_FULL_CLOSES : Fld := ⟨.core, 0x90, 0, 16, .ro, 0, .none, false, .one⟩
def fCORE_MTX_BATCH_STAT_TIMEOUT_CLOSES : Fld := ⟨.core, 0x90, 16, 16, .ro, 0, .none, false, .one⟩
def fCORE_VEC_STATUS_ECC_FIXES : Fld := ⟨.core, 0x100, 0, 8, .ro, 0, .none, false, .one⟩
def fCORE_VEC_STATUS_SUPPRESSED : Fld := ⟨.core, 0x100, 8, 8, .ro, 0, .none, false, .one⟩
def fCORE_VEC_STATUS_ROW_OPEN : Fld := ⟨.core, 0x100, 16, 1, .ro, 0, .none, false, .one⟩
def fCORE_VEC_STATUS_TREE_BUSY : Fld := ⟨.core, 0x100, 17, 1, .ro, 0, .none, false, .one⟩
def fCORE_VEC_CYCLES_COUNT : Fld := ⟨.core, 0x104, 0, 32, .ro, 0, .none, false, .one⟩
def fCORE_SCN_STEPS_COUNT : Fld := ⟨.core, 0x108, 0, 32, .ro, 0, .none, false, .one⟩
def fCORE_SFU_STATUS_ASSEMBLY_OPEN : Fld := ⟨.core, 0x10c, 0, 1, .ro, 0, .none, false, .one⟩
def fCORE_SFU_STATUS_ROM_ERRORS : Fld := ⟨.core, 0x10c, 8, 8, .ro, 0, .none, false, .one⟩
def fCORE_SFU_COUNT_COUNT : Fld := ⟨.core, 0x110, 0, 32, .ro, 0, .none, false, .one⟩
def fCORE_STM_OOB_OOB_COUNT (i : Nat) : Fld := ⟨.core, 0x180 + 4 * i, 0, 24, .ro, 0, .none, false, .one⟩
def fCORE_STM_OOB_SATURATED (i : Nat) : Fld := ⟨.core, 0x180 + 4 * i, 24, 1, .ro, 0, .none, false, .one⟩
def fCORE_STM_OOB_CLEAR_CLEAR : Fld := ⟨.core, 0x1a0, 0, 8, .wo, 0, .free, false, .one⟩
def fCORE_STM_STATE_STATES : Fld := ⟨.core, 0x1a4, 0, 16, .ro, 0, .none, false, .one⟩
def fCORE_STM_MERGED_COUNT : Fld := ⟨.core, 0x1a8, 0, 32, .ro, 0, .none, false, .one⟩
def fCORE_CS_STATUS_ECC_FIXES : Fld := ⟨.core, 0x200, 0, 8, .ro, 0, .none, false, .one⟩
def fCORE_CS_CONF_COUNT (i : Nat) : Fld := ⟨.core, 0x204 + 4 * i, 0, 32, .ro, 0, .none, false, .one⟩
def fSE_CFG_COVER_FACTOR : Fld := ⟨.se, 0, 0, 3, .rw, 2, .lapApplied, true, .one⟩
def fSE_CFG_COVER_EN : Fld := ⟨.se, 0, 3, 1, .rw, 1, .lapApplied, true, .one⟩
def fSE_STATUS_STATE : Fld := ⟨.se, 4, 0, 2, .ro, 0, .none, false, .one⟩
def fSE_STATUS_DEADBOLTED : Fld := ⟨.se, 4, 2, 1, .ro, 0, .none, false, .one⟩
def fSE_STATUS_COVERING : Fld := ⟨.se, 4, 3, 1, .ro, 0, .none, false, .one⟩
def fSE_STATUS_WRITE_REJECTED : Fld := ⟨.se, 4, 4, 1, .w1c, 0, .none, false, .one⟩
def fSE_STATUS_PC : Fld := ⟨.se, 4, 8, 11, .ro, 0, .none, false, .one⟩
def fSE_STATUS_LOOP_DEPTH : Fld := ⟨.se, 4, 19, 4, .ro, 0, .none, false, .one⟩
def fSE_STATUS_ECC_FIXES : Fld := ⟨.se, 4, 24, 8, .ro, 0, .none, false, .one⟩
def fSE_CTRL_HALT_CLEAR : Fld := ⟨.se, 8, 0, 1, .wo, 0, .free, false, .one⟩
def fSE_CTRL_FORCE_HALT : Fld := ⟨.se, 8, 1, 1, .wo, 0, .free, false, .one⟩
def fSE_CTRL_ENGINE_RESET : Fld := ⟨.se, 8, 2, 1, .wo, 0, .free, false, .one⟩
def fSE_HALT_REC_DATA (i : Nat) : Fld := ⟨.se, 0xc + 4 * i, 0, 32, .ro, 0, .none, false, .one⟩
def fSE_LANE_CYCLES_COUNT : Fld := ⟨.se, 0x2c, 0, 32, .ro, 0, .none, false, .one⟩
def fDZL_PORT_IDX_PORT : Fld := ⟨.dzl, 0, 0, 5, .rw, 0, .free, false, .one⟩
def fDZL_PORT_CFG_ENABLE : Fld := ⟨.dzl, 4, 0, 1, .rw, 0, .free, false, .port⟩
def fDZL_PORT_CFG_DATELINE : Fld := ⟨.dzl, 4, 1, 1, .rw, 0, .heldRunning, true, .port⟩
def fDZL_PORT_CFG_MARKER_OK : Fld := ⟨.dzl, 4, 2, 1, .rw, 1, .heldRunning, true, .port⟩
def fDZL_PORT_CFG_MIN_WIDTH : Fld := ⟨.dzl, 4, 3, 4, .rw, 4, .heldRunning, false, .port⟩
def fDZL_PORT_STATUS_STATE : Fld := ⟨.dzl, 8, 0, 2, .ro, 0, .none, false, .port⟩
def fDZL_PORT_STATUS_WIDTH : Fld := ⟨.dzl, 8, 2, 4, .ro, 0, .none, false, .port⟩
def fDZL_PORT_STATUS_BOUNDARY : Fld := ⟨.dzl, 8, 6, 1, .ro, 0, .none, false, .port⟩
def fDZL_PORT_STATUS_UPSTREAM : Fld := ⟨.dzl, 8, 7, 1, .ro, 0, .none, false, .port⟩
def fDZL_PORT_STATUS_LANES_GOOD : Fld := ⟨.dzl, 8, 8, 8, .ro, 0, .none, false, .port⟩
def fDZL_PORT_STATUS_RETRAINS : Fld := ⟨.dzl, 8, 16, 8, .ro, 0, .none, false, .port⟩
def fDZL_PORT_STATUS_WRITE_REJECTED : Fld := ⟨.dzl, 8, 24, 1, .w1c, 0, .none, false, .port⟩
def fDZL_PORT_FAR_FAR_ID : Fld := ⟨.dzl, 0xc, 0, 17, .ro, 0, .none, false, .port⟩
def fDZL_PORT_FAR_FAR_PORT : Fld := ⟨.dzl, 0xc, 17, 5, .ro, 0, .none, false, .port⟩
def fDZL_PORT_DELAY_DELAY_PS : Fld := ⟨.dzl, 0x10, 0, 20, .ro, 0, .none, false, .port⟩
def fDZL_PORT_ERR_RETRIES : Fld := ⟨.dzl, 0x14, 0, 16, .ro, 0, .none, false, .port⟩
def fDZL_PORT_ERR_REFUSED : Fld := ⟨.dzl, 0x14, 16, 16, .ro, 0, .none, false, .port⟩
def fDZL_PORT_CTRL_RETRAIN : Fld := ⟨.dzl, 0x18, 0, 1, .wo, 0, .free, false, .port⟩

def hostRegs0 : List (Nat × List Fld) := [
  (0, [fHOST_DB_BASE_LO_BASE_LO]),
  (4, [fHOST_DB_BASE_HI_BASE_HI]),
  (8, [fHOST_IDX_BASE_LO_BASE_LO]),
  (0xc, [fHOST_IDX_BASE_HI_BASE_HI]),
  (0x10, [fHOST_RING_IDX_RING, fHOST_RING_IDX_SIDE]),
  (0x14, [fHOST_RING_BASE_LO_BASE_LO]),
  (0x18, [fHOST_RING_BASE_HI_BASE_HI]),
  (0x1c, [fHOST_RING_CFG_SIZE_LOG2, fHOST_RING_CFG_ENABLE, fHOST_RING_CFG_TYPE, fHOST_RING_CFG_IRQ_EN]),
  (0x20, [fHOST_RING_STATUS_INDEX, fHOST_RING_STATUS_WRITE_REJECTED, fHOST_RING_STATUS_FAULT, fHOST_RING_STATUS_BAD_ENTRY, fHOST_RING_STATUS_LOST]),
  (0x24, [fHOST_NUDGE_RING]),
  (0x28, [fHOST_BAR2_CFG_WINDOW, fHOST_BAR2_CFG_HOST_FRAMES]),
  (0x2c, [fHOST_BAR_STATUS_DROPPED, fHOST_BAR_STATUS_ONES_READS, fHOST_BAR_STATUS_WRITE_REJECTED])]
/-- The registers of the host space by offset. -/
def hostRegs : List (Nat × List Fld) := hostRegs0

def partRegs0 : List (Nat × List Fld) := [
  (0, [fPART_STATUS_CFG_FALLBACK, fPART_STATUS_CFG_REASON, fPART_STATUS_MANAGER, fPART_STATUS_VOTE_FIXES, fPART_STATUS_CFG_RECORD, fPART_STATUS_WRITE_REJECTED]),
  (4, [fPART_ID_ID]),
  (8, [fPART_FW_FLAGS_FLAGS]),
  (0xc, [fPART_CAP_IDX_INDEX]),
  (0x10, [fPART_CAP_ENTRY_UNITS, fPART_CAP_ENTRY_ENABLED, fPART_CAP_ENTRY_SCAN_FUSED, fPART_CAP_ENTRY_QUARANTINED, fPART_CAP_ENTRY_DEADBOLTED, fPART_CAP_ENTRY_OOS_UNITS]),
  (0x100, [fPART_LAP_CFG_PERIOD_US, fPART_LAP_CFG_COMMIT_WIN, fPART_LAP_CFG_GRANDMASTER]),
  (0x104, [fPART_LAP_STATUS_IN_SERVICE, fPART_LAP_STATUS_HOLDOVER, fPART_LAP_STATUS_PERIOD_MISMATCH, fPART_LAP_STATUS_WRITE_REJECTED, fPART_LAP_STATUS_VOTE_FIXES, fPART_LAP_STATUS_LATE_VOTES]),
  (0x108, [fPART_LAP_NUM_LO_LAP_LO]),
  (0x10c, [fPART_LAP_NUM_HI_LAP_HI]),
  (0x110, [fPART_LAP_BACKUP_RANK, fPART_LAP_BACKUP_ACTIVE_GM, fPART_LAP_BACKUP_DEPTH, fPART_LAP_BACKUP_DEPTH_EXCEEDED, fPART_LAP_BACKUP_WRITE_REJECTED]),
  (0x200, [fPART_PACER_CFG_MARGIN_PCT, fPART_PACER_CFG_SLEW_PCT, fPART_PACER_CFG_THERM_GUARD_C, fPART_PACER_CFG_SPEC_ENABLE, fPART_PACER_CFG_PEAK_ENABLE, fPART_PACER_CFG_PLAN_LEAD_US]),
  (0x204, [fPART_PACER_STATUS_PACE_REQ, fPART_PACER_STATUS_SHED, fPART_PACER_STATUS_PEAK_LAP, fPART_PACER_STATUS_BUDGET_SHORT, fPART_PACER_STATUS_WRITE_REJECTED, fPART_PACER_STATUS_VOTE_FIXES, fPART_PACER_STATUS_DEFERRED])]
def partRegs1 : List (Nat × List Fld) := [
  (0x208, [fPART_PACER_BUDGET_E_BUDGET]),
  (0x20c, [fPART_PACER_LOG_CFG_SIZE_MIB]),
  (0x210, [fPART_PACER_LOG_HEAD_HEAD]),
  (0x300, [fPART_OFFLOAD_CFG_OUT_MIB, fPART_OFFLOAD_CFG_IN_MIB]),
  (0x304, [fPART_OFFLOAD_STATUS_OUT_LAST, fPART_OFFLOAD_STATUS_IN_LAST, fPART_OFFLOAD_STATUS_WRITE_REJECTED]),
  (0x400, [fPART_LEDGER_CFG_ENABLE, fPART_LEDGER_CFG_EXCHANGE, fPART_LEDGER_CFG_RING_LOG2]),
  (0x404, [fPART_LEDGER_COLLECTOR_PART, fPART_LEDGER_COLLECTOR_COLLECT]),
  (0x408, [fPART_LEDGER_RING_LO_BASE_LO]),
  (0x40c, [fPART_LEDGER_RING_HI_BASE_HI]),
  (0x410, [fPART_LEDGER_HEAD_HEAD]),
  (0x414, [fPART_LEDGER_TAIL_TAIL]),
  (0x418, [fPART_LEDGER_STATUS_DROPS, fPART_LEDGER_STATUS_RING_ERROR, fPART_LEDGER_STATUS_WRITE_REJECTED])]
def partRegs2 : List (Nat × List Fld) := [
  (0x500, [fPART_OWN_UPD0_DATA]),
  (0x504, [fPART_OWN_UPD1_DATA]),
  (0x508, [fPART_OWN_UPD2_DATA]),
  (0x50c, [fPART_OWN_UPD3_DATA]),
  (0x510, [fPART_OWN_STATUS_PENDING, fPART_OWN_STATUS_LATE, fPART_OWN_STATUS_QUEUE_FULL, fPART_OWN_STATUS_BAD_RECORD, fPART_OWN_STATUS_TABLES]),
  (0x600, [fPART_SYNC_DUMP_CTRL_START, fPART_SYNC_DUMP_CTRL_CANCEL]),
  (0x604, [fPART_SYNC_DUMP_STATUS_BUSY, fPART_SYNC_DUMP_STATUS_DONE]),
  (0x608, [fPART_SYNC_DUMP_DATA_DATA]),
  (0x700, [fPART_DEADBOLT_CMD_KIND, fPART_DEADBOLT_CMD_UNIT]),
  (0x704, [fPART_DEADBOLT_STATUS_BUSY, fPART_DEADBOLT_STATUS_DONE, fPART_DEADBOLT_STATUS_REJECTED, fPART_DEADBOLT_STATUS_CORES, fPART_DEADBOLT_STATUS_BLOCKS, fPART_DEADBOLT_STATUS_REGIONS]),
  (0x708, [fPART_REGION_RESET_REGION, fPART_REGION_RESET_GO]),
  (0x800, [(fPART_ERRQ_REC_DATA 0)])]
def partRegs3 : List (Nat × List Fld) := [
  (0x804, [(fPART_ERRQ_REC_DATA 1)]),
  (0x808, [(fPART_ERRQ_REC_DATA 2)]),
  (0x80c, [(fPART_ERRQ_REC_DATA 3)]),
  (0x810, [(fPART_ERRQ_REC_DATA 4)]),
  (0x814, [(fPART_ERRQ_REC_DATA 5)]),
  (0x818, [(fPART_ERRQ_REC_DATA 6)]),
  (0x81c, [(fPART_ERRQ_REC_DATA 7)]),
  (0x820, [fPART_ERRQ_STATUS_COUNT, fPART_ERRQ_STATUS_HANDLING, fPART_ERRQ_STATUS_ESCALATED, fPART_ERRQ_STATUS_TOTAL]),
  (0x824, [fPART_ERRQ_CTRL_POP]),
  (0x900, [fPART_SNAP_CFG_RELAY_TABLE, fPART_SNAP_CFG_RELAY_MIB]),
  (0x904, [fPART_SNAP_PARTNER_PARTNER]),
  (0x908, [fPART_SNAP_MANIFEST_LO_BASE_LO])]
def partRegs4 : List (Nat × List Fld) := [
  (0x90c, [fPART_SNAP_MANIFEST_HI_BASE_HI]),
  (0x910, [fPART_SNAP_REQ_LAP, fPART_SNAP_REQ_SNAP, fPART_SNAP_REQ_RESTORE, fPART_SNAP_REQ_SLOT]),
  (0x914, [fPART_SNAP_STATUS_STATE, fPART_SNAP_STATUS_SEALED, fPART_SNAP_STATUS_FAILED, fPART_SNAP_STATUS_LATE, fPART_SNAP_STATUS_REFUSED, fPART_SNAP_STATUS_UNPROTECTED, fPART_SNAP_STATUS_RESTORED, fPART_SNAP_STATUS_WRITE_REJECTED]),
  (0x918, [fPART_SNAP_SEQ_SEQ]),
  (0x91c, [fPART_SNAP_LEFT_PAGES]),
  (0x920, [fPART_SNAP_STREAMS_LO_BASE_LO]),
  (0x924, [fPART_SNAP_STREAMS_HI_BASE_HI]),
  (0x928, [fPART_SNAP_STREAMS_CTRL_COUNT, fPART_SNAP_STREAMS_CTRL_GO]),
  (0xa00, [fPART_RELAY_SRC_SOURCE, fPART_RELAY_SRC_ENABLE]),
  (0xa04, [fPART_RELAY_AREA_FIRST_PAGE]),
  (0xa08, [fPART_RELAY_PAGES_PAGES]),
  (0xa0c, [fPART_RELAY_CTRL_PUSH, fPART_RELAY_CTRL_SLOT])]
def partRegs5 : List (Nat × List Fld) := [
  (0xa10, [fPART_RELAY_STATUS_SLOT0, fPART_RELAY_STATUS_SLOT1, fPART_RELAY_STATUS_FLASH]),
  (0xb00, [fPART_TRK_CFG_WINDOW_LAPS, fPART_TRK_CFG_POST_LAPS, fPART_TRK_CFG_ENABLE, fPART_TRK_CFG_BENCH, fPART_TRK_CFG_CLASS_MASK]),
  (0xb04, [fPART_TRK_CTRL_TRIGGER, fPART_TRK_CTRL_RELEASE, fPART_TRK_CTRL_EXPORT, fPART_TRK_CTRL_IMPORT]),
  (0xb08, [fPART_TRK_STATUS_STATE, fPART_TRK_STATUS_LAPS_KEPT, fPART_TRK_STATUS_SHORT, fPART_TRK_STATUS_WRITE_REJECTED, fPART_TRK_STATUS_TRIGGERS]),
  (0xb0c, [fPART_TRK_IMG_LO_BASE_LO]),
  (0xb10, [fPART_TRK_IMG_HI_BASE_HI]),
  (0xb14, [fPART_TRK_IMG_BYTES_LO_BYTES_LO]),
  (0xb18, [fPART_TRK_IMG_BYTES_HI_BYTES_HI]),
  (0xb1c, [fPART_TRK_DIVERGED_LO_LAP_LO]),
  (0xb20, [fPART_TRK_DIVERGED_HI_LAP_HI]),
  (0xc00, [fPART_FLASH_STATUS_STATE0, fPART_FLASH_STATUS_WIDTH0, fPART_FLASH_STATUS_RATE0, fPART_FLASH_STATUS_STATE1, fPART_FLASH_STATUS_WIDTH1, fPART_FLASH_STATUS_RATE1]),
  (0xc04, [fPART_BRIDGE_IDX_BRIDGE])]
def partRegs6 : List (Nat × List Fld) := [
  (0xc08, [fPART_BRIDGE_CFG_ENABLE]),
  (0xc0c, [fPART_BRIDGE_STATUS_STATE, fPART_BRIDGE_STATUS_SERVICE_UP, fPART_BRIDGE_STATUS_PART_DEGRADED, fPART_BRIDGE_STATUS_WRITE_REJECTED, fPART_BRIDGE_STATUS_FAILURES]),
  (0xd00, [fPART_BOOT_STATUS_PHASE, fPART_BOOT_STATUS_FAIL_REASON, fPART_BOOT_STATUS_SLOT, fPART_BOOT_STATUS_NO_BOARD_LISTS, fPART_BOOT_STATUS_OWNER_ENROLLED, fPART_BOOT_STATUS_DEBUG_LEVEL, fPART_BOOT_STATUS_WRITE_REJECTED, fPART_BOOT_STATUS_ROLLBACK_FLOOR]),
  (0xd04, [fPART_BOOT_CTRL_SERVICE]),
  (0xd08, [fPART_BOOT_LAP0_LO_LAP_LO]),
  (0xd0c, [fPART_BOOT_LAP0_HI_LAP_HI]),
  (0xd10, [fPART_SERIAL_LO_SERIAL]),
  (0xd14, [fPART_SERIAL_HI_SERIAL]),
  (0xd18, [fPART_SEC_CFG_DEBUG_ALLOW, fPART_SEC_CFG_DOE_ATTEST, fPART_SEC_CFG_MCTP_ATTEST]),
  (0xd1c, [fPART_MEAS_IDX_INDEX, fPART_MEAS_IDX_WORD]),
  (0xd20, [fPART_MEAS_DATA_DATA])]
/-- The registers of the part space by offset. -/
def partRegs : List (Nat × List Fld) := partRegs0 ++ partRegs1 ++ partRegs2 ++ partRegs3 ++ partRegs4 ++ partRegs5 ++ partRegs6

def rgnRegs0 : List (Nat × List Fld) := [
  (0, [fRGN_STATUS_VOTE_FIXES, fRGN_STATUS_IN_SERVICE, fRGN_STATUS_DEADBOLTED, fRGN_STATUS_MANAGER]),
  (4, [fRGN_IND_ADDR_OFFSET, fRGN_IND_ADDR_HOLD, fRGN_IND_ADDR_TARGET]),
  (8, [fRGN_IND_DATA_DATA]),
  (0xc, [fRGN_IND_STATUS_BUSY, fRGN_IND_STATUS_TIMEOUT, fRGN_IND_STATUS_REFUSED, fRGN_IND_STATUS_BAD_RECORD, fRGN_IND_STATUS_REJECTED]),
  (0x100, [fRGN_LAP_POOL_CFG_POOL_SIZE, fRGN_LAP_POOL_CFG_RESEND_SIZE]),
  (0x104, [fRGN_LAP_STATUS_FREE_FRAMES, fRGN_LAP_STATUS_WRITE_REJECTED, fRGN_LAP_STATUS_LL_ZERO_READS]),
  (0x108, [fRGN_THERM_CFG_THETA, fRGN_THERM_CFG_WRITE_REJECTED]),
  (0x10c, [fRGN_THERM_MODEL_STANDING_W, fRGN_THERM_MODEL_LEAK85_W]),
  (0x200, [fRGN_HBM_CFG_RETIRE_CE, fRGN_HBM_CFG_PC_FAIL_UE]),
  (0x204, [fRGN_HBM_STATUS_FAILED_PC_A, fRGN_HBM_STATUS_DEGRADED_A, fRGN_HBM_STATUS_WORN_A, fRGN_HBM_STATUS_FAILED_PC_B, fRGN_HBM_STATUS_DEGRADED_B, fRGN_HBM_STATUS_WORN_B, fRGN_HBM_STATUS_RECONSTRUCTS, fRGN_HBM_STATUS_WRITE_REJECTED]),
  (0x208, [fRGN_PT_BASE_FRAME]),
  (0x20c, [fRGN_PT_STATUS_PENDING, fRGN_PT_STATUS_UPDATE_REJECTED, fRGN_PT_STATUS_QUEUE_FULL, fRGN_PT_STATUS_FOLD_BACKLOG])]
def rgnRegs1 : List (Nat × List Fld) := [
  (0x210, [fRGN_POOL_FREE_A_FREE]),
  (0x214, [fRGN_POOL_FREE_B_FREE]),
  (0x300, [fRGN_DMA_IDX_CHANNEL]),
  (0x304, [fRGN_DMA_CFG_FW, fRGN_DMA_CFG_RING_LOG2, fRGN_DMA_CFG_URGENT_OK, fRGN_DMA_CFG_SLOT]),
  (0x308, [fRGN_DMA_RING_LO_BASE_LO]),
  (0x30c, [fRGN_DMA_RING_HI_BASE_HI]),
  (0x310, [fRGN_DMA_TAIL_TAIL]),
  (0x314, [fRGN_DMA_STATUS_STATE, fRGN_DMA_STATUS_HEAD, fRGN_DMA_STATUS_ERR_KIND, fRGN_DMA_STATUS_ERR_DIR, fRGN_DMA_STATUS_WRITE_REJECTED]),
  (0x318, [fRGN_DMA_ERR_LO_ADDR_LO]),
  (0x31c, [fRGN_DMA_ERR_HI_ADDR_HI, fRGN_DMA_ERR_HI_SPACE]),
  (0x320, [fRGN_DMA_CTRL_RESUME, fRGN_DMA_CTRL_ABORT]),
  (0x400, [fRGN_TUM_IDX_INDEX])]
def rgnRegs2 : List (Nat × List Fld) := [
  (0x404, [fRGN_TUM_REC0_DATA]),
  (0x408, [fRGN_TUM_REC1_DATA]),
  (0x40c, [fRGN_TUM_SET_VALUE]),
  (0x500, [fRGN_DZL_ROUTE_IDX_MEMBER]),
  (0x504, [fRGN_DZL_ROUTE_ENTRY]),
  (0x508, [fRGN_DZL_GW0_MEMBER]),
  (0x50c, [fRGN_DZL_GW1_MEMBER]),
  (0x510, [fRGN_DZL_GW2_MEMBER]),
  (0x514, [fRGN_DZL_GW3_MEMBER]),
  (0x600, [(fRGN_ERRQ_REC_DATA 0)]),
  (0x604, [(fRGN_ERRQ_REC_DATA 1)]),
  (0x608, [(fRGN_ERRQ_REC_DATA 2)])]
def rgnRegs3 : List (Nat × List Fld) := [
  (0x60c, [(fRGN_ERRQ_REC_DATA 3)]),
  (0x610, [(fRGN_ERRQ_REC_DATA 4)]),
  (0x614, [(fRGN_ERRQ_REC_DATA 5)]),
  (0x618, [(fRGN_ERRQ_REC_DATA 6)]),
  (0x61c, [(fRGN_ERRQ_REC_DATA 7)]),
  (0x620, [fRGN_ERRQ_STATUS_COUNT, fRGN_ERRQ_STATUS_HANDLING, fRGN_ERRQ_STATUS_ESCALATED, fRGN_ERRQ_STATUS_TOTAL]),
  (0x624, [fRGN_ERRQ_CTRL_POP]),
  (0x700, [fRGN_DEADBOLT_CORES_LO_CORES]),
  (0x704, [fRGN_DEADBOLT_CORES_HI_CORES]),
  (0x708, [fRGN_DEADBOLT_UNITS_BLOCKS, fRGN_DEADBOLT_UNITS_SE, fRGN_DEADBOLT_UNITS_CONTROL, fRGN_DEADBOLT_UNITS_QUARANTINE]),
  (0x800, [fRGN_TRK_CFG_RING_GIB, fRGN_TRK_CFG_RETAIN])]
/-- The registers of the rgn space by offset. -/
def rgnRegs : List (Nat × List Fld) := rgnRegs0 ++ rgnRegs1 ++ rgnRegs2 ++ rgnRegs3

def blkRegs0 : List (Nat × List Fld) := [
  (0, [fBLK_STATUS_VOTE_FIXES, fBLK_STATUS_IN_SERVICE, fBLK_STATUS_DEADBOLTED, fBLK_STATUS_WRITE_REJECTED]),
  (4, [fBLK_SHADOW_CFG_SHADOW_SIZE]),
  (0x100, [fBLK_SB_IDX_INDEX]),
  (0x104, [fBLK_SB_ENTRY_LO_BASE_LINE, fBLK_SB_ENTRY_LO_PRODUCER, fBLK_SB_ENTRY_LO_CONSUMERS, fBLK_SB_ENTRY_LO_VALID]),
  (0x108, [fBLK_SB_ENTRY_HI_LINES]),
  (0x10c, [fBLK_SB_COUNT_POSTED, fBLK_SB_COUNT_RELEASED, fBLK_SB_COUNT_WRITE_REJECTED]),
  (0x200, [fBLK_BS_CONF_IDX_MASTER, fBLK_BS_CONF_IDX_CLEAR_ALL]),
  (0x204, [fBLK_BS_CONF_COUNT]),
  (0x300, [fBLK_DMA_IDX_CHANNEL]),
  (0x304, [fBLK_DMA_CFG_OWNER, fBLK_DMA_CFG_FW, fBLK_DMA_CFG_RING_LOG2, fBLK_DMA_CFG_URGENT_OK, fBLK_DMA_CFG_SLOT]),
  (0x308, [fBLK_DMA_RING_LO_BASE_LO]),
  (0x30c, [fBLK_DMA_RING_HI_BASE_HI])]
def blkRegs1 : List (Nat × List Fld) := [
  (0x310, [fBLK_DMA_TAIL_TAIL]),
  (0x314, [fBLK_DMA_STATUS_STATE, fBLK_DMA_STATUS_HEAD, fBLK_DMA_STATUS_ERR_KIND, fBLK_DMA_STATUS_ERR_DIR, fBLK_DMA_STATUS_WRITE_REJECTED]),
  (0x318, [fBLK_DMA_ERR_LO_ADDR_LO]),
  (0x31c, [fBLK_DMA_ERR_HI_ADDR_HI, fBLK_DMA_ERR_HI_SPACE]),
  (0x320, [fBLK_DMA_CTRL_RESUME, fBLK_DMA_CTRL_ABORT]),
  (0x400, [fBLK_TUM_IDX_INDEX]),
  (0x404, [fBLK_TUM_REC0_DATA]),
  (0x408, [fBLK_TUM_REC1_DATA]),
  (0x40c, [fBLK_TUM_SET_VALUE]),
  (0x500, [fBLK_HINGE_STATUS_BUSY, fBLK_HINGE_STATUS_QUEUED, fBLK_HINGE_STATUS_STAGED_OPS]),
  (0x504, [fBLK_HINGE_OPS_OPS]),
  (0x600, [fBLK_SPEC_IDX_INDEX])]
def blkRegs2 : List (Nat × List Fld) := [
  (0x604, [(fBLK_SPEC_REC_DATA 0)]),
  (0x608, [(fBLK_SPEC_REC_DATA 1)]),
  (0x60c, [(fBLK_SPEC_REC_DATA 2)]),
  (0x610, [(fBLK_SPEC_REC_DATA 3)]),
  (0x614, [fBLK_SPEC_STATUS_OPEN, fBLK_SPEC_STATUS_CONFIRMS, fBLK_SPEC_STATUS_DISCARDS, fBLK_SPEC_STATUS_EXPIRIES]),
  (0x700, [(fBLK_ERRQ_REC_DATA 0)]),
  (0x704, [(fBLK_ERRQ_REC_DATA 1)]),
  (0x708, [(fBLK_ERRQ_REC_DATA 2)]),
  (0x70c, [(fBLK_ERRQ_REC_DATA 3)]),
  (0x710, [(fBLK_ERRQ_REC_DATA 4)]),
  (0x714, [(fBLK_ERRQ_REC_DATA 5)]),
  (0x718, [(fBLK_ERRQ_REC_DATA 6)])]
def blkRegs3 : List (Nat × List Fld) := [
  (0x71c, [(fBLK_ERRQ_REC_DATA 7)]),
  (0x720, [fBLK_ERRQ_STATUS_COUNT, fBLK_ERRQ_STATUS_HANDLING, fBLK_ERRQ_STATUS_ESCALATED, fBLK_ERRQ_STATUS_TOTAL]),
  (0x724, [fBLK_ERRQ_CTRL_POP])]
/-- The registers of the blk space by offset. -/
def blkRegs : List (Nat × List Fld) := blkRegs0 ++ blkRegs1 ++ blkRegs2 ++ blkRegs3

def coreRegs0 : List (Nat × List Fld) := [
  (0, [fCORE_SEQ_STATUS_STATE, fCORE_SEQ_STATUS_WAIT_SB, fCORE_SEQ_STATUS_WAIT_SUM, fCORE_SEQ_STATUS_WAIT_TUM, fCORE_SEQ_STATUS_QUEUE_FULL, fCORE_SEQ_STATUS_PC, fCORE_SEQ_STATUS_LOOP_DEPTH]),
  (4, [fCORE_SEQ_CTRL_HALT_CLEAR, fCORE_SEQ_CTRL_FORCE_HALT]),
  (8, [(fCORE_HALT_REC_DATA 0)]),
  (0xc, [(fCORE_HALT_REC_DATA 1)]),
  (0x10, [(fCORE_HALT_REC_DATA 2)]),
  (0x14, [(fCORE_HALT_REC_DATA 3)]),
  (0x18, [(fCORE_HALT_REC_DATA 4)]),
  (0x1c, [(fCORE_HALT_REC_DATA 5)]),
  (0x20, [(fCORE_HALT_REC_DATA 6)]),
  (0x24, [(fCORE_HALT_REC_DATA 7)]),
  (0x80, [fCORE_MTX_CFG_BATCH_WINDOW, fCORE_MTX_CFG_BATCH_TIMEOUT]),
  (0x84, [fCORE_MTX_STATUS_SLOT_READY, fCORE_MTX_STATUS_BATCH_OPEN, fCORE_MTX_STATUS_WRITE_REJECTED, fCORE_MTX_STATUS_ECC_FIXES])]
def coreRegs1 : List (Nat × List Fld) := [
  (0x88, [fCORE_MTX_ACC_BP0, fCORE_MTX_ACC_BP1]),
  (0x8c, [fCORE_MTX_ARRAY_CYCLES_COUNT]),
  (0x90, [fCORE_MTX_BATCH_STAT_FULL_CLOSES, fCORE_MTX_BATCH_STAT_TIMEOUT_CLOSES]),
  (0x100, [fCORE_VEC_STATUS_ECC_FIXES, fCORE_VEC_STATUS_SUPPRESSED, fCORE_VEC_STATUS_ROW_OPEN, fCORE_VEC_STATUS_TREE_BUSY]),
  (0x104, [fCORE_VEC_CYCLES_COUNT]),
  (0x108, [fCORE_SCN_STEPS_COUNT]),
  (0x10c, [fCORE_SFU_STATUS_ASSEMBLY_OPEN, fCORE_SFU_STATUS_ROM_ERRORS]),
  (0x110, [fCORE_SFU_COUNT_COUNT]),
  (0x180, [(fCORE_STM_OOB_OOB_COUNT 0), (fCORE_STM_OOB_SATURATED 0)]),
  (0x184, [(fCORE_STM_OOB_OOB_COUNT 1), (fCORE_STM_OOB_SATURATED 1)]),
  (0x188, [(fCORE_STM_OOB_OOB_COUNT 2), (fCORE_STM_OOB_SATURATED 2)]),
  (0x18c, [(fCORE_STM_OOB_OOB_COUNT 3), (fCORE_STM_OOB_SATURATED 3)])]
def coreRegs2 : List (Nat × List Fld) := [
  (0x190, [(fCORE_STM_OOB_OOB_COUNT 4), (fCORE_STM_OOB_SATURATED 4)]),
  (0x194, [(fCORE_STM_OOB_OOB_COUNT 5), (fCORE_STM_OOB_SATURATED 5)]),
  (0x198, [(fCORE_STM_OOB_OOB_COUNT 6), (fCORE_STM_OOB_SATURATED 6)]),
  (0x19c, [(fCORE_STM_OOB_OOB_COUNT 7), (fCORE_STM_OOB_SATURATED 7)]),
  (0x1a0, [fCORE_STM_OOB_CLEAR_CLEAR]),
  (0x1a4, [fCORE_STM_STATE_STATES]),
  (0x1a8, [fCORE_STM_MERGED_COUNT]),
  (0x200, [fCORE_CS_STATUS_ECC_FIXES]),
  (0x204, [(fCORE_CS_CONF_COUNT 0)]),
  (0x208, [(fCORE_CS_CONF_COUNT 1)]),
  (0x20c, [(fCORE_CS_CONF_COUNT 2)]),
  (0x210, [(fCORE_CS_CONF_COUNT 3)])]
def coreRegs3 : List (Nat × List Fld) := [
  (0x214, [(fCORE_CS_CONF_COUNT 4)]),
  (0x218, [(fCORE_CS_CONF_COUNT 5)]),
  (0x21c, [(fCORE_CS_CONF_COUNT 6)]),
  (0x220, [(fCORE_CS_CONF_COUNT 7)]),
  (0x224, [(fCORE_CS_CONF_COUNT 8)]),
  (0x228, [(fCORE_CS_CONF_COUNT 9)]),
  (0x22c, [(fCORE_CS_CONF_COUNT 10)])]
/-- The registers of the core space by offset. -/
def coreRegs : List (Nat × List Fld) := coreRegs0 ++ coreRegs1 ++ coreRegs2 ++ coreRegs3

def seRegs0 : List (Nat × List Fld) := [
  (0, [fSE_CFG_COVER_FACTOR, fSE_CFG_COVER_EN]),
  (4, [fSE_STATUS_STATE, fSE_STATUS_DEADBOLTED, fSE_STATUS_COVERING, fSE_STATUS_WRITE_REJECTED, fSE_STATUS_PC, fSE_STATUS_LOOP_DEPTH, fSE_STATUS_ECC_FIXES]),
  (8, [fSE_CTRL_HALT_CLEAR, fSE_CTRL_FORCE_HALT, fSE_CTRL_ENGINE_RESET]),
  (0xc, [(fSE_HALT_REC_DATA 0)]),
  (0x10, [(fSE_HALT_REC_DATA 1)]),
  (0x14, [(fSE_HALT_REC_DATA 2)]),
  (0x18, [(fSE_HALT_REC_DATA 3)]),
  (0x1c, [(fSE_HALT_REC_DATA 4)]),
  (0x20, [(fSE_HALT_REC_DATA 5)]),
  (0x24, [(fSE_HALT_REC_DATA 6)]),
  (0x28, [(fSE_HALT_REC_DATA 7)]),
  (0x2c, [fSE_LANE_CYCLES_COUNT])]
/-- The registers of the se space by offset. -/
def seRegs : List (Nat × List Fld) := seRegs0

def dzlRegs0 : List (Nat × List Fld) := [
  (0, [fDZL_PORT_IDX_PORT]),
  (4, [fDZL_PORT_CFG_ENABLE, fDZL_PORT_CFG_DATELINE, fDZL_PORT_CFG_MARKER_OK, fDZL_PORT_CFG_MIN_WIDTH]),
  (8, [fDZL_PORT_STATUS_STATE, fDZL_PORT_STATUS_WIDTH, fDZL_PORT_STATUS_BOUNDARY, fDZL_PORT_STATUS_UPSTREAM, fDZL_PORT_STATUS_LANES_GOOD, fDZL_PORT_STATUS_RETRAINS, fDZL_PORT_STATUS_WRITE_REJECTED]),
  (0xc, [fDZL_PORT_FAR_FAR_ID, fDZL_PORT_FAR_FAR_PORT]),
  (0x10, [fDZL_PORT_DELAY_DELAY_PS]),
  (0x14, [fDZL_PORT_ERR_RETRIES, fDZL_PORT_ERR_REFUSED]),
  (0x18, [fDZL_PORT_CTRL_RETRAIN])]
/-- The registers of the dzl space by offset. -/
def dzlRegs : List (Nat × List Fld) := dzlRegs0

/-- The registers of a space by offset (R549). -/
def spaceRegs : Space → List (Nat × List Fld)
  | .host => hostRegs
  | .part => partRegs
  | .rgn => rgnRegs
  | .blk => blkRegs
  | .core => coreRegs
  | .se => seRegs
  | .dzl => dzlRegs

/-- The fields of the register at an offset, none where no group covers it (R549). -/
def fieldsAt (sp : Space) (off : Nat) : Option (List Fld) := (spaceRegs sp).lookup off

end Sys2Proof.Machine
end

