-- ==== Sys2Proof/Machine/State.lean ====
section
/-! DEFINITION. The state of the part as plain data, faults, refusals, and the state after reset. -/

namespace Sys2Proof.Machine

/-- Why a command stops with a fault: no command of this block does, and nothing raises it (safe). -/
inductive Fault
  /-- Raised by nothing: every effect the manual gives is a next state (safe). -/
  | unreachable
  deriving DecidableEq, Repr

/-- Why a command is refused. -/
inductive Refusal
  /-- Raised by Dispatch.lean for a command that has no meaning yet (safe: the machine stops). -/
  | notModelled (mnemonic : String)
  deriving DecidableEq, Repr

/-! ## Registers -/

/-- The three copies of a field (R10, R12, R552); a field that is not voted uses the first. -/
structure Tri where
  a : Nat
  b : Nat
  c : Nat
  deriving DecidableEq, Repr

/-! ## Fuses and pins -/

/-- Orderable grades (R1). -/
inductive Grade
  | iz8a | iz8c | iz4a
  deriving DecidableEq, Repr

/-- What is fixed at manufacture or burnt once (R1 to R3, R571, R572, R576, R583, R606). -/
structure Fuses where
  grade : Grade
  fusedOff : List Nat
  scanLess : List Nat
  standingW : Tab Nat
  leak85W : Tab Nat
  seed : BitVec 256
  ownerDigest : Option (BitVec 256)
  rollbackFloor : Nat
  serial : BitVec 64
  /-- Arithmetic clock in MHz, set once per run: 900 to 1,600 in steps of 25 (R7). -/
  clockMHz : Nat
  deriving DecidableEq, Repr

/-! ## A core or a stack engine -/

/-- STATE of a sequencer (R150, R364). -/
inductive SeqState
  | idle | loading | running | halted
  deriving DecidableEq, Repr

/-- An entry of a core queue (R137). -/
inductive QItem
  | beat (b : Bytes)
  | baton (tag : Nat)
  deriving DecidableEq, Repr

/-- A core queue with its producer and consumer bindings by engine number (R137). -/
structure Queue where
  items : List QItem
  prod : Option Nat
  cons : Option Nat
  deriving DecidableEq, Repr

/-- An entry of the loop stack (R132). -/
structure LoopEnt where
  start : Nat
  stop : Nat
  left : Nat
  deriving DecidableEq, Repr

/-- An issued field waiting in its engine's field queue (R127), with the address of its word. -/
structure QField where
  bits : Nat
  pc : Nat
  /-- Issue number of its word within the task. -/
  no : Nat
  deriving DecidableEq, Repr

/-- State of a weight-store slot (R174). -/
inductive SlotState
  | empty | filling | ready
  deriving DecidableEq, Repr

/-- A weight-store slot: element sections and scale section (R173, R174). -/
structure WSlot where
  st : SlotState
  cursor : Nat
  fmt : Nat
  elems : Bytes
  scales : Bytes
  deriving DecidableEq, Repr

/-- The open batch and its staging buffer (R188, R189). -/
structure Batch where
  slot : Nat
  fmt : Nat
  acc : Nat
  oq : Nat
  records : List Bytes
  /-- Complete rows that closes in progress still have to run and drain (R190). -/
  todo : Nat
  /-- Rows of a close by timeout among them, run or not: rows within the window still join it (R189, the corner case on timeouts). -/
  late : Option Nat
  /-- Records of the head BATCH field's beat for which the staging buffer of 128 has no room yet (R188). -/
  rest : List Bytes
  /-- Address of the word that staged last, for a halt record. -/
  pc : Nat
  /-- The BATCH field at the head of the field queue has staged its beat and waits for its drains (R191). -/
  staged : Bool
  /-- Bytes of the beat that was staged last (R192). -/
  beat : Nat
  deriving DecidableEq, Repr

/-- The open row of the reduction unit or of the tree (R214). -/
structure RedRow where
  op : Nat
  tree : Bool
  elems : List Nat
  deriving DecidableEq, Repr

/-- States of a stream mover (R319, R343). -/
inductive MvState
  | unarmed | armed | running | done
  deriving DecidableEq, Repr

/-- A request of a mover on its way (R323): the address and length of the beat's bytes in it, for a write the bytes, and
whether it continues the request before it. -/
structure Inflight where
  addr : Nat
  len : Nat
  write : Bool
  data : Bytes
  more : Bool
  deriving DecidableEq, Repr

/-- A stream mover (R154 to R170, R316 to R322). -/
structure Mover where
  st : MvState
  kind : Nat
  queue : Nat
  batonQ : Nat
  batonDim : Nat
  tag : Nat
  /-- PRIO of the arm (R33); arbitration shows only in timing, so no meaning reads it. -/
  prio : Nat
  noMerge : Bool
  /-- The latched pattern (R154, R156). -/
  pat : Nat
  /-- Walk position: run, byte offset of the next beat in it, index position and value (R157, R160). -/
  run : Nat
  off : Nat
  idxPos : Nat
  idx : Int
  idxOk : Bool
  /-- Address after the last valid run, 0 when a merge cannot continue (R323). -/
  mergeEnd : Nat
  req : Option Inflight
  /-- The held write of the request waits for a frame or shadow line (R604). -/
  waitsFrame : Bool
  /-- Word that started the walk, for a halt record. -/
  pc : Nat
  /-- The run at hand has been generated and checked, with its address and its length (R157, R158). -/
  gen : Bool
  addr : Nat
  /-- Entries that the current walk has put into QUEUE (R320). -/
  delivered : Nat
  /-- A pass baton waits for queue space (R322). -/
  due : Bool
  /-- The run at hand continues the request of the run before it (R323). -/
  joined : Bool
  /-- Of the beat at hand, the bytes read, or the bytes not yet written, where a 4 KiB boundary cuts it (R323). -/
  part : Bytes
  /-- Owner table of the distributed tensor that the pattern walks; its run starts are then logical offsets (R296, R303). -/
  table : Option Nat
  /-- The index line at hand, read once (R160). -/
  line : Bytes
  deriving DecidableEq, Repr

/-- A random slot (R263): bound stream, key and counter as read at task start. -/
structure RandSlot where
  stream : Nat
  valid : Bool
  deriving DecidableEq, Repr

/-- A stream's key and running counter in a core (R263, R264). -/
structure RandCtr where
  key : Nat
  counter : Nat
  wrapped : Bool
  moved : Bool
  deriving DecidableEq, Repr

/-- The sequencer (R117 to R136, R150). -/
structure Seq where
  st : SeqState
  pc : Nat
  loops : List LoopEnt
  lr : Tab Word
  sums : Tab Word
  results : Tab Word
  waitSb : Bool
  waitSum : Bool
  waitTum : Bool
  qFull : Bool
  /-- PROGRAM and PROGRAM_WORDS of the loaded control store (R129). -/
  prog : Nat
  progWords : Nat
  loaded : Bool
  cstore : Tab Nat
  /-- END has issued and the task waits under R130. -/
  ended : Bool
  /-- Name and resolved amount of the tumbler wait of the current word that its tumbler holds, and whether it has passed
  (R431, R432). -/
  tumPending : Option Nat
  tumAmount : Nat
  tumPassed : Bool
  /-- Number of the next word to issue. -/
  issueNo : Nat
  haltRec : Nat
  deriving DecidableEq, Repr

/-- What the checks of a core's memories and tables have counted: single-bit corrections in the core store (or a stack
engine's operand store), the operand cache and the matrix array, suppressed errors, ROM parity errors (R193, R195, R208,
R224, R229, R249, R267, R293). -/
structure Checks where
  cs : Nat
  vec : Nat
  mtx : Nat
  sup : Nat
  rom : Nat
  deriving DecidableEq, Repr

/-- The engines of a core or stack engine. -/
structure Core where
  seq : Seq
  /-- Commit slot of the running task (R281); none when idle. -/
  task : Option Nat
  /-- Commit slot of the latest task, which the halt record and firmware name. -/
  lastTask : Option Nat
  fq : Tab (List QField)
  queues : Tab Queue
  masks : Tab (Option Nat)
  cache : Tab Bytes
  slots : Tab WSlot
  acc : Tab (List Nat)
  bp : Tab Nat
  batch : Option Batch
  row : Option RedRow
  /-- Scan state (R219) and SFU assembly row (R227), as FP32 patterns; entries past the list's end are +0. -/
  h : List Nat
  /-- Steps of the CHUNK at the head of the scan unit that have run (assumption 13). -/
  chunkDone : Nat
  asm : List Nat
  asmOpen : Bool
  movers : Tab Mover
  rands : Tab (Option RandSlot)
  ctrs : Tab RandCtr
  arms : List Nat
  /-- Core store, or staging area of a stack engine (R267, R349). -/
  store : Mem
  /-- DMA_KICK: ring offset handed to each block channel by this core (R327). -/
  quarantined : Bool
  deadbolted : Bool
  lastHaltLap : Option Nat
  /-- Energy counters by engine number, a stack engine's one at 0, and their sum at the start of its task (R103, R344). -/
  energy : Tab Nat
  energySnap : Nat
  /-- Code and check errors that stand in the core's memories and engines, by place (Ecc.lean): 1 a single-bit error, 2 an
  uncorrectable one. They come from outside the commands (assumption 71). -/
  harm : Tab Nat
  checks : Checks
  /-- Lost bank arbitrations of the core store by master (R268, R294). -/
  conf : Tab Nat
  deriving DecidableEq, Repr

/-! ## Memory of a region and of a block -/

/-- A held frame of a page (R54, R281, R284): its task's slot, its lap, the frame, the written map, and whether its fill
copy and parity are complete (R55, R285). -/
structure Held where
  slot : Nat
  lap : Nat
  frame : Nat
  written : Nat
  filled : Bool
  deriving DecidableEq, Repr

/-- A page table entry (R279). The table's one HELD field holds the first of helds; two writers of a page in one lap both
keep a frame until they fail with HELD_CONFLICT (R51, assumption 9). -/
structure PTE where
  frame : Nat
  valid : Bool
  lapLocal : Bool
  helds : List Held
  deriving DecidableEq, Repr

/-- An update record of the page-table update port (R280). -/
structure PtRec where
  page : Nat
  frame : Nat
  valid : Bool
  lapLocal : Bool
  deriving DecidableEq, Repr

/-- A random-stream record (R262). -/
structure RStream where
  key : Nat
  counter : Nat
  valid : Bool
  wrapped : Bool
  deriving DecidableEq, Repr

/-- A pending wait at a tumbler (R432). -/
structure TumPend where
  unit : Nat
  slot : Nat
  amount : Nat
  take : Bool
  deriving DecidableEq, Repr

/-- A tumbler (R426 to R434). -/
structure Tumbler where
  count : Nat
  sat : Bool
  hand : Bool
  signals : Nat
  lastCore : Nat
  lastSource : Nat
  waits : List TumPend
  /-- Slots that signalled it in the lap: more than eight overflow (R434, R510). -/
  sigs : List Nat
  deriving DecidableEq, Repr

/-- A DMA channel beyond its registers (R326 to R341): the ring offset of a core channel and the word that kicked it, the
descriptor in flight, the bytes whose writes have been accepted, that RESUME runs the failing descriptor again, that the
transfer crosses to another part (R332), that it is paused for pacing (R331), and that a fetched descriptor waits: paused, or
for a frame, a shadow line or room in the lap's offload (R392, R604); descriptors written back whose ring has had no room yet, by
ring index (R604); the ring index from which a firmware channel's copy to or from the host window has run, the lap in which a failed copy
runs again, and the copy's failures so far (R339, R390, R391). -/
structure DmaChan where
  ring : Nat
  pc : Nat
  desc : Option Nat
  moved : Nat
  rerun : Bool
  remote : Bool
  paused : Bool
  waits : Bool
  owed : Tab Nat
  copyAt : Option Nat
  rerunLap : Option Nat
  fails : Nat
  deriving DecidableEq, Repr

/-- An indirect copy (R554, R558): table words as last written through it, by word offset, and stream records that wait. -/
structure IndCopy where
  energyLo : Tab (Option Nat)
  streamWords : Tab (Option Nat)
  ptWord0 : Nat
  pendingStreams : List (Nat × RStream)
  deriving DecidableEq, Repr

/-- An error queue (R506, R508, R522). -/
structure ErrQ where
  recs : List Nat
  handling : Bool
  escalated : Bool
  total : Nat
  deriving DecidableEq, Repr

/-- A payload of the resend window (R74): lap, peer, exchange ID, offset and bytes, the rendezvous key and commit slot of the
task that sent it, and the remote signal that it carries (R436, R446). -/
structure Resend where
  lap : Nat
  peer : Nat
  xid : Nat
  offset : Nat
  data : Bytes
  key : Nat
  slot : Nat
  sig : Option Nat
  deriving DecidableEq, Repr

/-- A region. -/
structure Region where
  pt : Tab PTE
  ptPend : List PtRec
  ptForce : List PtRec
  frameSt : Tab (Option Nat)
  poolLowA : Nat
  poolLowB : Nat
  hbm : Mem
  ceCount : Tab Nat
  llWritten : List Nat
  /-- Writer slots of each region-scope lap-local page in the lap, all of them, and every signaller slot (R510). -/
  pageWriters : Tab (List Nat)
  llWriters : List Nat
  tumSignallers : List Nat
  outcomes : Tab Nat
  foldQ : List Nat
  streams : Tab RStream
  tums : Tab Tumbler
  dma : Tab DmaChan
  ind : Tab IndCopy
  errq : ErrQ
  sensors : Tab Int
  resend : List Resend
  retained : List Nat
  ctlFailed : Nat
  deadbolted : Bool
  resetting : Bool
  builtInPassed : Bool
  /-- Reset and tested, and waiting for a lap mark after a system rollback; a rollback has come since the reset (R519). -/
  readmit : Bool
  rolledBack : Bool
  /-- Errors that stand in half-lines of HBM, by frame and half-line: 1 within one symbol, 2 uncorrectable, 3 lost
  (R278, R286, R514, assumption 71). -/
  harm : Tab Nat
  /-- Frames rebuilt since they were last mapped (R288), and frames whose failed slice stands in the parity position (R286). -/
  rebuilt : List Nat
  bare : List Nat
  /-- Uncorrectable half-lines of the lap by pseudo-channel, those of stack 2r + 1 from 64 (R286). -/
  ueLap : Tab Nat
  /-- Pseudo-channels that failed in a stack already DEGRADED, those of stack 2r + 1 from 64 (R514). -/
  lostPcs : List Nat
  /-- Copies of the system structures that a read finds bad: 2 x structure + stack (R287). -/
  sysBad : List Nat
  /-- Retired parity frames, oldest first: the n-th of a stack is replaced by its n-th spare frame (R276, R289). -/
  spared : List Nat
  /-- Frames retired since the latest commit point (R288). -/
  retiredLap : Nat
  /-- The channel of the region DMA engine that each level of bulk served last (R335). -/
  dmaLast : Tab Nat
  deriving DecidableEq, Repr

/-- A shadow line (R58): block-store line, the task's slot and lap, its 128 bytes, and the errors that stand in its words
(R271, assumption 71). -/
structure ShLine where
  line : Nat
  slot : Nat
  lap : Nat
  data : Bytes
  harm : Tab Nat
  deriving DecidableEq, Repr

/-- A scoreboard region (R141); the fields of its entry registers and its counts. -/
structure SbRegion where
  base : Nat
  producer : Nat
  consumers : Nat
  valid : Bool
  lines : Nat
  posted : Nat
  rel : Tab Nat
  deriving DecidableEq, Repr

/-- A hinge operation accepted by the hinge network (R307, R308). -/
structure HingeOp where
  core : Nat
  slot : Nat
  desc : Nat
  commitSlot : Nat
  pc : Nat
  deriving DecidableEq, Repr

/-- A buffer declaration (R89). -/
structure BufDecl where
  base : Nat
  size : Nat
  scope : Nat
  dir : Nat
  writes : Bool
  peer : Nat
  slot : Nat
  deriving DecidableEq, Repr

/-- A speculation epoch of a block (R370, R382). -/
structure Epoch where
  graph : Nat
  guard : Nat
  epoch : Nat
  firstLap : Nat
  holdLaps : Nat
  /-- 1: OPEN. 2: CONFIRMED. 0 in a free record. -/
  st : Nat
  /-- Member slots, as 16384 times the low 16 bits of the lap plus the slot. -/
  members : List Nat
  /-- Stream records held with the epoch (R264). -/
  streams : List (Nat × RStream)
  /-- Held buffers that unguarded tasks of its open laps have declared, and streams that tasks outside it have bound (R372). -/
  metBufs : List BufDecl
  metStreams : List Nat
  deriving DecidableEq, Repr

/-- A block. -/
structure Block where
  bs : Mem
  shadow : List ShLine
  llWritten : List Nat
  /-- Slots that wrote block-scope lap-local lines in the lap, and every signaller slot (R510). -/
  llWriters : List Nat
  tumSignallers : List Nat
  sb : Tab SbRegion
  tums : Tab Tumbler
  conf : Tab Nat
  hingeQ : List HingeOp
  hingeRun : Option HingeOp
  hingeSlots : Tab Nat
  dma : Tab DmaChan
  epochs : Tab Epoch
  errq : ErrQ
  deadbolted : Bool
  /-- Errors that stand in block-store words and in the tile buffer (R271, R314, assumption 71). -/
  harm : Tab Nat
  /-- The channel of the block DMA engine that each level of bulk served last (R335). -/
  dmaLast : Tab Nat
  deriving DecidableEq, Repr

/-! ## Graphs, tasks and laps -/

/-- A task descriptor (R87). -/
structure TaskDesc where
  index : Nat
  kind : Nat
  energyClass : Nat
  capMask : Nat
  phaseTag : Nat
  program : Nat
  programWords : Nat
  workUnits : Nat
  cyclesEst : Nat
  heldPages : Nat
  heldLines : Nat
  resendAllow : Nat
  armList : Nat
  armCount : Nat
  bufList : Nat
  bufCount : Nat
  guardId : Nat
  specEpoch : Nat
  rvKey : Nat
  deriving DecidableEq, Repr

/-- A dependence edge (R91). -/
structure Edge where
  src : Nat
  dst : Nat
  kind : Nat
  deriving DecidableEq, Repr

/-- Progress of one task of an open graph (R64, R92, R105, R147, R379). -/
structure GTask where
  /-- 0: not done. 1: committed. 2: SPEC_HELD. 3: SPEC_DISCARDED. 4: ended, in a graph that has stopped, and will not run again. -/
  done : Nat
  /-- A committed member of a same-lap group that runs again with the group (R512, assumption 17). -/
  again : Bool
  overruns : Nat
  hHalts : Nat
  /-- 0: ordinary. 1: mandatory work. 2: mandatory rendezvous work (R105). -/
  mandatory : Nat
  /-- Laps before which a re-run is not placed (R75, R512). -/
  notBefore : Nat
  /-- The core its class H halt excludes (R147). -/
  avoid : Option Nat
  /-- Transfers of the task that have failed for want of a translation (R339). -/
  xferFails : Nat
  /-- Exchanges that a re-run takes from the producer's resend window: part, exchange ID, lap (R75). -/
  resent : List (Nat × Nat × Nat)
  deriving DecidableEq, Repr

/-- The task will not run again: its latest completion record has FINAL 1 (R493). -/
def GTask.ended (x : GTask) : Bool := (x.done == 1 && !x.again) || x.done == 3 || x.done == 4

/-- A guard entry (R367). -/
structure GuardEnt where
  id : Nat
  resolver : Nat
  ridx : Nat
  cond : Nat
  hold : Nat
  imm : Nat
  deriving DecidableEq, Repr

/-- A guard table (R367): its graph, the submission ring that brought it, the reading of the doorbell array it was consumed after
(R491), and its entries. -/
structure GuardTab where
  graph : Nat
  ring : Nat
  read : Nat
  ents : List GuardEnt
  deriving DecidableEq, Repr

/-- An open graph (R84 to R94). -/
structure Graph where
  id : Nat
  priority : Nat
  ledgerX : Bool
  cplRing : Nat
  evtRing : Nat
  notBefore : Nat
  regionMask : Nat
  tasks : List TaskDesc
  bufs : List (List BufDecl)
  edges : List Edge
  /-- First failure that the read found, for R86: 0 when none. -/
  readFail : Nat
  /-- Submission ring and TAG of its entry, as DETAIL of GRAPH_UNREPORTED has them (R507). -/
  entry : Nat
  resolved : Bool
  /-- Stopped by a fault (R64, R147, R369), and asked to stop by the driver or FLR (R491, R478). -/
  stopped : Bool
  stopAsked : Bool
  st : Tab GTask
  /-- Guards resolved: ID and whether confirmed (R368). -/
  guardsDone : List (Nat × Bool)
  /-- The guard table in force for its GRAPH entry, and how many of its graph's tables, oldest first, that one and the older ones
  are (R367, R491). -/
  guards : List GuardEnt
  guardAge : Nat
  deriving DecidableEq, Repr

/-- A placed task of a lap (R69, R95, R108, R281). -/
structure LapTask where
  graph : Nat
  slot : Nat
  unit : Nat
  desc : TaskDesc
  bufs : List BufDecl
  started : Bool
  finished : Bool
  stopped : Bool
  outcome : Option Nat
  frames : Nat
  lines : Nat
  resend : Nat
  /-- Exchanges consumed: sending part and exchange ID (R66). -/
  xin : List (Nat × Nat)
  /-- Exchanges sent: receiving part and exchange ID. -/
  xout : List (Nat × Nat)
  /-- Consumer records (R62, R510): units whose tasks produced scoreboard regions it waited on or read, blocks read at
  block scope outside any region, region-scope pages read, tumblers whose waits it passed. -/
  rdUnits : List Nat
  rdBlocks : List Nat
  rdPages : List Nat
  rdTums : List Nat
  activeNs : Nat
  energyNj : Nat
  startNs : Nat
  plannedNj : Nat
  results : Tab Word
  /-- Halt record of the task's halt (R148): 0 when it did not halt. -/
  haltRec : Nat
  /-- Runs ahead of its guard in this lap (R369, R370). -/
  spec : Bool
  filler : Bool
  /-- It passed a wait on a tumbler set by hand (R443). -/
  replay : Bool
  /-- Random streams it binds, and their final records (R263, R264). -/
  bound : List Nat
  streams : List (Nat × RStream)
  /-- Slots of its lap-local producers, known at the lap mark (R62, R510). -/
  prods : List Nat
  /-- Host address of its transfer that found no translation (R339). -/
  badAddr : Option Nat
  /-- The ring of its reserved completion record was disabled: the record drops (R478, R500). -/
  noCpl : Bool
  deriving DecidableEq, Repr

/-- A lap-clean word that has arrived (R67). -/
structure Vote where
  src : Nat
  lap : Nat
  clean : Bool
  overflow : Bool
  ids : List Nat
  deriving DecidableEq, Repr

/-- Where the lap sequence of R46 stands. -/
inductive LapPhase
  /-- Not in lap service. -/
  | off
  /-- From a lap mark to its commit point. -/
  | marked
  /-- From the commit point to first issue. -/
  | committed
  /-- From first issue to the next lap mark. -/
  | issuing
  deriving DecidableEq, Repr

/-- The lap timebase and the tasks of the lap. -/
structure LapSt where
  num : Nat
  phase : LapPhase
  cur : List LapTask
  deciding : List LapTask
  plan : List LapTask
  planned : Bool
  /-- The lap is the first since lap service began: its commit point ends no lap. -/
  first : Bool
  votes : List Vote
  /-- Parts still owed a lap-clean word of the deciding lap (R66), and those that were owed one as the commit point passed (R68). -/
  owed : List Nat
  lateTo : List Nat
  lost : List Nat
  missed : Tab Nat
  holdover : Nat
  numHiLatch : Nat
  /-- Slots of firmware channels that a failed transfer discards (R338), in this lap and in the deciding one. -/
  failSlots : List Nat
  failDeciding : List Nat
  /-- Graphs whose transfer with the host window has failed a second time, with the address (R339, R390). -/
  hostStops : List (Nat × Nat)
  /-- Transfers of firmware channels to other parts in this lap: part, exchange ID, slot (R66). -/
  fwOut : List (Nat × Nat × Nat)
  fwDeciding : List (Nat × Nat × Nat)
  /-- Withdrawn rendezvous of the lap: peer and exchange ID named unclean in the word to that peer (R94). -/
  withdrawn : List (Nat × Nat)
  withdrawnDeciding : List (Nat × Nat)
  /-- Ledger and measurements of the deciding lap: energy by region, in nJ (R103, R606). -/
  measured : Tab Nat
  /-- Members that ended SPEC_HELD in an epoch that is still open, with their laps (R377, R493). -/
  specHeld : List (Nat × LapTask)
  /-- Bytes that firmware channels moved to and from host memory in the lap (R392). -/
  offOut : Nat
  offIn : Nat
  /-- The latest mark found SERVICE at 0: the part leaves lap service at the commit point (R575). -/
  stopping : Bool
  /-- Energy of the ended lap by region that its units counted beside that of its tasks: spin (R104, R606). -/
  spin : Tab Nat
  /-- Lap-clean words that came after their commit point, which the lap log records (R71, assumption 86). -/
  late : List Vote
  /-- Writes of the lap, and of the deciding one, into a frame or line that an earlier member of the writer's epoch holds: the place
  and the slot (R374). -/
  joined : List (Nat × Nat)
  joinedDeciding : List (Nat × Nat)
  deriving DecidableEq, Repr

/-- The pacer (R95 to R113). -/
structure PacerSt where
  prevPlannedNj : Nat
  plannedNj : Nat
  leakPrevNj : Tab Nat
  leakNj : Nat
  budgetNj : Nat
  capNj : Tab Nat
  /-- Peak laps among the latest nine, newest first. -/
  peaks : List Bool
  planPeak : Bool
  f : Nat
  pace : Nat
  shed : Bool
  /-- Lap log header fields of the running lap (R107). -/
  hdr : Nat
  /-- Conditions of BUDGET_SHORT, SHED and THERMAL that stood at the latest plan (R507, R498). -/
  shortOn : Bool
  shedOn : Bool
  thermOn : List Nat
  /-- Mandatory tasks that the latest plan point deferred: graph and task (R105, R112). -/
  deferred : List (Nat × Nat)
  deriving DecidableEq, Repr

/-- Pins (R589 to R591). -/
structure Pins where
  powerGood : Bool
  perstN : Bool
  thermtripN : Bool
  paceReq : Nat
  shedN : Bool
  smbAlertN : Bool
  /-- FLASH_PERST0_N and FLASH_PERST1_N: the fundamental reset of each flash device, which firmware drives. -/
  flashPerst0N : Bool
  flashPerst1N : Bool
  /-- A lap-reference input is connected: an edge has been seen on it (R470, R592). -/
  lapRef : Bool
  deriving DecidableEq, Repr

/-- What the part has sent or shown outside, newest first: the model's own record of outputs (assumption 5). -/
inductive Output
  /-- MSI-X vector fired (R498). -/
  | msix (vector addr data : Nat)
  /-- The 256 bytes of a flit sent on a port (R450). -/
  | flit (port : Nat) (bytes : Bytes)
  /-- A value returned to the requester of a register, BAR2 or sideband read. -/
  | read (who tag : Nat) (data : List Nat)
  /-- A sideband response: command, status and payload words (R580). -/
  | sideband (tag code : Nat) (data : List Nat)
  /-- A NOTIFY message to the board's endpoint (R580, R582). -/
  | notify (eid seq kind : Nat) (data : Nat)
  /-- The response to an MCTP control message: its command code and the part's endpoint ID (R573, R580). -/
  | mctp (command eid : Nat)
  /-- An SPDM response: code and bytes (R578). -/
  | spdm (code : Nat) (data : Bytes)
  /-- An aborted PCIe access (R481, R482). -/
  | abort
  /-- A control core's access that ends with a bus error (R547). -/
  | busError
  /-- An error reported through AER (R476, R479). -/
  | aer
  /-- The completion of an ATS invalidation (R485). -/
  | atsDone (addr bytes : Nat)
  /-- A page of an image written to a snapshot flash port: port, image, page of the image (R533). -/
  | flashPage (port image page : Nat) (data : Bytes)
  deriving DecidableEq, Repr

/-! ## Owner tables, the link, guards, the dump -/

/-- An owner table (R300, R301). -/
structure OwnTable where
  log2 : Nat
  count : Nat
  ents : Tab Nat
  deriving DecidableEq, Repr

/-- A table image or an update record that waits for its commit point (R302, R305). -/
structure OwnPend where
  lap : Nat
  table : Nat
  image : Option OwnTable
  block : Nat
  entry : Nat
  deriving DecidableEq, Repr

/-- A segment on its way to another part, with the channel that a refusal reaches (R338, R454) and the byte of its transfer that it
begins at. -/
structure SegOut where
  seg : Nat
  dst : Nat
  eng : DmaEng
  chan : Nat
  pos : Nat
  deriving DecidableEq, Repr

/-- Held transfers received from one sender under one exchange ID: the slot that holds them, and the confirmation of a
transfer from another domain (R66, R73); sent is the LAP its sender named, lap the one it was written in. -/
structure RxHeld where
  src : Nat
  xid : Nat
  sent : Nat
  slot : Nat
  lap : Nat
  cross : Bool
  verdict : Option Bool
  deriving DecidableEq, Repr

/-- A DZL port beyond its registers (R457 to R460): flits waiting with the PRIO of their segments, flits sent and not
acknowledged with their SEQ, the next SEQ, lanes not to be used, retrains failed in
a row, and round trips measured. -/
structure Port where
  tx : List (Nat × Flit)
  replay : List (Nat × Flit)
  seq : Nat
  badLanes : Nat
  fails : Nat
  echoes : List Nat
  deriving DecidableEq, Repr

/-- A marker that is valid or a candidate (R467, R468). -/
structure MarkCand where
  port : Nat
  lap : Nat
  depth : Nat
  gmId : Nat
  gmRank : Nat
  markPs : Int
  deriving DecidableEq, Repr

/-- The link layer of the part. -/
structure LinkSt where
  ports : Tab Port
  segNext : Nat
  segs : List SegOut
  rx : List RxHeld
  /-- Segments on their way through the part: source, destination, SEG, and the port that its HEAD chose (R464). -/
  paths : List (Nat × Nat × Nat × Nat)
  /-- Offers received and sent: part, lap, key (R94). -/
  offersIn : List (Nat × Nat × Nat)
  offersOut : List (Nat × Nat × Nat)
  declined : List (Nat × Nat)
  /-- Vote latency by partner in ps, and PROBE records in a row without an answer (R465). -/
  latency : Tab Nat
  unanswered : Tab Nat
  probeLap : Nat
  upstream : Option Nat
  depth : Nat
  gm : Option (Nat × Nat)
  /-- Valid markers of this lap, and the candidate of an acquiring part. -/
  marks : List MarkCand
  cand : Option MarkCand
  /-- A marker too deep to be valid came in this lap (R469). -/
  deep : Bool
  /-- Where the next lap mark stands against the part's own timebase, in ps (R467, R592); it shows only in time. -/
  markAdjust : Int
  activeGm : Bool
  /-- A LAP_REF edge was taken in this lap; laps in a row without one; the grandmaster's holdover (R592). -/
  edgeTaken : Bool
  edgeMisses : Nat
  gmHoldover : Bool
  /-- A former grandmaster follows the current one until PART_LAP_CFG is written (R470). -/
  stoodDown : Bool
  deriving DecidableEq, Repr

/-- An entry of the synchronisation-state dump (R444, R445): the header as it was made, or the place that it shows. -/
inductive DumpRef
  | header (w : Nat)
  | blockTum (block index : Nat)
  | regionTum (region index : Nat)
  | waiter (core : Nat)
  | scoreboard (block region : Nat)
  | hurdle (id : Nat)
  deriving DecidableEq, Repr

/-- The synchronisation-state dump being read (R444): entries to come, entries read, words of the entry at hand. -/
structure Dump where
  busy : Bool
  /-- Entries still to be read; each takes its contents when its first word is read. -/
  todo : List DumpRef
  /-- The entry being read. -/
  cur : Nat
  read : List Nat
  word : Nat
  deriving DecidableEq, Repr

/-- Part-level units. -/
structure PartSt where
  manager : Option Nat
  /-- The pacer as it stood before the latest plan: what a new manager resumes from (R28). -/
  mirror : PacerSt
  energy : Tab Nat
  /-- Cuts in progress, as kind and unit, and the lanes deadbolted (R505). -/
  cutUnits : List (Nat × Nat)
  lanesDead : List Nat
  missedPolls : Tab Nat
  missedBeats : Tab Nat
  errq : ErrQ
  thermTrip : Bool
  deriving DecidableEq, Repr

/-- The host interface (R484 to R500) and the host memory it reaches. The driver and the host's translations are outside:
mem and unpinned change outside the commands (assumption 6). -/
structure HostSt where
  mem : Mem
  /-- Host extents with no translation: base and length (R484). -/
  unpinned : List (Nat × Nat)
  /-- HEAD of submission ring n at key n, PRODUCED of ring n at key 1024 + n, modulo 2^32 (R488). -/
  ringIdx : Tab Nat
  /-- CONSUMED words as last read (R494). -/
  consumed : Tab Nat
  /-- Submission entries seen and not yet consumed: one ring number each, in consumption order (R489). -/
  subQ : List Nat
  /-- Submission ring first in the next lap's service order. -/
  nextRing : Nat
  /-- Events lost since an EVENTS_LOST record was written (R496). -/
  lostRun : Tab Nat
  /-- Completion records that found no free slot: ring, record without PHASE (R494). -/
  cplWait : List (Nat × Nat)
  heldWrites : List (Nat × Bytes)
  heldReads : List (Nat × Nat)
  hostPages : List (Nat × Nat)
  /-- Nudges that wait, oldest first, and the ring whose entries a nudge had the part consume (R492). -/
  nudges : List Nat
  nudgeRing : Option Nat
  /-- Submission rings with consumed entries whose HEAD has not been written (R489). -/
  headDue : List Nat
  /-- Words of the MSI-X table in BAR4, four to a vector, and the pending bits (R480). -/
  msix : Tab Nat
  pba : List Nat
  /-- ATS Enable of configuration space, and the pages whose translations are cached: base and bytes (R485). -/
  atsEnable : Bool
  atsCache : List (Nat × Nat)
  /-- Readings of the doorbell array so far (R489), and graphs read while another of their ID waits for its resolution, oldest
  first (R500). -/
  doorReads : Nat
  sameId : List Graph
  deriving DecidableEq, Repr

/-! ## Snapshots and the trackside recorder -/

/-- The snapshot unit (R526 to R537). -/
structure SnapSt where
  /-- L, SEQ, slot and RUN_STEP of the request in progress. -/
  lap : Nat
  seq : Nat
  slot : Nat
  runStep : Nat
  /-- Manifest entries (R525). -/
  manifest : List Nat
  /-- Region digests taken at the snapshot point, or read from the header being restored (R532, R537). -/
  digests : List Nat
  /-- Next image page to relay or restore, image pages relayed ahead of it (R528), pages of the image. -/
  next : Nat
  early : List Nat
  total : Nat
  /-- The manifest's pages at the snapshot point: region and page (R525, R526). -/
  pages : List (Nat × Nat)
  /-- Image pages not yet relayed whose contents have changed since the snapshot point: number and bytes as they stood there (R526). -/
  saved : List (Nat × Bytes)
  /-- How many of the header and the pages of stream records, which go first, have been relayed (R528, R530). -/
  head : Nat
  /-- Lap in which the last page went out; the seal follows its commit (R530). -/
  lastLap : Option Nat
  sealing : Bool
  /-- Slot and SEQ of the newest sealed copy of this part, and of each slot. -/
  newest : Option Nat
  slotSeq : Tab Nat
  /-- The part that holds the newest sealed copy (R535). -/
  holder : Option Nat
  /-- Slot being drained to flash (R533). -/
  drain : Option Nat
  /-- Images in namespace 1 of the snapshot flash ports, page by page in image order: even pages on port 0, odd ones on port 1
  (R533). The place of the next holds none from the start of its drain to the end. -/
  images : Tab (List Bytes)
  nextImage : Nat
  /-- Table through which the source reaches this part's relay area (R529). -/
  hosted : Option Nat
  /-- Segments of pushes, as SEG, destination and the SEQ of the snapshot pushed, until their SEG is used again (R304, R450, R537). -/
  pushed : List (Nat × Nat × Nat)
  deriving DecidableEq, Repr

/-- An input record (R538). -/
structure TrkRec where
  lap : Nat
  source : Nat
  region : Nat
  timeNs : Nat
  addr : Nat
  data : Bytes
  deriving DecidableEq, Repr

/-- A journal entry (R539): a page-table switch with the replaced frame and the frame lent for it, a replaced block-store
line, an old stream record, an old owner table (R544, assumption 15). -/
inductive TrkJ
  | page (lap r page frame lent : Nat) (valid lapLocal : Bool)
  | line (lap b line : Nat) (data : Bytes)
  | stream (lap n : Nat) (old : RStream)
  | owner (lap table : Nat) (old : OwnTable)
  deriving DecidableEq, Repr

/-- The trackside recorder (R538 to R544). -/
structure TrkSt where
  recs : List TrkRec
  /-- Laps of which not every input was recorded (R540). -/
  gaps : List Nat
  /-- The lap under way has had a stretch in which inputs were not recorded. -/
  gapNow : Bool
  journal : List TrkJ
  firstLap : Nat
  /-- Last lap recorded whole (R542), and laps that a trigger has still to record whole, its own among them. -/
  lastLap : Nat
  triggerLap : Nat
  postLeft : Nat
  /-- The image that EXPORT writes, made at freeze (R543). -/
  image : Bytes
  /-- Records of a bench re-run (R544): lap log by lap, digest-log entries by lap. -/
  benchLog : Tab Nat
  benchDigest : Tab Nat
  /-- Input records of a bench re-run, in ring order (R544). -/
  benchIn : List TrkRec
  deriving DecidableEq, Repr

/-- A message to the board (R582): a list entry or an error record. -/
structure Notify where
  seq : Nat
  entry : Bool
  data : Nat
  deriving DecidableEq, Repr

/-- The sideband port (R580 to R584): messages that wait, the MCTP endpoint ID, list entries in order of arrival. -/
structure SideSt where
  queue : List Notify
  seq : Nat
  eid : Nat
  lists : List Nat
  deriving DecidableEq, Repr

/-- Boot and security (R569 to R585). -/
structure BootSt where
  /-- The boot flash and whether it can be read. -/
  flash : Mem
  flashOk : Bool
  /-- Slot A has failed; an image has been verified; built-in test is complete. -/
  slotAFailed : Bool
  fwDone : Bool
  bistDone : Bool
  /-- ROLLBACK, BURN and CFG_FLOOR of the booted image. -/
  rollback : Nat
  burn : Bool
  cfgFloor : Nat
  /-- Measurements M1 to M6 (R577). -/
  meas : Tab Nat
  /-- Deadbolts by sideband held until step 7 (R580): kind and unit. -/
  heldDead : List (Nat × Nat)
  nonce : Nat
  debugToken : Bytes
  /-- The alias certificate as last signed (R576, R579). -/
  aliasCert : Bytes
  deriving DecidableEq, Repr

/-- What an SPDM transport has exchanged (R578): how far negotiation has come, and its messages. -/
structure SpdmSt where
  stage : Nat
  vca : Bytes
  certs : Bytes
  meas : Bytes
  deriving DecidableEq, Repr

/-- The state of the part. -/
structure State where
  fuses : Fuses
  flds : Tab Tri
  shadows : Tab (Option Tri)
  lap : LapSt
  pacer : PacerSt
  graphs : List Graph
  cores : Tab Core
  regions : Tab Region
  blocks : Tab Block
  owners : Tab OwnTable
  ownPend : List OwnPend
  link : LinkSt
  /-- Guard tables, newest first (R367). -/
  guards : List GuardTab
  hurdles : Tab Nat
  dump : Dump
  part : PartSt
  host : HostSt
  side : SideSt
  boot : BootSt
  spdm : Tab SpdmSt
  snap : SnapSt
  trk : TrkSt
  /-- The lap log ring (R107, R560) in the system frames of a manager's region: that of region r from r x 2^28 up; and the
  digest log (R540). -/
  lapLog : Mem
  digests : Tab Nat
  pins : Pins
  out : List Output
  /-- The MODEL's own counter behind Config.freeNat (assumption 3). -/
  freeCtr : Nat
  /-- Commands waiting, first in first out. -/
  pending : List Instr
  deriving DecidableEq, Repr

/-! ## Reset values -/

def queueReset : Queue := ⟨[], none, none⟩
def wslotReset : WSlot := ⟨.empty, 0, 0, [], []⟩
def moverReset : Mover := ⟨.unarmed, 0, 0, 0, 0, 0, 0, false, 0, 0, 0, 0, 0, false, 0, none, false, 0, false, 0, 0, false, false, [], none, []⟩
def randCtrReset : RandCtr := ⟨0, 0, false, false⟩
def seqReset : Seq := ⟨.idle, 0, [], [], [], [], false, false, false, false, 0, 0, false, [], false, none, 0, false, 0, 0⟩
def checksReset : Checks := ⟨0, 0, 0, 0, 0⟩
def coreReset : Core :=
  ⟨seqReset, none, none, [], [], [], [], [], [], [], none, none, [], 0, [], false,
    [], [], [], [], [], false, false, none, [], 0, [], checksReset, []⟩
def pteReset : PTE := ⟨0, false, false, []⟩
def rstreamReset : RStream := ⟨0, 0, false, false⟩
def tumReset : Tumbler := ⟨0, false, false, 0, 0, 0, [], []⟩
def dmaReset : DmaChan := ⟨0, 0, none, 0, false, false, false, false, [], none, none, 0⟩
def indReset : IndCopy := ⟨[], [], 0, []⟩
def portReset : Port := ⟨[], [], 0, 0, 0, []⟩
def errqReset : ErrQ := ⟨[], false, false, 0⟩
def regionReset : Region :=
  ⟨[], [], [], [], 0, 0, [], [], [], [], [], [], [], [], [], [], [], [], errqReset, [], [], [], 0, false, false, false, false, false,
    [], [], [], [], [], [], [], 0, []⟩
def sbReset : SbRegion := ⟨0, 0, 0, false, 0, 0, []⟩
def dumpReset : Dump := ⟨false, [], 0, [], 0⟩
def epochReset : Epoch := ⟨0, 0, 0, 0, 0, 0, [], [], [], []⟩
def blockReset : Block := ⟨[], [], [], [], [], [], [], [], [], none, [], [], [], errqReset, false, [], []⟩
def gtaskReset : GTask := ⟨0, false, 0, 0, 0, 0, none, 0, []⟩
def pacerReset : PacerSt := ⟨0, 0, [], 0, 0, [], [], false, 100, 0, false, 0, false, false, [], []⟩
def bootReset : BootSt := ⟨[], false, false, false, false, 0, false, 0, [], [], 0, [], []⟩
def spdmReset : SpdmSt := ⟨0, [], [], []⟩

/-- The part right after power is good and before boot: every field at its reset value (assumption 1). -/
def State.reset : State where
  fuses := ⟨.iz8a, [], [], [], [], 0, none, 0, 0, 1500⟩
  flds := []
  shadows := []
  lap := ⟨0, .off, [], [], [], false, false, [], [], [], [], [], 0, 0, [], [], [], [], [], [], [], [], [], 0, 0, false, [], [], [], []⟩
  pacer := pacerReset
  graphs := []
  cores := []
  regions := []
  blocks := []
  owners := []
  ownPend := []
  link := ⟨[], 0, [], [], [], [], [], [], [], [], 0, none, 0, none, [], none, false, 0, false, false, 0, false, false⟩
  guards := []
  hurdles := []
  dump := dumpReset
  part := ⟨none, pacerReset, [], [], [], [], [], errqReset, false⟩
  host := ⟨[], [], [], [], [], 0, [], [], [], [], [], [], none, [], [], [], false, [], 0, []⟩
  side := ⟨[], 0, 0, []⟩
  boot := bootReset
  spdm := []
  snap := ⟨0, 0, 0, 0, [], [], 0, [], 0, [], [], 0, none, false, none, [], none, none, [], 0, none, []⟩
  trk := ⟨[], [], true, [], 0, 0, 0, 0, [], [], [], []⟩
  lapLog := []
  digests := []
  pins := ⟨false, false, true, 0, true, true, false, false, false⟩
  out := []
  freeCtr := 0
  pending := []

end Sys2Proof.Machine
end

