-- ==== Sys2Proof/Machine/Ops.lean ====
section
/-! DEFINITION. The named operations over registers, host rings, error queues and the board's queue. -/

namespace Sys2Proof.Machine

/-! ## Units -/

/-- Whether a unit number names a stack engine (512 to 527, R559). -/
def isSE (u : Nat) : Bool := decide (512 ≤ u)

/-- Region of a unit (R18, R19). -/
def unitRegion (u : Nat) : Nat := if isSE u then (u - 512) / 2 else u / 64

/-- Block of a core (R18). -/
def unitBlock (u : Nat) : Nat := u / 8

def getCore (s : State) (u : Nat) : Core := tabGet coreReset s.cores u
def setCore (s : State) (u : Nat) (c : Core) : State := { s with cores := tabSet coreReset s.cores u c }
def updCore (s : State) (u : Nat) (f : Core → Core) : State := setCore s u (f (getCore s u))
def updSeq (s : State) (u : Nat) (f : Seq → Seq) : State := updCore s u (fun c => { c with seq := f c.seq })
def getRegion (s : State) (r : Nat) : Region := tabGet regionReset s.regions r
def setRegion (s : State) (r : Nat) (x : Region) : State := { s with regions := tabSet regionReset s.regions r x }
def updRegion (s : State) (r : Nat) (f : Region → Region) : State := setRegion s r (f (getRegion s r))
def getBlock (s : State) (b : Nat) : Block := tabGet blockReset s.blocks b
def setBlock (s : State) (b : Nat) (x : Block) : State := { s with blocks := tabSet blockReset s.blocks b x }
def updBlock (s : State) (b : Nat) (f : Block → Block) : State := setBlock s b (f (getBlock s b))
def updLap (s : State) (f : LapSt → LapSt) : State := { s with lap := f s.lap }
def updHost (s : State) (f : HostSt → HostSt) : State := { s with host := f s.host }
def updPart (s : State) (f : PartSt → PartSt) : State := { s with part := f s.part }
def emit (s : State) (o : Output) : State := { s with out := o :: s.out }

/-- The next free value (assumption 3). -/
def drawFree (s : State) : Nat × State := (Config.freeNat s.freeCtr, { s with freeCtr := s.freeCtr + 1 })

/-! ## Energy counters (R103, R344) -/

/-- What the counters of a unit hold together. -/
def energySum (t : Tab Nat) : Nat := (t.map (·.2)).sum

/-- Spread what a core has counted over the counters of its engines: how it divides is free, the sum is not. -/
def shareEnergy (d : Nat) : List Nat → Nat → Tab Nat → Tab Nat
  | [], n, t => tabUpd 0 t 14 (· + n)
  | e :: l, n, t => shareEnergy d l (n - min n (Config.energyShare d e)) (tabUpd 0 t e (· + min n (Config.energyShare d e)))

/-- A unit counts energy, a core in the counters of its fifteen engines and a stack engine in its one (R103, R344). -/
def spend (s : State) (u n : Nat) : State :=
  let d := drawFree s
  updCore d.2 u fun c => { c with energy := if isSE u then tabUpd 0 c.energy 0 (· + n) else shareEnergy d.1 (rangeFrom 0 14) n c.energy }

/-- Regions of the grade (R1, R5). -/
def regionCount : Grade → Nat
  | .iz4a => 4
  | _ => 8

def nRegions (s : State) : Nat := regionCount s.fuses.grade
def regionPresent (s : State) (r : Nat) : Bool := decide (r < nRegions s)
def regionAlive (s : State) (r : Nat) : Bool := regionPresent s r && !(getRegion s r).deadbolted
def blockAlive (s : State) (b : Nat) : Bool := regionAlive s (b / 8) && !(getBlock s b).deadbolted

/-- Whether the part is in lap service (R46, R575). -/
def inService (s : State) : Bool := decide (s.lap.phase ≠ .off)

/-! ## Register fields -/

def spaceIdx : Space → Nat
  | .host => 0 | .part => 1 | .rgn => 2 | .blk => 3 | .core => 4 | .se => 5 | .dzl => 6

/-- Key of one copy of a field: unit within its space, and copy selected by an index register. -/
def fldKey (f : Fld) (unit sel : Nat) : Nat :=
  (((spaceIdx f.space * 1024 + unit) * 65536 + sel) * 65536 + f.off) * 32 + f.lo

/-- Bridges that YL-IZ4-A lacks (R21, R40). -/
def bridgeAbsent (g : Grade) (b : Nat) : Bool :=
  match g with
  | .iz4a => !(b == 0 || b == 3 || b == 6 || b == 8 || b == 9)
  | _ => false

/-- Reset value of a field: that of its table, and the values given per grade or per channel (R40, R341, R342). -/
def fldDefault (g : Grade) (f : Fld) (sel : Nat) : Nat :=
  if f = fPART_BRIDGE_STATUS_STATE then (if bridgeAbsent g sel then 3 else 0)
  else if f = fPART_BRIDGE_STATUS_SERVICE_UP then b2n (!bridgeAbsent g sel)
  else if f = fBLK_DMA_CFG_OWNER then sel / 2
  else if f = fRGN_DMA_CFG_FW then b2n (decide (8 ≤ sel))
  else f.reset

/-- Majority of three copies; the first where all differ (R12). -/
def voteTri (t : Tri) : Nat := if t.a = t.b then t.a else if t.a = t.c then t.a else if t.b = t.c then t.b else t.a

def triOf (v : Nat) : Tri := ⟨v, v, v⟩

/-- Value of a field in force. -/
def fget (s : State) (f : Fld) (unit sel : Nat) : Nat :=
  voteTri (tabGet (triOf (fldDefault s.fuses.grade f sel)) s.flds (fldKey f unit sel))

/-- Write a field in force: all three copies (R552). -/
def fput (s : State) (f : Fld) (unit sel v : Nat) : State :=
  { s with flds := tabSet (triOf (fldDefault s.fuses.grade f sel)) s.flds (fldKey f unit sel) (triOf (v % 2 ^ f.width)) }

/-- Count in a field, saturating at its width. -/
def fbump (s : State) (f : Fld) (unit sel k : Nat) : State := fput s f unit sel (satAdd f.width (fget s f unit sel) k)

/-- Pool size of a region in frames per stack (R53, R284). -/
def poolHalf (s : State) (r : Nat) : Nat := fget s fRGN_LAP_POOL_CFG_POOL_SIZE r 0 * 4096

/-! ## Bridges and routes (R17, R20 to R26, R290, R335) -/

/-- The two regions that each bridge joins (R20, R40). -/
def bridgeEnds (b : Nat) : Nat × Nat :=
  match b with
  | 0 => (0, 2) | 1 => (2, 4) | 2 => (4, 6) | 3 => (1, 3) | 4 => (3, 5) | 5 => (5, 7) | 6 => (2, 3) | 7 => (4, 5)
  | 8 => (0, 1) | 9 => (0, 1) | _ => (6, 7)

def bridgeState (s : State) (b : Nat) : Nat := fget s fPART_BRIDGE_STATUS_STATE 0 b

/-- Whether a bridge's fabric lanes carry traffic: it is UP, and neither end is behind a region deadbolt (R290). -/
def fabricUp (s : State) (b : Nat) : Bool :=
  bridgeState s b == 0 && regionAlive s (bridgeEnds b).1 && regionAlive s (bridgeEnds b).2

/-- Whether a bridge's service lane carries traffic; a region deadbolt leaves it open (R26). -/
def serviceUp (s : State) (b : Nat) : Bool := fget s fPART_BRIDGE_STATUS_SERVICE_UP 0 b == 1

/-- Bridges along a row between two columns, in order of travel (R17, R20). -/
def rowWalk (row c d : Nat) : List Nat :=
  if c ≤ d then (rangeFrom c (d - c)).map (· + 3 * row) else ((rangeFrom d (c - d)).map (· + 3 * row)).reverse

/-- The bridge that crosses vertically in a column: of a doubled pair the one that bit 16 of the address picks, or the
survivor (R22, R24). -/
def crossing (up : Nat → Bool) (c a : Nat) : Nat :=
  if c = 1 then 6 else if c = 2 then 7
  else
    let first := if c = 0 then 8 else 10
    let pick := first + a / 65536 % 2
    if up pick then pick else first + (1 - a / 65536 % 2)

/-- The fixed route: along the row to the destination's column, then vertically (R22). -/
def rowFirst (up : Nat → Bool) (src dst a : Nat) : List Nat :=
  rowWalk (src % 2) (src / 2) (dst / 2) ++ (if src % 2 = dst % 2 then [] else [crossing up (dst / 2) a])

/-- The reroute around a failed bridge: to the other row first, then horizontally (R24). -/
def otherRow (up : Nat → Bool) (src dst a : Nat) : List Nat :=
  crossing up (src / 2) a :: rowWalk (1 - src % 2) (src / 2) (dst / 2) ++
    (if src % 2 = dst % 2 then [crossing up (dst / 2) a] else [])

/-- The route between two regions: R22's, or where it has failed R24's; none where both have. -/
def routeOf (up : Nat → Bool) (src dst a : Nat) : Option (List Nat) :=
  if (rowFirst up src dst a).all up then some (rowFirst up src dst a)
  else if (otherRow up src dst a).all up then some (otherRow up src dst a)
  else none

/-- One step of a walk over working bridges. -/
def spread (up : Nat → Bool) (rs : List Nat) : List Nat :=
  (rangeFrom 0 12).foldl (fun l b =>
    let e := bridgeEnds b
    if up b && hasNat l e.1 then insNat l e.2 else if up b && hasNat l e.2 then insNat l e.1 else l) rs

/-- Regions that a region reaches over working bridges. -/
def reached (up : Nat → Bool) : Nat → List Nat → List Nat
  | 0, l => l
  | n + 1, l => reached up n (spread up l)

/-- Whether a region reaches another: by its route, or where R22 and R24 give none that works by any chain of working bridges
(DEDUCED, assumption 79). -/
def pathUp (up : Nat → Bool) (src dst a : Nat) : Bool :=
  src == dst || (routeOf up src dst a).isSome || hasNat (reached up 8 [src]) dst

/-- Region that sends firmware's records: the part manager's. -/
def managerRegion (s : State) : Nat := s.part.manager.getD 0

/-- The region that serves the PCIe endpoint (R26, R328). -/
def endpointRegion (s : State) : Nat := if regionAlive s 0 then 0 else managerRegion s

/-- Whether the endpoint is served: from region 0, or over the service lanes from the manager's region (R26). -/
def endpointUp (s : State) : Bool :=
  regionAlive s 0 || match s.part.manager with
    | some m => pathUp (serviceUp s) 0 m 0
    | none => false

/-! ## Host memory and rings -/

/-- The cached translation of a host address: base and bytes of its page (R485). -/
def atsHit (c : List (Nat × Nat)) (h : Nat) : Option (Nat × Nat) := c.find? fun p => decide (p.1 ≤ h ∧ h < p.1 + p.2)

/-- Whether every host byte from lo up to hi, hi left out, has a cached translation. -/
def atsCovers : Nat → List (Nat × Nat) → Nat → Nat → Bool
  | 0, _, lo, hi => decide (hi ≤ lo)
  | k + 1, c, lo, hi =>
    if hi ≤ lo then true
    else match atsHit c lo with
      | some p => atsCovers k c (p.1 + p.2) hi
      | none => false

/-- Whether host bytes h to h + n - 1 translate (R484), and the endpoint is served (R26, assumption 79). With ATS enabled a cached
translation serves until it is invalidated (R485). -/
def hostOk (s : State) (h n : Nat) : Bool :=
  endpointUp s && decide (h + n ≤ 2 ^ 51) && !s.host.unpinned.any (fun e => decide (h < e.1 + e.2 ∧ e.1 < h + n) &&
    !(s.host.atsEnable && atsCovers (n / 4096 + 2) s.host.atsCache (max h e.1) (min (h + n) (e.1 + e.2))))

/-- The page in which the host translates an address: a power of two from 4 KiB up, its size the host's own (R485). -/
def atsPage (h : Nat) : Nat × Nat :=
  let k := 2 ^ (12 + Config.atsPageLog h % 40)
  (h / k * k, k)

/-- Request the translations from lo up to hi, hi left out, that are not cached; at most 8,192 are kept (R485). -/
def atsRequest : Nat → Nat → Nat → List (Nat × Nat) → List (Nat × Nat)
  | 0, _, _, c => c
  | k + 1, lo, hi, c =>
    if hi ≤ lo then c
    else match atsHit c lo with
      | some p => atsRequest k (p.1 + p.2) hi c
      | none =>
        let p := atsPage lo
        atsRequest k (p.1 + p.2) hi (if c.length < 8192 then p :: c else c)

/-- Keep the translations of an access in the part's cache (R485). -/
def hostTouch (s : State) (h n : Nat) : State :=
  if s.host.atsEnable then updHost s fun x => { x with atsCache := atsRequest (n / 4096 + 2) h (h + n) x.atsCache } else s

def hostRead (s : State) (h n : Nat) : Bytes := memRead s.host.mem h n

/-- A bench re-run is in progress: its outbound DZL traffic and its host writes are discarded (R544). -/
def benchOn (s : State) : Bool := inService s && fget s fPART_TRK_CFG_BENCH 0 0 == 1

/-- Write host memory; a bench re-run discards what it writes (R544). -/
def hostWrite (s : State) (h : Nat) (b : Bytes) : State :=
  if benchOn s then s else updHost s fun x => { x with mem := memWrite x.mem h b }

def ringSel (side : Bool) (n : Nat) : Nat := n + 1024 * b2n side
def ringBase (s : State) (sel : Nat) : Nat :=
  fget s fHOST_RING_BASE_HI_BASE_HI 0 sel * 2 ^ 32 + fget s fHOST_RING_BASE_LO_BASE_LO 0 sel * 4096
def ringSize (s : State) (sel : Nat) : Nat := 2 ^ fget s fHOST_RING_CFG_SIZE_LOG2 0 sel
def ringOn (s : State) (sel : Nat) : Bool := fget s fHOST_RING_CFG_ENABLE 0 sel == 1
def dbBase (s : State) : Nat :=
  fget s fHOST_DB_BASE_HI_BASE_HI 0 0 * 2 ^ 32 + fget s fHOST_DB_BASE_LO_BASE_LO 0 0 * 4096
def idxBase (s : State) : Nat :=
  fget s fHOST_IDX_BASE_HI_BASE_HI 0 0 * 2 ^ 32 + fget s fHOST_IDX_BASE_LO_BASE_LO 0 0 * 4096
def ringIndex (s : State) (sel : Nat) : Nat := tabGet 0 s.host.ringIdx sel
def setRingIndex (s : State) (sel v : Nat) : State :=
  updHost s fun x => { x with ringIdx := tabSet 0 x.ringIdx sel (v % 2 ^ 32) }

/-- Free slots of a completion or event ring, by the CONSUMED word last read (R494). -/
def ringFree (s : State) (ring : Nat) : Nat :=
  ringSize s (1024 + ring) - (ringIndex s (1024 + ring) + 2 ^ 32 - tabGet 0 s.host.consumed ring) % 2 ^ 32

/-- Whether a ring is enabled with the TYPE given: 0 COMPLETION, 1 EVENT, 2 ERROR (R487). -/
def ringIs (s : State) (ring type : Nat) : Bool :=
  decide (ring < 1024) && ringOn s (1024 + ring) && fget s fHOST_RING_CFG_TYPE 0 (1024 + ring) == type

/-- Word i of the MSI-X table: message address, its upper half, message data and vector control, whose bit 0 masks the vector
and is set after a reset (R478, R480; PRESUMED, assumption 115). -/
def msixWord (s : State) (i : Nat) : Nat := tabGet (b2n (i % 4 == 3)) s.host.msix i

/-- Send the message of a vector. -/
def msixSend (s : State) (v : Nat) : State :=
  emit s (.msix v (msixWord s (4 * v) + msixWord s (4 * v + 1) * 2 ^ 32) (msixWord s (4 * v + 2)))

/-- Fire an MSI-X vector, while the endpoint is served (R26); a masked one sets its pending bit (R480, R498). -/
def fireVector (s : State) (v : Nat) : State :=
  if !endpointUp s then s
  else if nbit (msixWord s (4 * v + 3)) 0 then updHost s fun x => { x with pba := insNat x.pba v } else msixSend s v

/-- A write to BAR4 (R480): a word of the MSI-X table, whose vector sends a pending message when it is unmasked; the pending bits
take no write (PRESUMED, assumption 115). -/
def bar4Write (s : State) (o v : Nat) : State :=
  if 0x8000 ≤ o then s
  else
    let i := o / 4
    let s := updHost s fun x => { x with msix := tabSet (b2n (i % 4 == 3)) x.msix i (if i % 4 = 3 then v % 2 else v) }
    if i % 4 = 3 ∧ v % 2 = 0 ∧ hasNat s.host.pba (i / 4) then
      msixSend (updHost s fun x => { x with pba := x.pba.filter fun n => n != i / 4 }) (i / 4)
    else s

/-- Append a message to the board's queue of 4,096: the oldest error record goes first when it is full, the new one itself where no
other waits, which is then sent but once (R582; DEDUCED, assumption 135). -/
def notify (s : State) (entry : Bool) (data : Nat) : State :=
  let m : Notify := ⟨s.side.seq, entry, data⟩
  let q := s.side.queue
  let q := if q.length < 4096 then q ++ [m] else (q ++ [m]).eraseP (fun x => !x.entry)
  let s := { s with side := { s.side with queue := q, seq := s.side.seq + 1 }, pins := { s.pins with smbAlertN := false } }
  emit s (.notify s.side.eid m.seq (b2n entry) data)

/-! ## Error records (R506 to R509) -/

/-- An error record (R506): class, level, cause, unit, unit kind, lap, part, action, detail, check. -/
def errRecord (s : State) (cls level cause unit kind action detail : Nat) : Nat :=
  crcSeal 32 (cls + level * 2 ^ 4 + cause * 2 ^ 8 + unit * 2 ^ 16 + kind * 2 ^ 28 + s.lap.num % 2 ^ 48 * 2 ^ 32 +
    fget s fPART_ID_ID 0 0 * 2 ^ 80 + action * 2 ^ 104 + detail % 2 ^ 64 * 2 ^ 112)

/-- Disable a ring, whose entries seen are let go, and set FAULT (R497). -/
def ringFaultMark (s : State) (sel : Nat) : State :=
  updHost (fput (fput s fHOST_RING_CFG_ENABLE 0 sel 0) fHOST_RING_STATUS_FAULT 0 sel 1) fun x => { x with subQ := x.subQ.filter fun n => n != sel }

/-- Host address of the next record of a completion or event ring, and of its PRODUCED word (R488). -/
def recordSlot (s : State) (ring : Nat) : Nat :=
  ringBase s (1024 + ring) + 64 * (ringIndex s (1024 + ring) % ringSize s (1024 + ring))
def producedWord (s : State) (ring : Nat) : Nat := idxBase s + 8 * (1024 + ring)

/-- The host address at which a record of a ring fails. -/
def ringBad (s : State) (ring : Nat) : Nat := if hostOk s (recordSlot s ring) 64 then producedWord s ring else recordSlot s ring

/-- Write one 64-byte record to a completion or event ring and its PRODUCED word; none where a translation fails. -/
def ringPut (s : State) (ring : Nat) (mk : Nat → Nat) : Option State :=
  let sel := 1024 + ring
  let p := ringIndex s sel
  let n := ringSize s sel
  let a := recordSlot s ring
  let w := producedWord s ring
  if hostOk s a 64 && hostOk s w 8 then
    let s := hostTouch (hostTouch s a 64) w 8
    let s := hostWrite s a (natLe 64 (crcSeal 64 (mk (1 - p / n % 2))))
    some (setRingIndex (hostWrite s w (natLe 8 ((p + 1) % 2 ^ 32))) sel (p + 1))
  else none

/-- An event record without PHASE and CHECK (R495). -/
def eventWord (type code gid lap task detail phase : Nat) : Nat :=
  type + phase * 2 ^ 8 + code % 256 * 2 ^ 16 + gid % 2 ^ 32 * 2 ^ 32 + lap % 2 ^ 48 * 2 ^ 64 + task % 2 ^ 16 * 2 ^ 112 +
    detail % 2 ^ 320 * 2 ^ 128

/-- The DETAIL of HOST_RING_FAULT for a failing host address or a TAIL overrun (R507). -/
def ringFaultDetail (sel addr : Nat) (overrun : Bool) : Nat :=
  sel % 1024 + sel / 1024 * 2 ^ 10 + b2n overrun * 2 ^ 11 + (if overrun then 0 else addr % 2 ^ 51 * 2 ^ 12)

/-- What becomes of an event: written, counted as lost, or met by a failed translation. -/
inductive RingEnd
  | written | lost | fault
  deriving DecidableEq, Repr

/-- Put one record on an event ring and fire its vector; a failed translation is a fault (R495, R497). -/
def putEvent (s : State) (ring : Nat) (mk : Nat → Nat) (irq : Bool) (how : RingEnd) : State × RingEnd :=
  match ringPut s ring mk with
  | some s => (if irq && fget s fHOST_RING_CFG_IRQ_EN 0 (1024 + ring) == 1 then fireVector s ring else s, how)
  | none => (ringFaultMark s (1024 + ring), .fault)

/-- An EVENTS_LOST record, which leaves the count of lost events at next (R496). -/
def putLost (s : State) (ring count next : Nat) (irq : Bool) : State × RingEnd :=
  let s := updHost s fun x => { x with lostRun := tabSet 0 x.lostRun ring next }
  putEvent s ring (eventWord 0x0F 0 0 s.lap.num 0 count) irq .lost

/-- One event with no count that goes before it: the last free slot takes an EVENTS_LOST record instead, and with no slot it is
counted alone (R496). -/
def putOrLose (s : State) (ring : Nat) (mk : Nat → Nat) (irq : Bool) : State × RingEnd :=
  let lost := tabGet 0 s.host.lostRun ring + 1
  if 2 ≤ ringFree s ring then putEvent s ring mk irq .written
  else
    let s := fbump s fHOST_RING_STATUS_LOST 0 (1024 + ring) 1
    if ringFree s ring = 0 then (updHost s fun x => { x with lostRun := tabSet 0 x.lostRun ring lost }, .lost)
    else putLost s ring lost lost irq

/-- Write one event to a ring. Where events have been lost and there is room again, their count goes out in a record of its own
before it (R496). -/
def ringEvent (s : State) (ring : Nat) (mk : Nat → Nat) (irq : Bool) : State × RingEnd :=
  if tabGet 0 s.host.lostRun ring = 0 ∨ ringFree s ring < 2 then putOrLose s ring mk irq
  else
    let r := putLost s ring (tabGet 0 s.host.lostRun ring) 0 irq
    if r.2 = .fault then r else putOrLose r.1 ring mk irq

/-- Write an error record to each enabled ERROR ring and fire its class vector (R498, R501); the rings that failed. -/
def errRings (rec : Nat) : List Nat → State → List Nat → State × List Nat
  | [], s, bad => (s, bad)
  | ring :: t, s, bad =>
    if ringIs s ring 2 then
      let r := ringEvent s ring (eventWord 0x10 (rec % 16) 0 s.lap.num 0 rec) false
      errRings rec t (if r.2 = .written then fireVector r.1 (1024 + rec % 16) else r.1) (if r.2 = .fault then bad ++ [ring] else bad)
    else errRings rec t s bad

/-- Completion and event rings that any register or index names: the only ones that can be enabled. -/
def ringsNamed (s : State) : List Nat :=
  (s.flds.filterMap fun e =>
    let sel := e.1 / (65536 * 32) % 65536
    if e.1 / (65536 * 32 * 65536) = 0 ∧ 1024 ≤ sel then some (sel - 1024) else none).foldl insNat []

/-- A trigger of the trackside recorder (R542): its lap and POST_LAPS more are to be recorded whole. -/
def trkTrigger (s : State) : State :=
  if fget s fPART_TRK_STATUS_STATE 0 0 = 1 then
    let s := fput s fPART_TRK_STATUS_STATE 0 0 2
    { s with trk := { s.trk with triggerLap := s.lap.num, postLeft := fget s fPART_TRK_CFG_POST_LAPS 0 0 + 1 } }
  else fbump s fPART_TRK_STATUS_TRIGGERS 0 0 1

def trkState (s : State) : Nat := fget s fPART_TRK_STATUS_STATE 0 0
def setTrkState (s : State) (v : Nat) : State := fput s fPART_TRK_STATUS_STATE 0 0 v

/-- Whether the recorder appends records: RECORDING, or TRIGGERED until it freezes. -/
def recordingOn (s : State) : Bool := trkState s == 1 || trkState s == 2

/-- Append an input record (R538): its arrival time within the lap is a free value. -/
def trkInput (s : State) (source region addr : Nat) (data : Bytes) : State :=
  if recordingOn s then
    let t := drawFree s
    { t.2 with trk := { t.2.trk with recs := t.2.trk.recs ++ [⟨t.2.lap.num, source, region, t.1 % 2 ^ 24, addr, data⟩] } }
  else s

/-- The host endpoint lies on region 0 (R25). -/
def hostRegion : Nat := 0

/-- A write of a register by the driver, at its BAR0 offset, as an input record (R538, R546). -/
def driverWrite (s : State) (o v : Nat) : State := trkInput s 2 hostRegion (0x200_0000_0000 + o) (natLe 4 v)

/-- An access of the part that reads host memory: cached translation, recorded input (R485, R538). -/
def hostFetch (s : State) (h n : Nat) : State := trkInput (hostTouch s h n) 1 hostRegion h (hostRead s h n)

/-- What becomes of a record that arrives at a queue (R509). -/
inductive Arrive
  | enter | overflow | refence
  deriving DecidableEq, Repr

/-- Class H reasons (R149). -/
def classH (reason : Nat) : Bool := decide (0x16 ≤ reason ∧ reason ≤ 0x1A)

/-- Whether a record reports a fault of its unit, not a halt that a program or a requester has caused (DEDUCED, assumption 75). -/
def faultRec (rec : Nat) : Bool :=
  let cause := nbits rec 8 8
  let reason := nbits rec 128 8
  !((cause == 0x01 || cause == 0x0B) && (reason == 0x1A || !classH reason))

/-- Whether a record says what handling an earlier record of its unit has found or done: CORE_SELFTEST, BLOCK_STATE_LOST, SE_LOST,
SE_COVERING. It repeats a record of its own cause only (DEDUCED, assumption 75). -/
def madeRec (rec : Nat) : Bool :=
  let cause := nbits rec 8 8
  cause == 0x02 || cause == 0x06 || cause == 0x0C || cause == 0x1E

/-- Whether a record repeats a fault of a unit that an earlier one names (R509); the part is no unit that is fenced. -/
def repeats (rec r : Nat) : Bool :=
  nbits rec 28 4 != 8 && nbits r 16 16 == nbits rec 16 16 && faultRec rec && faultRec r &&
    ((!madeRec rec && !madeRec r) || nbits r 8 8 == nbits rec 8 8)

def arrive (q : ErrQ) (rec : Nat) : Arrive :=
  if q.recs.length ≥ 8 then .overflow else if q.recs.any (repeats rec) then .refence else .enter

/-- The queue after a record has arrived. -/
def errqTake (q : ErrQ) (rec : Nat) : ErrQ :=
  match arrive q rec with
  | .enter => { q with recs := q.recs ++ [rec], handling := true, total := satAdd 16 q.total 1 }
  | _ => { q with escalated := true, total := satAdd 16 q.total 1 }

/-- The escalated copy of a record for the next level: ESCALATED set, cause QUEUE_OVERFLOW or REFENCE (R509). -/
def escalate (rec level action : Nat) (ovf : Bool) : Nat :=
  let detail := if ovf then nbits rec 8 8 + nbits rec 16 12 * 2 ^ 8 else nbits rec 8 8
  let w := putBits (putBits (putBits (putBits rec 4 2 level) 6 1 1) 8 8 (if ovf then 0x16 else 0x17)) 112 64 detail
  crcSeal 32 (putBits w 104 8 action)

/-- Take a record into the part's queue, with what passes it on: an escalation goes to the system (R501, R509). -/
def partTake (out : State → Nat → State) (s : State) (rec : Nat) : State :=
  let a := arrive s.part.errq rec
  let s := updPart s fun p => { p with errq := errqTake p.errq rec }
  match a with
  | .enter => out s rec
  | .overflow => out s (escalate rec 3 7 true)
  | .refence => out s (escalate rec 3 7 false)

/-- Pass an error record on to the host and the board as it enters a queue (R501, R582). A ring that fails while it takes the
record is disabled, and its HOST_RING_FAULT is a record of the part's queue in turn (R497); no ring fails twice. -/
def errOutN : Nat → State → Nat → State
  | 0, s, _ => s
  | n + 1, s, rec =>
    let s := notify s false rec
    let s := if nbit (fget s fPART_TRK_CFG_CLASS_MASK 0 0) (rec % 16) then trkTrigger s else s
    let rings := ringsNamed s
    let r := errRings rec rings s []
    let s := if rings.any (fun r => ringIs s r 2) then r.1 else fireVector r.1 (1024 + rec % 16)
    r.2.foldl (fun s ring =>
      partTake (errOutN n) s (errRecord s 0xB 3 0x1A 0 8 0 (ringFaultDetail (1024 + ring) (ringBad s ring) false))) s

def errOut (s : State) (rec : Nat) : State := errOutN ((ringsNamed s).length + 1) s rec

/-- Post to the part's queue (R501, R509). -/
def errPart (s : State) (rec : Nat) : State := partTake errOut s rec

/-- End a placed task with an outcome unless it has one (R65). -/
def endTask (k : LapTask) (outcome : Nat) : LapTask :=
  if k.outcome = none then { k with outcome := some outcome, stopped := true } else k

/-- Mark the tasks of the running lap on given units, finished or not, and the unfinished ones of the lap being decided (R65):
outcome DEADBOLTED. What a stack engine has finished stays so while its region is alive (R360). -/
def deadTasks (s : State) (p : Nat → Bool) : State :=
  updLap s fun l => { l with
    cur := l.cur.map fun k => if p k.unit && !(k.finished && isSE k.unit && regionAlive s (unitRegion k.unit)) then endTask k 0x08 else k
    deciding := l.deciding.map fun k => if p k.unit && !k.finished then endTask k 0x08 else k }

/-- The placed task of a commit slot (R281). -/
def taskBySlot (l : List LapTask) (slot : Nat) : Option LapTask := l.find? fun k => k.slot == slot

/-- The running lap's task of a unit. -/
def unitTask (s : State) (u : Nat) : Option LapTask :=
  match (getCore s u).task with
  | some slot => taskBySlot s.lap.cur slot
  | none => none

/-- The halt record (R148, R357). -/
def haltRecord (s : State) (u reason engine pc depth graph task detail : Nat) : Nat :=
  let unit := if isSE u then (u - 512) * 2 ^ 80 + 2 ^ 90 else u * 2 ^ 80
  crcSeal 32 (pc % 2048 + reason * 2 ^ 16 + engine * 2 ^ 24 + b2n (classH reason) * 2 ^ 28 + depth % 8 * 2 ^ 29 +
    s.lap.num % 2 ^ 48 * 2 ^ 32 + unit + b2n (depth == 8) * 2 ^ 89 + graph % 2 ^ 32 * 2 ^ 96 + task % 2 ^ 16 * 2 ^ 128 +
    detail % 2 ^ 64 * 2 ^ 160)

/-- What a halt does to the core itself (R146): issue stops, field queues and queues empty, movers stop, loop stack, loop
registers and summaries clear. -/
def haltCore (c : Core) (rec : Nat) : Core :=
  { c with
    seq := { c.seq with st := .halted, loops := [], lr := [], sums := [], waitSb := false, waitSum := false,
                        waitTum := false, qFull := false, ended := false, tumPending := none, tumPassed := false, haltRec := rec }
    fq := []
    queues := (c.queues.map fun e => (e.1, { e.2 with items := [] })).filter fun e => decide (e.2 ≠ queueReset)
    movers := c.movers.map fun e => (e.1, { e.2 with st := if e.2.st = .unarmed then .unarmed else .armed, req := none, waitsFrame := false })
    task := none
    lastTask := c.task }

/-- DETAIL of EXTERNAL (R601). -/
def externalDetail (level : Nat) (bar0 deadbolt sideband : Bool) : Nat :=
  level % 4 + b2n bar0 * 2 ^ 2 + b2n deadbolt * 2 ^ 3 + b2n sideband * 2 ^ 4

/-- Details of deadbolts by block error handling, by the region, by the part manager, by the host and by the board (R601). -/
def byBlock : Nat := externalDetail 1 false true false
def byRegion : Nat := externalDetail 2 false true false
def byPart : Nat := externalDetail 3 false true false
def byHost : Nat := externalDetail 3 true true false
def byBoard : Nat := externalDetail 3 false true true

/-- A unit runs a task, or loads one. -/
def coreBusy (c : Core) : Bool := c.seq.st == .loading || c.seq.st == .running

/-- The record of an EXTERNAL halt of a unit (R149, R601); PC is that of the next word to issue (R148; DESIGN CHOICE, assumption 118). -/
def externalRec (s : State) (u : Nat) (c : Core) (detail : Nat) : Nat :=
  let k := unitTask s u
  haltRecord s u 0x1A 15 c.seq.pc c.seq.loops.length ((k.map (·.graph)).getD 0) ((k.map (·.desc.index)).getD 0) detail

/-! ## Tasks of the running lap -/

/-- Change the running lap's task of a slot. -/
def updTask (s : State) (slot : Nat) (f : LapTask → LapTask) : State :=
  updLap s fun l => { l with cur := l.cur.map fun k => if k.slot == slot then f k else k }

/-! ## Waits on tumblers (R432) -/

/-- A tumbler of a block or of a region (R426). -/
structure TumRef where
  region : Bool
  unit : Nat
  index : Nat
  deriving DecidableEq, Repr

def tumGet (s : State) (t : TumRef) : Tumbler :=
  if t.region then tabGet tumReset (getRegion s t.unit).tums t.index else tabGet tumReset (getBlock s t.unit).tums t.index

def tumPut (s : State) (t : TumRef) (x : Tumbler) : State :=
  if t.region then updRegion s t.unit fun r => { r with tums := tabSet tumReset r.tums t.index x }
  else updBlock s t.unit fun b => { b with tums := tabSet tumReset b.tums t.index x }

/-- A number for a tumbler of the part. -/
def tumKey (t : TumRef) : Nat := (b2n t.region * 64 + t.unit) * 4096 + t.index

/-- Whether a tumbler's block or region is behind a deadbolt (R437). -/
def tumCut (s : State) (t : TumRef) : Bool := if t.region then !regionAlive s t.unit else !blockAlive s t.unit

/-- Serve the TAKE waits in order of arrival; one that cannot pass holds back those behind it (R432). -/
def serveTakes : List TumPend → Nat → Bool → List TumPend × List TumPend × Nat
  | [], c, _ => ([], [], c)
  | w :: t, c, blocked =>
    if !w.take then
      let r := serveTakes t c blocked
      (r.1, w :: r.2.1, r.2.2)
    else if !blocked && decide (w.amount ≤ c) then
      let r := serveTakes t (c - w.amount) blocked
      (w :: r.1, r.2.1, r.2.2)
    else
      let r := serveTakes t c true
      (r.1, w :: r.2.1, r.2.2)

/-- A wait passes: issue of its unit may resume, its task becomes a consumer (R434), and REPLAY where HAND is set (R443). -/
def passWait (t : TumRef) (hand : Bool) (s : State) (w : TumPend) : State :=
  let s := updSeq s w.unit fun q => { q with tumPassed := true, waitTum := false }
  updTask s w.slot fun k => { k with rdTums := insNat k.rdTums (tumKey t), replay := k.replay || hand }

/-- Test the waits of a tumbler (R432): TAKEs first, then each REACH on its own. -/
def tumRetest (s : State) (t : TumRef) : State :=
  let x := tumGet s t
  let r := serveTakes x.waits x.count false
  let reach := r.2.1.filter fun w => !w.take && decide (w.amount ≤ r.2.2)
  let left := r.2.1.filter fun w => w.take || !decide (w.amount ≤ r.2.2)
  (r.1 ++ reach).foldl (passWait t x.hand) (tumPut s t { x with count := r.2.2, waits := left })

/-! ## Deadbolts (R290, R504) -/

/-- The VEC field at the head of a unit that stops has held its engine for cycles that the model does not have: a free value (R213,
R225; DESIGN CHOICE, assumption 114). -/
def vecHeld (s : State) (u : Nat) : State :=
  if (tabGet [] (getCore s u).fq 2).isEmpty then s
  else
    let t := drawFree s
    if isSE u then fbump t.2 fSE_LANE_CYCLES_COUNT (u - 512) 0 t.1 else fbump t.2 fCORE_VEC_CYCLES_COUNT u 0 t.1

/-- Halt the sequencers of given units that a deadbolt cuts: one that runs halts with EXTERNAL, and its record says by whom (R149,
R290, R601). Their pending waits go, and what those held back is tested again (R432). -/
def haltUnits (p : Nat → Bool) (detail : Nat) (s : State) : State :=
  let s := (s.cores.filter fun e => p e.1 && coreBusy e.2).foldl (fun s e => vecHeld s e.1) s
  let cut := s.cores.map fun e => if p e.1 && coreBusy e.2 then (e.1, haltCore e.2 (externalRec s e.1 e.2 detail)) else e
  let tums := fun (t : Tab Tumbler) => (t.map fun e => (e.1, { e.2 with waits := e.2.waits.filter fun w => !p w.unit })).filter
    fun e => decide (e.2 ≠ tumReset)
  let held := fun (t : Tab Tumbler) => (t.filter fun e => e.2.waits.any fun w => p w.unit).map (·.1)
  let refs := s.blocks.flatMap (fun b => (held b.2.tums).map fun i => TumRef.mk false b.1 i) ++
    s.regions.flatMap fun r => (held r.2.tums).map fun i => ⟨true, r.1, i⟩
  refs.foldl (fun s t => if tumCut s t then s else tumRetest s t) { s with
    cores := cut.filter fun e => decide (e.2 ≠ coreReset)
    blocks := (s.blocks.map fun e => (e.1, { e.2 with tums := tums e.2.tums })).filter fun e => decide (e.2 ≠ blockReset)
    regions := (s.regions.map fun e => (e.1, { e.2 with tums := tums e.2.tums })).filter fun e => decide (e.2 ≠ regionReset) }

/-- The units that such a cut halts, each with its halt record and its task's index. -/
def halts (p : Nat → Bool) (detail : Nat) (s : State) : List (Nat × Nat × Nat) :=
  (s.cores.filter fun e => p e.1 && coreBusy e.2).map fun e =>
    (e.1, externalRec s e.1 e.2 detail, ((unitTask s e.1).map (·.desc.index)).getD 0)

/-- Whether a unit of a kind is already cut (R505). -/
def isCut (s : State) (kind unit : Nat) : Bool :=
  match kind with
  | 0 => (getCore s unit).deadbolted || (getBlock s (unit / 8)).deadbolted || (getRegion s (unit / 64)).deadbolted
  | 1 => (getBlock s unit).deadbolted || (getRegion s (unit / 8)).deadbolted
  | 2 => (getRegion s unit).deadbolted
  | 3 => (getCore s (512 + unit)).deadbolted
  | 4 => nbit (getRegion s (unit / 4)).ctlFailed (unit % 4)
  | _ => hasNat s.part.lanesDead unit

/-- Regions that R28 can elect: lowest-numbered with built-in test passed, alive, with a working control core. -/
def electable (s : State) : Option Nat :=
  (rangeFrom 0 (nRegions s)).find? fun r =>
    regionAlive s r && (getRegion s r).builtInPassed && decide ((getRegion s r).ctlFailed ≠ 15)

/-- A new manager resumes from the lap mark: what its predecessor has planned since then is lost, the pacer's part of it too, and
it plans anew (R28; DEDUCED, assumption 100). A plan made before the mark is in the mirror. -/
def resumeAtMark (s : State) : State :=
  if (s.lap.phase = .issuing ∨ s.lap.phase = .off) ∧ s.lap.planned = true then
    { s with lap := { s.lap with plan := [], planned := false }, pacer := s.part.mirror }
  else s

/-- Elect a part manager where none stands (R28), and post MANAGER_MOVED when one had stood. -/
def elect (s : State) : State :=
  match s.part.manager with
  | some m =>
    if regionAlive s m then s
    else
      let s := resumeAtMark (updPart s fun p => { p with manager := electable s })
      match s.part.manager with
      | some n => errPart s (errRecord s 2 3 0x13 0 8 0 n)
      | none => s
  | none => updPart s fun p => { p with manager := electable s }

/-- The other stack engine of a region. -/
def sibling (e : Nat) : Nat := if e % 2 = 0 then e + 1 else e - 1

/-- Whether a stack engine covers its deadbolted sibling (R361). -/
def covers (s : State) (e : Nat) : Bool :=
  (getCore s (512 + sibling e)).deadbolted && !(getCore s (512 + e)).deadbolted && fget s fSE_CFG_COVER_EN e 0 == 1

/-- The first line of a held buffer that an unfinished task of an open graph declares in a block (R513). -/
def heldInBlock (s : State) (b : Nat) : Option Nat :=
  let base := 0x100_0000_0000 + b * 0x200_0000
  s.graphs.findSome? fun g => (g.tasks.zip g.bufs).findSome? fun e =>
    if (tabGet gtaskReset g.st e.1.index).ended then none
    else (e.2.find? fun d => d.scope == 0 && decide (base ≤ d.base ∧ d.base < base + 0x180_0000)).map fun d => (d.base - base) / 128

/-- How a cut of a unit is made: the detail of the halts it causes, the unit's kind and its number. -/
abbrev Cut := State → Nat → Nat → Nat → State

/-- A region that has failed is cut off, a new manager is elected where it held the role, and REGION_FAILED is posted, after the record
that brought it (R509, R515). -/
def regionOut (cut : Cut) (s : State) (r : Nat) (rec : Option Nat) : State :=
  let t := elect (cut s byPart 2 r)
  let t := rec.elim t (errPart t)
  if isCut s 2 r then t else errPart t (errRecord t 2 3 0x12 r 2 2 0)

/-- Post to a region's queue; an escalation cuts the region off (R509). -/
def regionTake (cut : Cut) (s : State) (r rec : Nat) : State :=
  let a := arrive (getRegion s r).errq rec
  let s := updRegion s r fun x => { x with errq := errqTake x.errq rec }
  match a with
  | .enter => errOut s rec
  | .overflow => regionOut cut s r (some (escalate rec 3 2 true))
  | .refence => regionOut cut s r (some (escalate rec 3 2 false))

/-- Cut a block off; committed block-store state that an open graph still declares is lost (R504, R513). -/
def blockCut (cut : Cut) (s : State) (detail b : Nat) : State :=
  if isCut s 1 b then s
  else
    let t := cut s detail 1 b
    match heldInBlock s b with
    | some line => regionTake cut t (b / 8) (errRecord t 0xA 2 0x06 b 1 7 line)
    | none => t

/-- Post to a block's queue; an escalation cuts the block off (R509). -/
def blockTake (cut : Cut) (s : State) (b rec : Nat) : State :=
  let a := arrive (getBlock s b).errq rec
  let s := updBlock s b fun x => { x with errq := errqTake x.errq rec }
  match a with
  | .enter => errOut s rec
  | .overflow => regionTake cut (blockCut cut s byRegion b) (b / 8) (escalate rec 2 2 true)
  | .refence => regionTake cut (blockCut cut s byRegion b) (b / 8) (escalate rec 2 2 false)

/-- Post a halt record to the error queue of its core's block, or of its stack engine's region (R152, R357). A halt of class P, for
which R507 has no cause of its own, goes out under that of class H; its DETAIL holds CLASS (DEDUCED, assumption 107). -/
def postHalt (cut : Cut) (s : State) (u rec task action : Nat) : State :=
  if isSE u then regionTake cut s (unitRegion u) (errRecord s 3 2 0x0B (u - 512) 3 action (rec % 2 ^ 32))
  else blockTake cut s (unitBlock u) (errRecord s 0 1 0x01 u 0 action (rec % 2 ^ 32 + task % 2 ^ 16 * 2 ^ 32))

/-- Cut the units that p names, once their own flag stands: their sequencers halt, their tasks end, and the records of the halts are
posted. -/
def cutUnits (cut : Cut) (p : Nat → Bool) (detail : Nat) (s : State) : State :=
  (halts p detail s).foldl (fun t h => postHalt cut t h.1 h.2.1 h.2.2 0) (deadTasks (haltUnits p detail s) p)

/-- Fence a unit (R290, R360, R504): set its flag, stop what runs there, tell the board; its cut is in progress (R520). The number says
how many levels above a record that its cut posts may still fence (R509): a core's or an engine's record its block or region, a block's
its region. -/
def fenceN : Nat → Cut
  | 0, s, _, _, _ => s
  | n + 1, s, detail, kind, unit =>
    if isCut s kind unit then s
    else
      let s := notify (updPart s fun p => { p with cutUnits := p.cutUnits ++ [(kind, unit)] }) true (2 + unit * 2 ^ 4 + kind * 2 ^ 16)
      match kind with
      | 0 => cutUnits (fenceN n) (fun u => u == unit) detail (updCore s unit fun c => { c with deadbolted := true, quarantined := false })
      | 1 => cutUnits (fenceN n) (fun u => !isSE u && u / 8 == unit) detail (updBlock s unit fun b => { b with deadbolted := true })
      | 2 => cutUnits (fenceN n) (fun u => unitRegion u == unit) detail (updRegion s unit fun r => { r with deadbolted := true })
      | 3 => cutUnits (fenceN n) (fun u => u == 512 + unit) detail (updCore s (512 + unit) fun c => { c with deadbolted := true })
      | 4 => updRegion s (unit / 4) fun r => { r with ctlFailed := putBits r.ctlFailed (unit % 4) 1 1 }
      | _ => updPart s fun p => { p with lanesDead := insNat p.lanesDead unit }

/-- Fence a unit; the detail is that of the EXTERNAL halts it causes (R601). -/
def fence : Cut := fenceN 3

/-- Post to a region's queue (R509). -/
def errRegion (s : State) (r rec : Nat) : State := regionTake fence s r rec

/-- Deadbolt a block (R504, R513). -/
def fenceBlock (s : State) (detail b : Nat) : State := blockCut fence s detail b

/-- Post to a block's queue (R509). -/
def errBlock (s : State) (b rec : Nat) : State := blockTake fence s b rec

/-- Write an event on a graph's or command's event ring; a failed translation is a ring fault (R495 to R497). -/
def postEvent (s : State) (ring type code gid task detail : Nat) : State :=
  if ringIs s ring 1 then
    let r := ringEvent s ring (eventWord type code gid s.lap.num task detail) true
    if r.2 = .fault then errPart r.1 (errRecord r.1 0xB 3 0x1A 0 8 0 (ringFaultDetail (1024 + ring) (ringBad r.1 ring) false)) else r.1
  else s

end Sys2Proof.Machine
end

