-- ==== Sys2Proof/Machine/MemOps.lean ====
section
/-! DEFINITION. The address map (R273, R274), owner tables (R300 to R304), page resolution (R281), frames and held writes (R53 to R59, R276, R283,
R284, R604), lap-local lines (R60, R61), fill copy and parity (R55, R285). -/

namespace Sys2Proof.Machine

/-! ## The address map -/

/-- What a part physical address names (R273). -/
inductive Place
  | hbm (r page off : Nat)
  | bs (b off : Nat)
  | cs (u off : Nat)
  | host (h : Nat)
  | nowhere
  deriving DecidableEq, Repr

/-- Whether a core exists on the grade and is not fused off (R2, R5). -/
def corePresent (s : State) (c : Nat) : Bool := regionPresent s (c / 64) && decide (c < 512) && !hasNat s.fuses.fusedOff c

/-- Decode an address; own is the unit whose local windows apply, none for a requester that has none (R273, R274). -/
def placeOf (s : State) (own : Option Nat) (a : Nat) : Place :=
  if a < 0x100_0000_0000 then
    if regionPresent s (a / 0x20_0000_0000) then .hbm (a / 0x20_0000_0000) (a / 65536 % 0x20_0000) (a % 65536) else .nowhere
  else if a < 0x100_8000_0000 then
    let b := (a - 0x100_0000_0000) / 0x200_0000
    let o := (a - 0x100_0000_0000) % 0x200_0000
    if o < 0x180_0000 ∧ regionPresent s (b / 8) then .bs b o else .nowhere
  else if 0x101_0000_0000 ≤ a ∧ a < 0x101_8000_0000 then
    let c := (a - 0x101_0000_0000) / 0x40_0000
    if corePresent s c then .cs c ((a - 0x101_0000_0000) % 0x40_0000) else .nowhere
  else if 0x400_0000_0000 ≤ a ∧ a < 0x400_0040_0000 then
    match own with
    | some u => if isSE u && decide (0x14_0000 ≤ a - 0x400_0000_0000) then .nowhere else .cs u (a - 0x400_0000_0000)
    | none => .nowhere
  else if 0x400_0200_0000 ≤ a ∧ a < 0x400_0380_0000 then
    match own with
    | some u => if isSE u then .nowhere else .bs (u / 8) (a - 0x400_0200_0000)
    | none => .nowhere
  else if 0x8_0000_0000_0000 ≤ a ∧ a < 2 ^ 52 then .host (a - 0x8_0000_0000_0000)
  else .nowhere

/-! ## Owner tables -/

/-- Where an owner table places an offset: part, region, byte offset in that region's HBM window, GEN (R303). -/
structure Owned where
  part : Nat
  region : Nat
  off : Nat
  gen : Nat
  state : Nat
  deriving DecidableEq, Repr

def getOwner (s : State) (t : Nat) : OwnTable := tabGet ⟨0, 0, []⟩ s.owners t

/-- The entry of block k of a table. -/
def ownEntry (t : OwnTable) (k : Nat) : Nat := tabGet 0 t.ents k

def entState (e : Nat) : Nat := nbits e 41 2
def entGen (e : Nat) : Nat := nbits e 48 16

/-- Resolve an offset (R303), whatever the entry's state; none past the table's end. -/
def lookOwner (s : State) (t x : Nat) : Option Owned :=
  let o := getOwner s t
  let k := x / 2 ^ o.log2
  if o.count ≤ k then none
  else
    let e := ownEntry o k
    some ⟨nbits e 0 17, nbits e 17 3, nbits e 20 21 * 65536 + x % 2 ^ o.log2, entGen e, entState e⟩

/-- Resolve an offset of an OWNED block (R303). -/
def resolveOwner (s : State) (t x : Nat) : Option Owned :=
  match lookOwner s t x with
  | some o => if o.state = 1 then some o else none
  | none => none

/-- The ID of this part. -/
def selfId (s : State) : Nat := fget s fPART_ID_ID 0 0

/-- Pieces of a logical range: split at block boundaries and at 64 KiB (R303, R452). -/
def ownerPieces (log2 : Nat) : Nat → Nat → Nat → Nat → List (Nat × Nat × Nat)
  | 0, _, _, _ => []
  | n + 1, x, pos, len =>
    if len ≤ pos then []
    else
      let k := min (min (len - pos) 65536) (2 ^ log2 - (x + pos) % 2 ^ log2)
      (x + pos, pos, k) :: ownerPieces log2 n x (pos + k) len

/-- Physical address, in this part, of what an owner table places in a region of it (R273, R303). -/
def ownedAddr (o : Owned) : Nat := o.region * 0x20_0000_0000 + o.off

/-! ## Pages and frames -/

/-- First block-store line of the shadow area (R271). -/
def shadowLine (s : State) (b : Nat) : Nat := 196608 - fget s fBLK_SHADOW_CFG_SHADOW_SIZE b 0 * 4096

/-- A page's entry, with the records in force that the table has not taken yet (R280). -/
def pteOf (x : Region) (page : Nat) : PTE :=
  let e := tabGet pteReset x.pt page
  match (x.ptForce.filter (fun r => r.page == page)).getLast? with
  | some r => { e with frame := r.frame, valid := r.valid, lapLocal := r.lapLocal }
  | none => e

def setPte (x : Region) (page : Nat) (e : PTE) : Region := { x with pt := tabSet pteReset x.pt page e }

/-- First frame of the parity area within a stack (R276). -/
def parityFrame : Nat := 1032192

/-- Frames of the page table in each stack (R279, R287). -/
def ptFrames : Nat := 512

/-- System frames of each stack (R276, R287), from RGN_PT_BASE up: the page table; the outcome table of 16 laps; the written
maps of the pool; the frame map; the stream table; the resend window; the owner tables (R301); and in the manager's region
the lap log and the digest log. Sizes follow from the formats the manual gives (assumption 74). -/
def sysFrames (s : State) (r : Nat) : Nat :=
  ptFrames + 1 + fget s fRGN_LAP_POOL_CFG_POOL_SIZE r 0 * 16 + 16 + 4 + fget s fRGN_LAP_POOL_CFG_RESEND_SIZE r 0 * 1024 + 513 +
    (if s.part.manager = some r then fget s fPART_PACER_LOG_CFG_SIZE_MIB 0 0 * 16 + 128 else 0)

/-- First system frame of each stack. -/
def sysBase (s : State) (r : Nat) : Nat := fget s fRGN_PT_BASE_FRAME r 0 % 2 ^ 20

/-- RETIRED frames of a stack from its first system frame up, by their place within the stack, rising. -/
def retiredFrom (s : State) (r : Nat) (stackB : Bool) : List Nat :=
  (getRegion s r).frameSt.filterMap fun e =>
    if e.2 = some 4 ∧ (2 ^ 20 ≤ e.1) = (stackB = true) ∧ sysBase s r ≤ e.1 % 2 ^ 20 then some (e.1 % 2 ^ 20) else none

/-- One past the last system frame of a stack: a RETIRED frame holds none, and the next FREE one takes its place (R276). -/
def sysEnd (s : State) (r : Nat) (stackB : Bool) : Nat :=
  (retiredFrom s r stackB).foldl (fun n o => if o < n then n + 1 else n) (sysBase s r + sysFrames s r)

/-- Whether a frame lies in the region's system frames. -/
def sysHolds (s : State) (r f : Nat) : Bool :=
  decide (sysBase s r ≤ f % 2 ^ 20 ∧ f % 2 ^ 20 < sysEnd s r (decide (2 ^ 20 ≤ f)))

/-- How many frames from an offset up, below the parity area, the system frames of a stack span. -/
def sysAbove (s : State) (r : Nat) (stackB : Bool) (low : Nat) : Nat :=
  min parityFrame (sysEnd s r stackB) - max low (sysBase s r)

/-- State of a frame in the frame map (R276): listed, or by its place: SYSTEM from RGN_PT_BASE up, POOL from the pool's low
bound, FREE elsewhere; the parity area and spare frames read as reserved 5. -/
def frameState (s : State) (r f : Nat) : Nat :=
  let x := getRegion s r
  match tabGet none x.frameSt f with
  | some v => v
  | none =>
    let o := f % 2 ^ 20
    if parityFrame ≤ o then 5
    else if sysHolds s r f then 3
    else if (if f < 2 ^ 20 then x.poolLowA else x.poolLowB) ≤ o ∧ (if f < 2 ^ 20 then x.poolLowA else x.poolLowB) ≠ 0 then 1
    else 0

def setFrameState (x : Region) (f v : Nat) : Region := { x with frameSt := tabSet none x.frameSt f (some v) }

/-- Every held frame of a region. -/
def heldFrames (x : Region) : List Nat := x.pt.flatMap fun e => e.2.helds.map (·.frame)

/-- Outcome of a slot in the outcome table: 0 PENDING, 1 COMMITTED, 2 DISCARDED (R282). -/
def outcomeOf (x : Region) (lap slot : Nat) : Nat := tabGet 0 x.outcomes (lap % 65536 * 16384 + slot)

/-- POOL frames of a stack that are listed outside the implicit range, rising. -/
def listedPool (x : Region) (stackB : Bool) : List Nat :=
  x.frameSt.filterMap fun e => if e.2 = some 1 ∧ (2 ^ 20 ≤ e.1) = (stackB = true) then some e.1 else none

/-- Frames in a stack's half of the pool that are free: the pool's frames less those drawn, where a frame whose outcome is
final counts as free from its commit point on (R283). -/
def poolFree (s : State) (r : Nat) (stackB : Bool) : Nat :=
  let x := getRegion s r
  let low := if stackB then x.poolLowB else x.poolLowA
  let inImplicit := fun (f : Nat) => decide (low ≠ 0 ∧ low ≤ f % 2 ^ 20 ∧ f % 2 ^ 20 < parityFrame) && !sysHolds s r f
  let base := if low = 0 then poolHalf s r else parityFrame - low - sysAbove s r stackB low
  let minus := (x.frameSt.filter fun e => decide ((2 ^ 20 ≤ e.1) = (stackB = true)) && inImplicit e.1 && decide (e.2 ≠ some 1)).length
  let plus := (x.frameSt.filter fun e => decide ((2 ^ 20 ≤ e.1) = (stackB = true)) && !inImplicit e.1 && decide (e.2 = some 1)).length
  let sideOf := fun (f : Nat) => decide ((2 ^ 20 ≤ f) = (stackB = true))
  let helds := x.pt.flatMap fun e => e.2.helds.map fun h => (e.2.frame, h)
  let pend := (helds.filter fun eh => sideOf eh.2.frame && outcomeOf x eh.2.lap eh.2.slot == 0).length
  let com := helds.filter fun eh => outcomeOf x eh.2.lap eh.2.slot == 1
  let gained := (com.filter fun eh => sideOf eh.1).length
  let lost := (com.filter fun eh => sideOf eh.2.frame).length
  let kept := (x.retained.filter sideOf).length
  base + plus + gained - minus - pend - lost - kept

/-- The lowest POOL frame at or above f that no page holds. -/
def scanPool (s : State) (r : Nat) (used : List Nat) : Nat → Nat → Option Nat
  | 0, _ => none
  | n + 1, f =>
    if parityFrame ≤ f % 2 ^ 20 then none
    else if frameState s r f = 1 ∧ !hasNat used f then some f
    else scanPool s r used n (f + 1)

/-- A folded free frame of a stack's half: the lowest-numbered (assumption 10). -/
def freePoolFrame (s : State) (r : Nat) (stackB : Bool) : Option Nat :=
  let x := getRegion s r
  let used := heldFrames x ++ x.retained
  match (listedPool x stackB).find? (fun f => !hasNat used f) with
  | some f => some f
  | none =>
    let low := if stackB then x.poolLowB else x.poolLowA
    if low = 0 then none
    else scanPool s r used (used.length + x.frameSt.length + 1) (low + 2 ^ 20 * b2n stackB)

/-- The highest-numbered FREE frame of a stack among n from f down. -/
def scanFree (s : State) (r : Nat) : Nat → Nat → Option Nat
  | 0, _ => none
  | n + 1, f => if frameState s r f = 0 then some f else if f % 2 ^ 20 = 0 then none else scanFree s r n (f - 1)

/-- The highest-numbered FREE frame of a stack (R276): one that became FREE among the frames of the pool, or one below them. -/
def highFree (s : State) (r : Nat) (stackB : Bool) : Option Nat :=
  let x := getRegion s r
  let low := if stackB then x.poolLowB else x.poolLowA
  let top := if low = 0 then parityFrame else low
  match (x.frameSt.filter fun e => decide (e.2 = some 0) && decide ((2 ^ 20 ≤ e.1) = (stackB = true)) && decide (top ≤ e.1 % 2 ^ 20)).getLast? with
  | some e => some e.1
  | none => scanFree s r (x.frameSt.length + sysFrames s r + 1) (top - 1 + 2 ^ 20 * b2n stackB)

/-- Whether the recorder keeps what replacement releases (R539): RECORDING, TRIGGERED, FROZEN or EXPORTING. -/
def retaining (s : State) : Bool :=
  let st := fget s fPART_TRK_STATUS_STATE 0 0
  decide (1 ≤ st ∧ st ≤ 4)

/-- Whether the recorder keeps what a switch of a lap replaces: that of a lap before its window is part of the base (R539). -/
def retains (s : State) (lap : Nat) : Bool := retaining s && decide (s.trk.firstLap ≤ lap)

/-- Retain a replaced frame (R539): it stays in POOL state, withheld from draws, and the pool is lent a FREE frame. -/
def retainFrame (s : State) (r page f lap : Nat) (valid lapLocal : Bool) : State :=
  let lent := (highFree s r (decide (2 ^ 20 ≤ f))).getD f
  let s := updRegion s r fun x =>
    let x := setFrameState { x with retained := insNat x.retained f } f 1
    if lent = f then x else setFrameState x lent 1
  { s with trk := { s.trk with journal := s.trk.journal ++ [.page lap r page f lent valid lapLocal] } }

/-- Retired frames of a stack. -/
def retiredCount (s : State) (r : Nat) (stackB : Bool) : Nat :=
  ((getRegion s r).frameSt.filter fun e => e.2 == some 4 && decide ((2 ^ 20 ≤ e.1) = (stackB = true))).length

/-- A frame is retired: the board is told, and a stack with more than 4,096 retired frames is WORN (R288, R289). -/
def retireFrame (s : State) (r f : Nat) : State :=
  let side := decide (2 ^ 20 ≤ f)
  let w := if side then fRGN_HBM_STATUS_WORN_B else fRGN_HBM_STATUS_WORN_A
  let s := notify (updRegion s r fun x => { setFrameState x f 4 with retiredLap := x.retiredLap + 1 }) true (1 + r * 2 ^ 4 + f * 2 ^ 7)
  let s := errRegion s r (errRecord s 4 2 0x08 0 8 5 f)
  let n := retiredCount s r side
  if 4096 < n ∧ fget s w r 0 = 0 then
    let s := fput s w r 0 1
    errRegion s r (errRecord s 4 2 0x1F 0 8 0 n)
  else s

/-- A frame has RETIRE_CE corrected errors, or has been rebuilt (R288). -/
def frameWorn (s : State) (r f : Nat) : Bool :=
  decide (fget s fRGN_HBM_CFG_RETIRE_CE r 0 ≤ tabGet 0 (getRegion s r).ceCount f) || hasNat (getRegion s r).rebuilt f

/-- Whether the region may retire another frame in this lap: it retires at most 16 (R288). -/
def mayRetire (s : State) (r : Nat) : Bool := decide ((getRegion s r).retiredLap < 16)

/-- A frame returns to the pool; a worn one is retired as far as the lap's limit goes, and a FREE frame of its stack takes its
place (R276, R283, R288). -/
def toPool (s : State) (r f : Nat) : State :=
  if frameWorn s r f && mayRetire s r then
    let s := retireFrame s r f
    match highFree s r (decide (2 ^ 20 ≤ f)) with
    | some g => updRegion s r fun x => setFrameState x g 1
    | none => s
  else updRegion s r fun x => setFrameState x f 1

/-- Release the frame that a commit replaced (R283): to the pool, retired (R288), or retained (R539). -/
def releaseFrame (s : State) (r page f lap : Nat) : State :=
  if retains s lap then retainFrame s r page f lap true false else toPool s r f

/-- Write the records in force of a page into the table (R280). -/
def settlePt (x : Region) (page : Nat) : Region :=
  let e := pteOf x page
  { setPte x page e with ptForce := x.ptForce.filter fun r => r.page != page }

/-- Fold a page of a region: every held frame whose outcome is final (R283). -/
def foldPage (s : State) (r page : Nat) : State :=
  let s := updRegion s r fun x => settlePt x page
  let e := tabGet pteReset (getRegion s r).pt page
  let out := fun (h : Held) => outcomeOf (getRegion s r) h.lap h.slot
  let s := (e.helds.filter fun h => out h == 1).foldl (fun s h =>
    let e := tabGet pteReset (getRegion s r).pt page
    let s := releaseFrame s r page e.frame (s.lap.num - (s.lap.num - h.lap) % 65536)
    updRegion s r fun x => setPte (setFrameState x h.frame 2) page { e with frame := h.frame }) s
  let s := (e.helds.filter fun h => out h == 2).foldl (fun s h => toPool s r h.frame) s
  let keep := e.helds.filter fun h => out h == 0
  updRegion s r fun x =>
    { setPte x page { tabGet pteReset x.pt page with helds := keep } with foldQ := x.foldQ.filter fun p => p != page }

/-- Fold a page where the outcome of something that holds it is final. -/
def foldFinal (s : State) (r page : Nat) : State :=
  let x := getRegion s r
  if (pteOf x page).helds.any (fun h => outcomeOf x h.lap h.slot != 0) then foldPage s r page else s

/-- Whether folding a page frees a frame of a stack: the one it replaces where what holds the page commits, the held one where
not (R283). -/
def foldFrees (x : Region) (stackB : Bool) (page : Nat) : Bool :=
  let e := pteOf x page
  let side := fun (f : Nat) => decide ((2 ^ 20 ≤ f) = (stackB = true))
  e.helds.any fun h => (outcomeOf x h.lap h.slot == 1 && side e.frame) || (outcomeOf x h.lap h.slot == 2 && side h.frame)

/-- Fold waiting entries one by one, in their order, until one gives a half of the pool a frame (R283). -/
def foldFor (r : Nat) (stackB : Bool) : List Nat → State → Option (Nat × State)
  | [], _ => none
  | p :: t, s =>
    if foldFrees (getRegion s r) stackB p then
      let s := foldPage s r p
      match freePoolFrame s r stackB with
      | some f => some (f, s)
      | none => foldFor r stackB t s
    else foldFor r stackB t s

/-- A frame of one half of the pool: a folded one, or else the first that folding gives (R283). -/
def drawHalf (s : State) (r : Nat) (stackB : Bool) : Option (Nat × State) :=
  match freePoolFrame s r stackB with
  | some f => some (f, s)
  | none => foldFor r stackB (getRegion s r).foldQ s

/-! ## System structures (R287) -/

/-- Structures of R287: page table, outcome table, written maps, frame map, stream table, resend window, lap log; and the
owner tables of R301. -/
inductive SysStruct
  | pageTable | outcomes | written | frameMap | streams | resend | lapLog | owners
  deriving DecidableEq, Repr

def SysStruct.code : SysStruct → Nat
  | .pageTable => 0 | .outcomes => 1 | .written => 2 | .frameMap => 3 | .streams => 4 | .resend => 5 | .lapLog => 6 | .owners => 7

/-- A read of a structure: where one copy fails, the other serves it and the failing copy is rewritten (R287). What two
failing copies give is left open; the model serves the structure and rewrites neither (assumption 72). -/
def readSystem (s : State) (r : Nat) (k : SysStruct) : State :=
  let a := hasNat (getRegion s r).sysBad (2 * k.code)
  let b := hasNat (getRegion s r).sysBad (2 * k.code + 1)
  if a = b then s else updRegion s r fun x => { x with sysBad := x.sysBad.filter fun i => i / 2 != k.code }

/-- The structures that resolve an access to a page: its entry, the outcome of what holds it, and the written map (R281, R284,
R287). -/
def readTables (s : State) (r : Nat) : State := readSystem (readSystem (readSystem s r .pageTable) r .outcomes) r .written

/-! ## Code errors of HBM (R277, R278, R286, R514) -/

/-- Whether a frame's stack is degraded: it keeps its failed slice in the parity position and has no parity (R286). -/
def stackDegraded (s : State) (r f : Nat) : Bool :=
  if f < 2 ^ 20 then fget s fRGN_HBM_STATUS_DEGRADED_A r 0 == 1 else fget s fRGN_HBM_STATUS_DEGRADED_B r 0 == 1

/-- Failed pseudo-channel of a frame's stack, where the stack is degraded (R286). -/
def failedSlice (s : State) (r f : Nat) : Option Nat :=
  if stackDegraded s r f then
    some (if f < 2 ^ 20 then fget s fRGN_HBM_STATUS_FAILED_PC_A r 0 else fget s fRGN_HBM_STATUS_FAILED_PC_B r 0)
  else none

/-- A drawn frame of a degraded stack stores its failed slice in the parity position from the first write on (R286). -/
def bareDrawn (r : Nat) (d : Nat × State) : Nat × State :=
  (d.1, updRegion d.2 r fun x => { x with bare := if stackDegraded d.2 r d.1 then insNat x.bare d.1 else x.bare.filter fun g => g != d.1 })

/-- A frame for a held write (R284): from the half of the stack given, and where that is empty from the other half unless own
is set. none: the write waits (R604). -/
def drawFrame (s : State) (r : Nat) (stackB own : Bool) : Option (Nat × State) :=
  match drawHalf s r stackB with
  | some d => some (bareDrawn r d)
  | none => if own then none else (drawHalf s r (!stackB)).map (bareDrawn r)

/-- Pseudo-channel of byte o of a frame within its stack (R277): o[13:8] XOR f[5:0]. -/
def pseudoChannel (f o : Nat) : Nat := Nat.xor (o / 256 % 64) (f % 64)

/-- Registers of the stack of a frame. -/
def failedPcFld (f : Nat) : Fld := if f < 2 ^ 20 then fRGN_HBM_STATUS_FAILED_PC_A else fRGN_HBM_STATUS_FAILED_PC_B
def degradedFld (f : Nat) : Fld := if f < 2 ^ 20 then fRGN_HBM_STATUS_DEGRADED_A else fRGN_HBM_STATUS_DEGRADED_B

/-- Half-line of byte o of a frame, as its key in the region's table. -/
def halfKey (f o : Nat) : Nat := f * 2048 + o / 32

/-- Whether a half-line lies in the failed slice of a frame that still has it there (R286). -/
def inFailedSlice (s : State) (r f o : Nat) : Bool :=
  stackDegraded s r f && pseudoChannel f o == fget s (failedPcFld f) r 0 && !hasNat (getRegion s r).bare f

/-- Whether a frame has an error beyond one slice: another slice with an uncorrectable half-line, a failed slice beside this
one, or no parity (R286, R514). -/
def beyondParity (s : State) (r f o : Nat) : Bool :=
  let p := pseudoChannel f o
  hasNat (getRegion s r).bare f ||
    (stackDegraded s r f && p != fget s (failedPcFld f) r 0) ||
    (getRegion s r).harm.any fun e => decide (2 ≤ e.2) && e.1 / 2048 == f && pseudoChannel f (e.1 % 2048 * 32) != p

/-- Whether a half-line's data went with a second failed pseudo-channel: it lies there, or in the failed slice, which nothing can
rebuild any more (R514). -/
def inLostSlice (s : State) (r f o : Nat) : Bool :=
  let l := (getRegion s r).lostPcs
  hasNat l (pseudoChannel f o + 64 * (f / 2 ^ 20)) || (inFailedSlice s r f o && l.any fun k => k / 64 == f / 2 ^ 20)

/-- HBM_DATA_LOST, which goes to the system (R514). -/
def dataLost (s : State) (r f : Nat) : State := errRegion s r (errRecord s 0xA 2 0x0A 0 8 7 f)

/-- Declare a pseudo-channel of a frame's stack failed: the stack goes on without it (R286), and a second one takes the data of its
slices with it (R514). n is the count that is reported. -/
def failPc (s : State) (r f pc n : Nat) : State :=
  let k := pc + 64 * (f / 2 ^ 20)
  if failedSlice s r f = some pc ∨ hasNat (getRegion s r).lostPcs k = true then s
  else if stackDegraded s r f then dataLost (updRegion s r fun x => { x with lostPcs := insNat x.lostPcs k }) r f
  else
    let s := fput (fput s (failedPcFld f) r 0 pc) (degradedFld f) r 0 1
    errRegion s r (errRecord s 4 2 0x09 (pc + (2 * r + f / 2 ^ 20) * 2 ^ 6) 6 4 n)

/-- Count an uncorrectable half-line on its pseudo-channel; more than PC_FAIL_UE in a lap fail it (R286). -/
def countUe (s : State) (r f o : Nat) : State :=
  let k := pseudoChannel f o + 64 * b2n (decide (2 ^ 20 ≤ f))
  let s := updRegion s r fun x => { x with ueLap := tabUpd 0 x.ueLap k (· + 1) }
  let n := tabGet 0 (getRegion s r).ueLap k
  if fget s fRGN_HBM_CFG_PC_FAIL_UE r 0 < n then failPc s r f (pseudoChannel f o) n else s

/-- Half-lines of a frame that a loss takes: the uncorrectable ones, the one read, and a failed slice that still needs rebuilding. -/
def lostHalves (s : State) (r f o : Nat) : List Nat :=
  halfKey f o :: (((getRegion s r).harm.filter fun e => e.2 == 2 && e.1 / 2048 == f).map (·.1)) ++
    ((rangeFrom 0 2048).filter fun h => inFailedSlice s r f (h * 32)).map fun h => halfKey f (h * 32)

/-- A frame with errors in two slices is lost (R514): its half-lines that nothing can rebuild are marked, and HBM_DATA_LOST is posted. -/
def loseFrame (s : State) (r f o : Nat) : State :=
  dataLost (updRegion s r fun x => { x with harm := (lostHalves s r f o).foldl (fun t k => tabSet 0 t k 3) x.harm }) r f

/-- Check the read of one half-line of a frame (R278, R286, R287, R514); the flag says that its data is lost. -/
def readHalf (s : State) (r f o : Nat) (lapLocal : Bool) : State × Bool :=
  let h := tabGet 0 (getRegion s r).harm (halfKey f o)
  let failed := inFailedSlice s r f o
  if h = 3 ∨ inLostSlice s r f o = true then (s, true)
  else if h = 1 ∧ !failed then (updRegion s r fun x => { x with ceCount := tabUpd 0 x.ceCount f (· + 1) }, false)
  else if h = 0 ∧ !failed then (s, false)
  else
    let s := if h = 2 then countUe s r f o else s
    if lapLocal ∨ inLostSlice s r f o = true then (s, true)
    else if beyondParity s r f o then (loseFrame s r f o, true)
    else
      let s := updRegion (fbump s fRGN_HBM_STATUS_RECONSTRUCTS r 0 1) r fun x => { x with rebuilt := insNat x.rebuilt f }
      (errRegion s r (errRecord s 4 2 0x07 0 8 0 f), false)

/-- Whether a region's HBM can give an error at all. -/
def hbmSound (s : State) (r : Nat) : Bool :=
  (getRegion s r).harm.isEmpty && fget s fRGN_HBM_STATUS_DEGRADED_A r 0 == 0 && fget s fRGN_HBM_STATUS_DEGRADED_B r 0 == 0

/-- Read 64-byte lines of a frame to copy them: errors are corrected, rebuilt or found lost (R278, R286, R288, R514). -/
def checkLines (s : State) (r f : Nat) (lapLocal : Bool) (ls : List Nat) : State :=
  if hbmSound s r then s
  else (ls.flatMap fun l => [2 * l, 2 * l + 1]).foldl (fun s h => (readHalf s r f (h * 32) lapLocal).1) s

/-! ## Reading HBM -/

/-- Frame of a page's committed state: a held frame that has committed, or the entry's own (R281). -/
def entryFrame (x : Region) (e : PTE) : Nat :=
  match e.helds.find? (fun h => outcomeOf x h.lap h.slot == 1) with
  | some h => h.frame
  | none => e.frame

/-- Frame that a read of a 64-byte line takes (R281): the reader's own written line, a line of its epoch (R374), the
committed held frame, or the committed frame. -/
def resolveLine (x : Region) (e : PTE) (lap slot : Nat) (epoch : List (Nat × Nat)) (line : Nat) : Nat :=
  let base := entryFrame x e
  let ep := match e.helds.find? (fun h => epoch.any (fun m => m.1 == h.lap % 65536 && m.2 == h.slot) && nbit h.written line) with
    | some h => h.frame
    | none => base
  match e.helds.find? (fun h => h.lap % 65536 == lap % 65536 && h.slot == slot) with
  | some h => if nbit h.written line then h.frame else ep
  | none => ep

/-- Bytes of a mapped page, as the reader's slot sees them; lap-local lines whose written bit is clear read zero (R61). -/
def readPage (x : Region) (e : PTE) (lap slot : Nat) (epoch : List (Nat × Nat)) : Nat → Nat → Bytes
  | _, 0 => []
  | off, n + 1 =>
    let b :=
      if e.lapLocal then
        if hasNat x.llWritten (e.frame * 512 + off / 128) then memGet x.hbm (e.frame * 65536 + off) else 0
      else memGet x.hbm (resolveLine x e lap slot epoch (off / 64) * 65536 + off)
    b :: readPage x e lap slot epoch (off + 1) n

/-- Lap-local lines of a range of a page that read as zero (R61). -/
def zeroLines (x : Region) (frame off n : Nat) : Nat :=
  ((rangeFrom (off / 128) ((off + n - 1) / 128 + 1 - off / 128)).filter fun l => !hasNat x.llWritten (frame * 512 + l)).length

/-- Read an HBM range that may span pages. -/
def readHbm (s : State) (r slot : Nat) (epoch : List (Nat × Nat)) : Nat → Nat → Nat → Nat → Bytes
  | 0, _, _, _ => []
  | fuel + 1, page, off, n =>
    if n = 0 then []
    else
      let k := min n (65536 - off)
      readPage (getRegion s r) (pteOf (getRegion s r) page) s.lap.num slot epoch off k ++
        readHbm s r slot epoch fuel (page + 1) 0 (n - k)

/-- Count the zero reads of lap-local lines of an HBM range (R61, R82) and record the pages as read (R510). -/
def noteHbmRead (s : State) (r : Nat) (slot : Option Nat) : Nat → Nat → Nat → Nat → State
  | 0, _, _, _ => s
  | fuel + 1, page, off, n =>
    if n = 0 then s
    else
      let k := min n (65536 - off)
      let e := pteOf (getRegion s r) page
      let s :=
        if e.lapLocal then
          let s := fbump s fRGN_LAP_STATUS_LL_ZERO_READS r 0 (zeroLines (getRegion s r) e.frame off k)
          match slot with
          | some t => updTask s t fun q => { q with rdPages := insNat q.rdPages (r * 2 ^ 21 + page) }
          | none => s
        else s
      noteHbmRead s r slot fuel (page + 1) 0 (n - k)

/-- Slot of a reader that holds nothing: committed state only. -/
def noSlot : Nat := 16384

/-- Committed bytes of an HBM range (R602, R603, R482). -/
def readCommitted (s : State) (r page off n : Nat) : Bytes := readHbm s r noSlot [] (n / 65536 + 2) page off n

/-- Whether every page of an HBM range is mapped and not lap-local (R602). -/
def committedOk (s : State) (r page off n : Nat) : Bool :=
  decide (page * 65536 + off + n ≤ 0x20_0000_0000) &&
    (rangeFrom page ((off + n + 65535) / 65536)).all fun p =>
      let e := pteOf (getRegion s r) p
      e.valid && !e.lapLocal

/-! ## Writing HBM -/

/-- Members of the open epoch of the running task of a slot, as lap and slot (R49, R370, R373): those of earlier laps, and the
others of this lap on its block; none outside an epoch. -/
def epochMembers (s : State) (slot : Nat) : List (Nat × Nat) :=
  match taskBySlot s.lap.cur slot with
  | some k =>
    if k.spec then
      match (getBlock s (k.unit / 8)).epochs.find? (fun e =>
          e.2.st != 0 && e.2.graph == k.graph && e.2.guard == k.desc.guardId && e.2.epoch == k.desc.specEpoch) with
      | some (_, e) => (e.members.map fun m => (m / 16384, m % 16384)) ++
          (s.lap.cur.filter fun q => q.spec && q.slot != slot && q.unit / 8 == k.unit / 8 && q.graph == e.graph &&
            q.desc.guardId == e.guard && q.desc.specEpoch == e.epoch).map fun q => (s.lap.num % 65536, q.slot)
      | none => []
    else []
  | none => []

/-- Commit slot of the host's writes (R281). -/
def hostSlot : Nat := 0x3FFF

/-- Low 16 bits of the lap that a slot's writes are held in. The host's commit at the next commit point, so between a lap mark
and the commit point theirs is the lap being decided (R52, R482). -/
def heldTag (s : State) (slot : Nat) : Nat :=
  (if slot = hostSlot ∧ s.lap.phase = .marked then s.lap.num - 1 else s.lap.num) % 65536

/-- Whether a held frame or shadow line takes the writes of a slot in this lap: its own, or an earlier member's of its
epoch (R54, R374). -/
def mineHeld (s : State) (ep : List (Nat × Nat)) (slot hslot hlap : Nat) : Bool :=
  (hslot == slot && hlap == heldTag s slot) ||
    (hlap != s.lap.num % 65536 && ep.any (fun m => m.1 == hlap && m.2 == hslot))

/-- How a write ends. -/
inductive WrRes
  | ok (s : State)
  /-- No frame or shadow line (R604). -/
  | wait
  /-- HELD_EXCESS: kind and declared count (R57, R59). -/
  | excess (kind declared : Nat)

/-- Lines of a range that the write does not cover whole. -/
def partialLine (unit off n line : Nat) : Bool := decide (line * unit < off ∨ off + n < (line + 1) * unit)

/-- The places from lo up to hi, hi left out, hold no error any more: they have been written whole (assumption 71). -/
def mendRange (t : Tab Nat) (lo hi : Nat) : Tab Nat := t.filter fun e => !decide (lo ≤ e.1 ∧ e.1 < hi)

/-- Half-lines of a frame that a write covers whole hold no error any more. -/
def mendHalves (x : Region) (f off n : Nat) : Region :=
  { x with harm := mendRange x.harm (f * 2048 + (off + 31) / 32) (f * 2048 + (off + n) / 32) }

/-- Lines of a frame copied to another take the marks of what could not be read with them, and no other error: lost half-lines
(R514), and in a lap-local page, which has no parity, uncorrectable ones (R287). -/
def copyHarm (t : Tab Nat) (src dst : Nat) (lapLocal : Bool) (ls : List Nat) : Tab Nat :=
  ls.foldl (fun t l => [2 * l, 2 * l + 1].foldl (fun t h =>
    let k := tabGet 0 t (src * 2048 + h)
    tabSet 0 t (dst * 2048 + h) (if k = 3 ∨ (k = 2 ∧ lapLocal = true) then k else 0)) t) t

/-- Copy 64-byte lines of one frame to another. -/
def copyLines (m : Mem) (src dst : Nat) (ls : List Nat) : Mem :=
  ls.foldl (fun m l => memWrite m (dst * 65536 + l * 64) (memRead m (src * 65536 + l * 64) 64)) m

/-- Lines of a held frame that a write covers in part and that hold nothing yet: they take the committed line's bytes first
(R54). -/
def freshLines (h : Held) (off n : Nat) : List Nat :=
  (rangeFrom (off / 64) ((off + n - 1) / 64 + 1 - off / 64)).filter fun l => !nbit h.written l && partialLine 64 off n l

/-- Put bytes into a page's held frame: partly covered lines take the committed line's other bytes first (R54). -/
def putHeld (x : Region) (page : Nat) (h : Held) (off : Nat) (bs : Bytes) : Region :=
  let e := tabGet pteReset x.pt page
  let n := bs.length
  let ls := rangeFrom (off / 64) ((off + n - 1) / 64 + 1 - off / 64)
  let fresh := freshLines h off n
  let base := entryFrame x e
  let m := memWrite (copyLines x.hbm base h.frame fresh) (h.frame * 65536 + off) bs
  let w := ls.foldl (fun w l => if nbit w l then w else w + 2 ^ l) h.written
  setPte (mendHalves { x with hbm := m, harm := copyHarm x.harm base h.frame false fresh } h.frame off n) page
    { e with helds := e.helds.map fun g => if g.lap = h.lap ∧ g.slot = h.slot then { g with written := w } else g }

/-- Write into a lap-local page: the first write to a line zeroes its other bytes and sets its bit (R61). -/
def putLapLocal (x : Region) (page frame off slot : Nat) (bs : Bytes) : Region :=
  let n := bs.length
  let ls := rangeFrom (off / 128) ((off + n - 1) / 128 + 1 - off / 128)
  let fresh := ls.filter fun l => !hasNat x.llWritten (frame * 512 + l)
  let m := fresh.foldl (fun m l => memWrite m (frame * 65536 + l * 128) (List.replicate 128 0)) x.hbm
  { mendHalves x frame off n with
    hbm := memWrite m (frame * 65536 + off) bs
    llWritten := fresh.foldl (fun w l => insNat w (frame * 512 + l)) x.llWritten
    pageWriters := tabUpd [] x.pageWriters page (fun l => insNat l slot)
    llWriters := insNat x.llWriters slot }

/-- Note that a slot writes into what an earlier member of its epoch holds (R374); a place is numbered by its region or block. -/
def noteJoined (s : State) (place slot : Nat) : State :=
  updLap s fun l => { l with joined := if l.joined.any (fun e => e == (place, slot)) then l.joined else l.joined ++ [(place, slot)] }

def pagePlace (r page : Nat) : Nat := r * 2 ^ 32 + page
def linePlace (b line : Nat) : Nat := (1024 + b) * 2 ^ 32 + line

/-- Ensure that a slot has a held frame for a page (R54, R57, R283, R284, R295's corner case on unfolded outcomes). A draw
settles the records in force of the page first, so that the table's entry is what R280 resolves. -/
def ensureHeld (s : State) (r page slot : Nat) (own : Bool) : WrRes :=
  let e := pteOf (getRegion s r) page
  let ep := epochMembers s slot
  if e.helds.any (fun h => h.slot == slot && h.lap == heldTag s slot) then .ok s
  else if e.helds.any (fun h => mineHeld s ep slot h.slot h.lap) then .ok (noteJoined s (pagePlace r page) slot)
  else
    let s := updRegion s r fun x => settlePt x page
    let s := readSystem (foldFinal s r page) r .frameMap
    let e := tabGet pteReset (getRegion s r).pt page
    let task := taskBySlot s.lap.cur slot
    match task with
    | some k =>
      if k.desc.heldPages < k.frames + 1 ∧ !k.filler then .excess 0 k.desc.heldPages
      else
        match drawFrame s r (decide (2 ^ 20 ≤ e.frame)) own with
        | none => .wait
        | some (f, s) =>
          let e := tabGet pteReset (getRegion s r).pt page
          let s := updRegion s r fun x => setPte x page { e with helds := e.helds ++ [⟨slot, heldTag s slot, f, 0, false⟩] }
          .ok (updTask s slot fun k => { k with frames := k.frames + 1 })
    | none =>
      match drawFrame s r (decide (2 ^ 20 ≤ e.frame)) own with
      | none => .wait
      | some (f, s) =>
        let e := tabGet pteReset (getRegion s r).pt page
        .ok (updRegion s r fun x => setPte x page { e with helds := e.helds ++ [⟨slot, heldTag s slot, f, 0, false⟩] })

/-- Write bytes of one page under a commit slot. -/
def writePage (s : State) (r page off slot : Nat) (own : Bool) (bs : Bytes) : WrRes :=
  let s := readTables s r
  let e := pteOf (getRegion s r) page
  if e.lapLocal then .ok (updRegion s r fun x => putLapLocal x page e.frame off slot bs)
  else
    match ensureHeld s r page slot own with
    | .ok s =>
      let x := getRegion s r
      let e := tabGet pteReset x.pt page
      match e.helds.find? (fun h => mineHeld s (epochMembers s slot) slot h.slot h.lap) with
      | some h =>
        let s := checkLines s r (entryFrame x e) false (freshLines h off bs.length)
        .ok (updRegion s r fun x => putHeld x page h off bs)
      | none => .wait
    | w => w

/-- Write an HBM range that may span pages. -/
def writeHbm (s : State) (r slot : Nat) (own : Bool) : Nat → Nat → Nat → Bytes → WrRes
  | 0, _, _, _ => .ok s
  | fuel + 1, page, off, bs =>
    if bs.isEmpty then .ok s
    else
      let k := min bs.length (65536 - off)
      match writePage s r page off slot own (bs.take k) with
      | .ok s => writeHbm s r slot own fuel (page + 1) 0 (bs.drop k)
      | w => w

/-- Ensure held frames for every page of a range before any byte of it moves. -/
def reserveHbm (s : State) (r slot : Nat) (own : Bool) : List Nat → WrRes
  | [] => .ok s
  | p :: ps =>
    if (pteOf (getRegion s r) p).lapLocal then reserveHbm s r slot own ps
    else
      match ensureHeld s r p slot own with
      | .ok s => reserveHbm s r slot own ps
      | w => w

/-- Write to a mapped page at once, outside lap service (R482): to its committed frame, which the fold of what holds the page
gives it. -/
def writeNow (s : State) (r page off : Nat) (bs : Bytes) : State :=
  updRegion (foldFinal (readTables s r) r page) r fun x =>
    { mendHalves x (pteOf x page).frame off bs.length with hbm := memWrite x.hbm ((pteOf x page).frame * 65536 + off) bs }

/-! ## Fill copy and parity -/

/-- XOR of a frame's 64 slices, as cells at offsets 0 to 1,023 (R277, R285). -/
def paritySlice (m : Mem) (f : Nat) : Mem :=
  (m.filter fun c => c.1 / 65536 == f).foldl (fun p c =>
    let o := c.1 % 65536
    tabUpd (0 : Byte) p (o / 16384 * 256 + o % 256) (fun b => b ^^^ c.2)) []

/-- First spare parity frame within a stack (R276). -/
def spareFrame : Nat := 1048320

/-- The frame that stands for a parity frame: itself, or the spare that took its place when it was retired, as far as the 256
spare frames of its stack go (R276, R289). -/
def parityHome (x : Region) (p : Nat) : Nat :=
  match (x.spared.filter fun q => q / 2 ^ 20 == p / 2 ^ 20).idxOf? p with
  | some i => if i < 256 then p / 2 ^ 20 * 2 ^ 20 + spareFrame + i else p
  | none => p

/-- Where a frame's parity slice lies (R285): parity frame of the other stack, slice position f mod 64. -/
def parityAddr (x : Region) (f : Nat) : Nat :=
  parityHome x ((if f < 2 ^ 20 then 2 ^ 20 else 0) + parityFrame + f % 2 ^ 20 / 64) * 65536 + f % 64 * 1024

/-- A parity frame is retired: a spare of its stack takes its place, and its slices move there (R289). -/
def spareParity (x : Region) (p : Nat) : Region :=
  if hasNat x.spared p then x
  else
    let y := { x with spared := x.spared ++ [p] }
    { y with hbm := memWrite y.hbm (parityHome y p * 65536) (memRead x.hbm (p * 65536) 65536) }

/-- Slice p of a frame (R277): its four pieces of 256 bytes, at o[15:14] = 0 to 3. -/
def sliceBytes (m : Mem) (f p : Nat) : Bytes :=
  (rangeFrom 0 4).flatMap fun i => memRead m (f * 65536 + i * 16384 + Nat.xor p (f % 64) * 256) 256

/-- What a frame's parity position takes once the frame is whole (R285, R286): the parity slice; on a degraded stack the
failed slice itself, and the frame has no parity. -/
def sealFrame (failed : Option Nat) (x : Region) (f : Nat) : Region :=
  match failed with
  | none => { x with hbm := memWrite x.hbm (parityAddr x f) (memRead (paritySlice x.hbm f) 0 1024), bare := x.bare.filter fun g => g != f }
  | some p => { x with hbm := memWrite x.hbm (parityAddr x f) (sliceBytes x.hbm f p), bare := insNat x.bare f }

/-- Lines of a held frame that no write has covered: those of its fill copy (R55, R284). -/
def unwrittenLines (h : Held) : List Nat := (rangeFrom 0 1024).filter fun l => !nbit h.written l

/-- Complete the fill copy of a held frame and write its parity (R55, R285). -/
def fillHeld (failed : Option Nat) (x : Region) (page : Nat) (h : Held) : Region :=
  let e := tabGet pteReset x.pt page
  let base := entryFrame x e
  let ls := unwrittenLines h
  setPte (sealFrame failed { x with hbm := copyLines x.hbm base h.frame ls, harm := copyHarm x.harm base h.frame false ls } h.frame) page
    { e with helds := e.helds.map fun g => if g.lap = h.lap ∧ g.slot = h.slot then { g with filled := true } else g }

/-- The fill copy as the part makes it: what it reads is checked on the way (R278, R286). -/
def fillPage (s : State) (r page : Nat) (h : Held) : State :=
  let x := getRegion s r
  let s := checkLines (readSystem s r .written) r (entryFrame x (tabGet pteReset x.pt page)) false (unwrittenLines h)
  updRegion s r fun x => fillHeld (failedSlice s r h.frame) x page h

/-! ## Moving a mapped page to another frame (R288, R354) -/

/-- Copy a mapped page that nobody holds into a FREE frame of a stack, and switch its entry; the old frame is retired,
retained for the recorder, or FREE. A lap-local page takes its written lines with it and has no parity (R60, R61, R285). -/
def movePage (s : State) (r page : Nat) (stackB retire : Bool) : State :=
  let e := pteOf (getRegion s r) page
  if !e.valid || (e.lapLocal && !retire) || !e.helds.isEmpty then s
  else match highFree s r stackB with
    | none => s
    | some f =>
      let ls := rangeFrom 0 1024
      let s := checkLines (readSystem s r .frameMap) r e.frame e.lapLocal ls
      let failed := failedSlice s r f
      let s := updRegion s r fun x =>
        let x := { x with hbm := copyLines x.hbm e.frame f ls, harm := copyHarm x.harm e.frame f e.lapLocal ls }
        let x := if e.lapLocal then
            { x with llWritten := (x.llWritten.map fun l => if l / 512 = e.frame then f * 512 + l % 512 else l).foldl insNat [] }
          else sealFrame failed x f
        setPte (setFrameState (settlePt x page) f 2) page { e with frame := f }
      if retire then
        let s := if retaining s then
          { s with trk := { s.trk with journal := s.trk.journal ++ [.page s.lap.num r page e.frame e.frame true e.lapLocal] } } else s
        retireFrame s r e.frame
      else if retaining s then retainFrame s r page e.frame s.lap.num true false
      else updRegion s r fun x => setFrameState x e.frame 0

/-- Worn frames of mapped pages that no task holds, with their pages (R288). -/
def wornPages (s : State) (r : Nat) : List Nat :=
  let x := getRegion s r
  ((x.ceCount.map (·.1)).foldl insNat x.rebuilt).filterMap fun f =>
    if frameWorn s r f then ((x.ptForce.map (·.page)).foldl insNat (x.pt.map (·.1))).find? fun p =>
      let e := pteOf x p
      e.valid && e.helds.isEmpty && e.frame == f
    else none

/-! ## The block store -/

/-- Key of a protected place: its memory and two indices. Memories of a core: 0 the words of the core store or of a stack
engine's staging area, 1 operand-cache rows by word, 2 weight-store sections, 3 accumulator rows, 4 control-store words,
5 lane groups, 6 the special-function tables by OP and SEL. Memories of a block: 0 block-store words, 1 the tile buffer,
2 the scoreboard, 3 the tumblers, 4 hinge control, 5 DMA control. -/
def harmKey (store i j : Nat) : Nat := (store * 2 ^ 20 + i) * 2 ^ 20 + j

/-- The keys of the units of a size that bytes off to off + n - 1 cover whole. -/
def covered (store size off n : Nat) : Nat × Nat := (harmKey store 0 ((off + size - 1) / size), harmKey store 0 ((off + n) / size))

/-- Words of a block store that a write covers whole hold no error any more. -/
def mendBs (x : Block) (off n : Nat) : Block :=
  let k := covered 0 8 off n
  { x with harm := mendRange x.harm k.1 k.2 }

/-- Whether a block-store line lies in a block-scope buffer that a task of the lap on the block declares (R60, R89). -/
def lapLocalLine (s : State) (b line : Nat) : Bool :=
  s.lap.cur.any fun k => !isSE k.unit && decide (k.unit / 8 = b) &&
    k.bufs.any fun d => d.scope == 1 && decide (d.base < (line + 1) * 128 ∧ line * 128 < d.base + d.size)

/-- The shadow line under which a slot sees a line: its own, or one of its epoch (R49, R58, R374). -/
def shadowSeen (s : State) (b line slot : Nat) (epoch : List (Nat × Nat)) : Option ShLine :=
  let x := getBlock s b
  match x.shadow.find? (fun h => h.line == line && h.slot == slot && h.lap == heldTag s slot) with
  | some h => some h
  | none => x.shadow.find? (fun h => h.line == line && epoch.any (fun m => m.1 == h.lap % 65536 && m.2 == h.slot))

/-- Bytes of one block-store line as a slot sees it (R49, R58, R61). -/
def readLine (s : State) (b line slot : Nat) (epoch : List (Nat × Nat)) : Bytes :=
  let x := getBlock s b
  if lapLocalLine s b line then
    if hasNat x.llWritten line then memRead x.bs (line * 128) 128 else List.replicate 128 0
  else ((shadowSeen s b line slot epoch).map (·.data)).getD (memRead x.bs (line * 128) 128)

/-- Read a block-store range. -/
def readBs (s : State) (b slot : Nat) (epoch : List (Nat × Nat)) (off n : Nat) : Bytes :=
  let ls := rangeFrom (off / 128) ((off + n - 1) / 128 + 1 - off / 128)
  ((ls.flatMap fun l => readLine s b l slot epoch).drop (off % 128)).take n

/-- The valid scoreboard region that covers a line (R141). -/
def sbRegionOf (x : Block) (line : Nat) : Option (Nat × SbRegion) :=
  x.sb.find? fun e => e.2.valid && decide (e.2.base ≤ line ∧ line < e.2.base + e.2.lines)

/-- Consumer records of a block-store read (R144, R510) and its zero reads (R61). -/
def noteBsRead (s : State) (b off n : Nat) (slot : Option Nat) : State :=
  let ls := (rangeFrom (off / 128) ((off + n - 1) / 128 + 1 - off / 128)).filter fun l => lapLocalLine s b l
  let cleared := (ls.filter fun l => !hasNat (getBlock s b).llWritten l).length
  let s := fbump s fRGN_LAP_STATUS_LL_ZERO_READS (b / 8) 0 cleared
  match slot with
  | some t => ls.foldl (fun s l => updTask s t fun q =>
      match sbRegionOf (getBlock s b) l with
      | some (_, x) => { q with rdUnits := insNat q.rdUnits (b * 8 + x.producer) }
      | none => { q with rdBlocks := insNat q.rdBlocks b }) s
  | none => s

/-- Replace bytes [o, o + n) of a line. -/
def spliceLine (old : Bytes) (o : Nat) (bs : Bytes) : Bytes := old.take o ++ bs ++ old.drop (o + bs.length)

/-- Count single-bit corrections in a unit's store (R267, R293, R364). -/
def fixStore (s : State) (u k : Nat) : State :=
  if k = 0 then s else updCore s u fun c => { c with checks := { c.checks with cs := satAdd 8 c.checks.cs k } }

/-- Words 0 to 15 of a line that n bytes from o do not cover whole. -/
def wordsLeft (o n : Nat) : List Nat := (rangeFrom 0 16).filter fun w => !decide (o ≤ 8 * w ∧ 8 * w + 8 ≤ o + n)

/-- Errors of a line's words after a write of n bytes from o: a word written whole has none. -/
def mendLine (t : Tab Nat) (o n : Nat) : Tab Nat := t.filter fun e => hasNat (wordsLeft o n) e.1

/-- A committed line copied into a shadow line that n bytes from o will cover in part (R58): corrections count for the core whose
task writes; an uncorrectable word loses the block's committed state and goes on into the copy (R267, R271, R513;
DEDUCED, assumption 102). -/
def copyLine (s : State) (b line o n slot : Nat) : State × Tab Nat :=
  let t := (getBlock s b).harm
  let kind := fun (w : Nat) => tabGet 0 t (harmKey 0 0 (line * 16 + w))
  let ws := if o = 0 ∧ 128 ≤ n then [] else rangeFrom 0 16
  let bad := ws.filter fun w => kind w == 2
  let fixes := (ws.filter fun w => kind w == 1).length
  let s := match taskBySlot s.lap.cur slot with
    | some k => fixStore s k.unit fixes
    | none => s
  (if bad.isEmpty then s else errRegion s (b / 8) (errRecord s 0xA 2 0x06 b 1 7 line),
    (bad.filter fun w => hasNat (wordsLeft o n) w).map fun w => (w, 2))

/-- Write part of one block-store line under a slot (R58, R59, R61, R604). -/
def writeLine (s : State) (b line o slot : Nat) (bs : Bytes) : WrRes :=
  let x := getBlock s b
  if lapLocalLine s b line then
    let fresh := !hasNat x.llWritten line
    let m := if fresh then memWrite x.bs (line * 128) (List.replicate 128 0) else x.bs
    let y := if fresh then mendBs x (line * 128) 128 else mendBs x (line * 128 + o) bs.length
    .ok (setBlock s b { y with
      bs := memWrite m (line * 128 + o) bs, llWritten := insNat x.llWritten line, llWriters := insNat x.llWriters slot })
  else
    let ep := epochMembers s slot
    let mine := fun (h : ShLine) => h.line == line && mineHeld s ep slot h.slot h.lap
    match x.shadow.find? mine with
    | some h =>
      let s := if h.slot = slot ∧ h.lap = heldTag s slot then s else noteJoined s (linePlace b line) slot
      .ok (setBlock s b { x with shadow := x.shadow.map fun g => if mine g then
        { h with data := spliceLine h.data o bs, harm := mendLine h.harm o bs.length } else g })
    | none =>
      let excess := match taskBySlot s.lap.cur slot with
        | some k => if k.desc.heldLines < k.lines + 1 then some k.desc.heldLines else none
        | none => none
      match excess with
      | some d => .excess 1 d
      | none =>
        if fget s fBLK_SHADOW_CFG_SHADOW_SIZE b 0 * 4096 ≤ x.shadow.length then .wait
        else
          let data := spliceLine (memRead x.bs (line * 128) 128) o bs
          let c := copyLine s b line o bs.length slot
          let s := updBlock c.1 b fun x => { x with shadow := x.shadow ++ [⟨line, slot, heldTag s slot, data, c.2⟩] }
          .ok (updTask s slot fun k => { k with lines := k.lines + 1 })

/-- Write a block-store range. -/
def writeBs (s : State) (b slot : Nat) : Nat → Nat → Bytes → WrRes
  | 0, _, _ => .ok s
  | fuel + 1, off, bs =>
    if bs.isEmpty then .ok s
    else
      let k := min bs.length (128 - off % 128)
      match writeLine s b (off / 128) (off % 128) slot (bs.take k) with
      | .ok s => writeBs s b slot fuel (off + k) (bs.drop k)
      | w => w

/-- The first line of a range that a valid scoreboard region gives to another producer than a core (R144). -/
def sbForeign (s : State) (b core off n : Nat) : Option (Nat × Nat) :=
  (rangeFrom (off / 128) ((off + n - 1) / 128 + 1 - off / 128)).findSome? fun l =>
    match sbRegionOf (getBlock s b) l with
    | some (i, x) => if b * 8 + x.producer = core then none else some (i, l)
    | none => none

end Sys2Proof.Machine
end

