-- ==== Sys2Proof/Machine/Ecc.lean ====
section
/-! DEFINITION. Code errors of the memories: single-bit errors corrected and counted, uncorrectable ones reported (R193, R208,
R267, R271, R278, R286, R287, R513, R514), and bank conflicts (R32, R268, R272). The errors that stand in a memory are state;
what causes one lies outside the commands (assumption 71). -/

namespace Sys2Proof.Machine

/-! ## Places that a code protects -/

/-- The places from lo up to hi, hi left out, that hold an error of a kind: 1 single-bit, 2 uncorrectable. -/
def harmIn (t : Tab Nat) (kind lo hi : Nat) : List Nat :=
  t.filterMap fun e => if e.2 = kind ∧ lo ≤ e.1 ∧ e.1 < hi then some e.1 else none

/-- The keys of the units of a size that bytes off to off + n - 1 touch, as a first key and one past the last. -/
def touched (store size off n : Nat) : Nat × Nat := (harmKey store 0 (off / size), harmKey store 0 ((off + n + size - 1) / size))

/-- DETAIL of STORE_ECC (R601). -/
def storeDetail (store i j : Nat) : Nat := store + i % 65536 * 2 ^ 16 + j % 2 ^ 32 * 2 ^ 32

/-- How the check of a read ends. -/
inductive EccRes
  /-- The data is right; corrections are counted. -/
  | ok (s : State)
  /-- The core that the read counts for halts. -/
  | halt (s : State) (reason detail : Nat)
  /-- The data is lost: a bus error. -/
  | bus (s : State)

/-! ## The core store and the staging area -/

/-- Check a read of a core's store (R267), or of a stack engine's staging area (R349). -/
def readCsEcc (s : State) (u off n : Nat) : EccRes :=
  let t := (getCore s u).harm
  let k := touched 0 8 off n
  let s := fixStore s u (harmIn t 1 k.1 k.2).length
  match harmIn t 2 k.1 k.2 with
  | w :: _ =>
    let o := (w - harmKey 0 0 0) * 8
    .halt s 0x18 (if isSE u then storeDetail 3 (192 + o / 4096) (o % 4096 / 8) else storeDetail 0 (o / 128 % 32) (o / 4096))
  | [] => .ok s

/-- A write of a core's store; words that it covers whole hold no error any more. -/
def writeCs (s : State) (u off : Nat) (bs : Bytes) : State :=
  let k := covered 0 8 off bs.length
  updCore s u fun c => { c with store := memWrite c.store off bs, harm := mendRange c.harm k.1 k.2 }

/-! ## The block store -/

/-- Check a read of a block-store range (R267, R271): corrections count in the core store's register of the core the read
counts for; an uncorrectable committed word loses the block's state (R513). Each word is that of the line that the reader
sees: a shadow line, or the block's own. -/
def readBsEcc (s : State) (core : Option Nat) (b off n slot : Nat) (epoch : List (Nat × Nat)) : EccRes :=
  let held := fun (line : Nat) => if lapLocalLine s b line then none else shadowSeen s b line slot epoch
  let words := rangeFrom (off / 8) ((off + n + 7) / 8 - off / 8)
  let kind := fun (w : Nat) => match held (w / 16) with
    | some h => tabGet 0 h.harm (w % 16)
    | none => tabGet 0 (getBlock s b).harm (harmKey 0 0 w)
  let sound := (getBlock s b).harm.isEmpty && (getBlock s b).shadow.all fun h => h.harm.isEmpty
  let fixes := if sound then 0 else (words.filter fun w => kind w == 1).length
  let bad := if sound then none else words.find? fun w => kind w == 2
  let s := core.elim s fun u => fixStore s u fixes
  match bad with
  | some w =>
    let line := w / 16
    let s := if lapLocalLine s b line || (held line).isSome then s else errRegion s (b / 8) (errRecord s 0xA 2 0x06 b 1 7 line)
    .halt s 0x18 (storeDetail 0 (line % 96) (line / 96))
  | none => .ok s

/-! ## HBM -/

/-- Check the half-lines of a range of one page as a slot resolves them. -/
def readHalves (r page lap slot : Nat) (epoch : List (Nat × Nat)) : List Nat → State → State × Bool
  | [], s => (s, false)
  | h :: t, s =>
    let x := getRegion s r
    let e := pteOf x page
    let f := if e.lapLocal then e.frame else resolveLine x e lap slot epoch (h / 2)
    let q := readHalf s r f (h * 32) e.lapLocal
    if q.2 then q else readHalves r page lap slot epoch t q.1

/-- Check a read of an HBM range that may span pages; the flag says that data is lost. -/
def readHbmEcc (s : State) (r slot : Nat) (epoch : List (Nat × Nat)) : Nat → Nat → Nat → Nat → State × Bool
  | 0, _, _, _ => (s, false)
  | fuel + 1, page, off, n =>
    if n = 0 then (s, false)
    else if hbmSound s r then (readTables s r, false)
    else
      let s := readTables s r
      let k := min n (65536 - off)
      let q := readHalves r page s.lap.num slot epoch (rangeFrom (off / 32) ((off + k - 1) / 32 + 1 - off / 32)) s
      if q.2 then q else readHbmEcc q.1 r slot epoch fuel (page + 1) 0 (n - k)

/-! ## Reads of committed state at a place of R602 -/

/-- How a read of a program or an arm list ends (R603). -/
inductive TaskRead
  | ok (b : Bytes)
  | range (a : Nat)
  | bus (a : Nat)

/-- First address of a read of committed state, half-line by half-line, whose data is lost. -/
def lostAt (s : State) (r page off n a : Nat) : Nat :=
  match (rangeFrom 0 ((n + 63) / 64)).find? fun k =>
      (readHbmEcc s r noSlot [] 2 (page + (off + 64 * k) / 65536) ((off + 64 * k) % 65536) (min 64 (n - 64 * k))).2 with
  | some k => a + 64 * k
  | none => a

/-- Read committed state at a place R602 allows: an HBM window, every page mapped and not lap-local. A dead region and lost
data give a bus error at the failing address (R514, R603). -/
def taskRead (s : State) (a n : Nat) : State × TaskRead :=
  match placeOf s none a with
  | .hbm r page off =>
    if !regionAlive s r then (s, .bus a)
    else if committedOk s r page off n then
      let q := readHbmEcc s r noSlot [] (n / 65536 + 2) page off n
      (q.1, if q.2 then .bus (lostAt s r page off n a) else .ok (readCommitted s r page off n))
    else
      let bad := (rangeFrom page ((off + n + 65535) / 65536)).find? fun p =>
        let e := pteOf (getRegion s r) p
        !(e.valid && !e.lapLocal) || decide (0x20_0000 ≤ p)
      (s, .range (match bad with
        | some p => if p = page then a else a + (p - page) * 65536 - off
        | none => a))
  | _ => (s, .range a)

/-! ## Bank conflicts (R32, R165) -/

/-- Arbitrations that a request loses before its bank serves it: time decides, so the number is a free value (assumption
73). It counts for the master in the core store's counters. -/
def csConflict (s : State) (u master : Nat) : State :=
  let d := drawFree s
  updCore d.2 u fun c => { c with conf := tabUpd 0 c.conf master fun n => satAdd 32 n d.1 }

/-- As csConflict, in the block store's counters (R272). -/
def bsConflict (s : State) (b master : Nat) : State :=
  let d := drawFree s
  updBlock d.2 b fun x => { x with conf := tabUpd 0 x.conf master fun n => satAdd 32 n d.1 }

end Sys2Proof.Machine
end

