-- ==== Sys2Proof/Machine/TumOps.lean ====
section
/-! DEFINITION. Tumblers: naming (R428, R429), signals (R430), waits (R432), consumer records (R434), setting by hand
(R443), records (R427). -/

namespace Sys2Proof.Machine

def nmIndex (n : Nat) : Nat := nbits n 0 12
def nmUnit (n : Nat) : Nat := nbits n 12 6
def nmScope (n : Nat) : Nat := nbits n 18 2
def nmRemote (n : Nat) : Bool := nbit n 20
def nmReach (n : Nat) : Bool := nbit n 21
def nmAmount (n : Nat) : Nat := nbits n 24 8

/-- The tumbler a name names for a requester of block own (R428). -/
def tumRefOf (own n : Nat) : TumRef :=
  if nmScope n = 2 then ⟨true, nmUnit n % 8, nmIndex n⟩
  else if nmScope n = 1 then ⟨false, nmUnit n, nmIndex n⟩
  else ⟨false, own, nmIndex n⟩

/-- Reserved parts of a name (R428, R429): reserved SCOPE, reserved bits, a UNIT that must be zero, INDEX above 1,023. -/
def nmBad (n : Nat) : Bool :=
  nmScope n == 3 || nbits n 22 2 != 0 || (nmScope n == 0 && nmUnit n != 0) || (nmScope n == 2 && decide (8 ≤ nmUnit n)) ||
    (nmScope n == 2 && decide (1024 ≤ nmIndex n))

/-- Note a signaller of a tumbler (R434, R510). -/
def noteSignaller (s : State) (t : TumRef) (slot : Nat) : State :=
  if t.region then updRegion s t.unit fun r => { r with tumSignallers := insNat r.tumSignallers slot }
  else updBlock s t.unit fun b => { b with tumSignallers := insNat b.tumSignallers slot }

/-- Apply a signal (R430): the flag says that it was refused for saturation. A cut tumbler drops it (R437). -/
def tumSignal (s : State) (t : TumRef) (amount core source slot : Nat) : State × Bool :=
  if tumCut s t then (s, false)
  else
    let x := tumGet s t
    if 65535 < x.count + amount then (tumPut s t { x with sat := true }, true)
    else
      let s := tumPut s t { x with
        count := x.count + amount, signals := satAdd 16 x.signals 1,
        lastCore := if source ≤ 1 then core else x.lastCore, lastSource := source, sigs := insNat x.sigs slot }
      (tumRetest (noteSignaller s t slot) t, false)

/-- A wait arrives (R432); a cut tumbler drops it (R437). -/
def tumArrive (s : State) (t : TumRef) (w : TumPend) : State :=
  if tumCut s t then s
  else
    let x := tumGet s t
    tumRetest (tumPut s t { x with waits := x.waits ++ [w] }) t

/-- Set a count: a preset between the commit point and first issue, by hand after first issue (R426, R443). -/
def tumSetCount (s : State) (t : TumRef) (v : Nat) : State :=
  let x := tumGet s t
  tumRetest (tumPut s t { x with count := v % 65536, hand := x.hand || decide (s.lap.phase = .issuing) }) t

/-- Drop the pending wait of a unit whose task has ended; what it held back is tested again (R432). -/
def tumDrop (s : State) (u : Nat) : State :=
  match (getCore s u).seq.tumPending with
  | some n =>
    let t := tumRefOf (unitBlock u) n
    let x := tumGet s t
    let s := tumPut s t { x with waits := x.waits.filter fun w => w.unit != u }
    if tumCut s t then s else tumRetest s t
  | none => s

/-- A tumbler record (R427). -/
def tumRecord (x : Tumbler) : Nat :=
  x.count + min x.waits.length 255 * 2 ^ 16 + b2n x.sat * 2 ^ 24 + b2n x.hand * 2 ^ 25 + x.signals * 2 ^ 32 +
    x.lastCore % 512 * 2 ^ 48 + x.lastSource % 4 * 2 ^ 57

end Sys2Proof.Machine
end

