-- ==== Sys2Proof/Machine/CoreOps.lean ====
section
/-! DEFINITION. Operations of a core or stack engine: queues and batons (R137 to R139), field queues (R127), halts (R146 to
R152, R357, R503), capabilities (R559). -/

namespace Sys2Proof.Machine

/-! ## Queues -/

def getQ (c : Core) (q : Nat) : Queue := tabGet queueReset c.queues q
def setQ (c : Core) (q : Nat) (x : Queue) : Core := { c with queues := tabSet queueReset c.queues q x }

/-- What the head of a queue gives a reader of data (R139). -/
inductive Pop
  | beat (b : Bytes) (c : Core)
  | wait
  | order

def popBeat (c : Core) (q : Nat) : Pop :=
  let x := getQ c q
  match x.items with
  | .beat b :: t => .beat b (setQ c q { x with items := t })
  | .baton _ :: _ => .order
  | [] => .wait

/-- Append an entry; none when the queue holds eight (R137). -/
def pushQ (c : Core) (q : Nat) (i : QItem) : Option Core :=
  let x := getQ c q
  if x.items.length < 8 then some (setQ c q { x with items := x.items ++ [i] }) else none

/-- Append several entries, all or none. -/
def pushAll (c : Core) (q : Nat) : List QItem → Option Core
  | [] => some c
  | i :: t => match pushQ c q i with
    | some c => pushAll c q t
    | none => none

/-- How an engine step ends. -/
inductive EngRes
  | ok (c : Core)
  | wait
  | halt (reason detail : Nat)

/-- The baton header (R116): TAKE before the operation (R139). -/
def takeBaton (c : Core) (bits : Nat) : EngRes :=
  let q := nbits bits 10 4
  if nbit bits 0 then
    match (getQ c q).items with
    | [] => .wait
    | .baton t :: rest =>
      if t = nbits bits 2 8 then .ok (setQ c q { getQ c q with items := rest })
      else .halt 0x0A (q + nbits bits 2 8 * 2 ^ 8 + t * 2 ^ 16)
    | .beat _ :: _ => .halt 0x0B q
  else .ok c

/-- PUT after the operation (R138). -/
def putBaton (c : Core) (bits : Nat) : EngRes :=
  if nbit bits 1 then
    match pushQ c (nbits bits 10 4) (.baton (nbits bits 2 8)) with
    | some c => .ok c
    | none => .wait
  else .ok c

/-! ## Field queues -/

def getFq (c : Core) (eng : Nat) : List QField := tabGet [] c.fq eng
def setFq (c : Core) (eng : Nat) (l : List QField) : Core := { c with fq := tabSet [] c.fq eng l }

/-- Append an issued field (R127). -/
def pushFq (c : Core) (eng : Nat) (f : QField) : Core := setFq c eng (getFq c eng ++ [f])

/-- A summary register is valid when no queued VEC field will still write it (R135). -/
def sumValid (c : Core) (i : Nat) : Bool :=
  !(getFq c 2).any fun f => nbits f.bits 62 3 != 0 && nbits f.bits 65 3 == i

/-! ## Capabilities -/

/-- Units of R88 fused into a core: all seven, without SCAN on a scan-less core. -/
def fusedUnits (s : State) (c : Nat) : Nat := if hasNat s.fuses.scanLess c then 0x6F else 0x7F

/-- OOS_UNITS of a unit (R559): a voted field, one copy for each entry. -/
def oosUnits (s : State) (u : Nat) : Nat := fget s fPART_CAP_ENTRY_OOS_UNITS 0 u % 128

/-- UNITS of the capability entry of a unit (R559). -/
def capUnits (s : State) (u : Nat) : Nat :=
  let c := getCore s u
  if isSE u then
    if regionPresent s (unitRegion u) && !c.deadbolted then Nat.land 6 (0x7F - oosUnits s u) else 0
  else if corePresent s u && !isCut s 0 u then Nat.land (fusedUnits s u) (0x7F - oosUnits s u)
  else 0

/-- PART_CAP_ENTRY of a unit (R559). -/
def capEntry (s : State) (u : Nat) : Nat :=
  let c := getCore s u
  let enabled := if isSE u then regionPresent s (unitRegion u) else corePresent s u
  let dead := if isSE u then c.deadbolted else isCut s 0 u
  capUnits s u + b2n enabled * 2 ^ 16 + b2n (!isSE u && hasNat s.fuses.scanLess u) * 2 ^ 17 + b2n c.quarantined * 2 ^ 18 +
    b2n dead * 2 ^ 19 + oosUnits s u * 2 ^ 21

/-! ## Halts -/

/-- SE_COVERING of an engine that covers its sibling (R361, R507). -/
def postCovering (s : State) (e : Nat) : State := errRegion s (e / 2) (errRecord s 3 2 0x1E e 3 0 (sibling e))

/-- Record the lost stack engine, whose sibling covers it where it may (R358, R361, R507). -/
def loseEngine (s : State) (detail e : Nat) : State :=
  let s := fence s detail 3 e
  let s := errRegion s (e / 2) (errRecord s 3 2 0x0C e 3 2 0)
  if covers s (sibling e) then postCovering s (sibling e) else s

/-- SE_COVERING for every engine that has begun to cover since s0. -/
def coverStarts (s0 s : State) : State :=
  (rangeFrom 0 (2 * nRegions s)).foldl (fun t e => if covers s e && !covers s0 e then postCovering t e else t) s

/-- Block or region error handling of a halt (R147, R152, R357, R358, R503): the record is posted, and a counted class H halt
quarantines the core, or deadbolts it as a repeat. -/
def handleHalt (s : State) (u reason rec task : Nat) : State :=
  let counted := decide (reason ≠ 0x16 ∧ reason ≠ 0x1A)
  let c := getCore s u
  if !classH reason then postHalt fence s u rec task 0
  else if isSE u then
    let s := postHalt fence s u rec task 0
    let again := match c.lastHaltLap with
      | some l => decide (s.lap.num ≤ l + 16)
      | none => false
    let s := updCore s u fun c => { c with lastHaltLap := some s.lap.num }
    if again then loseEngine s byRegion (u - 512) else s
  else if !counted then postHalt fence s u rec task 0
  else
    let again := c.quarantined || match c.lastHaltLap with
      | some l => decide (s.lap.num ≤ l + 4096)
      | none => false
    if again then fence (postHalt fence s u rec task 2) byBlock 0 u
    else postHalt fence (updCore s u fun c => { c with quarantined := true, lastHaltLap := some s.lap.num }) u rec task 1

/-- Halt a unit (R146, R147, R152): the record, the task's outcome, the tasks placed after it on the unit, the queue. -/
def haltUnit (s : State) (u reason engine pc detail : Nat) : State :=
  let c := getCore s u
  let depth := c.seq.loops.length
  let slot := c.task.getD 0
  let task := unitTask s u
  let gid := match task with | some k => k.graph | none => 0
  let idx := match task with | some k => k.desc.index | none => 0
  let w := haltRecord s u reason engine pc depth gid idx detail
  let s := setCore (vecHeld (tumDrop s u) u) u (haltCore c w)
  let mark := fun (k : LapTask) =>
    if k.unit ≠ u then k
    else if k.slot = slot then { endTask k (if reason = 0x14 then 4 else 7) with haltRec := w }
    else if k.started then k
    else endTask k 7
  let s := updLap s fun l => { l with cur := l.cur.map mark }
  handleHalt s u reason w idx

/-! ## Running one field of an engine -/

/-- Run the head field of an engine when its operation is the command's: TAKE, operation, PUT (R127, R138, R139). A wait
leaves the state as it was. -/
def runField (s : State) (u eng : Nat) (mine : Nat → Bool) (op : Core → Nat → EngRes) : State :=
  let c := getCore s u
  if c.seq.st ≠ .running then s
  else
    match getFq c eng with
    | [] => s
    | f :: rest =>
      if !mine f.bits then s
      else
        let stop := fun (reason detail : Nat) => haltUnit s u reason eng f.pc detail
        match takeBaton c f.bits with
        | .wait => s
        | .halt r d => stop r d
        | .ok c =>
          match op c f.bits with
          | .wait => s
          | .halt r d => stop r d
          | .ok c =>
            match putBaton c f.bits with
            | .wait => s
            | .halt r d => stop r d
            | .ok c => setCore s u (setFq c eng rest)

/-- Retire head fields whose operation is NOP in engines other than the vector engine: they only take and put batons
(R116; no row of the table runs them, assumption 11). -/
def nopField (eng bits : Nat) : Bool := if 6 ≤ eng ∧ eng ≤ 13 then nbits bits 0 4 == 0 else nbits bits 14 4 == 0

/-- Complete rows staged. -/
def batchRows (x : Batch) : Nat := x.records.length / (16 - x.slot)

/-- A BATCH field has not retired while rows that its beat completed still have to drain (R191): a NOP behind it waits with
its batons (R138). -/
def batchHolds (c : Core) : Bool :=
  match c.batch with
  | some x => decide (0 < batchRows x) || !x.rest.isEmpty
  | none => false

def drainNops (u : Nat) : List Nat → State → State
  | [], s => s
  | eng :: t, s => drainNops u t (runField s u eng (nopField eng)
      (fun c _ => if eng = 1 && batchHolds c then .wait else .ok c))

/-- The engines of R114 with a NOP that no command runs. -/
def nopEngines : List Nat := [1, 3, 4, 5, 6, 7, 8, 9, 10, 11, 12, 13, 14]

def settleNops (s : State) (u : Nat) : State :=
  let go := drainNops u nopEngines
  go (go s)

end Sys2Proof.Machine
end

