-- ==== Sys2Proof/Machine/Numeric.lean ====
section
/-! DEFINITION. Numeric formats, rounding, NaN propagation and the pairwise order (R204, R239, R251 to R261, R265). -/

namespace Sys2Proof.Machine

/-- A value of any floating-point format: a NaN as its quiet FP32 pattern (R258), an infinity, or sign and m times 2^e. -/
inductive FV
  | nan (w : Nat)
  | inf (neg : Bool)
  | fin (neg : Bool) (m : Nat) (e : Int)
  deriving DecidableEq, Repr

/-- An encoding of R252: exponent and mantissa bits, bias, and what its top exponent means. -/
structure FFmt where
  eb : Nat
  mb : Nat
  bias : Int
  /-- 2: infinities and NaNs as FP32. 1: only S.1111.111 is NaN (E4M3). 0: neither. -/
  top : Nat
  deriving DecidableEq, Repr

def fmtFP32 : FFmt := ⟨8, 23, 127, 2⟩
def fmtBF16 : FFmt := ⟨8, 7, 127, 2⟩
def fmtFP16 : FFmt := ⟨5, 10, 15, 2⟩
def fmtE4M3 : FFmt := ⟨4, 3, 7, 1⟩
def fmtE5M2 : FFmt := ⟨5, 2, 15, 2⟩
def fmtE2M3 : FFmt := ⟨2, 3, 1, 0⟩
def fmtE3M2 : FFmt := ⟨3, 2, 3, 0⟩
def fmtE2M1 : FFmt := ⟨2, 1, 1, 0⟩

/-- Width of an encoding in bits. -/
def fmtBits (f : FFmt) : Nat := 1 + f.eb + f.mb

/-- The NaN that an invalid operation on other operands returns (R258). -/
def defaultNaN : Nat := 0x7FC0_0000

/-- Exponent of the smallest normal. -/
def fmtEmin (f : FFmt) : Int := 1 - f.bias

/-- Largest finite value as m times 2^e (R252). -/
def fmtMax (f : FFmt) : Nat × Int :=
  if f.top = 2 then (2 ^ (f.mb + 1) - 1, (2 ^ f.eb - 2 : Nat) - f.bias - f.mb)
  else if f.top = 1 then (2 ^ (f.mb + 1) - 2, (2 ^ f.eb - 1 : Nat) - f.bias - f.mb)
  else (2 ^ (f.mb + 1) - 1, (2 ^ f.eb - 1 : Nat) - f.bias - f.mb)

/-- NaN of a format as the quiet FP32 pattern of the conversion table of R258. -/
def nanTo32 (f : FFmt) (b : Nat) : Nat :=
  let s := nbits b (f.eb + f.mb) 1
  let pay := if f.top = 2 then nbits b 0 (f.mb - 1) * 2 ^ (22 - (f.mb - 1)) else 0
  s * 2 ^ 31 + 0x7FC0_0000 + pay

/-- NaN of FP32 pattern in a format (R258). -/
def nanFrom32 (f : FFmt) (w : Nat) : Nat :=
  let s := nbits w 31 1 * 2 ^ (f.eb + f.mb)
  if f.top = 2 then
    if f.mb < 3 then s + (2 ^ f.eb - 1) * 2 ^ f.mb + 2 ^ (f.mb - 1)
    else s + (2 ^ f.eb - 1) * 2 ^ f.mb + 2 ^ (f.mb - 1) + nbits w (22 - (f.mb - 1)) (f.mb - 1)
  else s + 2 ^ (f.eb + f.mb) - 1

/-- Value of an encoding (R252). -/
def fpDecode (f : FFmt) (b : Nat) : FV :=
  let s := nbit b (f.eb + f.mb)
  let e := nbits b f.mb f.eb
  let m := nbits b 0 f.mb
  if f.top = 2 ∧ e = 2 ^ f.eb - 1 then
    if m = 0 then .inf s else .nan (nanTo32 f b)
  else if f.top = 1 ∧ e = 2 ^ f.eb - 1 ∧ m = 2 ^ f.mb - 1 then .nan (nanTo32 f b)
  else if e = 0 then .fin s m (fmtEmin f - f.mb)
  else .fin s (m + 2 ^ f.mb) (e - f.bias - f.mb)

/-- m times 2^e rounded to p bits with least exponent emin, to nearest even. -/
def roundMag (p : Nat) (emin : Int) (m : Nat) (e : Int) : Nat × Int :=
  let sh : Int := max ((bitLen m : Int) - p) (emin - (p - 1 : Nat) - e)
  if sh ≤ 0 then (m, e)
  else
    let k := sh.toNat
    let q := m / 2 ^ k
    let r := m % 2 ^ k
    let up := decide (2 * r > 2 ^ k) || (decide (2 * r = 2 ^ k) && q % 2 == 1)
    (q + b2n up, e + sh)

/-- Rounding toward zero, with the fraction dropped in units of 2^-32 and whether any was dropped (R261). -/
def truncMag (p : Nat) (emin : Int) (m : Nat) (e : Int) : Nat × Int × Nat × Bool :=
  let sh : Int := max ((bitLen m : Int) - p) (emin - (p - 1 : Nat) - e)
  if sh ≤ 0 then (m, e, 0, true)
  else
    let k := sh.toNat
    let r := m % 2 ^ k
    (m / 2 ^ k, e + sh, r * 2 ^ 32 / 2 ^ k, decide (r = 0))

/-- Compare m1 times 2^e1 with m2 times 2^e2. -/
def magLt (m1 : Nat) (e1 : Int) (m2 : Nat) (e2 : Int) : Bool :=
  let e := min e1 e2
  decide (m1 * 2 ^ (e1 - e).toNat < m2 * 2 ^ (e2 - e).toNat)

/-- A finite representable magnitude in its encoding. -/
def encodeMag (f : FFmt) (neg : Bool) (m : Nat) (e : Int) : Nat :=
  let s := b2n neg * 2 ^ (f.eb + f.mb)
  if m = 0 then s
  else
    let l := bitLen m
    let ex : Int := e + l - 1
    if ex < fmtEmin f then
      let d := e - (fmtEmin f - f.mb)
      s + (if d ≥ 0 then m * 2 ^ d.toNat else m / 2 ^ (-d).toNat)
    else
      let frac := if l ≤ f.mb + 1 then m * 2 ^ (f.mb + 1 - l) else m / 2 ^ (l - (f.mb + 1))
      s + (ex + f.bias).toNat * 2 ^ f.mb + frac % 2 ^ f.mb

/-- A result past the largest finite value (R257): an infinity where the format has one, else the largest finite value. -/
def encodeOver (f : FFmt) (neg : Bool) : Nat :=
  let s := b2n neg * 2 ^ (f.eb + f.mb)
  if f.top = 2 then s + (2 ^ f.eb - 1) * 2 ^ f.mb
  else encodeMag f neg (fmtMax f).1 (fmtMax f).2

/-- A finite magnitude rounded to nearest even and encoded. -/
def encodeFin (f : FFmt) (neg : Bool) (m : Nat) (e : Int) : Nat :=
  let r := roundMag (f.mb + 1) (fmtEmin f) m e
  if magLt (fmtMax f).1 (fmtMax f).2 r.1 r.2 then encodeOver f neg else encodeMag f neg r.1 r.2

/-- An infinity in a format (R257): E4M3 takes its NaN. -/
def encodeInf (f : FFmt) (neg : Bool) : Nat :=
  let s := b2n neg * 2 ^ (f.eb + f.mb)
  if f.top = 2 then s + (2 ^ f.eb - 1) * 2 ^ f.mb else if f.top = 1 then s + 2 ^ (f.eb + f.mb) - 1 else encodeOver f neg

/-- A value rounded once, to nearest even, to a format (R204, R257). -/
def fpEncode (f : FFmt) : FV → Nat
  | .nan w => nanFrom32 f w
  | .inf s => encodeInf f s
  | .fin s m e => encodeFin f s m e

/-- A value rounded stochastically to a format with the draw u (R261). -/
def fpEncodeSr (f : FFmt) (u : Nat) : FV → Nat
  | .nan w => nanFrom32 f w
  | .inf s => encodeInf f s
  | .fin s m e =>
    if magLt (fmtMax f).1 (fmtMax f).2 m e then encodeFin f s m e
    else
      let t := truncMag (f.mb + 1) (fmtEmin f) m e
      if t.2.2.2 then encodeMag f s t.1 t.2.1
      else encodeMag f s (t.1 + b2n (decide (t.2.2.1 + u ≥ 2 ^ 32))) t.2.1

/-- Whether a value is a NaN. -/
def FV.isNaN : FV → Bool
  | .nan _ => true
  | _ => false

/-- The signed integer that a finite value is at exponent e. -/
def finInt (neg : Bool) (m : Nat) (e lo : Int) : Int :=
  let v : Int := ((m * 2 ^ (e - lo).toNat : Nat) : Int)
  if neg then -v else v

/-- An exact signed sum at exponent e; z is the sign an exact zero takes. -/
def fvOfInt (z : Bool) (v : Int) (e : Int) : FV :=
  if v = 0 then .fin z 0 0 else .fin (decide (v < 0)) v.natAbs e

/-- Exact sum, NaN and infinities by R204 and R258: left before right. -/
def fvAdd : FV → FV → FV
  | .nan w, _ => .nan w
  | _, .nan w => .nan w
  | .inf s, .inf t => if s = t then .inf s else .nan defaultNaN
  | .inf s, _ => .inf s
  | _, .inf s => .inf s
  | .fin s m e, .fin t n d =>
    let lo := min e d
    fvOfInt (s && t && decide (m = 0 ∧ n = 0)) (finInt s m e lo + finInt t n d lo) lo

/-- Negation; a NaN is returned with its own sign (R258). -/
def fvNeg : FV → FV
  | .nan w => .nan w
  | .inf s => .inf (!s)
  | .fin s m e => .fin (!s) m e

/-- Exact difference: a NaN operand is returned with its own sign (R258). -/
def fvSub (a b : FV) : FV := fvAdd a (fvNeg b)

/-- Exact product. -/
def fvMul : FV → FV → FV
  | .nan w, _ => .nan w
  | _, .nan w => .nan w
  | .inf s, .inf t => .inf (s != t)
  | .inf s, .fin t m _ => if m = 0 then .nan defaultNaN else .inf (s != t)
  | .fin s m _, .inf t => if m = 0 then .nan defaultNaN else .inf (s != t)
  | .fin s m e, .fin t n d => .fin (s != t) (m * n) (e + d)

/-- Exact a times b plus c; NaN operands in the order A, B, C (R258). -/
def fvFma (a b c : FV) : FV :=
  match a, b, c with
  | .nan w, _, _ => .nan w
  | _, .nan w, _ => .nan w
  | _, _, .nan w => .nan w
  | a, b, c => fvAdd (fvMul a b) c

/-- A value rounded to p bits with least exponent emin. -/
def fvRound (p : Nat) (emin : Int) : FV → FV
  | .fin s m e => let r := roundMag p emin m e; .fin s r.1 r.2
  | v => v

/-- Rounded to the extended accumulator (R239). -/
def fvExt (v : FV) : FV := fvRound 48 (-16382) v

/-- Rounded to FP32, as a value. -/
def fv32 (v : FV) : FV := fpDecode fmtFP32 (fpEncode fmtFP32 v)

/-- Whether a finite or infinite value lies below another, with equal zeros (neither is NaN). -/
def fvLt : FV → FV → Bool
  | .inf s, .inf t => s && !t
  | .inf s, .fin _ _ _ => s
  | .fin _ _ _, .inf t => !t
  | .fin s m e, .fin t n d => let lo := min e d; decide (finInt s m e lo < finInt t n d lo)
  | _, _ => false

/-- The sign of a value. -/
def fvNegative : FV → Bool
  | .nan w => nbit w 31
  | .inf s => s
  | .fin s _ _ => s

/-- Below, with -0 below +0 (R205, R211, R240). -/
def fvBelow (a b : FV) : Bool :=
  fvLt a b || (!fvLt b a && fvNegative a && !fvNegative b)

/-- Equal as numbers. -/
def fvEq (a b : FV) : Bool := !a.isNaN && !b.isNaN && !fvLt a b && !fvLt b a

/-- One level of the pairwise order (R259). -/
def pairLevel {α : Type} (add : α → α → α) : List α → List α
  | a :: b :: t => add a b :: pairLevel add t
  | [a] => [a]
  | [] => []

def pairFold {α : Type} (add : α → α → α) (zero : α) : Nat → List α → α
  | _, [] => zero
  | _, [a] => a
  | 0, a :: _ => a
  | n + 1, l => pairFold add zero n (pairLevel add l)

/-- The fixed pairwise sum (R259). -/
def pairwise {α : Type} (add : α → α → α) (zero : α) (l : List α) : α := pairFold add zero (bitLen l.length) l

/-- +0. -/
def fvZero : FV := .fin false 0 0

/-- Addition of FP32 values rounded to FP32. -/
def add32 (a b : FV) : FV := fv32 (fvAdd a b)

/-- FP32 addition of bit patterns. -/
def fpAdd (f : FFmt) (a b : Nat) : Nat := fpEncode f (fvAdd (fpDecode f a) (fpDecode f b))

/-- Rotate left. -/
def rotl32 (x n : Nat) : Nat := (x * 2 ^ n + x / 2 ^ (32 - n)) % 2 ^ 32

/-- One round of a draw (R265). -/
def drawOne (k0 i a b : Nat) : Nat × Nat :=
  let a := (a + rotl32 b 7) % 2 ^ 32
  let b := Nat.xor b (rotl32 a 13)
  (a * 0x2C1B_3C6D % 2 ^ 32, (b + Nat.xor k0 i) % 2 ^ 32)

/-- draw(k, c) (R265). -/
def randDraw (k c : Nat) : Nat :=
  let r := (rangeFrom 0 8).foldl (fun ab i => drawOne (k % 2 ^ 32) i ab.1 ab.2)
    (Nat.xor (c % 2 ^ 32) (k % 2 ^ 32), Nat.xor (nbits c 32 32) (nbits k 32 32))
  Nat.xor r.1 r.2

end Sys2Proof.Machine
end

