-- ==== Sys2Proof/Machine/Special.lean ====
section
/-! DEFINITION. EXP, LOG, RCP and RSQRT: the exact result rounded once to FP32 (R231 to R237), and the exponential of
SUMEXP rounded to the extended accumulator (R241). RCP and RSQRT are exact integer arithmetic. EXP and LOG are rational
enclosures at rising precision: where both ends round alike, that is the result; where the last precision still does not
settle it, the result is the free value Config.specialTie (assumption 20). -/

namespace Sys2Proof.Machine

/-- Enclosure of the exponential of num / 2^den (below 1/2), scaled by 2^p: Taylor terms, lower and upper. -/
def expTaylor (p num den : Nat) : Nat → Nat → Nat × Nat → Nat × Nat → Nat × Nat
  | 0, _, _, (slo, shi) => (slo, shi + 2)
  | n + 1, i, (tlo, thi), (slo, shi) =>
    let tlo' := tlo * num / 2 ^ den / i
    let thi' := thi * num / 2 ^ den / i + 2
    expTaylor p num den n (i + 1) (tlo', thi') (slo + tlo', shi + thi')

/-- Square an enclosure k times. -/
def sqEnc (p : Nat) : Nat → Nat × Nat → Nat × Nat
  | 0, x => x
  | n + 1, (lo, hi) => sqEnc p n (lo * lo / 2 ^ p, hi * hi / 2 ^ p + 1)

/-- Enclosure of exp of |x| for x = m times 2^e, scaled by 2^p. -/
def expEnc (p m : Nat) (e : Int) : Nat × Nat :=
  let k := (e + bitLen m + 2).toNat
  let den := ((k : Int) - e).toNat
  let num := m * 2 ^ (e - (k : Int)).toNat
  sqEnc p k (expTaylor p num den (p / 2 + 8) 1 (2 ^ p, 2 ^ p) (2 ^ p, 2 ^ p))

/-- Lower and upper rational ends of exp x as m times 2^e. -/
def expEnds (p : Nat) (neg : Bool) (m : Nat) (e : Int) : (Nat × Int) × (Nat × Int) :=
  let enc := expEnc p m e
  if neg then
    let q := p + bitLen enc.2
    ((2 ^ (p + q) / enc.2, -(q : Int)), (2 ^ (p + q) / enc.1 + 1, -(q : Int)))
  else ((enc.1, -(p : Int)), (enc.2, -(p : Int)))

/-- The first precision at which both ends agree after rnd. -/
def settle (rnd : Nat × Int → Nat) (ends : Nat → (Nat × Int) × (Nat × Int)) (tie : Nat) : List Nat → Nat
  | [] => tie
  | p :: ps =>
    let x := ends p
    if rnd x.1 = rnd x.2 then rnd x.1 else settle rnd ends tie ps

/-- Enclosure of 2 artanh(a / b), a below b / 2, scaled by 2^p. -/
def artanhTerms (p a b : Nat) : Nat → Nat → Nat × Nat → Nat × Nat → Nat × Nat
  | 0, _, _, (slo, shi) => (2 * slo, 2 * shi + 4)
  | n + 1, i, (tlo, thi), (slo, shi) =>
    artanhTerms p a b n (i + 2) (tlo * a * a / (b * b), thi * a * a / (b * b) + 1) (slo + tlo / i, shi + thi / i + 1)

def artanhEnc (p a b : Nat) : Nat × Nat :=
  artanhTerms p a b (p / 3 + 8) 1 (2 ^ p * a / b, 2 ^ p * a / b + 1) (0, 0)

/-- Signed enclosure of ln(m times 2^e), scaled by 2^p, for m above 0. -/
def lnEnc (p m : Nat) (e : Int) : Int × Int :=
  let l := bitLen m
  let high := decide (4 * m > 3 * 2 ^ l)
  let one := if high then 2 ^ l else 2 ^ (l - 1)
  let k : Int := e + (if high then l else l - 1 : Nat)
  let a := if m < one then artanhEnc p (one - m) (one + m) else artanhEnc p (m - one) (m + one)
  let ai : Int × Int := if m = one then (0, 0) else if m < one then (-(a.2 : Int), -(a.1 : Int)) else ((a.1 : Int), (a.2 : Int))
  let t := artanhEnc p 1 3
  let ki : Int × Int := if k ≥ 0 then (k * t.1, k * t.2) else (k * t.2, k * t.1)
  (ai.1 + ki.1, ai.2 + ki.2)

def precisions : List Nat := [96, 160, 320]

/-- EXP of FP32 bits (R233, R237). -/
def fpExp (x : Nat) : Nat :=
  match fpDecode fmtFP32 x with
  | .nan w => w
  | .inf s => if s then 0 else 0x7F80_0000
  | .fin s m e =>
    if m = 0 then 0x3F80_0000
    else if s = false ∧ x ≥ 0x42B1_7218 then 0x7F80_0000
    else if s = true ∧ x ≥ 0xC2CF_F1B5 then 0
    else settle (fun r => encodeFin fmtFP32 false r.1 r.2) (fun p => expEnds p s m e) (Config.specialTie 1 x) precisions

/-- LOG of FP32 bits (R233, R237). -/
def fpLog (x : Nat) : Nat :=
  match fpDecode fmtFP32 x with
  | .nan w => w
  | .inf s => if s then defaultNaN else 0x7F80_0000
  | .fin s m e =>
    if m = 0 then 0xFF80_0000
    else if s then defaultNaN
    else if x = 0x3F80_0000 then 0
    else settle (fun r => encodeFin fmtFP32 (decide (x < 0x3F80_0000)) r.1 r.2)
      (fun p => let i := lnEnc p m e; ((i.1.natAbs, -(p : Int)), (i.2.natAbs, -(p : Int)))) (Config.specialTie 2 x)
      precisions

/-- RCP of FP32 bits (R233, R237). -/
def fpRcp (x : Nat) : Nat :=
  match fpDecode fmtFP32 x with
  | .nan w => w
  | .inf s => b2n s * 2 ^ 31
  | .fin s m e =>
    if m = 0 then b2n s * 2 ^ 31 + 0x7F80_0000
    else
      let q := 2 ^ 80 / m
      encodeFin fmtFP32 s (2 * q + b2n (decide (q * m ≠ 2 ^ 80))) (-81 - e)

/-- Integer square root, bit by bit from bit n - 1 down. -/
def isqrtFrom (v : Nat) : Nat → Nat → Nat
  | 0, r => r
  | n + 1, r => let c := r + 2 ^ n; isqrtFrom v n (if c * c ≤ v then c else r)

/-- RSQRT of FP32 bits (R233, R237). -/
def fpRsqrt (x : Nat) : Nat :=
  match fpDecode fmtFP32 x with
  | .nan w => w
  | .inf s => if s then defaultNaN else 0
  | .fin s m e =>
    if m = 0 then (if s then 0xFF80_0000 else 0x7F80_0000)
    else if s then defaultNaN
    else
      let odd := decide (e % 2 ≠ 0)
      let m' := if odd then 2 * m else m
      let e' := if odd then e - 1 else e
      let q := 2 ^ 160 / m'
      let r := isqrtFrom q 81 0
      encodeFin fmtFP32 false (2 * r + b2n (decide (r * r * m' ≠ 2 ^ 160))) (-81 - e' / 2)

/-- The exact exponential of an extended value at or below 0, rounded once to the extended accumulator (R241). -/
def extExp (v : FV) : FV :=
  match v with
  | .nan w => .nan w
  | .inf s => if s then fvZero else .inf false
  | .fin s m e =>
    if m = 0 then .fin false 1 0
    else if s && magLt 11500 0 m e then fvZero
    else
      let rnd := fun (r : Nat × Int) =>
        match fvExt (.fin false r.1 r.2) with
        | .fin _ a b => a * 2 ^ (b + 40000).toNat
        | _ => 0
      let w := settle rnd (fun p => expEnds p s m e) (Config.specialTie 3 (m * 2 ^ 20000 + (e + 20000).toNat)) [160, 400]
      .fin false w (-40000)

end Sys2Proof.Machine
end

