-- ==== Sys2Proof/Machine/Operands.lean ====
section
/-! DEFINITION. Control-word fields (R114 to R126), VEC operand forms (R121, R198 to R203) and format codes (R251, R255). -/

namespace Sys2Proof.Machine

/-! ## Fields of a control word -/

def wSeq (w : Nat) : Nat := nbits w 0 64

/-- Field of engine 1 to 14 (R114). -/
def wField (w eng : Nat) : Nat :=
  if eng = 1 then nbits w 64 64
  else if eng = 2 then nbits w 128 96
  else if eng = 3 then nbits w 224 32
  else if eng = 4 then nbits w 256 32
  else if eng = 5 then nbits w 288 32
  else if eng ≤ 13 then nbits w (320 + 16 * (eng - 6)) 16
  else nbits w 448 32

/-- Lowest reserved bit of a word that is 1 (R114 to R126), with its engine. -/
def reservedBits : List (Nat × Nat × Nat) :=
  [(0, 28, 4), (1, 99, 29), (2, 212, 12), (3, 252, 4), (4, 283, 5), (5, 314, 6),
   (6, 332, 4), (7, 348, 4), (8, 364, 4), (9, 380, 4), (10, 396, 4), (11, 412, 4), (12, 428, 4), (13, 444, 4), (15, 480, 32)]

def badReserved (w : Nat) : Option (Nat × Nat) :=
  reservedBits.findSome? fun r => (lowestBit w r.2.1 r.2.2).map fun b => (r.1, b)

def fOp4 (b : Nat) : Nat := nbits b 14 4
def mSlot (b : Nat) : Nat := nbits b 18 4
def mFmt (b : Nat) : Nat := nbits b 22 4
def mIq (b : Nat) : Nat := nbits b 26 4
def mOq (b : Nat) : Nat := nbits b 30 4
def mAcc (b : Nat) : Nat := nbits b 34 1
def vVop (b : Nat) : Nat := nbits b 14 6
def vA (b : Nat) : Nat := nbits b 20 9
def vB (b : Nat) : Nat := nbits b 29 9
def vC (b : Nat) : Nat := nbits b 38 9
def vD (b : Nat) : Nat := nbits b 47 9
def vMask (b : Nat) : Nat := nbits b 56 3
def vDtype (b : Nat) : Nat := nbits b 59 3
def vSumOp (b : Nat) : Nat := nbits b 62 3
def vSumDst (b : Nat) : Nat := nbits b 65 3
def vLge (b : Nat) : Nat := nbits b 68 16
def sIq (b : Nat) : Nat := nbits b 18 4
def sOq (b : Nat) : Nat := nbits b 22 4
def sSel (b : Nat) : Nat := nbits b 26 2
def rTree (b : Nat) : Bool := nbit b 26
def xUnit (b : Nat) : Nat := nbits b 18 4
def xDesc (b : Nat) : Nat := nbits b 22 10

/-! ## VEC operands -/

/-- What a 9-bit operand names (R121). -/
inductive Opd
  | row (r : Nat)
  | queue (q : Nat)
  | mask (m : Nat)
  | rand (s : Nat)
  | bad
  deriving DecidableEq, Repr

def opdOf (o : Nat) : Opd :=
  if o < 256 then (if o < 192 then .row o else .bad)
  else if o < 272 then .queue (o % 16)
  else if o < 280 then .mask (o % 8)
  else if o < 288 then .rand (o % 8)
  else .bad

def Opd.isData : Opd → Bool
  | .row _ => true
  | .queue _ => true
  | _ => false

def Opd.isMask : Opd → Bool
  | .mask _ => true
  | _ => false

/-- Operand classes of R203. -/
inductive OpdKind
  | unused | data | mask | dataOrMask | rand | code
  deriving DecidableEq, Repr

/-- What a VOP accepts in A, B, C and D (R203); the logic operations are all data or all masks. -/
def vopKinds (vop sumOp : Nat) (maskForm : Bool) : OpdKind × OpdKind × OpdKind × OpdKind :=
  match vop with
  | 0x00 => (if sumOp = 0 then .unused else .dataOrMask, .unused, .unused, .unused)
  | 0x01 => (.dataOrMask, .unused, .unused, .dataOrMask)
  | 0x05 => (.data, .data, .data, .data)
  | 0x08 | 0x09 | 0x10 | 0x11 => (.data, .unused, .unused, .data)
  | 0x0A | 0x0B | 0x0C | 0x0D => (.data, .data, .unused, .mask)
  | 0x0E => (.data, .data, .mask, .data)
  | 0x0F => (.data, .code, .unused, .data)
  | 0x12 | 0x13 | 0x14 => if maskForm then (.mask, .mask, .unused, .mask) else (.data, .data, .unused, .data)
  | 0x17 => (.rand, .unused, .unused, .data)
  | 0x18 => (.data, .code, .rand, .data)
  | _ => (.data, .data, .unused, .data)

/-- Whether an operand of a class fits, with the slot's binding for a random operand (R263). -/
def kindOk (c : Core) (k : OpdKind) (o : Nat) : Bool :=
  match k, opdOf o with
  | .unused, _ => true
  | .code, _ => true
  | .data, x => x.isData
  | .mask, x => x.isMask
  | .dataOrMask, x => x.isData || x.isMask
  | .rand, .rand i => match tabGet none c.rands i with
    | some r => r.valid
    | none => false
  | .rand, _ => false

/-- Element size of a DTYPE in bytes (R198). -/
def dtBytes (dt : Nat) : Nat := if dt = 1 ∨ dt = 2 then 2 else 4

/-- Elements of a row (R198). -/
def dtCount (dt : Nat) : Nat := 4096 / dtBytes dt

def dtFmt (dt : Nat) : FFmt := if dt = 0 then fmtFP32 else if dt = 1 then fmtBF16 else fmtFP16

/-- Element width in bytes of a format code: 0 for the MX codes (R255). -/
def codeBytes (t : Nat) : Nat :=
  if t = 0 ∨ t = 0xB then 4 else if t = 1 ∨ t = 2 then 2 else if t = 3 ∨ t = 4 ∨ t = 0xA then 1 else 0

def isMx (t : Nat) : Bool := decide (5 ≤ t ∧ t ≤ 9)

/-- Element format of a floating-point code. -/
def codeFmt (t : Nat) : FFmt :=
  match t with
  | 0 => fmtFP32 | 1 => fmtBF16 | 2 => fmtFP16 | 3 => fmtE4M3 | 4 => fmtE5M2 | 5 => fmtE4M3 | 6 => fmtE5M2
  | 7 => fmtE2M3 | 8 => fmtE3M2 | _ => fmtE2M1

/-- Elements of an MX record (R255). -/
def mxPerRecord (t : Nat) : Nat := if t = 9 then 1024 else 512

/-- Bytes of the placed result of a conversion (R255). -/
def cvtBytes (dt t : Nat) : Nat :=
  if isMx t then dtCount dt / mxPerRecord t * 576
  else if dtBytes dt < codeBytes t then 4096
  else dtCount dt * codeBytes t

/-- Whether the B operand of CVT or SR_CVT is one R255 allows. -/
def cvtOk (dt b : Nat) : Bool :=
  let t := nbits b 0 4
  if t ≥ 0xC then false
  else if isMx t then decide (dt ≠ 3) && decide (128 * nbits b 4 5 + cvtBytes dt t ≤ 4096)
  else if dtBytes dt < codeBytes t then nbits b 5 4 == 0
  else decide (128 * nbits b 4 5 + cvtBytes dt t ≤ 4096)

/-- The first BAD_OPERAND of a VEC field at issue (R145, R203, R211, R223, R605): operand and cause. Operands are examined
in the order A, B, C, D; then DTYPE; then the summary (assumption 12). Where no one operand is at fault DETAIL[8:0] is 0 for a DTYPE and
the encoding of A, B or D for a summary (DESIGN CHOICE, assumption 128). -/
def vecBadOperand (c : Core) (b : Nat) : Option (Nat × Nat) :=
  let vop := vVop b
  let dt := vDtype b
  let maskForm := (opdOf (vA b)).isMask && decide (0x12 ≤ vop ∧ vop ≤ 0x14)
  let k := vopKinds vop (vSumOp b) maskForm
  let one := fun (kd : OpdKind) (o : Nat) (dst : Bool) =>
    if kd = .unused ∨ kd = .code then none
    else if opdOf o = .bad then some (o, 1)
    else if dst && opdOf o == .mask 0 then some (o, 2)
    else if kindOk c kd o then none
    else some (o, 0)
  let conv := decide (vop = 0x0F ∨ vop = 0x18)
  let maskRes := (decide (0x0A ≤ vop ∧ vop ≤ 0x0D) || (opdOf (vD b)).isMask && decide (vop ≠ 0)) ||
    (decide (vop = 0) && (opdOf (vA b)).isMask)
  (one k.1 (vA b) false).or <|
    (one k.2.1 (vB b) false).or <|
    (if conv && decide (dt < 4) && !cvtOk dt (vB b) then some (vB b, 0) else none).or <|
    (one k.2.2.1 (vC b) false).or <|
    (one k.2.2.2 (vD b) true).or <|
    (if dt ≥ 4 then some (0, 3) else none).or <|
    (if vSumOp b ≥ 5 && maskRes then some (if vop = 0 then vA b else vD b, 4)
     else if conv && vSumOp b ≠ 0 && isMx (nbits (vB b) 0 4) then some (vB b, 4) else none)

/-- DETAIL of BAD_OPERAND for VEC, RED and SCN (R223). -/
def operandDetail (opd eng cause : Nat) : Nat := opd % 512 + eng * 2 ^ 12 + cause * 2 ^ 16

/-! ## Rows and elements -/

/-- Pad a list to n entries. -/
def padTo {α : Type} (n : Nat) (d : α) (l : List α) : List α := l.take n ++ List.replicate (n - l.length) d

def chunk2 : Bytes → List Nat
  | a :: b :: t => (a.toNat + 256 * b.toNat) :: chunk2 t
  | [a] => [a.toNat]
  | [] => []

def chunk4 : Bytes → List Nat
  | a :: b :: c :: d :: t => leNat [a, b, c, d] :: chunk4 t
  | [] => []
  | l => [leNat l]

/-- Elements of the bytes given, by element size. -/
def elems (size : Nat) (bs : Bytes) : List Nat :=
  if size = 4 then chunk4 bs else if size = 2 then chunk2 bs else bs.map (·.toNat)

/-- Bytes of elements. -/
def unElems (size : Nat) (l : List Nat) : Bytes := l.flatMap fun x => natLe size x

/-- A row as 4,096 bytes (R202). -/
def rowBytes (bs : Bytes) : Bytes := padTo 4096 0 bs

/-- Operand-cache row: an unwritten row reads as zeros (R201). -/
def cacheRow (c : Core) (r : Nat) : Bytes := rowBytes (tabGet [] c.cache r)

/-- Bits of a mask register, M0 all ones (R200). -/
def maskBits (c : Core) (m : Nat) : Nat :=
  if m = 0 then 2 ^ 2048 - 1 else (tabGet none c.masks m).getD (2 ^ 2048 - 1)

/-- A number's low n bits, bit 0 first. -/
def bitList : Nat → Nat → List Bool
  | 0, _ => []
  | n + 1, w => (w % 2 == 1) :: bitList n (w / 2)

def bitsNat : List Bool → Nat
  | [] => 0
  | b :: t => b2n b + 2 * bitsNat t

/-- Whether each element of a row is active (R199, R200). -/
def activeList (c : Core) (b : Nat) : List Bool :=
  let dt := vDtype b
  let lge := if vLge b = 0 then 0xFFFF else vLge b
  let m := maskBits c (vMask b)
  (rangeFrom 0 (dtCount dt)).map fun e =>
    if dtBytes dt = 4 then nbit lge (e / 64) && nbit m (2 * e) else nbit lge (e / 128) && nbit m e

/-- The mask register after its active elements take new bits (R200, R207). -/
def maskWrite (old : Nat) (dt : Nat) (act res : List Bool) : Nat :=
  let pairs := act.zip res
  let olds := bitList 2048 old
  let news := if dtBytes dt = 4 then pairs.flatMap fun p => [p, p] else pairs
  bitsNat (List.zipWith (fun o p => if p.1 then p.2 else o) olds news)

end Sys2Proof.Machine
end

