-- ==== Sys2Proof/Machine/Flags.lean ====
section
/-! DEFINITION. Branch conditions (R119) and scalar summaries (R210, R211, R605). -/

namespace Sys2Proof.Machine

/-- COND between s and i (R119). -/
def condHolds (cond : Nat) (s i : Word) : Bool :=
  match cond with
  | 0 => s == i
  | 1 => s != i
  | 2 => s.slt i
  | 3 => !s.slt i
  | 4 => s.ult i
  | 5 => !s.ult i
  | 6 => (s &&& i) != 0
  | _ => (s &&& i) == 0

/-- How a summary reads its elements. -/
inductive SumView
  | fp (f : FFmt)
  | int (bits : Nat)
  | mask
  deriving DecidableEq, Repr

/-- Whether an element is true (R210, R605). -/
def sumTrue (v : SumView) (x : Nat) : Bool :=
  match v with
  | .fp f => decide (x % 2 ^ (f.eb + f.mb) ≠ 0)
  | .int n => decide (x % 2 ^ n ≠ 0)
  | .mask => decide (x ≠ 0)

/-- MIN or MAX of floating-point values as an FP32 pattern (R211). -/
def sumFp (f : FFmt) (max : Bool) : List Nat → Nat
  | [] => if max then 0xFF80_0000 else 0x7F80_0000
  | x :: t =>
    let vs := (x :: t).map (fpDecode f)
    if vs.any (·.isNaN) then defaultNaN
    else fpEncode fmtFP32 (vs.tail.foldl (fun m v => if max then (if fvBelow m v then v else m) else (if fvBelow v m then v else m))
      (fpDecode f x))

/-- MIN or MAX of integers (R211). -/
def sumInt (n : Nat) (max : Bool) : List Nat → Nat
  | [] => if max then 0x8000_0000 else 0x7FFF_FFFF
  | x :: t => ofSigned 32 (t.foldl (fun m y => if max then Max.max m (toSigned n y) else Min.min m (toSigned n y)) (toSigned n x))

/-- S[SUM_DST] of a field (R210): the active elements with their indices, in ascending order. -/
def summary (op : Nat) (v : SumView) (xs : List (Nat × Nat)) : Word :=
  let ts := xs.filter fun e => sumTrue v e.2
  BitVec.ofNat 32 <|
    match op with
    | 1 => b2n (!ts.isEmpty)
    | 2 => b2n (ts.length == xs.length)
    | 3 => ts.length
    | 4 => match ts with
      | e :: _ => e.1
      | [] => 0xFFFF_FFFF
    | op =>
      match v with
      | .fp f => sumFp f (op == 6) (xs.map (·.2))
      | .int n => sumInt n (op == 6) (xs.map (·.2))
      | .mask => 0

end Sys2Proof.Machine
end

