-- ==== Sys2Proof/Machine/Vector.lean ====
section
/-! DEFINITION. The vector engine (R198 to R212, R254 to R258, R261 to R265, R605): one meaning per VOP over one shared step. -/

namespace Sys2Proof.Machine

/-! ## Lane operations -/

/-- A lane operation of R122 on one element at DTYPE. -/
def laneOp (vop dt a b c : Nat) : Nat :=
  let w := 8 * dtBytes dt
  let f := dtFmt dt
  let x := fpDecode f a
  let y := fpDecode f b
  let m := 2 ^ 32
  match vop with
  | 0x02 => if dt = 3 then (a + b) % m else fpEncode f (fvAdd x y)
  | 0x03 => if dt = 3 then (a + m - b) % m else fpEncode f (fvSub x y)
  | 0x04 => if dt = 3 then a * b % m else fpEncode f (fvMul x y)
  | 0x05 => if dt = 3 then (a * b + c) % m else fpEncode f (fvFma x y (fpDecode f c))
  | 0x06 =>
    if dt = 3 then (if toSigned 32 a ≤ toSigned 32 b then a else b)
    else match x, y with
      | .nan n, _ => nanFrom32 f n
      | _, .nan n => nanFrom32 f n
      | _, _ => if fvBelow y x then b else a
  | 0x07 =>
    if dt = 3 then (if toSigned 32 b ≤ toSigned 32 a then a else b)
    else match x, y with
      | .nan n, _ => nanFrom32 f n
      | _, .nan n => nanFrom32 f n
      | _, _ => if fvBelow x y then b else a
  | 0x08 =>
    if dt = 3 then (if toSigned 32 a < 0 then (m - a) % m else a)
    else match x with
      | .nan n => nanFrom32 f n
      | _ => a % 2 ^ (w - 1)
  | 0x09 => if dt = 3 then (m - a) % m else fpEncode f (fvNeg x)
  | 0x12 => Nat.land a b
  | 0x13 => Nat.lor a b
  | 0x14 => Nat.xor a b
  | 0x15 => if b ≥ w then 0 else a * 2 ^ b % 2 ^ w
  | 0x16 => if b ≥ w then 0 else a / 2 ^ b
  | _ => a

/-- A comparison of R205. -/
def laneCmp (vop dt a b : Nat) : Bool :=
  if dt = 3 then
    match vop with
    | 0x0A => decide (toSigned 32 a < toSigned 32 b)
    | 0x0B => decide (toSigned 32 a ≤ toSigned 32 b)
    | 0x0C => a == b
    | _ => a != b
  else
    let x := fpDecode (dtFmt dt) a
    let y := fpDecode (dtFmt dt) b
    match vop with
    | 0x0A => fvLt x y
    | 0x0B => fvLt x y || fvEq x y
    | 0x0C => fvEq x y
    | _ => !fvEq x y

/-! ## Conversion -/

/-- A value rounded to an integer of n bits, saturating; u is the draw of SR_CVT (R257, R261). -/
def toIntSat (n : Nat) (u : Option Nat) : FV → Nat
  | .nan _ => 0
  | .inf s => if s then 2 ^ (n - 1) else 2 ^ (n - 1) - 1
  | .fin s m e =>
    let k := (-e).toNat
    let v := m * 2 ^ e.toNat
    let q := v / 2 ^ k
    let r := v % 2 ^ k
    let nearest := q + b2n (decide (2 * r > 2 ^ k) || (decide (2 * r = 2 ^ k) && q % 2 == 1))
    let lim := if s then 2 ^ (n - 1) else 2 ^ (n - 1) - 1
    let beyond := decide (lim * 2 ^ k < v)
    let g := match u with
      | some u => if r = 0 ∨ beyond then nearest else q + b2n (decide (r * 2 ^ 32 / 2 ^ k + u ≥ 2 ^ 32))
      | none => nearest
    ofSigned n (if s then -((min g lim : Nat) : Int) else ((min g lim : Nat) : Int))

/-- Source element as a value. -/
def srcValue (dt x : Nat) : FV :=
  if dt = 3 then .fin (decide (toSigned 32 x < 0)) (toSigned 32 x).natAbs 0 else fpDecode (dtFmt dt) x

/-- One converted element outside the MX formats (R255 to R258, R261). FP32 to FP32 is MOV, and so is INT32 to INT32; a NaN of a
16-bit format that keeps its format has its quiet bit set (R258). -/
def cvtElem (dt t : Nat) (u : Option Nat) (x : Nat) : Nat :=
  if (dt == 0 && t == 0) || (dt == 3 && t == 0xB) then x
  else if t = 0xA then toIntSat 8 u (srcValue dt x)
  else if t = 0xB then toIntSat 32 u (srcValue dt x)
  else match u with
    | some u => fpEncodeSr (codeFmt t) u (srcValue dt x)
    | none => fpEncode (codeFmt t) (srcValue dt x)

/-- emax of the OCP rule (R254). -/
def mxEmax (t : Nat) : Int := match t with | 5 => 8 | 6 => 15 | 7 => 2 | 8 => 4 | _ => 2

/-- Unbiased exponent of a finite value, none for zero. -/
def fvExpo : FV → Option Int
  | .fin _ m e => if m = 0 then none else some (e + bitLen m - 1)
  | _ => none

/-- An element of a block, saturating at the largest finite value (R254). -/
def mxElem (f : FFmt) (x : Int) (u : Option Nat) (v : FV) : Nat :=
  match v with
  | .fin s m e =>
    let y : FV := .fin s m (e - x)
    if magLt (fmtMax f).1 (fmtMax f).2 m (e - x) then encodeMag f s (fmtMax f).1 (fmtMax f).2
    else
      let r := match u with
        | some u => fpEncodeSr f u y
        | none => fpEncode f y
      if f.top = 2 ∧ nbits r f.mb f.eb = 2 ^ f.eb - 1 then encodeMag f s (fmtMax f).1 (fmtMax f).2
      else if f.top = 1 ∧ r % 2 ^ (f.eb + f.mb) = 2 ^ (f.eb + f.mb) - 1 then encodeMag f s (fmtMax f).1 (fmtMax f).2
      else r
  | _ => 0

/-- Encode one block of 32 values: scale code and elements (R254). -/
def mxBlock (t : Nat) (vs : List (FV × Option Nat)) : Nat × List Nat :=
  let bad := vs.any fun v => match v.1 with | .fin _ _ _ => false | _ => true
  if bad then (0xFF, vs.map fun _ => 0)
  else
    let x : Int := match vs.filterMap (fun v => fvExpo v.1) with
      | [] => -127
      | l :: ls => min (max (ls.foldl max l - mxEmax t) (-127)) 127
    ((x + 127).toNat, vs.map fun v => mxElem (codeFmt t) x v.2 v.1)

/-- Split into blocks of n. -/
def blocksOf {α : Type} (n : Nat) : Nat → List α → List (List α)
  | 0, _ => []
  | k + 1, l => l.take n :: blocksOf n k (l.drop n)

/-- Elements packed at their bit width, low bits first (R173). -/
def packBits (bits : Nat) (l : List Nat) : Nat := l.foldr (fun x acc => x + acc * 2 ^ bits) 0

/-- The bytes of a record's scale field above its last block: R255 writes the record whole and gives them no value, so each is a free
value (assumption 3). -/
def mxRest (t n : Nat) : Bytes := (rangeFrom n (64 - n)).map (Config.mxScaleRest t)

/-- One MX record of 576 bytes (R177, R255). -/
def mxRecord (t : Nat) (vs : List (FV × Option Nat)) : Bytes :=
  let bl := (blocksOf 32 (mxPerRecord t / 32) vs).map (mxBlock t)
  natLe 512 (packBits (fmtBits (codeFmt t)) (bl.flatMap (·.2))) ++ bl.map (fun b => BitVec.ofNat 8 b.1) ++ mxRest t bl.length

/-! ## Operands at run time -/

/-- Queue operands of a field that read data. -/
def vecQueues (b : Nat) : List Nat :=
  let k := vopKinds (vVop b) (vSumOp b) (opdOf (vA b)).isMask
  let one := fun (kd : OpdKind) (o : Nat) =>
    if kd = .data ∨ kd = .dataOrMask then (match opdOf o with | .queue q => [q] | _ => []) else []
  (one k.1 (vA b) ++ one k.2.1 (vB b) ++ one k.2.2.1 (vC b)).foldl insNat []

/-- Take the head beat of each queue once (R202). -/
def takeBeats (c : Core) : List Nat → List (Nat × Bytes) → Pop × List (Nat × Bytes)
  | [], acc => (.beat [] c, acc)
  | q :: t, acc =>
    match popBeat c q with
    | .beat b c => takeBeats c t ((q, b) :: acc)
    | p => (p, acc)

/-- The queue whose head is a baton. -/
def batonHead (c : Core) (qs : List Nat) : Nat :=
  (qs.find? fun q => match (getQ c q).items with | .baton _ :: _ => true | _ => false).getD 0

/-- A data operand's row, or a mask as the first 256 bytes of one. -/
def opdRow (c : Core) (beats : List (Nat × Bytes)) (o : Nat) : Bytes :=
  match opdOf o with
  | .row r => cacheRow c r
  | .queue q => rowBytes ((beats.lookup q).getD [])
  | .mask m => rowBytes (natLe 256 (maskBits c m))
  | _ => rowBytes []

/-- Write a data destination: a queue beat, or a cache row, whose written bit sets (R201, R202). -/
def writeRow (c : Core) (d : Nat) (bs : Bytes) : Option Core :=
  match opdOf d with
  | .row r => some { c with cache := tabSet [] c.cache r bs }
  | .queue q => pushQ c q (.beat bs)
  | _ => some c

/-- The row that inactive elements keep: zeros in a queue beat (R202, R207). -/
def keepRow (c : Core) (d : Nat) : Bytes := match opdOf d with | .row r => cacheRow c r | _ => rowBytes []

/-- Draws of a field from the stream of random slot o, and the counter advanced over every position (R206, R265). -/
def drawRow (c : Core) (o ne : Nat) : List Nat × Core :=
  match opdOf o with
  | .rand i =>
    match tabGet none c.rands i with
    | some r =>
      let x := tabGet randCtrReset c.ctrs r.stream
      let ds := (rangeFrom 0 ne).map fun e => randDraw x.key ((x.counter + e) % 2 ^ 64)
      let x' := { x with counter := (x.counter + ne) % 2 ^ 64, wrapped := x.wrapped || decide (x.counter + ne ≥ 2 ^ 64), moved := true }
      (ds, { c with ctrs := tabSet randCtrReset c.ctrs r.stream x' })
    | none => (List.replicate ne 0, c)
  | _ => (List.replicate ne 0, c)

/-- Elements with their indices where active. -/
def activeElems (act : List Bool) (xs : List Nat) : List (Nat × Nat) :=
  ((rangeFrom 0 xs.length).zip (act.zip xs)).filterMap fun e => if e.2.1 then some (e.1, e.2.2) else none

/-- How a DTYPE is summarised. -/
def dtView (dt : Nat) : SumView := if dt = 3 then .int 32 else .fp (dtFmt dt)

/-- Put a summary in S[SUM_DST] when SUM_OP asks for one (R135, R210). -/
def putSum (c : Core) (b : Nat) (v : SumView) (xs : List (Nat × Nat)) : Core :=
  if vSumOp b = 0 then c
  else { c with seq := { c.seq with sums := tabSet 0 c.seq.sums (vSumDst b) (summary (vSumOp b) v xs) } }

/-- A data result: inactive elements keep their bits, or are zero in a beat. -/
def finishData (c : Core) (b : Nat) (act : List Bool) (res : List Nat) : EngRes :=
  let size := dtBytes (vDtype b)
  let old := elems size (keepRow c (vD b))
  let row := List.zipWith (fun o (p : Bool × Nat) => if p.1 then p.2 else o) old (act.zip res)
  match writeRow c (vD b) (unElems size row) with
  | some c => .ok (putSum c b (dtView (vDtype b)) (activeElems act res))
  | none => .wait

/-- A mask result in the active elements (R207). -/
def finishMask (c : Core) (b : Nat) (act res : List Bool) : EngRes :=
  match opdOf (vD b) with
  | .mask m =>
    let c' := { c with masks := tabSet none c.masks m (some (maskWrite (maskBits c m) (vDtype b) act res)) }
    .ok (putSum c' b .mask (activeElems act (res.map b2n)))
  | _ => .ok c

def dataElems (c : Core) (beats : List (Nat × Bytes)) (b o : Nat) : List Nat := elems (dtBytes (vDtype b)) (opdRow c beats o)

/-- Active bits of a mask as the elements of a DTYPE (R200). -/
def maskElems (m dt : Nat) : List Bool :=
  (rangeFrom 0 (dtCount dt)).map fun e => if dtBytes dt = 4 then nbit m (2 * e) else nbit m e

/-- NOP (R203): with a summary, over A. -/
def opNop (c : Core) (beats : List (Nat × Bytes)) (b : Nat) : EngRes :=
  let act := activeList c b
  if vSumOp b = 0 then .ok c
  else match opdOf (vA b) with
    | .mask m => .ok (putSum c b .mask (activeElems act ((maskElems (maskBits c m) (vDtype b)).map b2n)))
    | _ => .ok (putSum c b (dtView (vDtype b)) (activeElems act (dataElems c beats b (vA b))))

/-- Low 2,048 bits of a row. -/
def rowMask (bs : Bytes) : Nat := leNat (bs.take 256)

/-- MOV (R122, R203, R207): data to data and mask to mask under the active set; between a mask and a data row all 2,048 bits
are copied. The summary of a MOV from a mask to data reads D as data. -/
def opMov (c : Core) (beats : List (Nat × Bytes)) (b : Nat) : EngRes :=
  let act := activeList c b
  let a := opdOf (vA b)
  let d := opdOf (vD b)
  match d with
  | .mask m =>
    if a.isMask then
      match a with
      | .mask n => finishMask c b act (maskElems (maskBits c n) (vDtype b))
      | _ => .ok c
    else
    let v := rowMask (opdRow c beats (vA b))
    let c' := { c with masks := tabSet none c.masks m (some v) }
    .ok (putSum c' b .mask (activeElems act ((maskElems v (vDtype b)).map b2n)))
  | _ =>
    if a.isMask then
      let row := (opdRow c beats (vA b)).take 256 ++ (keepRow c (vD b)).drop 256
      match writeRow c (vD b) row with
      | some c => .ok (putSum c b (dtView (vDtype b)) (activeElems act (elems (dtBytes (vDtype b)) row)))
      | none => .wait
    else finishData c b act (dataElems c beats b (vA b))

/-- The arithmetic and logic VOPs on data (R204, R205). -/
def opLane (vop : Nat) (c : Core) (beats : List (Nat × Bytes)) (b : Nat) : EngRes :=
  let xs := dataElems c beats b (vA b)
  let k := vopKinds vop 0 false
  let ys := if k.2.1 = .data then dataElems c beats b (vB b) else xs
  let zs := if k.2.2.1 = .data then dataElems c beats b (vC b) else xs
  finishData c b (activeList c b)
    (List.zipWith (fun x (p : Nat × Nat) => laneOp vop (vDtype b) x p.1 p.2) xs (ys.zip zs))

/-- AND, OR and XOR: on data, or on masks where A is one (R203). -/
def opLogic (vop : Nat) (c : Core) (beats : List (Nat × Bytes)) (b : Nat) : EngRes :=
  match opdOf (vA b), opdOf (vB b) with
  | .mask m, .mask n =>
    let x := maskBits c m
    let y := maskBits c n
    let v := if vop = 0x12 then Nat.land x y else if vop = 0x13 then Nat.lor x y else Nat.xor x y
    finishMask c b (activeList c b) (maskElems v (vDtype b))
  | _, _ => opLane vop c beats b

/-- The comparisons (R205). -/
def opCmp (vop : Nat) (c : Core) (beats : List (Nat × Bytes)) (b : Nat) : EngRes :=
  finishMask c b (activeList c b)
    (List.zipWith (laneCmp vop (vDtype b)) (dataElems c beats b (vA b)) (dataElems c beats b (vB b)))

/-- SEL (R122). -/
def opSel (c : Core) (beats : List (Nat × Bytes)) (b : Nat) : EngRes :=
  let m := match opdOf (vC b) with | .mask m => maskBits c m | _ => 0
  let ab := (dataElems c beats b (vA b)).zip (dataElems c beats b (vB b))
  finishData c b (activeList c b)
    (List.zipWith (fun (s : Bool) (p : Nat × Nat) => if s then p.1 else p.2) (maskElems m (vDtype b)) ab)

/-- CVT and SR_CVT (R254 to R258, R261, R605). -/
def opCvt (sr : Bool) (c : Core) (beats : List (Nat × Bytes)) (b : Nat) : EngRes :=
  let dt := vDtype b
  let t := nbits (vB b) 0 4
  let act := activeList c b
  let xs := dataElems c beats b (vA b)
  let d := if sr then drawRow c (vC b) (dtCount dt) else ([], c)
  let us : List (Option Nat) := if sr then d.1.map some else xs.map fun _ => none
  let c := d.2
  let src := act.zip (xs.zip us)
  if isMx t then
    let vs := src.map fun p => (if p.1 then srcValue dt p.2.1 else fvZero, p.2.2)
    let bytes := (blocksOf (mxPerRecord t) (dtCount dt / mxPerRecord t) vs).flatMap (mxRecord t)
    match writeRow c (vD b) (spliceLine (keepRow c (vD b)) (128 * nbits (vB b) 4 5) bytes) with
    | some c => .ok c
    | none => .wait
  else
    let size := codeBytes t
    let wide := decide (dtBytes dt < size)
    let lo := if wide then 1024 * nbits (vB b) 4 1 else 0
    let n := if wide then 1024 else dtCount dt
    let part := (src.drop lo).take n
    let res := part.map fun p => cvtElem dt t p.2.2 p.2.1
    let view : SumView := if t = 0xA then .int 8 else if t = 0xB then .int 32 else .fp (codeFmt t)
    let sums := ((activeElems (part.map (·.1)) res).map fun e => (e.1 + lo, e.2))
    let row :=
      if size = dtBytes dt then
        unElems size (List.zipWith (fun o (p : Bool × Nat) => if p.1 then p.2 else o) (elems size (keepRow c (vD b)))
          ((part.map (·.1)).zip res))
      else
        let bytes := unElems size (List.zipWith (fun (p : Bool) x => if p then x else 0) (part.map (·.1)) res)
        spliceLine (keepRow c (vD b)) (if wide then 0 else 128 * nbits (vB b) 4 5) bytes
    match writeRow c (vD b) row with
    | some c => .ok (putSum c b view sums)
    | none => .wait

/-- COMPRESS (R209): the packed elements count as active for the summary. -/
def opCompress (c : Core) (beats : List (Nat × Bytes)) (b : Nat) : EngRes :=
  let size := dtBytes (vDtype b)
  let packed := (activeElems (activeList c b) (dataElems c beats b (vA b))).map (·.2)
  match writeRow c (vD b) (unElems size (padTo (dtCount (vDtype b)) 0 packed)) with
  | some c => .ok (putSum c b (dtView (vDtype b)) ((rangeFrom 0 packed.length).zip packed))
  | none => .wait

/-- Dense elements placed in the active positions (R209). -/
def expandList : List Bool → List Nat → List Nat
  | [], _ => []
  | true :: t, x :: xs => x :: expandList t xs
  | true :: t, [] => 0 :: expandList t []
  | false :: t, xs => 0 :: expandList t xs

/-- EXPAND (R209). -/
def opExpand (c : Core) (beats : List (Nat × Bytes)) (b : Nat) : EngRes :=
  let act := activeList c b
  finishData c b act (expandList act (dataElems c beats b (vA b)))

/-- RAND (R206, R265). -/
def opRand (c : Core) (_ : List (Nat × Bytes)) (b : Nat) : EngRes :=
  let r := drawRow c (vA b) (dtCount (vDtype b))
  finishData r.2 b (activeList c b) (if dtBytes (vDtype b) = 4 then r.1 else r.1.map (· / 65536))

/-! ## Code and residue errors (R208) -/

/-- Whether a field is a conversion, plain or stochastic. -/
def isCvt (b : Nat) : Bool := vVop b == 0x0F || vVop b == 0x18

/-- Whether a conversion widens: its results fill the whole destination from one half of the source (R255). -/
def widens (b : Nat) : Bool :=
  isCvt b && !isMx (nbits (vB b) 0 4) && decide (dtBytes (vDtype b) < codeBytes (nbits (vB b) 0 4))

/-- The active elements that a field works on: none for a NOP without a summary, those of the selected half for a widening
conversion (R203, R255). -/
def activeUsed (c : Core) (b : Nat) : List Bool :=
  let act := activeList c b
  if vVop b = 0x00 ∧ vSumOp b = 0 then act.map fun _ => false
  else if widens b then
    let lo := 1024 * nbits (vB b) 4 1
    (rangeFrom 0 act.length).zip act |>.map fun e => e.2 && decide (lo ≤ e.1 ∧ e.1 < lo + 1024)
  else act

/-- Elements of operand A that a field uses: those of its active elements, and for EXPAND as many from the first on (R208,
R209). -/
def usedOfA (vop : Nat) (act : List Bool) : List Bool :=
  if vop = 0x11 then
    let n := (act.filter fun b => b).length
    (rangeFrom 0 act.length).map fun e => decide (e < n)
  else act

/-- Whether word w of a row holds an element that a field uses. A MOV to a mask copies words 0 to 31 whole, without regard to MASK and
LGE (R203), and uses them all: R208 speaks of active elements alone (DEDUCED, assumption 122). -/
def wordUsed (dt : Nat) (asMask : Bool) (use : List Bool) (w : Nat) : Bool :=
  if asMask then decide (w < 32)
  else ((use.drop (w * 8 / dtBytes dt)).take (8 / dtBytes dt)).any fun b => b

/-- The first entry of each row; operands that name one row use the same elements of it. -/
def eachOnce : List (Nat × Bool × List Bool) → List (Nat × Bool × List Bool)
  | [] => []
  | r :: t => r :: (eachOnce t).filter fun x => x.1 != r.1

/-- The cache rows that a field reads, each once, with the elements it uses of it; a row whose written bit is clear reads as
zeros and gives no error (R201). -/
def rowsRead (c : Core) (b : Nat) : List (Nat × Bool × List Bool) :=
  let act := activeUsed c b
  let k := vopKinds (vVop b) (vSumOp b) (opdOf (vA b)).isMask
  let one := fun (kd : OpdKind) (o : Nat) (use : List Bool) =>
    match opdOf o with
    | .row r =>
      if (kd = .data ∨ kd = .dataOrMask) ∧ tabGet [] c.cache r ≠ [] then
        [(r, decide (vVop b = 0x01) && (opdOf (vD b)).isMask, use)] else []
    | _ => []
  eachOnce (one k.1 (vA b) (usedOfA (vVop b) act) ++ one k.2.1 (vB b) act ++ one k.2.2.1 (vC b) act)

/-- What the checks of R208 find for a VEC field: the halt, single-bit corrections, suppressed errors. Rows are examined in
the order A, B, C, then lane groups (DEDUCED, assumption 77). -/
def vecCheck (c : Core) (u b : Nat) : Option (Nat × Nat) × Nat × Nat :=
  let act := activeUsed c b
  let dt := vDtype b
  let found := (rowsRead c b).flatMap fun r =>
    (harmIn c.harm 2 (harmKey 1 r.1 0) (harmKey 1 (r.1 + 1) 0)).map fun k =>
      let w := k - harmKey 1 r.1 0
      (wordUsed dt r.2.1 r.2.2 w, 0x18, storeDetail (if isSE u then 3 else 1) r.1 w)
  let fixes := (rowsRead c b).map fun r => (harmIn c.harm 1 (harmKey 1 r.1 0) (harmKey 1 (r.1 + 1) 0)).length
  let groups := (harmIn c.harm 2 (harmKey 5 0 0) (harmKey 5 0 16)).map fun k =>
    let g := k - harmKey 5 0 0
    (((act.drop (g * (dtCount dt / 16))).take (dtCount dt / 16)).any (fun b => b), 0x19, 2 + g * 2 ^ 8 + vVop b * 2 ^ 16)
  let all := found ++ groups
  ((all.find? fun e => e.1).map (·.2), fixes.sum, (all.filter fun e => !e.1).length)

/-- Bytes that a placed conversion writes (R177, R255, R256). -/
def placedBytes (b : Nat) : Nat :=
  let t := nbits (vB b) 0 4
  let n := dtCount (vDtype b)
  if isMx t then 576 * (n / mxPerRecord t) else n * codeBytes t

/-- Whether a field writes word w of its destination row whole: the first write of a row, a COMPRESS and a widening conversion
write every word, a MOV from a mask the first 32, a placed conversion its place, any other field the words whose elements are
all active (R201, R203, R207, R209, R256). -/
def writesWord (c : Core) (b w : Nat) : Bool :=
  let size := dtBytes (vDtype b)
  let row := match opdOf (vD b) with | .row r => tabGet [] c.cache r | _ => []
  let t := nbits (vB b) 0 4
  if row = [] ∨ vVop b = 0x10 ∨ widens b then true
  else if vVop b = 0x01 ∧ (opdOf (vA b)).isMask then decide (w < 32)
  else if isCvt b && (isMx t || codeBytes t != size) then
    decide (128 * nbits (vB b) 4 5 ≤ 8 * w ∧ 8 * w + 8 ≤ 128 * nbits (vB b) 4 5 + placedBytes b)
  else (((activeList c b).drop (w * 8 / size)).take (8 / size)).all fun x => x

/-- Words of the destination row that a field writes whole hold no error any more; a word written in part stays as it is
(R208). The first state is the one the field found, the second the one it left. -/
def mendRow (c0 c : Core) (b : Nat) : Core :=
  match opdOf (vD b) with
  | .row r =>
    if (vopKinds (vVop b) (vSumOp b) (opdOf (vA b)).isMask).2.2.2 = .unused then c else
    { c with harm := c.harm.filter fun e => !(decide (harmKey 1 r 0 ≤ e.1 ∧ e.1 < harmKey 1 (r + 1) 0) && writesWord c0 b (e.1 - harmKey 1 r 0)) }
  | _ => c

/-- A VEC operation under the checks of R208; what it corrects and suppresses is counted (R224, R364). -/
def checkedVec (u : Nat) (op : Core → List (Nat × Bytes) → Nat → EngRes) (c : Core) (beats : List (Nat × Bytes)) (b : Nat) : EngRes :=
  match vecCheck c u b with
  | (some (r, d), _, _) => .halt r d
  | (none, fixes, sup) =>
    match op { c with checks := { c.checks with vec := satAdd 8 c.checks.vec fixes, sup := satAdd 8 c.checks.sup sup } } beats b with
    | .ok c' => .ok (mendRow c c' b)
    | r => r

/-! ## The step of the engine -/

/-- Cycles a field holds the engine beside its waits (R213, R225, R366). -/
def vecCycles (vop : Nat) : Nat := if vop = 0x17 then 2 else if vop = 0x10 ∨ vop = 0x11 then 4 else 1

/-- Run the head VEC field when its VOP is the one given (R127, R202, R212). The cycles for which it waited are a free value,
since the model has no cycles (R213, R225; DESIGN CHOICE, assumption 114). -/
def vecStep (s : State) (u vop : Nat) (op : Core → List (Nat × Bytes) → Nat → EngRes) : State :=
  let before := (getFq (getCore s u) 2).length
  let s' := runField s u 2 (fun b => vVop b == vop) fun c b =>
    match takeBeats c (vecQueues b) [] with
    | (.beat _ c, beats) => checkedVec u op c beats b
    | (.wait, _) => .wait
    | (.order, _) => .halt 0x0B (batonHead c (vecQueues b))
  let s' :=
    if (getFq (getCore s' u) 2).length < before ∧ (getCore s' u).seq.st = .running then
      let t := drawFree s'
      if isSE u then fbump t.2 fSE_LANE_CYCLES_COUNT (u - 512) 0 (vecCycles vop + t.1)
      else fbump t.2 fCORE_VEC_CYCLES_COUNT u 0 (vecCycles vop + t.1)
    else s'
  settleNops s' u

def execVecNop (u : Nat) (s : State) : Host.Outcome State Fault Refusal := .next (vecStep s u 0x00 opNop)
def execMov (u : Nat) (s : State) : Host.Outcome State Fault Refusal := .next (vecStep s u 0x01 opMov)
def execAdd (u : Nat) (s : State) : Host.Outcome State Fault Refusal := .next (vecStep s u 0x02 (opLane 0x02))
def execSub (u : Nat) (s : State) : Host.Outcome State Fault Refusal := .next (vecStep s u 0x03 (opLane 0x03))
def execMul (u : Nat) (s : State) : Host.Outcome State Fault Refusal := .next (vecStep s u 0x04 (opLane 0x04))
def execFma (u : Nat) (s : State) : Host.Outcome State Fault Refusal := .next (vecStep s u 0x05 (opLane 0x05))
def execVecMin (u : Nat) (s : State) : Host.Outcome State Fault Refusal := .next (vecStep s u 0x06 (opLane 0x06))
def execVecMax (u : Nat) (s : State) : Host.Outcome State Fault Refusal := .next (vecStep s u 0x07 (opLane 0x07))
def execAbs (u : Nat) (s : State) : Host.Outcome State Fault Refusal := .next (vecStep s u 0x08 (opLane 0x08))
def execNeg (u : Nat) (s : State) : Host.Outcome State Fault Refusal := .next (vecStep s u 0x09 (opLane 0x09))
def execCmpLt (u : Nat) (s : State) : Host.Outcome State Fault Refusal := .next (vecStep s u 0x0A (opCmp 0x0A))
def execCmpLe (u : Nat) (s : State) : Host.Outcome State Fault Refusal := .next (vecStep s u 0x0B (opCmp 0x0B))
def execCmpEq (u : Nat) (s : State) : Host.Outcome State Fault Refusal := .next (vecStep s u 0x0C (opCmp 0x0C))
def execCmpNe (u : Nat) (s : State) : Host.Outcome State Fault Refusal := .next (vecStep s u 0x0D (opCmp 0x0D))
def execSel (u : Nat) (s : State) : Host.Outcome State Fault Refusal := .next (vecStep s u 0x0E opSel)
def execCvt (u : Nat) (s : State) : Host.Outcome State Fault Refusal := .next (vecStep s u 0x0F (opCvt false))
def execCompress (u : Nat) (s : State) : Host.Outcome State Fault Refusal := .next (vecStep s u 0x10 opCompress)
def execExpand (u : Nat) (s : State) : Host.Outcome State Fault Refusal := .next (vecStep s u 0x11 opExpand)
def execAnd (u : Nat) (s : State) : Host.Outcome State Fault Refusal := .next (vecStep s u 0x12 (opLogic 0x12))
def execOr (u : Nat) (s : State) : Host.Outcome State Fault Refusal := .next (vecStep s u 0x13 (opLogic 0x13))
def execXor (u : Nat) (s : State) : Host.Outcome State Fault Refusal := .next (vecStep s u 0x14 (opLogic 0x14))
def execShl (u : Nat) (s : State) : Host.Outcome State Fault Refusal := .next (vecStep s u 0x15 (opLane 0x15))
def execShr (u : Nat) (s : State) : Host.Outcome State Fault Refusal := .next (vecStep s u 0x16 (opLane 0x16))
def execRand (u : Nat) (s : State) : Host.Outcome State Fault Refusal := .next (vecStep s u 0x17 opRand)
def execSrCvt (u : Nat) (s : State) : Host.Outcome State Fault Refusal := .next (vecStep s u 0x18 (opCvt true))

end Sys2Proof.Machine
end

