-- ==== Sys2Proof/Machine/Statistics.lean ====
section
/-! DEFINITION. The special-function unit (R226 to R229), the reduction unit and TREE path (R214 to R217, R238 to R244) and
the scan unit (R219, R220). -/

namespace Sys2Proof.Machine

/-- Run a field of an engine and, when it retired, count on a register of the core. -/
def countedField (s : State) (u eng : Nat) (mine : Nat → Bool) (op : Core → Nat → EngRes) (count : State → State) : State :=
  let before := (getFq (getCore s u) eng).length
  let s' := runField s u eng mine op
  let s' := if (getFq (getCore s' u) eng).length < before ∧ (getCore s' u).seq.st = .running then count s' else s'
  settleNops s' u

/-! ## Special functions -/

/-- One SFU field (R226, R227): quarter SEL of the head beat into the assembly row; the removing field puts the row. -/
def sfuField (fn : Nat → Nat) (c : Core) (b : Nat) : EngRes :=
  let q := sSel b
  match (getQ c (sIq b)).items with
  | [] => .wait
  | .baton _ :: _ => .halt 0x0B (sIq b)
  | .beat bs :: rest =>
    let quarter := ((padTo 1024 0 (chunk4 bs)).drop (256 * q)).take 256
    let old := padTo 1024 0 c.asm
    let asm := old.take (256 * q) ++ quarter.map fn ++ old.drop (256 * (q + 1))
    if q = 3 ∨ bs.length ≤ 1024 * (q + 1) then
      let c := setQ c (sIq b) { getQ c (sIq b) with items := rest }
      match pushQ c (sOq b) (.beat (unElems 4 (asm.take (256 * (q + 1))))) with
      | some c => .ok { c with asm := [], asmOpen := false }
      | none => .wait
    else .ok { c with asm := asm, asmOpen := true }

/-- An error of the function tables by OP and SEL: 2 a ROM parity error, 3 a residue check that fails (R229). -/
def sfuHarm (c : Core) (b : Nat) : Nat := tabGet 0 c.harm (harmKey 6 (fOp4 b) (sSel b))

/-- An SFU field under the checks of R229. -/
def checkedSfu (fn : Nat → Nat) (c : Core) (b : Nat) : EngRes :=
  match sfuField fn c b with
  | .ok c' => if 2 ≤ sfuHarm c b then .halt 0x19 (3 + fOp4 b * 2 ^ 8 + sSel b * 2 ^ 12) else .ok c'
  | r => r

/-- Count a ROM parity error where the head field has halted the unit with ENGINE_CHECK (R229, R249). -/
def countRom (before s : State) (u : Nat) : State :=
  match getFq (getCore before u) 3 with
  | f :: _ =>
    if (getCore before u).seq.st = .running ∧ (getCore s u).seq.st = .halted ∧ nbits (getCore s u).seq.haltRec 16 8 = 0x19 ∧
        sfuHarm (getCore before u) f.bits = 2 then
      updCore s u fun c => { c with checks := { c.checks with rom := satAdd 8 c.checks.rom 1 } }
    else s
  | [] => s

def sfuStep (s : State) (u op : Nat) (fn : Nat → Nat) : State :=
  countRom s (countedField s u 3 (fun b => fOp4 b == op) (checkedSfu fn) fun s =>
    if isSE u then s else fbump s fCORE_SFU_COUNT_COUNT u 0 1) u

def execExp (u : Nat) (s : State) : Host.Outcome State Fault Refusal := .next (sfuStep s u 1 fpExp)
def execLog (u : Nat) (s : State) : Host.Outcome State Fault Refusal := .next (sfuStep s u 2 fpLog)
def execRcp (u : Nat) (s : State) : Host.Outcome State Fault Refusal := .next (sfuStep s u 3 fpRcp)
def execRsqrt (u : Nat) (s : State) : Host.Outcome State Fault Refusal := .next (sfuStep s u 4 fpRsqrt)

/-! ## Row statistics -/

/-- An extended value as the FP32 beat it is put as (R239): an exact zero is +0. -/
def extBeat (v : FV) : Nat :=
  match v with
  | .fin _ 0 _ => 0
  | v => fpEncode fmtFP32 v

def extAdd (a b : FV) : FV := fvExt (fvAdd a b)

/-- Maximum with -0 below +0; any NaN gives 0x7FC0_0000 (R240). -/
def maxNode (a b : FV) : FV :=
  if a.isNaN || b.isNaN then .nan defaultNaN else if fvBelow a b then b else a

/-- SUMEXP's combination of two nodes (R241). -/
def sumExpNode (a b : FV × FV) : FV × FV :=
  let m := maxNode a.1 b.1
  match m with
  | .inf true => (m, fvZero)
  | m =>
    let e := fun (x : FV) => extExp (fvExt (fvSub x m))
    (m, fvExt (fvAdd (fvExt (fvMul a.2 (e a.1))) (fvExt (fvMul b.2 (e b.1)))))

/-- First finite element (R240). -/
def firstFinite : List FV → FV
  | .fin s m e :: _ => .fin s m e
  | _ :: t => firstFinite t
  | [] => fvZero

/-- Statistics of a row by its OP, in beat order (R215, R238 to R244). A sum of squares of 2^-150 or less becomes +0 as R239 has it,
although R244 gives +0 to a row of equal elements alone (DEDUCED, assumption 125). -/
def rowStats (op : Nat) (xs : List Nat) : List Nat :=
  let vs := xs.map (fpDecode fmtFP32)
  match op with
  | 2 => match xs with
    | [x] => [x]
    | _ => [fpEncode fmtFP32 (pairwise add32 fvZero vs)]
  | 3 => [fpEncode fmtFP32 (vs.foldl maxNode (.inf true))]
  | 4 =>
    let r := pairwise sumExpNode (.inf true, fvZero) (vs.map fun v => (v, .fin false 1 0))
    match r.1 with
    | .nan _ => [defaultNaN, defaultNaN]
    | .inf false => [0x7F80_0000, defaultNaN]
    | .inf true => [0xFF80_0000, 0]
    | m => [fpEncode fmtFP32 m, extBeat r.2]
  | 5 =>
    let c := firstFinite vs
    let ds := vs.map fun v => fvExt (fvSub v c)
    let s2 := pairwise extAdd fvZero (ds.map fun d => fvExt (fvMul d d))
    [fpEncode fmtFP32 c, extBeat (pairwise extAdd fvZero ds), extBeat s2]
  | 6 => [extBeat (pairwise extAdd fvZero (vs.map fun v => fvExt (fvMul v v)))]
  | _ => [0]

/-- ROW_START (R214, R217); it names no queue, and its DETAIL names queue 0 (DESIGN CHOICE, assumption 128). -/
def redStart (c : Core) (b : Nat) : EngRes :=
  match c.row with
  | some _ => .halt 0x03 (operandDetail 0 4 5)
  | none => .ok { c with row := some ⟨0, rTree b, []⟩ }

/-- A data field: one beat's elements join the row (R214, R217). -/
def redData (c : Core) (b : Nat) : EngRes :=
  match c.row with
  | none => .halt 0x03 (operandDetail (sIq b) 4 5)
  | some r =>
    if r.op ≠ 0 ∧ (r.op ≠ fOp4 b ∨ r.tree ≠ rTree b) then .halt 0x03 (operandDetail (sIq b) 4 6)
    else
      match popBeat c (sIq b) with
      | .wait => .wait
      | .order => .halt 0x0B (sIq b)
      | .beat bs c => .ok { c with row := some ⟨fOp4 b, rTree b, r.elems ++ chunk4 bs⟩ }

/-- ROW_END (R215, R217, R242): one 4,096-byte beat per statistic. -/
def redEnd (c : Core) (b : Nat) : EngRes :=
  match c.row with
  | none => .halt 0x03 (operandDetail (sOq b) 4 5)
  | some r =>
    if r.op ≠ 0 ∧ r.tree ≠ rTree b then .halt 0x03 (operandDetail (sOq b) 4 6)
    else
      match pushAll { c with row := none } (sOq b)
          ((rowStats r.op r.elems).map fun v => .beat (unElems 4 (List.replicate 1024 v))) with
      | some c => .ok c
      | none => .wait

def redStep (s : State) (u op : Nat) (f : Core → Nat → EngRes) : State :=
  countedField s u 4 (fun b => fOp4 b == op) f (fun s => s)

def execRowStart (u : Nat) (s : State) : Host.Outcome State Fault Refusal := .next (redStep s u 1 redStart)
def execRedSum (u : Nat) (s : State) : Host.Outcome State Fault Refusal := .next (redStep s u 2 redData)
def execRedMax (u : Nat) (s : State) : Host.Outcome State Fault Refusal := .next (redStep s u 3 redData)
def execSumExp (u : Nat) (s : State) : Host.Outcome State Fault Refusal := .next (redStep s u 4 redData)
def execShiftedSq (u : Nat) (s : State) : Host.Outcome State Fault Refusal := .next (redStep s u 5 redData)
def execNormTap (u : Nat) (s : State) : Host.Outcome State Fault Refusal := .next (redStep s u 6 redData)
def execRowEnd (u : Nat) (s : State) : Host.Outcome State Fault Refusal := .next (redStep s u 7 redEnd)

/-! ## The scan unit -/

/-- One channel step: a times h plus b, rounded once; NaN in the order a, h, b (R219). -/
def scanElem (a h b : Nat) : Nat :=
  fpEncode fmtFP32 (fvFma (fpDecode fmtFP32 a) (fpDecode fmtFP32 h) (fpDecode fmtFP32 b))

/-- Take a beat of exactly 4,096 bytes (R220). -/
def scanBeat (c : Core) (q : Nat) : EngRes × Bytes :=
  match popBeat c q with
  | .wait => (.wait, [])
  | .order => (.halt 0x0B q, [])
  | .beat bs c => if bs.length = 4096 then (.ok c, bs) else (.halt 0x03 (operandDetail q 5 7), [])

/-- STEP (R219). -/
def scanOne (c : Core) (b : Nat) : EngRes :=
  match scanBeat c (sIq b) with
  | (.ok c, as) =>
    match scanBeat c ((sIq b + 1) % 16) with
    | (.ok c, bs) =>
      let h := List.zipWith (fun (p : Nat × Nat) y => scanElem p.1 p.2 y) ((chunk4 as).zip (padTo 1024 0 c.h)) (chunk4 bs)
      match pushQ { c with h := h } (sOq b) (.beat (unElems 4 h)) with
      | some c => .ok c
      | none => .wait
    | (r, _) => r
  | (r, _) => r

/-- LOAD_H (R220). -/
def loadH (c : Core) (b : Nat) : EngRes :=
  match scanBeat c (sIq b) with
  | (.ok c, as) => .ok { c with h := chunk4 as }
  | (r, _) => r

/-- STORE_H (R220). -/
def storeH (c : Core) (b : Nat) : EngRes :=
  match pushQ c (sOq b) (.beat (unElems 4 (padTo 1024 0 c.h))) with
  | some c => .ok c
  | none => .wait

def scanCount (u k : Nat) (s : State) : State := fbump s fCORE_SCN_STEPS_COUNT u 0 k

def execScanStep (u : Nat) (s : State) : Host.Outcome State Fault Refusal :=
  .next (countedField s u 5 (fun b => fOp4 b == 1) scanOne (scanCount u 1))
def execLoadH (u : Nat) (s : State) : Host.Outcome State Fault Refusal :=
  .next (countedField s u 5 (fun b => fOp4 b == 2) loadH (fun s => s))
def execStoreH (u : Nat) (s : State) : Host.Outcome State Fault Refusal :=
  .next (countedField s u 5 (fun b => fOp4 b == 3) storeH (fun s => s))

/-- Steps of a CHUNK that its queues allow now: TAKE before the first, PUT after the last (R138, R139, R220). -/
def chunkSteps : Nat → Core → Nat → Nat → EngRes × Nat
  | 0, c, _, k => (.ok c, k)
  | n + 1, c, b, k =>
    match scanOne c b with
    | .ok c => chunkSteps n c b (k + 1)
    | .wait => (.ok c, k)
    | .halt r d => (.halt r d, k)

/-- CHUNK (R220): the queues are eight deep, so its 64 steps span several commands (assumption 13). -/
def chunkStep (s : State) (u : Nat) : State :=
  let c := getCore s u
  match getFq c 5 with
  | [] => s
  | f :: rest =>
    if c.seq.st ≠ .running ∨ fOp4 f.bits ≠ 4 then s
    else
      let stop := fun (reason detail : Nat) => haltUnit s u reason 5 f.pc detail
      match (if c.chunkDone = 0 then takeBaton c f.bits else .ok c) with
      | .wait => s
      | .halt r d => stop r d
      | .ok c =>
        let r := chunkSteps (64 - c.chunkDone) c f.bits 0
        match r.1 with
        | .wait => s
        | .halt reason d => haltUnit (scanCount u r.2 s) u reason 5 f.pc d
        | .ok c =>
          let all := c.chunkDone + r.2
          if r.2 = 0 ∧ all < 64 then s
          else
            let s := scanCount u r.2 s
            if all < 64 then setCore s u { c with chunkDone := all }
            else match putBaton c f.bits with
              | .ok c => setCore s u (setFq { c with chunkDone := 0 } 5 rest)
              | _ => setCore s u { c with chunkDone := 64 }

def execChunk (u : Nat) (s : State) : Host.Outcome State Fault Refusal := .next (settleNops (chunkStep s u) u)

end Sys2Proof.Machine
end

