-- ==== Sys2Proof/Machine/Matrix.lean ====
section
/-! DEFINITION. The matrix array (R171 to R193, R197). -/

namespace Sys2Proof.Machine

/-! ## Formats of tiles and records (R173, R177) -/

/-- Inputs per tile, which is the elements per input record. -/
def mtxK (t : Nat) : Nat := if t = 1 ∨ t = 2 then 256 else if t = 9 then 1024 else 512

/-- Bits per element. -/
def mtxBits (t : Nat) : Nat :=
  if t = 1 ∨ t = 2 then 16 else if t = 7 ∨ t = 8 then 6 else if t = 9 then 4 else 8

/-- Element sections of a slot. -/
def mtxSections (t : Nat) : Nat := if t = 7 ∨ t = 8 then 6 else 8

/-- Bytes of the scale section of a slot. -/
def mtxScales (t : Nat) : Nat := if t = 9 then 2048 else if isMx t then 1024 else 0

/-- Bytes of an input record; tr is the transposed read. -/
def mtxRecord (t : Nat) (tr : Bool) : Nat := if tr then 128 else if isMx t then 576 else 512

/-- Rows a beat may hold. -/
def mtxRows (t : Nat) : Nat := if isMx t then 7 else 8

/-- Elements packed at six bits, low bits first. -/
def unpack6 : Bytes → List Nat
  | a :: b :: c :: t =>
    let w := a.toNat + 256 * b.toNat + 65536 * c.toNat
    w % 64 :: w / 64 % 64 :: w / 4096 % 64 :: w / 262144 :: unpack6 t
  | _ => []

/-- Elements packed at four bits, low bits first. -/
def unpack4 (bs : Bytes) : List Nat := bs.flatMap fun b => [b.toNat % 16, b.toNat / 16]

/-- Elements of packed bytes of a format (R173). -/
def mtxUnpack (t : Nat) (bs : Bytes) : List Nat :=
  match mtxBits t with
  | 16 => chunk2 bs
  | 6 => unpack6 bs
  | 4 => unpack4 bs
  | _ => bs.map (·.toNat)

/-- Whether an input format and a slot format form a pair of R178. -/
def mtxPair (x w : Nat) (tr : Bool) : Bool :=
  if tr then (x == 1 && w == 1) || (x == 2 && w == 2)
  else (x == 1 && w == 1) || (x == 2 && w == 2) ||
    ((x == 3 || x == 4) && (w == 3 || w == 4)) || ((x == 5 || x == 6) && (w == 5 || w == 6)) ||
    ((x == 7 || x == 8) && (w == 7 || w == 8)) || (x == 9 && w == 9)

def getSlot (c : Core) (i : Nat) : WSlot := tabGet wslotReset c.slots i

/-- DETAIL of an MTX BAD_OPERAND (R192). -/
def mtxDetail (slot queue fmt sfmt cause len : Nat) : Nat :=
  slot % 16 + queue % 16 * 2 ^ 4 + fmt % 16 * 2 ^ 8 + sfmt % 16 * 2 ^ 12 + cause * 2 ^ 16 + len % 65536 * 2 ^ 24

/-! ## Arithmetic (R182, R183) -/

/-- A block sum under its two scales (R182, R183). -/
def scaleBlock (sx sw : Nat) (p : FV) : FV :=
  match p with
  | .nan w => .nan w
  | p =>
    if sx = 0xFF ∨ sw = 0xFF then .nan defaultNaN
    else match p with
      | .fin s m e => fv32 (.fin s m (e + sx + sw - 254))
      | p => p

/-- Blocks of 32 products, each summed pairwise with FP32 rounding, then scaled. -/
def blockSums (ps : List FV) (scales : List (Option (Nat × Nat))) : List FV :=
  List.zipWith (fun (l : List FV) (sc : Option (Nat × Nat)) =>
      let p := pairwise add32 fvZero l
      match sc with
      | some (sx, sw) => scaleBlock sx sw p
      | none => p)
    (blocksOf 32 scales.length ps) scales

/-- One output: exact products rounded to FP32, block sums, and the pairwise sum of the blocks (R182). -/
def dotRow (xs ws : List FV) (scales : List (Option (Nat × Nat))) : FV :=
  pairwise add32 fvZero (blockSums (List.zipWith (fun x w => fv32 (fvMul x w)) xs ws) scales)

/-- Element k of every row of a list of rows: one column. -/
def columnAt (j : Nat) (rows : List (List FV)) : List FV := rows.map fun r => r.getD j fvZero

/-- The tile of a slot as rows of 64 weights (R173). -/
def tileRows (w : WSlot) : List (List FV) :=
  blocksOf 64 (mtxK w.fmt) ((mtxUnpack w.fmt w.elems).map (fpDecode (codeFmt w.fmt)))

/-- Results of one input record against a slot by the normal read: 64 sums (R182). -/
def macRow (t : Nat) (w : WSlot) (record : Bytes) : List FV :=
  let xs := (mtxUnpack t (record.take (mtxK t * mtxBits t / 8))).map (fpDecode (codeFmt t))
  let tile := tileRows w
  let nb := mtxK t / 32
  (rangeFrom 0 64).map fun j =>
    let scales := (rangeFrom 0 nb).map fun b =>
      if isMx t then some ((record.getD (512 + b) 0).toNat, (w.scales.getD (64 * b + j) 0).toNat) else none
    dotRow xs (columnAt j tile) scales

/-- Results of one 64-element record by the transposed read: 256 sums (R182). -/
def macTRow (t : Nat) (w : WSlot) (record : Bytes) : List FV :=
  let ys := (mtxUnpack t record).map (fpDecode (codeFmt t))
  (tileRows w).map fun ws => dotRow ys ws [none, none]

/-- Row r of a bank as 64 FP32 patterns; a row never written reads +0 (R180). -/
def accRow (c : Core) (bank r : Nat) : List Nat := padTo 64 0 (tabGet [] c.acc (bank * 256 + r % 256))

/-- Add 64 results into a row, one rounding each (R182). -/
def addRow (c : Core) (bank r : Nat) (v : List FV) : Core :=
  let l := List.zipWith (fun a x => fpEncode fmtFP32 (fvAdd (fpDecode fmtFP32 a) x)) (accRow c bank r) v
  { c with acc := tabSet [] c.acc (bank * 256 + r % 256) l }

def getBp (c : Core) (bank : Nat) : Nat := tabGet 0 c.bp bank

/-- Send row BP to a queue and clear it; BP advances (R179). -/
def drainRow (c : Core) (bank oq : Nat) : Option Core :=
  let p := getBp c bank
  match pushQ c oq (.beat (unElems 4 (accRow c bank p))) with
  | some c => some { c with acc := tabSet [] c.acc (bank * 256 + p) [], bp := tabSet 0 c.bp bank ((p + 1) % 256) }
  | none => none

/-! ## Input checks (R192) -/

/-- First failing cause of a slot for an input format: SLOT_EMPTY, SLOT_FILLING, FORMAT_PAIR. -/
def slotCause (c : Core) (slot fmt : Nat) (tr : Bool) : Option Nat :=
  match (getSlot c slot).st with
  | .empty => some 1
  | .filling => some 2
  | .ready => if mtxPair fmt (getSlot c slot).fmt tr then none else some 0

/-- DETAIL of the first rule that a MAC, MAC_T or BATCH input breaks; slots are judged in the order given. -/
def inputBad (c : Core) (b : Nat) (slots : List Nat) (tr : Bool) (beat : Bytes) : Option Nat :=
  let fmt := mFmt b
  let bad := slots.findSome? fun q => (slotCause c q fmt tr).map fun k => (q, k)
  match bad with
  | some (q, k) => some (mtxDetail q (mIq b) fmt (getSlot c q).fmt k beat.length)
  | none =>
    let n := mtxRecord fmt tr
    if beat.length % n = 0 ∧ 1 ≤ beat.length / n ∧ beat.length / n ≤ mtxRows fmt then none
    else some (mtxDetail (mSlot b) (mIq b) fmt (getSlot c (mSlot b)).fmt 5 beat.length)

/-! ## Code errors (R193) -/

/-- Count single-bit corrections of the array's memories (R193, R195). -/
def fixArray (c : Core) (k : Nat) : Core := { c with checks := { c.checks with mtx := satAdd 8 c.checks.mtx k } }

/-- Errors of a kind among the sections of a slot that its format has, the scale section as section 8. -/
def slotHarm (c : Core) (kind slot : Nat) : List Nat :=
  let t := (getSlot c slot).fmt
  (harmIn c.harm kind (harmKey 2 slot 0) (harmKey 2 slot 9)).filter fun k =>
    let i := k - harmKey 2 slot 0
    decide (i < mtxSections t) || (i == 8 && mtxScales t != 0)

/-- Errors of a kind among accumulator rows, by row number modulo 256. -/
def accHarm (c : Core) (kind bank : Nat) (rows : List Nat) : List Nat :=
  rows.filter fun r => tabGet 0 c.harm (harmKey 3 bank (r % 256)) == kind

/-- Check what an array operation reads: slots in the order given, then accumulator rows; the core with corrections counted,
or the halt (R193, R601). A wrong section counts once for a MAC or MAC_T field and once for each row of a batch, as a correction leaves
the place as it is: the manual does not say how often (DESIGN CHOICE, assumption 108). -/
def arrayCheck (c : Core) (slots : List Nat) (bank : Nat) (rows : List Nat) : Except (Nat × Nat) Core :=
  match slots.findSome? fun q => (slotHarm c 2 q).head?.map fun k => storeDetail 2 q (k - harmKey 2 q 0) with
  | some d => .error (0x18, d)
  | none =>
    match accHarm c 2 bank rows with
    | r :: _ => .error (0x19, 1 + bank % 2 * 2 ^ 8 + r % 256 * 2 ^ 16)
    | [] => .ok (fixArray c ((slots.map fun q => (slotHarm c 1 q).length).sum + (accHarm c 1 bank rows).length))

/-- An accumulator row that has been written holds no error any more. -/
def mendAcc (c : Core) (bank : Nat) (rows : List Nat) : Core :=
  { c with harm := rows.foldl (fun t r => tabSet 0 t (harmKey 3 bank (r % 256)) 0) c.harm }

/-! ## Fields other than BATCH -/

/-- MAC and MAC_T (R179, R182). -/
def macField (tr : Bool) (c : Core) (b : Nat) : EngRes :=
  match popBeat c (mIq b) with
  | .wait => .wait
  | .order => .halt 0x0B (mIq b)
  | .beat bs c =>
    match inputBad c b [mSlot b] tr bs with
    | some d => .halt 0x03 d
    | none =>
      let t := mFmt b
      let n := bs.length / mtxRecord t tr
      let w := getSlot c (mSlot b)
      let base := getBp c (mAcc b)
      let recs := (rangeFrom 0 n).zip (blocksOf (mtxRecord t tr) n bs)
      let rows := rangeFrom base (if tr then 4 * n else n)
      match arrayCheck c [mSlot b] (mAcc b) rows with
      | .error e => .halt e.1 e.2
      | .ok c => .ok (recs.foldl (fun c r =>
        if tr then
          let out := macTRow t w r.2
          ((rangeFrom 0 4).zip (blocksOf 64 4 out)).foldl (fun c q => addRow c (mAcc b) (base + 4 * r.1 + q.1) q.2) c
        else addRow c (mAcc b) (base + r.1) (macRow t w r.2)) (mendAcc c (mAcc b) rows))

/-- LOAD (R174). -/
def loadField (c : Core) (b : Nat) : EngRes :=
  match popBeat c (mIq b) with
  | .wait => .wait
  | .order => .halt 0x0B (mIq b)
  | .beat bs c =>
    let w := getSlot c (mSlot b)
    let t := mFmt b
    let bad := fun (k : Nat) => EngRes.halt 0x03 (mtxDetail (mSlot b) (mIq b) t w.fmt k bs.length)
    if w.cursor = 0 ∧ (t = 0 ∨ 0xA ≤ t) then bad 7
    else if w.cursor ≠ 0 ∧ w.fmt ≠ t then bad 4
    else
      let elem := decide (w.cursor < mtxSections t)
      if bs.length ≠ (if elem then 4096 else mtxScales t) then bad 3
      else
        let last := decide (w.cursor + 1 = mtxSections t + b2n (mtxScales t ≠ 0))
        let w' : WSlot :=
          { st := if last then .ready else .filling
            cursor := if last then 0 else w.cursor + 1
            fmt := t
            elems := if w.cursor = 0 then bs else if elem then w.elems ++ bs else w.elems
            scales := if elem then w.scales else bs }
        let place := harmKey 2 (mSlot b) (if elem then w.cursor else 8)
        .ok { c with slots := tabSet wslotReset c.slots (mSlot b) w', harm := tabSet 0 c.harm place 0 }

/-- DRAIN (R179). -/
def drainField (c : Core) (b : Nat) : EngRes :=
  let row := [getBp c (mAcc b)]
  match drainRow c (mAcc b) (mOq b) with
  | some c' =>
    match arrayCheck c [] (mAcc b) row with
    | .error e => .halt e.1 e.2
    | .ok x => .ok (mendAcc { c' with checks := x.checks } (mAcc b) row)
  | none => .wait

/-- ZERO (R179). -/
def zeroField (c : Core) (b : Nat) : EngRes :=
  .ok { c with acc := c.acc.filter (fun e => decide (e.1 / 256 ≠ mAcc b)), bp := tabSet 0 c.bp (mAcc b) 0,
               harm := mendRange c.harm (harmKey 3 (mAcc b) 0) (harmKey 3 (mAcc b) 256) }

/-! ## Batches (R188 to R191) -/

/-- Slots of a batch's chain. -/
def chainLen (slot : Nat) : Nat := 16 - slot

/-- How a batch's rows run. -/
inductive DrainRes
  /-- The core, and the array cycles that ran. -/
  | ok (c : Core) (k : Nat)
  | halt (c : Core) (k reason detail : Nat)

/-- Run the first row of a batch through its chain and drain it; none while the output queue is full. -/
def batchRow (c : Core) (x : Batch) : Option (Except (Nat × Nat) Core) :=
  let n := chainLen x.slot
  let row := [getBp c x.acc]
  let c' := ((rangeFrom x.slot n).zip x.records).foldl
    (fun c r => addRow c x.acc (getBp c x.acc) (macRow x.fmt (getSlot c r.1) r.2)) c
  (drainRow c' x.acc x.oq).map fun c' =>
    (arrayCheck c (rangeFrom x.slot n) x.acc row).map fun y =>
      mendAcc { c' with batch := some { x with records := x.records.drop n, todo := x.todo - 1 }, checks := y.checks } x.acc row

/-- Run rows of the closes in progress while the output queue has space. -/
def batchDrain : Nat → Core → Nat → DrainRes
  | 0, c, k => .ok c k
  | n + 1, c, k =>
    match c.batch with
    | some x =>
      if x.todo = 0 then .ok c k
      else match batchRow c x with
        | some (.ok c) => batchDrain n c (k + chainLen x.slot)
        | some (.error e) => .halt c k e.1 e.2
        | none => .ok c k
    | none => .ok c k

/-- Drop a batch that stages nothing and closes nothing. -/
def batchTidy (c : Core) : Core :=
  match c.batch with
  | some x => if x.records.isEmpty && x.rest.isEmpty && x.todo == 0 && !x.staged then { c with batch := none } else c
  | none => c

/-- The window of a batch (R189). -/
def batchWindow (s : State) (u slot : Nat) : Nat :=
  max 1 (min (fget s fCORE_MTX_CFG_BATCH_WINDOW u 0) (128 / chainLen slot))

/-- Records of the head field's beat enter the staging buffer as far as its 128 records allow (R188), and each whole window of
complete rows closes (R189); rows within the window first join a close by timeout that still waits. The closes started. -/
def batchFill (w : Nat) (x : Batch) : Batch × Nat :=
  let k := 128 - x.records.length
  let x := { x with records := x.records ++ x.rest.take k, rest := x.rest.drop k }
  let x := match x.late with
    | some n =>
      let add := min (w - n) (batchRows x - x.todo)
      if x.todo = 0 then { x with late := none } else { x with todo := x.todo + add, late := some (n + add) }
    | none => x
  let full := (batchRows x - x.todo) / w
  ({ x with todo := x.todo + full * w }, full)

/-- Fill the staging buffer and run what closes, until the beat is staged and its closes have run, or the output queue is
full; array cycles and closes. -/
def batchPump (w : Nat) : Nat → Core → Nat → Nat → DrainRes × Nat
  | 0, c, k, full => (.ok c k, full)
  | n + 1, c, k, full =>
    match c.batch with
    | none => (.ok c k, full)
    | some x =>
      let y := batchFill w x
      match batchDrain 128 { c with batch := some y.1 } k with
      | .halt c k r d => (.halt c k r d, full + y.2)
      | .ok c k =>
        match c.batch with
        | some z => if z.rest.isEmpty || z.todo != 0 then (.ok c k, full + y.2) else batchPump w n c k (full + y.2)
        | none => (.ok c k, full + y.2)

/-- Count array cycles (R197). -/
def countArray (s : State) (u k : Nat) : State := fbump s fCORE_MTX_ARRAY_CYCLES_COUNT u 0 k

/-- How the closing of an open batch ends. -/
inductive CloseRes
  | closed (s : State)
  | busy (s : State)
  | stop (s : State) (reason detail : Nat)

/-- Close the open batch with all its complete rows (R189, R190). A PARTIAL_ROW shows the queue and the beat length given; where another
field closes the batch they are its output queue and 0, beside its SLOT and FMT: the manual does not say whose the fields of DETAIL
are then, nor whether the complete rows of such a batch run before the halt, and here none does (R190, R192; DESIGN CHOICE,
assumption 113). -/
def closeBatch (s : State) (u : Nat) (put : Option Nat) : CloseRes :=
  let c := getCore s u
  match c.batch with
  | none => .closed s
  | some x =>
    if x.records.length % chainLen x.slot ≠ 0 then
      .stop s 0x03 (mtxDetail x.slot (put.getD x.oq) x.fmt (getSlot c x.slot).fmt 6 (if put.isSome then x.beat else 0))
    else
      match batchDrain 128 { c with batch := some { x with todo := batchRows x } } 0 with
      | .halt c k r d => .stop (countArray (setCore s u c) u k) r d
      | .ok c k =>
        let s := countArray (setCore s u c) u k
        match c.batch with
        | some y => if y.records.isEmpty then .closed (setCore s u { c with batch := none }) else .busy s
        | none => .closed s

/-- Head field of the matrix engine when its MOP is the one given. -/
def mtxHead (s : State) (u mop : Nat) : Option QField :=
  let c := getCore s u
  if c.seq.st = .running then
    match getFq c 1 with
    | f :: _ => if fOp4 f.bits = mop then some f else none
    | [] => none
  else none

/-- Rows of the first beat of IQ, which is what a MAC or MAC_T costs (R186); a baton ahead of it is the one the field takes. -/
def macCost (s : State) (u b : Nat) (tr : Bool) : Nat :=
  match (getQ (getCore s u) (mIq b)).items.findSome? fun i => match i with | .beat bs => some bs | .baton _ => none with
  | some bs => bs.length / mtxRecord (mFmt b) tr
  | none => 0

/-- Run a field other than BATCH: the open batch closes first (R189). -/
def mtxStep (s : State) (u mop : Nat) (op : Core → Nat → EngRes) (cost : State → Nat → Nat) : State :=
  match mtxHead s u mop with
  | none => s
  | some f =>
    match closeBatch s u none with
    | .busy s => s
    | .stop s r d => settleNops (haltUnit s u r 1 f.pc d) u
    | .closed s => countedField s u 1 (fun b => fOp4 b == mop) op fun t => countArray t u (cost s f.bits)

def execMac (u : Nat) (s : State) : Host.Outcome State Fault Refusal :=
  .next (mtxStep s u 1 (macField false) fun s b => macCost s u b false)
def execMacT (u : Nat) (s : State) : Host.Outcome State Fault Refusal :=
  .next (mtxStep s u 2 (macField true) fun s b => macCost s u b true)
def execMtxLoad (u : Nat) (s : State) : Host.Outcome State Fault Refusal :=
  .next (mtxStep s u 3 loadField fun _ _ => 0)
def execDrain (u : Nat) (s : State) : Host.Outcome State Fault Refusal :=
  .next (mtxStep s u 4 drainField fun _ _ => 0)
def execZero (u : Nat) (s : State) : Host.Outcome State Fault Refusal :=
  .next (mtxStep s u 5 zeroField fun _ _ => 0)

/-- Take the head field's beat and check it; its records wait to enter the staging buffer (R188). -/
def batchStage (c : Core) (f : QField) : EngRes :=
  let b := f.bits
  match takeBaton c b with
  | .ok c =>
    match popBeat c (mIq b) with
    | .wait => .wait
    | .order => .halt 0x0B (mIq b)
    | .beat bs c =>
      match inputBad c b (rangeFrom (mSlot b) (chainLen (mSlot b))) false bs with
      | some d => .halt 0x03 d
      | none =>
        let more := blocksOf (mtxRecord (mFmt b) false) (bs.length / mtxRecord (mFmt b) false) bs
        .ok { c with batch := some (match c.batch with
          | some x => { x with rest := more, staged := true, pc := f.pc, beat := bs.length }
          | none => ⟨mSlot b, mFmt b, mAcc b, mOq b, [], 0, none, more, f.pc, true, bs.length⟩) }
  | r => r

/-- The head BATCH field leaves its queue, with its baton (R191). -/
def batchRetire (s : State) (u : Nat) (c : Core) (f : QField) : State :=
  match putBaton c f.bits with
  | .ok c => setCore s u (batchTidy (setFq { c with batch := c.batch.map fun x => { x with staged := false } } 1 ((getFq c 1).drop 1)))
  | _ => setCore s u c

/-- Go on with the head BATCH field (R188 to R191): its records enter the staging buffer, whole windows close, and PUT closes
what is left. It leaves its queue when its closes have drained; rows below the window stay staged. -/
def batchFinish (s : State) (u : Nat) (f : QField) : State :=
  let w := batchWindow s u (mSlot f.bits)
  match batchPump w 64 (getCore s u) 0 0 with
  | (.halt c k r d, full) => haltUnit (fbump (countArray (setCore s u c) u k) fCORE_MTX_BATCH_STAT_FULL_CLOSES u 0 full) u r 1 f.pc d
  | (.ok c k, full) =>
    let s := fbump (countArray (setCore s u c) u k) fCORE_MTX_BATCH_STAT_FULL_CLOSES u 0 full
    match c.batch with
    | none => s
    | some x =>
      if x.todo ≠ 0 ∨ !x.rest.isEmpty then s
      else if nbit f.bits 1 then
        match closeBatch s u (some (mIq f.bits)) with
        | .stop s r d => haltUnit s u r 1 f.pc d
        | .busy s => s
        | .closed s => batchRetire s u { getCore s u with batch := some { x with records := [] } } f
      else batchRetire s u c f

/-- Whether an open batch has other operands than the field. -/
def batchOther (x : Batch) (b : Nat) : Bool :=
  x.slot != mSlot b || x.fmt != mFmt b || x.acc != mAcc b || x.oq != mOq b

/-- BATCH (R188 to R191). -/
def batchStep (s : State) (u : Nat) : State :=
  match mtxHead s u 6 with
  | none => s
  | some f =>
    let start := fun (s : State) =>
      match batchStage (getCore s u) f with
      | .wait => s
      | .halt r d => haltUnit s u r 1 f.pc d
      | .ok c => batchFinish (setCore s u c) u f
    match (getCore s u).batch with
    | some x =>
      if x.staged then batchFinish s u f
      else if batchOther x f.bits then
        match closeBatch s u none with
        | .busy s => s
        | .stop s r d => haltUnit s u r 1 f.pc d
        | .closed s => start s
      else start s
    | none => start s

def execBatch (u : Nat) (s : State) : Host.Outcome State Fault Refusal := .next (settleNops (batchStep s u) u)

/-- BATCH_TIMEOUT (R189, R190): every complete row that no close has taken closes now; an incomplete row stays staged. A head
BATCH field that still drains goes on by its own command. -/
def batchTimeout (s : State) (u : Nat) : State :=
  let c := getCore s u
  match c.batch with
  | none => s
  | some x =>
    if c.seq.st ≠ .running then s
    else
      let fresh := decide (x.todo < batchRows x)
      if !fresh ∧ x.todo = 0 then s
      else
        let x := if fresh then { x with todo := batchRows x, late := some (batchRows x - x.todo) } else x
        let s := if fresh then fbump s fCORE_MTX_BATCH_STAT_TIMEOUT_CLOSES u 0 1 else s
        match batchDrain 128 { c with batch := some x } 0 with
        | .halt c k r d => haltUnit (countArray (setCore s u c) u k) u r 1 x.pc d
        | .ok c k => countArray (setCore s u (batchTidy c)) u k

def execBatchTimeout (u : Nat) (s : State) : Host.Outcome State Fault Refusal := .next (settleNops (batchTimeout s u) u)

end Sys2Proof.Machine
end

