-- ==== Sys2Proof/Machine/Streams.lean ====
section
/-! DEFINITION. Queue roles of fields (R137), address patterns (R154 to R163), arm entries (R317), stream movers (R319 to
R323, R337, R604). -/

namespace Sys2Proof.Machine

/-! ## Queues that a field names (R137) -/

/-- Input queues of a field of engines 1 to 5 and 14. -/
def fieldIn (eng b : Nat) : List Nat :=
  let take := if nbit b 0 then [nbits b 10 4] else []
  let op := fOp4 b
  take ++
    (if eng = 1 then (if op = 1 ∨ op = 2 ∨ op = 3 ∨ op = 6 then [mIq b] else [])
     else if eng = 2 then vecQueues b
     else if eng = 3 then (if op = 0 then [] else [sIq b])
     else if eng = 4 then (if 2 ≤ op ∧ op ≤ 6 then [sIq b] else [])
     else if eng = 5 then
       (if op = 1 ∨ op = 4 then [sIq b, (sIq b + 1) % 16] else if op = 2 then [sIq b] else [])
     else [])

/-- Output queues of a field. -/
def fieldOut (eng b : Nat) : List Nat :=
  let op := fOp4 b
  (if eng = 1 then (if op = 4 ∨ op = 6 then [mOq b] else [])
   else if eng = 2 then
     (match (vopKinds (vVop b) (vSumOp b) (opdOf (vA b)).isMask).2.2.2, opdOf (vD b) with
      | .unused, _ => []
      | _, .queue q => [q]
      | _, _ => [])
   else if eng = 3 then (if op = 0 then [] else [sOq b])
   else if eng = 4 then (if op = 7 then [sOq b] else [])
   else if eng = 5 then (if op = 1 ∨ op = 3 ∨ op = 4 then [sOq b] else [])
   else []) ++ (if nbit b 1 then [nbits b 10 4] else [])

/-- Bind a queue to an engine in a role; an existing binding to another engine is returned (R137). -/
def bindQ (c : Core) (q eng : Nat) (input : Bool) : Core × Option Nat :=
  let x := getQ c q
  match if input then x.cons else x.prod with
  | some e => (c, if e = eng then none else some e)
  | none => (setQ c q (if input then { x with cons := some eng } else { x with prod := some eng }), none)

/-- DETAIL of QUEUE_CONFLICT (R601). -/
def conflictDetail (q bound naming : Nat) (input : Bool) : Nat := q + bound * 2 ^ 8 + naming * 2 ^ 16 + b2n input * 2 ^ 24

/-- Bind the queues of one engine; the DETAIL of the first conflict. -/
def bindAll (eng : Nat) : List (Nat × Bool) → Core → Core × Option Nat
  | [], c => (c, none)
  | (q, input) :: t, c =>
    match bindQ c q eng input with
    | (c, none) => bindAll eng t c
    | (c, some e) => (c, some (conflictDetail q e eng input))

/-! ## Address patterns (R154) -/

def pBase (p : Nat) : Nat := nbits p 0 52
def pLen (p : Nat) : Nat := nbits p 64 16 * 64
def pIndexed (p : Nat) : Bool := nbit p 80
def pIdxDim (p : Nat) : Nat := nbits p 81 3
def pStrict (p : Nat) : Bool := nbit p 84
def pWop (p : Nat) : Nat := nbits p 85 2
def pAddFmt (p : Nat) : Nat := nbits p 87 2
def pLimit (p : Nat) : Nat := nbits p 96 32
def pIdxBase (p : Nat) : Nat := nbits p 128 52
def pCount (p d : Nat) : Nat := nbits p (128 + 64 * d) 20
def pStride (p d : Nat) : Int := toSigned 44 (nbits p (148 + 64 * d) 44)

/-- Product of the counts of dimensions 1 to d. -/
def pProd (p : Nat) : Nat → Nat
  | 0 => 1
  | d + 1 => pProd p d * pCount p (d + 1)

/-- Runs of a walk: none when a length or a count is zero (R156). -/
def pRuns (p : Nat) : Nat := if pLen p = 0 then 0 else pProd p 5

/-- Counter d of run t. -/
def pCtr (p t d : Nat) : Nat := t / pProd p (d - 1) % pCount p d

/-- Whether an index line lies in a store that the mover may read indices from (R34, R155, R271, R350). -/
def idxReach (s : State) (u a : Nat) : Bool :=
  match placeOf s (some u) a with
  | .cs v _ => v == u
  | .bs b off => !isSE u && b == u / 8 && decide (off < shadowLine s b * 128)
  | _ => false

/-- Whether a pattern is legal for a mover (R155). -/
def patLegal (s : State) (u kind p : Nat) : Bool :=
  nbits p 52 12 == 0 && nbits p 89 7 == 0 && nbits p 180 12 == 0 &&
    (if pIndexed p then
      decide (1 ≤ pIdxDim p ∧ pIdxDim p ≤ 5) && pIdxBase p % 64 == 0 && idxReach s u (pIdxBase p)
     else pIdxDim p == 0 && !pStrict p) &&
    decide (pWop p ≤ 1) && (kind == 1 || pWop p == 0) && (if pWop p = 1 then pAddFmt p != 3 else pAddFmt p == 0)

/-! ## Tensor descriptors lowered to a pattern (R296 to R298) -/

/-- Fold outer dimensions pairwise, innermost first (R298). -/
def foldDims : Nat → List (Nat × Int) → List (Nat × Int)
  | n + 1, (c, st) :: (c', st') :: t =>
    if st' = (c : Int) * st ∧ c * c' ≤ 1048575 then foldDims n ((c * c', st) :: t)
    else (c, st) :: foldDims n ((c', st') :: t)
  | _, l => l

/-- Fold dimension 1 into dimension 0 as long as it fits (R298). -/
def foldLen : Nat → Nat → List (Nat × Int) → Nat × List (Nat × Int)
  | n + 1, len, (c, st) :: t =>
    if st = ((len * 64 : Nat) : Int) ∧ len * c ≤ 65535 then foldLen n (len * c) t else (len, (c, st) :: t)
  | _, len, l => (len, l)

/-- The pattern of a descriptor; none where it fails its CHECK, R296 or the folding of R298. BASE of a distributed tensor is a
logical offset (R296), and so are the run starts of its walk. -/
def lowerDesc (w : Nat) : Option Nat :=
  let fmt := nbits w 52 4
  let nd := nbits w 56 4
  let len := nbits w 64 16
  let dims := (rangeFrom 1 7).map fun d => (nbits w (64 + 64 * d) 20, toSigned 44 (nbits w (84 + 64 * d) 44))
  let ok := crcOk 128 w && decide (1 ≤ nd ∧ nd ≤ 8) && nbits w 61 3 == 0 && decide (1 ≤ len) &&
    (nbit w 60 || nbits w 80 8 == 0) && nbits w 88 40 == 0 && nbits w 576 416 == 0 && decide (fmt < 0xC) && (dims.drop (nd - 1)).all (fun d => d.1 == 0 && d.2 == 0)
  let r := foldLen 7 len (dims.take (nd - 1))
  let outer := foldDims 7 r.2
  if !ok || decide (5 < outer.length) then none
  else
    let full := padTo 5 (1, 0) outer
    some (nbits w 0 52 + r.1 * 2 ^ 64 +
      ((rangeFrom 1 5).zip full).foldl (fun a e => a + (e.2.1 + ofSigned 44 e.2.2 * 2 ^ 20) * 2 ^ (128 + 64 * e.1)) 0)

/-! ## Reach and access of a mover -/

/-- Commit slot of the running task of a unit. -/
def runSlot (s : State) (u : Nat) : Nat := ((getCore s u).task).getD noSlot

/-- Whether the running task of a unit is a member of an open epoch (R370). -/
def isMember (s : State) (u : Nat) : Bool := match unitTask s u with | some k => k.spec | none => false

/-- Whether a stack engine may use a page: mapped, with its frame in the engine's own stack, or in its deadbolted
sibling's while it covers (R350, R361). -/
def sePage (s : State) (u r page : Nat) : Bool :=
  let e := pteOf (getRegion s r) page
  let f := resolveLine (getRegion s r) e s.lap.num noSlot [] 0
  e.valid && (decide (2 ^ 20 ≤ f) == decide ((u - 512) % 2 = 1) || covers s (u - 512))

/-- First byte of a run outside the reach of a unit's movers (R34, R158, R271, R274, R350, R375); none inside. The HBM of
a deadbolted region stays in reach: its error is a bus error (R337). -/
def reachBad (s : State) (u a len : Nat) : Option Nat :=
  match placeOf s (some u) a with
  | .cs v off =>
    let lim := if isSE u then 0x14_0000 else 0x40_0000
    if v ≠ u then some a else if off + len ≤ lim then none else some (a + (lim - off))
  | .bs b off =>
    let lim := shadowLine s b * 128
    if isSE u || b != u / 8 || decide (lim ≤ off) then some a
    else if off + len ≤ lim then none else some (a + (lim - off))
  | .hbm r page off =>
    if (isSE u || isMember s u) && r != unitRegion u then some a
    else
      let room := 0x20_0000_0000 - (page * 65536 + off)
      let pages := rangeFrom page ((off + min len room + 65535) / 65536)
      match (if regionAlive s r then
          pages.find? (fun p => if isSE u then !sePage s u r p else !(pteOf (getRegion s r) p).valid) else none) with
      | some p => some (if p = page then a else a + (p - page) * 65536 - off)
      | none => if len ≤ room then none else some (a + room)
  | _ => some a

/-- Whether an access goes to a deadbolted region or block, or over a path that has failed (R24, R290, R335, R337). -/
def targetDead (s : State) (u a : Nat) : Bool :=
  match placeOf s (some u) a with
  | .hbm r page _ => !regionAlive s r || !pathUp (fabricUp s) (unitRegion u) r (page * 65536)
  | .bs b _ => !blockAlive s b
  | _ => false

/-- Bytes at an address as the running task of a unit sees them (R49, R54, R281, R373). -/
def readAt (s : State) (u a n : Nat) : Bytes :=
  let slot := runSlot s u
  let ep := if isSE u then [] else epochMembers s slot
  match placeOf s (some u) a with
  | .cs v off => memRead (getCore s v).store off n
  | .bs b off => readBs s b slot ep off n
  | .hbm r page off => readHbm s r slot ep (n / 65536 + 2) page off n
  | _ => List.replicate n 0

/-- Consumer records and zero-read counts of a read. -/
def noteAt (s : State) (u a n : Nat) : State :=
  match placeOf s (some u) a with
  | .bs b off => noteBsRead s b off n (getCore s u).task
  | .hbm r page off => noteHbmRead s r (getCore s u).task (n / 65536 + 2) page off n
  | _ => s

/-- The checks of a read by a unit's movers (R193, R267, R271, R286, R337). -/
def eccAt (s : State) (u a n : Nat) : EccRes :=
  let slot := runSlot s u
  let ep := if isSE u then [] else epochMembers s slot
  match placeOf s (some u) a with
  | .cs v off => readCsEcc s v off n
  | .bs b off => readBsEcc s (some u) b off n slot ep
  | .hbm r page off =>
    let q := readHbmEcc s r slot ep (n / 65536 + 2) page off n
    if q.2 then .bus q.1 else .ok q.1
  | _ => .ok s

/-- Bank arbitrations that a mover's request loses (R165, R268, R272). -/
def conflictAt (s : State) (u m a : Nat) : State :=
  if isSE u then s
  else match placeOf s (some u) a with
    | .cs v _ => csConflict s v m
    | .bs b _ => bsConflict s b (u % 8 * 8 + m)
    | _ => s

/-- How a write of a unit ends. -/
inductive UnitWr
  | ok (s : State)
  | wait
  | halt (reason detail : Nat)

/-- DETAIL of HELD_EXCESS (R601). -/
def excessDetail (kind declared : Nat) : Nat := kind + declared % 65536 * 2 ^ 32

/-- Write bytes under the running task of a unit: block-store producer check (R144), held writes (R54, R58). -/
def writeAt (s : State) (u a : Nat) (bs : Bytes) : UnitWr :=
  let slot := runSlot s u
  let done := fun (w : WrRes) => match w with
    | .ok s => UnitWr.ok s
    | .wait => .wait
    | .excess k d => .halt 0x14 (excessDetail k d)
  match placeOf s (some u) a with
  | .cs v off => .ok (writeCs s v off bs)
  | .bs b off =>
    match sbForeign s b u off bs.length with
    | some (r, l) => .halt 0x0D (r + 2 ^ 8 + l * 2 ^ 32)
    | none => done (writeBs s b slot (bs.length / 128 + 2) off bs)
  | .hbm r page off => done (writeHbm s r slot (isSE u) (bs.length / 65536 + 2) page off bs)
  | _ => .ok s

/-! ## Arming -/

def getMv (c : Core) (m : Nat) : Mover := tabGet moverReset c.movers m
def setMv (c : Core) (m : Nat) (x : Mover) : Core := { c with movers := tabSet moverReset c.movers m x }
def updMv (s : State) (u m : Nat) (f : Mover → Mover) : State := updCore s u fun c => setMv c m (f (getMv c m))

/-- The walk at its first run. -/
def rewind (x : Mover) : Mover :=
  { x with run := 0, off := 0, idxPos := 0, idx := 0, idxOk := false, gen := false, mergeEnd := 0, req := none, waitsFrame := false,
           delivered := 0, joined := false, part := [] }

/-- The tensor descriptor that an arm entry names (R317). -/
def armDesc (s : State) (e : Nat) : Option Nat :=
  if nbit e 6 then
    match placeOf s none (nbits e 512 52) with
    | .hbm r page off => some (leNat (readCommitted s r page off 128))
    | _ => none
  else none

/-- Read the tensor descriptor of an arm entry that has one, as the arm list itself is read (R298, R317, R603; DEDUCED, assumption
124). -/
def descRead (s : State) (e : Nat) : State × TaskRead := if nbit e 6 then taskRead s (nbits e 512 52) 128 else (s, .ok [])

/-- What a mover walks: a pattern, and the owner table of a distributed tensor (R154, R296). -/
structure Walk where
  pat : Nat
  table : Option Nat
  deriving DecidableEq, Repr

/-- Walk of an arm entry; a tensor descriptor is lowered by firmware (R298, R317). -/
def armWalk (s : State) (e : Nat) : Walk :=
  if nbit e 6 then
    match armDesc s e with
    | some w => ⟨(lowerDesc w).getD 0, if nbit w 60 then some (nbits w 80 8) else none⟩
    | none => ⟨0, none⟩
  else ⟨nbits e 512 512, none⟩

/-- Physical address of a place of a walk; none where the owner table does not resolve it (R303). -/
def walkAddr (s : State) (table : Option Nat) (a : Nat) : Option Nat :=
  match table with
  | none => some a
  | some t => (resolveOwner s t a).map ownedAddr

/-- Arm a mover with a full entry (R317, R319); the DETAIL of a binding conflict. A mover whose pattern is illegal stays
unarmed (R155), and binds no queue. -/
def armMover (s : State) (u m e : Nat) : State × Option Nat :=
  let kind := nbits e 4 2
  let w := armWalk s e
  if !patLegal s u kind w.pat then (setCore s u (setMv (getCore s u) m { moverReset with kind := kind }), none)
  else
    let x : Mover := { moverReset with
      st := .armed, kind := kind, queue := nbits e 7 4, batonQ := nbits e 11 4,
      batonDim := nbits e 15 3, tag := nbits e 18 8, prio := nbits e 26 3, noMerge := nbit e 29, pat := w.pat, table := w.table }
    let roles := (x.queue, kind == 1) :: (if kind = 1 ∧ x.batonDim ≠ 0 then [(x.batonQ, false)] else [])
    let r := bindAll (6 + m) roles (getCore s u)
    (setCore s u (setMv r.1 m x), r.2)

/-! ## The walk -/

/-- Put the pass baton that is due, when its queue has room (R322). -/
def flushDue (c : Core) (m : Nat) : Core :=
  let x := getMv c m
  if x.due then
    match pushQ c (if x.kind = 1 then x.batonQ else x.queue) (.baton x.tag) with
    | some c => setMv c m { x with due := false, delivered := if x.kind = 1 then x.delivered else x.delivered + 1 }
    | none => c
  else c

/-- Move past n bytes of the run at hand; the run, the pass and the walk end where they end. -/
def advance (c : Core) (m n : Nat) : Core :=
  let x := getMv c m
  if x.off + n < pLen x.pat then setMv c m { x with off := x.off + n, req := none, waitsFrame := false }
  else
    let pass := x.batonDim ≠ 0 ∧ (x.run + 1) % pProd x.pat x.batonDim = 0
    let fin := decide (pRuns x.pat ≤ x.run + 1)
    flushDue (setMv c m { x with
      off := 0, run := x.run + 1, gen := false, req := none, waitsFrame := false, due := decide pass,
      st := if fin then .done else x.st }) m

/-- Whether run t is the first beneath a new index (R157). -/
def newIndex (p t : Nat) : Bool := pIndexed p && t % pProd p (pIdxDim p - 1) == 0

/-- Run start without the index (R157), exact: no sum wraps at 64 bits (DEDUCED, assumption 119). -/
def runBase (p t : Nat) : Int :=
  (rangeFrom 1 5).foldl (fun (a : Int) d =>
    if pIndexed p && d == pIdxDim p then a else a + (pCtr p t d : Int) * pStride p d) (pBase p : Int)

/-- How the generation of a run ends. -/
inductive GenRes
  | ok (s : State)
  | halt (s : State) (reason detail : Nat)

/-- Count an index out of range (R162); SATURATED rises as the count reaches its limit (R169; DEDUCED, assumption 120). -/
def countOob (s : State) (u m : Nat) : State :=
  let n := fget s (fCORE_STM_OOB_OOB_COUNT m) u 0
  let s := fput s (fCORE_STM_OOB_OOB_COUNT m) u 0 (satAdd 24 n 1)
  if satAdd 24 n 1 = 2 ^ 24 - 1 then fput s (fCORE_STM_OOB_SATURATED m) u 0 1 else s

/-- The index line of a fresh index is read once, when the walk comes to its first index; the mover keeps it. How many of the up to 64
lines ahead of it have been read is left to time (R160): the model reads none (DESIGN CHOICE, assumption 127). -/
def readIndex (s : State) (u m ia : Nat) (fresh : Bool) : GenRes :=
  if fresh && ia % 64 == 0 then
    match eccAt s u ia 64 with
    | .ok t => .ok (updMv (conflictAt (noteAt t u ia 64) u m ia) u m fun x => { x with line := readAt s u ia 64 })
    | .bus s => .ok s
    | .halt s r d => .halt s r d
  else .ok s

/-- An index out of range counts once (R162); a stack engine has no counter. -/
def noteMiss (s : State) (u m : Nat) (miss : Bool) : State := if miss && !isSE u then countOob s u m else s

/-- First byte of a run outside the mover's reach. Of a distributed tensor each piece is resolved by itself; a block of another
part is out of reach, and a piece that does not resolve fails when it is accessed (R158, R303). -/
def runBad (s : State) (u : Nat) (x : Mover) (a : Nat) : Option Nat :=
  match x.table with
  | none => reachBad s u a (pLen x.pat)
  | some t => (ownerPieces (getOwner s t).log2 (2 * (pLen x.pat / 65536) + 2) a 0 (pLen x.pat)).findSome? fun p =>
    match resolveOwner s t p.1 with
    | some o => if o.part = selfId s then reachBad s u (ownedAddr o) p.2.2 else some p.1
    | none => none

/-- Generate a run at address a, whose mover is left as y (R157, R160, R163), counting merges (R323). -/
def placeRun (s : State) (u m : Nat) (x y : Mover) (a : Int) : GenRes :=
  if a < 0 ∨ (2 ^ 52 : Int) ≤ a ∨ a % 64 ≠ 0 then .halt s 0x10 (ofSigned 64 a)
  else
    let an := a.toNat
    match runBad s u x an with
    | some bad => .halt s 0x0F bad
    | none =>
      let merged := !x.noMerge && x.mergeEnd == an && decide (an ≠ 0 ∧ an % 4096 ≠ 0)
      let s := if merged && !isSE u then fbump s fCORE_STM_MERGED_COUNT u 0 1 else s
      .ok (updMv s u m fun _ => { y with addr := an, mergeEnd := an + pLen x.pat, joined := merged })

/-- Generate and check the run at hand (R157, R158, R160 to R163), counting merges (R323) and out-of-range indices (R162). -/
def genRun (s : State) (u m : Nat) : GenRes :=
  let x := getMv (getCore s u) m
  let p := x.pat
  let fresh := newIndex p x.run
  let ia := pIdxBase p + 4 * x.idxPos
  if fresh && !idxReach s u ia then .halt s 0x0F ia
  else
    match readIndex s u m ia fresh with
    | .halt s r d => .halt s r d
    | .ok s =>
      let x := getMv (getCore s u) m
      let iw := if fresh then leNat ((x.line.drop (ia % 64)).take 4) else 0
      let v : Int := if fresh then toSigned 32 iw else x.idx
      let ok := !pIndexed p || decide (0 ≤ v ∧ v < (pLimit p : Int))
      let s := noteMiss s u m (fresh && !ok && !pStrict p)
      if fresh && !ok && pStrict p then .halt s 0x11 (m + x.idxPos % 2 ^ 29 * 2 ^ 3 + iw * 2 ^ 32)
      else
        let y := { x with idx := v, idxPos := if fresh then x.idxPos + 1 else x.idxPos, idxOk := ok, gen := true }
        if !ok then .ok (updMv s u m fun _ => { y with mergeEnd := 0 })
        else placeRun s u m x y (runBase p x.run + (if pIndexed p then v * pStride p (pIdxDim p) else 0))

/-- The run at hand is generated where it is new. -/
def runAtHand (s : State) (u m : Nat) : GenRes := if (getMv (getCore s u) m).gen then .ok s else genRun s u m

/-- The beat at hand, from where the walk stands in it (R159). -/
def beatLen (x : Mover) : Nat := min (4096 - x.off % 4096) (pLen x.pat - x.off)

/-- How much of the beat at hand one request takes: it does not cross a 4 KiB boundary (R323). -/
def reqLen (x : Mover) : Nat := min (beatLen x) (4096 - (x.addr + x.off) % 4096)

/-- The request for the next bytes of the run at hand; within a run, and where runs merge, the bytes before a boundary are one
request (R323). -/
def nextReq (x : Mover) (a : Nat) (write : Bool) (bs : Bytes) : Inflight :=
  ⟨a, reqLen x, write, bs, (x.addr + x.off) % 4096 != 0 && (x.off != 0 || x.joined)⟩

/-- Whether n more bytes end the beat at hand (R159). -/
def endsBeat (x : Mover) (n : Nat) : Bool := n == beatLen x

/-- DETAIL of STREAM_BUS_ERROR (R337). -/
def busDetail (a : Nat) (write : Bool) (m : Nat) : Nat := a % 2 ^ 52 + b2n write * 2 ^ 52 + m * 2 ^ 53

/-- Issue the request for the next bytes of the run at hand, the first of bs where it writes; the rest of a write-back beat stays
with the mover (R323). An offset that does not resolve ends as a bus error (R303, R337). -/
def issueReq (s : State) (u m : Nat) (write : Bool) (bs : Bytes) : State :=
  let x := getMv (getCore s u) m
  match walkAddr s x.table (x.addr + x.off) with
  | some a => updMv s u m fun x =>
      { x with req := some (nextReq x a write (bs.take (reqLen x))), part := if write then bs.drop (reqLen x) else x.part }
  | none => haltUnit s u 0x16 (6 + m) x.pc (busDetail (x.addr + x.off) write m)

/-- Whether a mover can make progress at all. -/
def mvRuns (s : State) (u m : Nat) : Bool :=
  let c := getCore s u
  let x := getMv c m
  c.seq.st == .running && x.st == .running && x.req.isNone && !x.due && decide (x.run < pRuns x.pat)

/-- STREAM_RUN (R157, R159, R162, R321, R323): generate the run where it is new, then issue the request of one beat, or
deliver or drop one beat of an invalid run. -/
def streamRun (s : State) (u m : Nat) : State :=
  let s := if (getMv (getCore s u) m).due then updCore s u fun c => flushDue c m else s
  if !mvRuns s u m then s
  else
    match runAtHand s u m with
    | .halt s r d => haltUnit s u r (6 + m) (getMv (getCore s u) m).pc d
    | .ok s =>
      let c := getCore s u
      let x := getMv c m
      let n := beatLen x
      if x.kind = 0 then
        if x.idxOk || !pIndexed x.pat then issueReq s u m false []
        else
          match pushQ c x.queue (.beat (List.replicate n 0)) with
          | some c => setCore s u (advance (setMv c m { x with delivered := x.delivered + 1 }) m n)
          | none => s
      else if !x.part.isEmpty then issueReq s u m true x.part
      else
        match (getQ c x.queue).items with
        | .beat bs :: t =>
          if bs.length ≠ n then haltUnit s u 0x1B (6 + m) x.pc (m + n * 2 ^ 16 + bs.length * 2 ^ 32)
          else
            let c := setQ c x.queue { getQ c x.queue with items := t }
            if x.idxOk || !pIndexed x.pat then issueReq (setCore s u c) u m true bs
            else setCore s u (advance c m n)
        | _ => s

/-- A stream request ends with a bus error (R337). -/
def streamBusError (s : State) (u m : Nat) : State :=
  let x := getMv (getCore s u) m
  match x.req with
  | some q => if (getCore s u).seq.st = .running then haltUnit s u 0x16 (6 + m) x.pc (busDetail q.addr q.write m) else s
  | none => s

/-- Elements of a write-back ADD (R166): 0 FP32, 1 BF16, 2 INT32. -/
def addBytes (fmt : Nat) (old new : Bytes) : Bytes :=
  if fmt = 1 then unElems 2 (List.zipWith (fpAdd fmtBF16) (elems 2 old) (elems 2 new))
  else if fmt = 2 then unElems 4 (List.zipWith (fun a b => (a + b) % 2 ^ 32) (elems 4 old) (elems 4 new))
  else unElems 4 (List.zipWith (fpAdd fmtFP32) (elems 4 old) (elems 4 new))

/-- What an ADD reads before it writes: the element's value as the task sees it (R166, R167); the core store's own atomic add
reads its bank. -/
def readForAdd (s : State) (u : Nat) (x : Mover) (q : Inflight) : EccRes :=
  if pWop x.pat = 1 then
    match eccAt s u q.addr q.len with
    | .ok s => .ok (noteAt s u q.addr q.len)
    | e => e
  else .ok s

/-- The write of a request is accepted, or waits, or halts the unit (R166, R167, R604). A failed read of an ADD's target is recorded
with the direction of its request, a write (R337; DESIGN CHOICE, assumption 121). -/
def acceptWrite (s : State) (u m : Nat) (x : Mover) (q : Inflight) : State :=
  match readForAdd s u x q with
  | .halt s r d => haltUnit s u r (6 + m) x.pc d
  | .bus s => streamBusError s u m
  | .ok t =>
    let bs := if pWop x.pat = 1 then addBytes (pAddFmt x.pat) (readAt s u q.addr q.len) q.data else q.data
    match writeAt t u q.addr bs with
    | .ok t => updCore (conflictAt t u m q.addr) u fun c => advance c m q.len
    | .wait => updMv s u m fun x => { x with waitsFrame := true }
    | .halt r d => haltUnit s u r (6 + m) x.pc d

/-- Bytes that were read reach the mover; the bytes that end a beat put it into QUEUE (R159, R319). -/
def takeRead (c : Core) (m : Nat) (bs : Bytes) : Core :=
  let x := getMv c m
  if endsBeat x bs.length then
    match pushQ c x.queue (.beat (x.part ++ bs)) with
    | some c => advance (setMv c m { x with delivered := x.delivered + 1, part := [] }) m bs.length
    | none => c
  else advance (setMv c m { x with part := x.part ++ bs }) m bs.length

/-- A read of a mover is served, when a beat that it ends has room in QUEUE (R319). -/
def acceptRead (s : State) (u m : Nat) (x : Mover) (q : Inflight) : State :=
  if endsBeat x q.len ∧ 8 ≤ (getQ (getCore s u) x.queue).items.length then s
  else
    match eccAt s u q.addr q.len with
    | .halt s r d => haltUnit s u r (6 + m) x.pc d
    | .bus s => streamBusError s u m
    | .ok t => updCore (conflictAt (noteAt t u q.addr q.len) u m q.addr) u fun c => takeRead c m (readAt s u q.addr q.len)

/-- STREAM_RESPONSE (R319, R322): the beat enters QUEUE, or the write is accepted. -/
def streamResponse (s : State) (u m : Nat) : State :=
  let c := getCore s u
  let x := getMv c m
  match x.req with
  | none => s
  | some q =>
    if c.seq.st ≠ .running ∨ x.waitsFrame then s
    else if targetDead s u q.addr then streamBusError s u m
    else if q.write then acceptWrite s u m x q
    else acceptRead s u m x q

/-- FRAME_WAIT_RESUME (R604): the waiting write is tried again. -/
def frameResume (s : State) (u m : Nat) : State :=
  let c := getCore s u
  let x := getMv c m
  match x.req with
  | some q => if x.waitsFrame ∧ c.seq.st = .running then acceptWrite (updMv s u m fun x => { x with waitsFrame := false }) u m x q else s
  | none => s

def execStreamRun (u m : Nat) (s : State) : Host.Outcome State Fault Refusal := .next (streamRun s u m)
def execStreamBusError (u m : Nat) (s : State) : Host.Outcome State Fault Refusal := .next (streamBusError s u m)
def execStreamResponse (u m : Nat) (s : State) : Host.Outcome State Fault Refusal := .next (streamResponse s u m)
def execFrameWaitResume (u m : Nat) (s : State) : Host.Outcome State Fault Refusal := .next (frameResume s u m)

/-! ## Mover operations (R126, R320) -/

/-- How a mover operation ends. -/
inductive MvRes
  | ok (s : State)
  | wait
  | halt (s : State) (reason detail : Nat)

/-- A mover operation; an unarmed mover halts, except for a REARM (R320). -/
def moverOp (s : State) (u m mvop : Nat) (op : State → QField → Mover → MvRes) (f : QField) : MvRes :=
  if (getMv (getCore s u) m).st = .unarmed ∧ mvop ≠ 3 then .halt s 0x0E m else op s f (getMv (getCore s u) m)

/-- Run the head field of a mover when its MVOP is the one given; an unarmed mover halts, except for a REARM (R320). -/
def moverStep (s : State) (u m mvop : Nat) (op : State → QField → Mover → MvRes) : State :=
  let c := getCore s u
  if c.seq.st ≠ .running then s
  else
    match getFq c (6 + m) with
    | [] => s
    | f :: rest =>
      if nbits f.bits 0 4 ≠ mvop then s
      else
        match moverOp s u m mvop op f with
        | .wait => s
        | .halt s r d => haltUnit s u r (6 + m) f.pc d
        | .ok s => settleNops (updCore s u fun c => setFq c (6 + m) rest) u

/-- Whether every field issued before a given one that reads a queue has taken its beat (R320). -/
def readersDone (c : Core) (q no : Nat) : Bool :=
  [1, 2, 3, 4, 5, 14].all fun eng => (getFq c eng).all fun f => !(decide (f.no < no) && hasNat (fieldIn eng f.bits) q)

/-- STOP (R320): a prefetch walk is cut and its unread entries are discarded; a write-back walk runs to its end. -/
def stopWalk (s : State) (u m : Nat) (f : QField) (x : Mover) : Option State :=
  let c := getCore s u
  if x.kind = 1 then
    if x.st = .running then none else some (updMv s u m fun x => { x with st := .armed })
  else if x.st = .armed then some s
  else if !readersDone c x.queue f.no then none
  else
    let q := getQ c x.queue
    let items := q.items.take (q.items.length - x.delivered)
    some (setCore s u (setMv (setQ c x.queue { q with items := items }) m { rewind x with st := .armed, due := false }))

/-- START (R156, R320). -/
def startWalk (s : State) (u m : Nat) (f : QField) (x : Mover) : MvRes :=
  if x.st = .running ∨ x.due then .wait
  else .ok (updMv s u m fun x => { rewind x with st := if pRuns x.pat = 0 then .done else .running, pc := f.pc })

/-- A walk stops before its mover is armed again (R320): the entries of a prefetch that nobody has read are cut, whether or
not the walk has run ahead to its end, and a write-back mover first puts the baton of its last pass (R322). -/
def stopFirst (s : State) (u m : Nat) (f : QField) (x : Mover) : Option State :=
  if x.kind = 1 ∧ x.due then none
  else if x.st = .running ∨ (x.st = .done ∧ x.kind ≠ 1) then stopWalk s u m f x
  else some s

/-- REARM k (R320). A descriptor that cannot be read halts as R603 has it (DEDUCED, assumption 124). -/
def rearm (s : State) (u m : Nat) (f : QField) (x : Mover) : MvRes :=
  let k := nbits f.bits 4 3
  match (getCore s u).arms[k]? with
  | none => .halt s 0x0E m
  | some e =>
    let baseOnly := decide (nbits e 4 2 = 2)
    if baseOnly && x.st == .unarmed then .halt s 0x0E m
    else
      match stopFirst s u m f x with
      | none => .wait
      | some s =>
        if baseOnly then
          let p := putBits x.pat 0 52 (nbits e 512 52)
          .ok (updMv s u m fun x => { rewind x with pat := p, st := .armed, due := false })
        else
          let q := descRead s e
          match q.2 with
          | .range a => .halt q.1 0x0F a
          | .bus a => .halt q.1 0x16 a
          | .ok _ =>
            match armMover q.1 u m e with
            | (s, none) => .ok s
            | (s, some d) => .halt s 0x09 d

/-- FLUSH (R320). -/
def flushWalk (s : State) (x : Mover) : MvRes := if x.kind = 1 ∧ x.st = .running then .wait else .ok s

/-- TAKE_BATON (R139, R320, R321): every beat ahead of the baton is written first, to its last part. -/
def takeMover (s : State) (u m : Nat) (f : QField) (x : Mover) : MvRes :=
  if x.kind ≠ 1 then .halt s 0x0E m
  else
    let c := getCore s u
    let tag := nbits f.bits 4 8
    match (getQ c x.queue).items with
    | .baton t :: rest =>
      if x.req.isSome || !x.part.isEmpty then .wait
      else if t = tag then .ok (setCore s u (setQ c x.queue { getQ c x.queue with items := rest }))
      else .halt s 0x0A (x.queue + tag * 2 ^ 8 + t * 2 ^ 16)
    | _ => .wait

def execMoverStart (u m : Nat) (s : State) : Host.Outcome State Fault Refusal :=
  .next (moverStep s u m 1 fun s f x => startWalk s u m f x)
def execMoverStop (u m : Nat) (s : State) : Host.Outcome State Fault Refusal :=
  .next (moverStep s u m 2 fun s f x => match stopWalk s u m f x with | some s => .ok s | none => .wait)
def execRearm (u m : Nat) (s : State) : Host.Outcome State Fault Refusal :=
  .next (moverStep s u m 3 fun s f x => rearm s u m f x)
def execFlush (u m : Nat) (s : State) : Host.Outcome State Fault Refusal :=
  .next (moverStep s u m 4 fun s _ x => flushWalk s x)
def execTakeBaton (u m : Nat) (s : State) : Host.Outcome State Fault Refusal :=
  .next (moverStep s u m 5 fun s f x => takeMover s u m f x)

end Sys2Proof.Machine
end

