-- ==== Sys2Proof/Machine/Sequencer.lean ====
section
/-! DEFINITION. Issue of control words (R117 to R136, R141 to R145, R347, R348), task start (R129, R603) and task finish
(R48, R130). -/

namespace Sys2Proof.Machine

/-! ## The SEQ field (R117) -/

def qSop (w : Nat) : Nat := nbits w 0 6
def qLr (w : Nat) : Nat := nbits w 6 5
def qSum (w : Nat) : Nat := nbits w 11 3
def qCond (w : Nat) : Nat := nbits w 14 3
def qTarget (w : Nat) : Nat := nbits w 17 11
def qImm (w : Nat) : Nat := nbits w 32 32

def getLr (c : Core) (i : Nat) : Word := tabGet 0 c.seq.lr i
def getSum (c : Core) (i : Nat) : Word := tabGet 0 c.seq.sums i

/-- Active engine fields of a word in ascending engine number (R115). -/
def activeFields (w : Nat) : List (Nat × Nat) :=
  ((rangeFrom 1 14).map fun e => (e, wField w e)).filter fun p => p.2 != 0

/-- The operation code of a field that is reserved (R120 to R126): the code. -/
def badOp (eng b : Nat) : Option Nat :=
  let op := fOp4 b
  let mv := nbits b 0 4
  if eng = 1 then (if 7 ≤ op then some op else none)
  else if eng = 2 then (if 0x19 ≤ vVop b then some (vVop b) else if vSumOp b = 7 then some 7 else none)
  else if eng = 3 then (if 5 ≤ op then some op else none)
  else if eng = 4 then (if 8 ≤ op then some op else none)
  else if eng = 5 then (if 5 ≤ op then some op else none)
  else if eng ≤ 13 then (if 6 ≤ mv then some mv else none)
  else (if 5 ≤ op then some op else none)

/-- BAD_OPERAND of a field at issue: its DETAIL (R203, R223, R307). -/
def badOperand (c : Core) (eng b : Nat) : Option Nat :=
  if eng = 2 then (vecBadOperand c b).map fun r => operandDetail r.1 2 r.2
  else if eng = 14 ∧ (fOp4 b = 1 ∨ fOp4 b = 2) ∧ 4 ≤ xUnit b then some (xUnit b + fOp4 b * 2 ^ 4)
  else none

/-- Units of R88 that serve a field, by bit: TREE fields need the vector engine (R216), movers none. An XFR NOP field, which
moves a baton alone, is for either unit of its engine (R145; DESIGN CHOICE, assumption 96). -/
def fieldUnits (eng b : Nat) : List Nat :=
  if eng = 1 then [0]
  else if eng = 2 then [1]
  else if eng = 3 then [2]
  else if eng = 4 then (if rTree b then [1] else [3])
  else if eng = 5 then [4]
  else if eng ≤ 13 then []
  else if fOp4 b = 1 ∨ fOp4 b = 2 then [5]
  else if fOp4 b = 3 ∨ fOp4 b = 4 then [6]
  else [5, 6]

/-- Whether a field needs a unit and a mask of units has none that serves it. -/
def lacksUnit (mask eng b : Nat) : Bool := !(fieldUnits eng b).isEmpty && (fieldUnits eng b).all fun i => !nbit mask i

/-- Whether a field is for a unit that is absent (R145, R347). -/
def absentField (s : State) (u eng b : Nat) : Bool :=
  if isSE u then
    eng == 1 || (eng == 4 && !rTree b) || eng == 5 || decide (10 ≤ eng)
  else lacksUnit (capUnits s u) eng b

/-- CAP_MASK of the running task. -/
def taskCap (s : State) (u : Nat) : Nat := match unitTask s u with | some k => k.desc.capMask | none => 0

/-- A reserved SOP, and on a stack engine the scoreboard and tumbler operations (R118, R347). -/
def badSop (u w : Nat) : Bool := decide (0x11 ≤ qSop w) || (isSE u && decide (0x08 ≤ qSop w ∧ qSop w ≤ 0x0D))

/-- Whether the word is a tumbler operation. -/
def isTum (w : Nat) : Bool := qSop w == 0x0C || qSop w == 0x0D

/-- Amount of a tumbler operation: AMOUNT, or LR[LR] where it is 0 (R431). -/
def tumAmountOf (c : Core) (w : Nat) : Nat :=
  if nmAmount (qImm w) = 0 then (getLr c (qLr w)).toNat else nmAmount (qImm w)

/-- BAD_OPERAND of a tumbler operation (R429, R431): the DETAIL, the name or the value of the loop register. -/
def tumBad (c : Core) (w : Nat) : Option Nat :=
  let n := qImm w
  if nmBad n || nmRemote n || (qSop w == 0x0C && nmReach n) then some n
  else if tumAmountOf c w = 0 ∨ 65535 < tumAmountOf c w then some (tumAmountOf c w)
  else none

/-- Whether a core reaches a tumbler (R429). -/
def tumReach (s : State) (u w : Nat) : Bool :=
  let n := qImm w
  if nmScope n = 1 then (if qSop w = 0x0C then nmUnit n / 8 == unitRegion u else nmUnit n == unitBlock u)
  else if nmScope n = 2 then regionPresent s (nmUnit n)
  else true

/-- Bind the queues of every active field in engine order; engine and DETAIL of the first conflict. Where one field conflicts
in both roles the input's is recorded: R137 gives no order (DESIGN CHOICE, assumption 97). -/
def bindWord : List (Nat × Nat) → Core → Core × Option (Nat × Nat)
  | [], c => (c, none)
  | (e, b) :: t, c =>
    let roles := if 6 ≤ e ∧ e ≤ 13 then [] else (fieldIn e b).map (fun q => (q, true)) ++ (fieldOut e b).map (fun q => (q, false))
    match bindAll e roles c with
    | (c, none) => bindWord t c
    | (c, some d) => (c, some (e, d))

/-- The checks at issue in the order of R145: engine, reason and DETAIL of the first failure. A control-store error has
ENGINE 15, the sequencer (assumption 58). LOOP_DEPTH has DETAIL 0, which the manual leaves open (DESIGN CHOICE, assumption
76). -/
def issueCheck (s : State) (u w : Nat) : Option (Nat × Nat × Nat) :=
  let c := getCore s u
  let fs := activeFields w
  let first := fun (f : Nat → Nat → Option Nat) => fs.findSome? fun p => (f p.1 p.2).map fun d => (p.1, d)
  let cap := if isSE u then 6 else capEntry s u
  let mask := taskCap s u
  let tgt := qTarget w
  (if tabGet 0 c.harm (harmKey 4 0 c.seq.pc) = 2 then some (15, 0x17, c.seq.pc) else none).or <|
  (badReserved w |>.map fun r => (r.1, 0x01, r.2)).or <|
  (if badSop u w then some (0, 0x02, qSop w) else (first badOp).map fun r => (r.1, 0x02, r.2)).or <|
  ((if isTum w then (tumBad c w).map fun d => (0, 0x03, d) else none)).or <|
  ((first (badOperand c)).map fun r => (r.1, 0x03, r.2)).or <|
  (if isTum w && (isMember s u || !tumReach s u w) then some (0, 0x0F, qImm w) else none).or <|
  ((fs.find? fun p => absentField s u p.1 p.2).map fun p => (p.1, 0x04, cap)).or <|
  (if isSE u then none
   else (fs.find? fun p => lacksUnit mask p.1 p.2).map fun p => (p.1, 0x05, mask)).or <|
  (if qSop w = 2 ∧ (tgt ≤ c.seq.pc ∨ c.seq.progWords ≤ tgt ∨ c.seq.loops.head?.any (fun l => decide (l.stop < tgt))) then
     some (0, 0x07, tgt)
   else if (qSop w = 3 ∨ qSop w = 4) ∧ c.seq.progWords ≤ tgt then some (0, 0x07, tgt) else none).or <|
  (if qSop w = 2 ∧ getLr c (qLr w) ≠ 0 ∧ 8 ≤ c.seq.loops.length then some (0, 0x08, 0) else none).or <|
  ((bindWord fs c).2.map fun r => (r.1, 0x09, r.2))

/-- The DMA channels that belong to a core (R327). -/
def coreChannels (s : State) (u : Nat) : List Nat :=
  (rangeFrom 0 16).filter fun ch =>
    fget s fBLK_DMA_CFG_FW (unitBlock u) ch == 0 && fget s fBLK_DMA_CFG_OWNER (unitBlock u) ch == u % 8

/-- Whether a core's own DMA channels are idle or stopped (R48). -/
def dmaQuiet (s : State) (u : Nat) : Bool :=
  (coreChannels s u).all fun ch =>
    let st := fget s fBLK_DMA_STATUS_STATE (unitBlock u) ch
    st == 0 || st == 3

/-- Whether no hinge operation of a core is queued or running. -/
def hingeQuiet (s : State) (u : Nat) : Bool :=
  let b := getBlock s (unitBlock u)
  b.hingeQ.all (fun h => h.core != u) && b.hingeRun.all (fun h => h.core != u)

/-- Whether a write-back mover has a request on its way, or a beat that waits in its queue (R118). -/
def moverOwes (c : Core) (x : Mover) : Bool :=
  x.kind == 1 && (x.req.isSome || !x.part.isEmpty ||
    (x.st == .running && (getQ c x.queue).items.any fun i => match i with | .beat _ => true | .baton _ => false))

/-- Whether every earlier field has retired and every earlier write has been accepted by its target: those of the movers, of
the hinge network and of the core's DMA channels (R48, R118). -/
def quiet (s : State) (u : Nat) : Bool :=
  let c := getCore s u
  c.fq.isEmpty && c.batch.isNone && c.movers.all (fun e => !moverOwes c e.2) && (isSE u || (dmaQuiet s u && hingeQuiet s u))

/-- The end test of R132: next word and loop stack, innermost first. -/
def endTest (p : Nat) : List LoopEnt → Nat × List LoopEnt
  | [] => (p + 1, [])
  | l :: t =>
    if l.stop ≠ p then (p + 1, l :: t)
    else if l.left ≤ 1 then endTest p t
    else (l.start, { l with left := l.left - 1 } :: t)

/-- Loops left by a branch are dropped (R134). -/
def leaveLoops (tgt : Nat) : List LoopEnt → List LoopEnt
  | [] => []
  | l :: t => if l.start ≤ tgt ∧ tgt ≤ l.stop then l :: t else leaveLoops tgt t

/-- How the operation of a word ends. -/
inductive SeqRes
  | go (s : State)
  /-- Issue stalls; the state carries the wait flag. -/
  | stall (s : State)
  | halt (s : State) (reason detail : Nat)

/-- Move on to the next word in order (R132). -/
def stepPc (s : State) (u : Nat) : State :=
  updSeq s u fun q => let r := endTest q.pc q.loops; { q with pc := r.1, loops := r.2 }

/-- A taken branch (R134). -/
def branchTo (s : State) (u tgt : Nat) : State := updSeq s u fun q => { q with pc := tgt, loops := leaveLoops tgt q.loops }

/-- Send the active fields of a word to their engines (R127). -/
def enqueueFields (s : State) (u w pc : Nat) : State :=
  let fs := activeFields w
  updCore s u fun c =>
    let c := (bindWord fs c).1
    let c := fs.foldl (fun c p => pushFq c p.1 ⟨p.2, pc, c.seq.issueNo⟩) c
    { c with seq := { c.seq with issueNo := c.seq.issueNo + 1 } }

/-- The wait flags of R150: issue stalls on one thing at a time, or on none. -/
def setWaits (sb sum tum full : Bool) (q : Seq) : Seq := { q with waitSb := sb, waitSum := sum, waitTum := tum, qFull := full }

/-- Waits of a word before it issues, with the flags they show: a summary that is not valid (R135), a fence (R118, R142,
R430), a full field queue (R127). A reserved SOP waits for no fence (R347). -/
def issueWait (s : State) (u w : Nat) : Option (Seq → Seq) :=
  let c := getCore s u
  let sop := qSop w
  if (sop = 4 ∨ sop = 7 ∨ sop = 0x0F) ∧ !sumValid c (qSum w) then some (setWaits false true false false)
  else if (sop = 0x08 ∨ sop = 0x0C ∨ sop = 0x0E) ∧ !badSop u w ∧ !quiet s u then some (setWaits false false false false)
  else if (activeFields w).any fun p => decide (16 ≤ (getFq c p.1).length) then some (setWaits false false false true)
  else none

/-- The word at PC of a running sequencer; a thermal trip has stopped issue on every unit (R591). -/
def curWord (s : State) (u : Nat) : Option Nat :=
  let q := (getCore s u).seq
  if s.part.thermTrip = false ∧ q.st = .running ∧ !q.ended ∧ q.pc < q.progWords then some (tabGet 0 q.cstore q.pc) else none

/-- Issue the word at PC when its SOP is the command's: wait, check, operate, send its fields (R127, R145). A word whose
tumbler wait is pending has already been checked. -/
def issueWord (s : State) (u : Nat) (mine : Nat → Bool) (op : State → Nat → SeqRes) : State :=
  match curWord s u with
  | none => s
  | some w =>
    if !mine w then s
    else
      let c := getCore s u
      let pc := c.seq.pc
      let finish := fun (s : State) =>
        match op s w with
        | .go s =>
          let s := updSeq s u (setWaits false false false false)
          settleNops (enqueueFields s u w pc) u
        | .stall s => s
        | .halt s r d => haltUnit s u r 0 pc d
      if c.seq.tumPending.isSome then finish s
      else
        match issueWait s u w with
        | some f => updSeq s u f
        | none =>
          match issueCheck s u w with
          | some (e, r, d) => haltUnit s u r e pc d
          | none => finish s

/-! ## Operations (R118) -/

def isSop (k : Nat) (w : Nat) : Bool := qSop w == k

/-- NOP, which also takes reserved SOP values and, past the program's last word, PC_RANGE (R149). -/
def issueNop (s : State) (u : Nat) : State :=
  let q := (getCore s u).seq
  if s.part.thermTrip = false ∧ q.st = .running ∧ !q.ended ∧ q.progWords ≤ q.pc then haltUnit s u 0x06 15 (q.progWords - 1) q.progWords
  else issueWord s u (fun w => qSop w == 0 || decide (0x11 ≤ qSop w)) fun s _ => .go (stepPc s u)

/-- END (R130). -/
def opEnd (u : Nat) (s : State) (_ : Nat) : SeqRes := .go (updSeq s u fun q => { q with ended := true })

/-- LOOP (R132). -/
def opLoop (u : Nat) (s : State) (w : Nat) : SeqRes :=
  let n := (getLr (getCore s u) (qLr w)).toNat
  .go <| updSeq s u fun q =>
    if n = 0 then let r := endTest (qTarget w) q.loops; { q with pc := r.1, loops := r.2 }
    else { q with pc := q.pc + 1, loops := ⟨q.pc + 1, qTarget w, n⟩ :: q.loops }

/-- BRANCH (R134). -/
def opBranch (u : Nat) (s : State) (w : Nat) : SeqRes := .go (branchTo s u (qTarget w))

/-- BRANCH_IF (R119, R135). -/
def opBranchIf (u : Nat) (s : State) (w : Nat) : SeqRes :=
  if condHolds (qCond w) (getSum (getCore s u) (qSum w)) (BitVec.ofNat 32 (qImm w)) then .go (branchTo s u (qTarget w))
  else .go (stepPc s u)

/-- Set a loop register and move on. -/
def setLr (s : State) (u i : Nat) (v : Word) : State := updSeq s u fun q => { q with lr := tabSet 0 q.lr i v }

def opLrSet (u : Nat) (s : State) (w : Nat) : SeqRes := .go (stepPc (setLr s u (qLr w) (BitVec.ofNat 32 (qImm w))) u)
def opLrAdd (u : Nat) (s : State) (w : Nat) : SeqRes :=
  .go (stepPc (setLr s u (qLr w) (getLr (getCore s u) (qLr w) + BitVec.ofNat 32 (qImm w))) u)
def opLrFromSum (u : Nat) (s : State) (w : Nat) : SeqRes :=
  .go (stepPc (setLr s u (qLr w) (getSum (getCore s u) (qSum w))) u)

/-- SUM_POST (R118, R136). -/
def opSumPost (u : Nat) (s : State) (w : Nat) : SeqRes :=
  .go (stepPc (updCore s u fun c =>
    { c with seq := { c.seq with results := tabSet 0 c.seq.results (qImm w % 8) (getSum c (qSum w)) } }) u)

def opFence (u : Nat) (s : State) (_ : Nat) : SeqRes := .go (stepPc s u)

/-- HALT (R118, R149). -/
def opHalt (s : State) (w : Nat) : SeqRes := .halt s 0x15 (qImm w)

/-! ### The scoreboard (R141, R142) -/

def getSb (s : State) (b r : Nat) : SbRegion := tabGet sbReset (getBlock s b).sb r
def putSb (s : State) (b r : Nat) (x : SbRegion) : State := updBlock s b fun y => { y with sb := tabSet sbReset y.sb r x }

/-- RELEASED: the least count over the consumers, POSTED when there is none (R141). -/
def sbReleased (x : SbRegion) : Nat :=
  ((rangeFrom 0 8).filter fun c => nbit x.consumers c).foldl (fun m c => min m (tabGet 0 x.rel c)) x.posted

/-- A scoreboard operation: range, then role (R142), then its effect. -/
def sbOp (u : Nat) (producer : Bool) (f : State → SbRegion → SeqRes) (s : State) (w : Nat) : SeqRes :=
  let r := qImm w % 256
  let x := getSb s (unitBlock u) r
  let me := u % 8
  if !x.valid then .halt s 0x0C r
  else if (if producer then x.producer ≠ me else !nbit x.consumers me) then .halt s 0x0D r
  else f s x

/-- The task waits on a region: it becomes a consumer of the producer (R144). -/
def noteSb (s : State) (u : Nat) (x : SbRegion) : State :=
  updTask s (runSlot s u) fun k => { k with rdUnits := insNat k.rdUnits (unitBlock u * 8 + x.producer) }

def opSbPost (u : Nat) (s : State) (w : Nat) : SeqRes :=
  sbOp u true (fun s x =>
    if x.posted = 255 then .halt s 0x0C (qImm w % 256)
    else .go (stepPc (putSb s (unitBlock u) (qImm w % 256) { x with posted := x.posted + 1 }) u)) s w

def opSbWait (u : Nat) (s : State) (w : Nat) : SeqRes :=
  sbOp u false (fun s x =>
    let n := nbits (qImm w) 8 8
    let s := noteSb s u x
    if (if n = 0 then tabGet 0 x.rel (u % 8) < x.posted else n ≤ x.posted) then .go (stepPc s u)
    else .stall (updSeq s u (setWaits true false false false))) s w

def opSbRelease (u : Nat) (s : State) (w : Nat) : SeqRes :=
  sbOp u false (fun s x =>
    let k := tabGet 0 x.rel (u % 8)
    if k = x.posted then .halt s 0x0C (qImm w % 256)
    else .go (stepPc (putSb s (unitBlock u) (qImm w % 256) { x with rel := tabSet 0 x.rel (u % 8) (k + 1) }) u)) s w

def opSbWaitFree (u : Nat) (s : State) (w : Nat) : SeqRes :=
  sbOp u true (fun s x =>
    if x.posted - sbReleased x ≤ nbits (qImm w) 8 8 then .go (stepPc s u)
    else .stall (updSeq s u (setWaits true false false false))) s w

/-! ### Tumblers (R430, R432) -/

def opTumSignal (u : Nat) (s : State) (w : Nat) : SeqRes :=
  let r := tumSignal s (tumRefOf (unitBlock u) (qImm w)) (tumAmountOf (getCore s u) w) u 0 (runSlot s u)
  if r.2 then .halt r.1 0x13 (qImm w) else .go (stepPc r.1 u)

def opTumWait (u : Nat) (s : State) (w : Nat) : SeqRes :=
  let q := (getCore s u).seq
  let s :=
    if q.tumPending.isSome then s
    else
      let n := qImm w
      let amt := tumAmountOf (getCore s u) w
      let s := updSeq s u fun q => setWaits false false true false { q with tumPending := some n, tumAmount := amt, tumPassed := false }
      tumArrive s (tumRefOf (unitBlock u) n) ⟨u, runSlot s u, amt, !nmReach n⟩
  if (getCore s u).seq.tumPassed then
    .go (stepPc (updSeq s u fun q => { q with tumPending := none, tumAmount := 0, tumPassed := false }) u)
  else .stall s

def execNop (u : Nat) (s : State) : Host.Outcome State Fault Refusal := .next (issueNop s u)
def execEndTask (u : Nat) (s : State) : Host.Outcome State Fault Refusal := .next (issueWord s u (isSop 0x01) (opEnd u))
def execLoop (u : Nat) (s : State) : Host.Outcome State Fault Refusal := .next (issueWord s u (isSop 0x02) (opLoop u))
def execBranch (u : Nat) (s : State) : Host.Outcome State Fault Refusal := .next (issueWord s u (isSop 0x03) (opBranch u))
def execBranchIf (u : Nat) (s : State) : Host.Outcome State Fault Refusal := .next (issueWord s u (isSop 0x04) (opBranchIf u))
def execLrSet (u : Nat) (s : State) : Host.Outcome State Fault Refusal := .next (issueWord s u (isSop 0x05) (opLrSet u))
def execLrAdd (u : Nat) (s : State) : Host.Outcome State Fault Refusal := .next (issueWord s u (isSop 0x06) (opLrAdd u))
def execLrFromSum (u : Nat) (s : State) : Host.Outcome State Fault Refusal := .next (issueWord s u (isSop 0x07) (opLrFromSum u))
def execSbPost (u : Nat) (s : State) : Host.Outcome State Fault Refusal := .next (issueWord s u (isSop 0x08) (opSbPost u))
def execSbWait (u : Nat) (s : State) : Host.Outcome State Fault Refusal := .next (issueWord s u (isSop 0x09) (opSbWait u))
def execSbRelease (u : Nat) (s : State) : Host.Outcome State Fault Refusal := .next (issueWord s u (isSop 0x0A) (opSbRelease u))
def execSbWaitFree (u : Nat) (s : State) : Host.Outcome State Fault Refusal := .next (issueWord s u (isSop 0x0B) (opSbWaitFree u))
def execTumSignal (u : Nat) (s : State) : Host.Outcome State Fault Refusal := .next (issueWord s u (isSop 0x0C) (opTumSignal u))
def execTumWait (u : Nat) (s : State) : Host.Outcome State Fault Refusal := .next (issueWord s u (isSop 0x0D) (opTumWait u))
def execFence (u : Nat) (s : State) : Host.Outcome State Fault Refusal := .next (issueWord s u (isSop 0x0E) (opFence u))
def execSumPost (u : Nat) (s : State) : Host.Outcome State Fault Refusal := .next (issueWord s u (isSop 0x0F) (opSumPost u))
def execHalt (u : Nat) (s : State) : Host.Outcome State Fault Refusal := .next (issueWord s u (isSop 0x10) opHalt)

/-! ## Task start (R129, R603) -/

/-- Stream record that a task binding it reads: its epoch's where one holds it, else the committed one (R263, R264). -/
def streamFor (s : State) (k : LapTask) (n : Nat) : RStream :=
  let com := tabGet rstreamReset (getRegion s (n / 8192)).streams (n % 8192)
  if k.spec then
    match (getBlock s (k.unit / 8)).epochs.find? (fun e =>
        e.2.st != 0 && e.2.graph == k.graph && e.2.guard == k.desc.guardId && e.2.epoch == k.desc.specEpoch) with
    | some (_, e) => (e.streams.lookup n).getD com
    | none => com
  else com

/-- The engines of a unit at task start (R129, R175, R180, R201, R219, R227): everything but the core store, the loaded
program, the bits of the weight store and the unit's own standing. The rows of a stack engine's staging area are unwritten too
(R349). The errors of accumulator rows stay until a row is written or zeroed, and a cleared slot shows format 0 (DESIGN CHOICE,
assumption 108). -/
def freshCore (se : Bool) (c : Core) : Core :=
  { c with
    store := if se then [] else c.store
    harm := if se then mendRange c.harm (harmKey 0 0 0) (harmKey 1 0 0) else c.harm
    seq := { seqReset with st := .running, prog := c.seq.prog, progWords := c.seq.progWords, loaded := c.seq.loaded,
                           cstore := c.seq.cstore, haltRec := c.seq.haltRec }
    slots := (c.slots.map fun e => (e.1, { e.2 with st := .empty, cursor := 0, fmt := 0 })).filter fun e => decide (e.2 ≠ wslotReset)
    fq := [], queues := [], masks := [], cache := [], acc := [], bp := [], batch := none, row := none, h := [],
    chunkDone := 0, asm := [], asmOpen := false, movers := [], rands := [], ctrs := [], arms := [], energySnap := energySum c.energy }

/-- Counters of the current or latest task, cleared at task start (R197, R225, R250, R294, R343, R366). -/
def clearCounts (s : State) (u : Nat) : State :=
  let s := updCore s u fun c => { c with conf := [] }
  if isSE u then fput s fSE_LANE_CYCLES_COUNT (u - 512) 0 0
  else [fCORE_MTX_ARRAY_CYCLES_COUNT, fCORE_MTX_BATCH_STAT_FULL_CLOSES, fCORE_MTX_BATCH_STAT_TIMEOUT_CLOSES,
    fCORE_VEC_CYCLES_COUNT, fCORE_SCN_STEPS_COUNT, fCORE_SFU_COUNT_COUNT, fCORE_STM_MERGED_COUNT].foldl
      (fun s f => fput s f u 0 0) s

/-- 512-bit words of a program. -/
def wordsOf : Nat → Bytes → List Nat
  | 0, _ => []
  | n + 1, b => leNat (b.take 64) :: wordsOf n (b.drop 64)

/-- Keys 0, 1, 2, ... for the entries that differ from 0. -/
def denseTab (l : List Nat) : Tab Nat := ((rangeFrom 0 l.length).zip l).filter fun e => decide (e.2 ≠ 0)

/-- Arm the movers of the AT_START entries (R319); a binding conflict halts before any word issues, with the mover's ENGINE and
PC 0, which R137 does not give (DESIGN CHOICE, assumption 98). -/
def armAll (u : Nat) : List Nat → State → State × Option (Nat × Nat)
  | [], s => (s, none)
  | e :: t, s =>
    if nbit e 3 then
      match armMover s u (nbits e 0 3) e with
      | (s, none) => armAll u t s
      | (s, some d) => (s, some (6 + nbits e 0 3, d))
    else armAll u t s

/-- Bind the random slots of an arm-list header (R263, R316). -/
def bindRands (s : State) (u : Nat) (k : LapTask) (hdr : Nat) : State :=
  (rangeFrom 0 8).foldl (fun s i =>
    if nbit hdr (32 * i + 16) then
      let n := nbits hdr (32 * i) 16
      let s := readSystem s (n / 8192) .streams
      let x := streamFor s k n
      let s := updCore s u fun c => { c with
        rands := tabSet none c.rands i (some ⟨n, x.valid⟩)
        ctrs := tabSet randCtrReset c.ctrs n ⟨x.key, x.counter, x.wrapped, false⟩ }
      updTask s k.slot fun k => { k with bound := insNat k.bound n }
    else s) s

/-- The placed task that a unit starts next: the first of the lap, in admission order, that has neither started nor
ended (R95, R129). -/
def nextTask (s : State) (u : Nat) : Option LapTask :=
  s.lap.cur.find? fun k => k.unit == u && !k.started && k.outcome.isNone

/-- Whether a unit may start a task: lap service between first issue and the lap mark, with a part manager, idle, alive (R29,
R46, R47). -/
def mayStart (s : State) (u : Nat) : Bool :=
  let c := getCore s u
  decide (s.lap.phase = .issuing) && s.part.manager.isSome && c.seq.st == .idle && (if isSE u then !c.deadbolted && regionAlive s (unitRegion u) else !isCut s 0 u)

/-- At task start the head of every channel of the core is 0 (R327). -/
def resetChannels (s : State) (u : Nat) : State :=
  if isSE u then s
  else (coreChannels s u).foldl (fun s ch =>
    let b := unitBlock u
    fput (fput (updBlock s b fun x => { x with dma := tabSet dmaReset x.dma ch dmaReset })
      fBLK_DMA_STATUS_HEAD b ch 0) fBLK_DMA_STATUS_STATE b ch 0) s

/-- The words of a program go into the control store, which is written whole (R129). -/
def loadProgram (s : State) (u : Nat) (d : TaskDesc) (b : Bytes) : State :=
  updCore s u fun c => { c with
    seq := { c.seq with loaded := true, prog := d.program, progWords := d.programWords, cstore := denseTab (wordsOf d.programWords b) }
    harm := mendRange c.harm (harmKey 4 0 0) (harmKey 4 0 d.programWords) }

/-- Whether the words in a core's control store serve a task as they are (R129). -/
def reusable (c : Core) (d : TaskDesc) : Bool := c.seq.loaded && c.seq.prog == d.program && c.seq.progWords == d.programWords

/-- A unit and its task as the task starts (R129): engines, counters and channels are cleared. When it starts in the lap is a
free value. -/
def beginTask (s : State) (u : Nat) (k : LapTask) : State :=
  let t := drawFree (resetChannels (clearCounts (setCore s u { freshCore (isSE u) (getCore s u) with task := some k.slot, lastTask := some k.slot }) u) u)
  updTask t.2 k.slot fun k => { k with started := true, startNs := t.1 }

/-- A start that fails halts the sequencer at PC 0 (R603). -/
def failStart (s : State) (u reason a : Nat) : State := haltUnit s u reason 15 0 a

/-- No words stand in the control store for a later task to use. -/
def unload (s : State) (u : Nat) : State := updSeq s u fun q => { q with loaded := false }

/-- The program is read, unless the control store holds it already (R129, R603). -/
def readProgram (s : State) (u : Nat) (d : TaskDesc) (reuse : Bool) : State :=
  if reuse then s
  else
    let q := taskRead s d.program (64 * d.programWords)
    match q.2 with
    | .range a => failStart (unload q.1 u) u 0x0F a
    | .bus a => failStart (unload q.1 u) u 0x16 a
    | .ok b => loadProgram q.1 u d b

/-- The tensor descriptors that movers armed at task start take are read as the arm list is (R298, R603; DEDUCED, assumption 124). -/
def readDescs : List Nat → State → State × TaskRead
  | [], s => (s, .ok [])
  | e :: t, s =>
    if nbit e 3 then
      let q := descRead s e
      match q.2 with
      | .ok _ => readDescs t q.1
      | _ => q
    else readDescs t s

/-- The arm list is read, its random streams are bound and its movers armed (R316 to R319). -/
def armTask (s : State) (u : Nat) (k : LapTask) : State :=
  let q := taskRead s k.desc.armList (64 + 128 * k.desc.armCount)
  match q.2 with
  | .range a => failStart q.1 u 0x0F a
  | .bus a => failStart q.1 u 0x16 a
  | .ok b =>
    let arms := (blocksOf 128 k.desc.armCount (b.drop 64)).map leNat
    let d := readDescs arms q.1
    match d.2 with
    | .range a => failStart d.1 u 0x0F a
    | .bus a => failStart d.1 u 0x16 a
    | .ok _ =>
      let r := armAll u arms (updCore (bindRands d.1 u k (leNat (b.take 64))) u fun c => { c with arms := arms })
      match r.2 with
      | none => r.1
      | some e => haltUnit r.1 u 0x09 e.1 0 e.2

/-- A task's program and its arm list; a program that cannot be read leaves the arm list unread. -/
def loadTask (s : State) (u : Nat) (k : LapTask) (reuse : Bool) : State :=
  let t := readProgram s u k.desc reuse
  if (getCore t u).seq.st = .halted then t else armTask t u k

/-- TASK_START (R129, R603). The words in the control store are used again where the task before on the unit named the same
program and loaded it. -/
def taskStart (s : State) (u : Nat) : State :=
  if !mayStart s u then s
  else
    match nextTask s u with
    | none => s
    | some k =>
      if k.filler then unload (beginTask s u k) u else loadTask (beginTask s u k) u k (reusable (getCore s u) k.desc)

def execTaskStart (u : Nat) (s : State) : Host.Outcome State Fault Refusal := .next (taskStart s u)

/-! ## Task finish (R48, R130) -/

/-- Whether every held frame of a slot in this lap has its fill copy and parity (R48, R285). -/
def framesFilled (s : State) (slot : Nat) : Bool :=
  s.regions.all fun r => r.2.pt.all fun e => e.2.helds.all fun h =>
    h.filled || !(h.slot == slot && h.lap == s.lap.num % 65536)

/-- Whether the task of a unit has finished (R48, R130). -/
def hasFinished (s : State) (u : Nat) : Bool :=
  let c := getCore s u
  match c.task with
  | none => false
  | some slot =>
    c.seq.st == .running && c.seq.ended && quiet s u && c.movers.all (fun e => !(e.2.kind == 1 && e.2.st == .running)) &&
      framesFilled s slot

/-- TASK_FINISH (R48, R103, R130, R136, R264): the unit's counters move by what it has counted, and the task's energy is what
they gained since the snapshot at its start. Spin filler has no program of its own to retire (R106). -/
def taskFinish (s : State) (u activeNs energyNj : Nat) : State :=
  let c := getCore s u
  match unitTask s u with
  | none => s
  | some k =>
    if !(hasFinished s u || (k.filler && c.seq.st == .running)) then s
    else
      let moved := c.ctrs.filterMap fun e =>
        if e.2.moved then some (e.1, (⟨e.2.key, e.2.counter, true, e.2.wrapped⟩ : RStream)) else none
      let s := spend (setCore s u { c with
        seq := { c.seq with st := .idle, ended := false, waitSb := false, waitSum := false, waitTum := false, qFull := false }
        queues := []
        movers := c.movers.map fun e =>
          (e.1, { e.2 with st := if e.2.st = .unarmed then .unarmed else .armed, req := none, due := false })
        row := none, asm := [], asmOpen := false, task := none }) u energyNj
      updTask s k.slot fun k => { k with
        finished := true, activeNs := activeNs, energyNj := energySum c.energy + energyNj - c.energySnap, results := c.seq.results, streams := moved }

def execTaskFinish (u activeNs energyNj : Nat) (s : State) : Host.Outcome State Fault Refusal :=
  .next (taskFinish s u activeNs energyNj)

/-! ## The sequencer's control registers (R151, R365) -/

/-- Whether a unit, or what encloses it, is deadbolted: a write of its registers is ignored without report (R548). -/
def unitCut (s : State) (u : Nat) : Bool := if isSE u then isCut s 3 (u - 512) || !regionAlive s (unitRegion u) else isCut s 0 u

/-- HALT_CLEAR: a halted unit becomes idle. -/
def haltClear (s : State) (u : Nat) : State :=
  if unitCut s u = false ∧ (getCore s u).seq.st = .halted then updSeq s u fun q => { q with st := .idle } else s

/-- FORCE_HALT: a running unit halts with EXTERNAL; no word faults, so PC is that of the next word to issue (R148; DESIGN CHOICE,
assumption 118). -/
def forceHalt (s : State) (u level : Nat) (bar0 : Bool) : State :=
  let c := getCore s u
  if unitCut s u = false ∧ c.seq.st = .running then haltUnit s u 0x1A 15 c.seq.pc (externalDetail level bar0 false false) else s

/-- ENGINE_RESET: an idle or halted engine returns to its reset state, its registers included, except its halt
record (R365); what stays belongs to the fence and to firmware. -/
def engineReset (s : State) (e : Nat) : State :=
  let c := getCore s (512 + e)
  if unitCut s (512 + e) = false ∧ (c.seq.st = .idle ∨ c.seq.st = .halted) then
    let s := setCore s (512 + e) { coreReset with
      seq := { seqReset with haltRec := c.seq.haltRec }, deadbolted := c.deadbolted,
      lastHaltLap := c.lastHaltLap, lastTask := c.lastTask }
    let other := fun (k : Nat) => decide (k / (65536 * 65536 * 32) ≠ spaceIdx .se * 1024 + e)
    { s with flds := s.flds.filter fun x => other x.1, shadows := s.shadows.filter fun x => other x.1 }
  else s

def execHaltClear (c : Nat) (s : State) : Host.Outcome State Fault Refusal := .next (haltClear s c)
def execForceHalt (c level : Nat) (fromBar0 : Bool) (s : State) : Host.Outcome State Fault Refusal :=
  .next (forceHalt s c level fromBar0)
def execSeHaltClear (e : Nat) (s : State) : Host.Outcome State Fault Refusal := .next (haltClear s (512 + e))
def execSeForceHalt (e level : Nat) (fromBar0 : Bool) (s : State) : Host.Outcome State Fault Refusal :=
  .next (if (getCore s (512 + e)).deadbolted then s else forceHalt s (512 + e) level fromBar0)
def execEngineReset (e : Nat) (s : State) : Host.Outcome State Fault Refusal := .next (engineReset s e)

end Sys2Proof.Machine
end

