-- ==== Sys2Proof/Machine/LinkOps.lean ====
section
/-! DEFINITION. What sends on the Drivezar link: ports, flits, replay buffers (R447 to
R458), routing (R461 to R464), segments and control records (R452 to R456), lost partners (R72). -/

namespace Sys2Proof.Machine

/-! ## Ports -/

/-- A field of a port's registers: port numbers are part-wide (R19, R474). -/
def pget (s : State) (f : Fld) (p : Nat) : Nat := fget s f (p / 4) p
def pput (s : State) (f : Fld) (p v : Nat) : State := fput s f (p / 4) p v
def pbump (s : State) (f : Fld) (p k : Nat) : State := fbump s f (p / 4) p k

def getPort (s : State) (p : Nat) : Port := tabGet portReset s.link.ports p
def setPort (s : State) (p : Nat) (x : Port) : State :=
  { s with link := { s.link with ports := tabSet portReset s.link.ports p x } }
def updPort (s : State) (p : Nat) (f : Port → Port) : State := setPort s p (f (getPort s p))

/-- STATE of a port (R474). -/
def portState (s : State) (p : Nat) : Nat := pget s fDZL_PORT_STATUS_STATE p

/-- UP, on a region that no deadbolt has cut. -/
def portUp (s : State) (p : Nat) : Bool := portState s p == 2 && regionAlive s (p / 4)

/-- Domain of a part ID (R461). -/
def domainOf (id : Nat) : Nat := id / 32768 % 4

/-- Gateway member of a region toward a domain (R462). -/
def gateway (s : State) (r d : Nat) : Nat :=
  fget s (match d with | 0 => fRGN_DZL_GW0_MEMBER | 1 => fRGN_DZL_GW1_MEMBER | 2 => fRGN_DZL_GW2_MEMBER | _ => fRGN_DZL_GW3_MEMBER) r 0

/-- Candidate ports toward a part (R462). -/
def routePorts (s : State) (r dst : Nat) : List Nat :=
  let m := if domainOf dst = domainOf (selfId s) then dst % 32768 else gateway s r (domainOf dst)
  let e := fget s fRGN_DZL_ROUTE_ENTRY r m
  ((rangeFrom 0 4).filterMap fun i => if nbit e (20 + i) then some (nbits e (5 * i) 5) else none).filter (portUp s)

/-- Flits of a class that wait on a port. -/
def waiting (s : State) (cls p : Nat) : Nat := ((getPort s p).tx.filter fun f => f.2.cls == cls).length

/-- Port of the candidates that R464 takes: the shortest queue of the class, the first for CONTROL. -/
def choosePort (s : State) (cls : Nat) : List Nat → Option Nat
  | [] => none
  | p :: t =>
    if cls = 0 then some p
    else some (t.foldl (fun b q => if waiting s cls q < waiting s cls b then q else b) p)

/-- Order in which a port serves flits: markers, then CONTROL, URGENT and BULK (R458, R466). -/
def flitRank (f : Flit) : Nat := if f.ftype = 4 then 0 else 1 + f.cls

/-- Whether the replay buffer has an entry for a flit (R457). -/
def replayRoom (x : Port) (f : Flit) : Bool :=
  if f.ftype = 3 ∨ f.ftype = 4 then decide (x.replay.length < 1024) else decide (x.replay.length < 960)

/-- Whether a waiting flit goes before another that waits longer: by its rank, and within BULK by the PRIO of its segment (R458). -/
def flitBefore (a b : Nat × Flit) : Bool :=
  decide (flitRank a.2 < flitRank b.2) || (flitRank a.2 == flitRank b.2 && a.2.cls == 2 && decide (b.1 < a.1))

/-- The next flit that a port may send, with its PRIO. -/
def nextFlit (x : Port) : Option (Nat × Flit) :=
  (x.tx.filter fun e => replayRoom x e.2).foldl (fun (b : Option (Nat × Flit)) f =>
    match b with
    | none => some f
    | some g => if flitBefore f g then some f else some g) none

/-- Bytes padded with zeros to a length. -/
def padBytes (n : Nat) (b : Bytes) : Bytes := b ++ List.replicate (n - b.length) 0

/-- The 256 bytes of a flit on a link: header, payload, CRC-32C (R450). -/
def flitBytes (seq ack : Nat) (nak : Bool) (f : Flit) : Bytes :=
  let head := f.ftype % 16 + f.cls % 4 * 2 ^ 4 + b2n f.last * 2 ^ 6 + b2n nak * 2 ^ 7 + seq % 4096 * 2 ^ 8 + ack % 4096 * 2 ^ 20 +
    f.dst % 2 ^ 17 * 2 ^ 32 + f.src % 2 ^ 17 * 2 ^ 49 + f.hops % 64 * 2 ^ 66 + f.valid % 16 * 2 ^ 72 + f.vc % 2 * 2 ^ 76 + f.seg % 4096 * 2 ^ 77
  let body := natLe 12 head ++ padBytes 240 f.payload
  body ++ natLe 4 (crc32c body)

/-- A flit leaves on a port. The commands do not say which flit was received last in order there, so its ACK is a free value
(assumption 48). -/
def putFlit (s : State) (p seq : Nat) (f : Flit) : State :=
  let t := drawFree s
  emit t.2 (.flit p (flitBytes seq t.1 false f))

/-- IDLE and ECHO flits (R451): no content, and no SEQ of their own; an IDLE carries SEQ and ACK only. -/
def idleFlit : Flit := ⟨0, 0, false, 0, 0, 0, 0, 0, 0, []⟩
def echoFlit (s : State) : Flit := ⟨5, 0, false, 0, selfId s, 0, 0, 0, 0, []⟩

/-- Send waiting flits of a port in the state UP while the replay buffer has room (R457, R458). -/
def pump (p : Nat) : Nat → State → State
  | 0, s => s
  | n + 1, s =>
    if !portUp s p then s
    else
      let x := getPort s p
      match nextFlit x with
      | none => s
      | some f => pump p n (putFlit (setPort s p { x with
          tx := x.tx.erase f, replay := x.replay ++ [(x.seq, f.2)], seq := (x.seq + 1) % 4096 }) p x.seq f.2)

/-- Send what waits, then an IDLE flit: nothing waits any more, or the replay buffer has no room for what does (R451, R457). One stands
for the run of them until something else goes (assumption 48). -/
def pumpAll (s : State) (p : Nat) : State :=
  let s := pump p (getPort s p).tx.length s
  if portUp s p then putFlit s p (getPort s p).seq idleFlit else s

/-- Hand flits of one PRIO to a port: they leave at once where they may; a dateline port moves them to VC 1 (R463). -/
def portSend (s : State) (p prio : Nat) (fs : List Flit) : State :=
  let fs := if pget s fDZL_PORT_CFG_DATELINE p = 1 then fs.map fun f => { f with vc := 1 } else fs
  pumpAll (updPort s p fun x => { x with tx := x.tx ++ fs.map fun f => (prio, f) }) p

/-! ## Lost partners -/

/-- Exchanges that a re-run takes from resend windows (R75): part, exchange ID, lap. -/
def resentTo (s : State) (k : LapTask) : List (Nat × Nat × Nat) :=
  ((s.graphs.find? fun g => g.id == k.graph).map fun g => (tabGet gtaskReset g.st k.desc.index).resent).getD []

/-- Whether a task consumes an exchange from a part, sent in its lap or resent. -/
def consumesFrom (s : State) (k : LapTask) (p : Nat) : Bool := k.xin.any (fun x => x.1 == p) || (resentTo s k).any fun x => x.1 == p

/-- Tasks that have not started end where they would consume an exchange from a part (R72): outcome PARTNER_LOST. -/
def dropConsumers (s : State) (p : Nat) (ts : List LapTask) : List LapTask :=
  ts.map fun k => if !k.started && consumesFrom s k p then endTask k 6 else k

/-- Declare a partner lost (R72): no task of the lap that consumes from it starts any more, and class PARTNER_LOST, then ESCALATION,
reaches the driver (R498, R536; the cause of the second record is a DESIGN CHOICE, assumption 131). This part's snapshots are then
unprotected where the newest lies there (R535). -/
def partnerLost (s : State) (p : Nat) : State :=
  if hasNat s.lap.lost p then s
  else
    let s := updLap s fun l => { l with lost := insNat l.lost p, cur := dropConsumers s p l.cur }
    let s := errPart s (errRecord s 6 3 0x14 0 8 7 p)
    let s := errPart s (errRecord s 0xA 3 0x14 0 8 7 p)
    if s.snap.holder = some p then
      errPart (fput s fPART_SNAP_STATUS_UNPROTECTED 0 0 1) (errRecord s 0xC 3 0x22 0 8 0 p)
    else s

/-! ## Control records (R456) -/

/-- A CONTROL flit with up to seven records, as types and words: an index, then the records from byte 16 (R456). -/
def controlFlit (src dst : Nat) (rs : List (Nat × BitVec 256)) : Flit :=
  let index := ((rangeFrom 0 7).zip rs).foldl (fun a e => a + e.2.1 % 16 * 2 ^ (4 + 4 * e.1)) rs.length
  ⟨3, 0, true, dst, src, 0, 0, 0, 0, padBytes 240 (natLe 16 index ++ rs.flatMap fun r => natLe 32 r.2.toNat)⟩

/-- The records of a CONTROL flit (R456). -/
def flitRecords (f : Flit) : List (Nat × BitVec 256) :=
  let index := leNat (f.payload.take 8)
  (rangeFrom 0 (nbits index 0 3)).map fun i => (nbits index (4 + 4 * i) 4, BitVec.ofNat 256 (leNat ((f.payload.drop (16 + 32 * i)).take 32)))

/-- CONTROL flits for records bound for one part, up to seven in a flit (R471). -/
def controlFlits (src dst : Nat) : Nat → List (Nat × BitVec 256) → List Flit
  | 0, _ => []
  | n + 1, rs => if rs.isEmpty then [] else controlFlit src dst (rs.take 7) :: controlFlits src dst n (rs.drop 7)

/-- A CONTROL flit of this part that waits for a part and has room for a record. -/
def openControl (s : State) (dst : Nat) (e : Nat × Flit) : Bool :=
  e.2.ftype == 3 && e.2.src == selfId s && e.2.dst == dst && decide ((flitRecords e.2).length < 7)

/-- Send control records to a part, packed with those that wait for it; a partner with no candidate port is unreachable (R465,
R471). A bench re-run discards them (R544). -/
def sendControls (s : State) (dst : Nat) (rs : List (Nat × BitVec 256)) : State :=
  if benchOn s then s
  else match choosePort s 0 (routePorts s (managerRegion s) dst) with
  | some p =>
    match (getPort s p).tx.find? (openControl s dst) with
    | some e =>
      let all := flitRecords e.2 ++ rs
      portSend (updPort s p fun x => { x with tx := x.tx.erase e }) p 0 (controlFlits (selfId s) dst all.length all)
    | none => portSend s p 0 (controlFlits (selfId s) dst rs.length rs)
  | none => partnerLost s dst

/-- Send one control record to a part. -/
def sendControl (s : State) (dst type : Nat) (w : BitVec 256) : State := sendControls s dst [(type, w)]

/-- A record's fields sealed with its CRC. -/
def sealRec (w : Nat) : BitVec 256 := BitVec.ofNat 256 (crcSeal 32 w)

/-- OFFER and DECLINE (R456). -/
def offerRec (s : State) (lap dst key : Nat) : BitVec 256 :=
  sealRec (lap % 2 ^ 48 + selfId s * 2 ^ 48 + dst * 2 ^ 65 + key * 2 ^ 82)

/-- NO_ROUTE (R456). -/
def noRouteRec (s : State) (src dst seg reason : Nat) : BitVec 256 :=
  sealRec (s.lap.num % 2 ^ 48 + selfId s * 2 ^ 48 + src * 2 ^ 65 + dst * 2 ^ 82 + seg * 2 ^ 99 + reason * 2 ^ 111)

/-! ## Segments (R452, R453) -/

/-- OP codes of a segment head. -/
def opWriteOwner : Nat := 0
def opWriteExchange : Nat := 1
def opWriteResend : Nat := 2
def opReadOwner : Nat := 3
def opReadReply : Nat := 4
def opLedger : Nat := 5

/-- The payload of a HEAD flit. -/
def headWord (op : Nat) (g : Segment) : Nat :=
  op + b2n g.held * 2 ^ 4 + b2n g.final * 2 ^ 5 + b2n g.sig * 2 ^ 6 + g.tableId % 256 * 2 ^ 8 + g.offset % 2 ^ 48 * 2 ^ 16 +
    g.gen % 2 ^ 16 * 2 ^ 64 + g.xid % 2 ^ 16 * 2 ^ 80 + g.lap % 2 ^ 48 * 2 ^ 96 + g.length % 2 ^ 32 * 2 ^ 144 +
    g.replyAddr % 2 ^ 52 * 2 ^ 176 + g.readLen % 2 ^ 32 * 2 ^ 228

/-- Flits of a segment: HEAD, DATA of 240 bytes, and the signal flit where SIG is set (R452, R455). -/
def segFlits (op cls : Nat) (g : Segment) (name : Option Word) : List Flit :=
  let n := ceilDiv g.data.length 240
  let sigf := match name with | some w => [(0, natLe 4 w.toNat)] | none => []
  let bodies := (blocksOf 240 n g.data).map (fun b => (ceilDiv b.length 16, b)) ++ sigf
  let k := bodies.length
  let head : Flit := ⟨1, cls, decide (k = 0), g.dst, g.src, 0, 0, 0, g.seg, natLe 240 (headWord op g)⟩
  head :: ((rangeFrom 1 k).zip bodies).map fun e =>
    ⟨2, cls, decide (e.1 = k), g.dst, g.src, 0, e.2.1, 0, g.seg, padBytes 240 e.2.2⟩

/-- Send a segment from a region in a class and with a PRIO, with the channel that a refusal reaches and the byte of its transfer
that it begins at; none where no port leads to its DST (R462). Its SEG stands for no segment pushed before (R450, R537). A bench
re-run discards it (R544). -/
def sendSegment (s : State) (r op cls prio : Nat) (g : Segment) (name : Option Word) (back : Option (DmaEng × Nat × Nat)) : Option State :=
  if benchOn s then some s
  else match choosePort s cls (routePorts s r g.dst) with
  | none => none
  | some p =>
    let g := { g with src := selfId s, seg := s.link.segNext }
    let segs := match back with
      | some (e, ch, pos) => s.link.segs ++ [⟨g.seg, g.dst, e, ch, pos⟩]
      | none => s.link.segs
    let s := { s with
      link := { s.link with segNext := (g.seg + 1) % 4096, segs := segs }
      snap := { s.snap with pushed := s.snap.pushed.filter fun x => !(x.1 == g.seg && x.2.1 == g.dst) } }
    some (portSend s p prio (segFlits op cls g name))

/-- A segment head with every optional field zero. -/
def blankSeg (s : State) (dst : Nat) : Segment :=
  ⟨selfId s, dst, 0, false, true, false, 0, 0, 0, 0, s.lap.num, 0, 0, 0, [], false, 0⟩

/-! ## Resends (R75, R472) -/

/-- Send a payload of the window from byte pos on in WRITE_RESEND segments of class URGENT, with its signal at the end (R446,
R452, R472); none where no port leads to its peer. -/
def resendFrom (r : Nat) (p : Resend) : Nat → Nat → State → Option State
  | 0, _, s => some s
  | n + 1, pos, s =>
    if p.data.length ≤ pos then some s
    else
      let d := (p.data.drop pos).take 65536
      let last := decide (p.data.length ≤ pos + d.length)
      let g := { blankSeg s p.peer with
        final := last, sig := last && p.sig.isSome, offset := p.offset + pos, xid := p.xid, lap := p.lap, length := d.length, data := d }
      match sendSegment s r opWriteResend 1 0 g (if last then p.sig.map (BitVec.ofNat 32) else none) none with
      | some s => resendFrom r p n (pos + d.length) s
      | none => none

/-- Resend one payload from a region (R33, R287, R472). -/
def resendOne (r : Nat) (s : State) (p : Resend) : State :=
  let s := readSystem s r .resend
  (resendFrom r p (p.data.length / 65536 + 1) 0 s).getD (partnerLost s p.peer)

end Sys2Proof.Machine
end

