-- ==== Sys2Proof/Machine/Dma.lean ====
section
/-! DEFINITION. DMA channels (R326 to R341) and the XFR field's DMA operations (R125, R327). -/

namespace Sys2Proof.Machine

/-! ## Engines and channels -/

/-- A register field of a channel, in the block's or the region's space (R341, R342). -/
def chGet (s : State) (fb fr : Fld) (e : DmaEng) (ch : Nat) : Nat :=
  match e with
  | .blk b => fget s fb b ch
  | .rgn r => fget s fr r ch

def chPut (s : State) (fb fr : Fld) (e : DmaEng) (ch v : Nat) : State :=
  match e with
  | .blk b => fput s fb b ch v
  | .rgn r => fput s fr r ch v

def chState (s : State) (e : DmaEng) (ch : Nat) : Nat := chGet s fBLK_DMA_STATUS_STATE fRGN_DMA_STATUS_STATE e ch
def setChState (s : State) (e : DmaEng) (ch v : Nat) : State := chPut s fBLK_DMA_STATUS_STATE fRGN_DMA_STATUS_STATE e ch v
def chHead (s : State) (e : DmaEng) (ch : Nat) : Nat := chGet s fBLK_DMA_STATUS_HEAD fRGN_DMA_STATUS_HEAD e ch
def setChHead (s : State) (e : DmaEng) (ch v : Nat) : State := chPut s fBLK_DMA_STATUS_HEAD fRGN_DMA_STATUS_HEAD e ch v
def chTail (s : State) (e : DmaEng) (ch : Nat) : Nat := chGet s fBLK_DMA_TAIL_TAIL fRGN_DMA_TAIL_TAIL e ch

def getChan (s : State) (e : DmaEng) (ch : Nat) : DmaChan :=
  match e with
  | .blk b => tabGet dmaReset (getBlock s b).dma ch
  | .rgn r => tabGet dmaReset (getRegion s r).dma ch

def setChan (s : State) (e : DmaEng) (ch : Nat) (x : DmaChan) : State :=
  match e with
  | .blk b => updBlock s b fun y => { y with dma := tabSet dmaReset y.dma ch x }
  | .rgn r => updRegion s r fun y => { y with dma := tabSet dmaReset y.dma ch x }

def updChan (s : State) (e : DmaEng) (ch : Nat) (f : DmaChan → DmaChan) : State := setChan s e ch (f (getChan s e ch))

/-- Firmware channels (R327, R328). -/
def chFw (s : State) (e : DmaEng) (ch : Nat) : Bool :=
  match e with
  | .blk b => fget s fBLK_DMA_CFG_FW b ch == 1
  | .rgn _ => decide (8 ≤ ch)

/-- Owner of a core channel. -/
def chOwner (s : State) (e : DmaEng) (ch : Nat) : Option Nat :=
  match e with
  | .blk b => if chFw s e ch then none else some (b * 8 + fget s fBLK_DMA_CFG_OWNER b ch)
  | .rgn _ => none

/-- Commit slot of a channel's writes (R334). -/
def chSlot (s : State) (e : DmaEng) (ch : Nat) : Nat :=
  match chOwner s e ch with
  | some u => runSlot s u
  | none => chGet s fBLK_DMA_CFG_SLOT fRGN_DMA_CFG_SLOT e ch

def engRegion : DmaEng → Nat
  | .blk b => b / 8
  | .rgn r => r

/-- Entries of a ring: 64 for a core channel (R327). -/
def chRing (s : State) (e : DmaEng) (ch : Nat) : Nat :=
  if (chOwner s e ch).isSome then 64 else 2 ^ chGet s fBLK_DMA_CFG_RING_LOG2 fRGN_DMA_CFG_RING_LOG2 e ch

/-- Part physical address of a ring entry. -/
def entryAddr (s : State) (e : DmaEng) (ch i : Nat) : Nat :=
  match chOwner s e ch with
  | some u => 0x101_0000_0000 + u * 0x40_0000 + (getChan s e ch).ring + 64 * i
  | none =>
    chGet s fBLK_DMA_RING_HI_BASE_HI fRGN_DMA_RING_HI_BASE_HI e ch * 2 ^ 32 +
      chGet s fBLK_DMA_RING_LO_BASE_LO fRGN_DMA_RING_LO_BASE_LO e ch * 64 + 64 * i

/-- Place of an address for a channel: a core channel's local windows are its owner's; the local block-store window of a
block engine's firmware channel is that of its block (R273). -/
def chPlace (s : State) (e : DmaEng) (ch a : Nat) : Place :=
  match e, chOwner s e ch with
  | .blk b, none =>
    if 0x400_0200_0000 ≤ a ∧ a < 0x400_0380_0000 then .bs b (a - 0x400_0200_0000) else placeOf s none a
  | _, own => placeOf s own a

/-- Whether a fence has cut a channel off from where its requests go: its engine's block or region, or its owner (R35, R290,
R291). -/
def engCut (s : State) (e : DmaEng) (ch : Nat) : Bool :=
  (match e with
   | .blk b => !blockAlive s b
   | .rgn r => !regionAlive s r) || (chOwner s e ch).any (isCut s 0)

/-! ## Access under a slot -/

def placeDead (s : State) : Place → Bool
  | .hbm r _ _ => !regionAlive s r
  | .bs b _ => !blockAlive s b
  | .cs v _ => isCut s 0 v
  | _ => false

/-- Bytes at a place as a slot sees them. -/
def readPlace (s : State) (slot n : Nat) : Place → Bytes
  | .cs v off => memRead (getCore s v).store off n
  | .bs b off => readBs s b slot (epochMembers s slot) off n
  | .hbm r page off => readHbm s r slot (epochMembers s slot) (n / 65536 + 2) page off n
  | .host h => hostRead s h n
  | .nowhere => List.replicate n 0

/-- Whether an engine's access ends with a bus error: a dead target, or a path that has failed (R24, R26, R335). -/
def dmaDead (s : State) (e : DmaEng) : Place → Bool
  | .hbm r page _ => !regionAlive s r || !pathUp (fabricUp s) (engRegion e) r (page * 65536)
  | .host _ => !endpointUp s
  | p => placeDead s p

/-- The checks of a read of n bytes under a slot that counts for a core (R267, R271, R278, R286, R287). -/
def eccPlace (s : State) (core : Option Nat) (slot n : Nat) : Place → EccRes
  | .cs v off => readCsEcc s v off n
  | .bs b off => readBsEcc s core b off n slot (epochMembers s slot)
  | .hbm r page off =>
    let q := readHbmEcc s r slot (epochMembers s slot) (n / 65536 + 2) page off n
    if q.2 then .bus q.1 else .ok q.1
  | _ => .ok s

/-- Bank arbitrations that a DMA request loses (R268, R272). -/
def dmaConflict (s : State) (e : DmaEng) : Place → State
  | .cs v _ => csConflict s v 8
  | .bs b _ => bsConflict s b (if e = .blk b then 64 else 66)
  | _ => s

/-- Consumer records of a read under a slot (R510). -/
def notePlace (s : State) (slot n : Nat) : Place → State
  | .bs b off => noteBsRead s b off n (some slot)
  | .hbm r page off => noteHbmRead s r (some slot) (n / 65536 + 2) page off n
  | .host h => hostFetch s h n
  | _ => s

/-- Write at a place under a slot; core is the core whose write it counts as (R144). -/
def writePlace (s : State) (core : Option Nat) (slot : Nat) (bs : Bytes) (p : Place) : UnitWr :=
  let done := fun (w : WrRes) => match w with
    | .ok s => UnitWr.ok s
    | .wait => .wait
    | .excess k d => .halt 0x14 (excessDetail k d)
  match p with
  | .cs v off => .ok (writeCs s v off bs)
  | .bs b off =>
    match core.bind fun u => sbForeign s b u off bs.length with
    | some (r, l) => .halt 0x0D (r + 2 ^ 8 + l * 2 ^ 32)
    | none => done (writeBs s b slot (bs.length / 128 + 2) off bs)
  | .hbm r page off => done (writeHbm s r slot false (bs.length / 65536 + 2) page off bs)
  | .host h => .ok (hostWrite (hostTouch s h bs.length) h bs)
  | .nowhere => .ok s

/-! ## Descriptors (R329) -/

def dOwn (w : Nat) : Bool := nbit w 0
def dKind (w : Nat) : Nat := nbits w 1 3
def dUrgent (w : Nat) : Bool := nbit w 4
def dPrio (w : Nat) : Nat := nbits w 5 3
def dSrcFixed (w : Nat) : Bool := nbit w 8
def dDstFixed (w : Nat) : Bool := nbit w 9
def dSrcSpace (w : Nat) : Nat := nbits w 10 2
def dDstSpace (w : Nat) : Nat := nbits w 12 2
def dPaceEn (w : Nat) : Bool := nbit w 14
def dSigEn (w : Nat) : Bool := nbit w 15
def dPaceQ (w : Nat) : Nat := nbits w 16 8
def dHigh (w : Nat) : Nat := nbits w 24 4
def dLow (w : Nat) : Nat := nbits w 28 4
def dLen (w : Nat) : Nat := nbits w 32 32
def dSrc (w : Nat) : Nat := nbits w 64 64
def dDst (w : Nat) : Nat := nbits w 128 64
def dSig (w : Nat) : Nat := nbits w 192 32
def dValue (w : Nat) : Nat := nbits w 288 64

/-- COPY with an OWNER or EXCHANGE side (R332). -/
def dRemote (w : Nat) : Bool := dKind w == 0 && (dSrcSpace w != 0 || dDstSpace w != 0)

/-- A descriptor of a ring, as it stands or as it will once its ring has room (R604). -/
def readEntry (s : State) (e : DmaEng) (ch i : Nat) : Nat :=
  match (getChan s e ch).owed.find? fun x => x.1 == i with
  | some x => x.2
  | none => leNat (readPlace s (chSlot s e ch) 64 (chPlace s e ch (entryAddr s e ch i)))

/-- What a channel's read of its ring leaves: zero reads and a core store's lost arbitrations (R61, R268). -/
def touchEntry (s : State) (e : DmaEng) (ch i : Nat) : State :=
  let p := chPlace s e ch (entryAddr s e ch i)
  dmaConflict (notePlace s (chSlot s e ch) 64 p) e p

/-- Write a descriptor back to its ring; one that finds no frame and no shadow line is owed (R604). -/
def writeEntry (s : State) (e : DmaEng) (ch i w : Nat) : State :=
  let p := chPlace s e ch (entryAddr s e ch i)
  match writePlace (dmaConflict s e p) none (chSlot s e ch) (natLe 64 w) p with
  | .ok s => updChan s e ch fun x => { x with owed := tabDel x.owed i }
  | _ => updChan s e ch fun x => { x with owed := tabSet 0 x.owed i w }

/-- Descriptors owed go into their rings where there is room now. -/
def payOwed (s : State) (e : DmaEng) (ch : Nat) : State :=
  (getChan s e ch).owed.foldl (fun s x => writeEntry s e ch x.1 x.2) s

/-- Whether a descriptor's ring takes a write now, or it must wait for a frame or a shadow line (R604). -/
def entryRoom (s : State) (e : DmaEng) (ch : Nat) : Bool :=
  match writePlace s none (chSlot s e ch) (natLe 64 0) (chPlace s e ch (entryAddr s e ch (chHead s e ch))) with
  | .wait => false
  | _ => true

/-- A descriptor at its end: OWN clear, STATUS and DELIVERED written (R333, R338). -/
def closeDesc (w status delivered : Nat) : Nat := putBits (putBits (putBits w 0 1 0) 224 8 status) 256 32 delivered

/-- Whether a channel's head holds a descriptor that it owns and may run (R326, R327). -/
def headOwned (s : State) (e : DmaEng) (ch : Nat) : Bool :=
  ((chOwner s e ch).isSome || chHead s e ch != chTail s e ch) && dOwn (readEntry s e ch (chHead s e ch))

/-- Running where the head is owned, else idle: a channel with a head to look at has read it (R326). -/
def settleChan (s : State) (e : DmaEng) (ch : Nat) : State :=
  if headOwned s e ch then setChState s e ch 1
  else setChState (if (chOwner s e ch).isSome || chHead s e ch != chTail s e ch then touchEntry s e ch (chHead s e ch) else s) e ch 0

/-! ## Checks at fetch (R336, R340, R435) -/

/-- Bytes a side of a transfer covers. -/
def sideLen (w : Nat) (fixed : Bool) : Nat := if fixed then 64 else dLen w

/-- Canonical address of a place, one per byte of a store. -/
def placeKey : Place → Nat
  | .hbm r page off => r * 0x20_0000_0000 + page * 65536 + off
  | .bs b off => 0x100_0000_0000 + b * 0x200_0000 + off
  | .cs v off => 0x101_0000_0000 + v * 0x40_0000 + off
  | .host h => 0x8_0000_0000_0000 + h
  | .nowhere => 0

/-- Whether the extents of a COPY meet (R330): a reserved address names no byte. -/
def copyMeets (s : State) (e : DmaEng) (ch w : Nat) : Bool :=
  let a := chPlace s e ch (dSrc w)
  let b := chPlace s e ch (dDst w)
  a != .nowhere && b != .nowhere &&
    decide (placeKey a < placeKey b + sideLen w (dDstFixed w) ∧ placeKey b < placeKey a + sideLen w (dSrcFixed w))

/-- Region of a flash root port (R25). -/
def flashRegion (s : State) (port : Nat) : Nat := if nRegions s = 8 then 3 + 4 * port else 1 + 2 * port

/-- Whether a channel may pace itself by a queue (R331). -/
def paceOk (s : State) (e : DmaEng) (ch q : Nat) : Bool :=
  if q < 16 then (chOwner s e ch).isSome
  else if 0x20 ≤ q ∧ q < 0x24 then true
  else decide (q = 0x30 ∨ q = 0x31) && engRegion e == flashRegion s (q - 0x30)

/-- The sending declaration that an EXCHANGE destination names (R330). -/
def sendDecl (s : State) (e : DmaEng) (ch w : Nat) : Option BufDecl :=
  match (chOwner s e ch).bind (unitTask s) with
  | some k => match k.bufs[nbits (dDst w) 48 8]? with
    | some d => if d.scope = 3 ∧ d.dir = 0 then some d else none
    | none => none
  | none => none

/-- Whether the form of a side of a space is legal (R330). -/
def formOk (space v : Nat) : Bool := if space = 0 then decide (v < 2 ^ 52) else decide (v < 2 ^ 56)

/-- BAD_OPERAND cause of a descriptor (R340). SRC_SPACE 2 is "EXCHANGE as source". A member's EXCHANGE falls under R375. -/
def descCause (s : State) (e : DmaEng) (ch w : Nat) : Option Nat :=
  let k := dKind w
  let bare := putBits (putBits (putBits (putBits w 0 1 0) 224 8 0) 256 32 0) 288 64 0
  let copy := decide (k = 0)
  let checkBad := !crcOk 64 bare || decide (3 ≤ k) || dSrcSpace w == 3 || (!copy && dSrcSpace w == 2) || dDstSpace w == 3 || nbits w 232 24 != 0 ||
    nbits w 352 128 != 0 || (copy && !formOk (dSrcSpace w) (dSrc w)) || !formOk (dDstSpace w) (dDst w) ||
    (dSigEn w && (nmAmount (dSig w) == 0 || nmReach (dSig w) || nmBad (dSig w)))
  let lenBad := if k = 2 then dLen w != 8 else dLen w == 0 || dLen w % 64 != 0
  let urgBad := dUrgent w && (!chFw s e ch || chGet s fBLK_DMA_CFG_URGENT_OK fRGN_DMA_CFG_URGENT_OK e ch == 0)
  let member := (chOwner s e ch).any (isMember s)
  let spaceBad := (copy && dSrcSpace w == 2) || (copy && dSrcFixed w && dSrcSpace w != 0) || (dDstFixed w && dDstSpace w != 0) ||
    (copy && dSrcSpace w != 0 && dDstSpace w != 0) || (dDstSpace w == 2 && (sendDecl s e ch w).isNone && !member) || (!copy && dDstSpace w != 0) ||
    (k == 2 && dSrcSpace w != 0)
  let meets := copy && !dRemote w && copyMeets s e ch w
  let paceBad := dPaceEn w && (!paceOk s e ch (dPaceQ w) || decide (dHigh w = 0 ∨ 8 < dHigh w ∨ dHigh w ≤ dLow w))
  if checkBad then some 0x11 else if lenBad then some 0x12 else if urgBad then some 0x13 else if spaceBad then some 0x14
  else if meets then some 0x15 else if paceBad then some 0x16 else none

/-- First byte of an extent outside an engine's reach (R34, R328, R332, R375); a dead target is a bus error instead.
other is the other side's place. -/
def dmaReach (s : State) (e : DmaEng) (ch a len : Nat) (remote otherHost : Bool) : Option Nat :=
  let r0 := engRegion e
  match chPlace s e ch a with
  | .cs v off =>
    match e with
    | .blk b => if v / 8 ≠ b ∨ remote ∨ (chOwner s e ch).any (fun u => isMember s u && u != v) then some a else if off + len ≤ 0x40_0000 then none else some (a + (0x40_0000 - off))
    | .rgn _ => some a
  | .bs b' off =>
    let lim := shadowLine s b' * 128
    match e with
    | .blk b =>
      if b' / 8 ≠ b / 8 ∨ remote ∨ lim ≤ off ∨ (b' ≠ b ∧ (chOwner s e ch).any (isMember s)) then some a
      else if off + len ≤ lim then none else some (a + (lim - off))
    | .rgn _ => some a
  | .hbm r page off =>
    let far := match e with
      | .blk _ => remote || (chOwner s e ch).any (isMember s)
      | .rgn _ => !(otherHost && chFw s e ch && r0 == endpointRegion s)
    if far && r != r0 then some a
    else
      let room := 0x20_0000_0000 - (page * 65536 + off)
      let pages := rangeFrom page ((off + min len room + 65535) / 65536)
      match (if regionAlive s r then pages.find? (fun p => !(pteOf (getRegion s r) p).valid) else none) with
      | some p => some (if p = page then a else a + (p - page) * 65536 - off)
      | none => if len ≤ room then none else some (a + room)
  | .host h =>
    match e with
    | .rgn r => if !remote ∧ r = endpointRegion s ∧ chFw s e ch ∧ h + len ≤ 2 ^ 51 then none else some a
    | .blk _ => some a
  | .nowhere => some a

/-- Whether a signal's tumbler is in an engine's reach (R435). -/
def sigReach (e : DmaEng) (w : Nat) : Bool :=
  let n := dSig w
  if nmRemote n then dKind w == 0 && dDstSpace w == 2
  else match e with
    | .blk b => nmScope n == 0 || (nmScope n == 1 && nmUnit n == b) || (nmScope n == 2 && nmUnit n == b / 8)
    | .rgn r => nmScope n == 2 && nmUnit n == r

/-- Host memory. -/
def isHost : Place → Bool
  | .host _ => true
  | _ => false

/-- A core store. -/
def isCs : Place → Bool
  | .cs _ _ => true
  | _ => false

/-- An address of a side, or a signal's name, that the channel does not reach; a member of an epoch reaches no other part (R375). -/
def reachFail (s : State) (e : DmaEng) (ch w : Nat) : Option Nat :=
  let src := decide (dKind w = 0 ∧ dSrcSpace w = 0)
  let dst := decide (dDstSpace w = 0)
  let sb := if src then dmaReach s e ch (dSrc w) (sideLen w (dSrcFixed w)) (dRemote w) (dst && isHost (chPlace s e ch (dDst w))) else none
  let db := if dst then dmaReach s e ch (dDst w) (sideLen w (dDstFixed w)) (dRemote w) (src && isHost (chPlace s e ch (dSrc w))) else none
  let away := if dRemote w && (chOwner s e ch).any (isMember s) then some (if dDstSpace w = 0 then dSrc w else dDst w) else none
  (away.or (sb.or db)).or (if dSigEn w && !sigReach e w then some (dSig w) else none)

/-- The checks of addresses at fetch: 2 ALIGNMENT, 3 ADDR_RANGE with the address or name. -/
def fetchRange (s : State) (e : DmaEng) (ch w : Nat) : Option (Nat × Nat) :=
  if decide (dKind w = 0 ∧ dSrcSpace w = 0) && dSrc w % 64 != 0 then some (2, dSrc w)
  else if decide (dDstSpace w = 0) && dDst w % (if dKind w = 2 then 8 else 64) != 0 then some (2, dDst w)
  else if dKind w = 2 ∧ !isCs (chPlace s e ch (dDst w)) then some (3, dDst w)
  else (reachFail s e ch w).map fun a => (3, a)

/-- A check that fails at fetch: 1 BAD_OPERAND with its cause, 2 ALIGNMENT, 3 ADDR_RANGE with the address or name. -/
def fetchBad (s : State) (e : DmaEng) (ch w : Nat) : Option (Nat × Nat) :=
  (descCause s e ch w).elim (fetchRange s e ch w) fun c => some (1, c)

/-! ## The end of a transfer -/

/-- The region channel that a block channel's remote transfer uses (R332). -/
def regionChan : DmaEng → DmaEng × Nat
  | .blk b => (.rgn (b / 8), b % 8)
  | e => (e, 0)

/-- Free the region channel of a handed-off transfer. -/
def freeRegionChan (s : State) (e : DmaEng) (ch : Nat) : State :=
  if (getChan s e ch).remote then
    match e with
    | .blk b => setChState (setChan s (.rgn (b / 8)) (b % 8) dmaReset) (.rgn (b / 8)) (b % 8) 0
    | .rgn _ => s
  else s

/-- Force-halt the owner of a core channel (R338). -/
def haltOwner (s : State) (e : DmaEng) (ch reason detail : Nat) : State :=
  match chOwner s e ch with
  | some u => if (getCore s u).seq.st = .running then haltUnit s u reason (if reason = 0x1A then 15 else 14) (getChan s e ch).pc detail else s
  | none => s

/-- A descriptor that fails its checks (R336): STATUS REFUSED; a core channel halts its owner, a firmware channel stops. -/
def refuseDesc (s : State) (e : DmaEng) (ch w kind arg : Nat) : State :=
  let i := chHead s e ch
  let s := writeEntry s e ch i (closeDesc w 3 0)
  let s := updChan s e ch fun x => { x with desc := none, rerun := false, paused := false, waits := false }
  if (chOwner s e ch).isSome then
    let s := setChHead (setChState s e ch 0) e ch ((i + 1) % 64)
    if kind = 1 then haltOwner s e ch 0x03 (ch + 3 * 2 ^ 4 + arg * 2 ^ 16 + i * 2 ^ 24)
    else haltOwner s e ch (if kind = 2 then 0x10 else 0x0F) arg
  else
    let s := chPut (setChState s e ch 3) fBLK_DMA_STATUS_ERR_KIND fRGN_DMA_STATUS_ERR_KIND e ch 3
    let a := if kind = 1 then 0 else arg
    chPut (chPut s fBLK_DMA_ERR_LO_ADDR_LO fRGN_DMA_ERR_LO_ADDR_LO e ch a) fBLK_DMA_ERR_HI_ADDR_HI fRGN_DMA_ERR_HI_ADDR_HI e ch (a / 2 ^ 32)

/-- Give every later descriptor that is owned, up to TAIL on a firmware channel, STATUS ABORTED (R341); the descriptors aborted,
with their ring indexes, the latest first. -/
def abortRing (e : DmaEng) (ch : Nat) : Nat → Nat → State → List (Nat × Nat) → State × List (Nat × Nat)
  | 0, _, s, acc => (s, acc)
  | n + 1, i, s, acc =>
    let j := i % chRing s e ch
    let w := readEntry s e ch j
    if (chOwner s e ch).isNone && j == chTail s e ch then (s, acc)
    else if !dOwn w then abortRing e ch n (i + 1) (touchEntry s e ch j) acc
    else abortRing e ch n (i + 1) (writeEntry (touchEntry s e ch j) e ch j (closeDesc w 4 (nbits w 256 32))) ((j, w) :: acc)

/-- Set the tumbler of a descriptor's signal to the count the signal would have reached (R339). -/
def setForSig (e : DmaEng) (s : State) (w : Nat) : State :=
  if dSigEn w && !nmRemote (dSig w) && sigReach e w then
    let t := tumRefOf (match e with | .blk b => b | .rgn _ => 0) (dSig w)
    if tumCut s t then s else tumSetCount s t (min 65535 ((tumGet s t).count + nmAmount (dSig w)))
  else s

/-- Descriptors of an ABORT whose signals are set for (R339): those aborted, and the failing one where its failure has not had its own
set already, as that of a firmware channel has. -/
def signalled (s : State) (e : DmaEng) (ch failed : Nat) (aborted : List Nat) : List Nat :=
  if (chOwner s e ch).isNone && (nbits failed 224 8 == 1 || nbits failed 224 8 == 2) then aborted else failed :: aborted

/-- ABORT of a stopped channel (R339, R341). A copy with the host window that is to run again does so all the same. -/
def abortChan (s : State) (e : DmaEng) (ch : Nat) : State :=
  if chState s e ch ≠ 3 then s
  else
    let i := chHead s e ch
    let failed := readEntry s e ch i
    let r := abortRing e ch (chRing s e ch - 1) (i + 1) s []
    let s := (signalled s e ch failed (r.2.reverse.map (·.2))).foldl (setForSig e) r.1
    let s := setChHead (setChState s e ch 0) e ch (((r.2.head?.map (·.1)).getD i + 1) % chRing s e ch)
    chPut (updChan s e ch fun x => { x with desc := none, rerun := false, waits := false })
      fBLK_DMA_STATUS_ERR_KIND fRGN_DMA_STATUS_ERR_KIND e ch 0

/-- Bytes from the start whose writes have been accepted (R329): those before the failure, and before a READ_OWNER that is not
answered yet. -/
def landedBytes (s : State) (e : DmaEng) (ch w delivered : Nat) : Nat :=
  if dSrcSpace w = 1 ∧ dKind w = 0 then
    (s.link.segs.filter fun g => g.eng == e && g.chan == ch).foldl (fun n g => min n g.pos) delivered
  else delivered

/-- The registers and the descriptor of a channel whose transfer has failed (R336, R338). -/
def stopChan (s : State) (e : DmaEng) (ch w kind dir addr space delivered : Nat) : State :=
  let s := writeEntry (freeRegionChan s e ch) e ch (chHead s e ch) (closeDesc w kind (landedBytes s e ch w delivered))
  let s := updChan s e ch fun x => { x with desc := none, moved := 0, remote := false, rerun := false, paused := false, waits := false }
  let s := chPut (setChState s e ch 3) fBLK_DMA_STATUS_ERR_KIND fRGN_DMA_STATUS_ERR_KIND e ch kind
  let s := chPut s fBLK_DMA_STATUS_ERR_DIR fRGN_DMA_STATUS_ERR_DIR e ch dir
  let s := chPut (chPut s fBLK_DMA_ERR_LO_ADDR_LO fRGN_DMA_ERR_LO_ADDR_LO e ch addr)
    fBLK_DMA_ERR_HI_ADDR_HI fRGN_DMA_ERR_HI_ADDR_HI e ch (addr / 2 ^ 32)
  let s := chPut s fBLK_DMA_ERR_HI_SPACE fRGN_DMA_ERR_HI_SPACE e ch space
  { s with link := { s.link with segs := s.link.segs.filter fun g => !(g.eng == e && g.chan == ch) } }

/-- The record of a failed transfer, at the engine's own level (assumption 14). -/
def postFail (s : State) (e : DmaEng) (ch kind : Nat) : State :=
  match e with
  | .blk b => errBlock s b (errRecord s 0xF 1 0x25 0 8 0 (kind + ch * 2 ^ 8))
  | .rgn r => errRegion s r (errRecord s 0xF 2 0x25 0 8 0 (kind + ch * 2 ^ 8))

/-- The owner's task keeps the host address that found no translation (R339). -/
def noteBadAddr (s : State) (e : DmaEng) (ch kind addr space : Nat) : State :=
  match chOwner s e ch with
  | some u => if kind = 2 ∧ space = 0 then updTask s (runSlot s u) fun k => { k with badAddr := some addr } else s
  | none => s

/-- The graph whose tasks declare a buffer in HBM, held or lap-local, over that side of a transfer with the host window: the manual
says that its second failure stops the graph, and not which one a firmware channel works for (DEDUCED, assumption 106). -/
def hostGraph (s : State) (a n : Nat) : Option Nat :=
  (s.graphs.find? fun g => g.bufs.any fun l => l.any fun b => b.scope != 1 && decide (b.base < a + n ∧ a < b.base + b.size)).map (·.id)

/-- Whether a descriptor of a firmware channel moves data to or from the host window (R328, R390, R391). -/
def hostXfer (s : State) (e : DmaEng) (ch w : Nat) : Bool :=
  let host := fun (a : Nat) => isHost (chPlace s e ch a)
  (chOwner s e ch).isNone && !dRemote w && (host (dDst w) || (dKind w == 0 && host (dSrc w)))

/-- A descriptor with the host window starts a copy or continues the one that its channel runs; another one ends it. The manual does not
say which descriptors a copy has: it is what the channel has run since it was last idle (DEDUCED, assumption 106). -/
def noteCopy (s : State) (e : DmaEng) (ch w : Nat) : State :=
  if (chOwner s e ch).isSome then s
  else if hostXfer s e ch w then updChan s e ch fun x => { x with copyAt := x.copyAt.or (some (chHead s e ch)) }
  else updChan s e ch fun x => { x with copyAt := none, rerunLap := none, fails := 0 }

/-- A firmware channel that is idle has ended its copy, unless the copy is to run again. -/
def endCopy (s : State) (e : DmaEng) (ch : Nat) : State :=
  if (chOwner s e ch).isNone && chState s e ch == 0 && (getChan s e ch).rerunLap.isNone then
    updChan s e ch fun x => { x with copyAt := none, fails := 0 }
  else s

/-- Firmware's treatment of a failed transfer with the host window on one of its channels: the copy runs once more, from its start, in
the next lap, and at the second failure the graph stops (R339, R390, R391). -/
def noteHostFail (s : State) (e : DmaEng) (ch w addr : Nat) : State :=
  let host := fun (a : Nat) => isHost (chPlace s e ch a)
  if !hostXfer s e ch w || !inService s then s
  else if (getChan s e ch).fails = 0 then updChan s e ch fun x => { x with fails := 1, rerunLap := some (s.lap.num + 1) }
  else
    let s := updChan s e ch fun x => { x with rerunLap := none }
    match hostGraph s (if host (dDst w) then dSrc w else dDst w) (dLen w) with
    | some g => updLap s fun l => { l with hostStops := l.hostStops ++ [(g, addr % 2 ^ 52)] }
    | none => s

/-- A transfer ends with a bus error (1) or a translation failure (2) (R338): the channel stops, the record goes to its
level's queue (its cause is the model's choice, assumption 14); a core channel's owner is force-halted and the channel
aborted, a firmware channel's slot is discarded and the tumbler of its signal set (R339). -/
def failTransfer (s : State) (e : DmaEng) (ch w kind dir addr space delivered : Nat) : State :=
  let s := noteBadAddr (postFail (stopChan s e ch w kind dir addr space delivered) e ch kind) e ch kind addr space
  if (chOwner s e ch).isSome then abortChan (haltOwner s e ch 0x1A (externalDetail 1 false false false)) e ch
  else noteHostFail (setForSig e (updLap s fun l => { l with failSlots := insNat l.failSlots (chSlot s e ch) }) w) e ch w addr

/-! ## Running a transfer -/

/-- How a transfer starts. -/
inductive XferRes
  | ok (s : State) (w : Nat)
  | wait
  | fail (s : State) (kind dir addr space delivered : Nat)
  | halt (s : State) (reason detail : Nat)

/-- Bytes of a side that a transfer of n bytes moves from a fixed or an incrementing source. -/
def sourceBytes (s : State) (slot n : Nat) (fixed : Bool) (p : Place) : Bytes :=
  if fixed then (List.replicate (ceilDiv n 64) (readPlace s slot 64 p)).flatten.take n else readPlace s slot n p

/-- What lands at a destination: all of it, or the last 64 bytes where it is fixed (R330). -/
def landing (fixed : Bool) (bs : Bytes) : Bytes := if fixed then bs.drop (bs.length - 64) else bs

/-- Write the first n bytes of a local transfer's data to its destination. -/
def landBytes (s : State) (e : DmaEng) (ch w n : Nat) (bs : Bytes) : XferRes :=
  let p := chPlace s e ch (dDst w)
  if n = 0 then .ok s w
  else match writePlace s (chOwner s e ch) (chSlot s e ch) (landing (dDstFixed w) (bs.take n)) p with
    | .ok s => .ok (updChan s e ch fun x => { x with moved := n }) w
    | .wait => .wait
    | .halt r d => .halt s r d

/-- Offload and fetch bytes of the lap with a transfer of n bytes between the places given (R392): none beyond the limits, which
are those of a lap. -/
def offload (s : State) (n : Nat) (src dst : Place) : Option State :=
  if !inService s then some s
  else match src, dst with
  | _, .host _ =>
    if fget s fPART_OFFLOAD_CFG_OUT_MIB 0 0 * 2 ^ 20 < s.lap.offOut + n then none
    else some (updLap s fun l => { l with offOut := l.offOut + n })
  | .host _, _ =>
    if fget s fPART_OFFLOAD_CFG_IN_MIB 0 0 * 2 ^ 20 < s.lap.offIn + n then none
    else some (updLap s fun l => { l with offIn := l.offIn + n })
  | _, _ => some s

/-- How the check of a transfer's source ends. -/
inductive SrcRes
  | ok (s : State)
  /-- The burst at a position meets lost data. -/
  | lost (s : State) (pos : Nat)
  | halt (s : State) (reason detail : Nat)

/-- Check the bursts of a read of HBM in order (R335, R338). -/
def burstsEcc (r slot page off n : Nat) : Nat → Nat → State → SrcRes
  | 0, _, s => .ok s
  | fuel + 1, pos, s =>
    if n ≤ pos || hbmSound s r then .ok s
    else
      let a := off + pos
      let q := readHbmEcc s r slot (epochMembers s slot) 2 (page + a / 65536) (a % 65536) (min 4096 (n - pos))
      if q.2 then .lost q.1 pos else burstsEcc r slot page off n fuel (pos + 4096) q.1

/-- Check the source of a transfer. A store's uncorrectable word halts the core that submitted the work; for a firmware
channel, which is no core's, it is a bus error (DEDUCED, assumption 80). -/
def sourceEcc (s : State) (e : DmaEng) (ch n : Nat) : Place → SrcRes
  | .hbm r page off => burstsEcc r (chSlot s e ch) page off n (n / 4096 + 1) 0 s
  | p =>
    match eccPlace s (chOwner s e ch) (chSlot s e ch) n p with
    | .ok s => .ok s
    | .bus s => .lost s 0
    | .halt s r d => if (chOwner s e ch).isSome then .halt s r d else .lost s 0

/-- The data of a COPY moves: all n bytes, or those before lost data, where the transfer then fails (R338). -/
def copyBytes (s : State) (e : DmaEng) (ch w n : Nat) (src dst : Place) : XferRes :=
  let slot := chSlot s e ch
  let read := fun (k : Nat) => if dSrcFixed w then min 64 k else k
  let bs := sourceBytes s slot n (dSrcFixed w) src
  match sourceEcc s e ch (read n) src with
  | .halt s r d => .halt s r d
  | .ok s => landBytes (dmaConflict (dmaConflict (notePlace s slot (read n) src) e src) e dst) e ch w n bs
  | .lost s pos =>
    match landBytes (dmaConflict (notePlace s slot (read pos) src) e dst) e ch w pos bs with
    | .ok s _ => .fail s 1 0 (dSrc w + pos) 0 pos
    | r => r

/-- The first burst of n bytes at a place in host memory that does not translate (R335, R484). -/
def hostStop (s : State) (fixed : Bool) (n : Nat) : Place → Option Nat
  | .host h =>
    let m := if fixed then min 64 n else n
    if hostOk s h m then none
    else (rangeFrom 0 (ceilDiv m 4096)).findSome? fun k => if hostOk s (h + 4096 * k) (min 4096 (m - 4096 * k)) then none else some (4096 * k)
  | _ => none

/-- Where a transfer of n bytes meets host memory that does not translate: position, direction, address (R338). -/
def hostCut (s : State) (e : DmaEng) (ch w n : Nat) : Option (Nat × Nat × Nat) :=
  let rd := if dKind w = 0 then hostStop s (dSrcFixed w) n (chPlace s e ch (dSrc w)) else none
  match rd, hostStop s (dDstFixed w) n (chPlace s e ch (dDst w)) with
  | some a, some b => some (if a ≤ b then (a, 0, dSrc w + a) else (b, 1, dDst w + b))
  | some a, none => some (a, 0, dSrc w + a)
  | none, some b => some (b, 1, dDst w + b)
  | none, none => none

/-- The first n bytes of a COPY, FILL or SWAP64 whose sides are reached (R269, R330). -/
def moveBytes (s : State) (e : DmaEng) (ch w n : Nat) (src dst : Place) : XferRes :=
  if dKind w = 0 then
    match offload s n src dst with
    | none => .wait
    | some s => copyBytes s e ch w n src dst
  else if dKind w = 1 then landBytes (dmaConflict s e dst) e ch w n (List.replicate (n / 8) (natLe 8 (dValue w))).flatten
  else
    match sourceEcc s e ch 8 dst with
    | .halt s r d => .halt s r d
    | .lost s pos => .fail s 1 0 (dDst w) 0 pos
    | .ok t =>
      match landBytes (dmaConflict t e dst) e ch w n (natLe 8 (dValue w)) with
      | .ok t w => .ok t (putBits w 288 64 (leNat (readPlace s (chSlot s e ch) 8 dst)))
      | r => r

/-- A local transfer of the first n bytes (R269, R330): the bursts before one that does not translate are delivered (R338). -/
def localXfer (s : State) (e : DmaEng) (ch w n : Nat) : XferRes :=
  let src := chPlace s e ch (dSrc w)
  let dst := chPlace s e ch (dDst w)
  if dKind w = 0 ∧ dmaDead s e src then .fail s 1 0 (dSrc w) 0 0
  else if dmaDead s e dst then .fail s 1 1 (dDst w) 0 0
  else match hostCut s e ch w n with
    | none => moveBytes s e ch w n src dst
    | some (pos, dir, a) =>
      match moveBytes s e ch w pos src dst with
      | .ok s _ => .fail s 2 dir a 0 pos
      | r => r

/-- Record an exchange or held transfer sent by a channel (R66). -/
def noteSent (s : State) (e : DmaEng) (ch part xid : Nat) : State :=
  match chOwner s e ch with
  | some u => updTask s (runSlot s u) fun k => { k with xout := if k.xout.any (fun x => x == (part, xid)) then k.xout else k.xout ++ [(part, xid)] }
  | none => updLap s fun l => { l with fwOut := (part, xid, chSlot s e ch) :: l.fwOut }

/-- Send the bytes of an EXCHANGE copy from a position on, in segments of at most 64 KiB (R332, R452); whole: they are all of it,
and the last segment carries the signal. -/
def sendExchange (e : DmaEng) (ch w r part xid : Nat) (whole : Bool) (bs : Bytes) : Nat → Nat → State → Option State
  | 0, _, s => some s
  | n + 1, pos, s =>
    if bs.length ≤ pos then some s
    else
      let d := (bs.drop pos).take 65536
      let last := whole && decide (bs.length ≤ pos + d.length)
      let sig := last && dSigEn w && nmRemote (dSig w)
      let g := { blankSeg s part with
        final := last, sig := sig, offset := nbits (dDst w) 0 48 + pos, xid := xid, length := d.length, data := d }
      let cls := if dUrgent w then 1 else 2
      match sendSegment s r opWriteExchange cls (dPrio w) g (if sig then some (BitVec.ofNat 32 (dSig w)) else none) (some (e, ch, pos)) with
      | some s => sendExchange e ch w r part xid whole bs n (pos + d.length) s
      | none => none

/-- An EXCHANGE copy (R74, R332). -/
def exchangeXfer (s : State) (e : DmaEng) (ch w : Nat) : XferRes :=
  match sendDecl s e ch w, (chOwner s e ch).bind (unitTask s) with
  | some d, some k =>
    let r := engRegion e
    let len := dLen w
    let src := chPlace s e ch (dSrc w)
    if dmaDead s e src then .fail s 1 0 (dSrc w) 0 0
    else if domainOf d.peer ≠ domainOf (selfId s) ∨ hasNat s.lap.lost d.peer then .fail s 2 1 (nbits (dDst w) 0 48) 2 0
    else if k.desc.resendAllow * 65536 < k.resend + len then .halt s 0x14 (excessDetail 2 k.desc.resendAllow)
    else
      let xid := Config.exchangeId k.desc.rvKey d.slot (selfId s) d.peer % 65536
      let bs := readPlace s k.slot len src
      match sourceEcc s e ch len src with
      | .halt s r d => .halt s r d
      | .lost t pos =>
        match sendExchange e ch w r d.peer xid false (bs.take pos) (len / 65536 + 1) 0 (notePlace t k.slot pos src) with
        | none => .fail (partnerLost t d.peer) 1 1 (nbits (dDst w) 0 48) 2 0
        | some u => .fail (if pos = 0 then u else noteSent u e ch d.peer xid) 1 0 (dSrc w + pos) 0 pos
      | .ok t =>
        match sendExchange e ch w r d.peer xid true bs (len / 65536 + 1) 0 (notePlace t k.slot len src) with
        | none => .fail (partnerLost s d.peer) 1 1 (nbits (dDst w) 0 48) 2 0
        | some s =>
          let s := noteSent s e ch d.peer xid
          let s := updTask s k.slot fun k => { k with resend := k.resend + len }
          let s := updRegion s r fun x => { x with resend := x.resend ++ [⟨s.lap.num, d.peer, xid, nbits (dDst w) 0 48, bs, k.desc.rvKey, k.slot,
            if dSigEn w && nmRemote (dSig w) then some (dSig w) else none⟩] }
          .ok (updChan s e ch fun x => { x with moved := len, remote := true }) w
  | _, _ => .fail s 2 1 (nbits (dDst w) 0 48) 2 0

/-- Exchange IDs in use in the lap toward a part by others than a slot, those that the plan's declarations will take among them (R66). -/
def usedIds (s : State) (part slot : Nat) : List Nat :=
  ((s.lap.cur.filter fun k => k.slot != slot).flatMap fun k => (k.xout.filter fun x => x.1 == part).map (·.2)) ++
    ((s.lap.fwOut.filter fun f => f.1 == part && f.2.2 != slot).map fun f => f.2.1) ++
    ((s.lap.cur ++ s.lap.plan).flatMap fun k => (k.bufs.filter fun d => d.scope == 3 && d.dir == 0 && d.peer == part).map fun d =>
      Config.exchangeId k.desc.rvKey d.slot (selfId s) part % 65536)

/-- The first ID from v up that is not in a list. -/
def freshId (used : List Nat) : Nat → Nat → Nat
  | 0, v => v
  | n + 1, v => if hasNat used v then freshId used n ((v + 1) % 65536) else v

/-- Exchange ID of the held transfers of one slot to a part: unique in the lap for the pair (R66). -/
def heldId (s : State) (part slot : Nat) : Nat :=
  let used := usedIds s part slot
  freshId used used.length (Config.exchangeId 0 slot (selfId s) part % 65536)

/-- Write one piece of an OWNER destination (R303, R304, R332). -/
def ownerWrite (e : DmaEng) (ch w table : Nat) (bs : Bytes) (s : State) (x pos n len : Nat) : XferRes :=
  match resolveOwner s table x with
  | none => .fail s 2 1 x 1 pos
  | some o =>
    let d := (bs.drop pos).take n
    if o.part = selfId s then
      if o.region ≠ engRegion e then .fail s 2 1 x 1 pos
      else match writePlace s (chOwner s e ch) (chSlot s e ch) d (.hbm o.region (o.off / 65536) (o.off % 65536)) with
        | .ok s => .ok s w
        | .wait => .wait
        | .halt r d => .halt s r d
    else if hasNat s.lap.lost o.part then .fail s 2 1 x 1 pos
    else
      let xid := heldId s o.part (chSlot s e ch)
      let g := { blankSeg s o.part with
        held := true, final := decide (len ≤ pos + n), tableId := table, offset := x, gen := o.gen, xid := xid, length := n, data := d }
      match sendSegment s (engRegion e) opWriteOwner (if dUrgent w then 1 else 2) (dPrio w) g none (some (e, ch, pos)) with
      | some s => .ok (noteSent s e ch o.part xid) w
      | none => .fail (partnerLost s o.part) 1 1 x 1 pos

/-- Read one piece of an OWNER source: at once from this part, its bursts before lost data (R338), else by a READ_OWNER (R303, R453). -/
def ownerRead (e : DmaEng) (ch w table : Nat) (s : State) (x pos n len : Nat) : XferRes :=
  match resolveOwner s table x with
  | none => .fail s 2 0 x 1 pos
  | some o =>
    if o.part = selfId s then
      if o.region ≠ engRegion e then .fail s 2 0 x 1 pos
      else
        let src := Place.hbm o.region (o.off / 65536) (o.off % 65536)
        let d := readPlace s (chSlot s e ch) n src
        match sourceEcc s e ch n src with
        | .halt s r d => .halt s r d
        | .lost s k =>
          if k = 0 then .fail s 1 0 x 1 pos
          else match writePlace (notePlace s (chSlot s e ch) k src) (chOwner s e ch) (chSlot s e ch) (d.take k) (chPlace s e ch (dDst w + pos)) with
            | .ok s => .fail s 1 0 (x + k) 1 (pos + k)
            | .wait => .wait
            | .halt r d => .halt s r d
        | .ok s =>
          match writePlace (notePlace s (chSlot s e ch) n src) (chOwner s e ch) (chSlot s e ch) d (chPlace s e ch (dDst w + pos)) with
          | .ok s => .ok (updChan s e ch fun c => { c with moved := c.moved + n }) w
          | .wait => .wait
          | .halt r d => .halt s r d
    else if hasNat s.lap.lost o.part then .fail s 2 0 x 1 pos
    else
      let g := { blankSeg s o.part with
        final := decide (len ≤ pos + n), tableId := table, offset := x, gen := o.gen, replyAddr := dDst w + pos, readLen := n }
      match sendSegment s (engRegion e) opReadOwner (if dUrgent w then 1 else 2) (dPrio w) g none (some (e, ch, pos)) with
      | some s => .ok s w
      | none => .fail (partnerLost s o.part) 1 0 x 1 pos

/-- Run the pieces of an OWNER transfer in order. -/
def runPieces (f : State → Nat → Nat → Nat → XferRes) (w : Nat) : List (Nat × Nat × Nat) → State → XferRes
  | [], s => .ok s w
  | (x, pos, n) :: t, s =>
    match f s x pos n with
    | .ok s _ => runPieces f w t s
    | r => r

/-- An OWNER copy (R303, R332). -/
def ownerXfer (s : State) (e : DmaEng) (ch w : Nat) : XferRes :=
  let len := dLen w
  if dDstSpace w = 1 then
    let table := nbits (dDst w) 48 8
    let src := chPlace s e ch (dSrc w)
    if dmaDead s e src then .fail s 1 0 (dSrc w) 0 0
    else
      let bs := readPlace s (chSlot s e ch) len src
      let ps := fun (n : Nat) => ownerPieces (getOwner s table).log2 (n / 64 + 1) (nbits (dDst w) 0 48) 0 n
      let run := fun (s : State) (n : Nat) =>
        runPieces (fun s x pos m => ownerWrite e ch w table bs s x pos m len) w (ps n) (notePlace s (chSlot s e ch) n src)
      match sourceEcc s e ch len src with
      | .halt s r d => .halt s r d
      | .lost t cut =>
        match run t cut with
        | .ok s _ => .fail s 1 0 (dSrc w + cut) 0 cut
        | r => r
      | .ok s =>
        match run s len with
        | .ok s w => .ok (updChan s e ch fun x => { x with moved := len, remote := true }) w
        | r => r
  else
    let table := nbits (dSrc w) 48 8
    let ps := ownerPieces (getOwner s table).log2 (len / 64 + 1) (nbits (dSrc w) 0 48) 0 len
    if dmaDead s e (chPlace s e ch (dDst w)) then .fail s 1 1 (dDst w) 0 0
    else runPieces (fun s x pos n => ownerRead e ch w table s x pos n len) w ps
      (updChan s e ch fun x => { x with moved := 0, remote := true })

/-- Fill and capacity of a pace queue (R331). The capacity of a port's transmit queue and the fill of a flash submission
queue, which only its port sees, are free values (assumption 81). -/
def paceLevel (s : State) (e : DmaEng) (ch w : Nat) : State × Nat × Nat :=
  let q := dPaceQ w
  if q < 16 then (s, (match chOwner s e ch with
    | some u => (getQ (getCore s u) q).items.length
    | none => 0), 8)
  else if q < 0x30 then (s, (getPort s (4 * engRegion e + (q - 0x20))).tx.length, Config.txQueueFlits)
  else
    let d := drawFree s
    (d.2, d.1 % 9, 8)

/-- Whether a channel waits under R331: at HIGH eighths or more, and a paused one until the level is down to LOW. -/
def pacePaused (s : State) (e : DmaEng) (ch w : Nat) : State × Bool :=
  if dPaceEn w then
    let r := paceLevel s e ch w
    (r.1, if (getChan s e ch).paused then decide (dLow w * r.2.2 < 8 * r.2.1) else decide (dHigh w * r.2.2 ≤ 8 * r.2.1))
  else (s, false)

/-- Whether the region channel of a remote transfer is free. -/
def regionChanFree (s : State) (e : DmaEng) (w : Nat) : Bool :=
  match e with
  | .blk b => !dRemote w || (chState s (.rgn (b / 8)) (b % 8) == 0)
  | .rgn _ => true

/-- Take the region channel for a handed-off transfer (R332). -/
def takeRegionChan (s : State) (e : DmaEng) (w : Nat) : State :=
  match e with
  | .blk b =>
    if dRemote w then setChState (updChan s (.rgn (b / 8)) (b % 8) fun x => { x with desc := some w }) (.rgn (b / 8)) (b % 8) 1 else s
  | .rgn _ => s

/-- Run a checked descriptor (R330, R332). -/
def runXfer (s : State) (e : DmaEng) (ch w : Nat) : XferRes :=
  let s1 := updChan (takeRegionChan s e w) e ch fun x => { x with remote := dRemote w }
  if dRemote w then (if dDstSpace w = 2 then exchangeXfer s1 e ch w else ownerXfer s1 e ch w) else localXfer s1 e ch w (dLen w)

/-- A fetched descriptor waits (R392, R604). -/
def waitXfer (s : State) (e : DmaEng) (ch : Nat) : State := updChan s e ch fun x => { x with waits := true }

/-- The channels that a level of bulk served last (R335). -/
def lastServed (s : State) : DmaEng → Tab Nat
  | .blk b => (getBlock s b).dmaLast
  | .rgn r => (getRegion s r).dmaLast

/-- A channel has had its turn at its level of bulk. -/
def setServed (s : State) (e : DmaEng) (ch w : Nat) : State :=
  if dUrgent w then s
  else match e with
    | .blk b => updBlock s b fun x => { x with dmaLast := tabSet 0 x.dmaLast (dPrio w) (ch + 1) }
    | .rgn r => updRegion s r fun x => { x with dmaLast := tabSet 0 x.dmaLast (dPrio w) (ch + 1) }

/-- What the start of a transfer leaves: s is the state before it. A failure waits until its STATUS can be written. -/
def startedXfer (s : State) (e : DmaEng) (ch w : Nat) : XferRes → State
  | .ok s w => setChState (setServed (updChan s e ch fun x => { x with desc := some w, rerun := false, paused := false, waits := false }) e ch w) e ch 1
  | .wait => waitXfer s e ch
  | .fail t k d a sp n => if entryRoom t e ch then failTransfer t e ch w k d a sp n else waitXfer s e ch
  | .halt s r d => haltOwner (setChState (updChan (freeRegionChan s e ch) e ch fun _ => dmaReset) e ch 0) e ch r d

/-- Rank of a descriptor in the service of its engine: urgent ones first, then bulk by PRIO (R335). -/
def dRank (w : Nat) : Nat := if dUrgent w then 0 else 8 - dPrio w

/-- Rank of a channel's head that asks for service, one that RESUME runs again among them. -/
def chRank (s : State) (e : DmaEng) (ch : Nat) : Option Nat :=
  if chState s e ch = 1 ∧ (getChan s e ch).desc.isNone ∧ !(getChan s e ch).waits ∧ (headOwned s e ch || (getChan s e ch).rerun) = true ∧ !engCut s e ch then
    some (dRank (readEntry s e ch (chHead s e ch)))
  else none

/-- Channels of an engine. -/
def engChans : DmaEng → List Nat
  | .blk _ => rangeFrom 0 16
  | .rgn _ => rangeFrom 0 32

/-- How far a channel's turn is at the level of bulk of a descriptor: round-robin after the channel served last (R335). -/
def turnOf (s : State) (e : DmaEng) (w c : Nat) : Nat :=
  let n := (engChans e).length
  (c + n - tabGet 0 (lastServed s e) (dPrio w)) % n

/-- Whether the engine serves another channel first (R335): a head of a higher rank, among urgent ones that of a lower channel,
and within a level of bulk the one whose turn comes first. A turn is a whole descriptor (assumption 81). -/
def outranked (s : State) (e : DmaEng) (ch w : Nat) : Bool :=
  (engChans e).any fun c => c != ch && (chRank s e c).any fun k => decide (k < dRank w) ||
    (k == dRank w && (if dRank w = 0 then decide (c < ch) else decide (turnOf s e w c < turnOf s e w ch)))

/-- Run a descriptor whose fetch is done: its checks, its pace, the region channel it needs (R331, R332, R336). -/
def runFetched (s : State) (e : DmaEng) (ch w : Nat) : State :=
  (fetchBad s e ch w).elim
    (let p := pacePaused s e ch w
     if p.2 then setChState (updChan p.1 e ch fun x => { x with paused := true, waits := true }) e ch 2
     else if !regionChanFree p.1 e w then p.1
     else startedXfer (noteCopy p.1 e ch w) e ch w (runXfer (noteCopy p.1 e ch w) e ch w))
    fun x => if entryRoom s e ch then refuseDesc s e ch w x.1 x.2 else waitXfer s e ch

/-- The fetch of a channel's head from its ring: a lost line is a bus error, and a core store's uncorrectable word halts the
owner (R267, R287). -/
def fetchEntry (s : State) (e : DmaEng) (ch w : Nat) : State :=
  let a := entryAddr s e ch (chHead s e ch)
  let p := chPlace s e ch a
  if dmaDead s e p then (if entryRoom s e ch then failTransfer s e ch w 1 0 a 0 0 else s)
  else match sourceEcc s e ch 64 p with
    | .halt s r d => haltOwner (setChState s e ch 0) e ch r d
    | .lost s _ => if entryRoom s e ch then failTransfer s e ch w 1 0 a 0 0 else s
    | .ok s => runFetched (dmaConflict (notePlace s (chSlot s e ch) 64 p) e p) e ch w

/-- Fetch the head descriptor of a running channel when its KIND is the command's and it is the engine's turn (R326, R330 to
R336). A channel that a fence has cut off does nothing (R291). -/
def dmaFetch (s : State) (e : DmaEng) (ch : Nat) (mine : Nat → Bool) : State :=
  let x := getChan s e ch
  let st := chState s e ch
  if engCut s e ch ∨ x.desc.isSome ∨ (st ≠ 1 ∧ st ≠ 2) then s
  else
    let w := readEntry s e ch (chHead s e ch)
    if !dOwn w && !x.rerun then endCopy (setChState (touchEntry s e ch (chHead s e ch)) e ch 0) e ch
    else if !mine (dKind w) ∨ outranked s e ch w then s
    else fetchEntry s e ch w

def execDmaCopy (e : DmaEng) (ch : Nat) (s : State) : Host.Outcome State Fault Refusal :=
  .next (dmaFetch s e ch fun k => k == 0 || decide (3 ≤ k))
def execDmaFill (e : DmaEng) (ch : Nat) (s : State) : Host.Outcome State Fault Refusal :=
  .next (dmaFetch s e ch fun k => k == 1)
def execDmaSwap64 (e : DmaEng) (ch : Nat) (s : State) : Host.Outcome State Fault Refusal :=
  .next (dmaFetch s e ch fun k => k == 2)

/-- The signal of a completed descriptor (R333, R435); a REMOTE one travelled with the data. -/
def completeSig (s : State) (e : DmaEng) (ch w : Nat) : State :=
  if dSigEn w && !nmRemote (dSig w) then
    let t := tumRefOf (match e with | .blk b => b | .rgn _ => 0) (dSig w)
    let core := (chOwner s e ch).getD 0
    let src := match e with | .blk _ => 1 | .rgn _ => 2
    let r := tumSignal s t (nmAmount (dSig w)) core src (chSlot s e ch)
    if r.2 then haltOwner r.1 e ch 0x13 (dSig w) else r.1
  else s

/-- A region channel that only handed-off transfers use (R328, R332). -/
def isHandCh (e : DmaEng) (ch : Nat) : Bool :=
  match e with
  | .rgn _ => decide (ch < 8)
  | .blk _ => false

/-- The descriptor w at the head leaves its channel with STATUS 0 and DELIVERED its length, and the segments that carried it are
forgotten (R333). -/
def closeHead (s : State) (e : DmaEng) (ch w : Nat) : State :=
  let s := writeEntry (freeRegionChan s e ch) e ch (chHead s e ch) (closeDesc w 0 (dLen w))
  let s := updChan s e ch fun x => { x with desc := none, moved := 0, remote := false }
  { s with link := { s.link with segs := s.link.segs.filter fun g => !(g.eng == e && g.chan == ch) } }

/-- DMA_COMPLETE (R333): enabled once every byte has landed; i is the head. -/
def dmaFinish (s : State) (e : DmaEng) (ch w i : Nat) : State :=
  let t := closeHead s e ch w
  endCopy (settleChan (completeSig (setChHead t e ch ((i + 1) % chRing t e ch)) e ch w) e ch) e ch

/-- Whether the read-back of the last 64 bytes meets a target that has died (R333). -/
def readBackDead (s : State) (e : DmaEng) (ch w : Nat) : Bool := dDstSpace w == 0 && dmaDead s e (chPlace s e ch (dDst w))

/-- Address that the read-back reads (R333). -/
def readBackAddr (w : Nat) : Nat := if dDstFixed w ∨ dLen w < 64 then dDst w else dDst w + dLen w - 64

/-- The arbitrations that the read-back loses in a core store (R268); an ordering read moves no data. -/
def readBackNote (s : State) (e : DmaEng) (ch w : Nat) : State :=
  if dDstSpace w = 0 ∧ dDstFixed w = false then dmaConflict s e (chPlace s e ch (readBackAddr w)) else s

/-- DMA_COMPLETE (R333): a read-back that fails is a bus error of a read (DEDUCED, assumption 80). The channel waits where its
ring cannot take STATUS yet (R604). -/
def dmaComplete (s : State) (e : DmaEng) (ch : Nat) : State :=
  match (getChan s e ch).desc with
  | none => s
  | some w =>
    if engCut s e ch ∨ (getChan s e ch).moved < dLen w ∨ chState s e ch = 3 ∨ isHandCh e ch ∨ !entryRoom s e ch then s
    else if readBackDead s e ch w then failTransfer s e ch w 1 0 (readBackAddr w) 0 (dLen w)
    else dmaFinish (readBackNote s e ch w) e ch w (chHead s e ch)

def execDmaComplete (e : DmaEng) (ch : Nat) (s : State) : Host.Outcome State Fault Refusal := .next (dmaComplete s e ch)

/-- The side of a transfer that an error names: address field and address space (R338). -/
def errSide (write : Bool) (w : Nat) : Nat × Nat := if write then (dDst w, dDstSpace w) else (dSrc w, dSrcSpace w)

/-- Address or offset at which a transfer that fails after its first bytes stands; a fixed side does not advance. -/
def errAddr (write : Bool) (delivered w : Nat) : Nat :=
  (errSide write w).1 % 2 ^ (if (errSide write w).2 = 0 then 52 else 48) + (if (if write then dDstFixed w else dSrcFixed w) then 0 else delivered)

/-- A transfer that has run fails after its first bytes. -/
def failHead (s : State) (e : DmaEng) (ch kind : Nat) (write : Bool) (delivered w : Nat) : State :=
  failTransfer s e ch w kind (b2n write) (errAddr write delivered w) (errSide write w).2 delivered

/-- The first bytes of a transfer that has not run yet; a remote one has moved none here. -/
def freshXfer (s : State) (e : DmaEng) (ch w delivered : Nat) : XferRes :=
  if dRemote w then .ok s w else localXfer s e ch w (min delivered (dLen w) / 64 * 64)

/-- A transfer that has not run yet moves its first bytes and fails. -/
def failMoved (s : State) (e : DmaEng) (ch kind : Nat) (write : Bool) (delivered w : Nat) : XferRes → State
  | .ok s w => failHead s e ch kind write (min delivered (dLen w) / 64 * 64) w
  | .wait => s
  | .fail s k d a sp n => failTransfer s e ch w k d a sp n
  | .halt s r d => haltOwner s e ch r d

/-- The same, with the checks at fetch first. -/
def failFresh (s : State) (e : DmaEng) (ch kind : Nat) (write : Bool) (delivered w : Nat) : State :=
  (fetchBad s e ch w).elim
    (failMoved (noteCopy s e ch w) e ch kind write delivered w (freshXfer (noteCopy s e ch w) e ch w delivered)) fun x => refuseDesc s e ch w x.1 x.2

/-- DMA_TRANSFER_ERROR (R338): the transfer at the channel's head ends with an error after its first bytes have been
accepted. A transfer not yet run moves those bytes here. -/
def dmaError (s : State) (e : DmaEng) (ch kind : Nat) (write : Bool) (delivered : Nat) : State :=
  match (getChan s e ch).desc with
  | some w => if engCut s e ch ∨ chState s e ch = 3 ∨ isHandCh e ch then s else failHead s e ch kind write delivered w
  | none =>
    if engCut s e ch ∨ chState s e ch ≠ 1 then s
    else if !dOwn (readEntry s e ch (chHead s e ch)) && !(getChan s e ch).rerun then s
    else failFresh s e ch kind write delivered (readEntry s e ch (chHead s e ch))

def execDmaTransferError (e : DmaEng) (ch : Nat) (kind : XferError) (write : Bool) (delivered : Nat) (s : State) :
    Host.Outcome State Fault Refusal :=
  .next (dmaError s e ch (match kind with | .busError => 1 | .translation => 2) write delivered)

/-! ## Firmware's registers of a channel (R341) -/

/-- The channel that the engine's index register selects. -/
def selChan (s : State) : DmaEng → Nat
  | .blk b => fget s fBLK_DMA_IDX_CHANNEL b 0
  | .rgn r => fget s fRGN_DMA_IDX_CHANNEL r 0

/-- DMA_TAIL_WRITE (R327). -/
def dmaTail (s : State) (e : DmaEng) (tail : Nat) : State :=
  let ch := selChan s e
  let s := chPut s fBLK_DMA_TAIL_TAIL fRGN_DMA_TAIL_TAIL e ch tail
  if chFw s e ch && chState s e ch == 0 then settleChan s e ch else s

/-- A stopped channel runs its failing descriptor again (R341). -/
def resumeChan (s : State) (e : DmaEng) (ch : Nat) : State :=
  chPut (updChan (setChState s e ch 1) e ch fun x => { x with rerun := true, rerunLap := none })
    fBLK_DMA_STATUS_ERR_KIND fRGN_DMA_STATUS_ERR_KIND e ch 0

/-- A descriptor given back to its channel (R341). -/
def reopenDesc (w : Nat) : Nat := putBits (putBits (putBits w 0 1 1) 224 8 0) 256 32 0

/-- A failed copy runs once more from its start: the descriptors from there on that are done, failed or aborted are the channel's again
(R339, R390, R391; DEDUCED, assumption 106). -/
def rerunCopy (s : State) (e : DmaEng) (ch : Nat) : State :=
  let size := chRing s e ch
  let start := (getChan s e ch).copyAt.getD (chHead s e ch)
  let n := (chHead s e ch + size - start) % size + (if chState s e ch = 3 then 1 else 0)
  let s := (rangeFrom 0 n).foldl (fun s k => writeEntry s e ch ((start + k) % size) (reopenDesc (readEntry s e ch ((start + k) % size)))) s
  chPut (updChan (setChState (setChHead s e ch start) e ch 1) e ch fun x => { x with desc := none, rerun := false, waits := false, rerunLap := none })
    fBLK_DMA_STATUS_ERR_KIND fRGN_DMA_STATUS_ERR_KIND e ch 0

/-- RESUME (R341). -/
def dmaResume (s : State) (e : DmaEng) : State :=
  let ch := selChan s e
  if chState s e ch = 3 then
    resumeChan s e ch
  else s

/-- Whether a DMA engine is cut with its block or region: a write of its registers is ignored without report (R548). -/
def engDead (s : State) (e : DmaEng) : Bool := match e with | .blk b => isCut s 1 b | .rgn r => isCut s 2 r

def execDmaTailWrite (e : DmaEng) (tail : Nat) (s : State) : Host.Outcome State Fault Refusal := .next (if engDead s e then s else dmaTail s e tail)
def execResume (e : DmaEng) (s : State) : Host.Outcome State Fault Refusal := .next (if engDead s e then s else dmaResume s e)
def execAbort (e : DmaEng) (s : State) : Host.Outcome State Fault Refusal := .next (if engDead s e then s else abortChan s e (selChan s e))

/-! ## The XFR field (R125) -/

/-- Run the head XFR field when its XOP is the one given: TAKE, operation, PUT. -/
def xfrStep (s : State) (u xop : Nat) (op : State → QField → MvRes) : State :=
  let c := getCore s u
  if c.seq.st ≠ .running then s
  else
    match getFq c 14 with
    | [] => s
    | f :: rest =>
      if fOp4 f.bits ≠ xop then s
      else
        match takeBaton c f.bits with
        | .wait => s
        | .halt r d => haltUnit s u r 14 f.pc d
        | .ok c =>
          match op (setCore s u c) f with
          | .wait => s
          | .halt s r d => haltUnit s u r 14 f.pc d
          | .ok s' =>
            match putBaton (getCore s' u) f.bits with
            | .ok c => settleNops (setCore s' u (setFq c 14 rest)) u
            | _ => s

/-- DMA_KICK (R327, R340). -/
def dmaKick (u : Nat) (s : State) (f : QField) : MvRes :=
  let ch := xUnit f.bits
  let e := DmaEng.blk (unitBlock u)
  let ring := xDesc f.bits * 4096
  if chOwner s e ch ≠ some u then .halt s 0x03 (ch + 3 * 2 ^ 4 + 0x10 * 2 ^ 16)
  else if (getChan s e ch).ring ≠ ring then
    if chState s e ch ≠ 0 then .wait
    else .ok (settleChan (updChan (setChHead s e ch 0) e ch fun x => { x with ring := ring, pc := f.pc }) e ch)
  else if chState s e ch = 0 then .ok (settleChan (updChan s e ch fun x => { x with pc := f.pc }) e ch)
  else .ok s

/-- DMA_WAIT (R327, R340). -/
def dmaWait (u : Nat) (s : State) (f : QField) : MvRes :=
  let ch := xUnit f.bits
  let e := DmaEng.blk (unitBlock u)
  if chOwner s e ch ≠ some u then .halt s 0x03 (ch + 4 * 2 ^ 4 + 0x10 * 2 ^ 16)
  else if chState s e ch = 0 then .ok s else .wait

def execDmaKick (u : Nat) (s : State) : Host.Outcome State Fault Refusal := .next (xfrStep s u 3 (dmaKick u))
def execDmaWait (u : Nat) (s : State) : Host.Outcome State Fault Refusal := .next (xfrStep s u 4 (dmaWait u))

end Sys2Proof.Machine
end

