-- ==== Sys2Proof/Machine/Hinge.lean ====
section
/-! DEFINITION. The hinge network (R307 to R314). -/

namespace Sys2Proof.Machine

/-! ## Descriptors (R309) -/

def hHop (w : Nat) : Nat := nbits w 0 4
def hSize (w : Nat) : Nat := 2 ^ nbits w 4 2
def hRows (w : Nat) : Nat := nbits w 8 8 + 1
def hCols (w : Nat) : Nat := nbits w 16 8 + 1
def hSrc (w : Nat) : Nat := nbits w 64 52
def hDst (w : Nat) : Nat := nbits w 128 52
def hSrcStride (w : Nat) : Int := toSigned 32 (nbits w 192 32)
def hDstStride (w : Nat) : Int := toSigned 32 (nbits w 224 32)
def hIndex (w : Nat) : Nat := nbits w 256 52
def hPermute (w : Nat) : Bool := hHop w == 2

/-- Starts of n rows (R310). -/
def rowStarts (base : Nat) (stride : Int) (n : Nat) : List Int :=
  (rangeFrom 0 n).map fun (i : Nat) => (base : Int) + (i : Int) * stride

def hSrcRows (w : Nat) : List Int := rowStarts (hSrc w) (hSrcStride w) (hRows w)
def hDstRows (w : Nat) : List Int := rowStarts (hDst w) (hDstStride w) (if hPermute w then hRows w else hCols w)

/-- Bytes of a source row and of a destination row (R310). -/
def hSrcLen (w : Nat) : Nat := hCols w * hSize w
def hDstLen (w : Nat) : Nat := if hPermute w then hSrcLen w else hRows w * hSize w

/-- The first of n bytes from an address that lies outside the store of the block in which they begin (R309, R271); none
where they all lie in it. A member of an open epoch reaches its own core store and its block's (R375). -/
def hingeOut (s : State) (u : Nat) (a : Int) (n : Nat) : Option Int :=
  let from_ := fun (off limit : Nat) =>
    if off + n ≤ limit then none else some (a + ((limit - off : Nat) : Int))
  if a < 0 then some a
  else match placeOf s (some u) a.toNat with
    | .cs v off => if v / 8 = u / 8 ∧ (v = u ∨ isMember s u = false) then from_ off 0x40_0000 else some a
    | .bs b off => if b = u / 8 then from_ off (shadowLine s b * 128) else some a
    | _ => some a

/-- Canonical byte number of an address of the block's stores. -/
def hingeKey (s : State) (u : Nat) (a : Int) : Nat := placeKey (placeOf s (some u) a.toNat)

/-- Lowest and highest byte plus one of the rows of a side (R312). -/
def extentOf (s : State) (u n : Nat) (rows : List Int) : Nat × Nat :=
  let ks := rows.map (hingeKey s u)
  (ks.foldl min (ks.headD 0), ks.foldl max 0 + n)

def meet (a b : Nat × Nat) : Bool := decide (a.1 < b.2 ∧ b.1 < a.2)

/-- The exact in-place square transpose (R312), which runs staged. -/
def hStaged (s : State) (u w : Nat) : Bool :=
  hHop w == 1 && hRows w == hCols w && hingeKey s u (hSrc w) == hingeKey s u (hDst w) && hSrcStride w == hDstStride w

/-- The row indices of a ROW_PERMUTE; none where they do not lie in the submitting core's store (R309). -/
def hIndices (s : State) (u w : Nat) : Option (List Nat) :=
  match placeOf s (some u) (hIndex w) with
  | .cs v off =>
    if v = u ∧ off + 2 * hRows w ≤ 0x40_0000 then some (chunk2 (memRead (getCore s u).store off (2 * hRows w))) else none
  | _ => none

/-- BAD_OPERAND of a submit: reason and DETAIL (R314). -/
def hingeOperand (unit cause pos : Nat) : Option (Nat × Nat) := some (0x03, unit + 1 * 2 ^ 4 + cause * 2 ^ 16 + pos * 2 ^ 24)

/-- The failures of R311 that come before any index is read. -/
def hingeShapeBad (unit w : Nat) : Option (Nat × Nat) :=
  if hHop w ≠ 1 ∧ hHop w ≠ 2 then hingeOperand unit 0x01 0
  else if nbits w 4 2 = 3 then hingeOperand unit 0x02 0
  else if 131072 < hRows w * hCols w * hSize w then hingeOperand unit 0x03 0
  else none

/-- The first failure of R311: reason and DETAIL (R314, R149). An INDEX that is no multiple of 64 counts as misaligned, one outside the
submitter's store as out of range with its indices unread, and the row starts of both sides come before the row lengths, whose DETAIL
is SRC or DST: R311 says none of it (DESIGN CHOICE, assumption 130). -/
def hingeBad (s : State) (u unit descAddr w : Nat) : Option (Nat × Nat) :=
  let idx := if hPermute w then hIndices s u w else some []
  let perm := (((rangeFrom 0 (hRows w)).zip (idx.getD [])).find? fun e => decide (hRows w ≤ e.2)).map (·.1)
  let src := hSrcRows w
  let dst := hDstRows w
  (hingeShapeBad unit w).or (match perm with
    | some i => hingeOperand unit 0x04 i
    | none =>
      match (src ++ dst).find? (fun a => decide (a % 64 ≠ 0)) with
      | some a => some (0x10, ofSigned 64 a)
      | none =>
        if hSrcLen w % 64 ≠ 0 then some (0x10, hSrc w)
        else if hDstLen w % 64 ≠ 0 then some (0x10, hDst w)
        else if hPermute w ∧ hIndex w % 64 ≠ 0 then some (0x10, hIndex w)
        else match (src.findSome? fun a => hingeOut s u a (hSrcLen w)).or (dst.findSome? fun a => hingeOut s u a (hDstLen w)) with
          | some a => some (0x0F, ofSigned 64 a)
          | none =>
            if idx.isNone then some (0x0F, ofSigned 64 ((hingeOut s u (hIndex w) (2 * hRows w)).getD (hIndex w)))
            else
              let es := extentOf s u (hSrcLen w) src
              let ed := extentOf s u (hDstLen w) dst
              let it := (hingeKey s u (hIndex w), hingeKey s u (hIndex w) + 2 * hRows w)
              if (meet es ed && !hStaged s u w) || (hPermute w && meet it ed) then some (0x12, descAddr) else none)

/-! ## The XFR operations (R307, R308) -/

/-- Whether a core's hinge slot holds an operation that has not completed. -/
def hingeBusy (s : State) (u slot : Nat) : Bool := tabGet 0 (getBlock s (u / 8)).hingeSlots (u % 8 * 4 + slot) == 1

def setHingeSlot (s : State) (u slot v : Nat) : State :=
  updBlock s (u / 8) fun b => { b with hingeSlots := tabSet 0 b.hingeSlots (u % 8 * 4 + slot) v }

/-- Bank arbitrations that hinge requests lose (R268, R272). -/
def hingeConflict (s : State) : Place → State
  | .cs v _ => csConflict s v 9
  | .bs b _ => bsConflict s b 65
  | _ => s

/-- Read the places that the hinge reads for a core: each request may lose arbitrations (R268), and each is checked (R267, R271,
R308). -/
def hingeReads (u slot : Nat) : List (Place × Nat) → State → EccRes
  | [], s => .ok s
  | (p, n) :: t, s =>
    match eccPlace (hingeConflict s p) (some u) slot n p with
    | .ok s => hingeReads u slot t s
    | r => r

/-- The place of a ROW_PERMUTE's indices: none where the whole of it is not in the submitter's store (R309), for then no index
is read. -/
def indexPlace (s : State) (u w : Nat) : List (Place × Nat) :=
  if hPermute w && (hIndices s u w).isSome then [(placeOf s (some u) (hIndex w), 2 * hRows w)] else []

/-- A descriptor is accepted into the queue. -/
def hingeAccept (s : State) (u slot w pc : Nat) : State :=
  setHingeSlot (updBlock s (u / 8) fun b => { b with hingeQ := b.hingeQ ++ [⟨u, slot, w, runSlot s u, pc⟩] }) u slot 1

/-- HINGE_SUBMIT: the descriptor is read, then the checks of R311 run in order; the indices are read for the check that needs them. -/
def hingeSubmit (u : Nat) (s : State) (f : QField) : MvRes :=
  let slot := xUnit f.bits
  let a := xDesc f.bits * 4096
  if hingeBusy s u slot ∨ 16 ≤ (getBlock s (u / 8)).hingeQ.length then .wait
  else
    let w := leNat (memRead (getCore s u).store a 64)
    match hingeReads u (runSlot s u) [(.cs u a, 64)] s, hingeShapeBad slot w with
    | .halt s r d, _ => .halt s r d
    | .bus s, _ => .ok s
    | .ok t, some (r, d) => .halt t r d
    | .ok t, none =>
      match hingeReads u (runSlot s u) (indexPlace s u w) t with
      | .halt s r d => .halt s r d
      | .bus s => .ok s
      | .ok t =>
        match hingeBad s u slot a w with
        | some (r, d) => .halt t r d
        | none => .ok (hingeAccept t u slot w f.pc)

/-- HINGE_WAIT. -/
def hingeWait (u : Nat) (s : State) (f : QField) : MvRes := if hingeBusy s u (xUnit f.bits) then .wait else .ok s

def execHingeSubmit (u : Nat) (s : State) : Host.Outcome State Fault Refusal := .next (xfrStep s u 1 (hingeSubmit u))
def execHingeWait (u : Nat) (s : State) : Host.Outcome State Fault Refusal := .next (xfrStep s u 2 (hingeWait u))

/-! ## Running an operation (R308, R310) -/

/-- Column j of a tile given by its rows of elements. -/
def tileColumn (rows : List (List Bytes)) (j : Nat) : Bytes := rows.flatMap fun r => (r[j]?).getD []

/-- The destination rows of a descriptor from its source rows. -/
def hingeRows (w : Nat) (idx : List Nat) (src : List Bytes) : List Bytes :=
  if hPermute w then idx.map fun i => (src[i]?).getD []
  else
    let els := src.map fun r => blocksOf (hSize w) (hCols w) r
    (rangeFrom 0 (hCols w)).map (tileColumn els)

/-- How the writes of an operation end. -/
inductive HingeRes
  | ok (s : State)
  | wait
  | halt (s : State) (reason detail : Nat)

/-- Write the destination rows in order. -/
def hingeWrites (op : HingeOp) : List (Int × Bytes) → State → HingeRes
  | [], s => .ok s
  | (a, bs) :: t, s =>
    match writePlace s (some op.core) op.commitSlot bs (placeOf s (some op.core) a.toNat) with
    | .ok s => hingeWrites op t s
    | .wait => .wait
    | .halt r d => .halt s r d

/-- Lanes of the tile buffer that a tile fills (R307). -/
def tileLanes (w : Nat) : Nat := ceilDiv (hRows w * hCols w * hSize w) 128

/-- An uncorrectable error in the lanes that a tile uses halts the submitting core with ENGINE_CHECK 0x04 (R314); the lanes are
written again by every tile. -/
def tileCheck (s : State) (b w : Nat) : EccRes :=
  let t := (getBlock s b).harm
  let s := updBlock s b fun x => { x with harm := mendRange x.harm (harmKey 1 0 0) (harmKey 1 0 (tileLanes w)) }
  match harmIn t 2 (harmKey 1 0 0) (harmKey 1 0 (tileLanes w)) with
  | [] => .ok s
  | _ :: _ => .halt s 0x19 0x04

/-- The checks of an operation that starts: its rows and indices, then the tile buffer. -/
def hingeChecks (s : State) (b : Nat) (op : HingeOp) (places : List Place) : EccRes :=
  match hingeReads op.core op.commitSlot ((places.map fun p => (p, hSrcLen op.desc)) ++ indexPlace s op.core op.desc) s with
  | .ok s => tileCheck s b op.desc
  | r => r

/-- An operation is dropped: its slot is free, and its core halts. -/
def hingeDrop (s : State) (b : Nat) (rest : List HingeOp) (op : HingeOp) (r d : Nat) : State :=
  let s := setHingeSlot (updBlock s b fun x => { x with hingeQ := rest, hingeRun := none }) op.core op.slot 0
  if (getCore s op.core).seq.st = .running then haltUnit s op.core r 14 op.pc d else s

/-- Run an operation whose checks have passed; one that can take no shadow line waits (R604). -/
def hingeRunOp (s t : State) (b : Nat) (rest : List HingeOp) (op : HingeOp) (places : List Place) : State :=
  let w := op.desc
  let src := places.map (readPlace s op.commitSlot (hSrcLen w))
  let idx := (if hPermute w then hIndices s op.core w else some []).getD []
  let dst := (hDstRows w).zip (hingeRows w idx src)
  let s1 := places.foldl (fun s p => notePlace s op.commitSlot (hSrcLen w) p) t
  let s1 := dst.foldl (fun s d => hingeConflict s (placeOf s (some op.core) d.1.toNat)) s1
  let s1 := updBlock s1 b fun x => { x with hingeQ := rest, hingeRun := some op }
  match hingeWrites op dst s1 with
  | .ok s => s
  | .wait => s
  | .halt t r d => hingeDrop t b rest op r d

/-- HINGE_OPERATION: the next accepted operation runs. What a fenced core submitted is dropped (R291). -/
def hingeStart (s : State) (b : Nat) : State :=
  let x := getBlock s b
  match x.hingeRun, x.hingeQ with
  | none, op :: rest =>
    if !blockAlive s b then s
    else if isCut s 0 op.core then setHingeSlot (updBlock s b fun x => { x with hingeQ := rest }) op.core op.slot 0
    else
      let places := (hSrcRows op.desc).map fun a => placeOf s (some op.core) a.toNat
      match hingeChecks s b op places with
      | .ok t => hingeRunOp s t b rest op places
      | .halt t r d => hingeDrop t b rest op r d
      | .bus t => hingeDrop t b rest op 0x16 0
  | _, _ => s

/-- HINGE_COMPLETE: every write has been accepted. -/
def hingeComplete (s : State) (b : Nat) : State :=
  match (getBlock s b).hingeRun with
  | none => s
  | some op =>
    let s := setHingeSlot (updBlock s b fun x => { x with hingeRun := none }) op.core op.slot 0
    let s := if hStaged s op.core op.desc then fbump s fBLK_HINGE_STATUS_STAGED_OPS b 0 1 else s
    fbump s fBLK_HINGE_OPS_OPS b 0 1

def execHingeOperation (b : Nat) (s : State) : Host.Outcome State Fault Refusal := .next (hingeStart s b)
def execHingeComplete (b : Nat) (s : State) : Host.Outcome State Fault Refusal := .next (hingeComplete s b)

end Sys2Proof.Machine
end

