-- ==== Sys2Proof/Machine/Firmware.lean ====
section
/-! DEFINITION. Registers with rows of their own outside the engines (R153, R170, R295, R443), held memory in the
background (R280, R283, R285), the synchronisation-state dump (R444, R445). -/

namespace Sys2Proof.Machine

/-! ## The scoreboard entries (R153) -/

/-- Whether a core of a block runs a task. -/
def coreRuns (s : State) (u : Nat) : Bool := (getCore s u).seq.st == .running

/-- Cores that a region's entry names. -/
def sbNames (x : SbRegion) : List Nat := (rangeFrom 0 8).filter fun c => c == x.producer || nbit x.consumers c

/-- The region as a write of an entry register would leave it. -/
def sbWritten (x : SbRegion) (hi : Bool) (w : Nat) : SbRegion :=
  if hi then { x with lines := nbits w 0 18 }
  else { x with base := nbits w 0 18, producer := nbits w 18 3, consumers := nbits w 21 8, valid := nbit w 29 }

/-- Whether an entry write is rejected (R153); a region that is not VALID overlaps none, so the two halves of an entry may be
written in either order, and the cores named in the region are those of the entry written and, where it is VALID, those of the entry
it replaces (DEDUCED, assumption 28). -/
def sbRejects (s : State) (b i : Nat) (hi : Bool) (w : Nat) : Bool :=
  let x := getSb s b i
  let y := sbWritten x hi w
  let busy := fun (z : SbRegion) => (sbNames z).any fun c => coreRuns s (b * 8 + c)
  (hi && (nbits w 0 18 == 0 || decide (196608 < nbits w 0 18))) || busy y || (x.valid && busy x) ||
    decide (shadowLine s b < y.base + y.lines) ||
    y.valid && (getBlock s b).sb.any fun e => e.1 != i && e.2.valid && decide (e.2.base < y.base + y.lines ∧ y.base < e.2.base + e.2.lines)

/-- SB_ENTRY_WRITE. WRITE_REJECTED is one bit of the block, where R153 does not say whether each region has its own (DESIGN CHOICE,
assumption 126). -/
def sbEntryWrite (s : State) (b : Nat) (hi : Bool) (w : Nat) : State :=
  if !blockAlive s b then s
  else
    let i := fget s fBLK_SB_IDX_INDEX b 0
    if sbRejects s b i hi w then fput s fBLK_SB_COUNT_WRITE_REJECTED b 0 1
    else putSb s b i { sbWritten (getSb s b i) hi w with posted := 0, rel := [] }

def execSbEntryWrite (b : Nat) (hi : Bool) (value : Word) (s : State) : Host.Outcome State Fault Refusal :=
  .next (sbEntryWrite s b hi value.toNat)

/-! ## Counters and tumblers -/

/-- OOB_CLEAR (R170). -/
def oobClear (s : State) (c mask : Nat) : State :=
  if !corePresent s c || isCut s 0 c then s
  else (rangeFrom 0 8).foldl (fun s m =>
    if nbit mask m then fput (fput s (fCORE_STM_OOB_OOB_COUNT m) c 0 0) (fCORE_STM_OOB_SATURATED m) c 0 0 else s) s

/-- BS_CONF_CLEAR_ALL (R295). -/
def bsConfClear (s : State) (b : Nat) : State := if blockAlive s b then updBlock s b fun x => { x with conf := [] } else s

/-- TUM_SET (R426, R443). -/
def tumSet (s : State) (region : Bool) (unit value : Nat) : State :=
  let i := if region then fget s fRGN_TUM_IDX_INDEX unit 0 else fget s fBLK_TUM_IDX_INDEX unit 0
  let t : TumRef := ⟨region, unit, i⟩
  if tumCut s t then s else tumSetCount s t (value % 65536)

def execOobClear (c : Nat) (mask : Word) (s : State) : Host.Outcome State Fault Refusal := .next (oobClear s c mask.toNat)
def execBsConfClearAll (b : Nat) (s : State) : Host.Outcome State Fault Refusal := .next (bsConfClear s b)
def execTumSet (region : Bool) (unit : Nat) (value : Word) (s : State) : Host.Outcome State Fault Refusal :=
  .next (tumSet s region unit value.toNat)

/-! ## Held memory in the background -/

/-- Whether the writes of a slot in this lap have all been issued: its task has ended its program, or it is no task's. -/
def writesDone (s : State) (slot : Nat) : Bool :=
  match taskBySlot s.lap.cur slot with
  | some k => k.finished || k.stopped || k.outcome.isSome || ((getCore s k.unit).task == some slot && (getCore s k.unit).seq.ended &&
      quiet s k.unit)
  | none => true

/-- FILL_COPY_COMPLETE (R55, R285). -/
def fillCopy (s : State) (r frame : Nat) : State :=
  match (getRegion s r).pt.find? (fun e => e.2.helds.any fun h => h.frame == frame && !h.filled) with
  | some (page, e) =>
    match e.helds.find? (fun h => h.frame == frame && !h.filled) with
    | some h =>
      if regionAlive s r && (h.lap != s.lap.num % 65536 || writesDone s h.slot) then
        fillPage s r page h
      else s
    | none => s
  | none => s

/-- The structures that a fold reads (R283, R287). -/
def readFold (s : State) (r : Nat) : State :=
  readSystem (readSystem (readSystem s r .outcomes) r .pageTable) r .frameMap

/-- FOLD (R283): the next entry of the region's backlog. -/
def foldNext (s : State) (r : Nat) : State :=
  match (getRegion s r).foldQ with
  | p :: _ => if regionAlive s r then foldPage (readFold s r) r p else s
  | [] => s

/-- PT_RECORD_WRITE (R280): the oldest record in force goes into the table. -/
def ptWriteNext (s : State) (r : Nat) : State :=
  match (getRegion s r).ptForce with
  | p :: rest =>
    updRegion (readSystem s r .pageTable) r fun x => { setPte x p.page { tabGet pteReset x.pt p.page with
      frame := p.frame, valid := p.valid, lapLocal := p.lapLocal } with ptForce := rest }
  | [] => s

/-- An update record takes effect (R280): its checks, the frames it moves; none when it is dropped, and for a held page that is
its state out of lap service too: the rule names the commit point alone (DESIGN CHOICE, assumption 123). -/
def ptEffect (s : State) (r : Nat) (p : PtRec) : Option State :=
  let e := pteOf (getRegion s r) p.page
  let own := e.valid && p.frame == e.frame
  if !e.helds.isEmpty then none
  else if !own && frameState s r p.frame != 0 then none
  else
    let leaves := e.valid && (!own || !p.valid)
    let s :=
      if leaves then
        if retaining s then retainFrame s r p.page e.frame s.lap.num e.valid e.lapLocal
        else updRegion s r fun x => setFrameState x e.frame 0
      else s
    some (if p.valid then updRegion s r fun x => setFrameState x p.frame 2 else s)

/-- A posted record (R280, R558): at once outside lap service, after any record of the page still in force, else queued for
the commit point. -/
def ptPost (s : State) (r word0 word1 : Nat) : State :=
  let p : PtRec := ⟨nbits word0 0 21, nbits word1 0 21, nbit word1 21, nbit word1 22⟩
  if !inService s then
    let s := readSystem (readSystem s r .pageTable) r .frameMap
    match ptEffect s r p with
    | some s => updRegion s r fun x =>
        let x := settlePt x p.page
        setPte x p.page { tabGet pteReset x.pt p.page with frame := p.frame, valid := p.valid, lapLocal := p.lapLocal }
    | none => fput s fRGN_PT_STATUS_UPDATE_REJECTED r 0 1
  else
    let x := getRegion s r
    if 4096 ≤ x.ptPend.length + x.ptForce.length then fput s fRGN_PT_STATUS_QUEUE_FULL r 0 1
    else updRegion s r fun x => { x with ptPend := x.ptPend ++ [p] }

/-- Number of a requester's copy of the indirect registers (R554). -/
def copyOf : Requester → Nat
  | .bar0 => 0
  | .control _ => 1
  | .sideband => 2
  | .bar4 => 0

/-- Whether a requester reaches the registers of a region, none naming those of the part: a control core only those of its
region, and on the manager's region all of them (R34), and the host only while the endpoint is served (R26, assumption 79);
what lies outside takes no access (assumption 82). -/
def whoReaches (s : State) (who : Requester) (r : Option Nat) : Bool :=
  match who with
  | .control k => regionAlive s k && (r == some k || s.part.manager == some k)
  | .bar0 => endpointUp s
  | .sideband => true
  | .bar4 => false

/-- Whether a requester's registers are served: those that BAR0 reaches are none of a region's before READY (R574). -/
def whoServed (s : State) (who : Requester) : Bool := who != .bar0 || fget s fPART_BOOT_STATUS_PHASE 0 0 == 4

/-- A register write of a row with its requester as an input record, where it is the host's (R538). -/
def rowInput (s : State) (who : Requester) (o v : Nat) : State := if who == .bar0 then driverWrite s o v else s

/-- PT_UPDATE_RECORD (R280, R558); the sideband copy refuses the write (R554). -/
def ptUpdate (s : State) (who : Requester) (r word1 : Nat) : State :=
  if !regionAlive s r ∨ !whoReaches s who (some r) ∨ !whoServed s who then s
  else if who = .sideband then fput s fRGN_IND_STATUS_REFUSED r 2 1
  else ptPost s r (tabGet indReset (getRegion s r).ind (copyOf who)).ptWord0 word1

def execFillCopyComplete (r frame : Nat) (s : State) : Host.Outcome State Fault Refusal := .next (fillCopy s r frame)
def execFold (r : Nat) (s : State) : Host.Outcome State Fault Refusal := .next (foldNext s r)
def execPtRecordWrite (r : Nat) (s : State) : Host.Outcome State Fault Refusal := .next (ptWriteNext s r)
def execPtUpdateRecord (who : Requester) (r : Nat) (word1 : Word) (s : State) : Host.Outcome State Fault Refusal :=
  .next (if whoReaches s who (some r) && whoServed s who then ptUpdate (rowInput s who (0x20_0008 + r * 0x1_0000) word1.toNat) who r word1.toNat else s)

/-! ## The synchronisation-state dump (R444, R445) -/

/-- Tumblers that the dump lists. -/
def dumpTums (t : Tab Tumbler) : List (Nat × Tumbler) :=
  t.filter fun e => decide (e.1 < 4096) && (e.2.count != 0 || !e.2.waits.isEmpty || e.2.signals != 0)

/-- What a core waits for, as the dump codes it. -/
def waitKind (q : Seq) : Option Nat := if q.waitTum then some 0 else if q.waitSb then some 1 else if q.waitSum then some 2 else if q.qFull then some 3 else none

/-- A waiter's entry. Of a core that has stopped waiting since START only the core is shown (DESIGN CHOICE, assumption 112). -/
def dumpWaiter (s : State) (u : Nat) : Nat :=
  let q := (getCore s u).seq
  let w := tabGet 0 q.cstore q.pc
  let t := unitTask s u
  3 + u * 2 ^ 4 + match waitKind q with
    | some k => k * 2 ^ 16 + q.pc * 2 ^ 18 + (if k ≤ 1 then qImm w else 0) * 2 ^ 32 + (if k = 0 then q.tumAmount % 65536 else 0) * 2 ^ 64 +
        ((t.map (·.desc.index)).getD 0) * 2 ^ 80 + ((t.map (·.graph)).getD 0) * 2 ^ 96
    | none => 0

/-- Count of the tumbler of a hurdle's name, zero where it is on another part. -/
def hurdleCount (s : State) (leader n : Nat) : Nat := if nmRemote n then 0 else (tumGet s (tumRefOf (leader / 8) n)).count

/-- The entries between header and end, in the order of R444. -/
def dumpBody (s : State) : List DumpRef :=
  (s.blocks.flatMap fun b => (dumpTums b.2.tums).map fun e => .blockTum b.1 e.1) ++
  (s.regions.flatMap fun r => (dumpTums r.2.tums).map fun e => .regionTum r.1 e.1) ++
  ((s.cores.filter fun e => decide (e.1 < 512) && (waitKind e.2.seq).isSome).map fun e => .waiter e.1) ++
  (s.blocks.flatMap fun b => (b.2.sb.filter fun e => e.2.valid).map fun e => .scoreboard b.1 e.1) ++
  (s.hurdles.map fun h => .hurdle h.1)

/-- The contents of an entry at the instant that it is read. -/
def dumpEntry (s : State) (e : DumpRef) : Nat :=
  match e with
  | .header w => w
  | .blockTum b i => 1 + i * 2 ^ 4 + b * 2 ^ 16 + tumRecord (tumGet s ⟨false, b, i⟩) * 2 ^ 64
  | .regionTum r i => 2 + i * 2 ^ 4 + r * 2 ^ 16 + tumRecord (tumGet s ⟨true, r, i⟩) * 2 ^ 64
  | .waiter u => dumpWaiter s u
  | .scoreboard b i =>
    let x := getSb s b i
    4 + i * 2 ^ 4 + b * 2 ^ 12 + x.base * 2 ^ 64 + x.lines * 2 ^ 82 + x.producer * 2 ^ 100 + x.consumers * 2 ^ 103 + x.posted * 2 ^ 111 +
      sbReleased x * 2 ^ 119
  | .hurdle id =>
    let w := tabGet 0 s.hurdles id
    let leader := nbits w 112 9
    5 + id * 2 ^ 4 + w % 2 ^ 128 * 2 ^ 64 + hurdleCount s leader (nbits w 0 32) * 2 ^ 192 + hurdleCount s leader (nbits w 32 32) * 2 ^ 208 +
      hurdleCount s leader (nbits w 64 32) * 2 ^ 224

/-- The end entry, its CRC over every entry before it. -/
def dumpEnd (earlier : List Nat) : Nat :=
  let body := (earlier.flatMap fun e => natLe 32 e) ++ natLe 28 0xF
  0xF + crc32c body * 2 ^ 224

def dumpStart (s : State) : State :=
  if s.dump.busy then s
  else
    let body := dumpBody s
    let hdr := s.lap.num % 2 ^ 48 * 2 ^ 4 + fget s fPART_ID_ID 0 0 * 2 ^ 52 + body.length * 2 ^ 72
    { s with dump := ⟨true, .header hdr :: body, 0, [], 0⟩ }

def dumpCancel (s : State) : State := if s.dump.busy then { s with dump := { s.dump with todo := [], cur := 0, word := 0 } } else s

/-- The entry at hand: each is read at one instant, with its first word (R444). -/
def dumpAt (s : State) : Nat :=
  if s.dump.word ≠ 0 then s.dump.cur
  else match s.dump.todo with
    | e :: _ => dumpEntry s e
    | [] => dumpEnd s.dump.read

/-- The next 32 bits of the dump. -/
def dumpNext (s : State) : Nat × State :=
  let d := s.dump
  if !d.busy then (0, s)
  else
    let e := dumpAt s
    let v := nbits e (32 * d.word) 32
    if d.word < 7 then (v, { s with dump := { d with cur := e, word := d.word + 1 } })
    else if d.todo.isEmpty then (v, fput { s with dump := dumpReset } fPART_SYNC_DUMP_STATUS_DONE 0 0 1)
    else (v, { s with dump := { d with todo := d.todo.tail, cur := 0, read := d.read ++ [e], word := 0 } })

def execSyncDumpStart (s : State) : Host.Outcome State Fault Refusal := .next (dumpStart s)
def execSyncDumpCancel (s : State) : Host.Outcome State Fault Refusal := .next (dumpCancel s)
def execSyncDumpDataRead (s : State) : Host.Outcome State Fault Refusal :=
  let r := dumpNext s
  .next (emit r.2 (.read 0 0 [r.1]))

end Sys2Proof.Machine
end

