-- ==== Sys2Proof/Machine/Trackside.lean ====
section
/-! DEFINITION. The trackside recorder (R538 to R543) and the digest log (R540, R541). -/

namespace Sys2Proof.Machine

/-- Bytes of an input record: header, payload, padding to 32 bytes (R538). -/
def trkBytes (r : TrkRec) : Bytes :=
  let h := r.lap % 2 ^ 48 + r.source * 2 ^ 48 + r.region * 2 ^ 52 + r.timeNs * 2 ^ 56 + r.data.length * 2 ^ 80 +
    r.addr % 2 ^ 64 * 2 ^ 112
  let hb := natLe 28 h
  hb ++ natLe 4 (crc32c (hb ++ r.data)) ++ r.data ++ List.replicate ((32 - r.data.length % 32) % 32) 0

def jLap : TrkJ → Nat
  | .page l _ _ _ _ _ _ => l
  | .line l _ _ _ => l
  | .stream l _ _ => l
  | .owner l _ _ => l

/-- Give back the frames of a dropped journal entry: the retained frame to the pool, the lent frame to FREE (R539). A retained frame
that is worn is retired, as one that returns to the pool is, and the lent frame stays in its place (R288). -/
def giveBack (s : State) : TrkJ → State
  | .page _ r _ f lent _ _ =>
    let s := updRegion s r fun x => { x with retained := x.retained.filter fun g => g != f }
    if frameState s r f != 1 then s
    else if lent = f then toPool s r f
    else if frameWorn s r f && mayRetire s r then retireFrame s r f
    else updRegion s r fun x =>
      if tabGet none x.frameSt lent = some 1 ∧ !hasNat (heldFrames x) lent then setFrameState x lent 0
      else setFrameState x f 0
  | _ => s

/-- Drop the window's oldest lap whole, with what a late fold has journalled under a lap before it (R539). -/
def dropLap (s : State) : State :=
  let l := s.trk.firstLap
  let gone := s.trk.journal.filter fun j => decide (jLap j ≤ l)
  let s := gone.foldl giveBack s
  { s with trk := { s.trk with
      firstLap := l + 1, recs := s.trk.recs.filter (fun r => decide (l < r.lap)), journal := s.trk.journal.filter (fun j => decide (l < jLap j)) } }

/-- Set LAPS_KEPT (R545). -/
def setKept (s : State) (n : Nat) : State := fput s fPART_TRK_STATUS_LAPS_KEPT 0 0 n

/-- Discard the whole window: retained frames and lent frames return. -/
def dropWindow (s : State) : State :=
  let s := s.trk.journal.foldl giveBack s
  setKept { s with trk := { s.trk with recs := [], journal := [], firstLap := s.lap.num } } 0

/-- Bytes of a region's records, and its retention in frames' worth (R539). -/
def ringBytes (s : State) (r : Nat) : Nat :=
  s.trk.recs.foldl (fun n x => if x.region = r then n + 32 + ceilDiv x.data.length 32 * 32 else n) 0

def jRegion : TrkJ → Nat
  | .page _ r _ _ _ _ _ => r
  | .line _ b _ _ => b / 8
  | .stream _ n _ => n / 8192
  | .owner .. => 0

def retained128 (s : State) (r : Nat) : Nat :=
  s.trk.journal.foldl (fun n j => if jRegion j = r then n + (match j with | .page .. => 512 | .line .. => 1 | _ => 0) else n) 0

/-- Whether a region's retention budget has run out (R539, R542). -/
def overRetain (s : State) : Bool :=
  (rangeFrom 0 (nRegions s)).any fun r => decide (fget s fRGN_TRK_CFG_RETAIN r 0 * 1024 * 512 < retained128 s r)

/-- Whether a region's ring or retention budget is exceeded (RGN_TRK_CFG). -/
def overBudget (s : State) : Bool :=
  overRetain s || (rangeFrom 0 (nRegions s)).any fun r => decide (fget s fRGN_TRK_CFG_RING_GIB r 0 * 2 ^ 30 < ringBytes s r)

/-- Laps in the window. -/
def windowLaps (s : State) : Nat := s.lap.num + 1 - s.trk.firstLap

/-- Keep the window within WINDOW_LAPS and the budgets; fewer than 16 laps sets SHORT (R539). -/
def trimWindow : Nat → State → State
  | 0, s => s
  | n + 1, s =>
    if windowLaps s ≤ 1 then s
    else if fget s fPART_TRK_CFG_WINDOW_LAPS 0 0 < windowLaps s then trimWindow n (dropLap s)
    else if overBudget s then
      let s := dropLap s
      trimWindow n (if windowLaps s < 16 then fput s fPART_TRK_STATUS_SHORT 0 0 1 else s)
    else s

/-! ## The image (R543) -/

/-- An owner table as bytes: block size, entries, and the entries that are not zero with their numbers (assumption 15). -/
def ownBytes (o : OwnTable) : Bytes :=
  natLe 16 (o.log2 + o.count * 2 ^ 8 + o.ents.length * 2 ^ 32) ++ o.ents.flatMap fun e => natLe 16 (e.1 + e.2 * 2 ^ 64)

/-- Journal entries as bytes: the manual gives no layout; kind, lap, place, old contents (DESIGN CHOICE, assumption 15). -/
def jBytes : TrkJ → Bytes
  | .page l r p f _ v ll => natLe 32 (l % 2 ^ 48 + r * 2 ^ 52 + p * 2 ^ 64 + f * 2 ^ 96 + b2n v * 2 ^ 120 + b2n ll * 2 ^ 121)
  | .line l b n d => natLe 32 (l % 2 ^ 48 + 1 * 2 ^ 48 + b * 2 ^ 52 + n * 2 ^ 64) ++ d
  | .owner l t o => natLe 32 (l % 2 ^ 48 + 3 * 2 ^ 48 + t * 2 ^ 64) ++ ownBytes o
  | .stream l n x => natLe 32 (l % 2 ^ 48 + 2 * 2 ^ 48 + n * 2 ^ 64) ++ natLe 32 (x.key + x.counter * 2 ^ 64 + b2n x.valid * 2 ^ 128)

/-- Journal entries of the laps of the window. -/
def windowJ (s : State) : List TrkJ := s.trk.journal.filter fun j => decide (s.trk.firstLap ≤ jLap j)

/-- The frame that held a page at the window's first lap, and whether the page was lap-local (R539, R543): the first that the window
replaced, else that of the last commit before it. -/
def baseFrame (s : State) (r page : Nat) : Option (Nat × Bool) :=
  match (windowJ s).find? (fun j => match j with | .page _ r' p _ _ _ _ => r' == r && p == page | _ => false) with
  | some (.page _ _ _ f _ v ll) => if v then some (f, ll) else none
  | _ =>
    let e := pteOf (getRegion s r) page
    let before := e.helds.filter fun h => outcomeOf (getRegion s r) h.lap h.slot == 1 &&
      decide (s.lap.num - (s.lap.num - h.lap) % 65536 < s.trk.firstLap)
    if e.valid then some (((before.getLast?.map (·.frame)).getD e.frame), e.lapLocal) else none

/-- Contents of a page at the window's first lap; a lap-local page has been cleared there (R49). -/
def basePage (s : State) (r : Nat) (f : Nat × Bool) : Bytes :=
  if f.2 then List.replicate 65536 0 else memRead (getRegion s r).hbm (f.1 * 65536) 65536

/-- Pages of a region that are listed or journalled. -/
def basePages (s : State) (r : Nat) : List Nat :=
  (windowJ s).foldl (fun l j => match j with | .page _ r' p _ _ _ _ => if r' = r then insNat l p else l | _ => l)
    ((getRegion s r).pt.map (·.1))

/-- The stream record of stream n at the window's first lap. -/
def baseStream (s : State) (n : Nat) : RStream :=
  match (windowJ s).find? (fun j => match j with | .stream _ m _ => m == n | _ => false) with
  | some (.stream _ _ x) => x
  | _ => tabGet rstreamReset (getRegion s (n / 8192)).streams (n % 8192)

/-- A block-store line at the window's first lap. -/
def baseLine (s : State) (b l : Nat) : Bytes :=
  match (windowJ s).find? (fun j => match j with | .line _ b' l' _ => b' == b && l' == l | _ => false) with
  | some (.line _ _ _ d) => d
  | _ => memRead (getBlock s b).bs (l * 128) 128

/-- Lines of a block that hold anything or were journalled. -/
def baseLines (s : State) (b : Nat) : List Nat :=
  (windowJ s).foldl (fun l j => match j with | .line _ b' n _ => if b' = b then insNat l n else l | _ => l)
    ((getBlock s b).bs.foldl (fun l c => insNat l (c.1 / 128)) [])

/-- Streams of a region with a record or a journal entry. -/
def baseStreams (s : State) (r : Nat) : List Nat :=
  (windowJ s).foldl (fun l j => match j with | .stream _ n _ => if n / 8192 = r then insNat l n else l | _ => l)
    ((getRegion s r).streams.map fun e => r * 8192 + e.1)

/-- A stream record (R262). -/
def streamWord (x : RStream) : Nat :=
  crcSeal 32 (x.key % 2 ^ 64 + x.counter % 2 ^ 64 * 2 ^ 64 + b2n x.valid * 2 ^ 128 + b2n x.wrapped * 2 ^ 129)

/-- An owner table at the window's first lap. -/
def baseOwner (s : State) (t : Nat) : OwnTable :=
  match (windowJ s).find? (fun j => match j with | .owner _ t' _ => t' == t | _ => false) with
  | some (.owner _ _ o) => o
  | _ => getOwner s t

/-- The base: pages, lines, streams, owner tables, each with a 16-byte name (assumption 15). -/
def baseBytes (s : State) : Bytes :=
  ((rangeFrom 0 256).flatMap fun t => if (baseOwner s t).count = 0 then [] else natLe 16 (4 + t * 2 ^ 8) ++ ownBytes (baseOwner s t)) ++
  (rangeFrom 0 (nRegions s)).flatMap fun r =>
    ((basePages s r).flatMap fun p => match baseFrame s r p with
      | some f => natLe 16 (1 + r * 2 ^ 8 + p * 2 ^ 32 + b2n f.2 * 2 ^ 64) ++ basePage s r f
      | none => []) ++
    ((rangeFrom (r * 8) 8).flatMap fun b => (baseLines s b).flatMap fun l => natLe 16 (2 + b * 2 ^ 8 + l * 2 ^ 32) ++ baseLine s b l) ++
    ((baseStreams s r).flatMap fun n => natLe 16 (3 + n * 2 ^ 32) ++ natLe 32 (streamWord (baseStream s n)))

/-- Whether a lap lies in the window that a freeze leaves. -/
def inWindow (s : State) (lap : Nat) : Bool := decide (s.trk.firstLap ≤ lap ∧ lap ≤ s.trk.lastLap)

/-- The lap log's bytes in the window: records of SOURCE 7, which the recorder copies, of the laps that they log (R107). -/
def logBytes (s : State) : Bytes := (s.trk.recs.filter fun r => r.source == 7 && inWindow s (leNat (r.data.take 6))).flatMap (·.data)

def digestBytes (s : State) : Bytes := (s.digests.filter fun e => inWindow s (e.2 % 2 ^ 48)).flatMap fun e => natLe 128 e.2

/-- The trackside image (R543). -/
def trkImage (s : State) : Bytes :=
  let logs := logBytes s
  let ins := (s.trk.recs.filter fun r => r.source != 7 && inWindow s r.lap).flatMap trkBytes
  let j := (windowJ s).flatMap jBytes
  let dg := digestBytes s
  let base := baseBytes s
  natLe 64 (s.trk.firstLap % 2 ^ 48 + s.trk.lastLap % 2 ^ 48 * 2 ^ 48 + s.trk.triggerLap % 2 ^ 48 * 2 ^ 96 + fget s fPART_ID_ID 0 0 * 2 ^ 144 +
    logs.length * 2 ^ 192 + ins.length * 2 ^ 256 + j.length * 2 ^ 320 + dg.length * 2 ^ 384 + base.length * 2 ^ 448) ++
    logs ++ ins ++ j ++ dg ++ base

/-- Freeze: the image and its length stand, and class TRACKSIDE is raised (R542). -/
def trkFreeze (s : State) : State :=
  let s := setTrkState s 3
  let img := trkImage s
  let s := setKept { s with trk := { s.trk with image := img, gapNow := true } } (s.trk.lastLap + 1 - s.trk.firstLap)
  let s := fput (fput s fPART_TRK_IMG_BYTES_LO_BYTES_LO 0 0 (img.length % 2 ^ 32)) fPART_TRK_IMG_BYTES_HI_BYTES_HI 0 0 (img.length / 2 ^ 32)
  errPart s (errRecord s 0xE 3 0x24 0 8 0 3)

/-- Whether a triggered recorder has recorded its laps whole, the records of the last one's commit point among them (R542, R543). -/
def freezeDue (s : State) : Bool := trkState s == 2 && s.trk.postLeft == 0

/-- Note whether every input of the lap that ends was recorded, and start on the next (R540). -/
def closeGap (s : State) : State :=
  let n := s.lap.num
  let old := s.trk.gaps.filter fun l => decide (n < l + 512) && l != n
  { s with trk := { s.trk with gaps := if s.trk.gapNow then n :: old else old, gapNow := !recordingOn s } }

/-- The recorder closes the lap that a mark ends (R46, R539, R542); s stands in that lap still. A frozen recorder whose retention budget
has run out is BROKEN. -/
def trkClose (s : State) : State :=
  let s := closeGap s
  if recordingOn s then
    let s := trimWindow 512 s
    setKept s (windowLaps s)
  else if trkState s = 3 ∧ overRetain s = true then setTrkState (dropWindow s) 5
  else s

/-- A mark freezes a recorder that is due and has not yet (R542). -/
def trkPost (s : State) : State := if freezeDue s then trkFreeze s else s

/-- A lap has been recorded whole once its log record and its digest entry stand (R542, R543). -/
def trkWhole (s : State) (lap : Nat) : State :=
  if trkState s = 2 ∧ s.trk.triggerLap ≤ lap ∧ 0 < s.trk.postLeft then
    { s with trk := { s.trk with postLeft := s.trk.postLeft - 1, lastLap := lap } }
  else s

/-- TRIGGER (R542), a write of the driver. -/
def execTrigger (s : State) : Host.Outcome State Fault Refusal := .next (trkTrigger (driverWrite s 0x100B04 1))

/-- TRACKSIDE_FREEZE (R542): enabled once POST_LAPS more laps have been recorded. -/
def execTracksideFreeze (s : State) : Host.Outcome State Fault Refusal := .next (trkPost s)

/-- RELEASE (R543): a freeze ends, and recording starts again where ENABLE is still 1. -/
def trkRelease (s : State) : State :=
  if trkState s = 3 then setTrkState (dropWindow s) (if fget s fPART_TRK_CFG_ENABLE 0 0 = 1 then 1 else 0) else s

def execRelease (s : State) : Host.Outcome State Fault Refusal := .next (trkRelease (driverWrite s 0x100B04 2))

/-- Check the frames of the base as their bytes are read for the image (R278, R286); lost data stays as the frame holds it. -/
def checkBase (s : State) : State :=
  (rangeFrom 0 (nRegions s)).foldl (fun s r => if hbmSound s r then s
    else ((basePages s r).filterMap (baseFrame s r)).foldl (fun s f => if f.2 then s
      else (rangeFrom 0 2048).foldl (fun s h => (readHalf s r f.1 (h * 32) false).1) s) s) s

/-- EXPORT (R543): the frozen image goes to the host buffer. A failed translation leaves it unwritten (R484). -/
def trkExport (s : State) : State :=
  let h := fget s fPART_TRK_IMG_HI_BASE_HI 0 0 * 2 ^ 32 + fget s fPART_TRK_IMG_LO_BASE_LO 0 0 * 4096
  if trkState s = 3 ∧ hostOk s h s.trk.image.length then
    hostWrite (hostTouch (checkBase s) h s.trk.image.length) h s.trk.image
  else s

def execExportImage (s : State) : Host.Outcome State Fault Refusal := .next (trkExport (driverWrite s 0x100B04 4))

/-- ENABLE written (R538): recording starts at 1 from OFF, and stops at 0, discarding the window. -/
def trkEnable (s : State) (on : Bool) : State :=
  let st := trkState s
  if on && st == 0 then setTrkState { s with trk := { s.trk with recs := [], journal := [], firstLap := s.lap.num } } 1
  else if !on && (st == 1 || st == 2 || st == 5) then
    let s := dropWindow s
    setTrkState { s with trk := { s.trk with gapNow := true } } 0
  else s

/-! ## Digests (R540, R541) -/

/-- Digest of a frame's contents, as bytes. -/
def shaBytes (b : Bytes) : Bytes := natLe 32 (Config.shake256 b).toNat

/-- The state digest of a lap from its committed pages and lines, both rising (R541; a number is absorbed as four
little-endian bytes, assumption 15). -/
def stateDigest (s : State) (pages lines : List (Nat × Nat)) : Bytes :=
  let region := fun (r : Nat) =>
    if !regionAlive s r then List.replicate 32 (0 : Byte)
    else
      let ps := (pages.filter fun e => e.1 == r).flatMap fun e =>
        let pte := pteOf (getRegion s r) e.2
        let f := resolveLine (getRegion s r) pte s.lap.num noSlot [] 0
        natLe 4 e.2 ++ shaBytes (memRead (getRegion s r).hbm (f * 65536) 65536)
      let ls := (lines.filter fun e => e.1 / 8 == r).flatMap fun e =>
        natLe 4 (e.1 % 8) ++ natLe 4 e.2 ++ memRead (getBlock s e.1).bs (e.2 * 128) 128
      shaBytes (ps ++ ls)
  shaBytes ((rangeFrom 0 8).flatMap region)

/-- The digest-log entry of a lap (R540). -/
def digestEntry (s : State) (lap : Nat) (state log : Bytes) : Nat :=
  let ins := (rangeFrom 0 8).flatMap fun r => (s.trk.recs.filter fun x => x.lap == lap && x.region == r).flatMap trkBytes
  crcSeal 128 (lap % 2 ^ 48 + b2n (hasNat s.trk.gaps lap) * 2 ^ 48 + leNat (shaBytes ins) * 2 ^ 64 + leNat state * 2 ^ 320 +
    leNat (shaBytes log) * 2 ^ 576)

end Sys2Proof.Machine
end

