-- ==== Sys2Proof/Machine/Pacer.lean ====
section
/-! DEFINITION. The pacer (R92 to R106, R606): budget, thermal caps, readiness, admission and placement, spin filler. -/

namespace Sys2Proof.Machine

/-! ## Times and energies; an energy is a rational number of nJ -/

def periodUs (s : State) : Nat := fget s fPART_LAP_CFG_PERIOD_US 0 0

/-- A lap of p µs without a commit window of w quarter-µs and 500 ns, in ns. -/
def lapLess (p w : Nat) : Nat := ((p * 1000 : Nat) - (w * 250 + 500 : Nat) : Int).toNat

/-- Task budget of a lap in ns (R47). -/
def taskBudgetNs (s : State) : Nat := lapLess (periodUs s) (fget s fPART_LAP_CFG_COMMIT_WIN 0 0)

/-- Clock of a unit's tasks in MHz (R110, R345). -/
def unitClock (s : State) (u : Nat) : Nat := if isSE u then 1200 else s.fuses.clockMHz

/-- Whether a number of cycles fits the task budget (R110). -/
def cyclesFit (s : State) (clock cycles : Nat) : Bool := decide (cycles * 1000 ≤ taskBudgetNs s * clock)

def energyEntry (s : State) (cls : Nat) : Nat := tabGet 0 s.part.energy cls
def fixedNj (e : Nat) : Nat := nbits e 0 24
def perUnitPj (e : Nat) : Nat := nbits e 24 24

/-- Estimated energy of a task (R102). -/
def taskEnergy (s : State) (d : TaskDesc) : Rat :=
  let e := energyEntry s d.energyClass
  ((fixedNj e : Rat) + (d.workUnits * perUnitPj e : Nat) / 1000) * (100 + fget s fPART_PACER_CFG_MARGIN_PCT 0 0 : Nat) / 100

/-! ## Pages and stacks of a task (R96, R303, R354) -/

/-- HBM pages of a range of addresses: region and page. -/
def rangePages (s : State) (a n : Nat) : List (Nat × Nat) :=
  if n = 0 then []
  else (rangeFrom (a / 65536) ((a + n - 1) / 65536 + 1 - a / 65536)).filterMap fun k =>
    match placeOf s none (k * 65536) with | .hbm r page _ => some (r, page) | _ => none

/-- HBM pages of a run, of a distributed tensor piece by piece (R303). -/
def runPages (s : State) (table : Option Nat) (a n : Nat) : List (Nat × Nat) :=
  match table with
  | none => rangePages s a n
  | some t => (ownerPieces (getOwner s t).log2 (2 * (n / 65536) + 2) a 0 n).flatMap fun p =>
    match resolveOwner s t p.1 with | some o => if o.part = selfId s then rangePages s (ownedAddr o) p.2.2 else [] | none => []

/-- HBM pages that a walk covers, with every index below INDEX_LIMIT (R354). -/
def walkPages (s : State) (w : Walk) : List (Nat × Nat) :=
  let p := w.pat
  (rangeFrom 0 (pRuns p)).flatMap fun t => (rangeFrom 0 (if pIndexed p then pLimit p else 1)).flatMap fun (x : Nat) =>
    runPages s w.table (runBase p t + (if pIndexed p then (x : Int) * pStride p (pIdxDim p) else 0)).toNat (pLen p)

/-- Walks of a task's arm list. -/
def armsOf (s : State) (d : TaskDesc) : List Walk :=
  match (taskRead s d.armList (64 + 128 * d.armCount)).2 with
  | .ok b => ((blocksOf 128 d.armCount (b.drop 64)).map leNat).map (armWalk s)
  | _ => []

/-- Committed frame of a page. -/
def committedFrame (s : State) (r page : Nat) : Nat :=
  resolveLine (getRegion s r) (pteOf (getRegion s r) page) s.lap.num noSlot [] 0

/-- Number of the stack engine whose stack holds the first page of a task's first stream arm (R96). -/
def homeEngine (s : State) (d : TaskDesc) : Option Nat :=
  (armsOf s d).head?.bind fun w => (walkAddr s w.table (pBase w.pat)).bind fun a => match placeOf s none a with
    | .hbm r page _ => some (2 * r + b2n (decide (2 ^ 20 ≤ committedFrame s r page)))
    | _ => none

/-- Whether a stack engine runs a task of its sibling's stack (R361). -/
def coverTask (s : State) (u : Nat) (d : TaskDesc) : Bool :=
  isSE u && match homeEngine s d with | some e => e != u - 512 | none => false

/-- Cycles that a task takes on a unit: COVER_FACTOR times the estimate on a covering engine (R361). -/
def cyclesOn (s : State) (u : Nat) (d : TaskDesc) : Nat :=
  if coverTask s u d then d.cyclesEst * fget s fSE_CFG_COVER_FACTOR (u - 512) 0 else d.cyclesEst

/-- Charge of a spin of so many ns on a unit, without the margin of task estimates (R104). -/
def spinCharge (s : State) (u : Nat) (ns : Rat) : Rat :=
  let e := energyEntry s (if isSE u then 0xFE else 0xFF)
  (fixedNj e : Rat) + ns * (perUnitPj e : Nat) / 1000

/-- Charge of a unit for its tasks of a lap: their estimates and the spin of the rest of the task budget (R104). -/
def unitCharge (s : State) (u : Nat) (ds : List TaskDesc) : Rat :=
  if ds.isEmpty then 0
  else
    let busy : Rat := ((ds.map (cyclesOn s u)).sum * 1000 : Nat) / (unitClock s u : Nat)
    (ds.map (taskEnergy s)).sum + spinCharge s u (max 0 ((taskBudgetNs s : Nat) - busy))

/-- Largest n with n^20 at most v, by bisection over the bits given. -/
def root20 (v : Nat) : Nat → Nat → Nat
  | 0, lo => lo
  | b + 1, lo => if (lo + 2 ^ b) ^ 20 ≤ v then root20 v b (lo + 2 ^ b) else root20 v b lo

/-- 2^(t/20), truncated to 64 fraction bits within an octave (DESIGN CHOICE, assumption 16: the manual states no rounding). -/
def pow2Twentieth (t : Int) : Rat :=
  let q := t / 20
  let k := (t % 20).toNat
  let m : Rat := (root20 (2 ^ (1280 + k)) 66 0 : Nat) / (2 ^ 64 : Nat)
  if q < 0 then m / (2 ^ (-q).toNat : Nat) else m * (2 ^ q.toNat : Nat)

/-- Highest of a region's twelve readings (R606). -/
def tMax (s : State) (r : Nat) : Int :=
  let t := (getRegion s r).sensors
  (rangeFrom 1 11).foldl (fun m i => max m (tabGet 0 t i)) (tabGet 0 t 0)

/-- E_leak(r) (R606). -/
def leakOf (s : State) (r : Nat) : Rat :=
  (periodUs s * 1000 : Nat) *
    ((tabGet 0 s.fuses.standingW r : Nat) + (tabGet 0 s.fuses.leak85W r : Nat) * pow2Twentieth (tMax s r - 85))

/-- E_th(r) (R101, R606). -/
def capOf (s : State) (r : Nat) : Rat :=
  let theta : Rat := (fget s fRGN_THERM_CFG_THETA r 0 : Nat) / 1000
  let p : Rat := (periodUs s * 1000 : Nat)
  let pmeas : Rat := ((tabGet 0 s.lap.measured r : Nat) + (tabGet 0 s.pacer.leakPrevNj r : Nat)) / p
  let tbase : Rat := (tMax s r : Rat) - theta * pmeas
  p * ((105 - fget s fPART_PACER_CFG_THERM_GUARD_C 0 0 : Int) - tbase) / theta

/-- Budget factor in percent (R98). -/
def factorOf (pace : Nat) (shedN : Bool) : Nat := if shedN then 100 - 10 * (pace % 4) else 60

def sustainedW (s : State) : Nat := match s.fuses.grade with | .iz4a => 2700 | _ => 5200
def peakW (s : State) : Nat := match s.fuses.grade with | .iz4a => 3000 | _ => 5800

/-! ## Groups and order (R93, R105) -/

/-- Labels of same-lap groups: the least task index joined to each task by local edges. -/
def groupLabels (edges : List Edge) : Nat → List Nat → List Nat
  | 0, l => l
  | n + 1, l =>
    let l' := edges.foldl (fun (l : List Nat) e =>
      let m := min (l.getD e.src 0) (l.getD e.dst 0)
      (l.set e.src m).set e.dst m) l
    if l' = l then l else groupLabels edges n l'

def localEdges (g : Graph) : List Edge := g.edges.filter fun e => e.kind != 0

/-- Label of every task of a graph. -/
def labelsOf (g : Graph) : List Nat := groupLabels (localEdges g) g.tasks.length (rangeFrom 0 g.tasks.length)

/-- Longest path in cycles from every task to the graph's sinks (R105). -/
def criticalPaths (g : Graph) : Nat → List Nat → List Nat
  | 0, l => l
  | n + 1, l =>
    let l' := g.edges.foldl (fun (l : List Nat) e =>
      let c := (g.tasks[e.src]?.map (·.cyclesEst)).getD 0 + l.getD e.dst 0
      if l.getD e.src 0 < c then l.set e.src c else l) l
    if l' = l then l else criticalPaths g n l'

/-- A group that may be admitted as one item, at the place of its highest-ranked task (R105): that task's rank, path and
index. -/
structure Item where
  graph : Graph
  tasks : List Nat
  /-- 0: rendezvous. 1: other mandatory work. 2: ready unguarded. 3: guarded. -/
  rank : Nat
  path : Nat
  first : Nat
  deriving DecidableEq, Repr

/-- Admission order (R105). Within mandatory work the manual puts rendezvous first and no more; the model goes on there by
PRIORITY, path, GRAPH_ID and TASK_INDEX as among ready work (DESIGN CHOICE, assumption 87). -/
def itemLe (a b : Item) : Bool :=
  if a.rank ≠ b.rank then decide (a.rank < b.rank)
  else if a.graph.priority ≠ b.graph.priority then decide (b.graph.priority < a.graph.priority)
  else if a.path ≠ b.path then decide (b.path < a.path)
  else if a.graph.id ≠ b.graph.id then decide (a.graph.id < b.graph.id)
  else decide (a.first ≤ b.first)

/-! ## Readiness (R92, R94, R369 to R372, R379, R494) -/

def gst (g : Graph) (i : Nat) : GTask := tabGet gtaskReset g.st i
def taskOf (g : Graph) (i : Nat) : Option TaskDesc := g.tasks[i]?
def bufsOf (g : Graph) (i : Nat) : List BufDecl := (g.bufs[i]?).getD []
def inList (l : List LapTask) (g : Graph) (i : Nat) : Bool := l.any fun k => k.graph == g.id && k.desc.index == i && !k.filler

/-- Guard of a task: none unguarded or with the value of its resolution. -/
def guardEntry (g : Graph) (id : Nat) : Option GuardEnt := g.guards.find? fun e => e.id == id

/-- Conditions of R372 on a task alone; those on other tasks of its lap are tested when it is placed. -/
def specAlone (t : TaskDesc) (bufs : List BufDecl) : Bool :=
  t.kind == 0 && t.rvKey == 0 && bufs.all fun b => b.scope ≤ 1

/-- Whether a predecessor allows its successor in the lap being planned: done and not to run again with its group, or placed in
the running lap and not yet decided (R92), or a SPEC_HELD member of the same epoch (R372). -/
def predOk (s : State) (g : Graph) (t : TaskDesc) (early : Bool) (p : Nat) : Bool :=
  let d := (gst g p).done
  ((d == 1 || d == 3) && !(gst g p).again) || (early && inList s.lap.cur g p) ||
    (d == 2 && specAlone t (bufsOf g t.index) && match taskOf g p with
      | some q => q.guardId != 0 && q.guardId == t.guardId && q.specEpoch == t.specEpoch
      | none => false)

/-- Whether a guarded task's guard has been confirmed. -/
def confirmed (g : Graph) (id : Nat) : Bool := g.guardsDone.any fun e => e.1 == id && e.2

/-- A held buffer of one task meets that of another. -/
def buffersMeet (a b : BufDecl) : Bool :=
  a.scope == 0 && b.scope == 0 && decide (a.base < b.base + b.size ∧ b.base < a.base + a.size)

/-- Stream numbers that a task's arm list binds (R316). -/
def boundBy (s : State) (d : TaskDesc) : List Nat :=
  match (taskRead s d.armList 64).2 with
  | .ok b => (rangeFrom 0 8).filterMap fun i => if nbit (leNat b) (32 * i + 16) then some (nbits (leNat b) (32 * i) 16) else none
  | _ => []


/-- Peers of a task. -/
def peersOf (bufs : List BufDecl) : List Nat := (bufs.filter fun b => b.scope == 3).foldl (fun l b => insNat l b.peer) []

/-- The exchange of a receiving declaration (R66, R90): sending part and exchange ID. -/
def exchangeOf (s : State) (t : TaskDesc) (b : BufDecl) : Nat × Nat :=
  (b.peer, Config.exchangeId t.rvKey b.slot b.peer (fget s fPART_ID_ID 0 0) % 65536)

/-- Declarations of a task that still need their peer: all but those whose payload is resent (R75). -/
def liveBufs (s : State) (x : GTask) (t : TaskDesc) (bufs : List BufDecl) : List BufDecl :=
  bufs.filter fun b => b.scope == 3 && !(b.dir == 1 && x.resent.any fun e => (e.1, e.2.1) == exchangeOf s t b)

/-- Tasks of a rendezvous key on this part that have still to end: graph and task. -/
def keyTasks (s : State) (key : Nat) : List (Graph × TaskDesc) :=
  s.graphs.flatMap fun g => if !g.resolved then [] else
    (g.tasks.filter fun t => t.rvKey == key && (!(gst g t.index).ended || (gst g t.index).again)).map fun t => (g, t)

/-- Peers of a key: those that the declarations of its tasks still need. -/
def keyPeers (s : State) (key : Nat) : List Nat :=
  ((keyTasks s key).flatMap fun e => peersOf (liveBufs s (gst e.1 e.2.index) e.2 (bufsOf e.1 e.2.index))).foldl insNat []

/-- Whether the tasks of a rendezvous key may be placed (R94): offers have gone to every peer of the key and come from it, none
has declined or is lost (R72), and the part still takes part in exchanges (R45). A re-run on resent payloads alone waits for no
offer (R75), but it consumes nothing of a lost partner either. A task of a key that exchanges nothing itself goes with its key. -/
def rendezvousOk (s : State) (lap : Nat) (x : GTask) (t : TaskDesc) (bufs : List BufDecl) : Bool :=
  if x.resent.any fun e => hasNat s.lap.lost e.1 then false
  else if (peersOf (liveBufs s x t bufs)).isEmpty && (t.rvKey == 0 || !x.resent.isEmpty) then true
  else
    let ps := keyPeers s t.rvKey
    ps.all (fun p => (s.link.offersIn.any fun o => o.1 == p && o.2.1 + 1 == lap && o.2.2 == t.rvKey) &&
        s.link.offersOut.any fun o => o.1 == p && o.2.1 + 1 == lap && o.2.2 == t.rvKey) &&
      !s.link.declined.any (fun o => hasNat ps o.1 && o.2 == t.rvKey) &&
      ps.all (fun p => !hasNat s.lap.lost p) && decide (s.lap.holdover ≤ 16)

/-- Manifest pages not yet relayed of a snapshot in progress: number in the image, region and page (R528). -/
def dueImage (s : State) : List (Nat × Nat × Nat) :=
  if fget s fPART_SNAP_STATUS_STATE 0 0 ≠ 2 then []
  else ((rangeFrom 1 s.snap.pages.length).zip s.snap.pages).filter fun e => decide (s.snap.next ≤ e.1) && !hasNat s.snap.early e.1

def unrelayed (s : State) : List (Nat × Nat) := (dueImage s).map (·.2)

/-- Whether the records of a stream's region have been relayed: the header and those of the regions before it go first (R528). -/
def streamRelayed (s : State) (n : Nat) : Bool := decide (4 * (n / 8192) + 5 ≤ s.snap.head)

/-- Whether a task would hold-write a page that a snapshot has still to relay, or bind a stream of it (R528). -/
def snapBlocks (s : State) (un : List (Nat × Nat)) (d : TaskDesc) (bufs : List BufDecl) : Bool :=
  !un.isEmpty &&
    ((bufs.any fun b => b.scope == 0 && b.writes && un.any fun e =>
        let a := e.1 * 0x20_0000_0000 + e.2 * 65536
        decide (a < b.base + b.size ∧ b.base < a + 65536)) ||
      (boundBy s d).any fun n => !streamRelayed s n)

/-- Whether a fetch from the host window into a held buffer of a task has not ended: its consumer waits for a lap after the fetch, as for
a COMMIT predecessor (R92, R391; DEDUCED, assumption 106). -/
def fetchBlocks (s : State) (bufs : List BufDecl) : Bool :=
  s.regions.any fun r => r.2.dma.any fun c =>
    let e := DmaEng.rgn r.1
    let x := c.2
    let size := chRing s e c.1
    let start := x.copyAt.getD (chHead s e c.1)
    let live := x.rerunLap.isSome || (chState s e c.1 != 3 && (x.desc.isSome || headOwned s e c.1))
    decide (8 ≤ c.1) && live && (rangeFrom 0 ((chTail s e c.1 + size - start) % size)).any fun k =>
      let w := readEntry s e c.1 ((start + k) % size)
      hostXfer s e c.1 w && isHost (chPlace s e c.1 (dSrc w)) &&
        bufs.any fun b => b.scope == 0 && decide (b.base < dDst w + dLen w ∧ dDst w < b.base + b.size)

/-- Whether a task may be placed in the lap being planned, apart from room and from the others of its key; early: predecessors of
the running lap still count as placed. -/
def readyAlone (s : State) (un : List (Nat × Nat)) (early : Bool) (lap : Nat) (g : Graph) (i : Nat) : Bool :=
  match taskOf g i with
  | none => false
  | some t =>
    let x := gst g i
    let preds := (g.edges.filter fun e => e.kind == 0 && e.dst == i).map (·.src)
    let guarded := t.guardId != 0 && !confirmed g t.guardId
    let open' := guarded && fget s fPART_PACER_CFG_SPEC_ENABLE 0 0 == 1 && specAlone t (bufsOf g i)
    (x.done == 0 || x.again) && decide (x.notBefore ≤ lap) && (!early || !inList s.lap.cur g i) && preds.all (predOk s g t early) &&
      (!guarded || open') && rendezvousOk s lap x t (bufsOf g i) && !snapBlocks s un t (bufsOf g i) &&
      !fetchBlocks s (bufsOf g i)

/-- Whether a task may be placed: ready, with every other task of its key, which is placed as a whole (R94). -/
def taskReady (s : State) (un : List (Nat × Nat)) (early : Bool) (lap : Nat) (g : Graph) (i : Nat) : Bool :=
  readyAlone s un early lap g i &&
    ((taskOf g i).all fun t => t.rvKey == 0 || ((peersOf (liveBufs s (gst g i) t (bufsOf g i))).isEmpty && !(gst g i).resent.isEmpty) ||
      (keyTasks s t.rvKey).all fun e => readyAlone s un early lap e.1 e.2.index)

/-- Rank of a task (R105): 0 rendezvous, 1 other mandatory work, 2 ready and unguarded, 3 guarded. -/
def taskRank (g : Graph) (i : Nat) : Nat :=
  if (taskOf g i).any fun t => t.rvKey != 0 then 0
  else if (gst g i).mandatory ≠ 0 then 1
  else if (taskOf g i).any fun t => t.guardId != 0 && !confirmed g t.guardId then 3
  else 2

/-- The items of a graph that are ready; a group runs again as a whole, and members that have ended count no more (R512,
DEDUCED, assumption 17). -/
def itemsOf (s : State) (un : List (Nat × Nat)) (early : Bool) (lap : Nat) (g : Graph) : List Item :=
  if g.stopped || g.stopAsked || !g.resolved || decide (lap < g.notBefore) then []
  else
    let labels := labelsOf g
    let paths := criticalPaths g (g.tasks.length + 1) (g.tasks.map (·.cyclesEst))
    let heads := labels.foldl insNat []
    heads.filterMap fun h =>
      let members := (rangeFrom 0 g.tasks.length).filter fun i => labels.getD i 0 == h && !(gst g i).ended
      if members.isEmpty || !members.all (taskReady s un early lap g) then none
      else
        let rank := members.foldl (fun m i => min m (taskRank g i)) 3
        let top := members.filter fun i => taskRank g i == rank
        let path := top.foldl (fun m i => max m (paths.getD i 0)) 0
        some ⟨g, members, rank, path, (top.find? fun i => paths.getD i 0 == path).getD h⟩

/-! ## Admission (R95, R96, R105, R284) -/

/-- A plan in the making. -/
structure Plan where
  /-- Made at step 6, when an epoch in the state CONFIRMED takes its last members (R377). -/
  late : Bool
  tasks : List LapTask
  left : Rat
  slots : Nat

/-- Tasks of a plan on a unit, but for spin filler. -/
def onUnit (l : List LapTask) (u : Nat) : List TaskDesc := (l.filter fun k => k.unit == u && !k.filler).map (·.desc)

/-- Energy of a region in a plan; filler spins the whole task budget (R104, R106). -/
def regionCharge (s : State) (l : List LapTask) (r : Nat) : Rat :=
  let mine := l.filter fun k => unitRegion k.unit == r
  let us := (mine.filter fun k => !k.filler).foldl (fun us k => insNat us k.unit) []
  (us.map fun u => unitCharge s u (onUnit l u)).sum +
    ((mine.filter fun k => k.filler).map fun k => spinCharge s k.unit (taskBudgetNs s : Nat)).sum

def regionCount' (l : List LapTask) (r : Nat) : Nat := (l.filter fun k => unitRegion k.unit == r).length

/-- Addresses that name where a task's held writes go: its held buffers and its write-back arms (R284). -/
def heldBases (s : State) (d : TaskDesc) (bufs : List BufDecl) : List Nat :=
  let arms := match (taskRead s d.armList (64 + 128 * d.armCount)).2 with
    | .ok b => ((blocksOf 128 d.armCount (b.drop 64)).map leNat).filterMap fun e =>
        if nbits e 4 2 = 1 then let w := armWalk s e; walkAddr s w.table (pBase w.pat) else none
    | _ => []
  ((bufs.filter fun b => b.scope == 0).map (·.base)) ++ arms

/-- Regions that a task's declaration of frames is charged to (R284). -/
def chargedRegions (s : State) (d : TaskDesc) (bufs : List BufDecl) : List Nat :=
  ((heldBases s d bufs).filterMap fun a => match placeOf s none a with | .hbm r _ _ => some r | _ => none).foldl insNat []

/-- Blocks that its declaration of shadow lines is charged to, in the same way (R59). -/
def chargedBlocks (s : State) (u : Nat) (d : TaskDesc) (bufs : List BufDecl) : List Nat :=
  ((heldBases s d bufs).filterMap fun a => match placeOf s (some u) a with | .bs b _ => some b | _ => none).foldl insNat []

/-- Frames of a region, or of one stack's half, that open speculation epochs hold (R57). -/
def epochFrames (s : State) (r : Nat) (half : Option Bool) : Nat :=
  let ms := s.blocks.flatMap fun b => b.2.epochs.flatMap fun e => if e.2.st = 0 then [] else e.2.members
  ((getRegion s r).pt.flatMap fun e => e.2.helds.filter fun h =>
    hasNat ms (h.lap % 65536 * 16384 + h.slot) && half.all fun b => decide (2 ^ 20 ≤ h.frame) == b).length

/-- Whether frames and shadow lines are left for a task beside those of the plan and of open epochs (R57, R59, R74). A stack-engine
task draws from the half of the stack that holds its pages, whichever engine runs it (R355, R361). -/
def poolRoom (s : State) (l : List LapTask) (u : Nat) (d : TaskDesc) (bufs : List BufDecl) : Bool :=
  let rs := if isSE u then [unitRegion u] else chargedRegions s d bufs
  let charged := fun (r : Nat) => (l.filter fun k => if isSE k.unit then unitRegion k.unit == r && (!isSE u || homeEngine s k.desc == homeEngine s d)
    else hasNat (chargedRegions s k.desc k.bufs) r).foldl (fun n k => n + k.desc.heldPages) 0
  let lines := fun (b : Nat) => (l.filter fun k => hasNat (chargedBlocks s k.unit k.desc k.bufs) b).foldl (fun n k => n + k.desc.heldLines) 0
  let sent := (l.filter fun k => unitRegion k.unit == unitRegion u).foldl (fun n k => n + k.desc.resendAllow * 65536) 0
  let half := match homeEngine s d with | some e => decide (e % 2 = 1) | none => false
  let free := fun (r : Nat) => if isSE u then poolFree s r half else poolFree s r false + poolFree s r true
  let spec := fun (r : Nat) => epochFrames s r (if isSE u then some half else none)
  rs.all (fun r => decide (charged r + d.heldPages + spec r ≤ free r)) &&
    (chargedBlocks s u d bufs).all (fun b =>
      decide (lines b + d.heldLines + (getBlock s b).shadow.length ≤ fget s fBLK_SHADOW_CFG_SHADOW_SIZE b 0 * 4096)) &&
    decide (3 * (sent + d.resendAllow * 65536) ≤ fget s fRGN_LAP_POOL_CFG_RESEND_SIZE (unitRegion u) 0 * 2 ^ 26)

/-- The epoch of a task on a block, where one is open (R370). -/
def openEpoch (s : State) (g t e : Nat) : Option Nat :=
  s.blocks.findSome? fun b => if b.2.epochs.any (fun x => x.2.st != 0 && x.2.graph == g && x.2.guard == t && x.2.epoch == e) then some b.1 else none

/-- Open epochs of a block, with those that the plan opens on it. -/
def epochLoad (s : State) (l : List LapTask) (b : Nat) : Nat :=
  ((getBlock s b).epochs.filter fun e => e.2.st != 0).length +
    ((l.filter fun k => k.spec && k.unit / 8 == b && (openEpoch s k.graph k.desc.guardId k.desc.specEpoch).isNone).foldl
      (fun (acc : List (Nat × Nat × Nat)) k =>
        let key := (k.graph, k.desc.guardId, k.desc.specEpoch)
        if acc.any (fun x => x == key) then acc else key :: acc) []).length

/-- Whether a task runs as a member of an epoch: its guard is unresolved, or its epoch was confirmed at the commit point just
passed (R371, R377); no task does that R372 keeps out. -/
def specTask (s : State) (late : Bool) (g : Graph) (d : TaskDesc) : Bool :=
  d.guardId != 0 && specAlone d (bufsOf g d.index) && (!confirmed g d.guardId || (late && (openEpoch s g.id d.guardId d.specEpoch).isSome))

/-- The record of a task's epoch, where one is open (R370). -/
def epochRec (s : State) (g t e : Nat) : Option Epoch :=
  s.blocks.findSome? fun b => (b.2.epochs.find? fun x => x.2.st != 0 && x.2.graph == g && x.2.guard == t && x.2.epoch == e).map (·.2)

/-- A block-scope buffer of one task meets that of another on their block. -/
def blockBufsMeet (a b : BufDecl) : Bool :=
  a.scope == 1 && b.scope == 1 && decide (a.base < b.base + b.size ∧ b.base < a.base + a.size)

/-- Conditions of R372 and R370 on placing a speculative task on a core beside the plan: its held buffers and its streams against
the plan's and against those of the laps that its epoch has been open in. -/
def specRoom (s : State) (l : List LapTask) (u gid : Nat) (d : TaskDesc) (bufs : List BufDecl) : Bool :=
  let b := u / 8
  let same := fun (k : LapTask) => k.spec && k.graph == gid && k.desc.guardId == d.guardId && k.desc.specEpoch == d.specEpoch
  let home := match openEpoch s gid d.guardId d.specEpoch with
    | some x => x == b
    | none => (l.find? same).all fun k => k.unit / 8 == b
  let opens := (openEpoch s gid d.guardId d.specEpoch).isNone && !l.any same
  let apart := l.all fun k => same k || isSE k.unit || k.unit / 8 != b || k.bufs.all fun x => bufs.all fun y => !blockBufsMeet x y
  let met := (epochRec s gid d.guardId d.specEpoch).getD epochReset
  let held := ((l.filter fun k => !k.spec).flatMap (·.bufs) ++ met.metBufs).all fun x => bufs.all fun y => !buffersMeet x y
  let streams := (boundBy s d).all fun n => !hasNat met.metStreams n && l.all fun k => same k || !hasNat (boundBy s k.desc) n
  home && (!opens || decide (epochLoad s l b < 16)) && apart && held && streams

/-- Whether an unguarded task on a unit keeps off the held buffers and the streams of the members that the plan places or that are held,
and off the block-scope buffers of those that the plan places on its block (R372, R374). -/
def clearOfMembers (s : State) (l : List LapTask) (u : Nat) (d : TaskDesc) (bufs : List BufDecl) : Bool :=
  (l.all fun k => !k.spec || isSE u || k.unit / 8 != u / 8 || k.bufs.all fun x => bufs.all fun y => !blockBufsMeet x y) &&
  ((l ++ s.lap.cur).filter (·.spec) ++ s.lap.specHeld.map (·.2)).all fun k =>
    (k.bufs.all fun x => bufs.all fun y => !buffersMeet x y) && (boundBy s d).all fun n => !hasNat (boundBy s k.desc) n

/-- The lap that a plan is made of: at the plan point the one to come, at step 6 the one that has begun. -/
def lapOf (s : State) (late : Bool) : Nat := if late then s.lap.num else s.lap.num + 1

/-- Whether a core is in service for placement in a lap: alive, its units there, not quarantined, and not halted with a counted class H
halt in the lap before, however its test has ended (R105, R503). -/
def coreOpen (s : State) (lap u mask : Nat) : Bool :=
  corePresent s u && !isCut s 0 u && !(getCore s u).quarantined && (getCore s u).lastHaltLap.all (fun l => decide (lap ≠ l + 1)) && Nat.land mask (capUnits s u) == mask

/-- Whether a core is a free unit for a task beside a plan. -/
def coreFree (s : State) (p : Plan) (g : Graph) (d : TaskDesc) (spec : Bool) (u : Nat) : Bool :=
  coreOpen s (lapOf s p.late) u d.capMask && ((gst g d.index).avoid != some u) &&
    cyclesFit s s.fuses.clockMHz (((onUnit p.tasks u).map (·.cyclesEst)).sum + d.cyclesEst) &&
    poolRoom s p.tasks u d (bufsOf g d.index) &&
    (if spec then specRoom s p.tasks u g.id d (bufsOf g d.index) else clearOfMembers s p.tasks u d (bufsOf g d.index))

/-- Block that a task's first buffer naming a block names (R95). -/
def namedBlock (bufs : List BufDecl) : Option Nat :=
  bufs.findSome? fun b =>
    if b.scope = 0 ∧ 0x100_0000_0000 ≤ b.base ∧ b.base < 0x100_8000_0000 then some ((b.base - 0x100_0000_0000) / 0x200_0000) else none

/-- The unit in place for stack e: its engine, or the sibling where that covers it (R361). -/
def liveEngine (s : State) (e : Nat) : Option Nat :=
  if !regionAlive s (e / 2) then none
  else if !(getCore s (512 + e)).deadbolted then some (512 + e)
  else if covers s (sibling e) then some (512 + sibling e)
  else none

/-- Whether the engine of stack e is gone for a task that what covers it has no room for (R361, R362). -/
def engineLost (s : State) (e : Nat) (d : TaskDesc) : Bool :=
  ((getCore s (512 + e)).deadbolted || !regionAlive s (e / 2)) && !((liveEngine s e).any fun u => cyclesFit s 1200 (cyclesOn s u d))

/-- Pages that a stack-engine task declares or walks. -/
def enginePages (s : State) (d : TaskDesc) (bufs : List BufDecl) : List (Nat × Nat) :=
  (bufs.filter fun b => b.scope == 0).flatMap (fun b => rangePages s b.base b.size) ++ (armsOf s d).flatMap (walkPages s)

/-- Pages of a stack-engine task that do not lie in the stack of engine e (R354): they wait to be copied back. -/
def strayPages (s : State) (e : Nat) (d : TaskDesc) (bufs : List BufDecl) : List (Nat × Nat) :=
  (enginePages s d bufs).filter fun p => p.1 != e / 2 || decide (2 ^ 20 ≤ committedFrame s p.1 p.2) != decide (e % 2 = 1)

/-- Stack engine of a task (R96, R354, R361). -/
def engineFor (s : State) (d : TaskDesc) (bufs : List BufDecl) : Option Nat :=
  (homeEngine s d).bind fun e => if (strayPages s e d bufs).isEmpty then liveEngine s e else none

/-- A placed task before its lap. -/
def placed (g : Graph) (d : TaskDesc) (slot u : Nat) (spec : Bool) : LapTask :=
  ⟨g.id, slot, u, d, bufsOf g d.index, false, false, false, none, 0, 0, 0, [], [], [], [], [], [], 0, 0, 0, 0, [], 0, spec, false,
    false, [], [], [], none, false⟩

/-- Exchanges that a placed task consumes (R66, R90): sending part and exchange ID. -/
def exchangesIn (s : State) (x : GTask) (k : LapTask) : List (Nat × Nat) :=
  ((liveBufs s x k.desc k.bufs).filter fun b => b.dir == 1).map (exchangeOf s k.desc)

/-- Add one task to a plan on a unit, when its energy fits the budget and the region's cap; a region whose cap is not positive
takes no work (R101). -/
def addTask (s : State) (caps : List Rat) (p : Plan) (g : Graph) (d : TaskDesc) (u : Nat) (spec : Bool) : Option Plan :=
  let old := onUnit p.tasks u
  let cost := unitCharge s u (old ++ [d]) - unitCharge s u old
  let r := unitRegion u
  if p.left < cost ∨ caps.getD r 0 ≤ 0 ∨ caps.getD r 0 < regionCharge s p.tasks r + cost ∨ 0x3FFE ≤ p.slots then none
  else
    let k := placed g d p.slots u spec
    some ⟨p.late, p.tasks ++ [{ k with xin := exchangesIn s (gst g d.index) k, bound := [], plannedNj := cost.floor.toNat }], p.left - cost, p.slots + 1⟩

/-- Add the members of a group to distinct free cores among those given; all or none. -/
def addGroup (s : State) (caps : List Rat) (g : Graph) (cores : List Nat) : List TaskDesc → List Nat → Plan → Option Plan
  | [], _, p => some p
  | d :: t, taken, p =>
    let spec := specTask s p.late g d
    let free := fun (u : Nat) => !hasNat taken u && coreFree s p g d spec u
    let pref := match namedBlock (bufsOf g d.index) with
      | some b => cores.find? fun u => u / 8 == b && free u
      | none => none
    match pref.or (cores.find? free) with
    | none => none
    | some u =>
      match addTask s caps p g d u spec with
      | some p => addGroup s caps g cores t (u :: taken) p
      | none => none

/-- Regions of a graph in the order of R105: fewest tasks first. -/
def regionOrder (s : State) (p : Plan) (g : Graph) : List Nat :=
  sortBy (fun a b => decide (regionCount' p.tasks a ≤ regionCount' p.tasks b))
    ((rangeFrom 0 (nRegions s)).filter fun r => regionAlive s r && (g.regionMask == 0 || nbit g.regionMask r))

/-- Cores of a region or of a block. -/
def regionCores (r : Nat) : List Nat := rangeFrom (64 * r) 64
def blockCores (b : Nat) : List Nat := rangeFrom (8 * b) 8

/-- Whether a completion slot is free for every task of an item, beside those of tasks placed, of epoch members that still
commit, and of records that wait (R493, R494). -/
def cplRoom (s : State) (p : Plan) (it : Item) : Bool :=
  let ring := it.graph.cplRing
  let mine := fun (k : LapTask) => !k.filler && (s.graphs.find? fun g => g.id == k.graph).any fun g => g.cplRing == ring
  let placed := (p.tasks ++ s.lap.cur ++ s.lap.deciding ++ s.lap.specHeld.map (·.2)).filter mine
  decide (placed.length + (s.host.cplWait.filter fun e => e.1 == ring).length + it.tasks.length ≤ ringFree s ring)

/-- Blocks of a region in the order that a group on one block tries them: the one that its first held buffer names, then the
rest (R95). -/
def blockOrder (r : Nat) (named : Option Nat) : List Nat :=
  let l := rangeFrom (8 * r) 8
  (l.filter fun b => named == some b) ++ l.filter fun b => named != some b

/-- Longest chain of exchanges through the tasks of a plan, as far as this part sees it: a task that receives comes after its
peer's, tasks follow one another along local edges, and one that sends adds the part it sends to (R70: DEDUCED, assumption 88). -/
def chainDepth (s : State) (ts : List LapTask) : Nat :=
  let step := fun (ds : List Nat) => ts.map fun k =>
    let preds := match s.graphs.find? fun g => g.id == k.graph with
      | some g => (localEdges g).filterMap fun (e : Edge) => if e.dst = k.desc.index then
          ts.findIdx? fun (q : LapTask) => q.graph == k.graph && q.desc.index == e.src else none
      | none => []
    preds.foldl (fun m i => max m (ds.getD i 0)) 0 + b2n !k.xin.isEmpty
  let ds := (rangeFrom 0 ts.length).foldl (fun ds _ => step ds) (ts.map fun k => b2n !k.xin.isEmpty)
  (ds.zip ts).foldl (fun m e => max m (e.1 + b2n (e.2.bufs.any fun b => b.scope == 3 && b.dir == 0))) 0

/-- Whether the commit window covers the chain of votes of a plan (R70). -/
def windowOk (s : State) (ts : List LapTask) : Bool :=
  let ps := ts.flatMap fun k => peersOf k.bufs
  let l := ps.foldl (fun m p => max m (tabGet 0 s.link.latency p)) 0
  let rv := ts.filter fun k => k.desc.rvKey != 0
  rv.isEmpty || decide (750000 + chainDepth s ts * (l + 250000) ≤ fget s fPART_LAP_CFG_COMMIT_WIN 0 0 * 250000)

/-- Exchanges of a placed task: whether it receives, the peer, the ID, the key and the slot. -/
def exchangesOf (s : State) (k : LapTask) : List (Bool × Nat × Nat × Nat × Nat) :=
  let me := fget s fPART_ID_ID 0 0
  (k.bufs.filter fun b => b.scope == 3).map fun b =>
    (decide (b.dir = 1), b.peer, (if b.dir = 1 then Config.exchangeId k.desc.rvKey b.slot b.peer me
      else Config.exchangeId k.desc.rvKey b.slot me b.peer) % 65536, k.desc.rvKey, b.slot)

/-- Whether no two exchanges of a plan with one peer share an ID: each is unique in its lap (R66). -/
def idsUnique (s : State) (ts : List LapTask) : Bool :=
  let l := ts.flatMap (exchangesOf s)
  l.all fun a => l.all fun b => !(a.1 == b.1 && a.2.1 == b.2.1 && a.2.2.1 == b.2.2.1) || a.2.2.2 == b.2.2.2

/-- Admit an item where every place allows it; the plan unchanged where it fits nowhere. -/
def placeItem (s : State) (caps : List Rat) (p : Plan) (it : Item) : Plan × Bool :=
  let g := it.graph
  let ds := it.tasks.filterMap (taskOf g)
  if !cplRoom s p it then (p, false)
  else if ds.any (fun d => d.kind == 1) then
    match ds with
    | [d] =>
      match engineFor s d (bufsOf g d.index) with
      | some u =>
        let r := unitRegion u
        let used := (onUnit p.tasks u).map (cyclesOn s u)
        if regionAlive s r && (g.regionMask == 0 || nbit g.regionMask r) && cyclesFit s 1200 (used.sum + cyclesOn s u d) &&
            (d.guardId == 0 || confirmed g d.guardId) && poolRoom s p.tasks u d (bufsOf g d.index) &&
            clearOfMembers s p.tasks u d (bufsOf g d.index) then
          match addTask s caps p g d u false with
          | some p => (p, true)
          | none => (p, false)
        else (p, false)
      | none => (p, false)
    | _ => (p, false)
  else
    let lab := localEdges g
    let block := ds.any fun d => lab.any fun e => e.kind == 1 && (e.src == d.index || e.dst == d.index)
    let spec := ds.any (specTask s p.late g)
    let named := ds.findSome? fun d => namedBlock (bufsOf g d.index)
    let try' := fun (r : Nat) =>
      if block || (spec && decide (1 < ds.length)) then
        (blockOrder r named).findSome? fun b => addGroup s caps g (blockCores b) ds [] p
      else addGroup s caps g (regionCores r) ds [] p
    match (regionOrder s p g).findSome? try' with
    | some p => (p, true)
    | none => (p, false)

/-- Admit an item: it finds its places, and what it exchanges fits the lap (R66, R70). -/
def admitItem (s : State) (caps : List Rat) (p : Plan) (it : Item) : Plan × Bool :=
  let q := placeItem s caps p it
  if q.2 && (it.tasks.filterMap (taskOf it.graph)).any (fun d => d.rvKey != 0) && !(windowOk s q.1.tasks && idsUnique s q.1.tasks) then (p, false)
  else q

/-- Admit items in order; the items that did not fit, in order. -/
def admitAll (s : State) (caps : List Rat) : List Item → Plan → List Item → Plan × List Item
  | [], p, out => (p, out.reverse)
  | it :: t, p, out =>
    let r := admitItem s caps p it
    admitAll s caps t r.1 (if r.2 then out else it :: out)

/-- The descriptor that stands for the built-in spin program: class 0xFF, one work unit a ns of the task budget (R102, R106). -/
def spinDesc (s : State) : TaskDesc := ⟨0, 0, 0xFF, 0, 0, 0, 0, taskBudgetNs s, 0, 0, 0, 0, 0, 0, 0, 0, 0, 0, 0⟩

/-- Spin filler on a core: it spins the whole task budget. -/
def filler (s : State) (slot u : Nat) : LapTask :=
  ⟨0, slot, u, spinDesc s, [], false, false, false, none, 0, 0, 0, [], [], [], [], [], [], 0, 0, 0,
    (spinCharge s u (taskBudgetNs s : Nat)).floor.toNat, [], 0, false, true, false, [], [], [], none, false⟩

/-- Spin filler on idle cores until a shortfall is covered, never above the budget (R106). The manual names neither the cores
nor the length of a spin: the lowest core index first, each for the whole task budget (DESIGN CHOICE, assumption 89). -/
def fillSpin (s : State) (caps : List Rat) (floor budget : Rat) : List Nat → Plan → Plan
  | [], p => p
  | u :: t, p =>
    let cost := spinCharge s u (taskBudgetNs s : Nat)
    let cap := caps.getD (u / 64) 0
    if floor ≤ budget - p.left then p
    else if !(onUnit p.tasks u).isEmpty || !coreOpen s (lapOf s p.late) u 0 ||
        decide (p.left < cost ∨ cap ≤ 0 ∨ cap < regionCharge s p.tasks (u / 64) + cost ∨ 0x3FFE ≤ p.slots) then
      fillSpin s caps floor budget t p
    else fillSpin s caps floor budget t ⟨p.late, p.tasks ++ [filler s p.slots u], p.left - cost, p.slots + 1⟩

end Sys2Proof.Machine
end

