-- ==== Sys2Proof/Machine/Commit.lean ====
section
/-! DEFINITION. The commit point (R46, R49 to R59, R66 to R75): outcomes, guards and epochs (R367 to R380), held writes,
completion records (R493), calibration (R103), lap log (R107), phase ledger (R401 to R405). -/

namespace Sys2Proof.Machine

/-! ## The deciding lap -/

/-- Lap that the commit point decides: the one that the latest mark ended. -/
def lapN (s : State) : Nat := s.lap.num - 1
def lap16 (s : State) : Nat := lapN s % 65536

def getGraph (s : State) (gid : Nat) : Option Graph := s.graphs.find? fun g => g.id == gid
def updGraph (s : State) (gid : Nat) (f : Graph → Graph) : State :=
  { s with graphs := s.graphs.map fun g => if g.id = gid then f g else g }
def updGst (s : State) (gid i : Nat) (f : GTask → GTask) : State :=
  updGraph s gid fun g => { g with st := tabUpd gtaskReset g.st i f }

/-- No task of the graph is placed any more (R64, R147, R491). -/
def halting (s : State) (gid : Nat) : Bool :=
  match getGraph s gid with
  | some g => g.stopped || g.stopAsked
  | none => true

/-- An event on a graph's event ring. -/
def graphEvent (s : State) (gid type code task detail : Nat) : State :=
  match getGraph s gid with
  | some g => postEvent s g.evtRing type code gid task detail
  | none => s

/-! ## Conflicts (R51, R264, R374) -/

/-- The writers of one page or line that clash: two of the deciding lap, or one of it beside an open epoch's or a transfer's that
still waits for its CONFIRM, which the manual does not name (DESIGN CHOICE, assumption 109). -/
def clash (n : Nat) (hs : List (Nat × Nat)) : List (Nat × Nat) :=
  let now := hs.filter fun h => h.2 == n
  let old := hs.filter fun h => h.2 != n
  if 2 ≤ now.length ∨ (!now.isEmpty ∧ !old.isEmpty) then hs else []

/-- Slots and laps whose held writes clash. -/
def conflicts (s : State) : List (Nat × Nat) :=
  let n := lap16 s
  (s.regions.flatMap fun r => r.2.pt.flatMap fun e =>
    clash n ((e.2.helds.filter fun h => outcomeOf r.2 h.lap h.slot == 0).map fun h => (h.slot, h.lap))) ++
  (s.blocks.flatMap fun b => b.2.shadow.flatMap fun h =>
    clash n ((b.2.shadow.filter fun g => g.line == h.line).map fun g => (g.slot, g.lap))) ++
  (s.lap.joinedDeciding.filter fun e => s.lap.joinedDeciding.any fun f => f.1 == e.1 && f.2 != e.2).map fun e => (e.2, n)

/-- Whether two tasks of the lap bind one stream. -/
def streamClash (ts : List LapTask) (k : LapTask) : Bool :=
  ts.any fun q => q.slot != k.slot && q.bound.any fun n => hasNat k.bound n

/-! ## Outcomes (R69) -/

def voteOf (s : State) (src : Nat) : Option Vote := s.lap.votes.find? fun v => v.src == src && v.lap == lapN s

/-- Outcome that the exchanges a task consumed leave it with. -/
def voteOutcome (s : State) : List (Nat × Nat) → Nat → Nat
  | [], o => o
  | (src, xid) :: t, o =>
    let o :=
      if o ≠ 0 then o
      else match voteOf s src with
        | none => if hasNat s.lap.lost src then 6 else 5
        | some v => if !v.clean && (v.overflow || hasNat v.ids xid) then 2 else 0
    voteOutcome s t o

/-- A payload of a re-run that its producer's window no longer holds (R74, R75). -/
def expiredPayload (s : State) (k : LapTask) : Option (Nat × Nat × Nat) :=
  ((getGraph s k.graph).map fun g => (gst g k.desc.index).resent).bind fun l => l.find? fun e => decide (e.2.2 + 2 < lapN s)

/-- Outcome of a task before its local producers are looked at; a SPEC_HELD member still counts as COMMITTED. -/
def ownOutcome (s : State) (conf : List (Nat × Nat)) (ts : List LapTask) (k : LapTask) : LapTask :=
  if k.outcome.isSome then k
  else if conf.any (fun c => c.1 == k.slot && c.2 == lap16 s) || streamClash ts k then { k with outcome := some 3 }
  else
    let o := if (expiredPayload s k).isSome && !k.filler then 0x0B else voteOutcome s k.xin 0
    { k with outcome := some (if o = 0 ∧ k.replay then 2 else o) }

/-- Whether the writer of a slot has failed in the deciding lap. -/
def slotFailed (s : State) (ts : List LapTask) (p : Nat) : Bool :=
  match taskBySlot ts p with
  | some q => q.outcome != some 0 && q.outcome != some 9
  | none => hasNat s.lap.failDeciding p

/-- Close over local consumers. -/
def closeReplay (s : State) : Nat → List LapTask → List LapTask
  | 0, ts => ts
  | n + 1, ts => closeReplay s n (ts.map fun k =>
      if k.outcome = some 0 ∧ k.prods.any (fun p => p != k.slot && slotFailed s ts p) then { k with outcome := some 2 } else k)

/-- Outcomes that a bench re-run takes from the recorded log (R544). -/
def benchForce (s : State) (k : LapTask) : LapTask :=
  if fget s fPART_TRK_CFG_BENCH 0 0 = 0 then k
  else
    let w := tabGet 0 s.trk.benchLog (lapN s)
    let es := (rangeFrom 0 (nbits w 192 16)).map fun i => nbits w (512 + 128 * i) 128
    match es.find? (fun e => nbits e 0 32 == k.graph && nbits e 32 16 == k.desc.index) with
    | some e =>
      let o := nbits e 64 8
      if o = 1 ∨ o = 2 ∨ o = 5 ∨ o = 6 ∨ o = 7 ∨ o = 8 then { k with outcome := some o } else k
    | none => k

/-- Outcomes of the lap's tasks. -/
def decideTasks (s : State) : List LapTask :=
  let conf := conflicts s
  let ts := s.lap.deciding
  let ts := (ts.map (ownOutcome s conf ts)).map (benchForce s)
  closeReplay s ts.length ts

/-! ## Guards and epochs -/

/-- A commit in progress: tasks with outcomes, slots whose outcome becomes final, completion records. -/
structure Dec where
  s : State
  ts : List LapTask
  /-- Lap, slot, and whether it commits. -/
  final : List (Nat × Nat × Bool)
  /-- Completion records beyond the placements: graph, record fields. -/
  cpls : List (Nat × LapTask × Nat × Nat)

def inEpoch (b : Nat) (e : Epoch) (k : LapTask) : Bool :=
  k.spec && k.graph == e.graph && k.desc.guardId == e.guard && k.desc.specEpoch == e.epoch && k.unit / 8 == b

def memberSlots (e : Epoch) (commit : Bool) : List (Nat × Nat × Bool) := e.members.map fun m => (m / 16384, m % 16384, commit)

/-- Members of an epoch that ended SPEC_HELD in earlier laps. -/
def heldMembers (s : State) (b : Nat) (e : Epoch) : List (Nat × LapTask) := s.lap.specHeld.filter fun k => inEpoch b e k.2

def dropHeld (s : State) (b : Nat) (e : Epoch) : State :=
  updLap s fun l => { l with specHeld := l.specHeld.filter fun k => !inEpoch b e k.2 }

def freeEpoch (s : State) (b i : Nat) : State := updBlock s b fun x => { x with epochs := tabSet epochReset x.epochs i epochReset }

/-- Replace a stream record, with the old one in the recorder's journal (R539). -/
def putStream (s : State) (n lap : Nat) (v : RStream) : State :=
  let r := n / 8192
  let old := tabGet rstreamReset (getRegion s r).streams (n % 8192)
  let s := if retains s lap ∧ old ≠ v then { s with trk := { s.trk with journal := s.trk.journal ++ [.stream lap n old] } } else s
  updRegion s r fun x => { x with streams := tabSet rstreamReset x.streams (n % 8192) v }

/-- Stack-engine tasks of an epoch that wait for its guard (R356). -/
def waitingTasks (d : Dec) (e : Epoch) : List (Nat × LapTask × Nat × Nat) :=
  match getGraph d.s e.graph with
  | some g =>
    (g.tasks.filter fun t => t.kind == 1 && t.guardId == e.guard && t.specEpoch == e.epoch && !(gst g t.index).ended &&
      !d.ts.any fun k => k.graph == g.id && k.desc.index == t.index).map fun t => (g.id, placed g t 0 0 false, 0x0A, 0)
  | none => []

/-- The epoch is discarded (R379, R380): done is what its earlier members' tasks become. Every member of the lap ends with
SPEC_DISCARDED, one that had failed among them, and a stack-engine task that waits for the guard does so without running (R356): it
waits on, as an expired member is placed again (DEDUCED, assumption 111). -/
def discardEpoch (d : Dec) (b i : Nat) (e : Epoch) (final : Bool) : Dec :=
  let waiting := if final then [] else waitingTasks d e
  let held := heldMembers d.s b e
  let s := held.foldl (fun s k => updGst s k.2.graph k.2.desc.index fun x => { x with done := if final then 3 else if halting d.s k.2.graph then 4 else 0 }) d.s
  let s := freeEpoch (dropHeld s b e) b i
  let s := fbump s (if final then fBLK_SPEC_STATUS_DISCARDS else fBLK_SPEC_STATUS_EXPIRIES) b 0 1
  let s := if final then s else graphEvent s e.graph 0x0A 0 0 0
  { d with
    s := s
    ts := d.ts.map fun k => if inEpoch b e k then { k with outcome := some 0x0A } else k
    final := d.final ++ memberSlots e false
    cpls := d.cpls ++ waiting }

/-- The epoch commits (R377). -/
def commitEpoch (d : Dec) (b i : Nat) (e : Epoch) : Dec :=
  let held := heldMembers d.s b e
  let s := held.foldl (fun s k => updGst s k.2.graph k.2.desc.index fun x => { x with done := 1 }) d.s
  let s := e.streams.foldl (fun s n => putStream s n.1 (lapN s) n.2) s
  let s := fbump (freeEpoch (dropHeld s b e) b i) fBLK_SPEC_STATUS_CONFIRMS b 0 1
  { d with s := s, final := d.final ++ memberSlots e true, cpls := d.cpls ++ held.map fun k => (k.2.graph, k.2, 0, 1) }

/-- Whether a member of the lap has failed, or an epoch's write has met another's (R378, R374). -/
def epochFails (d : Dec) (conf : List (Nat × Nat)) (b : Nat) (e : Epoch) : Bool :=
  d.ts.any (fun k => inEpoch b e k && k.outcome != some 0 && k.outcome != some 9) || !blockAlive d.s b ||
    e.members.any fun m => conf.any fun c => c.1 == m % 16384 && c.2 == m / 16384

/-- Open epochs of the part: block, record number, record. -/
def epochsOf (s : State) (st : Nat) : List (Nat × Nat × Epoch) :=
  s.blocks.flatMap fun b => (b.2.epochs.filter fun e => e.2.st == st).map fun e => (b.1, e.1, e.2)

/-- Epochs confirmed at an earlier commit point commit or expire. -/
def settleConfirmed (conf : List (Nat × Nat)) (d : Dec) (x : Nat × Nat × Epoch) : Dec :=
  if epochFails d conf x.1 x.2.2 then discardEpoch d x.1 x.2.1 x.2.2 false else commitEpoch d x.1 x.2.1 x.2.2

/-- Results of a task that commits at this commit point. -/
def committedResults (d : Dec) (gid idx : Nat) : Option (Tab Word) :=
  match d.ts.find? (fun k => k.graph == gid && k.desc.index == idx && k.outcome == some 0 &&
      (!k.spec || (openEpoch d.s gid k.desc.guardId k.desc.specEpoch).isNone)) with
  | some k => some k.results
  | none => (d.cpls.find? fun c => c.1 == gid && c.2.1.desc.index == idx && c.2.2.1 == 0).map fun c => c.2.1.results

/-- Skip the tasks of a discarded guard (R379): a record for each. -/
def skipGuarded (d : Dec) (gid id : Nat) : Dec :=
  match getGraph d.s gid with
  | none => d
  | some g =>
    let ts := g.tasks.filter fun t => t.guardId == id && !(gst g t.index).ended &&
      !d.ts.any fun k => k.graph == gid && k.desc.index == t.index
    let s := ts.foldl (fun s t => updGst s gid t.index fun x => { x with done := 3 }) d.s
    let s := graphEvent s gid 0x09 (id % 256) 0 0
    { d with s := s, cpls := d.cpls ++ ts.map fun t => (gid, placed g t 0 0 false, 0x0A, 1) }

/-- Resolve the guards whose resolver commits here (R368). -/
def resolveGuards (d : Dec) : Dec :=
  d.s.graphs.foldl (fun d g =>
    g.guards.foldl (fun d e =>
      if g.guardsDone.any (fun x => x.1 == e.id) then d
      else match committedResults d g.id e.resolver with
        | none => d
        | some rs =>
          let ok := condHolds e.cond (tabGet 0 rs e.ridx) (BitVec.ofNat 32 e.imm)
          let d := { d with s := updGraph d.s g.id fun g => { g with guardsDone := g.guardsDone ++ [(e.id, ok)] } }
          if ok then d else skipGuarded d g.id e.id) d) d

/-- Members of the lap join their epoch (R373, R264). -/
def joinEpoch (d : Dec) (b i : Nat) (e : Epoch) (st : Nat) : Dec :=
  let ms := d.ts.filter (inEpoch b e)
  let n := lap16 d.s
  let e' := { e with
    st := st, members := e.members ++ ms.map (fun k => 16384 * n + k.slot),
    streams := ms.foldl (fun l k => k.streams.foldl (fun l x => l.filter (fun y => y.1 != x.1) ++ [x]) l) e.streams }
  let s := updBlock d.s b fun x => { x with epochs := tabSet epochReset x.epochs i e' }
  let s := updLap s fun l => { l with specHeld := l.specHeld ++ ms.map fun k => (lapN d.s, { k with outcome := some 9 }) }
  let s := ms.foldl (fun s k => updGst s k.graph k.desc.index fun x => { x with done := 2 }) s
  { d with s := s, ts := d.ts.map fun k => if inEpoch b e k then { k with outcome := some 9 } else k }

/-- An epoch that was open through the lap: discard, expiry, confirmation, or it stays open (R376 to R380). -/
def settleOpen (conf : List (Nat × Nat)) (d : Dec) (x : Nat × Nat × Epoch) : Dec :=
  let b := x.1
  let i := x.2.1
  let e := x.2.2
  let res : Option Bool := match getGraph d.s e.graph with
    | some g => (g.guardsDone.find? fun y => y.1 == e.guard).map (·.2)
    | none => some false
  if res = some false then discardEpoch d b i e true
  else if epochFails d conf b e then discardEpoch d b i e false
  else if res = some true then joinEpoch d b i e 2
  else if e.firstLap + e.holdLaps ≤ lapN d.s + 2 then discardEpoch d b i e false
  else joinEpoch d b i e 1

/-- Guards and epochs of a commit point. -/
def settleEpochs (s : State) (ts : List LapTask) : Dec :=
  let conf := conflicts s
  let d := (epochsOf s 2).foldl (settleConfirmed conf) ⟨s, ts, [], []⟩
  let d := resolveGuards d
  (epochsOf d.s 1).foldl (settleOpen conf) d

/-! ## Held writes (R56, R59, R66, R73, R282) -/

/-- Slots of the deciding lap that no task owns: firmware channels (R334), the host (R52). -/
def looseSlots (s : State) (ts : List LapTask) : List Nat :=
  let n := lap16 s
  let own := fun (slot : Nat) => (taskBySlot ts slot).isSome || s.link.rx.any (fun r => r.slot == slot && r.lap % 65536 == n)
  let hs := (s.regions.flatMap fun r => r.2.pt.flatMap fun e => (e.2.helds.filter fun h => h.lap == n).map (·.slot)) ++
    (s.blocks.flatMap fun b => (b.2.shadow.filter fun h => h.lap == n).map (·.slot))
  (hs.filter fun x => !own x).foldl insNat []

/-- Verdicts on held transfers received (R66, R73): lap, slot, commit. -/
def rxVerdicts (s : State) : List (Nat × Nat × Bool) :=
  s.link.rx.filterMap fun r =>
    if r.cross then r.verdict.map fun v => (r.lap % 65536, r.slot, v)
    else if r.lap = lapN s then
      some (r.lap % 65536, r.slot, match voteOf s r.src with
        | some v => v.clean || !(v.overflow || hasNat v.ids r.xid)
        | none => false)
    else none

/-- Every slot whose outcome becomes final here. -/
def finalSlots (d : Dec) (conf : List (Nat × Nat)) : List (Nat × Nat × Bool) :=
  let n := lap16 d.s
  let mine := d.ts.filterMap fun k => match k.outcome with
    | some 9 => none
    | some o => some (n, k.slot, o == 0)
    | none => some (n, k.slot, true)
  let loose := (looseSlots d.s d.ts).map fun x =>
    (n, x, x == 0x3FFF || !(hasNat d.s.lap.failDeciding x || conf.any fun c => c.1 == x && c.2 == n))
  mine ++ loose ++ (rxVerdicts d.s).map (fun v => (v.1, v.2.1, v.2.2 && !conf.any fun c => c.1 == v.2.1 && c.2 == v.1)) ++ d.final

/-- Laps a table entry is old, modulo 2^16. -/
def lapAge (s : State) (lap : Nat) : Nat := (lap16 s + 65536 - lap) % 65536

/-- Send the final outcomes to every region; the table keeps 16 laps, and what a fold still needs (R282, R283). -/
def sendOutcomes (s : State) (fs : List (Nat × Nat × Bool)) : State :=
  { s with regions := (rangeFrom 0 (nRegions s)).foldl (fun t r => tabUpd regionReset t r fun x =>
      let due := x.pt.flatMap fun e => e.2.helds.map fun h => h.lap % 65536 * 16384 + h.slot
      let o := x.outcomes.filter fun e => decide (lapAge s (e.1 / 16384) < 16) || hasNat due e.1
      { x with outcomes := fs.foldl (fun o f => tabSet 0 o (f.1 * 16384 + f.2.1) (if f.2.2 then 1 else 2)) o }) s.regions }

/-- Complete the fill of every committing frame, and queue the entries to fold (R55, R283, R287). -/
def commitPages (s : State) (r : Nat) : State :=
  let s := readSystem (readSystem s r .pageTable) r .outcomes
  let x := getRegion s r
  let todo := x.pt.flatMap fun e => (e.2.helds.filter fun h => outcomeOf x h.lap h.slot == 1 && !h.filled).map fun h => (e.1, h)
  let s := todo.foldl (fun s e => fillPage s r e.1 e.2) s
  updRegion s r fun x =>
    let due := (x.pt.filter fun e => e.2.helds.any (fun h => outcomeOf x h.lap h.slot != 0) && !hasNat x.foldQ e.1).map (·.1)
    { x with foldQ := x.foldQ ++ due }

/-- Pages of a region that commit at this commit point. -/
def committedPages (s : State) (fs : List (Nat × Nat × Bool)) : List (Nat × Nat) :=
  s.regions.flatMap fun r => (r.2.pt.filter fun e => e.2.helds.any fun h =>
    fs.any fun f => f.2.2 && f.1 == h.lap && f.2.1 == h.slot).map fun e => (r.1, e.1)

def committedLines (s : State) (fs : List (Nat × Nat × Bool)) : List (Nat × Nat) :=
  s.blocks.flatMap fun b => ((b.2.shadow.filter fun h => fs.any fun f => f.2.2 && f.1 == h.lap && f.2.1 == h.slot).map (·.line)).foldl insNat []
    |>.map fun l => (b.1, l)

/-- A committed shadow line stands for its line from now on, with the errors of its own words (R59, R271). -/
def takeHarm (x : Block) (h : ShLine) : Block :=
  h.harm.foldl (fun y e => { y with harm := tabSet 0 y.harm (harmKey 0 0 (h.line * 16 + e.1)) e.2 }) (mendBs x (h.line * 128) 128)

/-- Shadow lines replace committed lines, or are dropped (R59). -/
def commitShadow (s : State) (b : Nat) : State :=
  let x := getBlock s b
  let out := fun (h : ShLine) => outcomeOf (getRegion s (b / 8)) h.lap h.slot
  let com := x.shadow.filter fun h => out h == 1
  let s := if retains s (lapN s) then
      { s with trk := { s.trk with journal := s.trk.journal ++ com.map fun h => .line (lapN s) b h.line (memRead x.bs (h.line * 128) 128) } }
    else s
  setBlock s b { com.foldl takeHarm x with
    bs := com.foldl (fun m h => memWrite m (h.line * 128) h.data) x.bs, shadow := x.shadow.filter fun h => out h == 0 }

/-! ## Records that wait for the commit point -/

/-- Update records of the page table take effect in posting order, against the page table and the frame map (R280, R287). -/
def commitPt (s : State) (r : Nat) : State :=
  let ps := (getRegion s r).ptPend
  let s := if ps.isEmpty then s else readSystem (readSystem s r .pageTable) r .frameMap
  let s := updRegion s r fun x => { x with ptPend := [] }
  ps.foldl (fun s p => match ptEffect s r p with
    | some s => updRegion s r fun x => { x with ptForce := x.ptForce ++ [p] }
    | none => fput s fRGN_PT_STATUS_UPDATE_REJECTED r 0 1) s

/-- Stream records written through the indirect pair (R558). -/
def commitIndStreams (ts : List LapTask) (s : State) (r : Nat) : State :=
  (getRegion s r).ind.foldl (fun s c =>
    let s' := updRegion s r fun x => { x with ind := tabUpd indReset x.ind c.1 fun i => { i with pendingStreams := [] } }
    c.2.pendingStreams.foldl (fun s e =>
      let heldEp := s.blocks.any fun b => b.2.epochs.any fun p => p.2.st != 0 && (p.2.streams.any (fun x => x.1 == e.1) ||
        s.lap.specHeld.any fun k => inEpoch b.1 p.2 k.2 && hasNat k.2.bound e.1)
      if ts.any (fun k => hasNat k.bound e.1) || heldEp then fput s fRGN_IND_STATUS_REJECTED r c.1 1
      else putStream s e.1 (lapN s) e.2) s') s

/-- An owner-table change (R300 to R302, R305); the recorder keeps the old table (assumption 15). -/
def applyOwn (s : State) (p : OwnPend) : State :=
  let s := if retains s (lapN s) then { s with trk := { s.trk with journal := s.trk.journal ++ [.owner (lapN s) p.table (getOwner s p.table)] } } else s
  match p.image with
  | some t => { s with owners := tabSet ⟨0, 0, []⟩ s.owners p.table t }
  | none =>
    let o := getOwner s p.table
    if o.count ≤ p.block then fput s fPART_OWN_STATUS_BAD_RECORD 0 0 1
    else { s with owners := tabSet ⟨0, 0, []⟩ s.owners p.table { o with ents := tabSet 0 o.ents p.block p.entry } }

/-- Changes of owner tables that fall due at the commit point which ends the deciding lap. -/
def commitOwn (s : State) : State :=
  let s := (rangeFrom 0 (nRegions s)).foldl (fun s r => readSystem s r .owners) s
  let due := s.ownPend.filter fun p => decide (p.lap ≤ s.lap.num)
  due.foldl applyOwn { s with ownPend := s.ownPend.filter fun p => !decide (p.lap ≤ s.lap.num) }

/-! ## Completion records (R493, R494) -/

/-- A completion record without its PHASE. -/
def cplWord (gid : Nat) (k : LapTask) (outcome final lap : Nat) (skipped : Bool) : Nat :=
  let rs := if outcome = 0 ∨ outcome = 9 then
    (rangeFrom 0 8).foldl (fun a i => a + (tabGet 0 k.results i).toNat * 2 ^ (128 + 32 * i)) 0 else 0
  let unit := if skipped then 0 else if isSE k.unit then k.unit - 512 else k.unit
  gid % 2 ^ 32 + k.desc.index * 2 ^ 32 + outcome * 2 ^ 48 + final * 2 ^ 57 + lap % 2 ^ 48 * 2 ^ 64 +
    unit * 2 ^ 112 + b2n (!skipped && isSE k.unit) * 2 ^ 121 + rs + k.activeNs % 2 ^ 32 * 2 ^ 384

/-- Records reserved on rings that are disabled drop, those that wait for a slot among them; their tasks run on (R478, R500). -/
def dropCpls (s : State) (ring : Nat → Bool) : State :=
  let mark := fun (k : LapTask) => if (getGraph s k.graph).any fun g => ring g.cplRing then { k with noCpl := true } else k
  let s := updLap s fun l => { l with
    plan := l.plan.map mark, cur := l.cur.map mark, deciding := l.deciding.map mark, specHeld := l.specHeld.map fun e => (e.1, mark e.2) }
  updHost s fun h => { h with cplWait := h.cplWait.filter fun e => !ring e.1 }

/-- Write one completion record; it waits for a free slot, and a ring that is not enabled takes none. -/
def putCpl (s : State) (ring w : Nat) : State :=
  if !ringIs s ring 0 then s
  else if ringFree s ring = 0 then updHost s fun h => { h with cplWait := h.cplWait ++ [(ring, w)] }
  else match ringPut s ring (fun phase => w + phase * 2 ^ 56) with
    | some s => s
    | none => let s := ringFaultMark s (1024 + ring); errPart s (errRecord s 0xB 3 0x1A 0 8 0 (ringFaultDetail (1024 + ring) (ringBad s ring) false))

/-- Write the lap's records after those that wait, and fire each ring's vector once. -/
def putCpls (s : State) (l : List (Nat × Nat)) : State :=
  let all := s.host.cplWait ++ l
  let t := all.foldl (fun s e => putCpl s e.1 e.2) (updHost s fun h => { h with cplWait := [] })
  (all.foldl (fun rs e => insNat rs e.1) []).foldl (fun t ring =>
    let fire := ringIs t ring 0 && fget t fHOST_RING_CFG_IRQ_EN 0 (1024 + ring) == 1 &&
      ringIndex t (1024 + ring) != ringIndex s (1024 + ring)
    if fire then fireVector t ring else t) t

/-! ## What becomes of the tasks (R64, R75, R147, R379, R512) -/

/-- Exchanges that a re-run of the task takes from the producers' windows: those of producers that committed, and those
whose votes are late (R75). -/
def resentNow (s : State) (k : LapTask) (x : GTask) : List (Nat × Nat × Nat) :=
  x.resent ++ (k.xin.filter fun e => match voteOf s e.1 with
    | some v => v.clean || !(v.overflow || hasNat v.ids e.2)
    | none => !hasNat s.lap.lost e.1).map fun e => (e.1, e.2, lapN s)

/-- Place the task again, on any core (R147 excludes one below). Mandatory work goes at the head of the next lap, a rendezvous in the lap
after it, unless its votes were late and resent payloads are all it needs (R75, R512). A task whose held writes clash, or whose partner is
lost, belongs to no replay set: it becomes ordinary ready work (R105, R511, DEDUCED, assumption 26). -/
def replace' (s : State) (k : LapTask) (x : GTask) : GTask :=
  let n := lapN s
  let x := { x with resent := resentNow s k x, avoid := none }
  if k.outcome = some 3 ∨ k.outcome = some 6 then x
  else if k.desc.rvKey = 0 then { x with mandatory := 1, notBefore := n + 1 }
  else { x with mandatory := 2, notBefore := if k.outcome = some 5 ∧ (liveBufs s x k.desc k.bufs).isEmpty then n + 1 else n + 2 }

def stopGraph (s : State) (gid : Nat) : State := updGraph s gid fun g => { g with stopped := true }

/-- Firmware's treatment of one task's outcome; after a class H halt of a stack engine its task is placed again, on the
engine or on what covers it (R358). -/
def settleOutcome (s : State) (k : LapTask) : State :=
  let gid := k.graph
  let i := k.desc.index
  let again := fun (s : State) => updGst s gid i (replace' s k)
  let reason := nbits k.haltRec 16 8
  match k.outcome.getD 0 with
  | 0 => updGst s gid i fun x => { x with done := 1, again := false }
  | 1 =>
    let s := updGst (again s) gid i fun x => { x with overruns := x.overruns + 1 }
    if ((getGraph s gid).map fun g => (gst g i).overruns).getD 0 < 2 then s
    else stopGraph (graphEvent s gid 0x03 0 i 0) gid
  | 4 => stopGraph (graphEvent s gid 0x04 0 i (k.haltRec % 2 ^ 224)) gid
  | 7 =>
    if k.haltRec = 0 then again s
    else if let some a := k.badAddr then
      let s := updGst (again s) gid i fun x => { x with xferFails := x.xferFails + 1 }
      if ((getGraph s gid).map fun g => (gst g i).xferFails).getD 0 < 2 then s
      else stopGraph (graphEvent s gid 0x0C 0 i (a % 2 ^ 52)) gid
    else if !classH reason then stopGraph (graphEvent s gid 0x04 0 i (k.haltRec % 2 ^ 224)) gid
    else if isSE k.unit then again s
    else
      let s := updGst (again s) gid i fun x => { x with hHalts := x.hHalts + 1, avoid := some k.unit }
      if ((getGraph s gid).map fun g => (gst g i).hHalts).getD 0 < 2 then s
      else stopGraph (graphEvent s gid 0x04 0 i (k.haltRec % 2 ^ 224)) gid
  | 9 => s
  | 0x0B =>
    let e := (expiredPayload s k).getD (0, 0, 0)
    stopGraph (errPart s (errRecord s 0xA 3 0x15 0 8 7 (e.2.1 + e.1 * 2 ^ 16))) gid
  | 0x0A =>
    match getGraph s gid with
    | some g =>
      if g.guardsDone.any (fun x => x.1 == k.desc.guardId && !x.2) then updGst s gid i fun x => { x with done := 3 }
      else updGst s gid i fun x => { x with done := 0 }
    | none => s
  | _ => again s

/-- What the outcome of a task brings. A member that ended SPEC_DISCARDED after a failure of its own is treated for that failure first
(R64, R147, R380). -/
def settleTask (raw : List LapTask) (s : State) (k : LapTask) : State :=
  if k.filler then s
  else
    let s := match taskBySlot raw k.slot with
      | some q => if k.outcome = some 0x0A ∧ q.outcome ≠ some 0 ∧ q.outcome ≠ some 9 then settleOutcome s q else s
      | none => s
    settleOutcome s k

/-- Members that committed while another member of their same-lap group failed run again with it (R512). -/
def groupsAgain (s : State) (ts : List LapTask) : State :=
  let failed := fun (g : Graph) (h : Nat) => ts.any fun k => k.graph == g.id && !k.filler && k.outcome != some 0 &&
    k.outcome != some 9 && (labelsOf g).getD k.desc.index 0 == h && (gst g k.desc.index).done == 0
  ts.foldl (fun s k =>
    match getGraph s k.graph with
    | some g =>
      if !k.filler && k.outcome == some 0 && failed g ((labelsOf g).getD k.desc.index 0) then
        updGst s k.graph k.desc.index fun x => { x with again := true, resent := resentNow s k x }
      else s
    | none => s) s

/-- Tasks of stopped graphs that have ended will not run again. -/
def endStopped (s : State) (ts : List LapTask) : State :=
  ts.foldl (fun s k => if !k.filler && halting s k.graph then
      updGst s k.graph k.desc.index fun x => if x.done = 0 ∨ x.again = true then { x with done := 4 } else x
    else s) s

/-- FINAL: the task will not run again. -/
def isFinal (s : State) (gid i : Nat) : Nat :=
  match getGraph s gid with
  | some g => b2n (g.stopped || g.stopAsked || (gst g i).ended)
  | none => 1

/-- The guard tables once a graph closes: its own and those it replaced go, a newer one for its next GRAPH entry stays (R367). -/
def guardsAfter (s : State) (g : Graph) : List GuardTab :=
  let mine := s.guards.filter fun t => t.graph == g.id
  mine.take (mine.length - g.guardAge) ++ s.guards.filter fun t => t.graph != g.id

/-- Close graphs: every task FINAL (R495), or stopped by the driver with nothing left running (R491). -/
def closeGraph (s : State) (g : Graph) : State :=
  let idle := !(s.lap.plan ++ s.lap.cur ++ s.lap.deciding).any (fun k => k.graph == g.id && !k.filler) && (s.lap.specHeld.all fun k => k.2.graph != g.id)
  let gone := fun (s : State) => { s with graphs := s.graphs.filter fun x => x.id != g.id, guards := guardsAfter s g }
  let done := g.resolved && g.tasks.all fun t => (gst g t.index).ended
  let s := if done then postEvent s g.evtRing 0x02 0 g.id 0 0 else s
  let s := if g.stopAsked && idle then postEvent s g.evtRing 0x0D 0 g.id 0 0 else s
  if done || (g.stopAsked && idle) then gone s else s

/-! ## Calibration (R103) -/

/-- The new entry of an energy class after one task. -/
def calibrate (e energy work : Nat) : Nat :=
  if energy = 0 ∨ work = 0 then e
  else
    let p : Rat := (perUnitPj e : Nat) + ((1000 * ((energy : Int) - (fixedNj e : Int)) : Int) / (work : Nat) - (perUnitPj e : Nat)) / 16
    let v := if p < 0 then 0 else min p.floor.toNat (2 ^ 24 - 1)
    putBits (putBits e 24 24 v) 48 8 (satAdd 8 (nbits e 48 8) 1)

/-- Calibration by every task that ends COMMITTED here, members of an epoch that commits among them, in order of GRAPH_ID and
TASK_INDEX. -/
def calibrateAll (s : State) (d : Dec) : State :=
  let held := (d.cpls.filter fun c => c.2.2.1 == 0).map (·.2.1)
  let l := sortBy (fun a b => if a.graph ≠ b.graph then decide (a.graph < b.graph) else decide (a.desc.index ≤ b.desc.index))
    ((d.ts.filter fun k => k.outcome == some 0 && !k.filler) ++ held)
  l.foldl (fun s k => updPart s fun p =>
    { p with energy := tabUpd 0 p.energy k.desc.energyClass fun e => calibrate e k.energyNj k.desc.workUnits }) s

/-! ## The lap log (R107, R108, R560) and the ledger (R401 to R405) -/

/-- A task entry (R108). The manual does not say how spin filler is logged: GRAPH_ID 0, TASK_INDEX 0, class 0xFF, and the
outcome it ended with (DESIGN CHOICE, assumption 90). -/
def logEntry (k : LapTask) : Nat :=
  k.graph % 2 ^ 32 + k.desc.index * 2 ^ 32 + (if isSE k.unit then k.unit - 512 else k.unit) * 2 ^ 48 + b2n (isSE k.unit) * 2 ^ 57 +
    k.outcome.getD 0 * 2 ^ 64 + k.desc.energyClass * 2 ^ 72 + k.energyNj % 2 ^ 32 * 2 ^ 80 + k.startNs / 32 % 2 ^ 16 * 2 ^ 112

/-- The lap log record of the deciding lap; MEASURED_UJ is what the counters of every region counted. -/
def logRecord (s : State) (ts : List LapTask) : Bytes :=
  let meas := (s.lap.measured.map (·.2)).sum / 1000
  let h := s.pacer.hdr + lapN s % 2 ^ 48 + meas % 2 ^ 32 * 2 ^ 160 + ts.length % 2 ^ 16 * 2 ^ 192
  natLe 64 (crcSeal 64 h) ++ ts.flatMap fun k => natLe 16 (logEntry k)

/-- Where the lap log ring of a region begins in the store of lap logs: each manager's region has its own (R287, R560). -/
def logBase (s : State) : Nat := managerRegion s * 2 ^ 28

/-- Append to the lap log ring, in system frames of the part manager's region. -/
def writeLog (s : State) (b : Bytes) : State :=
  let size := fget s fPART_PACER_LOG_CFG_SIZE_MIB 0 0 * 2 ^ 20
  let h := fget s fPART_PACER_LOG_HEAD_HEAD 0 0
  let h := if size < h + b.length then 0 else h
  let s := readSystem { s with lapLog := memWrite s.lapLog (logBase s + h) b } (managerRegion s) .lapLog
  fput s fPART_PACER_LOG_HEAD_HEAD 0 0 (if h + b.length = size then 0 else h + b.length)

/-- One entry of the ledger (R403). -/
structure LedEnt where
  tag : Nat
  tasks : Nat
  committed : Nat
  se : Nat
  active : Nat
  most : Nat
  deriving DecidableEq, Repr

def ledgerAdd (l : List LedEnt) (k : LapTask) : List LedEnt :=
  let com := b2n (k.outcome == some 0 || k.outcome == some 9)
  let add := fun (e : LedEnt) => { e with tasks := e.tasks + 1, committed := e.committed + com, se := e.se + b2n (isSE k.unit),
                                          active := e.active + k.activeNs, most := max e.most k.activeNs }
  if l.any (fun e => e.tag == k.desc.phaseTag) then l.map fun e => if e.tag = k.desc.phaseTag then add e else e
  else insertBy (fun a b => decide (a.tag ≤ b.tag)) (add ⟨k.desc.phaseTag, 0, 0, 0, 0, 0⟩) l

def mergeEnt (a b : LedEnt) : LedEnt :=
  ⟨0xFFFF, a.tasks + b.tasks, a.committed + b.committed, a.se + b.se, a.active + b.active, max a.most b.most⟩

/-- The entries of a lap, at most 60, and OVERFLOW. -/
def ledgerEntries (ts : List LapTask) : List LedEnt × Bool :=
  let all := (ts.filter fun k => k.started && !k.filler).foldl ledgerAdd []
  if all.length ≤ 60 ∧ !all.any (fun e => e.tag == 0xFFFF) then (all, false)
  else
    let own := all.filter fun e => e.tag != 0xFFFF
    let rank := sortBy (fun a b => if a.active ≠ b.active then decide (b.active < a.active) else decide (a.tag ≤ b.tag)) own
    let top := if all.length ≤ 60 then own.length else 59
    let rest := rank.drop top ++ all.filter fun e => e.tag == 0xFFFF
    (sortBy (fun a b => decide (a.tag ≤ b.tag)) (rank.take top) ++ [rest.foldl mergeEnt ⟨0xFFFF, 0, 0, 0, 0, 0⟩], true)

/-- The ledger record (R402). -/
def ledgerRecord (s : State) (ts : List LapTask) : Bytes :=
  let r := ledgerEntries ts
  let ents := (r.1.flatMap fun e => natLe 16 (e.tag % 2 ^ 16 + min e.tasks 65535 * 2 ^ 16 + min e.committed 65535 * 2 ^ 32 +
    min e.se 65535 * 2 ^ 48 + min e.active (2 ^ 32 - 1) * 2 ^ 64 + min e.most (2 ^ 32 - 1) * 2 ^ 96)) ++
    List.replicate (16 * (60 - r.1.length)) (0 : Byte)
  let h := natLe 60 (lapN s % 2 ^ 48 + fget s fPART_ID_ID 0 0 * 2 ^ 48 + r.1.length * 2 ^ 65 + b2n r.2 * 2 ^ 71)
  h ++ natLe 4 (crc32c (h ++ ents)) ++ ents

/-- A record that a collector without a ledger in service cannot post is dropped and counted (R405). -/
def ledgerDrop (s : State) : State :=
  if fget s fPART_LEDGER_COLLECTOR_COLLECT 0 0 = 1 then fbump s fPART_LEDGER_STATUS_DROPS 0 0 1 else s

/-- Put a record into the host ledger ring; one that does not go in is dropped and counted (R404, R406). -/
def ledgerPost (s : State) (b : Bytes) : State :=
  let size := 2 ^ fget s fPART_LEDGER_CFG_RING_LOG2 0 0
  let head := fget s fPART_LEDGER_HEAD_HEAD 0 0
  let base := fget s fPART_LEDGER_RING_HI_BASE_HI 0 0 * 2 ^ 32 + fget s fPART_LEDGER_RING_LO_BASE_LO 0 0 * 1024
  let a := base + head % size * 1024 - 0x8_0000_0000_0000
  if size ≤ (head + 2 ^ 32 - fget s fPART_LEDGER_TAIL_TAIL 0 0) % 2 ^ 32 then fbump s fPART_LEDGER_STATUS_DROPS 0 0 1
  else if base < 0x8_0000_0000_0000 ∨ !hostOk s a 1024 then
    fbump (fput (fput s fPART_LEDGER_STATUS_RING_ERROR 0 0 1) fPART_LEDGER_CFG_ENABLE 0 0 0) fPART_LEDGER_STATUS_DROPS 0 0 1
  else fput (hostWrite (hostTouch s a 1024) a b) fPART_LEDGER_HEAD_HEAD 0 0 ((head + 1) % 2 ^ 32)

/-- The phase ledger of the deciding lap (R404, R405): posted, and sent to the collector. -/
def ledgerLap (s : State) (ts : List LapTask) : State :=
  let b := ledgerRecord s ts
  let me := fget s fPART_ID_ID 0 0
  let coll := fget s fPART_LEDGER_COLLECTOR_PART 0 0
  let send := fget s fPART_LEDGER_CFG_EXCHANGE 0 0 == 1 &&
    ts.any fun k => k.started && !k.filler && (getGraph s k.graph).any fun g => g.ledgerX
  let s := if fget s fPART_LEDGER_CFG_ENABLE 0 0 = 1 then ledgerPost s b else ledgerDrop s
  if send && coll != me then
    if hasNat s.lap.lost coll then fbump s fPART_LEDGER_STATUS_DROPS 0 0 1
    else match sendSegment s (managerRegion s) opLedger 2 0
        { blankSeg s coll with lap := lapN s, length := 1024, data := b } none none with
      | some s => s
      | none => fbump s fPART_LEDGER_STATUS_DROPS 0 0 1
  else s

end Sys2Proof.Machine
end

