-- ==== Sys2Proof/Machine/Rings.lean ====
section
/-! DEFINITION. Submission rings: the doorbell array (R488, R489, R497), entries seen and consumed (R490 to R492). -/

namespace Sys2Proof.Machine

/-! ## Ring faults (R497) -/

/-- Disable a ring, set FAULT and raise class HOST_RING. -/
def ringFault (s : State) (sel addr : Nat) (overrun : Bool) : State :=
  let s := ringFaultMark s sel
  errPart s (errRecord s 0xB 3 0x1A 0 8 0 (ringFaultDetail sel addr overrun))

/-- Rings that any register names: the only ones that can be enabled; submission rings below 1,024. -/
def selsNamed (s : State) : List Nat :=
  (s.flds.filterMap fun e =>
    if e.1 / (65536 * 32 * 65536) = 0 ∧ e.1 / (65536 * 32) % 65536 < 2048 then some (e.1 / (65536 * 32) % 65536) else none).foldl insNat []

def ringsOn (s : State) : List Nat := (selsNamed s).filter (ringOn s)

/-! ## Doorbell words (R488, R489) -/

def dbWord (s : State) (sel : Nat) : Nat := leNat (hostRead s (dbBase s + 8 * sel) 4)

/-- Entries between HEAD and TAIL of a submission ring. -/
def ringDue (s : State) (n tail : Nat) : Nat := (tail + 2 ^ 32 - ringIndex s n) % 2 ^ 32

/-- One ring's doorbell word: the entries that a submission ring has due, or CONSUMED of the other side. -/
def readWord (s : State) (sel : Nat) : State × Nat :=
  let w := dbWord s sel
  if sel < 1024 then
    let due := ringDue s sel w
    if ringSize s sel < due then (ringFault s sel 0 true, 0) else (s, due)
  else
    let ring := sel - 1024
    let old := tabGet 0 s.host.consumed ring
    let s := if (w + 2 ^ 32 - old) % 2 ^ 32 < 2 ^ 31 then updHost s fun x => { x with consumed := tabSet 0 x.consumed ring w } else s
    (s, 0)

/-- Read one 64-byte line and its enabled rings' words: rings and entries due. -/
def readLineDb (s : State) (line : Nat) (sels : List Nat) : State × List (Nat × Nat) :=
  let a := dbBase s + 64 * line
  if !hostOk s a 64 then (sels.foldl (fun s sel => ringFault s sel a false) s, [])
  else sels.foldl (fun r sel =>
    let x := readWord r.1 sel
    (x.1, if x.2 = 0 then r.2 else r.2 ++ [(sel, x.2)])) (hostFetch s a 64, [])

/-- Every doorbell line that holds an enabled ring's word. -/
def readLines (s : State) : State × List (Nat × Nat) :=
  let on := ringsOn s
  (on.foldl (fun l n => insNat l (n / 8)) []).foldl (fun r line =>
    let x := readLineDb r.1 line (on.filter fun n => n / 8 == line)
    (x.1, r.2 ++ x.2)) (s, [])

/-- Take at most 256 entries of each ring and 4,096 in all. -/
def serveRings : Nat → List (Nat × Nat) → List Nat
  | _, [] => []
  | room, (n, k) :: t =>
    let m := min (min k 256) room
    List.replicate m n ++ serveRings (room - m) t

/-! ## Entries (R490, R491) -/

def entryHost (s : State) (n : Nat) : Nat := ringBase s n + 64 * (ringIndex s n % ringSize s n)

/-- Write HEAD of a ring into the index array. -/
def writeHead (s : State) (n : Nat) : State :=
  let s := updHost s fun x => { x with headDue := x.headDue.filter fun m => m != n }
  let a := idxBase s + 8 * n
  if hostOk s a 8 then hostWrite (hostTouch s a 8) a (natLe 8 (ringIndex s n)) else ringFault s n a false

/-- Consume the entry at the head of the queue of entries seen; HEAD follows once the ring has none left there (R489). -/
def consumeEntry (s : State) (n : Nat) : State :=
  let a := entryHost s n
  let s := trkInput (hostTouch s a 64) 0 hostRegion a (hostRead s a 64)
  let s := updHost (setRingIndex s n (ringIndex s n + 1)) fun x => { x with subQ := x.subQ.drop 1, nextRing := n + 1, headDue := insNat x.headDue n }
  if hasNat s.host.subQ n then s else writeHead s n

/-- Whether an entry has a reserved KIND or fails its CHECK. -/
def entryBad (w : Nat) : Bool := !crcOk 64 w || decide (5 ≤ nbits w 0 4)

/-- Consume bad entries, with BAD_ENTRY and no other effect; an entry without translation disables its ring. -/
def dropBad : Nat → State → State
  | 0, s => s
  | k + 1, s =>
    match s.host.subQ with
    | [] => s
    | n :: _ =>
      let a := entryHost s n
      if !hostOk s a 64 then dropBad k (ringFault s n a false)
      else if entryBad (leNat (hostRead s a 64)) then dropBad k (consumeEntry (fput s fHOST_RING_STATUS_BAD_ENTRY 0 n 1) n)
      else s

/-- Write every HEAD that is due. -/
def writeHeads (s : State) : State := s.host.headDue.foldl writeHead s

/-- Open graphs and open tasks at their limits (R489). -/
def graphsFull (s : State) : Bool :=
  decide (4096 ≤ s.graphs.length) || decide (4194304 ≤ (s.graphs.map fun g => g.tasks.length).sum)

/-- Consume what needs no command; at the limits of open graphs and tasks the part stops consuming and leaves the entries for a later
lap (R489). -/
def settleSeen (s : State) : State :=
  if graphsFull s then updHost (writeHeads s) fun x => { x with subQ := [] } else dropBad (s.host.subQ.length + 1) s

/-- Whether the entries of a nudged ring are being consumed. -/
def nudging (s : State) : Bool := s.host.nudgeRing.isSome && decide (s.host.nudgeRing = s.host.subQ.head?)

/-- Read the doorbell word of a nudged ring: its entries come first; a nudge for a disabled ring does nothing (R492, R500). -/
def nudgeRead (s : State) (n : Nat) : State :=
  if !ringOn s n then s
  else
    let a := dbBase s + 8 * n
    if !hostOk s a 8 then ringFault s n a false
    else
      let r := readWord (hostFetch s a 8) n
      settleSeen (updHost r.1 fun x => { x with subQ := List.replicate r.2 n ++ x.subQ.filter (fun m => m != n), nudgeRing := some n })

/-- Serve the nudges that wait, one after another. -/
def serveNudges : Nat → State → State
  | 0, s => s
  | k + 1, s =>
    if nudging s then s
    else match s.host.nudges with
      | [] => s
      | n :: t => serveNudges k (nudgeRead (updHost s fun x => { x with nudges := t }) n)

/-- After an entry is consumed or a doorbell word read: consume what needs no command, then serve the nudges that wait (R492). -/
def settleSub (s : State) : State := serveNudges 16 (settleSeen s)

/-- NUDGE (R492): at most 16 nudges wait, and a further one is dropped. -/
def nudge (s : State) (n : Nat) : State :=
  if 16 ≤ s.host.nudges.length then s
  else serveNudges 16 (updHost s fun x => { x with nudges := x.nudges ++ [n] })

/-- The entry that a ring's command consumes: the first entry seen, of that ring and of that KIND; none at the limits of R489. -/
def headEntry (s : State) (ring kind : Nat) : Option Nat :=
  match s.host.subQ with
  | n :: _ =>
    let w := leNat (hostRead s (entryHost s n) 64)
    if n = ring ∧ graphsFull s = false ∧ ringOn s n = true ∧ hostOk s (entryHost s n) 64 = true ∧ nbits w 0 4 = kind then some w else none
  | [] => none

/-- Read the doorbell array (R489): entries seen, in service order. -/
def doorbellRead (s : State) : State :=
  let r := readLines (writeHeads s)
  let later := r.2.filter fun e => decide (s.host.nextRing ≤ e.1)
  let earlier := r.2.filter fun e => decide (e.1 < s.host.nextRing)
  settleSub (updHost r.1 fun x => { x with subQ := serveRings 4096 (later ++ earlier), doorReads := x.doorReads + 1 })

end Sys2Proof.Machine
end

