-- ==== Sys2Proof/Machine/Snapshot.lean ====
section
/-! DEFINITION. Snapshots, the relay copy, restore and push (R523 to R537), and the import of a trackside image (R544). -/

namespace Sys2Proof.Machine

def snapState (s : State) : Nat := fget s fPART_SNAP_STATUS_STATE 0 0
def setSnapState (s : State) (v : Nat) : State := fput s fPART_SNAP_STATUS_STATE 0 0 v
def snapPartner (s : State) : Nat := fget s fPART_SNAP_PARTNER_PARTNER 0 0
def relayTable (s : State) : Nat := fget s fPART_SNAP_CFG_RELAY_TABLE 0 0

/-- Resolve the low 16 bits of a lap number (R305, R526): L with current - 32,768 < L <= current + 32,768. -/
def resolveLap (cur low : Nat) : Nat :=
  let base := cur + 32768 - (cur + 32768) % 65536
  let l := base + low % 65536
  if l ≤ cur + 32768 then l else l - 65536

/-! ## The manifest (R525) -/

/-- Where the manifest lies in host memory (R545). -/
def manifestBase (s : State) : Nat :=
  fget s fPART_SNAP_MANIFEST_HI_BASE_HI 0 0 * 2 ^ 32 + fget s fPART_SNAP_MANIFEST_LO_BASE_LO 0 0 * 64

/-- A manifest in host memory: header and entries, where it reads and passes its checks. -/
def readManifest (s : State) : Option (Nat × List Nat) :=
  let a := manifestBase s
  if !hostOk s a 64 then none
  else
    let h := leNat (hostRead s a 64)
    let n := nbits h 0 16
    if n = 0 ∨ 4064 < n ∨ !hostOk s (a + 64) (16 * n) then none
    else
      let b := hostRead s (a + 64) (16 * n)
      let es := (blocksOf 16 n b).map leNat
      let bad := crc32c (natLe 60 h ++ b) != nbits h 480 32 || nbits h 16 16 != 0 || nbits h 64 416 != 0 ||
        es.any fun e => decide (7 ≤ nbits e 48 4) || nbits e 52 76 != 0
      if bad then none else some (h, es)

/-- Record what the read of the manifest took from host memory (R485, R538): the header, and the entries where they are read. -/
def fetchManifest (s : State) : State :=
  let a := manifestBase s
  let n := nbits (leNat (hostRead s a 64)) 0 16
  if !hostOk s a 64 then s
  else if n = 0 ∨ 4064 < n ∨ !hostOk s (a + 64) (16 * n) then hostFetch s a 64
  else hostFetch (hostFetch s a 64) (a + 64) (16 * n)

/-- Blocks of an extent: 2^20 is written as 0 in its 20 bits (DEDUCED, assumption 18). -/
def extentBlocks (e : Nat) : Nat := if nbits e 28 20 = 0 then 2 ^ 20 else nbits e 28 20

/-- Owner entries of a manifest, with the size of their blocks in pages. -/
def manifestBlocks (s : State) (es : List Nat) : List (Nat × Nat × Nat × Nat) :=
  es.flatMap fun e =>
    let t := nbits e 0 8
    let o := getOwner s t
    (rangeFrom (nbits e 8 20) (extentBlocks e)).map fun k => (t, k, if k < o.count then ownEntry o k else 0, 2 ^ (o.log2 - 16))

/-- Whether every block is OWNED by this part (R525). -/
def manifestOwned (s : State) (es : List Nat) : Bool :=
  (manifestBlocks s es).all fun b => entState b.2.2.1 == 1 && nbits b.2.2.1 0 17 == selfId s

/-- Own pages of a manifest in order: region and page. -/
def manifestPages (s : State) (es : List Nat) : List (Nat × Nat) :=
  (manifestBlocks s es).flatMap fun b => (rangeFrom (nbits b.2.2.1 20 21) b.2.2.2).map fun p => (nbits b.2.2.1 17 3, p)

/-! ## The image (R531, R532) -/

/-- Stream records of a region: 8,192 of 32 bytes. -/
def streamBytes (s : State) (r : Nat) : Bytes :=
  (rangeFrom 0 8192).flatMap fun n => natLe 32 (streamWord (tabGet rstreamReset (getRegion s r).streams n))

/-- Digest of each region: its manifest pages in order, then its stream records. -/
def snapDigests (s : State) (pages : List (Nat × Nat)) : List Nat :=
  (rangeFrom 0 8).map fun r =>
    if !regionPresent s r then 0
    else (Config.shake256 (((pages.filter fun p => p.1 == r).flatMap fun p => readCommitted s p.1 p.2 0 65536) ++ streamBytes s r)).toNat

/-- The header page: header, then a copy of the manifest entries. -/
def snapHeader (s : State) (sealed' : Bool) (pages : Nat) : Bytes :=
  let x := s.snap
  let ds := ((rangeFrom 0 8).zip x.digests).foldl (fun a e => a + e.2 * 2 ^ (320 + 256 * e.1)) 0
  let w := 0x5A4C5331 + 1 * 2 ^ 32 + selfId s * 2 ^ 48 + snapPartner s * 2 ^ 65 + b2n sealed' * 2 ^ 82 + b2n sealed' * 2 ^ 83 +
    x.seq % 2 ^ 32 * 2 ^ 96 + x.lap % 2 ^ 48 * 2 ^ 128 + x.runStep * 2 ^ 192 + x.manifest.length * 2 ^ 224 + pages % 2 ^ 32 * 2 ^ 256 +
    8192 * nRegions s * 2 ^ 288 + ds
  natLe 508 w ++ natLe 4 (crc32c (natLe 508 w)) ++ x.manifest.flatMap (natLe 16) ++ List.replicate (65024 - 16 * x.manifest.length) 0

/-- Where page k of a slot lies in the relay table's logical space (R529). -/
def slotOffset (s : State) (table slot k : Nat) : Nat :=
  let o := getOwner s table
  slot * (o.count * 2 ^ o.log2 / 2) + k * 65536

/-! ## Taking a snapshot (R526 to R530) -/

/-- A relay, restore or push fails (R507, R530): kind 0 relay, 1 restore, 2 push, 3 flash drain. -/
def snapFail (s : State) (kind seq : Nat) : State :=
  let s := fput s fPART_SNAP_STATUS_FAILED 0 0 1
  let s := if kind < 2 then setSnapState { s with snap := { s.snap with sealing := false, lastLap := none, next := 0, early := [] } } 0 else s
  errPart s (errRecord s 0xC 3 0x21 0 8 0 (kind + seq % 2 ^ 32 * 2 ^ 32))

def snapRefuse (s : State) : State := fput s fPART_SNAP_STATUS_REFUSED 0 0 1

/-- The owner tables of a lap to come, as far as the changes that wait tell (R302, R305, R525). -/
def ownersIn (s : State) (lap : Nat) : State := (s.ownPend.filter fun p => decide (p.lap ≤ lap)).foldl applyOwn s

/-- Whether the slot to be written is still held for the host (R527, R532). Its header lies in the partner's memory, where the driver
clears HOST_HOLD: each look at a sealed copy there is a free value. -/
def heldForHost (s : State) (slot : Nat) : State × Bool :=
  if tabGet 0 s.snap.slotSeq slot = 0 then (s, false)
  else
    let t := drawFree s
    (t.2, t.1 % 2 == 1)

/-- A request is accepted (R526). -/
def snapBegin (s : State) (lap slot runStep : Nat) (es : List Nat) : State :=
  setSnapState { s with snap := { s.snap with
    lap := lap, seq := s.snap.seq + 1, slot := slot, runStep := runStep, manifest := es, digests := [], next := 0, early := [],
    total := (manifestPages (ownersIn s lap) es).length, pages := [], saved := [], head := 0, lastLap := none, sealing := false } } 1

/-- SNAPSHOT_REQUEST (R526, R527). -/
def snapRequest (s : State) (value : Nat) : State :=
  if !nbit value 16 then s
  else
    let l := resolveLap s.lap.num (nbits value 0 16)
    let slot := if s.snap.newest = some 0 then 1 else 0
    if l ≤ s.lap.num then fput s fPART_SNAP_STATUS_LATE 0 0 1
    else if snapState s ≠ 0 ∨ snapPartner s = selfId s then snapRefuse s
    else match readManifest s with
      | none => snapRefuse (fetchManifest s)
      | some (h, es) =>
        let t := fetchManifest s
        if !manifestOwned (ownersIn s l) es then snapRefuse t
        else
          let x := heldForHost t slot
          if x.2 then snapRefuse x.1 else snapBegin x.1 l slot (nbits h 32 32) es

def execSnapshotRequest (value : Word) (s : State) : Host.Outcome State Fault Refusal := .next (snapRequest (driverWrite s 0x100910 value.toNat) value.toNat)

/-- Set PAGES left to relay or restore. -/
def setLeft (s : State) (n : Nat) : State := fput s fPART_SNAP_LEFT_PAGES 0 0 (min n (2 ^ 24 - 1))

/-- Send one 64 KiB page to a slot of the relay area as an urgent held transfer; none where it cannot go. -/
def relayPage (s : State) (slot k : Nat) (b : Bytes) : Option State :=
  let t := relayTable s
  let x := slotOffset s t slot k
  match resolveOwner s t x with
  | none => none
  | some o =>
    if o.part = selfId s ∨ hasNat s.lap.lost o.part then none
    else
      let xid := heldId s o.part hostSlot
      let g := { blankSeg s o.part with held := true, tableId := t, offset := x, gen := o.gen, xid := xid, length := 65536, data := b }
      (sendSegment s (managerRegion s) opWriteOwner 1 0 g none none).map fun s =>
        updLap s fun l => { l with fwOut := (o.part, xid, hostSlot) :: l.fwOut }

/-- Send a list of numbered pages in order; none when one cannot go. -/
def relayPages (slot : Nat) : List (Nat × Bytes) → State → Option State
  | [], s => some s
  | e :: t, s => match relayPage s slot e.1 e.2 with
    | some s => relayPages slot t s
    | none => none

/-- The four pages of stream records of every region present, numbered after the manifest's pages. -/
def streamPages (s : State) (total : Nat) : List (Nat × Bytes) :=
  (rangeFrom 0 (nRegions s)).flatMap fun r =>
    ((rangeFrom 0 4).zip (blocksOf 65536 4 (streamBytes s r))).map fun e => (total + 1 + 4 * r + e.1, e.2)

/-- Pages that a task ready for placement waits on, in admission order (R528): those it would hold-write. -/
def waitedPages (s : State) : List (Nat × Nat) :=
  let its := sortBy itemLe (s.graphs.flatMap fun g => itemsOf s [] false s.lap.num g)
  let un := unrelayed s
  its.flatMap fun it => it.tasks.flatMap fun i => (bufsOf it.graph i).flatMap fun b =>
    if b.scope = 0 ∧ b.writes = true then un.filter fun e =>
      let a := e.1 * 0x20_0000_0000 + e.2 * 65536
      decide (a < b.base + b.size ∧ b.base < a + 65536)
    else []

/-- Check pages of committed state that are read to be sent; the flag says that data is lost (R278, R286, R514). -/
def checkPages (s : State) (ps : List (Nat × Nat)) : State × Bool :=
  ps.foldl (fun x p =>
    let q := readHbmEcc x.1 p.1 noSlot [] 2 p.2 0 65536
    (q.1, x.2 || q.2)) (s, false)

/-- A page of the image as it stood at the snapshot point: what was kept of it where it has changed since (R526). -/
def imagePage (s : State) (k : Nat) (now : Bytes) : Bytes := ((s.snap.saved.find? fun e => e.1 == k).map (·.2)).getD now

/-- Keep image pages not yet relayed as they stood, where a step has changed their committed state (R526). -/
def keepImage (old new : State) : State :=
  if snapState old ≠ 2 then new
  else
    let pages := (dueImage old).filter fun e => committedFrame old e.2.1 e.2.2 != committedFrame new e.2.1 e.2.2
    let streams := (streamPages old old.snap.pages.length).filter fun e =>
      let r := (e.1 - old.snap.pages.length - 1) / 4
      !streamRelayed old (8192 * r) && (getRegion old r).streams != (getRegion new r).streams
    let kept := (pages.map fun e => (e.1, readCommitted old e.2.1 e.2.2 0 65536)) ++ streams
    { new with snap := { new.snap with saved := new.snap.saved ++ kept.filter fun e => !new.snap.saved.any fun x => x.1 == e.1 } }

/-- Keep every image page not yet relayed: committed memory changes at once from here on, as lap service ends. -/
def keepWhole (s : State) : State :=
  if snapState s ≠ 2 then s
  else
    let kept := ((dueImage s).map fun e => (e.1, readCommitted s e.2.1 e.2.2 0 65536)) ++ (streamPages s s.snap.pages.length).drop (s.snap.head - 1)
    { s with snap := { s.snap with saved := s.snap.saved ++ kept.filter fun e => !s.snap.saved.any fun x => x.1 == e.1 } }

/-- What the relay sends next: header and streams first, then pages that tasks wait on in the order of those tasks' admission, then
manifest order (R528), at most RELAY_MIB in the lap (R530). -/
def relayNext (s : State) : List (Nat × Bytes) × List (Nat × Nat × Nat) :=
  let room := fget s fPART_SNAP_CFG_RELAY_MIB 0 0 * 16
  let first := ((0, snapHeader s false s.snap.pages.length) :: streamPages s s.snap.pages.length).drop s.snap.head
  let due := dueImage s
  let order := (waitedPages s).filterMap (fun w => due.find? fun e => e.2 == w) ++ due
  let once := order.foldl (fun l e => if l.any (fun x => x.1 == e.1) then l else l ++ [e]) []
  (first.take room, once.take (room - first.length))

/-- What the relay sends in a lap; a page that holds lost data fails it (DESIGN CHOICE, assumption 103). The first write sets the slot to
WRITING, and it holds no sealed copy any more (R530). -/
def relayStep (s : State) : State :=
  if snapState s ≠ 2 ∨ !inService s then s
  else
    let pages := s.snap.pages
    if s.snap.sealing then
      match relayPage s s.snap.slot 0 (snapHeader s true pages.length) with
      | some s => { s with snap := { s.snap with lastLap := some s.lap.num } }
      | none => snapFail s 0 s.snap.seq
    else if s.snap.lastLap.isSome then s
    else if pages.any (fun p => !regionAlive s p.1) then snapFail s 0 s.snap.seq
    else
      let n := relayNext s
      let q := checkPages s ((n.2.filter fun e => !s.snap.saved.any fun x => x.1 == e.1).map (·.2))
      if q.2 then snapFail q.1 0 s.snap.seq
      else
        let data := (n.1.map fun e => (e.1, imagePage s e.1 e.2)) ++ n.2.map fun e => (e.1, imagePage s e.1 (readCommitted q.1 e.2.1 e.2.2 0 65536))
        match relayPages s.snap.slot data q.1 with
        | none => snapFail s 0 s.snap.seq
        | some t =>
          let sent := n.2.map (·.1)
          let left := (dueImage s).filter fun e => !hasNat sent e.1
          let next : Nat := match left with | [] => pages.length + 1 | e :: _ => e.1
          setLeft { t with snap := { t.snap with
            next := next, early := (sent.foldl insNat s.snap.early).filter fun k => decide (next < k), head := s.snap.head + n.1.length
            saved := s.snap.saved.filter fun e => !data.any fun x => x.1 == e.1
            slotSeq := tabSet 0 t.snap.slotSeq s.snap.slot 0, lastLap := if left.isEmpty then some t.lap.num else none } } left.length

/-- Whether an update state header breaks R411. -/
def headerBad (w : Nat) : Bool := !crcOk 64 w || (!nbit w 48 && !nbit w 49) || (nbit w 49 && nbits w 272 8 == 0)

/-- Blocks of UPDATE_HEADER extents, and their first pages, which hold headers (DEDUCED, assumption 22). -/
def headerExtents (es : List Nat) : List Nat := es.filter fun e => nbits e 48 4 == 4
def headerPages (s : State) (es : List Nat) : List (Nat × Nat) :=
  (manifestBlocks s (headerExtents es)).map fun b => (nbits b.2.2.1 17 3, nbits b.2.2.1 20 21)

/-- The pages of headers that break R411, where the tables before a commit point place them. -/
def badHeaders (before s : State) (es : List Nat) : List (Nat × Nat) :=
  (headerPages before es).filter fun p => headerBad (leNat (readCommitted s p.1 p.2 0 64))

/-- BAD_UPDATE_HEADER on the event ring of every open graph that declares a held buffer over the header (R411). -/
def headerEvents (s : State) (ps : List (Nat × Nat)) : State :=
  ps.foldl (fun s p => s.graphs.foldl (fun s g =>
    let a := p.1 * 0x20_0000_0000 + p.2 * 65536
    if g.bufs.any (fun l => l.any fun b => b.scope == 0 && decide (a < b.base + b.size ∧ b.base < a + 64)) then
      postEvent s g.evtRing 0x0B 0 g.id 0 0
    else s) s) s

/-- The snapshot point (R525, R526): the manifest's blocks must be OWNED in the lap that ends, whose tables are those of before, and
hold no lost data (DESIGN CHOICE, assumption 103). -/
def snapPoint (before s : State) : State :=
  let pages := manifestPages before s.snap.manifest
  let bad := badHeaders before s s.snap.manifest
  if !manifestOwned before s.snap.manifest then snapFail s 0 s.snap.seq
  else if !bad.isEmpty then snapFail (headerEvents s bad) 0 s.snap.seq
  else
    let q := checkPages s pages
    if q.2 then snapFail q.1 0 s.snap.seq
    else
      let s := q.1
      setLeft (setSnapState { s with snap := { s.snap with total := pages.length, pages := pages, digests := snapDigests s pages } } 2) pages.length

/-- The snapshot at a commit point: the snapshot point, the last page, the seal (R526, R530); before it, the tables are those of the lap
that ends. -/
def snapCommit (before s : State) : State :=
  let n := lapN s
  if snapState s = 1 ∧ s.snap.lap = n then snapPoint before s
  else if snapState s = 2 then
    match s.snap.lastLap with
    | none => s
    | some l =>
      if n < l then s
      else if !s.snap.sealing then { s with snap := { s.snap with sealing := true, lastLap := none } }
      else
        let s := fput (fput (setSnapState s 0) fPART_SNAP_STATUS_SEALED 0 0 1) fPART_SNAP_SEQ_SEQ 0 0 s.snap.seq
        let s := fput s fPART_SNAP_STATUS_UNPROTECTED 0 0 0
        { s with snap := { s.snap with
          newest := some s.snap.slot, holder := some (snapPartner s), slotSeq := tabSet 0 s.snap.slotSeq s.snap.slot s.snap.seq, sealing := false, lastLap := none } }
  else s

/-! ## The partner's side (R529, R530, R533) -/

/-- Whether a page lies in the relay area of this part (R529). -/
def inRelayArea (s : State) (page : Nat) : Bool :=
  let first := fget s fPART_RELAY_AREA_FIRST_PAGE 0 0
  fget s fPART_RELAY_SRC_ENABLE 0 0 == 1 && decide (first ≤ page ∧ page < first + fget s fPART_RELAY_PAGES_PAGES 0 0)

/-- The header of a hosted slot, as committed; none where the slot does not resolve to this part. -/
def slotHeader (s : State) (slot : Nat) : Option Nat :=
  match s.snap.hosted with
  | none => none
  | some t => match resolveOwner s t (slotOffset s t slot 0) with
    | some o =>
      if o.part = selfId s ∧ regionAlive s o.region = true ∧ committedOk s o.region (o.off / 65536) (o.off % 65536) 512 = true then
        some (leNat (readCommitted s o.region (o.off / 65536) (o.off % 65536) 512))
      else none
    | none => none

/-- 0 EMPTY, 1 WRITING, 2 SEALED. -/
def slotState (s : State) (slot : Nat) : Nat :=
  match slotHeader s slot with
  | some h => if nbits h 0 32 ≠ 0x5A4C5331 then 0 else if nbit h 82 then 2 else 1
  | none => 0

/-- What a commit point shows of the hosted slots; a slot that seals is drained to flash, in place of an older drain. The image that it
writes over is none from then on (R533). -/
def relayCommit (s : State) : State :=
  if s.snap.hosted.isNone then s
  else
    let f := fun (slot : Nat) => if slot = 0 then fPART_RELAY_STATUS_SLOT0 else fPART_RELAY_STATUS_SLOT1
    (rangeFrom 0 2).foldl (fun s slot =>
      let st := slotState s slot
      let s' := fput s (f slot) 0 0 st
      if st = 2 ∧ fget s (f slot) 0 0 ≠ 2 then
        fput { s' with snap := { s'.snap with drain := some slot, images := tabSet [] s'.snap.images s'.snap.nextImage [] } } fPART_RELAY_STATUS_FLASH 0 0 1
      else s') s

/-- Region whose HBM holds a flash root port's queues: its own, or the manager's while that is deadbolted (R34, R499). -/
def portQueues (s : State) (port : Nat) : Nat :=
  let own := flashRegion s port
  if regionAlive s own then own else managerRegion s

/-- Whether a flash root port reaches HBM of a region: over the fabric and the bridges, or over the service lanes while its
own region is deadbolted (R26, R34, R499). -/
def portReads (s : State) (port r : Nat) : Bool :=
  let own := flashRegion s port
  regionAlive s r && pathUp (if regionAlive s own then fabricUp s else serviceUp s) own r 0

/-- Pages of the image in a slot, with the region that holds each: the header, the manifest's and those of the stream records
(R531). -/
def slotPages (s : State) (slot h : Nat) : List (Nat × Option Nat) :=
  (rangeFrom 0 (1 + nbits h 256 32 + nbits h 288 32 / 2048)).map fun k =>
    (k, match s.snap.hosted with | some t => (resolveOwner s t (slotOffset s t slot k)).map (·.region) | none => none)

/-- Whether the ports reach their queues and every page of a slot: even pages go to port 0, odd pages to port 1 (R533). -/
def drainReaches (s : State) (slot : Nat) : Bool :=
  portReads s 0 (portQueues s 0) && portReads s 1 (portQueues s 1) &&
  match slotHeader s slot with
  | some h => (slotPages s slot h).all fun e => match e.2 with | some r => portReads s (e.1 % 2) r | none => false
  | none => false

/-- The pages that hold a hosted slot, from its header on. -/
def hostedPages (s : State) (t slot n : Nat) : List (Nat × Nat) :=
  (rangeFrom 0 (n + 1)).filterMap fun k => (resolveOwner s t (slotOffset s t slot k)).map fun o => (o.region, o.off / 65536)

/-- The bytes of a slot's image pages in image order. -/
def slotBytes (s : State) (slot h : Nat) : List Bytes :=
  (slotPages s slot h).map fun e => match s.snap.hosted.bind fun t => resolveOwner s t (slotOffset s t slot e.1) with
    | some o => readCommitted s o.region (o.off / 65536) (o.off % 65536) 65536
    | none => []

/-- Write an image to flash: every data page first, then the header; the next image takes the place after it, round the namespace
(R533). -/
def writeImage (s : State) (pages : List Bytes) : State :=
  let i := s.snap.nextImage
  let put := fun (s : State) (e : Nat × Bytes) => emit s (.flashPage (e.1 % 2) i e.1 e.2)
  let numbered := (rangeFrom 0 pages.length).zip pages
  let s := (numbered.drop 1 ++ numbered.take 1).foldl put s
  { s with snap := { s.snap with images := tabSet [] s.snap.images i pages, nextImage := (i + 1) % Config.flashImages } }

/-- FLASH_DRAIN_COMPLETE (R533): a drain whose pages a port does not reach has failed, and so has one that meets lost data (R278,
R514). -/
def drainDone (s : State) (slot : Nat) (ok : Bool) : State :=
  if s.snap.drain ≠ some slot then s
  else
    let h := (slotHeader s slot).getD 0
    let reached := drainReaches s slot
    let s := { s with snap := { s.snap with drain := none } }
    let fail := fun (s : State) => errPart (fput s fPART_RELAY_STATUS_FLASH 0 0 0) (errRecord s 0xC 3 0x21 0 8 0 (3 + nbits h 96 32 * 2 ^ 32))
    if ok && reached then
      let q := match s.snap.hosted with
        | some t => checkPages s (hostedPages s t slot (nbits h 256 32 + nbits h 288 32 / 2048))
        | none => (s, false)
      if q.2 then fail q.1 else fput (writeImage q.1 (slotBytes q.1 slot h)) fPART_RELAY_STATUS_FLASH 0 0 2
    else fail s

def execFlashDrainComplete (slot : Nat) (ok : Bool) (s : State) : Host.Outcome State Fault Refusal := .next (drainDone s slot ok)

/-! ## Writes by firmware into own blocks -/

/-- Write bytes of HBM as firmware: held under slot 0x3FFF in lap service, at once outside it (R482's forms, DEDUCED,
assumption 19); false where no frame is free. -/
def firmwareWrite (s : State) (r page off : Nat) (b : Bytes) : State × Bool :=
  if inService s then
    match writeHbm s r hostSlot false (b.length / 65536 + 2) page off b with
    | .ok s => (s, true)
    | _ => (s, false)
  else
    ((rangeFrom 0 (b.length / 65536 + 2)).foldl (fun s i =>
      let o := if i = 0 then 0 else i * 65536 - off
      let k := (b.drop o).take (if i = 0 then 65536 - off else 65536)
      if k.isEmpty || decide (b.length ≤ o) then s else writeNow s r (page + i) (if i = 0 then off else 0) k) s, true)

/-- Take a stream record: at once outside lap service, else at the next commit point (R558). A record whose CHECK fails
or whose reserved bits are set is dropped. -/
def takeStream (s : State) (copy n w : Nat) : State × Bool :=
  let r := n / 8192
  if !crcOk 32 w || nbits w 130 94 != 0 then (s, false)
  else
    let x : RStream := ⟨nbits w 0 64, nbits w 64 64, nbit w 128, nbit w 129⟩
    let s := trkInput s 6 r n (natLe 32 w)
    if inService s then
      (updRegion s r fun y => { y with ind := tabUpd indReset y.ind copy fun i => { i with pendingStreams := i.pendingStreams ++ [(n, x)] } }, true)
    else (putStream s n s.lap.num x, true)

/-! ## Restore and push (R536, R537) -/

/-- Ask the partner for page k of the slot being restored. The request has HELD 1: R537 gives it none (DESIGN CHOICE, assumption 132). -/
def restoreAsk (s : State) (k : Nat) : State :=
  let t := relayTable s
  let x := slotOffset s t s.snap.slot k
  match resolveOwner s t x with
  | none => snapFail s 1 s.snap.seq
  | some o =>
    let g := { blankSeg s o.part with held := true, tableId := t, offset := x, gen := o.gen, replyAddr := 0, readLen := 65536 }
    match sendSegment s (managerRegion s) opReadOwner 1 0 g none none with
    | some s => { s with snap := { s.snap with next := k } }
    | none => snapFail s 1 s.snap.seq

/-- RESTORE (R536, R537). -/
def snapRestore (s : State) (value : Nat) : State :=
  if !nbit value 17 then s
  else if snapState s ≠ 0 ∨ !s.graphs.isEmpty ∨ snapPartner s = selfId s then snapRefuse s
  else
    let slot := nbits value 18 1
    restoreAsk (setSnapState { s with snap := { s.snap with
      slot := slot, manifest := [], digests := [], next := 0, total := 0, sealing := false, lastLap := none } } 3) 0

def execRestore (value : Word) (s : State) : Host.Outcome State Fault Refusal := .next (snapRestore (driverWrite s 0x100910 value.toNat) value.toNat)

/-- Compare the digests of what was restored with those of the header (R537). A rollback lets regions that were reset before it
return (R519). -/
def restoreEnd (s : State) : State :=
  let q := checkPages s (manifestPages s s.snap.manifest)
  let s := q.1
  if !q.2 ∧ snapDigests s (manifestPages s s.snap.manifest) = s.snap.digests then
    let back := fun (x : Region) => { x with rolledBack := x.resetting || x.readmit }
    let s := { s with regions := (s.regions.map fun (e : Nat × Region) => (e.1, back e.2)).filter fun e => decide (e.2 ≠ regionReset) }
    fput (setSnapState { s with snap := { s.snap with sealing := false } } 0) fPART_SNAP_STATUS_RESTORED 0 0 1
  else snapFail s 1 s.snap.seq

/-- Whether a reply carries the page that the restore waits for. -/
def restoreReply (s : State) (g : Segment) : Bool :=
  snapState s == 3 && !s.snap.sealing && g.tableId == relayTable s && g.src == snapPartner s &&
    g.offset == slotOffset s (relayTable s) s.snap.slot s.snap.next

/-- The header of the slot arrives (R532): its own checks, then the manifest of the image. -/
def restoreHeader (s : State) (b : Bytes) : State :=
  let h := leNat (b.take 512)
  let es := (blocksOf 16 (nbits h 224 16) (b.drop 512)).map leNat
  if nbits h 0 32 ≠ 0x5A4C5331 ∨ !nbit h 82 ∨ crc32c (b.take 508) ≠ nbits h 4064 32 ∨ !manifestOwned s es then snapFail s 1 s.snap.seq
  else
    let s := setLeft s (nbits h 256 32)
    restoreAsk { s with snap := { s.snap with
      manifest := es, total := nbits h 256 32, seq := max s.snap.seq (nbits h 96 32), runStep := nbits h 192 32,
      digests := (rangeFrom 0 8).map fun r => nbits h (320 + 256 * r) 256 } } 1

/-- Page k of the slot goes to its place: a manifest page, or a page of stream records; the flag says whether it could. A header that
breaks R411 is refused. -/
def restoreTake (s : State) (k : Nat) (b : Bytes) : State × Bool :=
  if k ≤ s.snap.total then
    match (manifestPages s s.snap.manifest)[k - 1]? with
    | some p =>
      if (headerPages s s.snap.manifest).any (fun h => h == p) && headerBad (leNat (b.take 64)) then (headerEvents s [p], false)
      else if committedOk s p.1 p.2 0 65536 then firmwareWrite s p.1 p.2 0 b
      else (s, false)
    | none => (s, false)
  else
    let j := k - s.snap.total - 1
    (((rangeFrom 0 2048).zip ((blocksOf 32 2048 b).map leNat)).foldl (fun s e =>
      (takeStream s 1 (j / 4 * 8192 + j % 4 * 2048 + e.1) e.2).1) s, true)

/-- Page k has been taken: the next one is asked for, or the restore ends. -/
def restoreOn (s : State) (k last total : Nat) : State :=
  let s := setLeft s (total - k)
  if k < last then restoreAsk s (k + 1)
  else if inService s then { s with snap := { s.snap with sealing := true } }
  else restoreEnd s

/-- One page of the slot arrives: the header, a manifest page, or a page of stream records. -/
def restorePage (s : State) (b : Bytes) : State :=
  if s.snap.next = 0 then restoreHeader s b
  else
    let w := restoreTake s s.snap.next b
    if !w.2 then snapFail w.1 1 s.snap.seq
    else restoreOn w.1 s.snap.next (s.snap.total + 4 * nRegions s) s.snap.total

/-- A restore in lap service ends at the commit point that commits its last page. -/
def restoreCommit (s : State) : State := if snapState s = 3 ∧ s.snap.sealing = true then restoreEnd s else s

/-- Send one manifest page of a hosted slot to the block that now holds it; false where its entry is not RESTORING. -/
def pushPage (s : State) (seq : Nat) (b : Bytes) (e k off : Nat) (t log2 : Nat) : State × Bool :=
  let x := k * 2 ^ log2 + off
  if entState e ≠ 2 then (s, false)
  else if nbits e 0 17 = selfId s then firmwareWrite s (nbits e 17 3) (nbits e 20 21 + off / 65536) 0 b
  else
    let dst := nbits e 0 17
    let xid := heldId s dst hostSlot
    let g := { blankSeg s dst with held := true, tableId := t, offset := x, gen := entGen e, xid := xid, length := 65536, data := b }
    match sendSegment s (managerRegion s) opWriteOwner 1 0 g none none with
    | some t =>
      let t := updLap t fun l => { l with fwOut := (dst, xid, hostSlot) :: l.fwOut }
      ({ t with snap := { t.snap with pushed := t.snap.pushed ++ [(s.link.segNext, dst, seq)] } }, true)
    | none => (s, false)

/-- The update state headers of a hosted slot that break R411, given its blocks page by page: the owner
entries of their blocks. -/
def pushBad (s : State) (es : List Nat) (items : List ((Nat × Nat × Nat × Nat) × Nat)) (page : Nat → Bytes) : List Nat :=
  let heads := manifestBlocks s (headerExtents es)
  ((rangeFrom 1 items.length).zip items).filterMap fun e =>
    if e.2.2 == 0 && heads.any (fun h => h == e.2.1) && headerBad (leNat ((page e.1).take 64)) then some e.2.1.2.2.1 else none

/-- PUSH (R411, R536, R537): every manifest block of a sealed hosted slot, through the current tables. One whose pages hold lost data
fails (DESIGN CHOICE, assumption 103). -/
def snapPush (s : State) (value : Nat) : State :=
  if !nbit value 0 then s
  else
    let slot := nbits value 1 1
    match s.snap.hosted, slotHeader s slot with
    | some t, some h =>
      if slotState s slot ≠ 2 then snapFail s 2 (nbits h 96 32)
      else
        let page := fun (s : State) (k : Nat) => match resolveOwner s t (slotOffset s t slot k) with
          | some o => readCommitted s o.region (o.off / 65536) 0 65536
          | none => []
        let es := (blocksOf 16 (nbits h 224 16) ((page s 0).drop 512)).map leNat
        let items := (manifestBlocks s es).flatMap fun b => (rangeFrom 0 b.2.2.2).map fun p => (b, p)
        let q := checkPages s (hostedPages s t slot items.length)
        let s := q.1
        let bad := pushBad s es items (page s)
        if q.2 || !bad.isEmpty then
          snapFail (headerEvents s ((bad.filter fun e => nbits e 0 17 == selfId s).map fun e => (nbits e 17 3, nbits e 20 21))) 2 (nbits h 96 32)
        else
        let r := ((rangeFrom 1 items.length).zip items).foldl (fun (r : State × Bool) e =>
          if !r.2 then r
          else
            let b := e.2.1
            pushPage r.1 (nbits h 96 32) (page r.1 e.1) b.2.2.1 b.2.1 (e.2.2 * 65536) b.1 (getOwner r.1 b.1).log2) (s, true)
        if r.2 then r.1 else snapFail r.1 2 (nbits h 96 32)
    | _, _ => snapFail s 2 0

def execPush (value : Word) (s : State) : Host.Outcome State Fault Refusal := .next (snapPush (driverWrite s 0x100A0C value.toNat) value.toNat)

/-- STREAMS_LOAD (R545): a COUNT out of range is rejected, with GO or without; entries of 48 bytes, the record from byte 16 (DEDUCED,
assumption 18). -/
def streamsLoad (s : State) (value : Nat) : State :=
  let n := nbits value 0 17
  let a := fget s fPART_SNAP_STREAMS_HI_BASE_HI 0 0 * 2 ^ 32 + fget s fPART_SNAP_STREAMS_LO_BASE_LO 0 0 * 64
  if n = 0 ∨ 65536 < n then fput s fPART_SNAP_STATUS_WRITE_REJECTED 0 0 1
  else if !nbit value 17 || !s.graphs.isEmpty then s
  else if !hostOk s a (48 * n) then fput s fPART_SNAP_STATUS_FAILED 0 0 1
  else
    let b := hostRead s a (48 * n)
    (blocksOf 48 n b).foldl (fun s e =>
      let k := leNat (e.take 2)
      if regionAlive s (k / 8192) then (takeStream s 1 k (leNat (e.drop 16))).1 else s) (hostFetch s a (48 * n))

def execStreamsLoad (value : Word) (s : State) : Host.Outcome State Fault Refusal := .next (streamsLoad (driverWrite s 0x100928 value.toNat) value.toNat)

/-! ## Import of a trackside image (R544) -/

/-- Records of the lap log by lap: header, then ENTRY_COUNT entries. -/
def parseLogs : Nat → Bytes → Tab Nat → Tab Nat
  | 0, _, t => t
  | n + 1, b, t =>
    if b.length < 64 then t
    else
      let h := leNat (b.take 64)
      let len := 64 + 16 * nbits h 192 16
      parseLogs n (b.drop len) (tabSet 0 t (nbits h 0 48) (leNat (b.take len)))

/-- Input records in order (R538). -/
def parseInputs : Nat → Bytes → List TrkRec
  | 0, _ => []
  | n + 1, b => if b.length < 32 then [] else
      let h := leNat (b.take 32)
      let k := nbits h 80 32
      ⟨nbits h 0 48, nbits h 48 4, nbits h 52 3, nbits h 56 24, nbits h 112 64, (b.drop 32).take k⟩ ::
        parseInputs n (b.drop (32 + ceilDiv k 32 * 32))

/-- Digest-log entries by lap. -/
def parseDigests : Nat → Bytes → Tab Nat → Tab Nat
  | 0, _, t => t
  | n + 1, b, t => if b.length < 128 then t else
      let e := leNat (b.take 128)
      parseDigests n (b.drop 128) (tabSet 0 t (nbits e 0 48) e)

/-- Inputs of a lap in the image, of some sources (R538, R544). -/
def benchInputs (s : State) (lap : Nat) (sources : List Nat) : List TrkRec := s.trk.benchIn.filter fun x => x.lap == lap && hasNat sources x.source

/-- Host memory as a lap of the image read it: submission entries and bytes read (R538, R544). -/
def benchHost (s : State) (lap : Nat) : State :=
  updHost s fun h => { h with mem := (benchInputs s lap [0, 1]).foldl (fun m x => memWrite m x.addr x.data) h.mem }

/-- Load the base: pages into free frames, block-store lines, owner tables, stream records (assumption 15). -/
def loadBase : Nat → Bytes → State → State
  | 0, _, s => s
  | n + 1, b, s =>
    if b.length < 16 then s
    else
      let h := leNat (b.take 16)
      let r := nbits h 8 24
      if nbits h 0 8 = 1 then
        let p := nbits h 32 32
        let f := ((highFree s r false).or (highFree s r true)).getD 0
        let s := updRegion s r fun x =>
          let x := setPte (setFrameState x f 2) p ⟨f, true, nbit h 64, []⟩
          { x with hbm := memWrite x.hbm (f * 65536) ((b.drop 16).take 65536) }
        loadBase n (b.drop 65552) s
      else if nbits h 0 8 = 2 then
        let s := updBlock s r fun x => { x with bs := memWrite x.bs (nbits h 32 32 * 128) ((b.drop 16).take 128) }
        loadBase n (b.drop 144) s
      else if nbits h 0 8 = 4 then
        let o := leNat ((b.drop 16).take 16)
        let m := nbits o 32 32
        let es := ((blocksOf 16 m (b.drop 32)).map leNat).map fun e => (nbits e 0 64, nbits e 64 64)
        loadBase n (b.drop (32 + 16 * m)) { s with owners := tabSet ⟨0, 0, []⟩ s.owners r ⟨nbits o 0 8, nbits o 8 24, es⟩ }
      else
        let w := leNat ((b.drop 16).take 32)
        let k := nbits h 32 32
        let s := updRegion s (k / 8192) fun x =>
          { x with streams := tabSet rstreamReset x.streams (k % 8192) ⟨nbits w 0 64, nbits w 64 64, nbit w 128, nbit w 129⟩ }
        loadBase n (b.drop 48) s

/-- Whether an entry of a recorded lap is spin filler: class 0xFF under GRAPH_ID 0, and no open task answers to it. -/
def entryFills (s : State) (e : Nat) : Bool :=
  nbits e 72 8 == 0xFF && nbits e 0 48 == 0 && ((getGraph s 0).bind fun g => taskOf g 0).all fun d => d.energyClass != 0xFF

/-- Whether the part lacks a unit named by a lap log: one that holds no unit at all, or one without the CAP_MASK of the
recorded task, where its graph is open (R4, R88, R544). -/
def logLacks (s : State) (logs : Tab Nat) : Bool :=
  logs.any fun e => (rangeFrom 0 (nbits e.2 192 16)).any fun i =>
    let w := nbits e.2 (512 + 128 * i) 128
    let u := if nbit w 57 then 512 + nbits w 48 9 else nbits w 48 9
    let mask := (((getGraph s (nbits w 0 32)).bind fun g => taskOf g (nbits w 32 16)).filter fun d => d.kind == 0).elim 0 (·.capMask)
    capUnits s u == 0 || (!entryFills s w && Nat.land mask (capUnits s u) != mask)

/-- IMPORT (R544): only with BENCH set and out of lap service. -/
def trkImport (s : State) : State :=
  let h := fget s fPART_TRK_IMG_HI_BASE_HI 0 0 * 2 ^ 32 + fget s fPART_TRK_IMG_LO_BASE_LO 0 0 * 4096
  if fget s fPART_TRK_CFG_BENCH 0 0 = 0 ∨ inService s = true then s
  else if !hostOk s h 64 then fput s fPART_TRK_STATUS_WRITE_REJECTED 0 0 1
  else
    let hd := leNat (hostRead s h 64)
    let ln := nbits hd 192 64
    let li := nbits hd 256 64
    let lj := nbits hd 320 64
    let ld := nbits hd 384 64
    let lb := nbits hd 448 64
    let total := 64 + ln + li + lj + ld + lb
    if !hostOk s h total then fput s fPART_TRK_STATUS_WRITE_REJECTED 0 0 1
    else
      let logs := parseLogs (ln / 64 + 1) (hostRead s (h + 64) ln) []
      if logLacks s logs then fput s fPART_TRK_STATUS_WRITE_REJECTED 0 0 1
      else
        let ds := parseDigests (ld / 128 + 1) (hostRead s (h + 64 + ln + li + lj) ld) []
        let base := hostRead s (h + 64 + ln + li + lj + ld) lb
        let s := { s with trk := { s.trk with benchLog := logs, benchDigest := ds, benchIn := parseInputs (li / 32 + 1) (hostRead s (h + 64 + ln) li) } }
        loadBase (lb / 16 + 1) base (benchHost s (nbits hd 0 48))

def execImportImage (s : State) : Host.Outcome State Fault Refusal := .next (trkImport (driverWrite s 0x100B04 8))

end Sys2Proof.Machine
end

