-- ==== Sys2Proof/Machine/Bar.lean ====
section
/-! DEFINITION. BAR2: host accesses to HBM (R479 to R483). -/

namespace Sys2Proof.Machine

/-- The HBM range of n bytes at a place: region, page, offset; none where R482 refuses it, or nothing carries it from the
endpoint to that region (R26, assumption 79). -/
def hostRange (s : State) (n : Nat) : Place → Option (Nat × Nat × Nat)
  | .hbm r page off =>
    let path := endpointUp s && pathUp (fabricUp s) (endpointRegion s) r (page * 65536)
    if regionAlive s r && path && committedOk s r page off n then some (r, page, off) else none
  | _ => none

/-- Part physical address of a BAR2 offset, by the WINDOW in force when the access is made (R482). -/
def bar2Addr (s : State) (offset : Nat) : Nat := fget s fHOST_BAR2_CFG_WINDOW 0 0 * 2 ^ 36 + offset

/-- HBM range that a BAR2 access to an address names. -/
def bar2Place (s : State) (a n : Nat) : Option (Nat × Nat × Nat) := hostRange s n (placeOf s none a)

/-- Whether a host write needs a frame beyond HOST_FRAMES in its region this lap (R483). -/
def hostOver (s : State) (r page : Nat) : Bool :=
  !(s.host.hostPages.any fun p => p == (r, page)) &&
    decide (fget s fHOST_BAR2_CFG_HOST_FRAMES 0 0 ≤ (s.host.hostPages.filter fun p => p.1 == r).length)

/-- Take a host write; none while it has to wait (R483, R604). -/
def bar2TakeAt (s : State) (data : Bytes) : Option (Nat × Nat × Nat) → Option State
  | none => some (fbump s fHOST_BAR_STATUS_DROPPED 0 0 1)
  | some (r, page, off) =>
    if !inService s then some (writeNow s r page off data)
    else if hostOver s r page then none
    else match writeHbm s r 0x3FFF false (data.length / 65536 + 2) page off data with
      | .ok s => some (updHost s fun h =>
          { h with hostPages := if h.hostPages.any (fun p => p == (r, page)) then h.hostPages else h.hostPages ++ [(r, page)] })
      | _ => none

def bar2Take (s : State) (a : Nat) (data : Bytes) : Option State := bar2TakeAt s data (bar2Place s a data.length)

/-- A poisoned posted write is dropped, counted and reported through AER (R479). -/
def dropPoisoned (s : State) : State := emit (fbump s fHOST_BAR_STATUS_DROPPED 0 0 1) .aer

/-- A write posted to a part physical address: posted writes keep their order, so one that waits holds back those after it. -/
def bar2Post (s : State) (a : Nat) (data : Bytes) : State :=
  let s := trkInput s 2 hostRegion a data
  let wait := fun (s : State) => updHost s fun h => { h with heldWrites := h.heldWrites ++ [(a, data)] }
  if !s.host.heldWrites.isEmpty then wait s
  else (bar2Take s a data).getD (wait s)

/-- BAR2_WRITE (R479, R482, R483). -/
def bar2Write (s : State) (offset : Nat) (data : Bytes) (poisoned : Bool) : State :=
  if poisoned then dropPoisoned s
  else if data.isEmpty then s
  else bar2Post s (bar2Addr s offset) data

/-- BAR2_WRITE_RELEASE (R483): after a commit point the first waiting write is taken, where its lap has room. -/
def bar2Release (s : State) : State :=
  match s.host.heldWrites with
  | [] => s
  | (a, d) :: t =>
    if s.lap.phase = .marked then s
    else (bar2Take s a d).elim s fun s => updHost s fun h => { h with heldWrites := t }

/-- A BAR2 read that is refused: all ones, counted (R482). -/
def bar2Ones (s : State) (n : Nat) : State := emit (fbump s fHOST_BAR_STATUS_ONES_READS 0 0 1) (.read 0 0 (List.replicate n 255))

/-- The completion of a BAR2 read: committed state, checked and corrected on the way (R278, R286); all ones where it is refused
(R482) or where its data is lost (R514; DEDUCED, assumption 103). -/
def bar2AnswerAt (s : State) (n : Nat) : Option (Nat × Nat × Nat) → State
  | some (r, page, off) =>
    let q := readHbmEcc s r noSlot [] (n / 65536 + 2) page off n
    if q.2 then bar2Ones q.1 n else emit q.1 (.read 0 0 ((readCommitted q.1 r page off n).map (·.toNat)))
  | none => bar2Ones s n

def bar2Answer (s : State) (a n : Nat) : State := bar2AnswerAt s n (bar2Place s a n)

/-- BAR2_READ (R482): between the commit point and first issue it waits until first issue. -/
def bar2Read (s : State) (offset n : Nat) : State :=
  let a := bar2Addr s offset
  if s.lap.phase = .committed then updHost s fun h => { h with heldReads := h.heldReads ++ [(a, n)] } else bar2Answer s a n

/-- Reads that waited for first issue. -/
def serveReads (s : State) : State :=
  s.host.heldReads.foldl (fun s e => bar2Answer s e.1 e.2) (updHost s fun h => { h with heldReads := [] })

def execBar2Write (offset : Nat) (data : BarData) (s : State) : Host.Outcome State Fault Refusal :=
  .next (bar2Write s offset data.bytes data.poisoned)
def execBar2WriteRelease (s : State) : Host.Outcome State Fault Refusal := .next (bar2Release s)
def execBar2Read (offset len : Nat) (s : State) : Host.Outcome State Fault Refusal := .next (bar2Read s offset len)

end Sys2Proof.Machine
end

