-- ==== Sys2Proof/Machine/LapMark.lean ====
section
/-! DEFINITION. The lap mark (R46, R61 to R63, R334, R426, R552), lap service (R575), lap-clean words (R66 to R68, R71) and
holdover (R45). -/

namespace Sys2Proof.Machine

/-! ## Stopping the lap's work (R63, R334) -/

/-- Stop a unit whose task has not finished: it becomes idle, its open rows are dropped as END drops them, its halt record
stays. -/
def stopUnit (s : State) (u : Nat) : State :=
  if (getCore s u).task.isNone then s
  else
    let s := vecHeld (tumDrop s u) u
    updCore s u fun c =>
      let h := haltCore c c.seq.haltRec
      { h with seq := { h.seq with st := .idle }, row := none, asm := [], asmOpen := false }

/-- The host address at which a transfer with the host window was cut. -/
def cutAt (s : State) (e : DmaEng) (ch w moved : Nat) : Nat :=
  (if isHost (chPlace s e ch (dDst w)) then dDst w else dSrc w) + moved

/-- A transfer whose writes have not all been accepted at the lap mark ends ABORTED and stops its channel; the slot of a
firmware channel is OVERRUN (R334), and a copy with the host window has failed (R390, R391). -/
def abortMark (s : State) (e : DmaEng) (ch w moved : Nat) : State :=
  let s := freeRegionChan s e ch
  let s := writeEntry s e ch (chHead s e ch) (closeDesc w 4 moved)
  let s := updChan s e ch fun c => { c with desc := none, moved := 0, remote := false, paused := false, waits := false }
  let s := { s with link := { s.link with segs := s.link.segs.filter fun g => !(g.eng == e && g.chan == ch) } }
  let s := setChState s e ch 3
  if (chOwner s e ch).isSome then s
  else noteHostFail (updLap s fun l => { l with failSlots := insNat l.failSlots (chSlot s e ch) }) e ch w (cutAt s e ch w moved)

/-- Whether a fetched descriptor that waits has been admitted: one that the lap's offload bytes had no room for waits for the next lap
(R392). -/
def admitted (s : State) (e : DmaEng) (ch w : Nat) : Bool :=
  !hostXfer s e ch w || (offload s (dLen w) (chPlace s e ch (dSrc w)) (chPlace s e ch (dDst w))).isSome

/-- A channel at the lap mark: a transfer that has not ended, or a fetched one that waits, is cut; a core channel ends with its
task, and a region channel that a block channel's transfer uses ends with that. -/
def dmaMark (e : DmaEng) (s : State) (ch : Nat) : State :=
  if isHandCh e ch then s else
  let x := getChan s e ch
  let core := (chOwner s e ch).isSome
  match x.desc with
  | none =>
    if x.waits && admitted s e ch (readEntry s e ch (chHead s e ch)) then abortMark s e ch (readEntry s e ch (chHead s e ch)) 0
    else if core && chState s e ch != 3 then setChState s e ch 0 else s
  | some w => if core || decide (x.moved < dLen w) then abortMark s e ch w x.moved else s

/-- Every channel of the part. -/
def dmaMarkAll (s : State) : State :=
  let s := s.blocks.foldl (fun s b => b.2.dma.foldl (fun s c => dmaMark (.blk b.1) s c.1) s) s
  s.regions.foldl (fun s r => r.2.dma.foldl (fun s c => dmaMark (.rgn r.1) s c.1) s) s

/-! ## Consumer records become producers (R62, R510) -/

/-- Slots of the lap's tasks that started on a unit. -/
def slotsOn (s : State) (u : Nat) : List Nat := (s.lap.cur.filter fun k => k.unit == u && k.started).map (·.slot)

/-- Writers of a lap-local page: more than eight widen to every writer of the region. -/
def pageProducers (s : State) (p : Nat) : List Nat :=
  let r := getRegion s (p / 2 ^ 21)
  let ws := tabGet [] r.pageWriters (p % 2 ^ 21)
  if 8 < ws.length then r.llWriters else ws

/-- Signallers of a tumbler: more than eight widen to every signaller of its block or region. -/
def tumProducers (s : State) (key : Nat) : List Nat :=
  let unit := key / 4096 % 64
  let region := decide (64 * 4096 ≤ key)
  let x := if region then tabGet tumReset (getRegion s unit).tums (key % 4096) else tabGet tumReset (getBlock s unit).tums (key % 4096)
  if 8 < x.sigs.length then (if region then (getRegion s unit).tumSignallers else (getBlock s unit).tumSignallers) else x.sigs

/-- Slots that a task consumed from in the lap. -/
def producersOf (s : State) (k : LapTask) : List Nat :=
  let ps := k.rdUnits.flatMap (slotsOn s) ++ k.rdBlocks.flatMap (fun b => (getBlock s b).llWriters) ++
    k.rdPages.flatMap (pageProducers s) ++ k.rdTums.flatMap (tumProducers s)
  (ps.filter fun p => p != k.slot).foldl insNat []

/-- The lap's tasks as the mark leaves them: outcome OVERRUN where unfinished, producers known. -/
def closeTasks (s : State) : List LapTask :=
  s.lap.cur.map fun k =>
    let k := { k with prods := producersOf s k }
    if k.finished then k else endTask k 1

/-- Bytes of lap-local lines of 128 bytes go with their written bits, so no later lap sees them (R49, R61). -/
def dropLines (ls : List Nat) (m : Mem) : Mem := m.filter fun c => !hasNat ls (c.1 / 128)

/-- What the lap's units counted beside their finished tasks (R103, R104): the energy of a task cut short, and of the spin of a
unit that waits, are not stated, so they are free values (assumption 84). A task cut short has what its unit gained since its
start; what a unit counted otherwise is its region's. -/
def countRest (s : State) : State :=
  s.lap.cur.foldl (fun t k =>
    let d := drawFree t
    let t := spend d.2 k.unit d.1
    if k.started && !k.finished then
      updTask t k.slot fun q => { q with energyNj := energySum (getCore s k.unit).energy + d.1 - (getCore s k.unit).energySnap }
    else updLap t fun l => { l with spin := tabUpd 0 l.spin (unitRegion k.unit) (· + d.1) }) (updLap s fun l => { l with spin := [] })

/-- Clear what is lap-local: written lines, writers, tumblers, scoreboard, hinge operations (R49, R61, R141, R426); a region's
count of uncorrectable half-lines is that of the lap (R286). -/
def clearLapLocal (s : State) : State :=
  let blk := fun (b : Block) => { b with
    bs := dropLines b.llWritten b.bs, llWritten := [], llWriters := [], tumSignallers := [], tums := [], hingeQ := [], hingeRun := none, hingeSlots := []
    sb := (b.sb.map fun e => (e.1, { e.2 with valid := false, posted := 0, rel := [] })).filter fun e => decide (e.2 ≠ sbReset) }
  let rgn := fun (r : Region) => { r with
    hbm := dropLines r.llWritten r.hbm, llWritten := [], llWriters := [], pageWriters := [], tumSignallers := [], tums := [], ueLap := [] }
  { s with
    blocks := (s.blocks.map fun e => (e.1, blk e.2)).filter fun e => decide (e.2 ≠ blockReset)
    regions := (s.regions.map fun e => (e.1, rgn e.2)).filter fun e => decide (e.2 ≠ regionReset) }

/-! ## Voting and shadows (R12, R14, R15, R552) -/

def spaceOf (i : Nat) : Space :=
  match i with
  | 0 => .host | 1 => .part | 2 => .rgn | 3 => .blk | 4 => .core | 5 => .se | _ => .dzl

def keyLo (k : Nat) : Nat := k % 32
def keyOff (k : Nat) : Nat := k / 32 % 65536
def keySel (k : Nat) : Nat := k / (32 * 65536) % 65536
def keyUnit (k : Nat) : Nat := k / (32 * 65536 * 65536) % 1024
def keySpace (k : Nat) : Nat := k / (32 * 65536 * 65536 * 1024)

/-- The field of a key. -/
def fldOfKey (k : Nat) : Option Fld :=
  (fieldsAt (spaceOf (keySpace k)) (keyOff k)).bind fun l => l.find? fun f => f.lo == keyLo k

/-- Count a correction in the place of R552. -/
def countFix (s : State) (f : Fld) (unit : Nat) : State :=
  match f.space with
  | .part =>
    if f.off / 256 = 1 then fbump s fPART_LAP_STATUS_VOTE_FIXES 0 0 1
    else if f.off / 256 = 2 then fbump s fPART_PACER_STATUS_VOTE_FIXES 0 0 1
    else fbump s fPART_STATUS_VOTE_FIXES 0 0 1
  | .rgn => fbump s fRGN_STATUS_VOTE_FIXES unit 0 1
  | .se => fbump s fRGN_STATUS_VOTE_FIXES (unit / 2) 0 1
  | .dzl => fbump s fRGN_STATUS_VOTE_FIXES unit 0 1
  | .blk => fbump s fBLK_STATUS_VOTE_FIXES unit 0 1
  | _ => s

/-- VOTE_LOST at the owning level (R12, R507). -/
def voteLost (s : State) (f : Fld) (unit sel : Nat) : State :=
  match f.space with
  | .core => errBlock s (unit / 8) (errRecord s 0 1 0x11 unit 0 0 f.off)
  | .blk => errBlock s unit (errRecord s 1 1 0x11 unit 1 0 f.off)
  | .rgn => errRegion s unit (errRecord s 2 2 0x11 unit 2 0 f.off)
  | .se => errRegion s (unit / 2) (errRecord s 3 2 0x11 unit 3 0 f.off)
  | .dzl => errRegion s unit (errRecord s 5 2 0x11 (sel % 32 * 8) 5 0 f.off)
  | _ => errPart s (errRecord s 0xF 3 0x11 0 8 0 f.off)

/-- Vote one field whose copies disagree: an outvoted copy is rewritten; three that differ stay (R12). -/
def voteField (s : State) (k : Nat) (t : Tri) : State :=
  if t.a = t.b ∧ t.b = t.c then s
  else match fldOfKey k with
    | none => s
    | some f =>
      if t.a ≠ t.b ∧ t.b ≠ t.c ∧ t.a ≠ t.c then voteLost (countFix s f (keyUnit k)) f (keyUnit k) (keySel k)
      else countFix (fput s f (keyUnit k) (keySel k) (voteTri t)) f (keyUnit k)

/-- Vote every field in force. -/
def voteAll (s : State) : State := s.flds.foldl (fun s e => voteField s e.1 e.2) s

/-- Count what the vote of a shadow finds: a correction, and a value lost where all three copies differ (R12, R552). -/
def countVote (s : State) (f : Fld) (u sel : Nat) (t : Tri) : State :=
  if t.a = t.b ∧ t.b = t.c then s
  else if t.a ≠ t.b ∧ t.b ≠ t.c ∧ t.a ≠ t.c then voteLost (countFix s f u) f u sel
  else countFix s f u

/-- Apply every pending shadow, by its vote (R552). -/
def applyShadows (s : State) : State :=
  s.shadows.foldl (fun s e => match e.2, fldOfKey e.1 with
    | some t, some f => fput (countVote s f (keyUnit e.1) (keySel e.1) t) f (keyUnit e.1) (keySel e.1) (voteTri t)
    | _, _ => s) { s with shadows := [] }

/-! ## Markers and holdover (R45, R466, R467) -/

def isGrandmaster (s : State) : Bool := s.link.activeGm

/-- A MARKER flit; its residence time is a free value. -/
def markerFlit (s : State) (residence : Nat) : Flit :=
  let g := s.link.gm.getD (selfId s, 0)
  let w := s.lap.num % 2 ^ 48 + periodUs s % 2 ^ 11 * 2 ^ 48 + s.link.depth % 32 * 2 ^ 59 + g.1 % 2 ^ 17 * 2 ^ 64 + g.2 % 16 * 2 ^ 81 +
    residence % 2 ^ 24 * 2 ^ 88
  ⟨4, 0, true, 0, selfId s, 0, 0, 0, 0, padBytes 240 (natLe 14 w)⟩

/-- Markers on every UP port with MARKER_OK, but the upstream and boundary ports (R466); none beyond depth 20 (R469). -/
def sendMarkers (s : State) : State :=
  (rangeFrom 0 (4 * nRegions s)).foldl (fun s p =>
    if portUp s p && pget s fDZL_PORT_CFG_MARKER_OK p == 1 && s.link.upstream != some p && pget s fDZL_PORT_STATUS_BOUNDARY p == 0 then
      let t := drawFree s
      portSend t.2 p 0 [markerFlit s t.1]
    else s) s

/-- Raise class LAP_TIMEBASE (R498, R507). -/
def raiseTimebase (s : State) : State := errPart s (errRecord s 7 3 0x18 0 8 0 0)

/-- Set DEPTH_EXCEEDED and report it (R469, R498). -/
def depthExceeded (s : State) : State :=
  if fget s fPART_LAP_BACKUP_DEPTH_EXCEEDED 0 0 = 1 then s else raiseTimebase (fput s fPART_LAP_BACKUP_DEPTH_EXCEEDED 0 0 1)

/-- The upstream after a lap: it changes only where the one in force gave no valid marker (R467); where the only
markers came from too deep, the part's depth passes 20 (R469). -/
def chooseUpstream (s : State) : State :=
  let l := s.link
  let best := l.marks.foldl (fun (b : Option MarkCand) m => match b with
    | none => some m
    | some x => if m.depth < x.depth ∨ (m.depth = x.depth ∧ m.port < x.port) then some m else some x) none
  let kept := l.marks.find? fun m => l.upstream == some m.port
  match kept.or best with
  | some m => { s with link := { l with upstream := some m.port, depth := m.depth + 1, gm := some (m.gmId, m.gmRank), marks := [], deep := false } }
  | none =>
    let s := { s with link := { l with marks := [], deep := false } }
    if l.deep then depthExceeded s else s

/-- Holdover of a part that follows markers, at its mark (R45). -/
def countHoldover (s : State) : State :=
  if isGrandmaster s then s
  else if s.link.marks.isEmpty then
    let s' := updLap s fun l => { l with holdover := l.holdover + 1 }
    if s.lap.holdover = 0 then raiseTimebase s' else s'
  else updLap s fun l => { l with holdover := 0 }

/-! ## Words owed (R66, R73, R94) -/

def sameDomain (s : State) (p : Nat) : Bool := domainOf p == domainOf (selfId s)

/-- Parts that a lap-clean word of the ended lap goes to. -/
def wordsOwed (s : State) : List Nat :=
  if 16 < s.lap.holdover then []
  else
    let ds := (s.lap.deciding.flatMap fun k => k.xout.map (·.1)) ++ s.lap.fwDeciding.map (·.1) ++ s.lap.withdrawnDeciding.map (·.1)
    (ds.filter fun p => sameDomain s p && p != selfId s).foldl insNat []

/-! ## Lap service (R53, R284, R575) -/

/-- Frames of a stack from a low bound up that the pool cannot take: listed and not FREE, or system frames. -/
def notFree (s : State) (r : Nat) (stackB : Bool) (low : Nat) : Nat :=
  let x := getRegion s r
  let mine := x.frameSt.filter fun e => decide ((2 ^ 20 ≤ e.1) = (stackB = true)) && decide (low ≤ e.1 % 2 ^ 20 ∧ e.1 % 2 ^ 20 < parityFrame)
  (mine.filter fun e => decide (e.2 ≠ some 0)).length + (sysAbove s r stackB low - (mine.filter fun e => sysHolds s r e.1).length)

/-- Lower the bound until the range holds the stack's half of the pool. -/
def lowBound (s : State) (r : Nat) (stackB : Bool) : Nat → Nat → Nat
  | 0, low => low
  | n + 1, low =>
    let want := parityFrame - poolHalf s r - notFree s r stackB low
    if want < low then lowBound s r stackB n want else low

/-- Form a region's pool: the highest FREE frames of each stack (DESIGN CHOICE, assumption 21). -/
def formPool (s : State) (r : Nat) : State :=
  let s := (getRegion s r).foldQ.foldl (fun s p => foldPage s r p) s
  let s := updRegion s r fun x => { x with
    poolLowA := 0, poolLowB := 0
    frameSt := (x.frameSt.map fun e => if e.2 = some 1 ∧ hasNat x.retained e.1 = false then (e.1, some 0) else e) }
  let n := (getRegion s r).frameSt.length + 4
  let a := lowBound s r false n (parityFrame - poolHalf s r)
  let b := lowBound s r true n (parityFrame - poolHalf s r)
  updRegion s r fun x => { x with
    poolLowA := a, poolLowB := b
    frameSt := (x.frameSt.filter fun e =>
      !(decide (e.2 = some 0) && decide ((if e.1 < 2 ^ 20 then a else b) ≤ e.1 % 2 ^ 20 ∧ e.1 % 2 ^ 20 < parityFrame))) }

/-- Whether the part waits to enter lap service (R575). -/
def awaitsService (s : State) : Bool := !inService s && fget s fPART_BOOT_CTRL_SERVICE 0 0 == 1

/-- Whether the part takes the grandmaster's role when it enters service (R42). -/
def isMaster (s : State) : Bool := fget s fPART_LAP_CFG_GRANDMASTER 0 0 == 1 && !s.link.stoodDown

/-- Lap number that PART_BOOT_LAP0 gives. -/
def bootLap (s : State) : Nat := fget s fPART_BOOT_LAP0_HI_LAP_HI 0 0 * 2 ^ 32 + fget s fPART_BOOT_LAP0_LO_LAP_LO 0 0

/-- What every lap mark starts: markers go out and the doorbell array is read. -/
def openMark (s : State) : State := doorbellRead (sendMarkers s)

/-- Regions that a reset has cleared return after a system rollback (R519), each with a control core that works (R27). -/
def readmit (s : State) : State :=
  (rangeFrom 0 (nRegions s)).foldl (fun s r =>
    let x := getRegion s r
    if x.readmit && x.rolledBack && decide (x.ctlFailed ≠ 15) then
      formPool (updRegion s r fun x => { x with deadbolted := false, readmit := false, rolledBack := false }) r
    else s) s

/-- The first lap mark: the part enters lap service with a lap number (R575), with the plan of a plan point before it. A shadow
(R15) that was pending when service last ended applies here, over what was written out of service since: the manual does not
say what becomes of it (DESIGN CHOICE, assumption 95). -/
def enterService (s : State) (lap : Nat) : State :=
  let s := readmit ((rangeFrom 0 (nRegions s)).foldl (fun s r => if regionAlive s r then formPool s r else s) s)
  let s := applyShadows (voteAll (clearLapLocal s))
  let s := updLap s fun l => { l with num := lap, phase := .marked, cur := [], deciding := [], planned := false, first := true, stopping := false, holdover := 0, offOut := 0, offIn := 0 }
  openMark { s with pacer := { s.pacer with pace := s.pins.paceReq % 4, shed := !s.pins.shedN } }

/-! ## LAP_MARK -/

/-- Stop every unit that still has a task. -/
def stopAll (s : State) : State := s.cores.foldl (fun s c => stopUnit s c.1) s

/-- Active time of the tasks that have not finished: to the halt, the deadbolt or the mark that ended them. No command gives it, so it is
a free value (R401; DESIGN CHOICE, assumption 84). -/
def timeRest (s : State) : State :=
  (s.lap.cur.filter fun k => k.started && !k.finished).foldl (fun s k =>
    let d := drawFree s
    updTask d.2 k.slot fun q => { q with activeNs := d.1 }) s

/-- The lap's work stops: transfers, then tasks, whose energies and outcomes are noted, then units. -/
def stopWork (s : State) : State :=
  let s := timeRest (countRest (dmaMarkAll s))
  stopAll (updLap s fun l => { l with cur := closeTasks s })

/-- The tasks of the lap become those that its commit point decides, and the next lap counts. -/
def turnLap (s : State) : State :=
  updLap s fun l => { l with
    deciding := l.cur, cur := [], failDeciding := l.failSlots, failSlots := [], fwDeciding := l.fwOut, fwOut := []
    withdrawnDeciding := l.withdrawn, withdrawn := [], joinedDeciding := l.joined, joined := [], num := (l.num + 1) % 2 ^ 48, phase := .marked, planned := false, first := false }

/-- The lap ends: the recorder closes it, unfinished tasks are overruns, lap-local state is cleared. -/
def endLap (s : State) : State := turnLap (clearLapLocal (trkPost (stopWork (trkClose s))))

/-- What the new lap's mark applies: votes, shadows, pins, the resend window, holdover, the manager (R12, R28, R45, R74, R98). -/
def startLap (s : State) : State :=
  let s := coverStarts (voteAll s) (applyShadows (voteAll s))
  let s := readmit (elect s)
  let s := { s with pacer := { s.pacer with pace := s.pins.paceReq % 4, shed := !s.pins.shedN } }
  let keep := fun (x : Region) => { x with resend := x.resend.filter (fun p => decide (s.lap.num ≤ p.lap + 2)) }
  let rs := s.regions.map fun e => (e.1, keep e.2)
  let s := { s with regions := rs.filter fun e => decide (e.2 ≠ regionReset) }
  let s := chooseUpstream (countHoldover s)
  let n := s.lap.num
  let s := { s with link := { s.link with
    offersIn := s.link.offersIn.filter (fun o => decide (n ≤ o.2.1 + 1)), offersOut := s.link.offersOut.filter (fun o => decide (n ≤ o.2.1 + 1))
    markAdjust := 0, edgeMisses := if s.link.edgeTaken then 0 else s.link.edgeMisses + 1, edgeTaken := false } }
  let s := fput (fput s fPART_OFFLOAD_STATUS_OUT_LAST 0 0 (ceilDiv s.lap.offOut (2 ^ 20))) fPART_OFFLOAD_STATUS_IN_LAST 0 0 (ceilDiv s.lap.offIn (2 ^ 20))
  let s := updLap s fun l => { l with
    offOut := 0, offIn := 0, votes := l.votes.filter (fun v => decide (n ≤ v.lap + 1)), stopping := fget s fPART_BOOT_CTRL_SERVICE 0 0 == 0 }
  openMark (updLap s fun l => { l with owed := wordsOwed s })

/-- LAP_MARK (R46): enabled from first issue to the end of the lap. -/
def lapMark (s : State) : State := if s.lap.phase = .issuing then startLap (endLap s) else s

/-- DOORBELL_POLL (R489): every 10 µs while the part is not in lap service. -/
def execDoorbellPoll (s : State) : Host.Outcome State Fault Refusal := .next (if inService s then s else doorbellRead s)

/-! ## Lap-clean words (R66 to R68, R71) -/

/-- Deciding tasks that a set of slots depends on, as far as a task that has failed already. -/
def upstreamSlots (ts : List LapTask) : Nat → List Nat → List Nat
  | 0, l => l
  | n + 1, l =>
    let more := (ts.filter fun k => hasNat l k.slot && k.outcome.isNone).flatMap (·.prods)
    let l' := more.foldl insNat l
    if l' = l then l else upstreamSlots ts n l'

/-- Whether every vote that a word to a part depends on has arrived (R68). -/
def votesIn (s : State) (dst : Nat) : Bool :=
  let ts := s.lap.deciding
  let mine := ((ts.filter fun k => k.xout.any fun x => x.1 == dst).map (·.slot)).foldl insNat []
  let up := upstreamSlots ts ts.length mine
  ts.all fun k => !hasNat up k.slot || k.outcome.isSome || k.xin.all fun e => (voteOf s e.1).isSome

/-- Exchange IDs to a part that did not come from a committing task. -/
def uncleanIds (s : State) (dst : Nat) : List Nat :=
  let ts := decideTasks s
  let conf := conflicts s
  let n := lap16 s
  let a := (ts.filter fun k => k.outcome != some 0).flatMap fun k => (k.xout.filter fun x => x.1 == dst).map (·.2)
  let b := (s.lap.fwDeciding.filter fun x => x.1 == dst &&
    (hasNat s.lap.failDeciding x.2.2 || (x.2.2 != 0x3FFF && conf.any fun c => c.1 == x.2.2 && c.2 == n))).map (·.2.1)
  let c := (s.lap.withdrawnDeciding.filter fun x => x.1 == dst).map (·.2)
  (a ++ b ++ c).foldl insNat []

/-- A word in the layout of R67: at most eight IDs. -/
def voteWord (s : State) (dst : Nat) (clean overflow : Bool) (ids : List Nat) : BitVec 256 :=
  let l := ids.take 8
  let idw := ((rangeFrom 0 8).zip l).foldl (fun a e => a + e.2 % 65536 * 2 ^ (96 + 16 * e.1)) 0
  sealRec (lapN s % 2 ^ 48 + selfId s % 2 ^ 17 * 2 ^ 48 + dst % 2 ^ 17 * 2 ^ 65 + b2n clean * 2 ^ 82 + b2n overflow * 2 ^ 83 + l.length * 2 ^ 84 + idw)

/-- The lap-clean word to a part, before or after the commit point. -/
def cleanWord (s : State) (dst : Nat) : BitVec 256 :=
  if s.lap.phase = .marked then
    let ids := uncleanIds s dst
    voteWord s dst ids.isEmpty (decide (8 < ids.length)) ids
  else voteWord s dst false true []

/-- LAP_CLEAN_SEND (R68): a word owed goes once the votes it depends on are in, or the commit point has passed. -/
def lapCleanSend (s : State) (dst : Nat) : State :=
  let ready := inService s && hasNat s.lap.owed dst && (s.lap.phase != .marked || votesIn s dst)
  if ready then
    sendControl (updLap s fun l => { l with owed := l.owed.filter fun p => p != dst }) dst 1 (cleanWord s dst)
  else s

def execLapCleanSend (dst : Nat) (s : State) : Host.Outcome State Fault Refusal := .next (lapCleanSend s dst)

/-- Fields of a word of R67. -/
def voteOfWord (w : Nat) : Vote :=
  ⟨nbits w 48 17, nbits w 0 48, nbit w 82, nbit w 83, (rangeFrom 0 (min 8 (nbits w 84 4))).map fun i => nbits w (96 + 16 * i) 16⟩

/-- Whether a control record's CHECK holds and it names this part. -/
def recordOk (s : State) (w : BitVec 256) : Bool := crcOk 32 w.toNat && nbits w.toNat 65 17 == selfId s

/-- Record a control record that has arrived, with its type (R538; the type's place is a DESIGN CHOICE, assumption 134). -/
def trkControl (s : State) (type : Nat) (w : BitVec 256) : State :=
  trkInput s 4 (managerRegion s) (nbits w.toNat 48 17) (natLe 32 w.toNat ++ natLe 1 type)

/-- A late word that names exchanges unclean: their consumers wait for fresh offers in place of a resend (R75). One with OVERFLOW is
what every word sent late says (R68): it changes nothing, and the replay uses the window (R71). -/
def lateUnclean (s : State) (v : Vote) : State :=
  let bad := fun (e : Nat × Nat × Nat) => e.1 == v.src && e.2.2 == v.lap && !v.clean && !v.overflow && hasNat v.ids e.2.1
  let fix := fun (x : GTask) => if x.resent.any bad then
    { x with resent := x.resent.filter (fun e => !bad e), notBefore := max x.notBefore (v.lap + 2) } else x
  { s with graphs := s.graphs.map fun g => { g with st := g.st.map fun e => (e.1, fix e.2) } }

/-- LAP_CLEAN (R67, R69, R71): a word that comes late is counted and recorded. -/
def lapClean (s : State) (w : BitVec 256) : State :=
  let v := voteOfWord w.toNat
  let s := trkControl s 1 w
  if !inService s || !recordOk s w || v.lap != lapN s then s
  else if s.lap.phase = .marked then
    if s.lap.votes.any (fun x => x.src == v.src && x.lap == v.lap) then s else updLap s fun l => { l with votes := l.votes ++ [v] }
  else lateUnclean (updLap (fbump s fPART_LAP_STATUS_LATE_VOTES 0 0 1) fun l => { l with late := l.late ++ [v] }) v

def execLapClean (w : BitVec 256) (s : State) : Host.Outcome State Fault Refusal := .next (lapClean s w)

/-! ## HOLDOVER_LIMIT (R45) -/

/-- Whether a task takes part in an exchange between parts. -/
def exchanges (k : LapTask) : Bool := k.bufs.any fun b => b.scope == 3

/-- From the 17th lap of holdover no lap-clean word is sent and no exchanging task starts. -/
def holdoverLimit (s : State) : State :=
  if s.lap.holdover ≤ 16 then s
  else updLap s fun l => { l with
    owed := [], cur := l.cur.filter (fun k => !(exchanges k && !k.started)), plan := l.plan.filter fun k => !exchanges k }

def execHoldoverLimit (s : State) : Host.Outcome State Fault Refusal := .next (holdoverLimit s)

end Sys2Proof.Machine
end

