-- ==== Sys2Proof/Machine/LapPlan.lean ====
section
/-! DEFINITION. The plan point (R95 to R106, R109, R606), the commit point with step 6 (R46, R69, R72, R92, R99), and first
issue (R46, R94, R370). -/

namespace Sys2Proof.Machine

/-! ## Budgets (R97 to R101) -/

/-- A power limit over the lap period, in nJ. -/
def lapEnergy (s : State) (watts : Nat) : Rat := (watts * periodUs s * 1000 : Nat)

/-- Leakage of every region present, in nJ (R606). -/
def leaksOf (s : State) : List Rat := (rangeFrom 0 (nRegions s)).map (leakOf s)

/-- E_budget under a factor in percent, and at the peak limit (R97, R100). -/
def budgetOf (s : State) (f : Nat) (leak : Rat) : Rat := (f : Rat) / 100 * lapEnergy s (sustainedW s) - leak
def peakBudget (s : State) (leak : Rat) : Rat := lapEnergy s (peakW s) - leak

/-- Nonnegative whole nJ of an energy. -/
def natNj (x : Rat) : Nat := x.floor.toNat

/-- Whether the lap may be a peak lap, apart from need (R100). -/
def peakOk (s : State) (f : Nat) : Bool :=
  f == 100 && fget s fPART_PACER_CFG_PEAK_ENABLE 0 0 == 1 && !s.pacer.peaks.any (fun b => b)

/-- Filler floor (R106): the previous lap's plan less SLEW_PCT percent of L_s x P. -/
def fillFloor (s : State) : Rat :=
  (s.pacer.prevPlannedNj : Nat) - (fget s fPART_PACER_CFG_SLEW_PCT 0 0 : Nat) / 100 * lapEnergy s (sustainedW s)

/-- Every core of the part, for the filler. -/
def allCores (s : State) : List Nat := (rangeFrom 0 (nRegions s)).flatMap fun r => if regionAlive s r then regionCores r else []

/-! ## Making a plan (R105, R106) -/

/-- A finished plan: its tasks, what the budget leaves, the budget, whether it is a peak lap, tasks of mandatory items that
did not fit. -/
structure Made where
  tasks : List LapTask
  left : Rat
  budget : Rat
  peak : Bool
  deferred : List Item

/-- Rendezvous keys of items. -/
def keysIn (its : List Item) : List Nat :=
  ((its.flatMap fun it => it.tasks.filterMap fun i => (taskOf it.graph i).map (·.rvKey)).filter fun k => k != 0).foldl insNat []

/-- Admit items so that the tasks of a rendezvous key enter together or not at all (R94): where one item of a key is left out,
the items of that key wait, and the rest is admitted anew. -/
def admitWhole (s : State) (late : Bool) (caps : List Rat) (left : Rat) : Nat → List Item → List Item → Plan × List Item
  | 0, its, out =>
    let r := admitAll s caps its ⟨late, [], left, 0⟩ []
    (r.1, out ++ r.2)
  | n + 1, its, out =>
    let r := admitAll s caps its ⟨late, [], left, 0⟩ []
    let bad := keysIn r.2
    let has := fun (it : Item) => (keysIn [it]).any (hasNat bad)
    if (its.filter has).length ≤ (r.2.filter has).length then (r.1, out ++ r.2)
    else admitWhole s late caps left n (its.filter fun it => !has it) (out ++ its.filter has)

/-- More energy than a lap can take, in nJ: under it only units, caps and memory bound a plan. -/
def unbounded : Rat := (2 ^ 200 : Nat)

/-- Admit mandatory items, at the peak limit where R100 allows it: where their energy does not fit the sustained budget. -/
def admitMandatory (s : State) (late : Bool) (f : Nat) (leak : Rat) (caps : List Rat) (man : List Item) : Made :=
  let b := budgetOf s f leak
  let whole := fun (left : Rat) => admitWhole s late caps left man.length man []
  if peakOk s f && decide (b < unbounded - (whole unbounded).1.left) then
    let r := whole (peakBudget s leak)
    ⟨r.1.tasks, r.1.left, peakBudget s leak, true, r.2⟩
  else
    let r := whole b
    ⟨r.1.tasks, r.1.left, b, false, r.2⟩

/-- Admit further items and then filler. -/
def admitRest (s : State) (late : Bool) (caps : List Rat) (m : Made) (rest : List Item) : Made :=
  let r := admitAll s caps rest ⟨late, m.tasks, m.left, m.tasks.length⟩ []
  let p := fillSpin s caps (fillFloor s) m.budget (allCores s) r.1
  { m with tasks := p.tasks, left := p.left }

/-- Mandatory work: replays, re-placed overruns, agreed rendezvous (R105). -/
def isMandatory (it : Item) : Bool := decide (it.rank ≤ 1)

/-- The tasks of items: graph and task. -/
def tasksIn (its : List Item) : List (Nat × Nat) := its.flatMap fun it => it.tasks.map fun i => (it.graph.id, i)

/-- Tasks of a recorded lap, on their recorded units and in recorded order, filler included (R109); firmware refuses a core that
lacks a unit of the CAP_MASK there too (R4). -/
def benchPlan (s : State) (lap : Nat) (late : Bool) : List LapTask :=
  let w := tabGet 0 s.trk.benchLog lap
  ((rangeFrom 0 (nbits w 192 16)).foldl (fun (l : List LapTask) i =>
    let e := nbits w (512 + 128 * i) 128
    let u := if nbit e 57 then 512 + nbits e 48 9 else nbits e 48 9
    if entryFills s e then l ++ [filler s l.length u]
    else match getGraph s (nbits e 0 32) with
    | none => l
    | some g => match taskOf g (nbits e 32 16) with
      | none => l
      | some d =>
        if d.kind = 0 ∧ Nat.land d.capMask (capUnits s u) ≠ d.capMask then l
        else
          let k := placed g d l.length u (specTask s late g d)
          l ++ [{ k with xin := exchangesIn s (gst g d.index) k }]) [])

/-! ## PLAN_POINT -/

/-- Whether some live core of the graph's regions has every unit of a CAP_MASK. -/
def capFits (s : State) (g : Graph) (mask : Nat) : Bool :=
  (rangeFrom 0 (nRegions s)).any fun r => regionAlive s r && (g.regionMask == 0 || nbit g.regionMask r) &&
    (regionCores r).any fun u => corePresent s u && !isCut s 0 u && Nat.land mask (capUnits s u) == mask

/-- Tasks that wait for a unit: CAP_WAITING for a core task whose CAP_MASK fits no live core, SE_LOST for a stack-engine
task whose engine is gone and whose estimate fits no covering engine, until the last of its pages is re-homed (R113's corner cases,
R362). -/
def waitEvents (s : State) (un : List (Nat × Nat)) (lap : Nat) (g : Graph) : State :=
  if g.stopped || g.stopAsked || !g.resolved then s
  else g.tasks.foldl (fun s d =>
    if !taskReady s un true lap g d.index then s
    else if d.kind = 0 then (if capFits s g d.capMask then s else postEvent s g.evtRing 0x05 0 g.id d.index 0)
    else match homeEngine s d with
      | none => s
      | some e =>
        if engineLost s e d || (engineLost s (sibling e) d && !(strayPages s e d (bufsOf g d.index)).isEmpty) then postEvent s g.evtRing 0x06 0 g.id d.index 0 else s) s

/-- BUDGET_SHORT for deferred mandatory tasks (R105, R507): the plan point counts them, and step 6 those that it defers
beside them (R112). -/
def noteShort (s : State) (l : List (Nat × Nat)) (planPoint : Bool) : State :=
  let on := s.pacer.shortOn
  let fresh := if planPoint then l else l.filter fun e => !s.pacer.deferred.any fun x => x == e
  let s := if planPoint ∨ !l.isEmpty then { s with pacer := { s.pacer with shortOn := !l.isEmpty } } else s
  let s := if planPoint then { s with pacer := { s.pacer with deferred := l } } else s
  if l.isEmpty then s
  else
    let s := fbump (fput s fPART_PACER_STATUS_BUDGET_SHORT 0 0 1) fPART_PACER_STATUS_DEFERRED 0 0 fresh.length
    if on then s else errPart s (errRecord s 9 3 0x1C 0 8 0 l.length)

/-- THERMAL for regions whose cap has fallen below 10% of their even share (R498, R507). -/
def noteThermal (s : State) (caps : List Rat) : State :=
  let share := lapEnergy s (sustainedW s) / (nRegions s : Nat) / 10
  let low := (rangeFrom 0 (nRegions s)).filter fun r => decide (caps.getD r 0 < share)
  let s' := low.foldl (fun t r => if hasNat s.pacer.thermOn r then t else errPart t (errRecord t 8 3 0x19 0 8 0 (natNj (caps.getD r 0) / 1000))) s
  { s' with pacer := { s'.pacer with thermOn := low } }

/-- Whether a plan point may come: from first issue to the lap's end, and before the first lap mark of a grandmaster that
waits for it, whose lap number it knows (R95, R575: DEDUCED, assumption 24). -/
def planDue (s : State) : Bool := decide (s.lap.phase = .issuing) || (awaitsService s && isMaster s)

/-- The lap that a plan point plans. -/
def plannedLap (s : State) : Nat := if inService s then s.lap.num + 1 else bootLap s

/-- The plan that the pacer makes of a lap (R99, R105): mandatory work first, then the rest in order; and how much
mandatory work it puts off. -/
def madeAt (s : State) (lap f : Nat) (leak : Rat) (caps : List Rat) : Made × List (Nat × Nat) :=
  let its := sortBy itemLe (s.graphs.flatMap (itemsOf s (unrelayed s) true lap))
  let m := admitMandatory s false f leak caps (its.filter isMandatory)
  (admitRest s false caps m (its.filter fun it => !isMandatory it), tasksIn m.deferred)

/-- A table of energies by region. -/
def njTab (l : List Rat) : Tab Nat := ((rangeFrom 0 l.length).zip l).foldl (fun t e => tabSet 0 t e.1 (natNj e.2)) []

/-- What a plan is charged, over every region (R104, R107). -/
def planCharge (s : State) (ts : List LapTask) : Rat := ((rangeFrom 0 (nRegions s)).map (regionCharge s ts)).sum

/-- Energy of a plan as the lap log gives it: a bench lap's is that of the recorded tasks (R107, R109). -/
def plannedNj (s : State) (m : Made) (tasks : List LapTask) : Nat :=
  natNj (if fget s fPART_TRK_CFG_BENCH 0 0 = 1 then planCharge s tasks else m.budget - m.left)

/-- Keep a plan. Its E_leak(r) is what R606's P_meas takes at the next plan point for that of the previous lap: the manual does
not say which computation of E_leak(r) is the previous lap's (DESIGN CHOICE, assumption 91). -/
def keepPlan (s : State) (f : Nat) (leaks caps : List Rat) (m : Made) (tasks : List LapTask) : State :=
  { s with
    lap := { s.lap with plan := tasks, planned := true }
    pacer := { s.pacer with
      f := f, leakNj := natNj leaks.sum, leakPrevNj := njTab leaks, capNj := njTab caps, budgetNj := natNj m.budget,
      planPeak := m.peak, plannedNj := plannedNj s m tasks } }

/-- Plan a lap. -/
def planLap (s : State) (lap f : Nat) (leaks caps : List Rat) : State :=
  let un := unrelayed s
  let s := noteThermal (s.graphs.foldl (fun s g => waitEvents s un lap g) s) caps
  let m := madeAt s lap f leaks.sum caps
  keepPlan (noteShort s m.2 true) f leaks caps m.1 (if fget s fPART_TRK_CFG_BENCH 0 0 = 1 then benchPlan s lap false else m.1.tasks)

/-- PLAN_POINT (R95): once for each lap. The manager's mirror keeps the pacer as it stood before (R28). -/
def planPoint (s : State) : State :=
  if planDue s = false ∨ s.lap.planned = true ∨ s.part.manager.isNone = true then s
  else planLap (updPart s fun p => { p with mirror := s.pacer }) (plannedLap s) (factorOf s.pins.paceReq s.pins.shedN) (leaksOf s) ((rangeFrom 0 (nRegions s)).map (capOf s))

def execPlanPoint (s : State) : Host.Outcome State Fault Refusal := .next (planPoint s)

/-! ## The commit point: partners and confirmations (R72, R73, R473) -/

/-- Parts whose exchanges the deciding tasks consumed. -/
def sourcesOf (s : State) : List Nat := (s.lap.deciding.flatMap fun k => k.xin.map (·.1)).foldl insNat []

/-- Senders whose lap-clean word the deciding lap needs: those, and those of held transfers of the domain (R66). -/
def votersOf (s : State) : List Nat :=
  ((s.link.rx.filter fun r => !r.cross && r.lap == lapN s).map (·.src)).foldl insNat (sourcesOf s)

/-- Count missing votes; a partner whose votes are missing in two consecutive laps is lost (R72). -/
def missVotes (s : State) : State :=
  let miss := (votersOf s).filter fun p => (voteOf s p).isNone
  let cnt := miss.foldl (fun t p => tabSet 0 t p (tabGet 0 s.lap.missed p + 1)) ([] : Tab Nat)
  let s := updLap s fun l => { l with missed := cnt }
  cnt.foldl (fun s e => if 2 ≤ e.2 then partnerLost s e.1 else s) s

/-- Parts of other domains that held transfers of the deciding lap went to. -/
def confirmTo (s : State) : List Nat :=
  (((s.lap.deciding.flatMap fun k => k.xout.map (·.1)) ++ s.lap.fwDeciding.map (·.1)).filter fun p => !sameDomain s p).foldl insNat []

/-! ## The commit point: held memory -/

/-- Pages of a region that a waiting stack-engine task needs in a stack, with the stack: its own, whose pages a core's write has
moved (R354), or the sibling's, into which the part manager re-homes them when the engine is lost (R362). -/
def homePages (s : State) (r : Nat) (d : TaskDesc) (bufs : List BufDecl) : List (Nat × Bool) :=
  match homeEngine s d with
  | some e =>
    let home := if engineLost s e d && !(getCore s (512 + sibling e)).deadbolted then sibling e else e
    if e / 2 = r then ((strayPages s home d bufs).filter fun p => p.1 == r).map fun p => (p.2, decide (home % 2 = 1)) else []
  | none => []

/-- Retire worn frames and copy pages of waiting stack-engine tasks into the stack where they run, at most 16 frames in a region with
those that the lap has retired at their release (R288, R354, R362; the limit of a re-homing is a DESIGN CHOICE, assumption 110). -/
def movePages (s : State) (r : Nat) : State :=
  let worn := wornPages s r
  let stray := s.graphs.flatMap fun g =>
    if g.stopped || g.stopAsked || !g.resolved then []
    else g.tasks.flatMap fun d =>
      if d.kind = 1 ∧ taskReady s [] false s.lap.num g d.index = true then homePages s r d (bufsOf g d.index) else []
  let room := 16 - (getRegion s r).retiredLap
  let s := (worn.take room).foldl (fun s p => movePage s r p (decide (2 ^ 20 ≤ (pteOf (getRegion s r) p).frame)) true) s
  let once := stray.foldl (fun (l : List (Nat × Bool)) e => if l.any (fun x => x.1 == e.1) then l else l ++ [e]) []
  (once.take (room - worn.length)).foldl (fun s e => movePage s r e.1 e.2 false) s

/-- Everything that a commit point makes visible at one instant (R56, R59, R264, R280, R302). -/
def commitMemory (s : State) (ts : List LapTask) (fs : List (Nat × Nat × Bool)) : State :=
  let rs := rangeFrom 0 (nRegions s)
  let s := sendOutcomes s fs
  let s := rs.foldl commitPages s
  let s := s.blocks.foldl (fun s b => commitShadow s b.1) s
  let s := ts.foldl (fun s k => if k.outcome = some 0 then k.streams.foldl (fun s n => putStream s n.1 (lapN s) n.2) s else s) s
  let s := rs.foldl commitPt s
  let s := rs.foldl (commitIndStreams ts) s
  let n := lapN s
  let s := { s with link := { s.link with rx := s.link.rx.filter fun r => if r.cross then r.verdict.isNone else r.lap != n } }
  rs.foldl movePages (commitOwn s)

/-! ## The commit point: records -/

/-- Digest-log entry of the lap, and the bench comparison (R540, R541, R544). -/
def digestLap (s : State) (log state : Bytes) : State :=
  let n := lapN s
  let e := digestEntry s n state log
  let s := trkWhole { s with digests := tabSet 0 s.digests (n % 65536) e } n
  let rec' := tabGet 0 s.trk.benchDigest n
  if fget s fPART_TRK_CFG_BENCH 0 0 = 1 ∧ rec' ≠ 0 ∧ nbits rec' 320 512 ≠ nbits e 320 512 then
    let s := setTrkState s 6
    let s := fput (fput s fPART_TRK_DIVERGED_LO_LAP_LO 0 0 (n % 2 ^ 32)) fPART_TRK_DIVERGED_HI_LAP_HI 0 0 (n / 2 ^ 32)
    updLap s fun l => { l with stopping := true }
  else s

/-- Completion records of the lap: placements in admission order, then members and skipped tasks (R493, R494). -/
def lapCpls (s : State) (d : Dec) : List (Nat × Nat) :=
  let ring := fun (gid : Nat) => ((getGraph s gid).map (·.cplRing)).getD 0
  ((d.ts.filter fun k => !k.filler && !k.noCpl && (getGraph s k.graph).isSome).map fun k =>
    (ring k.graph, cplWord k.graph k (k.outcome.getD 0) (isFinal s k.graph k.desc.index) (lapN s) false)) ++
  ((d.cpls.filter fun c => !c.2.1.noCpl && (getGraph s c.1).isSome).map fun c => (ring c.1, cplWord c.1 c.2.1 c.2.2.1 c.2.2.2 (lapN s) (c.2.2.1 == 0x0A)))

/-- Energy of the deciding lap by region: its tasks', and what its units counted beside them (R103, R606). -/
def measureLap (s : State) (ts : List LapTask) : State :=
  updLap s fun l => { l with measured := ts.foldl (fun t k => tabUpd 0 t (unitRegion k.unit) fun n => n + k.energyNj) l.spin }

/-- What the part manager writes of the lap: lap log, ledger, digest log. The first commit point of lap service ends no lap. -/
def lapRecords (s : State) (ts : List LapTask) (state : Bytes) : State :=
  if s.part.manager.isNone || s.lap.first then s
  else
    let log := logRecord s ts
    let s := trkInput (writeLog s log) 7 (managerRegion s) 0 log
    digestLap (ledgerLap s ts) log state

/-! ## Step 6 (R46, R92, R94, R99, R512) -/

/-- Clear the halts of the lap's halted tasks; an engine after a class H halt is reset (R147, R358). -/
def clearHalts (s : State) (ts : List LapTask) : State :=
  ts.foldl (fun s k =>
    if k.haltRec = 0 then s
    else if isSE k.unit && classH (nbits k.haltRec 16 8) then engineReset s (k.unit - 512)
    else haltClear s k.unit) s

/-- Exchanges of a task with each peer, as peer and exchange ID. -/
def exchangeIds (s : State) (k : LapTask) : List (Nat × Nat) :=
  (k.bufs.filter fun b => b.scope == 3).map fun b =>
    (b.peer, (if b.dir = 1 then Config.exchangeId k.desc.rvKey b.slot b.peer (selfId s)
      else Config.exchangeId k.desc.rvKey b.slot (selfId s) b.peer) % 65536)

/-- A planned rendezvous that is withdrawn: its exchanges go unclean to its peers, and its key is offered again (R94). -/
def withdrawRv (s : State) (k : LapTask) : State :=
  if k.desc.rvKey = 0 then s
  else
    let s := updLap s fun l => { l with withdrawn := l.withdrawn ++ exchangeIds s k }
    updGst s k.graph k.desc.index fun x => { x with mandatory := 2, notBefore := s.lap.num + 1 }

/-- Drop planned tasks from the end until the plan's charge fits a budget (R99); the items dropped with it. -/
def dropTail (s : State) (caps : List Rat) : List Item → Plan → Plan × List Item
  | [], p => (p, [])
  | it :: t, p =>
    let r := admitItem s caps p it
    if r.2 then dropTail s caps t r.1 else (p, it :: t)

/-- A plan that falling pace has cut: mandatory work, then the rest from its head. A key of which one item is dropped is withdrawn
whole (R94, R99). -/
def cutPlan (s : State) (caps : List Rat) (made : List Item → Made) : Nat → List Item → List Item → Made
  | 0, head, _ => made head
  | n + 1, head, rest =>
    let m := made head
    let p := dropTail s caps rest ⟨true, m.tasks, m.left, m.tasks.length⟩
    let bad := keysIn p.2
    let keeps := fun (it : Item) => !(keysIn [it]).any (hasNat bad)
    if (head ++ rest.take (rest.length - p.2.length)).all keeps then { m with tasks := p.1.tasks, left := p.1.left }
    else cutPlan s caps made n (head.filter keeps) (rest.filter keeps)

/-- Place lap n + 1 again at step 6; the placed tasks of a graph asked to stop stay (R491): replay work at its head, then what of
the old plan still stands with the last members of epochs confirmed just now, in the order of R105. The tasks that stay are
placed anew, so their units may change: the manual does not say that they keep them (DESIGN CHOICE, assumption 92). -/
def replan (s : State) : State :=
  let lap := s.lap.num
  let old := s.lap.plan
  let fMark := factorOf s.pacer.pace (!s.pacer.shed)
  let f := min s.pacer.f fMark
  let leak : Rat := (s.pacer.leakNj : Nat)
  let caps := (rangeFrom 0 (nRegions s)).map fun r => ((tabGet 0 s.pacer.capNj r : Nat) : Rat)
  let its := sortBy itemLe (s.graphs.flatMap fun g => itemsOf s (unrelayed s) false lap { g with stopAsked := false })
  let asked := fun (it : Item) => (getGraph s it.graph.id).any (·.stopAsked)
  let replay := fun (it : Item) => !asked it && it.tasks.any fun i => (gst it.graph i).mandatory != 0
  let was := fun (it : Item) => it.tasks.all (inList old it.graph)
  let joins := fun (it : Item) => it.tasks.any fun i => (taskOf it.graph i).any (specTask s true it.graph) &&
    (taskOf it.graph i).any fun d => confirmed it.graph d.guardId
  let drop := decide (fMark < s.pacer.f)
  let agreed := fun (it : Item) => !replay it && it.rank == 0 && was it
  let head := its.filter replay ++ (if drop then [] else its.filter agreed)
  let made := fun (head : List Item) =>
    let m := admitMandatory s true f leak caps head
    if s.pacer.planPeak && f == 100 && !m.peak then
      let p := peakBudget s leak
      { m with left := m.left + (p - m.budget), budget := p, peak := true }
    else m
  let rest := its.filter fun it => !replay it && (drop || !agreed it) && (was it || (joins it && !asked it))
  let m := if drop then admitRest s true caps (cutPlan s caps made (head.length + rest.length) head rest) []
    else admitRest s true caps (made head) rest
  let tasks := if fget s fPART_TRK_CFG_BENCH 0 0 = 1 then benchPlan s lap true else m.tasks
  let gone := old.filter fun k => !k.filler && !tasks.any fun q => q.graph == k.graph && q.desc.index == k.desc.index
  let s := noteShort (gone.foldl withdrawRv s) (tasksIn m.deferred) false
  { s with
    lap := { s.lap with plan := tasks }
    link := { s.link with declined := [] }
    pacer := { s.pacer with f := f, budgetNj := natNj m.budget, planPeak := m.peak, plannedNj := plannedNj s m tasks } }

/-! ## COMMIT_POINT -/

/-- What follows the change of memory: confirmations go out, energies are calibrated, every task gets what its outcome brings, the
driver's records and the lap's are written; words and state were made before and after that change. The outcomes that members had
before their epochs were settled are raw. -/
def commitTasks (s : State) (d : Dec) (raw : List LapTask) (state : Bytes) (words : List (Nat × BitVec 256)) : State :=
  let s := calibrateAll (words.foldl (fun s w => sendControl s w.1 2 w.2) s) d
  let s := s.lap.hostStops.foldl (fun s e => stopGraph (graphEvent s e.1 0x0C 0 0 e.2) e.1) s
  let s := updLap s fun l => { l with hostStops := [] }
  let s := endStopped (groupsAgain (d.ts.foldl (settleTask raw) s) d.ts) d.ts
  lapRecords (measureLap (putCpls s (lapCpls s d)) d.ts) d.ts state

/-- Payloads of the window whose producer did not commit are never resent (R75). -/
def dropUnsent (s : State) (ts : List LapTask) : State :=
  let bad := (ts.filter fun k => k.outcome != some 0).map (·.slot)
  let keep := fun (x : Region) => { x with resend := x.resend.filter fun p => !(p.lap == lapN s && hasNat bad p.slot), retiredLap := 0 }
  { s with regions := (s.regions.map fun e => (e.1, keep e.2)).filter fun e => decide (e.2 ≠ regionReset) }

/-- Step 5: outcomes, memory, records, snapshots (R46). -/
def commitLap (s : State) : State :=
  let words := (confirmTo s).map fun p => (p, cleanWord s p)
  let raw := decideTasks s
  let d := settleEpochs s raw
  let fs := finalSlots d (conflicts s)
  let t := keepImage d.s (commitMemory d.s d.ts fs)
  let state := stateDigest t (committedPages d.s fs) (committedLines d.s fs)
  dropUnsent (clearHalts (restoreCommit (relayCommit (snapCommit d.s (commitTasks t d raw state words)))) d.ts) d.ts

/-- The decided lap is over, the words still owed of it will come late (R68), and host writes have the frames of a new lap (R483). -/
def lapDecided (s : State) : State :=
  updLap (updHost s fun h => { h with hostPages := [] }) fun l => { l with lateTo := l.owed, deciding := [], failDeciding := [], fwDeciding := [], withdrawnDeciding := [], joinedDeciding := [] }

/-- Step 6: the part manager places the next lap again, and graphs that are done close. -/
def placeAgain (s : State) : State :=
  let s := if s.part.manager.isSome then replan s else s
  s.graphs.foldl closeGraph s

/-- The lap sequence goes on, or lap service ends at the stop that SERVICE = 0 asked for (R575). -/
def goOn (s : State) : State :=
  if s.lap.stopping then
    let s := keepWhole s
    updLap (serveReads { s with link := { s.link with activeGm := false } }) fun l => { l with phase := .off, plan := [], planned := false, stopping := false, owed := [] }
  else updLap s fun l => { l with phase := .committed }

/-- COMMIT_POINT (R69): enabled at W after the lap mark. -/
def commitPoint (s : State) : State :=
  if s.lap.phase ≠ .marked then s else goOn (placeAgain (lapDecided (commitLap (missVotes s))))

/-! ## FIRST_ISSUE -/

/-- Open the epoch of a member placed in the lap, where none is open (R370). -/
def openFor (s : State) (k : LapTask) : State :=
  if !k.spec || (openEpoch s k.graph k.desc.guardId k.desc.specEpoch).isSome then s
  else
    let b := k.unit / 8
    let hold := match getGraph s k.graph with
      | some g => ((guardEntry g k.desc.guardId).map (·.hold)).getD 0
      | none => 0
    match (rangeFrom 0 16).find? fun i => (tabGet epochReset (getBlock s b).epochs i).st == 0 with
    | some i =>
      let e : Epoch := ⟨k.graph, k.desc.guardId, k.desc.specEpoch, s.lap.num, hold, 1, [], [], [], []⟩
      updBlock s b fun x => { x with epochs := tabSet epochReset x.epochs i e }
    | none => s

/-- Whether a rendezvous task is ready for the lap after this one, or its predecessors are placed in this lap (R94). -/
def offered (s : State) (g : Graph) (i : Nat) : Bool :=
  match taskOf g i with
  | none => false
  | some t =>
    let x := gst g i
    let preds := (g.edges.filter fun e => e.kind == 0 && e.dst == i).map (·.src)
    !(g.stopped || g.stopAsked) && (x.done == 0 || x.again) && decide (x.notBefore ≤ s.lap.num + 1) && !inList s.lap.cur g i &&
      preds.all (predOk s g t true) && (t.guardId == 0 || confirmed g t.guardId) && decide (g.notBefore ≤ s.lap.num + 1)

/-- Keys of the part's tasks. -/
def allKeys (s : State) : List Nat :=
  ((s.graphs.flatMap fun g => g.tasks.map (·.rvKey)).filter fun k => k != 0).foldl insNat []

/-- Offers of the lap: each key whose tasks are all ready, to each of its peers (R94). -/
def offersOf (s : State) : List (Nat × Nat) :=
  (allKeys s).flatMap fun key =>
    let ps := keyPeers s key
    if (keyTasks s key).all (fun e => offered s e.1 e.2.index) && ps.all (fun p => !hasNat s.lap.lost p) && decide (s.lap.holdover ≤ 16) then ps.map fun p => (p, key) else []

/-- Send the offers of the lap, those to one peer together (R471). -/
def sendOffers (s : State) : State :=
  let os := offersOf s
  ((os.map (·.1)).foldl insNat []).foldl (fun s p =>
    let keys := (os.filter fun e => e.1 == p).map (·.2)
    let s := sendControls s p (keys.map fun k => (3, offerRec s s.lap.num p k))
    { s with link := { s.link with offersOut := s.link.offersOut ++ keys.map fun k => (p, s.lap.num, k) } }) s

/-- Header of the lap's log record, but for what its commit point completes (R107). -/
def lapHeader (s : State) : Nat :=
  let p := s.pacer
  let uj := fun (n : Nat) => min (n / 1000) (2 ^ 32 - 1)
  periodUs s % 2 ^ 11 * 2 ^ 48 + p.pace % 4 * 2 ^ 59 + b2n p.shed * 2 ^ 61 + b2n p.planPeak * 2 ^ 62 + uj p.budgetNj * 2 ^ 64 +
    uj p.leakNj * 2 ^ 96 + uj p.plannedNj * 2 ^ 128 +
    (rangeFrom 0 8).foldl (fun a r => a + uj (tabGet 0 p.capNj r) * 2 ^ (224 + 32 * r)) 0

/-- SHED for a factor that has fallen below 1 (R498, R507). -/
def noteShed (s : State) : State :=
  let on := decide (s.pacer.f < 100)
  let s' := { s with pacer := { s.pacer with shedOn := on } }
  if on && !s.pacer.shedOn then errPart s' (errRecord s' 9 3 0x1D 0 8 0 (s.pacer.pace % 4 + b2n s.pacer.shed * 4)) else s'

/-- The tasks that first issue starts: of the plan, without exchanging tasks from the 17th lap of holdover (R45), and none while no
part manager exists (R29); what was planned on a unit that has been cut since ends DEADBOLTED (R505), and what consumes from a
partner lost since ends PARTNER_LOST (R72). -/
def issuePlan (s : State) : List LapTask :=
  if s.part.manager.isNone then []
  else
    ((if 16 < s.lap.holdover then s.lap.plan.filter fun k => !exchanges k else s.lap.plan).map fun k =>
      if unitCut s k.unit then endTask k 8 else k).map fun k =>
        if s.lap.lost.any (consumesFrom s k) then endTask k 6 else k

/-- The plan becomes the running lap. -/
def beginLap (s : State) : State := updLap s fun l => { l with cur := issuePlan s, plan := [], phase := .issuing }

/-- The pacer's record of the lap that issues (R100, R106, R107). -/
def noteLap (s : State) : State :=
  { s with pacer := { s.pacer with
    hdr := lapHeader s, prevPlannedNj := s.pacer.plannedNj, peaks := (s.pacer.planPeak :: s.pacer.peaks).take 9 } }

/-- Every open epoch keeps what the lap's tasks outside it declare and bind (R372). -/
def meetEpochs (s : State) (ts : List LapTask) : State :=
  let meet := fun (e : Epoch) =>
    let out := ts.filter fun k => !(k.spec && k.graph == e.graph && k.desc.guardId == e.guard && k.desc.specEpoch == e.epoch)
    { e with metBufs := e.metBufs ++ ((out.filter fun k => !k.spec).flatMap (·.bufs)).filter (fun b => b.scope == 0),
             metStreams := (out.flatMap fun k => boundBy s k.desc).foldl insNat e.metStreams }
  { s with blocks := s.blocks.map fun b => (b.1, { b.2 with epochs := b.2.epochs.map fun e => if e.2.st = 0 then e else (e.1, meet e.2) }) }

/-- Open the epochs of the lap's members, and keep the lap's power. -/
def openLap (s : State) (ts : List LapTask) : State := noteLap (noteShed (meetEpochs (ts.foldl openFor s) ts))

/-- Payloads of the window that first issue resends (R75): to a partner whose lap-clean word was still owed at the commit point,
those of the decided lap; and to one that has offered a key anew, those of the key. The manual does not say how the producer part
learns of a re-run (DEDUCED, assumption 93). -/
def resendsOf (s : State) (x : Region) : List Resend :=
  x.resend.filter fun p => (p.lap + 1 == s.lap.num && hasNat s.lap.lateTo p.peer) ||
    (decide (p.lap < s.lap.num) && s.link.offersIn.any fun o => o.1 == p.peer && o.2.1 + 1 == s.lap.num && o.2.2 == p.key)

/-- The resends of first issue, in live regions. -/
def sendResends (s : State) : State :=
  (s.regions.filter fun e => regionAlive s e.1).foldl (fun s e => (resendsOf s e.2).foldl (resendOne e.1) s) s

/-- Firmware tells the producers of a re-run on resent payloads of its key, so that a word that came late draws the resend too, those to
one part together (R471): the manual does not say how a producer learns of it (DEDUCED, assumption 93). -/
def callResends (s : State) : State :=
  let calls := (s.lap.cur.filter fun k => k.outcome.isNone && k.desc.rvKey != 0).flatMap fun k => (resentTo s k).map fun e => (e.1, k.desc.rvKey)
  let once := calls.foldl (fun (l : List (Nat × Nat)) e => if l.any (fun x => x == e) || (offersOf s).any (fun x => x == e) then l else l ++ [e]) []
  ((once.map (·.1)).foldl insNat []).foldl (fun s p => if hasNat s.lap.lost p then s
    else sendControls s p ((once.filter fun e => e.1 == p).map fun e => (3, offerRec s s.lap.num p e.2))) s

/-- Every DMA channel of the part. -/
def allChans (s : State) : List (DmaEng × Nat) :=
  s.blocks.flatMap (fun b => b.2.dma.map fun c => (DmaEng.blk b.1, c.1)) ++ s.regions.flatMap fun r => r.2.dma.map fun c => (DmaEng.rgn r.1, c.1)

/-- What the lap's frames bring to DMA channels: descriptors owed go into their rings (R604), and transfers with the host window
that failed in the lap before run again (R339, R390). -/
def stirChans (s : State) : State :=
  (allChans s).foldl (fun s c =>
    let s := payOwed s c.1 c.2
    if (getChan s c.1 c.2).rerunLap = some s.lap.num ∧ (chState s c.1 c.2 = 3 ∨ chState s c.1 c.2 = 0) then rerunCopy s c.1 c.2 else s) s

/-- FIRST_ISSUE (R46, R47): the plan becomes the running lap. A thermal trip withholds it (R591). -/
def firstIssue (s : State) : State :=
  if s.lap.phase ≠ .committed ∨ s.part.thermTrip = true then s
  else relayStep (stirChans <| callResends <| sendResends <| sendOffers (serveReads (openLap (beginLap s) (issuePlan s))))

end Sys2Proof.Machine
end

