-- ==== Sys2Proof/Machine/Host.lean ====
section
/-! DEFINITION. Submission entries of the host: graphs (R84 to R94, R110, R353, R369), owner, guard and hurdle tables (R301,
R305, R367, R440, R491), STOP_GRAPH, nudges, FLR and ATS (R478, R485, R492). -/

namespace Sys2Proof.Machine

/-! ## Parsing descriptors (R84, R87, R89, R91) -/

/-- A task descriptor (R87). -/
def taskOfWord (w : Nat) : TaskDesc :=
  ⟨nbits w 0 16, nbits w 16 4, nbits w 24 8, nbits w 32 16, nbits w 48 16, nbits w 64 52, nbits w 116 12, nbits w 128 32, nbits w 160 32,
    nbits w 192 16, nbits w 208 16, nbits w 224 16, nbits w 256 52, nbits w 308 4, nbits w 320 52, nbits w 372 8, nbits w 384 16,
    nbits w 400 16, nbits w 416 32⟩

/-- Whether a task descriptor has a bad CHECK, reserved bits, or a field out of range (R86, BAD_CHECK), at position i. -/
def taskBad (i w : Nat) : Bool :=
  !crcOk 128 w || nbits w 20 4 != 0 || nbits w 39 9 != 0 || nbits w 240 16 != 0 || nbits w 312 8 != 0 || nbits w 380 4 != 0 ||
    nbits w 448 544 != 0 || nbits w 0 16 != i || decide (0xFD < nbits w 24 8) || nbits w 116 12 == 0 || decide (2048 < nbits w 116 12) ||
    nbits w 64 52 % 64 != 0 || decide (8 < nbits w 308 4)

/-- BAD_KIND of a task. -/
def kindBad (w : Nat) : Bool := decide (1 < nbits w 16 4) || (nbits w 16 4 == 1 && nbits w 32 16 != 0)

def edgeOfWord (w : Nat) : Edge := ⟨nbits w 0 16, nbits w 16 16, nbits w 32 2⟩

/-- BAD_EDGE of an edge. -/
def edgeBad (count w : Nat) : Bool :=
  decide (count ≤ nbits w 0 16) || decide (count ≤ nbits w 16 16) || nbits w 0 16 == nbits w 16 16 || nbits w 32 2 == 3

/-- A buffer declaration (R89). -/
def bufOfWord (w : Nat) : BufDecl :=
  ⟨nbits w 0 52, nbits w 64 32, nbits w 96 2, nbits w 98 1, nbit w 99, nbits w 128 17, nbits w 160 16⟩

/-- BAD_CHECK of a graph descriptor by its own bits (R84, R86). -/
def graphBad (s : State) (w : Nat) : Bool :=
  let mask := nbits w 304 8
  !crcOk 64 w || nbits w 57 7 != 0 || nbits w 312 168 != 0 || nbits w 32 16 == 0 || decide (16384 < nbits w 32 16) ||
    decide (262144 < nbits w 192 32) || nbits w 64 64 % 128 != 0 || nbits w 128 64 % 8 != 0 ||
    (mask != 0 && !(rangeFrom 0 (nRegions s)).any (nbit mask))

/-! ## GRAPH -/


/-- The guard tables of a graph from the newest in force for a GRAPH entry of this ring on (R367, R491). -/
def guardsFor (s : State) (ring id : Nat) : List GuardTab :=
  (s.guards.filter fun t => t.graph == id).dropWhile fun t => !(t.ring == ring || decide (t.read < s.host.doorReads))

/-- What the read of a graph's tables finds: the graph, unresolved, with the first failure (R85, R86). -/
def readGraph (s : State) (ring tag w : Nat) : Graph :=
  let n := nbits w 32 16
  let m := nbits w 192 32
  let tt := nbits w 64 64
  let et := nbits w 128 64
  let ok := (n == 0 || hostOk s tt (128 * n)) && (m == 0 || hostOk s et (8 * m))
  let small := decide (n ≤ 16384 ∧ m ≤ 262144)
  let tw := if ok && small then (blocksOf 128 n (hostRead s tt (128 * n))).map leNat else []
  let ew := if ok && small then (blocksOf 8 m (hostRead s et (8 * m))).map leNat else []
  let fail :=
    if !ok then 0x0A
    else if graphBad s w || ((rangeFrom 0 n).zip tw).any (fun e => taskBad e.1 e.2) || ew.any (fun e => nbits e 34 30 != 0) then 1
    else if tw.any kindBad then 2
    else if ew.any (edgeBad n) then 3
    else 0
  ⟨nbits w 0 32, nbits w 48 8, nbit w 56, nbits w 224 16, nbits w 240 16, nbits w 256 48, nbits w 304 8, tw.map taskOfWord, [],
    ew.map edgeOfWord, fail, ring + tag * 2 ^ 32, false, false, false, [], [],
    ((guardsFor s ring (nbits w 0 32)).head?.map (·.ents)).getD [], (guardsFor s ring (nbits w 0 32)).length⟩

/-- Record what the read took from host memory (R485, R538). -/
def noteGraphRead (s : State) (a w : Nat) : State :=
  let n := nbits w 32 16
  let m := nbits w 192 32
  let fetch := fun (s : State) (h k : Nat) => if hostOk s h k && decide (0 < k) then hostFetch s h k else s
  fetch (fetch (hostFetch s a 64) (nbits w 64 64) (128 * n)) (nbits w 128 64) (8 * m)

/-- The result of a graph that cannot be posted as an event (R86, R507). -/
def unreported (s : State) (entry : Nat) (notRing : Bool) : State :=
  errPart s (errRecord s 0xB 3 0x1B 0 8 0 (entry + b2n notRing * 2 ^ 10))

/-- Post a rejection, on the graph's event ring where that is one. -/
def rejectGraph (s : State) (g : Graph) (code : Nat) : State :=
  if ringIs s g.evtRing 1 then postEvent s g.evtRing 0x01 code g.id 0 0 else unreported s g.entry true

/-- Reject a graph whose ID is open; tables that could not be read come before that (R86, R500). -/
def rejectOpen (s : State) (g : Graph) : State := rejectGraph s g (if g.readFail = 0x0A then 0x0A else 1)

/-- Take the graph that a read found: it is rejected at once where its ID is open, and waits where another graph of its ID has still
to be resolved (R85, R86, R491, R500). -/
def openGraph (s : State) (g : Graph) : State :=
  match s.graphs.find? fun x => x.id == g.id with
  | none => { s with graphs := s.graphs ++ [g] }
  | some x => if x.resolved then rejectOpen s g else updHost s fun h => { h with sameId := h.sameId ++ [g] }

/-- Read the graph descriptor at a host address; tag is the entry's USER_TAG. -/
def graphAt (s : State) (ring tag a : Nat) : State :=
  if !hostOk s a 64 then unreported s (ring + tag * 2 ^ 32) false
  else openGraph (noteGraphRead s a (leNat (hostRead s a 64))) (readGraph s ring tag (leNat (hostRead s a 64)))

/-- GRAPH (R85): an entry is consumed and its graph read once; one whose ID is open is rejected at once. -/
def graphEntry (s : State) (ring : Nat) : State :=
  (headEntry s ring 0).elim s fun e =>
    settleSub (graphAt (consumeEntry s ring) ring (nbits e 32 32) (nbits e 64 64))

def execGraph (ring : Nat) (s : State) : Host.Outcome State Fault Refusal := .next (graphEntry s ring)

/-! ## Checks of resolution (R86) -/

/-- Regions of a REGION_MASK that are present and alive. -/
def maskRegions (s : State) (g : Graph) : List Nat :=
  (rangeFrom 0 (nRegions s)).filter fun r => regionAlive s r && (g.regionMask == 0 || nbit g.regionMask r)

/-- BAD_CHECK that depends on the part: rings and program extents (R86, R487, R602). -/
def stateBad (s : State) (g : Graph) : Bool :=
  !ringIs s g.cplRing 0 || !ringIs s g.evtRing 1 ||
    g.tasks.any fun t => match (taskRead s t.program (64 * t.programWords)).2 with | .range _ => true | _ => false

/-- Remove tasks without an open predecessor until none is left or none can go: true where a cycle stays. -/
def hasCycle (edges : List Edge) : Nat → List Nat → Bool
  | 0, l => !l.isEmpty
  | n + 1, l =>
    let stay := l.filter fun i => edges.any fun e => e.dst == i && hasNat l e.src
    if stay.length = l.length then !l.isEmpty else hasCycle edges n stay

/-- Clock of a task's kind in MHz. -/
def kindClock (s : State) (t : TaskDesc) : Nat := if t.kind = 1 then 1200 else s.fuses.clockMHz

/-- DECL_TOO_LARGE of a task: every block of the live regions counts, a deadbolted one too. -/
def declBad (s : State) (rs : List Nat) (t : TaskDesc) : Bool :=
  rs.any (fun r => decide (fget s fRGN_LAP_POOL_CFG_POOL_SIZE r 0 * 8192 < 2 * t.heldPages) ||
      decide (fget s fRGN_LAP_POOL_CFG_RESEND_SIZE r 0 * 2 ^ 26 < 3 * (t.resendAllow * 65536))) ||
    rs.any fun r => (rangeFrom (8 * r) 8).any fun b => decide (fget s fBLK_SHADOW_CFG_SHADOW_SIZE b 0 * 4096 < 2 * t.heldLines)

/-- Buffer declarations of a task; none where they cannot be read (R602). -/
def readBufs (s : State) (t : TaskDesc) : Option (List Nat) :=
  if t.bufCount = 0 then some []
  else match (taskRead s t.bufList (32 * t.bufCount)).2 with
    | .ok b => some ((blocksOf 32 t.bufCount b).map leNat)
    | _ => none

/-- Whether a buffer declaration breaks R89 or R90; PEER is another part, so no exchange is routed to its own part (R462). -/
def bufBad (s : State) (t : TaskDesc) (w : Nat) : Bool :=
  let b := bufOfWord w
  let localBs := decide (0x400_0000_0000 ≤ b.base ∧ b.base < 0x400_0380_0000)
  nbits w 52 12 != 0 || nbits w 100 28 != 0 || nbits w 145 15 != 0 || nbits w 176 80 != 0 || b.size % 128 != 0 ||
    (b.scope == 0 && localBs) || (b.scope == 1 && decide (0x180_0000 < b.base + b.size)) ||
    (b.scope == 3 && (t.rvKey == 0 || b.peer == selfId s))

/-- Whether two buffers of one task overlap: block-scope ones lie in the local window, the rest in part addresses. -/
def bufsClash (a b : BufDecl) : Bool :=
  (a.scope == 1) == (b.scope == 1) && decide (a.base < b.base + b.size ∧ b.base < a.base + a.size)

def anyClash : List BufDecl → Bool
  | [] => false
  | b :: t => t.any (bufsClash b) || anyClash t

/-- Whether an arm entry breaks R317 or R318. -/
def armBad (s : State) (e : Nat) : Bool :=
  let kind := nbits e 4 2
  let low := nbits e 0 4 + nbits e 7 23
  let desc := nbit e 6
  let lowered := match (taskRead s (nbits e 512 52) 128).2 with
    | .ok b => (lowerDesc (leNat b)).isSome
    | _ => false
  kind == 3 || decide (6 ≤ nbits e 15 3) || nbits e 30 482 != 0 || (kind == 0 && nbits e 11 4 != 0) ||
    (desc && (nbits e 564 460 != 0 || !lowered)) ||
    (kind == 2 && (low != 0 || nbits e 564 460 != 0)) || (kind == 1 && nbits e 15 3 != 0 && nbits e 11 4 == nbits e 7 4)

/-- Random streams that a header binds. -/
def armStreams (h : Nat) : List Nat := (rangeFrom 0 8).filterMap fun i => if nbit h (32 * i + 16) then some (nbits h (32 * i) 16) else none

/-- Whether a task's arm list breaks R316 to R318, or R353 for a stack-engine task. -/
def armListBad (s : State) (t : TaskDesc) : Bool :=
  match (taskRead s t.armList (64 + 128 * t.armCount)).2 with
  | .ok b =>
    let h := leNat (b.take 64)
    let es := (blocksOf 128 t.armCount (b.drop 64)).map leNat
    let starts := (es.filter fun e => nbit e 3).map fun e => nbits e 0 3
    let engineRegion := (homeEngine s t).map (· / 2)
    crc32c (b.take 60 ++ b.drop 64) != nbits h 480 32 || nbits h 256 224 != 0 || (rangeFrom 0 8).any (fun i => nbits h (32 * i + 17) 15 != 0) ||
      es.any (armBad s) || decide ((starts.foldl insNat []).length < starts.length) ||
      (armStreams h).any (fun n => decide (8192 * nRegions s ≤ n)) ||
      (t.kind == 1 && (starts.any (fun m => decide (4 ≤ m)) || (armStreams h).any fun n => engineRegion != some (n / 8192)))
  | _ => true

/-- BAD_BUFFER of a task with its declarations. -/
def bufferBad (s : State) (t : TaskDesc) : Bool :=
  match readBufs s t with
  | none => true
  | some ws => ws.any (bufBad s t) || anyClash (ws.map bufOfWord) || armListBad s t ||
      (t.kind == 1 && (t.rvKey != 0 || ws.any fun w => nbits w 96 2 != 0))

/-- Cores that a block or a region has for a group. -/
def coresIn (s : State) (l : List Nat) : Nat := (l.filter fun u => corePresent s u && !isCut s 0 u).length

/-- GROUP_TOO_LARGE (R93, R353). -/
def groupBad (s : State) (g : Graph) : Bool :=
  let lab := localEdges g
  let labels := labelsOf g
  let paths := criticalPaths { g with edges := lab } (g.tasks.length + 1) (g.tasks.map (·.cyclesEst))
  let rs := maskRegions s g
  (labels.foldl insNat []).any fun h =>
    let ms := (rangeFrom 0 g.tasks.length).filter fun i => labels.getD i 0 == h
    if ms.length ≤ 1 then false
    else
      let block := lab.any fun e => e.kind == 1 && hasNat ms e.src
      let room := if block then rs.flatMap (fun r => (rangeFrom (8 * r) 8).map fun b => coresIn s (blockCores b))
        else rs.map fun r => coresIn s (regionCores r)
      ms.any (fun i => (taskOf g i).any fun t => t.kind == 1) || ms.any (fun i => !cyclesFit s s.fuses.clockMHz (paths.getD i 0)) ||
        !room.any fun n => decide (ms.length ≤ n)

/-- Resolution reads the buffer declarations and the arm lists of a graph, and the descriptors that those name: what the memory
corrects, rebuilds or finds lost on the way counts (R86, R278, R286, R602). -/
def readLists (s : State) (g : Graph) : State :=
  g.tasks.foldl (fun s t =>
    let s := if t.bufCount = 0 then s else (taskRead s t.bufList (32 * t.bufCount)).1
    let q := taskRead s t.armList (64 + 128 * t.armCount)
    match q.2 with
    | .ok b => (((blocksOf 128 t.armCount (b.drop 64)).map leNat).filter fun e => nbit e 6).foldl (fun s e => (taskRead s (nbits e 512 52) 128).1) q.1
    | _ => q.1) s

/-- The result of resolution (R86): the first failure, 0 for ACCEPTED. -/
def resolveCode (s : State) (g : Graph) : Nat :=
  let rs := maskRegions s g
  if g.readFail = 0x0A then 0x0A
  else if g.readFail = 1 ∨ stateBad s g = true then 1
  else if g.readFail ≠ 0 then g.readFail
  else if hasCycle g.edges g.tasks.length (rangeFrom 0 g.tasks.length) then 4
  else if g.tasks.any fun t => t.kind == 0 && !capFits s g t.capMask then 5
  else if g.tasks.any fun t => !cyclesFit s (kindClock s t) t.cyclesEst then 6
  else if g.tasks.any (declBad s rs) then 7
  else if g.tasks.any (bufferBad s) then 8
  else if groupBad s g then 9
  else 0

/-! ## Guards of an accepted graph (R369) -/

/-- Tasks that a task depends on along any edges. -/
def ancestors (edges : List Edge) : Nat → List Nat → List Nat
  | 0, l => l
  | n + 1, l =>
    let l' := edges.foldl (fun l e => if hasNat l e.dst then insNat l e.src else l) l
    if l' = l then l else ancestors edges n l'

/-- A guard's resolver counts as a COMMIT predecessor of its tasks (R369). -/
def guardEdges (g : Graph) : List Edge :=
  g.tasks.filterMap fun t => if t.guardId = 0 then none
    else (g.guards.find? fun e => e.id == t.guardId).map fun e => ⟨e.resolver, t.index, 0⟩

/-- GUARD_UNDECLARED or GUARD_CYCLE of an accepted graph. -/
def guardFail (g : Graph) : Option Nat :=
  let tab := g.guards
  let used := (g.tasks.filter fun t => t.guardId != 0)
  if used.any (fun t => !tab.any fun e => e.id == t.guardId) || tab.any (fun e => decide (g.tasks.length ≤ e.resolver)) then some 0x07
  else
    let bad := tab.any fun e =>
      let up := ancestors (g.edges ++ guardEdges g) g.tasks.length [e.resolver]
      used.any fun t => t.guardId == e.id && hasNat up t.index
    if bad then some 0x08 else none

/-- The checked graph is accepted, with the declarations that its tasks read. -/
def acceptGraph (s : State) (g : Graph) : State :=
  updGraph s g.id fun x => { x with resolved := true, bufs := g.tasks.map fun t => ((readBufs s t).getD []).map bufOfWord }

/-- The guards of an accepted graph are checked; a failure stops it (R369). -/
def checkGuards (s : State) (g : Graph) : State :=
  (guardFail g).elim s fun type => stopGraph (postEvent s g.evtRing type 0 g.id 0 0) g.id

/-- Graphs that waited for another of their ID: an accepted graph has them rejected, oldest first, and a rejected one leaves its place to
the oldest (R500). -/
def sameIdNext (s : State) (id : Nat) (accepted : Bool) : State :=
  let mine := s.host.sameId.filter fun g => g.id == id
  let keep := fun (l : List Graph) => updHost s fun h => { h with sameId := l ++ h.sameId.filter fun g => g.id != id }
  if accepted then mine.foldl rejectOpen (keep [])
  else match mine with
    | [] => s
    | g :: l => let s := keep l; { s with graphs := s.graphs ++ [g] }

/-- The end of resolution with a result. -/
def resolveAs (s : State) (g : Graph) (code : Nat) : State :=
  if code ≠ 0 then sameIdNext (rejectGraph { s with graphs := s.graphs.filter fun x => x.id != g.id } g code) g.id false
  else checkGuards (sameIdNext (postEvent (acceptGraph s g) g.evtRing 0x01 0 g.id 0 0) g.id true) g

/-- GRAPH_RESOLVED (R86, R369). -/
def graphResolved (s : State) (gid : Nat) : State :=
  (getGraph s gid).elim s fun g => if g.resolved then s
    else
      let code := resolveCode s g
      resolveAs (if code = 0 ∨ code = 8 ∨ code = 9 then readLists s g else s) g code

def execGraphResolved (graphId : Nat) (s : State) : Host.Outcome State Fault Refusal := .next (graphResolved s graphId)

/-! ## Table commands (R491) -/

/-- COMMAND_DONE on REPLY_RING. -/
def commandDone (s : State) (e code : Nat) : State := postEvent s (nbits e 16 16) 0x0E code (nbits e 32 32) 0 0

/-- Bits that a table command or STOP_GRAPH must leave zero. -/
def entryReserved (e : Nat) (usesId : Bool) : Bool := nbits e 4 12 != 0 || nbits e 192 288 != 0 || (!usesId && nbits e 160 32 != 0)

/-- Consume a table command and load its image: act gives the new state or a failing code. -/
def tableEntry (s : State) (ring kind : Nat) (usesId : Bool) (act : State → Nat → Bytes → State ⊕ Nat) : State :=
  match headEntry s ring kind with
  | none => s
  | some e =>
    let s := consumeEntry s ring
    let a := nbits e 64 64
    let n := nbits e 128 32
    let r : State × Nat :=
      if entryReserved e usesId || decide (n < 64) then (s, 2)
      else if !hostOk s a n then (s, 3)
      else match act (hostFetch s a n) e (hostRead s a n) with
        | .inl s => (s, 0)
        | .inr code => (hostFetch s a n, code)
    settleSub (commandDone r.1 e r.2)

/-- Whether an owner entry uses a reserved bit or value, or leaves its window (R300). -/
def ownEntryBad (s : State) (log2 e : Nat) : Bool :=
  nbits e 41 2 == 3 || nbits e 43 5 != 0 || decide (2097152 < nbits e 20 21 + 2 ^ (log2 - 16)) ||
    (nbits e 0 17 == selfId s && !regionPresent s (nbits e 17 3))

/-- Entries of a table once the images due by a lap have been applied; the last queued of one lap stays. -/
def ownCountBy (s : State) (ps : List OwnPend) (lap t : Nat) : Nat :=
  let last := ps.foldl (fun (b : Option OwnPend) p =>
    if p.table == t && p.image.isSome && decide (p.lap ≤ lap) && b.all (fun q => decide (q.lap ≤ p.lap)) then some p else b) none
  ((last.bind (·.image)).getD (getOwner s t)).count

/-- Whether the tables ever hold more than 4,194,304 entries in all, with one more image waiting (R301). -/
def ownOverfull (s : State) (p : OwnPend) : Bool :=
  let ps := s.ownPend ++ [p]
  ps.any fun q => decide (4194304 < ((rangeFrom 0 256).map (ownCountBy s ps q.lap)).sum)

/-- The image of R301, with R302. -/
def loadOwner (s : State) (_e : Nat) (b : Bytes) : State ⊕ Nat :=
  let h := leNat (b.take 64)
  let t := nbits h 0 8
  let log2 := nbits h 8 8
  let n := nbits h 16 21
  let eff := nbits h 64 48
  let es := (blocksOf 8 n (b.drop 64)).map leNat
  if b.length ≠ 64 + 8 * n then .inr 2
  else if crc32c (b.take 60 ++ b.drop 64) ≠ nbits h 480 32 then .inr 1
  else if log2 < 16 ∨ 26 < log2 ∨ 1048576 < n ∨ nbits h 37 27 ≠ 0 ∨ nbits h 112 368 ≠ 0 ∨ es.any (ownEntryBad s log2) = true ∨
    (inService s = true ∧ eff ≤ s.lap.num) then .inr 2
  else
    let img : OwnTable := if n = 0 then ⟨0, 0, []⟩ else
      ⟨log2, n, ((rangeFrom 0 n).zip es).filter fun e => e.2 != 0⟩
    let p : OwnPend := ⟨if inService s then eff else 0, t, some img, 0, 0⟩
    if ownOverfull s p then .inr 4
    else .inl (if inService s then { s with ownPend := s.ownPend ++ [p] } else applyOwn s p)

/-- A guard entry (R367). -/
def guardOfWord (w : Nat) : GuardEnt := ⟨nbits w 0 16, nbits w 16 16, nbits w 32 3, nbits w 35 3, nbits w 38 4, nbits w 64 32⟩

/-- The image of R367, in force for the GRAPH entries that follow it in its ring, and for those of any ring that are consumed once the
doorbell array has been read again (R491, assumption 60). -/
def loadGuards (ring : Nat) (s : State) (e : Nat) (b : Bytes) : State ⊕ Nat :=
  let h := leNat (b.take 64)
  let n := nbits h 32 12
  let ws := (blocksOf 16 n (b.drop 64)).map leNat
  let gs := ws.map guardOfWord
  if b.length ≠ 64 + 16 * n then .inr 2
  else if crc32c (b.take 60 ++ b.drop 64) ≠ nbits h 480 32 then .inr 1
  else if n = 0 ∨ nbits h 44 436 ≠ 0 ∨ nbits h 0 32 ≠ nbits e 160 32 ∨
    ws.any (fun w => nbits w 42 22 != 0 || nbits w 96 32 != 0 || nbits w 0 16 == 0 || decide (nbits w 38 4 < 2 ∨ 8 < nbits w 38 4)) = true ∨
    ((gs.map (·.id)).foldl insNat []).length < n then .inr 2
  else .inl { s with guards := ⟨nbits h 0 32, ring, s.host.doorReads, gs⟩ :: s.guards }

/-- Whether a hurdle record breaks R440. -/
def hurdleBad (w : Nat) : Bool :=
  let nm := fun (i : Nat) => nbit w (32 * i + 21) || nbits w (32 * i + 22) 10 != 0
  nm 0 || nm 1 || nm 2 || decide (nbits w 96 16 < 2) || nbits w 121 7 != 0

/-- The image of hurdle records (R440, R491). -/
def loadHurdles (s : State) (_e : Nat) (b : Bytes) : State ⊕ Nat :=
  let h := leNat (b.take 64)
  let first := nbits h 0 8
  let n := nbits h 8 9
  let ws := (blocksOf 16 n (b.drop 64)).map leNat
  if b.length ≠ 64 + 16 * n then .inr 2
  else if crc32c (b.take 60 ++ b.drop 64) ≠ nbits h 480 32 then .inr 1
  else if n = 0 ∨ 256 < n ∨ 256 < first + n ∨ nbits h 17 463 ≠ 0 ∨ ws.any hurdleBad = true then .inr 2
  else .inl { s with hurdles := ((rangeFrom first n).zip ws).foldl (fun t e => tabSet 0 t e.1 e.2) s.hurdles }

def execOwnerTable (ring : Nat) (s : State) : Host.Outcome State Fault Refusal := .next (tableEntry s ring 1 false loadOwner)
def execGuardTable (ring : Nat) (s : State) : Host.Outcome State Fault Refusal := .next (tableEntry s ring 2 true (loadGuards ring))
def execHurdleTable (ring : Nat) (s : State) : Host.Outcome State Fault Refusal := .next (tableEntry s ring 3 false loadHurdles)

/-- Ask an open graph to stop (R491). -/
def stopOpen (s : State) (gid : Nat) : State :=
  let s := updGraph s gid fun g => { g with stopAsked := true }
  match getGraph s gid with
  | some g => closeGraph s g
  | none => s

/-- Whether a STOP_GRAPH names an open graph: one accepted, for which neither GRAPH_DONE nor STOPPED has been posted. -/
def mayStop (s : State) (gid : Nat) : Bool := (getGraph s gid).any fun g => g.resolved

/-- What a consumed STOP_GRAPH entry does: COMMAND_DONE, which STOPPED follows. -/
def stopAt (s : State) (e : Nat) : State :=
  if entryReserved e true || nbits e 128 32 != 0 then commandDone s e 2
  else if mayStop s (nbits e 160 32) then stopOpen (commandDone s e 0) (nbits e 160 32)
  else commandDone s e 5

/-- STOP_GRAPH (R491). -/
def stopGraphEntry (s : State) (ring : Nat) : State :=
  (headEntry s ring 4).elim s fun e => settleSub (stopAt (consumeEntry s ring) e)

def execStopGraph (ring : Nat) (s : State) : Host.Outcome State Fault Refusal := .next (stopGraphEntry s ring)

def execNudge (ring : Nat) (s : State) : Host.Outcome State Fault Refusal := .next (nudge (driverWrite s 0x24 ring) ring)

/-! ## Configuration space (R477) -/

/-- Device ID of a grade. -/
def deviceId : Grade → Nat
  | .iz8a => 0x1A10
  | .iz8c => 0x1A11
  | .iz4a => 0x1A20

/-- Words 0 and 2 of configuration space: vendor and device ID, revision ID and class code, at the places a PCIe function
gives them (PRESUMED, assumption 94). No row of the opcode table reads configuration space. -/
def configWord (s : State) (i : Nat) : Option Word :=
  match i with
  | 0 => some (BitVec.ofNat 32 (Config.vendorId.toNat + deviceId s.fuses.grade * 2 ^ 16))
  | 2 => some (BitVec.ofNat 32 (Config.revisionId.toNat + 0x120000 * 2 ^ 8))
  | _ => none

/-! ## OWNER_UPDATE_RECORD (R305) -/

/-- A record of R305: PART_OWN_UPD0 to UPD2 hold the words before the one written. It is held against the table as it stands when it
arrives, and a block whose pages pass the window's end (R300) is a value that the entry reserves (DEDUCED, assumption 129). -/
def ownUpdate (s : State) (word3 : Nat) : State :=
  let w := fget s fPART_OWN_UPD0_DATA 0 0 + fget s fPART_OWN_UPD1_DATA 0 0 * 2 ^ 32 +
    fget s fPART_OWN_UPD2_DATA 0 0 * 2 ^ 64 + word3 * 2 ^ 96
  let t := nbits w 84 8
  let k := nbits w 64 20
  let e := nbits w 0 64
  let o := getOwner s t
  let l := resolveLap s.lap.num (nbits w 96 16)
  let regionOk := if nbits e 0 17 = selfId s then regionPresent s (nbits e 17 3) else Config.partHasRegion (nbits e 0 17) (nbits e 17 3)
  if 4096 ≤ (s.ownPend.filter fun p => p.image.isNone).length then fput s fPART_OWN_STATUS_QUEUE_FULL 0 0 1
  else if l ≤ s.lap.num then fput s fPART_OWN_STATUS_LATE 0 0 1
  else if o.count ≤ k || nbits w 92 4 != 0 || nbits w 112 16 != 0 || ownEntryBad s o.log2 e || !regionOk then
    fput s fPART_OWN_STATUS_BAD_RECORD 0 0 1
  else { s with ownPend := s.ownPend ++ [⟨l, t, none, k, e⟩] }

def execOwnerUpdateRecord (word3 : Word) (s : State) : Host.Outcome State Fault Refusal := .next (ownUpdate (driverWrite s 0x10050C word3.toNat) word3.toNat)

/-! ## FLR and ATS (R478, R485) -/

/-- FLR (R478): rings, HOST_ registers, MSI-X and the ATS cache; every open graph is stopped. Accesses that wait in the
endpoint are dropped, and ATS Enable returns to 0 (PRESUMED, assumption 23). -/
def flr (s : State) : State :=
  let s := dropCpls s fun _ => true
  let other := fun (k : Nat) => k / (65536 * 65536 * 32 * 1024) != 0
  let s := { s with flds := s.flds.filter (fun e => other e.1), shadows := s.shadows.filter fun e => other e.1 }
  let s := updHost s fun h => { h with
    ringIdx := [], consumed := [], subQ := [], nextRing := 0, lostRun := [], cplWait := [], heldWrites := [], heldReads := []
    nudges := [], nudgeRing := none, headDue := [], msix := [], pba := [], atsEnable := false, atsCache := [] }
  (s.graphs.map (·.id)).foldl stopOpen s

def execFlr (s : State) : Host.Outcome State Fault Refusal := .next (flr s)

/-- ATS_INVALIDATION (R485): commands are whole steps, so no request uses a translation when it completes, which it does at once. -/
def atsInvalidate (s : State) (addr len : Nat) : State :=
  emit (updHost s fun h => { h with atsCache := h.atsCache.filter fun p => !decide (p.1 < addr + len ∧ addr < p.1 + p.2) }) (.atsDone addr len)

def execAtsInvalidation (addr len : Nat) (s : State) : Host.Outcome State Fault Refusal := .next (atsInvalidate s addr len)

end Sys2Proof.Machine
end

