-- ==== Sys2Proof/Machine/Link.lean ====
section
/-! DEFINITION. Segments and control records that arrive over the Drivezar link (R66, R73, R94, R304, R332, R405, R436,
R452 to R456, R465, R472, R473). -/

namespace Sys2Proof.Machine

/-! ## Arrival -/

/-- Count a segment discarded or refused in DZL_PORT_ERR of the port by which it came (R454). -/
def countRefused (s : State) (g : Segment) : State := if portUp s g.port then pbump s fDZL_PORT_ERR_REFUSED g.port 1 else s

/-- A lap-local segment of another lap than the receiver's is discarded whole (R454). Out of lap service there is no lap to hold it
against (assumption 104). -/
def lateLocal (s : State) (g : Segment) : Bool := !g.held && inService s && g.lap != s.lap.num

/-- Refuse a segment: count it and send NO_ROUTE with a reason to its source (R454). -/
def refuseSeg (s : State) (g : Segment) (reason : Nat) : State :=
  sendControl (countRefused s g) g.src 5 (noRouteRec s g.src g.dst g.seg reason)

/-- Payload of a segment's input record: HEAD (R453), class and port, bytes (DESIGN CHOICE, assumption 134). -/
def segInput (op : Nat) (g : Segment) : Bytes := natLe 40 (headWord op g) ++ natLe 1 (b2n g.urgent + 2 * g.port) ++ g.data

/-- Record a segment that has arrived in a region (R538). -/
def trkSegment (s : State) (op r : Nat) (g : Segment) : State := trkInput s 3 r (g.src + g.seg % 4096 * 2 ^ 17) (segInput op g)

/-- OP of the input record of a signal flit, whose bytes are the tumbler's name; no segment has it (assumption 134). -/
def opSignal : Nat := 15

/-- Whether a segment is for this part; one for another part is FORWARD's. -/
def forMe (s : State) (g : Segment) : Bool := g.dst == selfId s

/-! ## OWNER segments (R304, R453, R529) -/

/-- Where an OWNER segment of n bytes lands here: its entry is OWNED by this part, in a live region, with the GEN it
carries, and its pages are mapped. A RESTORING block takes urgent-class writes alone (R306). -/
def ownerPlace (s : State) (g : Segment) (write : Bool) (n : Nat) : Option Owned :=
  match (lookOwner s g.tableId g.offset).filter fun o => o.state == 1 || (o.state == 2 && write && g.urgent) with
  | none => none
  | some o =>
    let room := 2 ^ (getOwner s g.tableId).log2 - g.offset % 2 ^ (getOwner s g.tableId).log2
    if o.part = selfId s ∧ o.gen = g.gen ∧ n ≤ room ∧ regionAlive s o.region = true ∧
        committedOk s o.region (o.off / 65536) (o.off % 65536) n = true then some o
    else none

/-- Lap whose commit decides a held transfer: that of its word, or the receiver's own for another domain (R66, R73). -/
def heldLap (s : State) (g : Segment) : Nat := if sameDomain s g.src then g.lap else s.lap.num

/-- Whether that lap is still to be decided here. -/
def lapOpen (s : State) (lap : Nat) : Bool := lap == s.lap.num || (lap + 1 == s.lap.num && decide (s.lap.phase = .marked))

/-- Whether a held transfer belongs to an entry. -/
def rxMatches (g : Segment) (r : RxHeld) : Bool := r.src == g.src && r.xid == g.xid && r.sent == g.lap && r.verdict.isNone

/-- The highest slot below the host's that no transfer received holds. -/
def rxFree (s : State) : Nat → Nat → Nat
  | 0, k => k
  | n + 1, k => if s.link.rx.any (fun r => r.slot == k) then rxFree s n (k - 1) else k

/-- The slot and the lap of a held transfer, opened at its first segment: one that straddles a lap mark of this part stays
in the lap it began in (R73). -/
def rxSlot (s : State) (g : Segment) (lap : Nat) : (Nat × Nat) × State :=
  match s.link.rx.find? (rxMatches g) with
  | some r => ((r.slot, r.lap), s)
  | none =>
    let k := rxFree s s.link.rx.length 0x3FFE
    ((k, lap), { s with link := { s.link with rx := s.link.rx ++ [⟨g.src, g.xid, g.lap, k, lap, !sameDomain s g.src, none⟩] } })

/-- Write bytes as held by a slot of lap n; none while the write waits for a frame (R66, R604). -/
def writeInLap (s : State) (o : Owned) (slot n : Nat) (bs : Bytes) : Option State :=
  match writeHbm (updLap s fun l => { l with num := n }) o.region slot false (bs.length / 65536 + 2) (o.off / 65536) (o.off % 65536) bs with
  | .ok t => some (updLap t fun l => { l with num := s.lap.num })
  | _ => none

/-- WRITE_OWNER (R304, R332, R529): refused, or held until its sender's word or confirmation. A write that waits for a
frame changes nothing yet (R604). Out of lap service no commit point will come, and the write takes effect at once, as one of
firmware does; one whose lap has been decided is discarded and counted (both DESIGN CHOICE, assumption 104). -/
def writeOwner (s : State) (g : Segment) : State :=
  if !forMe s g then s
  else if lateLocal s g then countRefused (trkSegment s opWriteOwner (managerRegion s) g) g
  else match ownerPlace s g true g.data.length with
    | none => refuseSeg (trkSegment s opWriteOwner (managerRegion s) g) g 2
    | some o =>
      let relay := (rangeFrom (o.off / 65536) ((o.off % 65536 + g.data.length + 65535) / 65536)).any (inRelayArea s)
      let lap := heldLap s g
      let t := trkSegment s opWriteOwner o.region g
      if relay && g.src != fget s fPART_RELAY_SRC_SOURCE 0 0 then refuseSeg t g 2
      else if !inService s then (firmwareWrite t o.region (o.off / 65536) (o.off % 65536) g.data).1
      else if !lapOpen s lap then countRefused t g
      else
        let x := rxSlot (if relay then { t with snap := { t.snap with hosted := some g.tableId } } else t) g lap
        (writeInLap x.2 o x.1.1 x.1.2 g.data).getD s

def execWriteOwner (g : Segment) (s : State) : Host.Outcome State Fault Refusal := .next (writeOwner s g)

/-- READ_OWNER (R453): answered with committed state of the requested range, in the class of the request (R33), checked and corrected on
the way (R278, R286); a range that does not resolve is refused, and so is one that holds lost data (R514; DESIGN CHOICE, assumption 103). -/
def readOwner (s : State) (g : Segment) : State :=
  if !forMe s g then s
  else if lateLocal s g then countRefused (trkSegment s opReadOwner (managerRegion s) g) g
  else match ownerPlace s g false g.readLen with
    | none => refuseSeg (trkSegment s opReadOwner (managerRegion s) g) g 2
    | some o =>
      let q := readHbmEcc (trkSegment s opReadOwner o.region g) o.region noSlot [] (g.readLen / 65536 + 2) (o.off / 65536) (o.off % 65536) g.readLen
      let d := readCommitted q.1 o.region (o.off / 65536) (o.off % 65536) g.readLen
      if q.2 then refuseSeg q.1 g 2
      else match sendSegment q.1 o.region opReadReply (if g.urgent then 1 else 2) 0 { g with dst := g.src, length := g.readLen, data := d } none none with
      | some s => s
      | none => partnerLost s g.src

def execReadOwner (g : Segment) (s : State) : Host.Outcome State Fault Refusal := .next (readOwner s g)

/-- Whether the transfer that a request belongs to awaits a reply at an address. -/
def awaitsReply (s : State) (g : Segment) (x : SegOut) : Bool :=
  match (getChan s x.eng x.chan).desc with
  | some w => x.dst == g.src && dSrcSpace w == 1 && nbits (dSrc w) 48 8 == g.tableId &&
      decide (dDst w ≤ g.replyAddr ∧ g.replyAddr + g.data.length ≤ dDst w + dLen w) &&
      decide (nbits (dSrc w) 0 48 + (g.replyAddr - dDst w) = g.offset)
  | none => false

/-- READ_REPLY (R453): written at REPLY_ADDR for the transfer that asked, or taken by the restore in progress (R536).
A reply that nothing awaits is discarded, and so is one of a lap gone by (R454). -/
def readReply (s : State) (g : Segment) : State :=
  if !forMe s g then s
  else if restoreReply s g then restorePage (trkSegment s opReadReply (managerRegion s) g) g.data
  else match (if lateLocal s g then none else s.link.segs.find? (awaitsReply s g)) with
    | none => countRefused (trkSegment s opReadReply (managerRegion s) g) g
    | some x =>
      let t := trkSegment s opReadReply (engRegion x.eng) g
      match writePlace t (chOwner t x.eng x.chan) (chSlot t x.eng x.chan) g.data (chPlace t x.eng x.chan g.replyAddr) with
      | .ok t =>
        let t := updChan t x.eng x.chan fun c => { c with moved := c.moved + g.data.length }
        { t with link := { t.link with segs := t.link.segs.erase x } }
      | .wait => s
      | .halt r d => haltOwner t x.eng x.chan r d

def execReadReply (g : Segment) (s : State) : Host.Outcome State Fault Refusal := .next (readReply s g)

/-! ## Exchange segments (R90, R332, R455, R472) -/

/-- Whether a declaration receives an exchange from a part under an ID. -/
def receives (s : State) (k : LapTask) (src xid : Nat) (b : BufDecl) : Bool :=
  b.scope == 3 && b.dir == 1 && b.peer == src && Config.exchangeId k.desc.rvKey b.slot src (selfId s) % 65536 == xid

/-- The task of the lap, and its buffer, that an exchange payload is for. -/
def exchangeBuf (s : State) (g : Segment) (may : LapTask → Bool) : Option (LapTask × BufDecl) :=
  s.lap.cur.findSome? fun k => if may k then (k.bufs.find? (receives s k g.src g.xid)).map fun b => (k, b) else none

/-- Region and offset in its HBM where an exchange payload lands: within the buffer, on mapped lap-local pages. -/
def exchangePlace (s : State) (g : Segment) (b : BufDecl) : Option (Nat × Nat × Nat) :=
  let n := g.data.length
  match placeOf s none (b.base + g.offset) with
  | .hbm r page off =>
    let pages := rangeFrom page ((off + n + 65535) / 65536)
    if g.offset + n ≤ b.size ∧ regionAlive s r = true ∧ pages.all (fun p => (pteOf (getRegion s r) p).valid && (pteOf (getRegion s r) p).lapLocal) = true
    then some (r, page, off) else none
  | _ => none

/-- Write an exchange payload to its buffer, or refuse it. The sending part's vote judges it, so the page's writer slots do
not take it (R510). -/
def landExchange (s : State) (op : Nat) (g : Segment) (may : LapTask → Bool) : State :=
  match (exchangeBuf s g may).bind fun e => (exchangePlace s g e.2).map fun p => (e.1, p) with
  | none => refuseSeg (trkSegment s op (managerRegion s) g) g 3
  | some (k, r, page, off) =>
    match writeHbm (trkSegment s op r g) r k.slot false (g.data.length / 65536 + 2) page off g.data with
    | .ok t => updRegion t r fun x => { x with pageWriters := (getRegion s r).pageWriters, llWriters := (getRegion s r).llWriters }
    | _ => s

/-- WRITE_EXCHANGE (R332, R454): a late one is discarded whole; one from another domain is refused (R461). -/
def writeExchange (s : State) (g : Segment) : State :=
  if !forMe s g then s
  else if !inService s || g.lap != s.lap.num then countRefused (trkSegment s opWriteExchange (managerRegion s) g) g
  else if !sameDomain s g.src then refuseSeg (trkSegment s opWriteExchange (managerRegion s) g) g 4
  else landExchange s opWriteExchange g fun _ => true

def execWriteExchange (g : Segment) (s : State) : Host.Outcome State Fault Refusal := .next (writeExchange s g)

/-- Whether a task is a re-run that takes the exchange of a segment's original lap (R75, R472). -/
def takesResend (s : State) (g : Segment) (k : LapTask) : Bool := (resentTo s k).any fun e => e == (g.src, g.xid, g.lap)

/-- WRITE_RESEND (R472): for the re-run of this lap that takes the exchange of the original lap. -/
def writeResend (s : State) (g : Segment) : State :=
  if !forMe s g then s
  else if !inService s then refuseSeg (trkSegment s opWriteResend (managerRegion s) g) g 3
  else landExchange s opWriteResend g (takesResend s g)

def execWriteResend (g : Segment) (s : State) : Host.Outcome State Fault Refusal := .next (writeResend s g)

/-- A refused signal makes the receiving task a signaller all the same, so that waiters of its tumbler end with it (R436). -/
def noteRefused (s : State) (t : TumRef) (slot : Nat) : State :=
  let x := tumGet s t
  noteSignaller (tumPut s t { x with sigs := insNat x.sigs slot }) t slot

/-- SIGNAL_FLIT (R436, R446, R455): the signal of an exchange whose segment has been written, a resend among them; discarded with a late
or refused segment, the late original of an exchange that a re-run takes from a resend among them. Saturation is refused with reason 5; a
cut tumbler drops it (R437). -/
def signalFlit (s : State) (g : Segment) (name : Nat) : State :=
  if !forMe s g || !inService s || !g.sig || g.held || !nmRemote name || nmBad name || nmScope name == 0 then s
  else match (exchangeBuf s g fun k => if g.urgent then takesResend s g k else g.lap == s.lap.num).bind fun e => (exchangePlace s g e.2).map fun _ => e.1 with
    | none => s
    | some k =>
      let s := trkSegment s opSignal (managerRegion s) { g with data := natLe 4 name }
      let t := tumRefOf 0 name
      if !(if t.region then regionPresent s t.unit else regionPresent s (t.unit / 8)) then s
      else
        let r := tumSignal s t (nmAmount name) 0 3 k.slot
        if r.2 then sendControl (noteRefused r.1 t k.slot) g.src 5 (noRouteRec r.1 g.src g.dst g.seg 5) else r.1

def execSignalFlit (g : Segment) (name : Word) (s : State) : Host.Outcome State Fault Refusal := .next (signalFlit s g name.toNat)

/-! ## Ledger records (R405) -/

/-- LEDGER: a collector posts the record, and counts one that it cannot post. -/
def ledgerIn (s : State) (g : Segment) : State :=
  let s' := trkSegment s opLedger (managerRegion s) g
  if !forMe s g then s
  else if fget s fPART_LEDGER_COLLECTOR_COLLECT 0 0 = 0 ∨ g.data.length ≠ 1024 then s'
  else if fget s fPART_LEDGER_CFG_ENABLE 0 0 = 0 then ledgerDrop s'
  else ledgerPost s' g.data

def execLedger (g : Segment) (s : State) : Host.Outcome State Fault Refusal := .next (ledgerIn s g)

/-! ## Confirmations across domains (R73, R473) -/

/-- CONFIRM: the verdict on the held transfers of a sender's lap. -/
def confirmRec (s : State) (w : BitVec 256) : State :=
  let v := voteOfWord w.toNat
  let s := trkControl s 2 w
  if !recordOk s w then s
  else
    let f := fun (r : RxHeld) => if r.cross && r.src == v.src && r.sent == v.lap && r.verdict.isNone then
      { r with verdict := some (v.clean || !(v.overflow || hasNat v.ids r.xid)) } else r
    { s with link := { s.link with rx := s.link.rx.map f } }

def execConfirm (w : BitVec 256) (s : State) : Host.Outcome State Fault Refusal := .next (confirmRec s w)

/-- CONFIRM_TIMEOUT: transfers without a verdict 16 laps after their lap are discarded. -/
def confirmTimeout (s : State) : State :=
  let f := fun (r : RxHeld) => if r.cross && r.verdict.isNone && decide (r.lap + 16 ≤ s.lap.num) then { r with verdict := some false } else r
  { s with link := { s.link with rx := s.link.rx.map f } }

def execConfirmTimeout (s : State) : Host.Outcome State Fault Refusal := .next (confirmTimeout s)

/-! ## Rendezvous offers (R94) -/

/-- Whether a task of a key has committed in an open graph (R94). -/
def keyCommitted (s : State) (key : Nat) : Bool :=
  s.graphs.any fun g => g.tasks.any fun t => t.rvKey == key && (gst g t.index).done == 1

/-- Payloads of the window that an offer calls for, by region: those of its key, where no task of the key is left to run here or one
of them has committed (R75: DEDUCED, assumption 93), but for those that first issue has resent. -/
def calledFor (s : State) (src key : Nat) : List (Nat × Resend) :=
  if !(keyTasks s key).isEmpty && !keyCommitted s key then []
  else (s.regions.filter fun e => regionAlive s e.1).flatMap fun e => (e.2.resend.filter fun p =>
    p.peer == src && p.key == key && decide (p.lap < s.lap.num) && !(p.lap + 1 == s.lap.num && hasNat s.lap.lateTo src)).map fun p => (e.1, p)

/-- OFFER: recorded, or declined at once when its lap's plan point has passed. A call for a resend is answered at once, and is an
offer too where a task of the key is left to run here. -/
def offerIn (s : State) (w : BitVec 256) : State :=
  let n := w.toNat
  let lap := nbits n 0 48
  let src := nbits n 48 17
  let key := nbits n 82 32
  let s := trkControl s 3 w
  if !recordOk s w || !inService s then s
  else
    let calls := if lap = s.lap.num then calledFor s src key else []
    let t := calls.foldl (fun s e => resendOne e.1 s e.2) s
    if !calls.isEmpty && (keyTasks s key).isEmpty then t
    else if lap < s.lap.num ∨ (lap = s.lap.num ∧ s.lap.planned = true) then sendControl t src 4 (offerRec t lap src key)
    else { t with link := { t.link with offersIn := t.link.offersIn.filter (fun o => o != (src, lap, key)) ++ [(src, lap, key)] } }

def execOffer (w : BitVec 256) (s : State) : Host.Outcome State Fault Refusal := .next (offerIn s w)

/-- DECLINE: kept for step 6 of the lap sequence that follows the offer's lap; later ones change nothing. -/
def declineIn (s : State) (w : BitVec 256) : State :=
  let n := w.toNat
  let lap := nbits n 0 48
  let e := (nbits n 48 17, nbits n 82 32)
  let s := trkControl s 4 w
  let open' := (lap == s.lap.num && decide (s.lap.phase = .issuing)) || (lap + 1 == s.lap.num && decide (s.lap.phase = .marked))
  if !recordOk s w || !open' then s
  else { s with link := { s.link with declined := s.link.declined.filter (fun d => d != e) ++ [e] } }

def execDecline (w : BitVec 256) (s : State) : Host.Outcome State Fault Refusal := .next (declineIn s w)

/-! ## Refusals (R338, R436, R454, R465) -/

/-- End the transfer of a segment that failed on its way: BUS_ERROR or TRANSLATION, on the side of the other part, at the byte
that the segment begins with (R338). -/
def failSegment (s : State) (x : SegOut) (kind : Nat) : State :=
  match (getChan s x.eng x.chan).desc with
  | none => { s with link := { s.link with segs := s.link.segs.erase x } }
  | some w =>
    let write := decide (dDstSpace w ≠ 0)
    let v := if write then dDst w else dSrc w
    failTransfer s x.eng x.chan w kind (b2n write) (nbits v 0 48 + x.pos) (if write then dDstSpace w else dSrcSpace w) x.pos

/-- NO_ROUTE: the segment's transfer ends with BUS_ERROR (no path, saturated signal) or TRANSLATION (a refusal); without a
path its destination is unreachable. A relay, restore or push whose segment was refused fails (R304, R530, R536). -/
def noRoute (s : State) (w : BitVec 256) : State :=
  let n := w.toNat
  let dst := nbits n 82 17
  let seg := nbits n 99 12
  let reason := nbits n 111 3
  let s := trkControl s 5 w
  if !recordOk s w then s
  else
    let kind := if reason ≤ 1 ∨ reason = 5 then 1 else 2
    let t := match s.link.segs.find? (fun x => x.seg == seg && x.dst == dst) with
      | some x => failSegment s x kind
      | none =>
        match s.snap.pushed.find? fun x => x.1 == seg && x.2.1 == dst with
        | some x => snapFail { s with snap := { s.snap with pushed := s.snap.pushed.filter fun y => y.2.2 != x.2.2 } } 2 x.2.2
        | none =>
        if dst = snapPartner s ∧ snapState s = 2 then snapFail s 0 s.snap.seq
        else if dst = snapPartner s ∧ snapState s = 3 then snapFail s 1 s.snap.seq
        else s
    if reason ≤ 1 then partnerLost t dst else t

def execNoRoute (w : BitVec 256) (s : State) : Host.Outcome State Fault Refusal := .next (noRoute s w)

/-! ## Probes (R465) -/

/-- A PROBE or PROBE_REPLY record. -/
def probeRec (s : State) (lap dst stamp turnaround : Nat) : BitVec 256 :=
  sealRec (lap % 2 ^ 48 + selfId s * 2 ^ 48 + dst * 2 ^ 65 + stamp % 2 ^ 64 * 2 ^ 82 + turnaround % 2 ^ 64 * 2 ^ 146)

/-- PROBE: answered with the sender's timestamp and this part's turnaround. -/
def probeIn (s : State) (w : BitVec 256) (turnaround : Nat) : State :=
  let n := w.toNat
  let s := trkControl s 6 w
  if recordOk s w then sendControl s (nbits n 48 17) 7 (probeRec s (nbits n 0 48) (nbits n 48 17) (nbits n 82 64) turnaround) else s

def execProbe (w : BitVec 256) (turnaroundPs : Nat) (s : State) : Host.Outcome State Fault Refusal := .next (probeIn s w turnaroundPs)

/-- PROBE_REPLY: the one-way vote latency is half the round trip less the replier's turnaround. -/
def probeReply (s : State) (w : BitVec 256) (now : Nat) : State :=
  let n := w.toNat
  let src := nbits n 48 17
  let s := trkControl s 7 w
  if !recordOk s w then s
  else { s with link := { s.link with
    latency := tabSet 0 s.link.latency src ((now - nbits n 82 64 - nbits n 146 64) / 2), unanswered := tabSet 0 s.link.unanswered src 0 } }

def execProbeReply (w : BitVec 256) (nowPs : Nat) (s : State) : Host.Outcome State Fault Refusal := .next (probeReply s w nowPs)

/-- Current exchange partners: peers that an open graph's exchange declarations name. -/
def partners (s : State) : List Nat :=
  ((s.graphs.flatMap fun g => g.bufs.flatMap fun l => (l.filter fun b => b.scope == 3).map (·.peer)).filter
    fun p => p != selfId s && !hasNat s.lap.lost p).foldl insNat []

/-- PROBE_INTERVAL: every 64 laps; a partner that left three in a row unanswered is unreachable. -/
def probeInterval (s : State) (now : Nat) : State :=
  if !inService s || decide (s.lap.num < s.link.probeLap + 64) then s
  else
    let ps := partners s
    let s := { s with link := { s.link with probeLap := s.lap.num } }
    ps.foldl (fun s p =>
      let n := tabGet 0 s.link.unanswered p
      if 3 ≤ n then partnerLost s p
      else
        let s := { s with link := { s.link with unanswered := tabSet 0 s.link.unanswered p (n + 1) } }
        sendControl s p 6 (probeRec s s.lap.num p now 0)) s

def execProbeInterval (nowPs : Nat) (s : State) : Host.Outcome State Fault Refusal := .next (probeInterval s nowPs)

end Sys2Proof.Machine
end

