-- ==== Sys2Proof/Machine/Ports.lean ====
section
/-! DEFINITION. Drivezar ports: acknowledgement and resend (R457), degradation and training (R459, R460), forwarding (R462 to
R464); lap markers, acquisition, grandmasters and the lap reference (R44, R45, R466 to R470, R575, R592). -/

namespace Sys2Proof.Machine

/-! ## Ports that go DOWN -/

def portPresent (s : State) (p : Nat) : Bool := decide (p < 4 * nRegions s) && regionAlive s (p / 4)

/-- A port with a deadbolted lane stays DOWN (R505). -/
def portCut (s : State) (p : Nat) : Bool := s.part.lanesDead.any fun l => l / 8 == p

/-- Segments among the flits of a port, as source, destination and SEG. -/
def portSegs (s : State) (p : Nat) : List (Nat × Nat × Nat) :=
  let x := getPort s p
  ((x.replay ++ x.tx).filter fun e => e.2.ftype == 1 || e.2.ftype == 2).foldl
    (fun l e => if l.any (fun x => x == (e.2.src, e.2.dst, e.2.seg)) then l else l ++ [(e.2.src, e.2.dst, e.2.seg)]) []

/-- Take a port DOWN: its unacknowledged segments end with BUS_ERROR at their senders (R459), those that the part only forwards
by a NO_ROUTE record, which the sender takes for that (DEDUCED, assumption 104). -/
def downPort (s : State) (p : Nat) : State :=
  let segs := portSegs s p
  let due := s.link.segs.filter fun g => segs.any fun e => e == (selfId s, g.dst, g.seg)
  let others := segs.filter fun e => e.1 != selfId s
  let s := setPort s p { getPort s p with tx := [], replay := [], seq := 0, fails := 0, echoes := [] }
  let s := { s with link := { s.link with paths := s.link.paths.filter fun e => e.2.2.2 != p } }
  let s := pput (pput s fDZL_PORT_STATUS_STATE p 0) fDZL_PORT_STATUS_WIDTH p 0
  others.foldl (fun s e => sendControl s e.1 5 (noRouteRec s e.1 e.2.1 e.2.2 0)) (due.foldl (fun s g => failSegment s g 1) s)

/-- DOWN by a failure of R459, with its record. -/
def failPort (s : State) (p : Nat) : State :=
  let s := downPort s p
  errRegion s (p / 4) (errRecord s 5 2 0x0F (p * 8) 5 0 0)

/-! ## Training (R449, R460) -/

/-- Start full training on all 8 lanes: SEQ starts over, so nothing unacknowledged is kept. -/
def startTraining (s : State) (p : Nat) : State :=
  if portCut s p then s
  else pput (updPort (downPort s p) p fun x => { x with badLanes := 0 }) fDZL_PORT_STATUS_STATE p 1

/-- DZL_PORT_ENABLE: enabling trains a port that is DOWN; disabling takes it DOWN. The configuration image names ports that train once
SERVICE is 1 (R575). -/
def portEnable (s : State) (p : Nat) (on : Bool) : State :=
  if !portPresent s p then s
  else
    let s := pput s fDZL_PORT_CFG_ENABLE p (b2n on)
    if !on then downPort s p
    else if fget s fPART_BOOT_STATUS_PHASE 0 0 = 3 then s
    else if portState s p = 0 then startTraining s p else s

def execDzlPortEnable (port : Nat) (enable : Bool) (s : State) : Host.Outcome State Fault Refusal := .next (portEnable s port enable)

/-- RETRAIN (DZL_PORT_CTRL): full training of an enabled port. -/
def retrainPort (s : State) (p : Nat) : State :=
  if portPresent s p && pget s fDZL_PORT_CFG_ENABLE p == 1 then startTraining s p else s

def execRetrain (port : Nat) (s : State) : Host.Outcome State Fault Refusal := .next (retrainPort s port)

/-- Lanes good at both ends that have not failed. -/
def goodLanes (s : State) (p lanes : Nat) : List Nat :=
  (rangeFrom 0 8).filter fun i => nbit lanes i && !nbit (getPort s p).badLanes i

/-- Width of a number of good lanes (R448, R459). -/
def widthOf (n : Nat) : Nat := if 8 ≤ n then 8 else if n = 7 then 7 else if n = 6 then 6 else if 4 ≤ n then 4 else 0

def laneMask (l : List Nat) : Nat := l.foldl (fun a i => a + 2 ^ i) 0

/-- One-way delay by the ECHO flits measured: half the median round trip less turnaround. -/
def echoDelay (x : Port) : Nat := (sortBy (fun a b => decide (a ≤ b)) x.echoes).getD (x.echoes.length / 2) 0 / 2

/-- ECHO: sent and measured during training, 256 times, and during a retrain, 16 times. -/
def echoIn (s : State) (p roundTrip turnaround : Nat) : State :=
  let st := portState s p
  if st = 1 ∨ st = 3 then
    let s := updPort (putFlit s p (getPort s p).seq (echoFlit s)) p fun x => { x with echoes := x.echoes ++ [roundTrip - turnaround] }
    if (getPort s p).echoes.length = (if st = 1 then 256 else 16) then
      pput s fDZL_PORT_DELAY_DELAY_PS p (min (echoDelay (getPort s p)) (2 ^ 20 - 1))
    else s
  else s

def execEcho (port roundTripPs turnaroundPs : Nat) (s : State) : Host.Outcome State Fault Refusal :=
  .next (echoIn s port roundTripPs turnaroundPs)

/-- TRAINING_COMPLETE: step 6; a link beyond 250 ns, or with fewer good lanes than MIN_WIDTH, goes DOWN. -/
def trainingDone (s : State) (p lanes farId farPort delay : Nat) : State :=
  if !portPresent s p || portState s p != 1 then s
  else
    let good := goodLanes s p lanes
    let delay := if 256 ≤ (getPort s p).echoes.length then echoDelay (getPort s p) else delay
    let s := pput s fDZL_PORT_DELAY_DELAY_PS p (min delay (2 ^ 20 - 1))
    let s := pput s fDZL_PORT_STATUS_LANES_GOOD p (laneMask good)
    let s := pput (pput s fDZL_PORT_FAR_FAR_ID p farId) fDZL_PORT_FAR_FAR_PORT p farPort
    let s := pput s fDZL_PORT_STATUS_BOUNDARY p (b2n (farId != 0x1FFFF && domainOf farId != domainOf (selfId s)))
    let w := widthOf good.length
    if 250000 < delay ∨ good.length < pget s fDZL_PORT_CFG_MIN_WIDTH p ∨ w = 0 then downPort s p
    else
      let s := updPort s p fun x => { x with seq := 0, fails := 0, echoes := [] }
      pput (pput s fDZL_PORT_STATUS_WIDTH p w) fDZL_PORT_STATUS_STATE p 2

def execTrainingComplete (port lanesGood farId farPort delayPs : Nat) (s : State) : Host.Outcome State Fault Refusal :=
  .next (trainingDone s port lanesGood farId farPort delayPs)

/-- TRAINING_TIMEOUT: a port that has not reached step 6 goes DOWN. -/
def trainingTimeout (s : State) (p : Nat) : State := if portState s p = 1 then downPort s p else s

def execTrainingTimeout (port : Nat) (s : State) : Host.Outcome State Fault Refusal := .next (trainingTimeout s port)

/-! ## Lane failures (R459) -/

/-- LANE_FAILURE: the port stops and retrains; during a retrain it starts over, and the second attempt that fails takes the
port DOWN. -/
def laneFailure (s : State) (p lane : Nat) : State :=
  let st := portState s p
  if !portPresent s p || 8 ≤ lane || !(st == 2 || st == 3) then s
  else
    let s := updPort s p fun x => { x with badLanes := putBits x.badLanes lane 1 1, fails := if st = 3 then x.fails + 1 else 0, echoes := [] }
    let s := pput s fDZL_PORT_STATUS_LANES_GOOD p (putBits (pget s fDZL_PORT_STATUS_LANES_GOOD p) lane 1 0)
    if st = 2 then pbump (pput s fDZL_PORT_STATUS_STATE p 3) fDZL_PORT_STATUS_RETRAINS p 1
    else if 2 ≤ (getPort s p).fails then failPort s p
    else s

def execLaneFailure (port lane : Nat) (s : State) : Host.Outcome State Fault Refusal := .next (laneFailure s port lane)

/-- Send the unacknowledged flits again in their order (R457). -/
def resendAll (s : State) (p : Nat) : State :=
  (getPort s p).replay.foldl (fun s e => putFlit s p e.1 e.2) s

/-- RETRAIN_COMPLETE: UP at the width that the good lanes give, and resend; or DOWN. -/
def retrainDone (s : State) (p lanes : Nat) : State :=
  if !portPresent s p || portState s p != 3 then s
  else
    let good := goodLanes s p lanes
    let w := widthOf good.length
    let old := pget s fDZL_PORT_STATUS_WIDTH p
    let s := pput s fDZL_PORT_STATUS_LANES_GOOD p (laneMask good)
    if good.length < pget s fDZL_PORT_CFG_MIN_WIDTH p ∨ w = 0 then failPort s p
    else
      let unit := p * 8 + (lowestBit (getPort s p).badLanes 0 8).getD 0
      let s := updPort s p fun x => { x with fails := 0, echoes := [] }
      let s := pput (pput s fDZL_PORT_STATUS_WIDTH p w) fDZL_PORT_STATUS_STATE p 2
      let s := errRegion s (p / 4) (if w < old then errRecord s 5 2 0x0E unit 5 3 w
        else errRecord s 5 2 0x20 unit 5 0 (pget s fDZL_PORT_STATUS_RETRAINS p))
      pumpAll (resendAll s p) p

def execRetrainComplete (port lanesGood : Nat) (s : State) : Host.Outcome State Fault Refusal := .next (retrainDone s port lanesGood)

/-! ## Acknowledgement (R457) -/

/-- Entries of the replay buffer after one SEQ. -/
def dropAcked (ack : Nat) : List (Nat × Flit) → Option (List (Nat × Flit))
  | [] => none
  | e :: t => if e.1 = ack then some t else dropAcked ack t

/-- Free the entries up to ACK. -/
def ackTo (s : State) (p ack : Nat) : State :=
  match dropAcked ack (getPort s p).replay with
  | some l => updPort s p fun x => { x with replay := l }
  | none => s

/-- IDLE: ACK frees entries, and a blocked sender sends again. -/
def idleIn (s : State) (p ack : Nat) : State := pumpAll (ackTo s p ack) p

def execIdle (port ack : Nat) (s : State) : Host.Outcome State Fault Refusal := .next (idleIn s port ack)

/-- NAK: resend from ACK + 1 in the original order. -/
def nakIn (s : State) (p ack : Nat) : State :=
  if !portUp s p then s else pumpAll (resendAll (pbump (ackTo s p ack) fDZL_PORT_ERR_RETRIES p 1) p) p

def execNak (port ack : Nat) (s : State) : Host.Outcome State Fault Refusal := .next (nakIn s port ack)

/-- FLIT_CRC_FAILURE: the receiver discards from that flit on, and sets NAK in the next outbound flit with the SEQ of the last
flit in order. All that may go has gone, so that flit is an IDLE, and it goes at once. A flit discarded before the resend is no row,
so each row is a failure that asks for a resend of its own (assumption 48). -/
def crcFailure (s : State) (p good : Nat) : State :=
  if !portUp s p then s else emit s (.flit p (flitBytes (getPort s p).seq good true idleFlit))

def execFlitCrcFailure (port : BadFlit) (s : State) : Host.Outcome State Fault Refusal := .next (crcFailure s port.port port.good)

/-! ## FORWARD (R462 to R464) -/

def pathKey (f : Flit) : Nat × Nat × Nat := (f.src, f.dst, f.seg)

/-- The port that a flit leaves by: its segment's path, or a new choice at a HEAD and for a flit that has no segment. -/
def forwardPort (s : State) (r : Nat) (f : Flit) : Option Nat :=
  if f.ftype = 2 then (s.link.paths.find? fun e => (e.1, e.2.1, e.2.2.1) == pathKey f).map (·.2.2.2)
  else choosePort s f.cls (routePorts s r f.dst)

/-- Keep or end the path of a flit's segment. -/
def notePath (s : State) (f : Flit) (p : Nat) : State :=
  if f.ftype ≠ 1 ∧ f.ftype ≠ 2 then s
  else
    let others := s.link.paths.filter fun e => (e.1, e.2.1, e.2.2.1) != pathKey f
    { s with link := { s.link with paths := if f.last then others else others ++ [(f.src, f.dst, f.seg, p)] } }

/-- FORWARD: one more hop, then the port; without one, or past 63 hops, the flit is dropped and its source told. A DATA flit
whose HEAD was dropped is dropped with it. Only HEAD, DATA and CONTROL flits have a route: the others stay on their link, and the
reserved types name no flit (R451). -/
def forwardFlit (s : State) (r : Nat) (f : Flit) : State :=
  if f.dst = selfId s ∨ regionAlive s r = false ∨ f.ftype = 0 ∨ 3 < f.ftype then s
  else
    let tell := fun (reason : Nat) => sendControl s f.src 5 (noRouteRec s f.src f.dst f.seg reason)
    if 63 ≤ f.hops then (if f.ftype = 2 then s else tell 1)
    else match forwardPort s r f with
      | some p => portSend (notePath s f p) p 0 [{ f with hops := f.hops + 1 }]
      | none => if f.ftype = 2 then s else tell 0

def execForward (r : Nat) (f : Flit) (s : State) : Host.Outcome State Fault Refusal := .next (forwardFlit s r f)

/-! ## Markers -/

/-- Arrival less delay and residence: the grandmaster's mark against the receiver's own (R467). -/
def markOf (s : State) (p : Nat) (m : Marker) : Int := m.arrivalPs - (pget s fDZL_PORT_DELAY_DELAY_PS p : Nat) - (m.residencePs : Nat)

def candOf (s : State) (p : Nat) (m : Marker) : MarkCand := ⟨p, m.lap, m.depth, m.gmId, m.gmRank, markOf s p m⟩

/-- Set PERIOD_MISMATCH and report it (R44, R498). -/
def periodMismatch (s : State) : State :=
  if fget s fPART_LAP_STATUS_PERIOD_MISMATCH 0 0 = 1 then s else raiseTimebase (fput s fPART_LAP_STATUS_PERIOD_MISMATCH 0 0 1)

/-- Acquisition (R468): the second marker of a port, within 1 µs of a period after the first, opens lap service. -/
def acquire (s : State) (p : Nat) (m : Marker) : State :=
  let c := candOf s p m
  match s.link.cand with
  | none => { s with link := { s.link with cand := some c } }
  | some a =>
    if a.port ≠ p ∧ portUp s a.port = true then s
    else if a.port = p ∧ m.lap = a.lap + 1 ∧ (c.markPs - a.markPs).natAbs ≤ 1000000 then
      if 20 ≤ m.depth then depthExceeded { s with link := { s.link with cand := none } }
      else enterService { s with link := { s.link with
        cand := none, upstream := some p, depth := m.depth + 1, gm := some (m.gmId, m.gmRank), marks := [], activeGm := false } } m.lap
    else { s with link := { s.link with cand := some c } }

/-- A valid marker: kept for the choice of the upstream at the next mark; the upstream's places that mark, and holdover
ends. -/
def takeMarker (s : State) (p : Nat) (m : Marker) : State :=
  let c := candOf s p m
  let s := { s with link := { s.link with marks := s.link.marks.filter (fun x => x.port != p) ++ [c] } }
  let s := updLap s fun l => { l with holdover := 0 }
  if s.link.upstream = some p ∨ s.link.upstream = none then { s with link := { s.link with markAdjust := c.markPs } } else s

/-- A marker of the deepest allowed depth, which puts its receiver past depth 20: it is invalid, and where no valid one comes the next lap
mark reports it (R467, R469). -/
def tooDeep (s : State) : State := { s with link := { s.link with deep := true } }

/-- A grandmaster that hears one of a lower (rank, ID) pair stands down (R470). -/
def standDown (s : State) (p : Nat) (m : Marker) : State :=
  let me := s.link.gm.getD (selfId s, 0)
  if m.gmRank < me.2 ∨ (m.gmRank = me.2 ∧ m.gmId < me.1) then
    takeMarker { s with link := { s.link with
      activeGm := false, stoodDown := true, gmHoldover := false, gm := some (m.gmId, m.gmRank), upstream := some p, depth := m.depth + 1 } } p m
  else s

/-- MARKER (R467, R468). A part with GRANDMASTER set that hears another grandmaster as it comes back follows it (R470). -/
def markerIn (s : State) (p : Nat) (m : Marker) : State :=
  if !portUp s p || pget s fDZL_PORT_CFG_MARKER_OK p == 0 then s
  else
    if domainOf m.gmId ≠ domainOf (selfId s) then s
    else if m.periodUs ≠ periodUs s then periodMismatch s
    else if !inService s then
      (if awaitsService s then acquire { s with link := { s.link with stoodDown := s.link.stoodDown || isMaster s } } p m else s)
    else if 1000000 < m.arrivalPs.natAbs ∨ m.lap ≠ (if m.arrivalPs < 0 then s.lap.num + 1 else s.lap.num) then s
    else if s.link.activeGm then (if m.gmId = selfId s ∨ 20 ≤ m.depth then s else standDown s p m)
    else if 20 ≤ m.depth then tooDeep s
    else takeMarker s p m

def execMarker (port : Nat) (m : Marker) (s : State) : Host.Outcome State Fault Refusal := .next (markerIn s port m)

/-! ## Grandmasters (R470, R592) -/

/-- GRANDMASTER_TAKEOVER: a backup with a connected lap-reference input, in holdover lap 2 + RANK without a valid marker, sends
the next mark's markers as grandmaster. -/
def takeover (s : State) : State :=
  let rank := fget s fPART_LAP_BACKUP_RANK 0 0
  if !inService s || s.link.activeGm || !s.pins.lapRef || decide (rank = 0) || decide (s.lap.holdover < 2 + rank) || !s.link.marks.isEmpty then s
  else
    let s := updLap s fun l => { l with holdover := 0 }
    { s with link := { s.link with activeGm := true, stoodDown := false, gm := some (selfId s, rank), depth := 0, upstream := none } }

def execGrandmasterTakeover (s : State) : Host.Outcome State Fault Refusal := .next (takeover s)

/-- LAP_REF_EDGE: opens lap service on a grandmaster that waits for it; in service an edge within 1 µs is taken and moves
the next mark by at most 10 ns. An edge shows that the input is connected (DEDUCED, assumption 105). -/
def lapRefEdge (s : State) (offset : Int) : State :=
  let s := { s with pins := { s.pins with lapRef := true } }
  if !isMaster s then s
  else if awaitsService s then
    enterService { s with link := { s.link with
      activeGm := true, gm := some (selfId s, 0), depth := 0, upstream := none, marks := [], cand := none,
      edgeTaken := true, edgeMisses := 0, gmHoldover := false, markAdjust := 0 } } (bootLap s)
  else if !inService s || !s.link.activeGm || decide (1000000 < offset.natAbs) then s
  else { s with link := { s.link with
    edgeTaken := true, edgeMisses := 0, gmHoldover := false, markAdjust := max (-10000) (min 10000 offset) } }

def execLapRefEdge (offsetPs : Int) (s : State) : Host.Outcome State Fault Refusal := .next (lapRefEdge s offsetPs)

/-- LAP_REF_HOLDOVER: after two laps in a row without a taken edge. -/
def lapRefHoldover (s : State) : State :=
  if isMaster s && inService s && s.link.activeGm && decide (2 ≤ s.link.edgeMisses) && !s.link.gmHoldover then
    raiseTimebase { s with link := { s.link with gmHoldover := true } }
  else s

def execLapRefHoldover (s : State) : Host.Outcome State Fault Refusal := .next (lapRefHoldover s)

end Sys2Proof.Machine
end

