-- ==== Sys2Proof/Machine/Faults.lean ====
section
/-! DEFINITION. Liveness (R502), self-test (R503), deadbolts (R504, R505), region failure (R515) and region reset (R519), error
queues (R508, R522), bridges (R24, R40), pins and sensors (R98, R590, R591, R606). -/

namespace Sys2Proof.Machine

/-! ## Deadbolts -/

/-- The part manager deadbolts a region and reports it (R515); a new manager is elected first where it held the role. -/
def regionFailed (s : State) (r : Nat) : State :=
  if isCut s 2 r then s else regionOut fence s r none

/-- Whether a unit of a kind exists on this part: not absent and not fused off (R505). -/
def unitPresent (s : State) (kind unit : Nat) : Bool :=
  match kind with
  | 0 => corePresent s unit
  | 1 => decide (unit < 8 * nRegions s)
  | 2 => regionPresent s unit
  | 3 => decide (unit < 2 * nRegions s)
  | 4 => decide (unit < 4 * nRegions s)
  | 5 => decide (unit < 32 * nRegions s)
  | _ => false

/-- Region of a unit of a kind. -/
def kindRegion (kind unit : Nat) : Nat :=
  match kind with
  | 0 => unit / 64
  | 1 => unit / 8
  | 2 => unit
  | 3 => unit / 2
  | 4 => unit / 4
  | _ => unit / 32

/-- Whether a unit is already behind a deadbolt. -/
def alreadyCut (s : State) (kind unit : Nat) : Bool := isCut s kind unit || !regionAlive s (kindRegion kind unit)

/-- The cut of a unit and what follows from it (R27, R28, R361, R459, R505, R513). A kind 5 unit takes its port DOWN. -/
def deadboltUnit (s : State) (detail kind unit : Nat) : State :=
  match kind with
  | 0 => fence s detail 0 unit
  | 1 => fenceBlock s detail unit
  | 2 => elect (fence s detail 2 unit)
  | 3 => loseEngine s detail unit
  | 4 =>
    let s := fence s detail 4 unit
    if (getRegion s (unit / 4)).ctlFailed = 15 then regionFailed s (unit / 4) else s
  | _ =>
    let s := fence s detail 5 unit
    if portState s (unit / 8) = 0 then s else failPort s (unit / 8)

/-- A deadbolt command (R505): rejected, or applied. -/
def deadboltCmd (s : State) (detail kind unit : Nat) : State :=
  if !unitPresent s kind unit || alreadyCut s kind unit then fput s fPART_DEADBOLT_STATUS_REJECTED 0 0 1
  else deadboltUnit s detail kind unit

def execDeadboltCmd (value : Word) (s : State) : Host.Outcome State Fault Refusal :=
  .next (deadboltCmd s byPart (nbits value.toNat 0 4) (nbits value.toNat 4 12))

/-- DEADBOLT_CUT_COMPLETE (R291): the oldest cut in progress is complete. -/
def cutComplete (s : State) : State :=
  match s.part.cutUnits with
  | [] => s
  | _ :: t => fput (updPart s fun p => { p with cutUnits := t }) fPART_DEADBOLT_STATUS_DONE 0 0 1

def execDeadboltCutComplete (s : State) : Host.Outcome State Fault Refusal := .next (cutComplete s)

/-! ## Liveness (R27, R502, R507) -/

/-- Key of a polled unit. -/
def pollKey : PolledUnit → Nat
  | .core c => c
  | .block b => 1024 + b
  | .region r => 2048 + r
  | .engine e => 3072 + e
  | .controlCore n => 4096 + n

/-- A unit that missed two polls in a row has failed. -/
def noResponse (s : State) (u : PolledUnit) : State :=
  match u with
  | .core c => fence (errBlock s (c / 8) (errRecord s 0 1 0x03 c 0 2 (getCore s c).seq.pc)) byBlock 0 c
  | .block b => fenceBlock (errRegion s (b / 8) (errRecord s 1 2 0x04 b 1 2 0)) byRegion b
  | .engine e => loseEngine s byRegion e
  | .region r => regionFailed s r
  | .controlCore n => deadboltUnit (errRegion s (n / 4) (errRecord s 0xF 2 0x0D n 4 2 0)) byRegion 4 n

/-- Whether a unit is watched: running cores and live blocks, engines, regions and control cores. -/
def watched (s : State) (u : PolledUnit) : Bool :=
  match u with
  | .core c => corePresent s c && !isCut s 0 c && coreRuns s c
  | .block b => unitPresent s 1 b && blockAlive s b
  | .engine e => unitPresent s 3 e && !alreadyCut s 3 e
  | .region r => regionAlive s r
  | .controlCore n => unitPresent s 4 n && !alreadyCut s 4 n

/-- Polls are for cores, blocks and engines; a control core's heartbeat and a region's are counted at each lap mark. -/
def beats (u : PolledUnit) : Bool :=
  match u with
  | .region _ => true
  | .controlCore _ => true
  | _ => false

/-- Count a miss; the second in a row is a failure. -/
def missOne (s : State) (u : PolledUnit) : State :=
  let k := pollKey u
  if beats u then
    let n := tabGet 0 s.part.missedBeats k + 1
    if 2 ≤ n then noResponse (updPart s fun p => { p with missedBeats := tabSet 0 p.missedBeats k 0 }) u
    else updPart s fun p => { p with missedBeats := tabSet 0 p.missedBeats k n }
  else
    let n := tabGet 0 s.part.missedPolls k + 1
    if 2 ≤ n then noResponse (updPart s fun p => { p with missedPolls := tabSet 0 p.missedPolls k 0 }) u
    else updPart s fun p => { p with missedPolls := tabSet 0 p.missedPolls k n }

/-- Sub-units of a block whose own check has failed: the scoreboard, the tumblers, hinge control and DMA control, from 0 on (R507). -/
def failedChecks (s : State) (b : Nat) : List Nat :=
  (rangeFrom 0 4).filter fun k => (getBlock s b).harm.any fun e => decide (harmKey (2 + k) 0 0 ≤ e.1 ∧ e.1 < harmKey (3 + k) 0 0)

/-- BLOCK_CHECK (R501, R507, R516): the region finds a failed check of a block when it polls it, and deadbolts the block (DESIGN
CHOICE, assumption 116). -/
def checkBlock (s : State) (u : PolledUnit) : State :=
  match u with
  | .block b =>
    match failedChecks s b with
    | [] => s
    | k :: _ => fenceBlock (errRegion s (b / 8) (errRecord s 1 2 0x05 b 1 2 (Config.subUnitCode k))) byRegion b
  | _ => s

/-- LIVENESS_POLL: an answer ends a row of misses, and shows a block's failed check. -/
def livenessPoll (s : State) (u : PolledUnit) (answered : Bool) : State :=
  if !watched s u then s
  else if answered then checkBlock (updPart s fun p => { p with
    missedPolls := tabSet 0 p.missedPolls (pollKey u) 0, missedBeats := tabSet 0 p.missedBeats (pollKey u) 0 }) u
  else missOne s u

def execLivenessPoll (u : PolledUnit) (answered : Bool) (s : State) : Host.Outcome State Fault Refusal :=
  .next (livenessPoll s u answered)

/-- HEARTBEAT_MISS: a control core or a region whose heartbeat is missing at a lap mark. -/
def heartbeatMiss (s : State) (u : PolledUnit) : State :=
  if beats u && watched s u && inService s then missOne s u else s

def execHeartbeatMiss (u : PolledUnit) (s : State) : Host.Outcome State Fault Refusal := .next (heartbeatMiss s u)

/-! ## Self-test (R503) -/

/-- SELF_TEST_COMPLETE: a quarantined core returns to service, or is deadbolted. -/
def selfTest (s : State) (c : Nat) (failing : Option Nat) : State :=
  if !(getCore s c).quarantined || isCut s 0 c || !corePresent s c then s
  else match failing with
    | none => updCore s c fun x => { x with quarantined := false }
    | some k => fence (errBlock s (c / 8) (errRecord s 0 1 0x02 c 0 2 k)) byBlock 0 c

def execSelfTestComplete (c : Nat) (failing : Option Nat) (s : State) : Host.Outcome State Fault Refusal := .next (selfTest s c failing)

/-! ## Error queues (R508, R522) -/

def popQ (q : ErrQ) : ErrQ := { q with recs := q.recs.drop 1, handling := decide (1 < q.recs.length) }

/-- The queue that a name names. -/
def queueOf (s : State) : QueueId → ErrQ
  | .blk b => (getBlock s b).errq
  | .rgn r => (getRegion s r).errq
  | .part => s.part.errq

/-- Change the queue that a name names. -/
def updQueue (s : State) (q : QueueId) (f : ErrQ → ErrQ) : State :=
  match q with
  | .blk b => updBlock s b fun x => { x with errq := f x.errq }
  | .rgn r => updRegion s r fun x => { x with errq := f x.errq }
  | .part => updPart s fun p => { p with errq := f p.errq }

/-- ERRQ_POP: on an empty queue, or on that of an absent or a deadbolted unit, nothing (R548). -/
def errqPop (s : State) (q : QueueId) : State :=
  let live := match q with
    | .blk b => blockAlive s b
    | .rgn r => regionAlive s r
    | .part => true
  if live && !(queueOf s q).recs.isEmpty then updQueue s q popQ else s

def execErrqPop (q : QueueId) (s : State) : Host.Outcome State Fault Refusal := .next (errqPop s q)

/-! ## Region reset (R519) -/

/-- Whether a register field belongs to what a region reset resets: its cores, blocks and DMA engines. -/
def resetField (r k : Nat) : Bool :=
  let sp := keySpace k
  let u := keyUnit k
  (sp == 4 && u / 64 == r) || (sp == 3 && u / 8 == r) || (sp == 2 && u == r && decide (0x300 ≤ keyOff k ∧ keyOff k < 0x400))

/-- A core after a region reset: its fence and what firmware holds of it stay. -/
def resetCore (c : Core) : Core :=
  { coreReset with quarantined := c.quarantined, deadbolted := c.deadbolted, lastHaltLap := c.lastHaltLap }

/-- Tumblers after a reset: who signalled each stays in its consumer record (R510). -/
def resetTums (t : Tab Tumbler) : Tab Tumbler := (t.map fun e => (e.1, { tumReset with sigs := e.2.sigs })).filter fun e => decide (e.2 ≠ tumReset)

/-- A block after a region reset; its open epochs expire at the next commit point (R380), and the consumer records of the lap stay for
its tasks' consumers (R510). -/
def resetBlock (b : Block) : Block :=
  { blockReset with deadbolted := b.deadbolted, epochs := b.epochs, tums := resetTums b.tums, llWriters := b.llWriters, tumSignallers := b.tumSignallers }

/-- Lap-local pages read zero; who wrote them in the lap stays in the consumer records (R510). -/
def clearLapLocalPages (x : Region) : Region :=
  let fs := (x.pt.filter fun e => e.2.valid && e.2.lapLocal).map fun e => e.2.frame
  { x with hbm := x.hbm.filter fun c => !hasNat fs (c.1 / 65536), llWritten := [] }

/-- Reset the region's cores, blocks, control cores, fabric and DMA engines; HBM and system frames are kept. -/
def resetRegion (s : State) (r : Nat) : State :=
  let cores := s.cores.map fun e => if !isSE e.1 && e.1 / 64 == r then (e.1, resetCore e.2) else e
  let blocks := s.blocks.map fun e => if e.1 / 8 == r then (e.1, resetBlock e.2) else e
  let s := { s with
    cores := cores.filter (fun e => decide (e.2 ≠ coreReset)), blocks := blocks.filter (fun e => decide (e.2 ≠ blockReset))
    flds := s.flds.filter (fun e => !resetField r e.1), shadows := s.shadows.filter (fun e => !resetField r e.1) }
  updRegion s r fun x => { clearLapLocalPages x with
    tums := resetTums x.tums, dma := [], ind := [], resend := [], resetting := true, readmit := false, rolledBack := false }

/-- PART_REGION_RESET: the region is deadbolted first. -/
def partRegionReset (s : State) (detail r : Nat) : State :=
  if !regionPresent s r || (getRegion s r).resetting then s
  else resetRegion (if isCut s 2 r then s else elect (fence s detail 2 r)) r

def execPartRegionReset (value : Word) (s : State) : Host.Outcome State Fault Refusal :=
  .next (if nbit value.toNat 3 then partRegionReset s byPart (nbits value.toNat 0 3) else s)

/-- REGION_RESET_COMPLETE: built-in test has ended; the region stays deadbolted until a rollback readmits it. -/
def resetComplete (s : State) (r : Nat) (passed : Bool) : State :=
  if !(getRegion s r).resetting then s
  else updRegion s r fun x => { x with resetting := false, builtInPassed := passed, readmit := passed }

def execRegionResetComplete (r : Nat) (passed : Bool) (s : State) : Host.Outcome State Fault Refusal := .next (resetComplete s r passed)

/-! ## Bridges (R20, R21, R24, R40) -/

/-- Whether a region reaches another over some bridge that is UP. -/
def reachesAny (s : State) (r : Nat) : Bool :=
  (rangeFrom 0 12).any fun b =>
    let e := bridgeEnds b
    bridgeState s b == 0 && ((e.1 == r && regionAlive s e.2) || (e.2 == r && regionAlive s e.1))

/-- Take a bridge out of service with a new STATE; regions that can then reach no other are deadbolted. R24 does not say what
becomes of two groups of regions that no bridge joins any more: neither is deadbolted, and what crosses between them ends as
over a failed path (DESIGN CHOICE, assumption 57). -/
def dropBridge (s : State) (b st : Nat) : State :=
  let s := fput (fput s fPART_BRIDGE_STATUS_STATE 0 b st) fPART_BRIDGE_STATUS_SERVICE_UP 0 b 0
  let cut := (rangeFrom 0 (nRegions s)).filter fun r => regionAlive s r && ((bridgeEnds b).1 == r || (bridgeEnds b).2 == r) && !reachesAny s r
  cut.foldl regionFailed s

/-- BRIDGE_FAILED: rerouted, counted and reported. -/
def bridgeFailed (s : State) (b : Nat) : State :=
  if 12 ≤ b ∨ bridgeState s b = 1 ∨ bridgeState s b = 3 then s
  else
    let s := fbump s fPART_BRIDGE_STATUS_FAILURES 0 b 1
    dropBridge (errPart s (errRecord s 2 3 0x10 b 7 6 0)) b 1

def execBridgeFailed (b : Nat) (s : State) : Host.Outcome State Fault Refusal := .next (bridgeFailed s b)

/-- BRIDGE_ENABLE: a write of PART_BRIDGE_CFG for the selected bridge; WRITE_REJECTED is one bit of the part (DESIGN CHOICE, assumption 117). -/
def bridgeEnable (s : State) (on : Bool) : State :=
  let b := fget s fPART_BRIDGE_IDX_BRIDGE 0 0
  let st := bridgeState s b
  if 12 ≤ b then s
  else if on && (st == 1 || st == 3) then fput s fPART_BRIDGE_STATUS_WRITE_REJECTED 0 0 1
  else
    let s := fput s fPART_BRIDGE_CFG_ENABLE 0 b (b2n on)
    if on then (if st = 2 then fput (fput s fPART_BRIDGE_STATUS_STATE 0 b 0) fPART_BRIDGE_STATUS_SERVICE_UP 0 b 1 else s)
    else if st = 0 then dropBridge s b 2 else s

def execBridgeEnable (value : Word) (s : State) : Host.Outcome State Fault Refusal := .next (bridgeEnable s (nbit value.toNat 0))

/-! ## Pins and sensors -/

/-- SENSOR_SAMPLE: the reading is kept for the next plan point; 115 °C or more trips the part (R591). -/
def sensorSample (s : State) (r i : Nat) (degrees : Int) : State :=
  if !regionPresent s r || 12 ≤ i then s
  else
    let s := updRegion s r fun x => { x with sensors := tabSet 0 x.sensors i degrees }
    if degrees < 115 then s
    else updPart { s with pins := { s.pins with thermtripN := false } } fun p => { p with thermTrip := true }

def execSensorSample (r i : Nat) (degrees : Int) (s : State) : Host.Outcome State Fault Refusal := .next (sensorSample s r i degrees)

/-- SHED_N and PACE_REQ change; they are sampled at plan points and lap marks (R98). -/
def execShedNChange (high : Bool) (s : State) : Host.Outcome State Fault Refusal := .next { s with pins := { s.pins with shedN := high } }
def execPaceReqChange (level : Nat) (s : State) : Host.Outcome State Fault Refusal := .next { s with pins := { s.pins with paceReq := level % 4 } }

/-- FLASH_PORT_READY (R499): a flash root port has trained and its device is ready. The one command stands for both, so STATE
goes from its reset value through UP to device ready in it (DESIGN CHOICE, assumption 101). -/
def flashReady (s : State) (port width rate : Nat) : State :=
  if port = 0 then
    fput (fput (fput s fPART_FLASH_STATUS_STATE0 0 0 3) fPART_FLASH_STATUS_WIDTH0 0 0 width) fPART_FLASH_STATUS_RATE0 0 0 rate
  else if port = 1 then
    fput (fput (fput s fPART_FLASH_STATUS_STATE1 0 0 3) fPART_FLASH_STATUS_WIDTH1 0 0 width) fPART_FLASH_STATUS_RATE1 0 0 rate
  else s

def execFlashPortReady (port width rate : Nat) (s : State) : Host.Outcome State Fault Refusal := .next (flashReady s port width rate)

end Sys2Proof.Machine
end

