-- ==== Sys2Proof/Machine/Access.lean ====
section
/-! DEFINITION. Where a register lies (R546, R549), which copy of it an access reaches (R554, R559), and what a read returns
(R10, R12, R13, R548): stored fields, and read-only fields that show state held elsewhere. -/

namespace Sys2Proof.Machine

/-! ## Where a register lies -/

/-- Space, unit and offset within the unit's space of an offset of R546; none in the reserved parts. -/
def regPlace (o : Nat) : Option (Space × Nat × Nat) :=
  if o < 0x10_0000 then some (.host, 0, o)
  else if o < 0x20_0000 then some (.part, 0, o - 0x10_0000)
  else if o < 0x28_0000 then some (.rgn, (o - 0x20_0000) / 0x1_0000, o % 0x1_0000)
  else if o < 0x30_0000 then none
  else if o < 0x40_0000 then some (.blk, (o - 0x30_0000) / 0x4000, o % 0x4000)
  else if o < 0x60_0000 then some (.core, (o - 0x40_0000) / 0x1000, o % 0x1000)
  else none

/-- Whether a unit's space is implemented (R546). -/
def spaceHere (s : State) (sp : Space) (u : Nat) : Bool :=
  match sp with
  | .host => true
  | .part => true
  | .rgn => regionPresent s u
  | .blk => regionPresent s (u / 8)
  | .core => corePresent s u
  | .se => regionPresent s (u / 2)
  | .dzl => regionPresent s u

/-- Whether the unit of a space is deadbolted (R548). -/
def spaceCut (s : State) (sp : Space) (u : Nat) : Bool :=
  match sp with
  | .host => false
  | .part => false
  | .rgn => isCut s 2 u
  | .blk => isCut s 1 u
  | .core => isCut s 0 u
  | .se => alreadyCut s 3 u
  | .dzl => isCut s 2 u

/-- Registers of the indirect pair, which each requester has a copy of (R554). -/
def isInd (sp : Space) (off : Nat) : Bool := sp == .rgn && decide (4 ≤ off ∧ off ≤ 0xC)

/-- Copy of a field that an access reaches: by the group's index register, or by requester for the indirect pair. -/
def selOf (s : State) (f : Fld) (u copy : Nat) : Nat :=
  match f.sel with
  | .one => if isInd f.space f.off then copy else 0
  | .bridge => fget s fPART_BRIDGE_IDX_BRIDGE 0 0
  | .cap => fget s fPART_CAP_IDX_INDEX 0 0
  | .dma => if f.space = .rgn then fget s fRGN_DMA_IDX_CHANNEL u 0 else fget s fBLK_DMA_IDX_CHANNEL u 0
  | .sb => fget s fBLK_SB_IDX_INDEX u 0
  | .route => fget s fRGN_DZL_ROUTE_IDX_MEMBER u 0
  | .port => fget s fDZL_PORT_IDX_PORT u 0
  | .ring => fget s fHOST_RING_IDX_RING 0 0 + 1024 * fget s fHOST_RING_IDX_SIDE 0 0

/-- A DZL_ register reaches a port only through the indirect pair of the port's region (R557). -/
def portHere (f : Fld) (u sel : Nat) : Bool := f.sel != .port || sel / 4 == u

/-! ## Read-only fields that show other state -/

def seqWord (c : Core) : Nat :=
  let q := c.seq
  let st := match q.st with | .idle => 0 | .loading => 1 | .running => 2 | .halted => 3
  st + q.pc % 2048 * 2 ^ 8 + q.loops.length % 16 * 2 ^ 19

/-- CORE_SEQ_STATUS (R150). -/
def coreStatus (c : Core) : Nat :=
  let q := c.seq
  seqWord c + b2n q.waitSb * 2 ^ 2 + b2n q.waitSum * 2 ^ 3 + b2n q.waitTum * 2 ^ 4 + b2n q.qFull * 2 ^ 5

/-- SE_STATUS but its stored fields (R364). -/
def seStatus (c : Core) (covering : Bool) : Nat :=
  seqWord c + b2n c.deadbolted * 2 ^ 2 + b2n covering * 2 ^ 3 + min 255 (c.checks.cs + c.checks.vec) * 2 ^ 24

/-- An x_ERRQ_STATUS (R522). -/
def errqStatus (q : ErrQ) : Nat := q.recs.length % 16 + b2n q.handling * 2 ^ 4 + b2n q.escalated * 2 ^ 5 + q.total % 65536 * 2 ^ 16

/-- Word i of the record at the head of a queue. -/
def errqWord (q : ErrQ) (i : Nat) : Nat := match q.recs with | r :: _ => nbits r (32 * i) 32 | [] => 0

/-- Words of an error-queue group: REC0 to REC7, STATUS. -/
def errqReg (q : ErrQ) (off : Nat) : Nat := if off < 0x20 then errqWord q (off / 4) else if off = 0x20 then errqStatus q else 0

/-- An epoch record (R381). -/
def epochWord (e : Epoch) : Nat :=
  e.graph % 2 ^ 32 + e.guard % 2 ^ 16 * 2 ^ 32 + e.epoch % 2 ^ 16 * 2 ^ 48 + e.firstLap % 2 ^ 48 * 2 ^ 64 + e.holdLaps % 16 * 2 ^ 112 +
    e.st % 4 * 2 ^ 116

def bitsWhere (p : Nat → Bool) (n : Nat) : Nat := (rangeFrom 0 n).foldl (fun a i => a + b2n (p i) * 2 ^ i) 0

/-- CORE_STM_STATE (R343). -/
def moverStates (c : Core) : Nat :=
  (rangeFrom 0 8).foldl (fun a m =>
    a + (match (getMv c m).st with | .unarmed => 0 | .armed => 1 | .running => 2 | .done => 3) * 2 ^ (2 * m)) 0

/-- Units of a kind that are cut. -/
def cutCount (s : State) (kind n : Nat) : Nat := ((rangeFrom 0 n).filter fun u => unitPresent s kind u && isCut s kind u).length

/-- PART_DEADBOLT_STATUS but its stored fields (R520). -/
def deadboltStatus (s : State) : Nat :=
  b2n (!s.part.cutUnits.isEmpty) + cutCount s 0 512 * 2 ^ 8 + cutCount s 1 64 * 2 ^ 18 + cutCount s 2 8 * 2 ^ 25

/-- Word WORD of measurement INDEX, zero before READY (R585). -/
def measWord (s : State) : Nat :=
  if fget s fPART_BOOT_STATUS_PHASE 0 0 = 4 then
    nbits (tabGet 0 s.boot.meas (fget s fPART_MEAS_IDX_INDEX 0 0)) (32 * fget s fPART_MEAS_IDX_WORD 0 0) 32
  else 0

/-- HOST_ registers. -/
def hostView (s : State) (off sel : Nat) : Nat := if off = 0x20 then ringIndex s sel % 65536 else 0

/-- Whether the current lap is a peak lap, and its E_budget in µJ (R112, R113): those of its plan from its lap mark to first
issue, and then those that first issue kept, since the next plan point comes within the lap. -/
def lapPlanned (s : State) : Bool := decide (s.lap.phase = .marked ∨ s.lap.phase = .committed)
def runningPeak (s : State) : Bool := if lapPlanned s then s.pacer.planPeak else nbit s.pacer.hdr 62
def runningBudget (s : State) : Nat := if lapPlanned s then min (s.pacer.budgetNj / 1000) (2 ^ 32 - 1) else nbits s.pacer.hdr 64 32

/-- PART_ registers. -/
def partView (s : State) (off : Nat) : Nat :=
  if off = 0x000 then s.part.manager.getD 0 % 8 * 2 ^ 5 else
  if off = 0x010 then if fget s fPART_CAP_IDX_INDEX 0 0 < 528 then capEntry s (fget s fPART_CAP_IDX_INDEX 0 0) % 2 ^ 21 else 0 else
  if off = 0x104 then b2n (inService s) + b2n (decide (0 < s.lap.holdover) || s.link.gmHoldover) * 2 else
  if off = 0x108 then s.lap.num % 2 ^ 32 else
  if off = 0x10C then s.lap.numHiLatch % 2 ^ 16 else
  if off = 0x110 then b2n s.link.activeGm * 2 ^ 4 + s.link.depth % 32 * 2 ^ 5 else
  if off = 0x204 then s.pins.paceReq % 4 + b2n (!s.pins.shedN) * 2 ^ 2 + b2n (runningPeak s) * 2 ^ 3 else
  if off = 0x208 then runningBudget s else
  if off = 0x510 then (s.ownPend.filter fun p => p.image.isNone).length % 8192 + min s.owners.length 255 * 2 ^ 16 else
  if off = 0x604 then b2n s.dump.busy else
  if off = 0x704 then deadboltStatus s else
  if off = 0xC0C then b2n ((rangeFrom 0 12).any fun b => bridgeState s b == 1 || bridgeState s b == 2) * 2 ^ 3 else
  if off = 0xD00 then b2n s.fuses.ownerDigest.isSome * 2 ^ 10 + s.fuses.rollbackFloor % 128 * 2 ^ 16 else
  if off = 0xD10 then s.fuses.serial.toNat % 2 ^ 32 else
  if off = 0xD14 then s.fuses.serial.toNat / 2 ^ 32 else
  if off = 0xD20 then measWord s else
  if 0x800 ≤ off ∧ off < 0x824 then errqReg s.part.errq (off - 0x800) else 0

/-- RGN_ registers. -/
def rgnView (s : State) (r off : Nat) : Nat :=
  let x := getRegion s r
  if off = 0x000 then b2n (inService s && regionAlive s r) * 2 ^ 8 + b2n x.deadbolted * 2 ^ 9 + b2n (s.part.manager == some r) * 2 ^ 10 else
  if off = 0x104 then (poolFree s r false + poolFree s r true) % 2 ^ 19 else
  if off = 0x10C then tabGet 0 s.fuses.standingW r % 4096 + tabGet 0 s.fuses.leak85W r % 4096 * 2 ^ 12 else
  if off = 0x20C then x.ptPend.length % 8192 + min x.foldQ.length 65535 * 2 ^ 16 else
  if off = 0x210 then poolFree s r false % 2 ^ 18 else
  if off = 0x214 then poolFree s r true % 2 ^ 18 else
  if off = 0x404 then nbits (tumRecord (tabGet tumReset x.tums (fget s fRGN_TUM_IDX_INDEX r 0))) 0 32 else
  if off = 0x408 then nbits (tumRecord (tabGet tumReset x.tums (fget s fRGN_TUM_IDX_INDEX r 0))) 32 32 else
  if off = 0x700 then bitsWhere (fun i => isCut s 0 (64 * r + i)) 32 else
  if off = 0x704 then bitsWhere (fun i => isCut s 0 (64 * r + 32 + i)) 32 else
  if off = 0x708 then bitsWhere (fun i => isCut s 1 (8 * r + i)) 8 + bitsWhere (fun i => isCut s 3 (2 * r + i)) 2 * 2 ^ 8 + x.ctlFailed % 16 * 2 ^ 10 +
      b2n (s.cores.any fun e => e.1 / 64 == r && !isSE e.1 && e.2.quarantined) * 2 ^ 14 else
  if 0x600 ≤ off ∧ off < 0x624 then errqReg x.errq (off - 0x600) else 0

/-- BLK_ registers. -/
def blkView (s : State) (b off : Nat) : Nat :=
  let x := getBlock s b
  let i := fget s fBLK_SB_IDX_INDEX b 0
  let tum := tabGet tumReset x.tums (fget s fBLK_TUM_IDX_INDEX b 0)
  if off = 0x000 then b2n (inService s && blockAlive s b) * 2 ^ 8 + b2n (isCut s 1 b) * 2 ^ 9 else
  if off = 0x104 then (getSb s b i).base % 2 ^ 18 + (getSb s b i).producer % 8 * 2 ^ 18 + (getSb s b i).consumers % 256 * 2 ^ 21 +
      b2n (getSb s b i).valid * 2 ^ 29 else
  if off = 0x108 then (getSb s b i).lines % 2 ^ 18 else
  if off = 0x10C then (getSb s b i).posted % 256 + sbReleased (getSb s b i) % 256 * 2 ^ 8 else
  if off = 0x204 then if fget s fBLK_BS_CONF_IDX_MASTER b 0 ≤ 67 then tabGet 0 x.conf (fget s fBLK_BS_CONF_IDX_MASTER b 0) % 2 ^ 32 else 0 else
  if off = 0x404 then nbits (tumRecord tum) 0 32 else
  if off = 0x408 then nbits (tumRecord tum) 32 32 else
  if off = 0x500 then b2n x.hingeRun.isSome + x.hingeQ.length % 32 * 2 else
  if off = 0x614 then (x.epochs.filter fun e => e.2.st == 1).length % 32 else
    if 0x604 ≤ off ∧ off < 0x614 then nbits (epochWord (tabGet epochReset x.epochs (fget s fBLK_SPEC_IDX_INDEX b 0))) (8 * (off - 0x604)) 32
    else if 0x700 ≤ off ∧ off < 0x724 then errqReg x.errq (off - 0x700) else 0

/-- CORE_ registers. A TREE field at the head of the reduction queue holds the tree (R216, R224: DEDUCED, assumption 83). -/
def coreView (s : State) (u off : Nat) : Nat :=
  let c := getCore s u
  if off = 0x000 then coreStatus c else
  if off = 0x084 then bitsWhere (fun i => (tabGet wslotReset c.slots i).st == .ready) 16 + b2n c.batch.isSome * 2 ^ 16 +
      c.checks.mtx % 256 * 2 ^ 24 else
  if off = 0x088 then tabGet 0 c.bp 0 % 256 + tabGet 0 c.bp 1 % 256 * 2 ^ 8 else
  if off = 0x100 then c.checks.vec % 256 + c.checks.sup % 256 * 2 ^ 8 + b2n c.row.isSome * 2 ^ 16 +
      b2n ((getFq c 4).head?.any fun f => rTree f.bits) * 2 ^ 17 else
  if off = 0x10C then b2n c.asmOpen + c.checks.rom % 256 * 2 ^ 8 else
  if off = 0x200 then c.checks.cs % 256 else
  if 0x204 ≤ off ∧ off < 0x230 then tabGet 0 c.conf ((off - 0x204) / 4) % 2 ^ 32 else
  if off = 0x1A4 then moverStates c else
  if 8 ≤ off ∧ off < 0x28 then nbits c.seq.haltRec (8 * (off - 8)) 32 else 0

/-- SE_ registers of engine e. -/
def seView (s : State) (e off : Nat) : Nat :=
  let c := getCore s (512 + e)
  if off = 4 then seStatus c (covers s e) else if 0xC ≤ off ∧ off < 0x2C then nbits c.seq.haltRec (8 * (off - 0xC)) 32 else 0

/-- DZL_ registers. -/
def dzlView (s : State) (r off : Nat) : Nat :=
  let p := fget s fDZL_PORT_IDX_PORT r 0
  if off = 8 ∧ p / 4 = r ∧ s.link.upstream = some p then 2 ^ 7 else 0

/-- What a register shows of state held elsewhere. -/
def regView (s : State) (sp : Space) (u off : Nat) : Nat :=
  match sp with
  | .host => hostView s off (fget s fHOST_RING_IDX_RING 0 0 + 1024 * fget s fHOST_RING_IDX_SIDE 0 0)
  | .part => partView s off
  | .rgn => rgnView s u off
  | .blk => blkView s u off
  | .core => coreView s u off
  | .se => seView s u off
  | .dzl => dzlView s u off

/-! ## A read -/

/-- Fields whose whole register is a view of state held elsewhere (R80, R585). -/
def viewField (f : Fld) : Bool := f = fPART_LAP_NUM_LO_LAP_LO ∨ f = fPART_MEAS_DATA_DATA

/-- What a field returns to a read: nothing where it is write-only (R10). -/
def fieldShown (s : State) (u copy : Nat) (f : Fld) : Nat :=
  let sel := selOf s f u copy
  if f.access = .wo ∨ viewField f = true ∨ portHere f u sel = false then 0 else fget s f u sel * 2 ^ f.lo

/-- Vote the fields that a read returns (R12). -/
def voteRead (u copy : Nat) (fs : List Fld) (s : State) : State :=
  fs.foldl (fun s f =>
    if f.voted then
      let k := fldKey f u (selOf s f u copy)
      voteField s k (tabGet (triOf (fldDefault s.fuses.grade f (selOf s f u copy))) s.flds k)
    else s) s

/-- A register without what reading it does: its stored fields and what it shows. -/
def regPeek (s : State) (sp : Space) (u off copy : Nat) : Nat :=
  match fieldsAt sp off with
  | none => 0
  | some fs => if spaceHere s sp u then (fs.map (fieldShown s u copy)).sum + regView s sp u off else 0

/-- LAP_NUM_LO_READ (R80): bits [47:32] are latched. -/
def latchLapHi (s : State) : State := updLap s fun l => { l with numHiLatch := l.num / 2 ^ 32 % 2 ^ 16 }

/-- MEAS_DATA_READ (R585): WORD advances by one. -/
def measAdvance (s : State) : State := fput s fPART_MEAS_IDX_WORD 0 0 (fget s fPART_MEAS_IDX_WORD 0 0 + 1)

/-- What the read of a register returns and does, but for IND_DATA (R80, R446, R585, R12). -/
def regRead (s : State) (sp : Space) (u off copy : Nat) : Nat × State :=
  let v := regPeek s sp u off copy
  if sp = .part ∧ off = 0x108 then (v, latchLapHi s)
  else if sp = .part ∧ off = 0x608 then dumpNext s
  else if sp = .part ∧ off = 0xD20 then (v, measAdvance s)
  else if spaceHere s sp u then (v, voteRead u copy ((fieldsAt sp off).getD []) s) else (v, s)

/-- LAP_NUM_LO_READ: answers bits [31:0] of the lap number. -/
def execLapNumLoRead (s : State) : Host.Outcome State Fault Refusal :=
  let r := regRead s .part 0 0x108 0
  .next (emit r.2 (.read 0 0 [r.1]))

/-- MEAS_DATA_READ. -/
def execMeasDataRead (s : State) : Host.Outcome State Fault Refusal :=
  let r := regRead s .part 0 0xD20 0
  .next (emit r.2 (.read 0 0 [r.1]))

end Sys2Proof.Machine
end

