-- ==== Sys2Proof/Machine/Registers.lean ====
section
/-! DEFINITION. Register writes, judged field by field (R10, R14 to R16, R547, R548, R550 to R553), and the indirect pair
(R554 to R558). -/

namespace Sys2Proof.Machine

/-! ## When a field may be written -/

/-- Whether a slot of the hosted relay area is being written (R545). -/
def relayRuns (s : State) : Bool := slotState s 0 == 1 || slotState s 1 == 1

/-- Whether the owning unit of a field runs (R14). The manual does not say whether a unit that runs in lap service runs from
the write of SERVICE = 1 or from the first lap mark: here it is the mark, when IN_SERVICE sets (DESIGN CHOICE, assumption
85). -/
def unitRuns (s : State) (f : Fld) (u sel : Nat) : Bool :=
  match f.space with
  | .host => if 0x14 ≤ f.off ∧ f.off ≤ 0x20 then ringOn s sel else !(ringsOn s).isEmpty
  | .part =>
    if f.off = 0x10 then (getCore s sel).task.isSome
    else if 0x400 ≤ f.off ∧ f.off < 0x500 then fget s fPART_LEDGER_CFG_ENABLE 0 0 == 1
    else if 0x900 ≤ f.off ∧ f.off < 0xA00 then snapState s != 0
    else if 0xA00 ≤ f.off ∧ f.off < 0xB00 then relayRuns s
    else if 0xB00 ≤ f.off ∧ f.off < 0xC00 then trkState s == 1
    else if 0xC00 ≤ f.off ∧ f.off < 0xD00 then bridgeState s sel == 0
    else inService s
  | .rgn =>
    if 0x300 ≤ f.off ∧ f.off < 0x400 then chState s (.rgn u) sel != 0
    else if f.off = 0x800 then trkState s == 1
    else inService s && regionAlive s u
  | .blk => if 0x300 ≤ f.off ∧ f.off < 0x400 then chState s (.blk u) sel != 0 else inService s && blockAlive s u
  | .core => (getCore s u).task.isSome
  | .se => (getCore s (512 + u)).task.isSome
  | .dzl => decide (2 ≤ portState s sel)

/-- The two fields of PART_LAP_CFG, judged together over the written word: a write that breaks only the bound between them
changes neither (R41, R550, DEDUCED, assumption 25). -/
def lapCfgOk (s : State) (f : Fld) (word : Nat) : Bool :=
  let p := nbits word fPART_LAP_CFG_PERIOD_US.lo fPART_LAP_CFG_PERIOD_US.width
  let w := nbits word fPART_LAP_CFG_COMMIT_WIN.lo fPART_LAP_CFG_COMMIT_WIN.width
  let pOk := decide (10 ≤ p ∧ p ≤ 2000)
  let wOk := decide (8 ≤ w ∧ w ≤ 200)
  let p' := if pOk then p else periodUs s
  let w' := if wOk then w else fget s fPART_LAP_CFG_COMMIT_WIN 0 0
  (if f = fPART_LAP_CFG_PERIOD_US then pOk else wOk) && decide (w' ≤ p')

/-- Whether a value lies in a field's range; the state is that after the fields below it in the word. -/
def fieldOk (s : State) (f : Fld) (u v : Nat) : Bool :=
  if f = fHOST_RING_CFG_SIZE_LOG2 then decide (4 ≤ v)
  else if f = fHOST_RING_CFG_TYPE then v != 3
  else if f = fHOST_BAR2_CFG_WINDOW then (match s.fuses.grade with | .iz4a => decide (v ≤ 7) | _ => true)
  else if f = fHOST_BAR2_CFG_HOST_FRAMES then v != 0
  else if f = fPART_CAP_IDX_INDEX then decide (v ≤ 527)
  else if f = fPART_BRIDGE_IDX_BRIDGE then decide (v ≤ 11)
  else if f = fPART_LAP_BACKUP_RANK then v != 15
  else if f = fPART_PACER_CFG_MARGIN_PCT then decide (v ≤ 50)
  else if f = fPART_PACER_CFG_SLEW_PCT then decide (1 ≤ v ∧ v ≤ 100)
  else if f = fPART_PACER_CFG_PLAN_LEAD_US then decide (2 ≤ v ∧ 2 * v ≤ periodUs s)
  else if f = fPART_PACER_LOG_CFG_SIZE_MIB then decide (16 ≤ v)
  else if f = fPART_OFFLOAD_CFG_OUT_MIB ∨ f = fPART_OFFLOAD_CFG_IN_MIB then v != 0
  else if f = fPART_LEDGER_CFG_RING_LOG2 then decide (4 ≤ v ∧ v ≤ 14)
  else if f = fPART_SNAP_CFG_RELAY_MIB then v != 0
  else if f = fPART_TRK_CFG_WINDOW_LAPS then decide (16 ≤ v ∧ v ≤ 256)
  else if f = fPART_MEAS_IDX_INDEX then decide (1 ≤ v ∧ v ≤ 6)
  else if f = fRGN_LAP_POOL_CFG_POOL_SIZE then decide (1 ≤ v ∧ v ≤ 32)
  else if f = fRGN_LAP_POOL_CFG_RESEND_SIZE then v != 0
  else if f = fRGN_THERM_CFG_THETA then decide (10 ≤ v ∧ v ≤ 1000)
  else if f = fRGN_HBM_CFG_RETIRE_CE ∨ f = fRGN_HBM_CFG_PC_FAIL_UE then v != 0
  else if f = fRGN_DMA_CFG_FW then false
  else if f = fRGN_DMA_CFG_RING_LOG2 ∨ f = fBLK_DMA_CFG_RING_LOG2 then decide (4 ≤ v ∧ v ≤ 12)
  else if f = fRGN_TRK_CFG_RING_GIB then decide (1 ≤ v ∧ v ≤ 64)
  else if f = fRGN_TRK_CFG_RETAIN then v != 0
  else if f = fBLK_SHADOW_CFG_SHADOW_SIZE then decide (1 ≤ v ∧ v ≤ 16)
  else if f = fCORE_MTX_CFG_BATCH_WINDOW then decide (1 ≤ v ∧ v ≤ 64)
  else if f = fCORE_MTX_CFG_BATCH_TIMEOUT then v != 0
  else if f = fSE_CFG_COVER_FACTOR then v != 0
  else if f = fDZL_PORT_CFG_MIN_WIDTH then v == 4 || v == 6 || v == 7 || v == 8
  else if f = fPART_CAP_ENTRY_OOS_UNITS then !isSE u || Nat.land v 0x79 == 0
  else true

/-- The WRITE_REJECTED bit named for a register, with its copy; none where the manual names none. That of PART_BRIDGE_STATUS is one
bit of the part and not one of each bridge (R40; DESIGN CHOICE, assumption 117). -/
def rejectBit (f : Fld) (u sel : Nat) : Option (Fld × Nat × Nat) :=
  match f.space with
  | .host => if 0x14 ≤ f.off ∧ f.off ≤ 0x20 then some (fHOST_RING_STATUS_WRITE_REJECTED, 0, sel) else some (fHOST_BAR_STATUS_WRITE_REJECTED, 0, 0)
  | .part =>
    if f.off = 4 ∨ f.off = 0x10 ∨ f.off = 0x20C then some (fPART_STATUS_WRITE_REJECTED, 0, 0)
    else if f.off = 0x100 then some (fPART_LAP_STATUS_WRITE_REJECTED, 0, 0)
    else if f.off = 0x110 then some (fPART_LAP_BACKUP_WRITE_REJECTED, 0, 0)
    else if f.off = 0x200 then some (fPART_PACER_STATUS_WRITE_REJECTED, 0, 0)
    else if f.off = 0x300 then some (fPART_OFFLOAD_STATUS_WRITE_REJECTED, 0, 0)
    else if f.off / 256 = 4 then some (fPART_LEDGER_STATUS_WRITE_REJECTED, 0, 0)
    else if f.off / 256 = 9 ∨ f.off / 256 = 0xA then some (fPART_SNAP_STATUS_WRITE_REJECTED, 0, 0)
    else if f.off / 256 = 0xB then some (fPART_TRK_STATUS_WRITE_REJECTED, 0, 0)
    else if f.off = 0xC08 then some (fPART_BRIDGE_STATUS_WRITE_REJECTED, 0, 0)
    else if f.off / 256 = 0xD then some (fPART_BOOT_STATUS_WRITE_REJECTED, 0, 0)
    else none
  | .rgn =>
    if f.off = 0x100 then some (fRGN_LAP_STATUS_WRITE_REJECTED, u, 0)
    else if f.off = 0x108 then some (fRGN_THERM_CFG_WRITE_REJECTED, u, 0)
    else if f.off / 256 = 2 then some (fRGN_HBM_STATUS_WRITE_REJECTED, u, 0)
    else if f.off / 256 = 3 then some (fRGN_DMA_STATUS_WRITE_REJECTED, u, sel)
    else if f.off = 0x800 then some (fPART_TRK_STATUS_WRITE_REJECTED, 0, 0)
    else none
  | .blk =>
    if f.off = 4 then some (fBLK_STATUS_WRITE_REJECTED, u, 0)
    else if f.off / 256 = 3 then some (fBLK_DMA_STATUS_WRITE_REJECTED, u, sel)
    else none
  | .core => some (fCORE_MTX_STATUS_WRITE_REJECTED, u, 0)
  | .se => some (fSE_STATUS_WRITE_REJECTED, u, 0)
  | .dzl => some (fDZL_PORT_STATUS_WRITE_REJECTED, u, sel)

/-- Refuse a field: it keeps its value and WRITE_REJECTED is set (R16, R550). -/
def rejectField (s : State) (f : Fld) (u sel : Nat) : State :=
  match rejectBit f u sel with
  | some (b, u, i) => fput s b u i 1
  | none => s

/-- Fields whose writes are operations of their own; regAct performs them. -/
def actField (f : Fld) : Bool :=
  f = fHOST_RING_CFG_ENABLE ∨ f = fPART_BRIDGE_CFG_ENABLE ∨ f = fPART_BOOT_CTRL_SERVICE ∨ f = fRGN_IND_DATA_DATA ∨
    f = fRGN_DMA_TAIL_TAIL ∨ f = fBLK_DMA_TAIL_TAIL ∨ f.sel = .sb ∨ f = fDZL_PORT_CFG_ENABLE

/-- Put an accepted value: into the shadow of a lap-applied field during lap service, at once otherwise (R14, R551). -/
def putField (s : State) (f : Fld) (u sel v : Nat) : State :=
  if f.kind = .lapApplied ∧ inService s = true then
    { s with shadows := tabSet none s.shadows (fldKey f u sel) (some (triOf (v % 2 ^ f.width))) }
  else fput s f u sel v

/-- One field of a written word; s0 is the part as the write arrives. The flag stays while nothing is rejected. -/
def writeField (s0 : State) (u copy value : Nat) (r : State × Bool) (f : Fld) : State × Bool :=
  let s := r.1
  let sel := selOf s f u copy
  let v := nbits value f.lo f.width
  if portHere f u sel = false then r
  else match f.access with
    | .ro => r
    | .wo => if f.space = .part ∧ 0x500 ≤ f.off ∧ f.off < 0x50C then (fput s f u sel v, r.2) else r
    | .w1c =>
      if f = fPART_ERRQ_STATUS_ESCALATED then (if v = 1 then updQueue s .part (fun q => { q with escalated := false }) else s, r.2)
      else if f = fRGN_ERRQ_STATUS_ESCALATED then (if v = 1 then updQueue s (.rgn u) (fun q => { q with escalated := false }) else s, r.2)
      else if f = fBLK_ERRQ_STATUS_ESCALATED then (if v = 1 then updQueue s (.blk u) (fun q => { q with escalated := false }) else s, r.2)
      else (if v = 1 then fput s f u sel 0 else s, r.2)
    | .mw =>
      let m := nbits value 16 16
      (fput s f u sel (Nat.land (fget s f u sel) (0xFFFF - m) + Nat.land v m), r.2)
    | .rw =>
      if actField f then r
      else if f = fHOST_RING_CFG_TYPE ∧ sel < 1024 then r
      else if (f.kind = .heldRunning ∧ unitRuns s0 f u sel = true) ∨ fieldOk s f (if f.sel = .cap then sel else u) v = false ∨
          ((f = fPART_LAP_CFG_PERIOD_US ∨ f = fPART_LAP_CFG_COMMIT_WIN) ∧ lapCfgOk s0 f value = false) then
        (rejectField s f u sel, false)
      else (putField s f u sel v, r.2)

/-! ## What a write does beyond its fields -/

/-- RING_ENABLE (R489, R497, R500): ENABLE changes; a 0 to 1 write takes HEAD, or PRODUCED, from the index array; a ring that is
disabled leaves no entry seen, its HEAD is written where it is due, and its reserved records drop. -/
def ringEnable (s : State) (sel : Nat) (on : Bool) : State :=
  if on && !ringOn s sel then
    let w := idxBase s + 8 * sel
    if hostOk s w 8 then
      let s := fput (hostFetch s w 8) fHOST_RING_CFG_ENABLE 0 sel 1
      setRingIndex s sel (leNat (hostRead s w 4))
    else ringFault s sel w false
  else if !on then
    let s := if hasNat s.host.headDue sel then writeHead s sel else s
    let s := if sel < 1024 then s else dropCpls s fun n => 1024 + n == sel
    updHost (fput s fHOST_RING_CFG_ENABLE 0 sel 0) fun x => { x with subQ := x.subQ.filter fun n => n != sel }
  else s

/-- Train the ports that the configuration enables and that are DOWN (R460, R575). -/
def enablePorts (s : State) : State :=
  (rangeFrom 0 32).foldl (fun s p => if pget s fDZL_PORT_CFG_ENABLE p = 1 then portEnable s p true else s) s

/-- SERVICE (R575, R579, R585): rejected before READY and at debug level 2; at 1 the configured ports are enabled. -/
def serviceWrite (s : State) (v : Nat) : State × Bool :=
  if fget s fPART_BOOT_STATUS_PHASE 0 0 ≠ 4 ∨ fget s fPART_BOOT_STATUS_DEBUG_LEVEL 0 0 = 2 then
    (fput s fPART_BOOT_STATUS_WRITE_REJECTED 0 0 1, false)
  else
    let s := if inService s then s else updLap s fun l => { l with plan := [], planned := false }
    let s := fput s fPART_BOOT_CTRL_SERVICE 0 0 v
    (if v = 1 then enablePorts s else s, true)

def execService (value : Word) (s : State) : Host.Outcome State Fault Refusal := .next (serviceWrite (driverWrite s 0x100D04 value.toNat) (nbits value.toNat 0 1)).1

/-- DMA_CTRL of the selected channel (R341). -/
def dmaCtrl (s : State) (e : DmaEng) (v : Nat) : State :=
  let s := if nbit v 0 then dmaResume s e else s
  if nbit v 1 then abortChan s e (selChan s e) else s

/-- Level of a requester in the DETAIL of EXTERNAL (R601): a write by firmware counts as that of region firmware, and one to a unit
of another region, which only the part manager's control core reaches (R34), as that of the part manager. -/
def whoLevel (who : Requester) (r : Nat) : Nat := match who with | .control k => if k = r then 2 else 3 | _ => 3

/-- The same for a deadbolt written by a requester; firmware that writes a part-level register counts as the part manager. -/
def whoDeadbolts (who : Requester) : Nat := match who with | .bar0 => byHost | .control _ => byPart | .sideband => byBoard | .bar4 => byHost

/-- PART_ registers whose writes are operations. A write of PART_LAP_CFG is one where it is taken: out of lap service (R78, R470). -/
def partAct (s : State) (who : Requester) (off v : Nat) : State :=
  if off = 0x50C then ownUpdate s v
  else if off = 0x100 then (if inService s then s else { s with link := { s.link with stoodDown := false } })
  else if off = 0x600 then (if nbit v 1 then dumpCancel (if nbit v 0 then dumpStart s else s) else if nbit v 0 then dumpStart s else s)
  else if off = 0x700 then deadboltCmd s (whoDeadbolts who) (nbits v 0 4) (nbits v 4 12)
  else if off = 0x708 then (if nbit v 3 then partRegionReset s (whoDeadbolts who) (nbits v 0 3) else s)
  else if off = 0x824 then (if nbit v 0 then errqPop s .part else s)
  else if off = 0x910 then snapRestore (snapRequest s v) v
  else if off = 0x928 then streamsLoad s v
  else if off = 0xA0C then snapPush s v
  else if off = 0xB00 then trkEnable s (nbit v 13)
  else if off = 0xB04 then
    let s := if nbit v 0 then trkTrigger s else s
    let s := if nbit v 1 then trkRelease s else s
    let s := if nbit v 2 then trkExport s else s
    if nbit v 3 then trkImport s else s
  else if off = 0xC08 then bridgeEnable s (nbit v 0)
  else s

/-- The rest of a write: operations of the register. The flag is false where one is rejected. -/
def regAct (s0 s : State) (who : Requester) (sp : Space) (u off v : Nat) : State × Bool :=
  match sp with
  | .host =>
    if off = 0x24 then (nudge s (nbits v 0 10), true)
    else if off = 0x1C then (ringEnable s (selOf s fHOST_RING_CFG_ENABLE 0 0) (nbit v 4), true)
    else (s, true)
  | .part =>
    if off = 0xD04 then serviceWrite s (nbits v 0 1)
    else
      let refused := decide (off = 0xC08) && nbit v 0 && (let st := bridgeState s0 (fget s0 fPART_BRIDGE_IDX_BRIDGE 0 0); st == 1 || st == 3)
      (partAct s who off v, !refused)
  | .rgn =>
    if off = 0x310 then (dmaTail s (.rgn u) (nbits v 0 12), true)
    else if off = 0x320 then (dmaCtrl s (.rgn u) v, true)
    else if off = 0x40C then (tumSet s true u v, true)
    else if off = 0x624 then (if nbit v 0 then errqPop s (.rgn u) else s, true)
    else (s, true)
  | .blk =>
    if off = 0x104 then (sbEntryWrite s u false v, !sbRejects s u (fget s fBLK_SB_IDX_INDEX u 0) false v)
    else if off = 0x108 then (sbEntryWrite s u true v, !sbRejects s u (fget s fBLK_SB_IDX_INDEX u 0) true v)
    else if off = 0x200 then (if nbit v 7 then bsConfClear s u else s, true)
    else if off = 0x310 then (dmaTail s (.blk u) (nbits v 0 12), true)
    else if off = 0x320 then (dmaCtrl s (.blk u) v, true)
    else if off = 0x40C then (tumSet s false u v, true)
    else if off = 0x724 then (if nbit v 0 then errqPop s (.blk u) else s, true)
    else (s, true)
  | .core =>
    if off = 4 then
      let s := if nbit v 0 then haltClear s u else s
      (if nbit v 1 then forceHalt s u (whoLevel who (unitRegion u)) (who == .bar0) else s, true)
    else if off = 0x1A0 then (oobClear s u (nbits v 0 8), true)
    else (s, true)
  | .se =>
    if off = 8 then
      let s := if nbit v 0 then haltClear s (512 + u) else s
      let s := if nbit v 1 then forceHalt s (512 + u) (whoLevel who (unitRegion (512 + u))) (who == .bar0) else s
      (if nbit v 2 then engineReset s u else s, true)
    else if off = 0 then (coverStarts s0 s, true)
    else (s, true)
  | .dzl =>
    let p := fget s fDZL_PORT_IDX_PORT u 0
    if p / 4 ≠ u then (s, true)
    else if off = 4 then (portEnable s p (nbit v 0), true)
    else if off = 0x18 then (if nbit v 0 then retrainPort s p else s, true)
    else (s, true)

/-- A write of a register other than IND_DATA: its fields, then its operations. Reserved and unimplemented places, and
those of a deadbolted unit, take nothing (R13, R548). -/
def regWrite (s : State) (who : Requester) (sp : Space) (u off v : Nat) : State × Bool :=
  match fieldsAt sp off with
  | none => (s, false)
  | some fs =>
    if spaceHere s sp u = false then (s, false)
    else if spaceCut s sp u then (s, true)
    else
      let r := fs.foldl (writeField s u (copyOf who) v) (s, true)
      let a := regAct s r.1 who sp u off v
      (a.1, r.2 && a.2)

/-! ## The indirect pair -/

/-- Words of a target; none where it is refused or absent (R554, R557). -/
def targetWords (s : State) (who : Requester) (r target : Nat) : Option Nat :=
  if target = 0 ∨ target = 1 then some (2 ^ 20)
  else if target = 2 then some 0x2000
  else if target = 6 ∨ target = 7 then some 12
  else if target = 8 ∨ target = 9 then
    if copyOf who = 1 ∧ flashRegion s (target - 8) = r then some (2 ^ 20) else none
  else if target = 0x10 then some 512
  else if target = 0x11 then some 65536
  else if target = 0x12 then some 2
  else if target = 0x13 then some (2 ^ 18)
  else none

def indTarget (s : State) (who : Requester) (r : Nat) : Nat := fget s fRGN_IND_ADDR_TARGET r (copyOf who)
def indOffset (s : State) (who : Requester) (r : Nat) : Nat := fget s fRGN_IND_ADDR_OFFSET r (copyOf who)
def getInd (s : State) (r copy : Nat) : IndCopy := tabGet indReset (getRegion s r).ind copy
def updInd (s : State) (r copy : Nat) (f : IndCopy → IndCopy) : State :=
  updRegion s r fun x => { x with ind := tabUpd indReset x.ind copy f }

/-- Set a bit of a copy's IND_STATUS. -/
def indFlag (s : State) (who : Requester) (r : Nat) (f : Fld) : State := fput s f r (copyOf who) 1

/-- Advance OFFSET by 4 bytes unless HOLD is 1, wrapping within the target's words (R556). -/
def indAdvance (s : State) (who : Requester) (r n : Nat) : State :=
  if fget s fRGN_IND_ADDR_HOLD r (copyOf who) = 1 then s
  else
    let o := indOffset s who r
    fput s fRGN_IND_ADDR_OFFSET r (copyOf who) (if n ≤ o + 1 then 0 else o + 1)

/-- Word of the frame map (R276, R557). -/
def frameMapWord (s : State) (r w : Nat) : Nat :=
  (rangeFrom 0 8).foldl (fun a i => a + frameState s r (8 * w + i) % 16 * 2 ^ (4 * i)) 0

/-- The word at a target and offset, with what reading it does. The contents of PT_PORT's word 1 are not stated: a free
value. -/
def indPeek (s : State) (who : Requester) (r target o : Nat) : Nat × State :=
  if target = 0 ∨ target = 1 then ((Config.phyWord r target o).toNat, s)
  else if target = 2 then (if 0x1000 ≤ o then ((Config.phyWord r target o).toNat, s) else regRead s .dzl r (4 * o) 0)
  else if target = 6 ∨ target = 7 then regRead s .se (2 * r + target - 6) (4 * o) 0
  else if target = 8 ∨ target = 9 then ((Config.flashWord r target o).toNat, s)
  else if target = 0x10 then (nbits (energyEntry s (o / 2)) (32 * (o % 2)) 32, s)
  else if target = 0x11 then (nbits (streamWord (tabGet rstreamReset (getRegion s r).streams (o / 8))) (32 * (o % 8)) 32, readSystem s r .streams)
  else if target = 0x12 then
    if o = 0 then ((getInd s r (copyOf who)).ptWord0, s) else (fun (t : Nat × State) => (t.1 % 2 ^ 32, t.2)) (drawFree s)
  else (frameMapWord s r o, readSystem s r .frameMap)

/-- IND_DATA_READ: a refused access reads zero and sets REFUSED. -/
def indRead (s : State) (who : Requester) (r : Nat) : Nat × State :=
  if !regionPresent s r then (0, s)
  else
    match targetWords s who r (indTarget s who r) with
    | none => (0, indFlag s who r fRGN_IND_STATUS_REFUSED)
    | some n =>
      let o := indOffset s who r
      let v := if o < n then indPeek s who r (indTarget s who r) o else (0, s)
      (v.1, indAdvance v.2 who r n)

def execIndDataRead (who : Requester) (r : Nat) (s : State) : Host.Outcome State Fault Refusal :=
  if !whoReaches s who (some r) then .next s
  else if !whoServed s who then .next (emit s (.read (copyOf who) r [0])) else
  let v := indRead s who r
  .next (emit v.2 (.read (copyOf who) r [v.1]))

/-- A word of a stream record as last written through a copy, or as the table holds it. -/
def streamPart (s : State) (r copy k i : Nat) : Nat :=
  (tabGet none (getInd s r copy).streamWords (8 * k + i)).getD
    (nbits (streamWord (tabGet rstreamReset (getRegion s r).streams k)) (32 * i) 32)

/-- A write to the STREAMS target: word 7 applies the record (R558). -/
def writeStream (s : State) (who : Requester) (r o v : Nat) : State :=
  let c := copyOf who
  let k := o / 8
  if o % 8 < 7 then updInd s r c fun i => { i with streamWords := tabSet none i.streamWords o (some v) }
  else
    let w := (rangeFrom 0 7).foldl (fun a i => a + streamPart s r c k i * 2 ^ (32 * i)) (v * 2 ^ 224)
    let t := takeStream s c (8192 * r + k) w
    if t.2 then t.1 else indFlag t.1 who r fRGN_IND_STATUS_BAD_RECORD

/-- A write to the ENERGY target: word 2c + 1 applies the entry, but its reserved bits [63:56] (R13, R102, R558). -/
def writeEnergy (s : State) (who : Requester) (r o v : Nat) : State :=
  let c := copyOf who
  let k := o / 2
  if o % 2 = 0 then updInd s r c fun i => { i with energyLo := tabSet none i.energyLo k (some v) }
  else
    let lo := (tabGet none (getInd s r c).energyLo k).getD (energyEntry s k % 2 ^ 32)
    updPart s fun p => { p with energy := tabSet 0 p.energy k (lo + v % 2 ^ 24 * 2 ^ 32) }

/-- Put a word at a target and offset; the flag is false where a field is rejected or the target takes no writes. -/
def indPoke (s : State) (who : Requester) (r target o v : Nat) : State × Bool :=
  if target = 2 then (if 0x1000 ≤ o then (s, false) else regWrite s who .dzl r (4 * o) v)
  else if target = 6 ∨ target = 7 then regWrite s who .se (2 * r + target - 6) (4 * o) v
  else if target = 0x10 then (writeEnergy s who r o v, true)
  else if target = 0x11 then
    let t := writeStream s who r o v
    (t, fget t fRGN_IND_STATUS_BAD_RECORD r (copyOf who) == 0)
  else if target = 0x12 then
    if o = 0 then (updInd s r (copyOf who) fun i => { i with ptWord0 := v }, true)
    else (ptPost s r (getInd s r (copyOf who)).ptWord0 v, true)
  else (s, false)

/-- Whether a write of IND_DATA is refused: the sideband copy, a refused target, ENERGY through BAR0 in lap service. -/
def indRefuses (s : State) (who : Requester) (r : Nat) : Bool :=
  who == .sideband || (targetWords s who r (indTarget s who r)).isNone || (indTarget s who r == 0x10 && who == .bar0 && inService s)

/-- IND_DATA_WRITE. -/
def indWrite (s : State) (who : Requester) (r v : Nat) : State × Bool :=
  if !regionPresent s r then (s, false)
  else if !regionAlive s r then (s, true)
  else if indRefuses s who r then (indFlag s who r fRGN_IND_STATUS_REFUSED, false)
  else
    let n := (targetWords s who r (indTarget s who r)).getD 1
    let o := indOffset s who r
    let t := if o < n then indPoke s who r (indTarget s who r) o v else (s, false)
    (indAdvance t.1 who r n, t.2)

def execIndDataWrite (who : Requester) (r : Nat) (value : Word) (s : State) : Host.Outcome State Fault Refusal :=
  .next (if whoReaches s who (some r) && whoServed s who then (indWrite (rowInput s who (0x20_0008 + r * 0x1_0000) value.toNat) who r value.toNat).1 else s)

/-- IND_TIMEOUT: the read returns all ones, the write is dropped, TIMEOUT is set (R556). -/
def indTimeout (s : State) (who : Requester) (r : Nat) (write : Bool) : State :=
  match targetWords s who r (indTarget s who r) with
  | none => s
  | some n =>
    if !regionPresent s r || (write && (!regionAlive s r || indRefuses s who r)) then s
    else
      let s := indFlag (indAdvance s who r n) who r fRGN_IND_STATUS_TIMEOUT
      if write then s else emit s (.read (copyOf who) r [0xFFFF_FFFF])

def execIndTimeout (who : Requester) (r : Nat) (write : Bool) (s : State) : Host.Outcome State Fault Refusal :=
  .next (if whoReaches s who (some r) then indTimeout s who r write else s)

/-! ## REGISTER_WRITE -/

/-- A write at an offset of R546, IND_DATA included. The flag is false where R564 has the record fail. -/
def putAt (s : State) (who : Requester) (o v : Nat) : State × Bool :=
  match regPlace o with
  | none => (s, false)
  | some (sp, u, off) => if sp = .rgn ∧ off = 8 then indWrite s who u v else regWrite s who sp u off v

/-- Registers that BAR0 reaches before READY (R574). -/
def beforeReady (s : State) (o : Nat) : Bool :=
  (decide (o < 0x10_0000) && fget s fPART_BOOT_STATUS_PHASE 0 0 != 15) || o == 0x10_0D00

/-- Region of a register offset of R546; none for those of the part. -/
def offsetRegion (o : Nat) : Option Nat :=
  match regPlace o with
  | some (.rgn, u, _) => some u
  | some (.blk, u, _) => some (u / 8)
  | some (.core, u, _) => some (u / 64)
  | _ => none

/-- Whether BAR0 reaches a register offset: the HOST_ registers lie in the endpoint, and the others are reached while it is
served (R26, assumption 79). -/
def hostServed (s : State) (o : Nat) : Bool := decide (o < 0x10_0000) || whoReaches s .bar0 (offsetRegion o)

/-- REGISTER_WRITE: BAR0 aborts an access that is not of 32 bits and aligned, as BAR4 does, and before READY drops all but R574's
registers; a control core's access of another kind is a bus error of class FIRMWARE, and outside its reach it takes no effect (R34); the
sideband port writes no register, and its write of IND_DATA is refused (R547, R548, R554, R574). -/
def registerWrite (s : State) (who : Requester) (o v size : Nat) : State :=
  let odd := o % 4 ≠ 0 ∨ size ≠ 4
  match who with
  | .sideband => match regPlace o with
    | some (.rgn, r, off) => if off = 8 then (indWrite s .sideband r v).1 else s
    | _ => s
  | .bar4 => if odd then emit s .abort else bar4Write s o v
  | .control _ =>
    if odd then emit (errPart s (errRecord s 0xF 3 0x25 0 8 0 o)) .busError
    else if whoReaches s who (offsetRegion o) then (putAt s who o v).1 else s
  | .bar0 =>
    if odd then emit s .abort
    else if !hostServed s o then s
    else
      let s := driverWrite s o v
      if fget s fPART_BOOT_STATUS_PHASE 0 0 = 4 ∨ beforeReady s o = true then (putAt s who o v).1 else s

def execRegisterWrite (who : Requester) (offset : Nat) (value : RegData) (s : State) : Host.Outcome State Fault Refusal :=
  .next (registerWrite s who offset value.word.toNat value.size)

/-- FW_FLAGS_WRITE (R11, R553). -/
def execFwFlagsWrite (value : Word) (s : State) : Host.Outcome State Fault Refusal :=
  .next (writeField s 0 0 value.toNat (s, true) fPART_FW_FLAGS_FLAGS).1

/-- Select a ring (R500). -/
def selectRing (s : State) (ring side : Nat) : State := fput (fput s fHOST_RING_IDX_RING 0 0 ring) fHOST_RING_IDX_SIDE 0 0 side

/-- RING_ENABLE: a write of HOST_RING_CFG by the driver, made with the ring given selected. -/
def ringCfgWrite (s : State) (side : Bool) (ring v : Nat) : State :=
  let t := registerWrite (selectRing s ring (b2n side)) .bar0 0x1C v 4
  selectRing t (fget s fHOST_RING_IDX_RING 0 0) (fget s fHOST_RING_IDX_SIDE 0 0)

def execRingEnable (side : Bool) (ring : Nat) (value : Word) (s : State) : Host.Outcome State Fault Refusal :=
  .next (if ring < 1024 then ringCfgWrite s side ring value.toNat else s)

end Sys2Proof.Machine
end

