-- ==== Sys2Proof/Machine/Boot.lean ====
section
/-! DEFINITION. Power, resets and boot (R565 to R577, R584): firmware images, board lists, the configuration image (R562 to
R564), measurements. -/

namespace Sys2Proof.Machine

/-! ## Phases -/

def bootPhase (s : State) : Nat := fget s fPART_BOOT_STATUS_PHASE 0 0
def setPhase (s : State) (v : Nat) : State := fput s fPART_BOOT_STATUS_PHASE 0 0 v

/-- Power is good and PERST_N is released: the part is not held in reset (R566, R568). -/
def partOn (s : State) : Bool := s.pins.powerGood && s.pins.perstN

/-- Boot ends in FAILED, which is final until the next part reset (R574). -/
def bootFail (s : State) (reason : Nat) : State := fput (setPhase s 15) fPART_BOOT_STATUS_FAIL_REASON 0 0 reason

/-- SECURITY_EVENT (R507). -/
def securityEvent (s : State) (what : Nat) : State := errPart s (errRecord s 0xD 3 0x23 0 8 0 what)

/-! ## Resets (R566 to R568) -/

/-- Part reset: everything but fuses, pins and what lies outside the part. -/
def partReset (s : State) : State :=
  let n := drawFree s
  { State.reset with
    fuses := s.fuses
    pins := { s.pins with smbAlertN := true, flashPerst0N := false, flashPerst1N := false }
    boot := { bootReset with flash := s.boot.flash, flashOk := s.boot.flashOk, nonce := n.1 % 2 ^ 128 }
    host := { State.reset.host with mem := s.host.mem, unpinned := s.host.unpinned }
    out := s.out
    freeCtr := n.2.freeCtr
    pending := s.pending }

/-- POWER_GOOD_RISE. -/
def powerRise (s : State) : State :=
  if s.pins.powerGood then s else partReset { s with pins := { s.pins with powerGood := true } }

/-- POWER_GOOD_FALL: all state is discarded, and THERMTRIP_N is released (R566, R591). -/
def powerFall (s : State) : State :=
  if s.pins.powerGood then partReset { s with pins := { s.pins with powerGood := false, thermtripN := true } } else s

/-- PERST_N: low holds the part in part reset, at once and without a commit; its release restarts boot. -/
def perst (s : State) (high : Bool) : State :=
  if s.pins.perstN = high then s
  else
    let s := { s with pins := { s.pins with perstN := high } }
    if s.pins.powerGood then partReset s else s

def execPowerGoodRise (s : State) : Host.Outcome State Fault Refusal := .next (powerRise s)
def execPowerGoodFall (s : State) : Host.Outcome State Fault Refusal := .next (powerFall s)
def execPerstN (high : Bool) (s : State) : Host.Outcome State Fault Refusal := .next (perst s high)

/-! ## Measurements (R577) -/

def setMeas (s : State) (i v : Nat) : State := { s with boot := { s.boot with meas := tabSet 0 s.boot.meas i v } }

/-- M1 to M6 as the part's digests: a 256-bit word. -/
def getMeas (s : State) (i : Nat) : BitVec 256 := BitVec.ofNat 256 (tabGet 0 s.boot.meas i)

def digest (b : Bytes) : Nat := (Config.shake256 b).toNat

def gradeByte : Grade → Byte
  | .iz8a => 1 | .iz8c => 2 | .iz4a => 4

/-- What M4 covers: grade, capability fuses, rollback floor and owner-key digest. -/
def fuseBytes (s : State) : Bytes :=
  gradeByte s.fuses.grade :: (s.fuses.fusedOff.flatMap (natLe 2) ++ s.fuses.scanLess.flatMap (natLe 2) ++ natLe 1 s.fuses.rollbackFloor ++
    (match s.fuses.ownerDigest with | some d => natLe 32 d.toNat | none => []))

/-- What M5 covers: the debug level and the digest of the token that set it, zero while none has. -/
def debugBytes (s : State) : Bytes :=
  natLe 1 (fget s fPART_BOOT_STATUS_DEBUG_LEVEL 0 0) ++ natLe 32 (if s.boot.debugToken.isEmpty then 0 else digest s.boot.debugToken)

/-- M6: the entries received under R584. -/
def measLists (s : State) : State := setMeas s 6 (digest (s.side.lists.flatMap (natLe 8)))

def measDebug (s : State) : State := setMeas s 5 (digest (debugBytes s))

/-! ## Firmware (R570, R571, R573) -/

def flashBytes (s : State) (a n : Nat) : Bytes := memRead s.boot.flash a n

def slotBase (slotB : Bool) : Nat := if slotB then 0x700_0000 else 0x100_0000

/-- The fields of a firmware header (R570). -/
structure FwHeader where
  rollback : Nat
  burn : Bool
  cfgFloor : Nat
  length : Nat
  sigLen : Nat
  deriving DecidableEq, Repr

/-- The header of a slot where its form is right and its ROLLBACK is not below the fused floor (R570, R571). -/
def fwHeader (s : State) (base : Nat) : Option FwHeader :=
  let b := flashBytes s base 0x800
  let w := leNat (b.take 18)
  let h : FwHeader := ⟨nbits w 48 8, nbit w 56, nbits w 64 32, nbits w 96 32, nbits w 128 16⟩
  if nbits w 0 32 = 0x5A4C_4657 ∧ nbits w 32 16 = 1 ∧ h.rollback ≤ 64 ∧ s.fuses.rollbackFloor ≤ h.rollback ∧ nbits w 57 7 = 0 ∧
    h.length % 4096 = 0 ∧ h.length ≤ 96 * 2 ^ 20 - 4096 ∧ h.sigLen ≤ 1462 ∧ (b.drop 18).all (fun x => x == 0) then some h
  else none

/-- Whether a slot's image verifies against Genlon's root key. -/
def fwVerifies (s : State) (base : Nat) (h : FwHeader) : Bool :=
  Config.falconVerify Config.genlonRootKey
    (natLe 32 (digest (flashBytes s base 0x800 ++ flashBytes s (base + 0x1000) h.length))) (flashBytes s (base + 0x800) h.sigLen)

/-- The image of a slot, when it can be booted. -/
def fwImage (s : State) (slotB : Bool) : Option FwHeader :=
  (fwHeader s (slotBase slotB)).bind fun h => if fwVerifies s (slotBase slotB) h then some h else none

/-- Firmware runs: it releases the flash devices from their reset (R589; DEDUCED, assumption 136). -/
def releaseFlash (s : State) : State := { s with pins := { s.pins with flashPerst0N := true, flashPerst1N := true } }

/-- Step 6: firmware starts, the manager is elected and the lists are requested; a part that can elect none fails (R574). -/
def startLists (s : State) : State :=
  if s.boot.fwDone && s.boot.bistDone then
    match electable s with
    | some _ => notify (setPhase (elect (releaseFlash s)) 2) true 0
    | none => bootFail s 3
  else s

/-- Boot is reading firmware or testing: the step that POWER_GOOD started (R573). A thermal trip stops boot (R591). -/
def booting (s : State) : Bool := partOn s && !s.part.thermTrip && decide (bootPhase s ≤ 1)

/-- Step 3: 20 ms after the reset boot reads firmware and tests. A part whose queue is empty has nothing to do but let them pass (R573;
DESIGN CHOICE, assumption 133). -/
def idle (s : State) : State := if booting s && bootPhase s == 0 then setPhase s 1 else s

/-- The image of a slot has passed: it is measured. -/
def fwTake (s : State) (slotB : Bool) (h : FwHeader) : State :=
  let base := slotBase slotB
  let s := setMeas s 2 (digest (flashBytes s base (0x1000 + h.length)))
  let s := { s with boot := { s.boot with fwDone := true, rollback := h.rollback, burn := h.burn, cfgFloor := h.cfgFloor } }
  startLists (fput s fPART_BOOT_STATUS_SLOT 0 0 (b2n slotB))

/-- FIRMWARE_VERIFIED: the slot under test is A, and B once A has failed. -/
def firmwareVerified (s : State) (slotB romOk : Bool) : State :=
  if !booting s || s.boot.fwDone || slotB != s.boot.slotAFailed then s
  else
    let s := setPhase s 1
    if !romOk then bootFail s 5
    else if !s.boot.flashOk then bootFail s 1
    else match fwImage s slotB with
      | some h => fwTake s slotB h
      | none =>
        let s := securityEvent s 0
        if slotB then bootFail s 2 else { s with boot := { s.boot with slotAFailed := true } }

def execFirmwareVerified (slotB : Bool) (romOk : Bool) (s : State) : Host.Outcome State Fault Refusal :=
  .next (firmwareVerified s slotB romOk)

/-! ## Built-in test -/

/-- Mark units of a core or engine out of service. -/
def markOos (s : State) (u units : Nat) : State := fput s fPART_CAP_ENTRY_OOS_UNITS 0 u (Nat.lor (oosUnits s u) units)

/-- BUILT_IN_TEST_COMPLETE: failing units and the units of failing regions are out of service; a pseudo-channel that fails PHY
training is declared failed (R286), with the count 0. -/
def builtInTest (s : State) (failed : List (Nat × Nat)) (regions : List Nat) : State :=
  if !booting s || s.boot.bistDone then s
  else
    let s := setPhase s 1
    let s := failed.foldl (fun s e => if e.1 < 512 ∧ e.2 < 7 then markOos s e.1 (2 ^ e.2) else
      if e.1 < 528 ∧ (e.2 = 1 ∨ e.2 = 2) then markOos s e.1 (2 ^ e.2) else
      if 528 ≤ e.1 ∧ e.1 < 528 + 128 * nRegions s then
        failPc s ((e.1 - 528) / 128) ((e.1 - 528) / 64 % 2 * 2 ^ 20) ((e.1 - 528) % 64) 0
      else s) s
    let s := (rangeFrom 0 (nRegions s)).foldl (fun s r =>
      if hasNat regions r then
        let s := (rangeFrom (64 * r) 64).foldl (fun s u => markOos s u 0x7F) s
        markOos (markOos s (512 + 2 * r) 6) (513 + 2 * r) 6
      else updRegion s r fun x => { x with builtInPassed := true }) s
    startLists { s with boot := { s.boot with bistDone := true } }

def execBuiltInTestComplete (failed : List (Nat × Nat)) (regionsFailed : List Nat) (s : State) : Host.Outcome State Fault Refusal :=
  .next (builtInTest s failed regionsFailed)

/-! ## The configuration image (R562 to R564, R572) -/

def cfgBase : Nat := 0x1_0000

/-- The key that signs configurations: the owner's where its digest is fused and matches, Genlon's where it is blank. -/
def cfgKey (s : State) : Option Bytes :=
  match s.fuses.ownerDigest with
  | none => some Config.genlonRootKey
  | some d =>
    let k := flashBytes s 0 1793
    if Config.shake256 k = d then some k else none

def cfgSigned (s : State) : Bool :=
  match cfgKey s with
  | some k => Config.falconVerify k (natLe 32 (digest (flashBytes s cfgBase 0xF000))) (flashBytes s (cfgBase + 0xF000) 0xFFC)
  | none => false

def gradeBit : Grade → Nat
  | .iz8a => 0 | .iz8c => 1 | .iz4a => 2

/-- Record i of the image. -/
def cfgRecord (s : State) (i : Nat) : Nat := leNat (flashBytes s (cfgBase + 0x100 + 8 * i) 8)

def cfgCount (s : State) : Nat := nbits (leNat (flashBytes s cfgBase 16)) 96 13

/-- KIND 3, or a reserved bit of a record. -/
def recordMalformed (w : Nat) : Bool := nbits w 0 2 == 3 || (nbits w 0 2 == 1 && nbits w 26 6 != 0)

/-- MAGIC, VERSION, GRADES, SEQ, RECORDS and the reserved bits (R562, R563, R572). -/
def cfgFormatOk (s : State) : Bool :=
  let b := flashBytes s cfgBase 256
  let w := leNat (b.take 16)
  nbits w 0 32 == 0x5A4C_4346 && nbits w 32 16 == 1 && nbit w (48 + gradeBit s.fuses.grade) && nbits w 51 13 == 0 &&
    decide (s.boot.cfgFloor ≤ nbits w 64 32) && decide (cfgCount s ≤ 7648) && nbits w 109 19 == 0 && (b.drop 16).all (fun x => x == 0) &&
    (rangeFrom 0 (cfgCount s)).all fun i => !recordMalformed (cfgRecord s i)

/-- CFG_REASON of the checks before any record is applied (R564): 0 where they pass. -/
def cfgReason (s : State) : Nat :=
  if !s.boot.flashOk then 5
  else if crc32c (flashBytes s cfgBase 0xFFFC) ≠ leNat (flashBytes s (cfgBase + 0xFFFC) 4) then 1
  else if !cfgSigned s then 2
  else if !cfgFormatOk s then 3
  else 0

/-- A register that a record may set: it has a field that is neither RO nor WO. -/
def settable (sp : Space) (off : Nat) : Bool :=
  match fieldsAt sp off with
  | some fs => fs.any fun f => f.access == .rw || f.access == .mw || f.access == .w1c
  | none => false

/-- Apply one record as a write by firmware; the flag is false where the record fails. What it writes in a deadbolted region is ignored
(R548). -/
def applyRecord (s : State) (w : Nat) : State × Bool :=
  let v := nbits w 32 32
  if nbits w 0 2 = 1 then
    let o := nbits w 2 24 * 4
    match regPlace o with
    | some (sp, _, off) => if settable sp off then putAt s (.control (managerRegion s)) o v else (s, false)
    | none => (s, false)
  else if nbits w 0 2 = 2 then
    let r := nbits w 2 3
    let t := nbits w 5 8
    let o := nbits w 13 19
    let reg := if t = 2 then settable .dzl (4 * o) else if t = 6 ∨ t = 7 then settable .se (4 * o) else true
    match targetWords s (.control (managerRegion s)) r t with
    | some n =>
      if !(regionPresent s r && decide (o < n) && reg) then (s, false)
      else if !regionAlive s r then (s, true)
      else indPoke s (.control (managerRegion s)) r t o v
    | none => (s, false)
  else (s, true)

/-- Apply records in order, and stop at the first that fails, with its index. -/
def applyRecords : List Nat → Nat → State → State × Option Nat
  | [], _, s => (s, none)
  | w :: t, i, s =>
    let r := applyRecord s w
    if r.2 then applyRecords t (i + 1) r.1 else (r.1, some i)

/-- A part whose records failed returns to its state before them, with every register at its reset value but what RO
fields show (R564). -/
def resetRegisters (s : State) : State :=
  { s with shadows := [], flds := s.flds.filter fun e => match fldOfKey e.1 with | some f => f.access == .ro | none => false }

/-- Fall back to the factory image (R564); a part whose factory image fails ends in FAILED (R574). -/
def fallBack (s : State) (reason : Nat) : State :=
  let s := fput (fput s fPART_STATUS_CFG_FALLBACK 0 0 1) fPART_STATUS_CFG_REASON 0 0 reason
  let s := setMeas s 3 (digest (Config.factoryImage.flatMap (fun w => natLe 8 w.toNat) ++ natLe 1 reason))
  if Config.factoryImageOk then
    let r := applyRecords (Config.factoryImage.map (·.toNat)) 0 s
    match r.2 with
    | none => r.1
    | some _ => bootFail r.1 4
  else bootFail s 4

/-- Step 7: the configuration image takes effect whole or not at all. -/
def configure (s : State) : State :=
  let reason := cfgReason s
  let s := if reason = 2 then securityEvent s 1 else s
  if reason ≠ 0 then fallBack s reason
  else
    let r := applyRecords ((rangeFrom 0 (cfgCount s)).map (cfgRecord s)) 0 s
    match r.2 with
    | none => setMeas r.1 3 (digest (flashBytes s cfgBase 0xF000 ++ natLe 1 0))
    | some i => fallBack (fput (resetRegisters s) fPART_STATUS_CFG_RECORD 0 0 i) 4

/-! ## Board lists and READY (R571, R573, R581, R584) -/

/-- A unit of the board's list is marked deadbolted. -/
def markDead (s : State) (kind unit : Nat) : State :=
  if !unitPresent s kind unit || isCut s kind unit then s
  else match kind with
    | 0 => updCore s unit fun c => { c with deadbolted := true }
    | 1 => updBlock s unit fun b => { b with deadbolted := true }
    | 2 => elect (updRegion s unit fun r => { r with deadbolted := true })
    | 3 => updCore s (512 + unit) fun c => { c with deadbolted := true }
    | 4 =>
      let s := updRegion s (unit / 4) fun r => { r with ctlFailed := putBits r.ctlFailed (unit % 4) 1 1 }
      if (getRegion s (unit / 4)).ctlFailed = 15 then regionFailed s (unit / 4) else s
    | _ => updPart s fun p => { p with lanesDead := insNat p.lanesDead unit }

/-- A retired frame of the board's list (R289): a spare takes the place of a parity frame; a stack with more than 4,096 retired
frames is WORN and reported. -/
def listRetired (s : State) (r f : Nat) : State :=
  if parityFrame ≤ f % 2 ^ 20 then updRegion s r fun x => spareParity x f
  else
    let s := updRegion s r fun x => setFrameState x f 4
    let w := if f < 2 ^ 20 then fRGN_HBM_STATUS_WORN_A else fRGN_HBM_STATUS_WORN_B
    let n := retiredCount s r (decide (2 ^ 20 ≤ f))
    if 4096 < n ∧ fget s w r 0 = 0 then errRegion (fput s w r 0 1) r (errRecord s 4 2 0x1F 0 8 0 n) else s

/-- One list entry (R581): a retired frame or a deadbolted unit. -/
def applyEntry (s : State) (w : Nat) : State :=
  if nbits w 0 4 = 1 then
    if regionPresent s (nbits w 4 3) then listRetired s (nbits w 4 3) (nbits w 7 21) else s
  else if nbits w 0 4 = 2 then markDead s (nbits w 16 4) (nbits w 4 12)
  else s

/-- Burn the rollback floor up to the booted image's ROLLBACK where it asks for it (R571). -/
def burnFloor (s : State) : State :=
  if s.boot.burn && decide (s.fuses.rollbackFloor < s.boot.rollback) then
    { s with fuses := { s.fuses with rollbackFloor := s.boot.rollback } } else s

/-- The measurements that are final at READY (R577). -/
def measReady (s : State) : State :=
  measDebug (measLists (setMeas (setMeas s 1 Config.romDigest.toNat) 4 (digest (fuseBytes s))))

/-- The DeviceID key signs a certificate of the alias key, which hangs on the boot ROM, the firmware and the debug state (R576, R579). -/
def signAlias (s : State) : State :=
  let body := Config.certBody (Config.aliasKey s.fuses.seed (getMeas s 1) (getMeas s 2) (getMeas s 5))
  { s with boot := { s.boot with aliasCert := body ++ Config.deviceSign s.fuses.seed body } }

/-- READY (R571, R573): the floor is burned, the measurements are final, the alias certificate is signed. -/
def becomeReady (s : State) : State := if bootPhase s = 15 then s else setPhase (signAlias (measReady (burnFloor s))) 4

/-- Sideband deadbolts that were held until step 7 (R580). -/
def heldDeadbolts (s : State) : State :=
  s.boot.heldDead.foldl (fun s e => deadboltCmd s byBoard e.1 e.2) { s with boot := { s.boot with heldDead := [] } }

/-- Step 7 and what follows: lists, sideband deadbolts that were held, configuration, READY; a part that they leave without a region to
take the manager role fails (R574). -/
def finishBoot (s : State) (lists : List Nat) : State :=
  let t := heldDeadbolts (setPhase (lists.foldl applyEntry s) 3)
  match t.part.manager with
  | some _ => becomeReady (configure t)
  | none => bootFail t 3

/-- LIST_DONE. -/
def listDone (s : State) : State := if bootPhase s = 2 ∧ s.part.thermTrip = false then finishBoot s s.side.lists else s

/-- LIST_TIMEOUT: the part boots without lists. -/
def listTimeout (s : State) : State :=
  if bootPhase s = 2 ∧ s.part.thermTrip = false then finishBoot (fput s fPART_BOOT_STATUS_NO_BOARD_LISTS 0 0 1) [] else s

def execListTimeout (s : State) : Host.Outcome State Fault Refusal := .next (listTimeout s)

end Sys2Proof.Machine
end

