-- ==== Sys2Proof/Machine/Sideband.lean ====
section
/-! DEFINITION. The sideband port (R548, R580 to R584): its commands, the board's lists and notifications, debug unlock (R579)
and owner enrolment (R583). -/

namespace Sys2Proof.Machine

/-! ## Answers -/

/-- A response: code 0, or 1 for an error completion. -/
def answer (s : State) (tag code : Nat) (data : List Nat) : State := emit s (.sideband (tag % 256) code data)

/-- Commands other than REG_READ and MCTP control are served from PHASE LISTS on (R574, R580). -/
def sideServed (s : State) : Bool := partOn s && decide (2 ≤ bootPhase s)

/-- A sideband command is an input of the recorder (R538): command byte, tag and operands. -/
def sideInput (s : State) (cmd tag : Nat) (operands : Bytes) : State :=
  trkInput s 5 (managerRegion s) 0 (natLe 1 cmd ++ natLe 1 tag ++ operands)

/-- A command that is served as given, answered with an error completion before LISTS, and not at all while the part is
held in reset. -/
def sideCommand (s : State) (cmd tag : Nat) (operands : Bytes) (act : State → State) : State :=
  if !partOn s then s
  else if sideServed s then act (sideInput s cmd tag operands)
  else answer s tag 1 []

/-! ## Reads -/

/-- One word of the register space as the sideband port reads it. -/
def sideWord (s : State) (o : Nat) : Nat × State :=
  match regPlace o with
  | none => (0, s)
  | some (sp, u, off) => if sp = .rgn ∧ off = 8 then indRead s .sideband u else regRead s sp u off 2

/-- Consecutive words. -/
def sideWords : Nat → Nat → State → List Nat × State
  | 0, _, s => ([], s)
  | n + 1, o, s =>
    let w := sideWord s o
    let t := sideWords n (o + 4) w.2
    (w.1 :: t.1, t.2)

/-- REG_READ: up to 16 words. -/
def regReadCmd (s : State) (o n tag : Nat) : State :=
  if !partOn s then s
  else if n = 0 ∨ 16 < n ∨ o % 4 ≠ 0 then answer s tag 1 []
  else
    let t := sideWords n o (sideInput s 1 tag (natLe 4 o ++ natLe 1 n))
    answer t.2 tag 0 t.1

def execRegRead (offset count tag : Nat) (s : State) : Host.Outcome State Fault Refusal := .next (regReadCmd s offset count tag)

def queueBytes : QueueId → Bytes
  | .blk b => natLe 2 b
  | .rgn r => natLe 2 (0x100 + r)
  | .part => natLe 2 0x200

/-- ERRQ_READ: the head record, as eight words; none where the queue is empty. -/
def errqRead (q : QueueId) (tag : Nat) (s : State) : State :=
  answer s tag 0 (match (queueOf s q).recs with
    | r :: _ => (rangeFrom 0 8).map fun i => nbits r (32 * i) 32
    | [] => [])

def execErrqRead (q : QueueId) (tag : Nat) (s : State) : Host.Outcome State Fault Refusal :=
  .next (sideCommand s 2 tag (queueBytes q) (errqRead q tag))

/-- Words of IND_DATA through the sideband copy. -/
def indWords (r : Nat) : Nat → State → List Nat × State
  | 0, s => ([], s)
  | n + 1, s =>
    let w := indRead s .sideband r
    let t := indWords r n w.2
    (w.1 :: t.1, t.2)

/-- Set the sideband copy of IND_ADDR. -/
def setIndAddr (s : State) (r target o : Nat) : State :=
  fput (fput (fput s fRGN_IND_ADDR_OFFSET r 2 o) fRGN_IND_ADDR_HOLD r 2 0) fRGN_IND_ADDR_TARGET r 2 target

/-- IND_READ: up to 16 words. -/
def indReadCmd (r target o n tag : Nat) (s : State) : State :=
  if !regionPresent s r || n == 0 || decide (16 < n) then answer s tag 1 []
  else
    let t := indWords r n (setIndAddr s r target o)
    answer t.2 tag 0 t.1

def execIndRead (r target offset count tag : Nat) (s : State) : Host.Outcome State Fault Refusal :=
  .next (sideCommand s 0xD tag (natLe 1 r ++ natLe 1 target ++ natLe 4 offset ++ natLe 1 count) (indReadCmd r target offset count tag))

/-! ## Commands that act -/

/-- DEADBOLT: during LISTS it is held until step 7. -/
def sideDeadbolt (kind unit tag : Nat) (s : State) : State :=
  if bootPhase s = 2 then answer { s with boot := { s.boot with heldDead := s.boot.heldDead ++ [(kind, unit)] } } tag 0 []
  else answer (deadboltCmd s byBoard kind unit) tag 0 []

def execDeadbolt (kind unit tag : Nat) (s : State) : Host.Outcome State Fault Refusal :=
  .next (sideCommand s 3 tag (natLe 1 kind ++ natLe 2 unit) (sideDeadbolt kind unit tag))

/-- REGION_RESET. -/
def execRegionReset (r tag : Nat) (s : State) : Host.Outcome State Fault Refusal :=
  .next (sideCommand s 4 tag (natLe 1 r) fun s => answer (partRegionReset s byBoard r) tag 0 [])

/-- The next words of the dump, while it is being read. -/
def dumpWords : Nat → State → List Nat × State
  | 0, s => ([], s)
  | n + 1, s =>
    if s.dump.busy then
      let w := dumpNext s
      let t := dumpWords n w.2
      (w.1 :: t.1, t.2)
    else ([], s)

/-- SYNC_DUMP: starts a dump, or returns the next two entries. -/
def sideDump (start : Bool) (tag : Nat) (s : State) : State :=
  if start then answer (dumpStart s) tag 0 []
  else
    let t := dumpWords 16 s
    answer t.2 tag 0 t.1

def execSyncDump (start : Bool) (tag : Nat) (s : State) : Host.Outcome State Fault Refusal :=
  .next (sideCommand s 5 tag (natLe 1 (b2n start)) (sideDump start tag))

/-- TRK_TRIGGER. -/
def execTrkTrigger (tag : Nat) (s : State) : Host.Outcome State Fault Refusal :=
  .next (sideCommand s 6 tag [] fun s => answer (trkTrigger s) tag 0 [])

/-! ## Lists and notifications -/

/-- LIST_PUT: up to 7 entries; after step 7 they count in M6 only. -/
def listPut (entries : List (BitVec 64)) (tag : Nat) (s : State) : State :=
  if 7 < entries.length then answer s tag 1 []
  else
    let s := { s with side := { s.side with lists := s.side.lists ++ entries.map (·.toNat) } }
    answer (if bootPhase s = 2 then s else measLists s) tag 0 []

def execListPut (entries : List (BitVec 64)) (tag : Nat) (s : State) : Host.Outcome State Fault Refusal :=
  .next (sideCommand s 7 tag (entries.flatMap fun e => natLe 8 e.toNat) (listPut entries tag))

def execListDone (tag : Nat) (s : State) : Host.Outcome State Fault Refusal :=
  .next (sideCommand s 8 tag [] fun s => answer (listDone s) tag 0 [])

/-- NOTIFY_ACK: the oldest message leaves the queue. -/
def notifyAck (s : State) : State :=
  let q := s.side.queue.drop 1
  { s with side := { s.side with queue := q }, pins := { s.pins with smbAlertN := q.isEmpty } }

def execNotifyAck (s : State) : Host.Outcome State Fault Refusal := .next (notifyAck s)

/-- NOTIFY_RESEND: every message that waits is sent again. -/
def notifyResend (s : State) : State := s.side.queue.foldl (fun s m => emit s (.notify s.side.eid m.seq (b2n m.entry) m.data)) s

def execNotifyResend (s : State) : Host.Outcome State Fault Refusal := .next (notifyResend s)

/-- SET_ENDPOINT_ID: an MCTP control message, answered from step 2 of boot on (R573, R580). -/
def setEndpoint (s : State) (eid : Nat) : State :=
  if partOn s then emit { s with side := { s.side with eid := eid % 256 } } (.mctp 1 (eid % 256)) else s

def execSetEndpointId (eid : Nat) (s : State) : Host.Outcome State Fault Refusal := .next (setEndpoint s eid)

/-! ## Debug unlock and enrolment -/

/-- DEBUG_NONCE: 128 bits as four words. -/
def execDebugNonce (tag : Nat) (s : State) : Host.Outcome State Fault Refusal :=
  .next (sideCommand s 0xA tag [] fun s => answer s tag 0 ((rangeFrom 0 4).map fun i => nbits s.boot.nonce (32 * i) 32))

/-- The part counts as in lap service from the write of SERVICE = 1 (R585). -/
def outOfService (s : State) : Bool := !inService s && fget s fPART_BOOT_CTRL_SERVICE 0 0 == 0

/-- What a token names (R579): the first 16 bytes of the digest of the DeviceID public key. -/
def deviceBinding (s : State) : Bytes := (natLe 32 (digest (Config.deviceIdKey s.fuses.seed))).take 16

/-- Level of a token: its byte 32 (assumption 27: binding, nonce, level, signature). -/
def tokenLevel (token : Bytes) : Nat := leNat ((token.drop 32).take 1)

/-- Whether a token is accepted (R579). -/
def tokenOk (s : State) (token : Bytes) : Bool :=
  fget s fPART_SEC_CFG_DEBUG_ALLOW 0 0 == 1 && outOfService s && token.take 16 == deviceBinding s &&
    leNat ((token.drop 16).take 16) == s.boot.nonce && (tokenLevel token == 1 || tokenLevel token == 2) &&
    Config.falconVerify Config.genlonRootKey (natLe 32 (digest (token.take 33))) (token.drop 33)

/-- The nonce is replaced after every attempt. -/
def renewNonce (s : State) : State :=
  let n := drawFree s
  { n.2 with boot := { n.2.boot with nonce := n.1 % 2 ^ 128 } }

/-- Whether the test port serves (R579, R589). -/
def testPortServed (s : State) : Bool := fget s fPART_BOOT_STATUS_DEBUG_LEVEL 0 0 == 2

/-- DEBUG_UNLOCK: M5 takes the token, and the alias certificate is signed again. -/
def debugUnlock (token : Bytes) (tag : Nat) (s : State) : State :=
  if tokenOk s token then
    let s := fput (renewNonce s) fPART_BOOT_STATUS_DEBUG_LEVEL 0 0 (tokenLevel token)
    answer (securityEvent (signAlias (measDebug { s with boot := { s.boot with debugToken := token } })) 2) tag 0 []
  else answer (securityEvent (renewNonce s) 3) tag 1 []

def execDebugUnlock (token : Bytes) (tag : Nat) (s : State) : Host.Outcome State Fault Refusal :=
  .next (sideCommand s 0xB tag token (debugUnlock token tag))

/-- Burn the digest of the owner's key. -/
def fuseOwner (s : State) (d : BitVec 256) : State := { s with fuses := { s.fuses with ownerDigest := some d } }

/-- OWNER_ENROLL: once, while the fuses are blank and the part is not in lap service. -/
def ownerEnroll (d : BitVec 256) (tag : Nat) (s : State) : State :=
  if s.fuses.ownerDigest.isNone && outOfService s then
    answer (securityEvent (fuseOwner s d) 4) tag 0 []
  else answer s tag 1 []

def execOwnerEnroll (digest : BitVec 256) (tag : Nat) (s : State) : Host.Outcome State Fault Refusal :=
  .next (sideCommand s 0xC tag (natLe 32 digest.toNat) (ownerEnroll digest tag))

/-! ## By command byte (R580) -/

def queueOfBytes (n : Nat) : QueueId := if n < 0x100 then .blk n else if n < 0x200 then .rgn (n - 0x100) else .part

/-- What a command byte asks for, with its operands; none where it is reserved. NOTIFY goes from part to board, and is none that the
part takes. -/
def sideAction (cmd tag : Nat) (ops : Bytes) : Option (State → State) :=
  let n := fun i k => leNat ((ops.drop i).take k)
  match cmd with
  | 2 => some (errqRead (queueOfBytes (n 0 2)) tag)
  | 3 => some (sideDeadbolt (n 0 1) (n 1 2) tag)
  | 4 => some fun s => answer (partRegionReset s byBoard (n 0 1)) tag 0 []
  | 5 => some (sideDump (decide (n 0 1 = 1)) tag)
  | 6 => some fun s => answer (trkTrigger s) tag 0 []
  | 7 => some (listPut ((blocksOf 8 (ceilDiv ops.length 8) ops).map fun b => BitVec.ofNat 64 (leNat b)) tag)
  | 8 => some fun s => answer (listDone s) tag 0 []
  | 0xA => some fun s => answer s tag 0 ((rangeFrom 0 4).map fun i => nbits s.boot.nonce (32 * i) 32)
  | 0xB => some (debugUnlock ops tag)
  | 0xC => some (ownerEnroll (BitVec.ofNat 256 (n 0 32)) tag)
  | 0xD => some (indReadCmd (n 0 1) (n 1 1) (n 2 4) (n 6 1) tag)
  | _ => none

/-- A Genlon message by its command byte: a reserved one is answered with an error completion (R580). -/
def sideMessage (s : State) (cmd tag : Nat) (ops : Bytes) : State :=
  if !partOn s then s
  else if cmd = 1 then regReadCmd s (leNat (ops.take 4)) (leNat ((ops.drop 4).take 1)) tag
  else match sideAction cmd tag ops with
    | some act => sideCommand s cmd tag ops act
    | none => answer s tag 1 []

end Sys2Proof.Machine
end

