-- ==== Sys2Proof/Machine/Bench.lean ====
section
/-! DEFINITION. Input records given again on the bench (R538, R544), and the commands of the lap sequence that they go with (R46). A record
carries its time in the lap, which no command has: those of a lap go in at its first issue, in the order of the image, host memory before its
mark and control records at its commit point (DESIGN CHOICE, assumption 134). -/

namespace Sys2Proof.Machine

/-! ## One record -/

/-- A segment as its input record holds it. -/
def recordSegment (s : State) (x : TrkRec) : Segment :=
  let h := leNat (x.data.take 40)
  let p := leNat ((x.data.drop 40).take 1)
  ⟨nbits x.addr 0 17, selfId s, nbits x.addr 17 12, nbit h 4, nbit h 5, nbit h 6, nbits h 8 8, nbits h 16 48, nbits h 64 16, nbits h 80 16,
    nbits h 96 48, nbits h 144 32, nbits h 176 52, nbits h 228 32, x.data.drop 41, nbit p 0, p / 2⟩

/-- Give a segment again by its OP (R453), or the signal that follows one. -/
def giveSegment (s : State) (x : TrkRec) : State :=
  let g := recordSegment s x
  match leNat (x.data.take 1) % 16 with
  | 0 => writeOwner s g
  | 1 => writeExchange s g
  | 2 => writeResend s g
  | 3 => readOwner s g
  | 4 => readReply s g
  | 5 => ledgerIn s g
  | _ => signalFlit s { g with data := [] } (leNat (g.data.take 4))

/-- Give a control record again by its type (R471). A probe and its reply time a path, and commit nothing. -/
def giveControl (s : State) (x : TrkRec) : State :=
  let w := BitVec.ofNat 256 (leNat (x.data.take 32))
  match leNat (x.data.drop 32) with
  | 1 => lapClean s w
  | 2 => confirmRec s w
  | 3 => offerIn s w
  | 4 => declineIn s w
  | 5 => noRoute s w
  | _ => s

/-- Give a write of the driver again: a register of BAR0 at its place in the address space (R546), or bytes of BAR2. -/
def giveWrite (s : State) (x : TrkRec) : State :=
  if 0x200_0000_0000 ≤ x.addr then registerWrite s .bar0 (x.addr - 0x200_0000_0000) (leNat x.data) 4 else bar2Post s x.addr x.data

/-- Give a sideband command again: its command byte, tag and operands. -/
def giveSide (s : State) (x : TrkRec) : State :=
  sideMessage s (leNat (x.data.take 1)) (leNat ((x.data.drop 1).take 1)) (x.data.drop 2)

/-- Give an input record again by its SOURCE (R538), control records apart. -/
def giveInput (s : State) (x : TrkRec) : State :=
  match x.source with
  | 2 => giveWrite s x
  | 3 => giveSegment s x
  | 5 => giveSide s x
  | 6 => (takeStream s 1 x.addr (leNat x.data)).1
  | _ => s

/-! ## The lap sequence (R46, R544) -/

/-- LAP_MARK, with what the image's next lap read from host memory in its place before it. -/
def benchMark (s : State) : State := lapMark (if benchOn s && decide (s.lap.phase = .issuing) then benchHost s (s.lap.num + 1) else s)

def execLapMark (s : State) : Host.Outcome State Fault Refusal := .next (benchMark s)

/-- COMMIT_POINT, with the control records of its lap applied before it. -/
def benchCommit (s : State) : State :=
  commitPoint (if benchOn s && decide (s.lap.phase = .marked) then (benchInputs s s.lap.num [4]).foldl giveControl s else s)

def execCommitPoint (s : State) : Host.Outcome State Fault Refusal := .next (benchCommit s)

/-- FIRST_ISSUE, with the other inputs of its lap after it. -/
def benchIssue (s : State) : State :=
  let t := firstIssue s
  if benchOn s && decide (s.lap.phase = .committed) && decide (t.lap.phase = .issuing) then
    (benchInputs t t.lap.num [2, 3, 5, 6]).foldl giveInput t else t

def execFirstIssue (s : State) : Host.Outcome State Fault Refusal := .next (benchIssue s)

end Sys2Proof.Machine
end

