-- ==== Sys2Proof/Machine/Spdm.lean ====
section
/-! DEFINITION. Attestation over SPDM 1.3 (R578). The manual gives the requests served, what signs and what is measured; the
messages are DMTF's: what the manual names of them stands behind bytes that are free values. -/

namespace Sys2Proof.Machine

def spdmKey : Transport → Nat
  | .doe => 0
  | .mctp => 1

def getSpdm (s : State) (t : Transport) : SpdmSt := tabGet spdmReset s.spdm (spdmKey t)
def setSpdm (s : State) (t : Transport) (x : SpdmSt) : State := { s with spdm := tabSet spdmReset s.spdm (spdmKey t) x }

/-- A transport answers at READY, while its bit in PART_SEC_CFG is set, and DOE while the endpoint is served (R26). -/
def spdmOn (s : State) (t : Transport) : Bool :=
  partOn s && bootPhase s == 4 && (match t with
    | .doe => endpointUp s && fget s fPART_SEC_CFG_DOE_ATTEST 0 0 == 1
    | .mctp => fget s fPART_SEC_CFG_MCTP_ATTEST 0 0 == 1)

/-- ERROR, the response to a request out of order or for what is not held. -/
def spdmError (s : State) : State := emit s (.spdm 0x7F (Config.spdmBody 0x7F []))

/-- Answer a request: the response follows its request in a transcript. -/
def spdmAnswer (s : State) (t : Transport) (code : Nat) (body : Bytes) (x : SpdmSt) : State := emit (setSpdm s t x) (.spdm code body)

/-- The version offered, 1.3 (its code is DMTF's: PRESUMED, assumption 137). -/
def versionEntry : Bytes := natLe 2 0x1300

/-- What the part selects: no base asymmetric algorithm, SHA3-256, and Falcon-1024 under the PCI-SIG registry with Genlon's vendor ID and
algorithm ID 0x0001 (the codes are DMTF's: PRESUMED, assumption 137). -/
def algorithms : Bytes := natLe 4 0 ++ natLe 4 8 ++ natLe 1 3 ++ natLe 2 Config.vendorId.toNat ++ natLe 2 1

/-- GET_VERSION starts a negotiation. -/
def spdmVersion (s : State) (t : Transport) : State :=
  if !spdmOn s t then s
  else
    let b := Config.spdmBody 0x84 [] ++ versionEntry
    spdmAnswer s t 0x04 b ⟨1, b, [], []⟩

/-- GET_CAPABILITIES and NEGOTIATE_ALGORITHMS: each follows the one before; the response ends with what it selects. -/
def spdmNegotiate (s : State) (t : Transport) (request code stage : Nat) (req selects : Bytes) : State :=
  if !spdmOn s t then s
  else
    let x := getSpdm s t
    if x.stage ≠ stage then spdmError s
    else
      let b := Config.spdmBody request req ++ selects
      spdmAnswer s t code b { x with stage := stage + 1, vca := x.vca ++ req ++ b }

/-- Bytes of the DER object that begins a list: a SEQUENCE with a definite length; 0 where none does. -/
def derLength (b : Bytes) : Nat :=
  if leNat (b.take 1) ≠ 0x30 then 0
  else
    let k := leNat ((b.drop 1).take 1)
    if k < 128 then 2 + k else 2 + (k - 128) + leNat ((b.drop 2).take (k - 128)).reverse

/-- Whole certificates, one after the other (R569). -/
def derChain : Nat → Bytes → Bytes
  | 0, _ => []
  | n + 1, b => let k := derLength b; if k = 0 ∨ b.length < k then [] else b.take k ++ derChain n (b.drop k)

/-- The chain of slot 0: Genlon's root and the DeviceID certificate, as the flash store holds them, and the alias certificate (R569, R578). -/
def certChain (s : State) : Bytes := derChain 0xE_0000 (flashBytes s 0x2_0000 0xE_0000) ++ s.boot.aliasCert

/-- GET_DIGESTS and GET_CERTIFICATE, of slot 0: the response ends with what is asked for. -/
def spdmCerts (s : State) (t : Transport) (request code slot : Nat) (req content : Bytes) : State :=
  if !spdmOn s t then s
  else
    let x := getSpdm s t
    if x.stage ≠ 3 ∨ slot ≠ 0 then spdmError s
    else
      let b := Config.spdmBody request req ++ content
      spdmAnswer s t code b { x with certs := x.certs ++ req ++ b }

/-- The alias key's signature over a transcript (R576, R578). -/
def aliasSignature (s : State) (b : Bytes) : Bytes := Config.aliasSign s.fuses.seed (getMeas s 1) (getMeas s 2) (getMeas s 5) b

/-- CHALLENGE: signed over the negotiation, the certificates and this exchange. -/
def spdmChallenge (s : State) (t : Transport) (req : Bytes) : State :=
  if !spdmOn s t then s
  else
    let x := getSpdm s t
    if x.stage ≠ 3 then spdmError s
    else
      let b := Config.spdmBody 0x83 req
      spdmAnswer s t 0x03 (b ++ aliasSignature s (x.vca ++ x.certs ++ req ++ b)) { x with certs := [] }

/-- Measurement blocks: the digests of R577 as raw bit streams. -/
def measBlocks (s : State) : Bytes := (rangeFrom 1 6).flatMap fun i => natLe 1 i ++ natLe 32 (getMeas s i).toNat

/-- GET_MEASUREMENTS. -/
def spdmMeasurements (s : State) (t : Transport) (req : Bytes) : State :=
  if !spdmOn s t then s
  else
    let x := getSpdm s t
    if x.stage ≠ 3 then spdmError s
    else
      let b := measBlocks s
      let m := x.meas ++ req ++ b
      spdmAnswer s t 0x60 (b ++ aliasSignature s (x.vca ++ m)) { x with meas := m }

def execGetVersion (t : Transport) (s : State) : Host.Outcome State Fault Refusal := .next (spdmVersion s t)
def execGetCapabilities (t : Transport) (req : Bytes) (s : State) : Host.Outcome State Fault Refusal :=
  .next (spdmNegotiate s t 0xE1 0x61 1 req [])
def execNegotiateAlgorithms (t : Transport) (req : Bytes) (s : State) : Host.Outcome State Fault Refusal :=
  .next (spdmNegotiate s t 0xE3 0x63 2 req algorithms)
def execGetDigests (t : Transport) (s : State) : Host.Outcome State Fault Refusal :=
  .next (spdmCerts s t 0x81 0x01 0 [] (natLe 32 (Config.sha3 (certChain s)).toNat))
def execGetCertificate (t : Transport) (slot offset len : Nat) (s : State) : Host.Outcome State Fault Refusal :=
  .next (spdmCerts s t 0x82 0x02 slot (natLe 2 offset ++ natLe 2 len) (((certChain s).drop offset).take len))
def execChallenge (t : Transport) (req : Bytes) (s : State) : Host.Outcome State Fault Refusal := .next (spdmChallenge s t req)
def execGetMeasurements (t : Transport) (req : Bytes) (s : State) : Host.Outcome State Fault Refusal := .next (spdmMeasurements s t req)

end Sys2Proof.Machine
end

