-- ==== Sys2Proof/Machine/Dispatch.lean ====
section
/-! DEFINITION. Which meaning each command has: one arm per constructor of Instr. -/

namespace Sys2Proof.Machine

/-- A command's effect on everything but the queue of waiting commands. -/
def exec (i : Instr) (s : State) : Host.Outcome State Fault Refusal :=
  match i with
  | .lapMark => Sys2Proof.Machine.execLapMark s
  | .doorbellPoll => Sys2Proof.Machine.execDoorbellPoll s
  | .lapCleanSend dst => Sys2Proof.Machine.execLapCleanSend dst s
  | .lapClean w => Sys2Proof.Machine.execLapClean w s
  | .commitPoint => Sys2Proof.Machine.execCommitPoint s
  | .firstIssue => Sys2Proof.Machine.execFirstIssue s
  | .planPoint => Sys2Proof.Machine.execPlanPoint s
  | .holdoverLimit => Sys2Proof.Machine.execHoldoverLimit s
  | .taskStart u => Sys2Proof.Machine.execTaskStart u s
  | .taskFinish u activeNs energyNj => Sys2Proof.Machine.execTaskFinish u activeNs energyNj s
  | .frameWaitResume u m => Sys2Proof.Machine.execFrameWaitResume u m s
  | .fillCopyComplete r frame => Sys2Proof.Machine.execFillCopyComplete r frame s
  | .fold r => Sys2Proof.Machine.execFold r s
  | .ptRecordWrite r => Sys2Proof.Machine.execPtRecordWrite r s
  | .ptUpdateRecord who r word1 => Sys2Proof.Machine.execPtUpdateRecord who r word1 s
  | .nop u => Sys2Proof.Machine.execNop u s
  | .endTask u => Sys2Proof.Machine.execEndTask u s
  | .loop u => Sys2Proof.Machine.execLoop u s
  | .branch u => Sys2Proof.Machine.execBranch u s
  | .branchIf u => Sys2Proof.Machine.execBranchIf u s
  | .lrSet u => Sys2Proof.Machine.execLrSet u s
  | .lrAdd u => Sys2Proof.Machine.execLrAdd u s
  | .lrFromSum u => Sys2Proof.Machine.execLrFromSum u s
  | .sbPost u => Sys2Proof.Machine.execSbPost u s
  | .sbWait u => Sys2Proof.Machine.execSbWait u s
  | .sbRelease u => Sys2Proof.Machine.execSbRelease u s
  | .sbWaitFree u => Sys2Proof.Machine.execSbWaitFree u s
  | .tumSignal u => Sys2Proof.Machine.execTumSignal u s
  | .tumWait u => Sys2Proof.Machine.execTumWait u s
  | .fence u => Sys2Proof.Machine.execFence u s
  | .sumPost u => Sys2Proof.Machine.execSumPost u s
  | .halt u => Sys2Proof.Machine.execHalt u s
  | .mac u => Sys2Proof.Machine.execMac u s
  | .macT u => Sys2Proof.Machine.execMacT u s
  | .mtxLoad u => Sys2Proof.Machine.execMtxLoad u s
  | .drain u => Sys2Proof.Machine.execDrain u s
  | .zero u => Sys2Proof.Machine.execZero u s
  | .batch u => Sys2Proof.Machine.execBatch u s
  | .batchTimeout u => Sys2Proof.Machine.execBatchTimeout u s
  | .vecNop u => Sys2Proof.Machine.execVecNop u s
  | .mov u => Sys2Proof.Machine.execMov u s
  | .add u => Sys2Proof.Machine.execAdd u s
  | .sub u => Sys2Proof.Machine.execSub u s
  | .mul u => Sys2Proof.Machine.execMul u s
  | .fma u => Sys2Proof.Machine.execFma u s
  | .vecMin u => Sys2Proof.Machine.execVecMin u s
  | .vecMax u => Sys2Proof.Machine.execVecMax u s
  | .abs u => Sys2Proof.Machine.execAbs u s
  | .neg u => Sys2Proof.Machine.execNeg u s
  | .cmpLt u => Sys2Proof.Machine.execCmpLt u s
  | .cmpLe u => Sys2Proof.Machine.execCmpLe u s
  | .cmpEq u => Sys2Proof.Machine.execCmpEq u s
  | .cmpNe u => Sys2Proof.Machine.execCmpNe u s
  | .sel u => Sys2Proof.Machine.execSel u s
  | .cvt u => Sys2Proof.Machine.execCvt u s
  | .srCvt u => Sys2Proof.Machine.execSrCvt u s
  | .compress u => Sys2Proof.Machine.execCompress u s
  | .expand u => Sys2Proof.Machine.execExpand u s
  | .and u => Sys2Proof.Machine.execAnd u s
  | .or u => Sys2Proof.Machine.execOr u s
  | .xor u => Sys2Proof.Machine.execXor u s
  | .shl u => Sys2Proof.Machine.execShl u s
  | .shr u => Sys2Proof.Machine.execShr u s
  | .rand u => Sys2Proof.Machine.execRand u s
  | .exp u => Sys2Proof.Machine.execExp u s
  | .log u => Sys2Proof.Machine.execLog u s
  | .rcp u => Sys2Proof.Machine.execRcp u s
  | .rsqrt u => Sys2Proof.Machine.execRsqrt u s
  | .rowStart u => Sys2Proof.Machine.execRowStart u s
  | .redSum u => Sys2Proof.Machine.execRedSum u s
  | .redMax u => Sys2Proof.Machine.execRedMax u s
  | .sumExp u => Sys2Proof.Machine.execSumExp u s
  | .shiftedSq u => Sys2Proof.Machine.execShiftedSq u s
  | .normTap u => Sys2Proof.Machine.execNormTap u s
  | .rowEnd u => Sys2Proof.Machine.execRowEnd u s
  | .scanStep u => Sys2Proof.Machine.execScanStep u s
  | .loadH u => Sys2Proof.Machine.execLoadH u s
  | .storeH u => Sys2Proof.Machine.execStoreH u s
  | .chunk u => Sys2Proof.Machine.execChunk u s
  | .hingeSubmit u => Sys2Proof.Machine.execHingeSubmit u s
  | .hingeWait u => Sys2Proof.Machine.execHingeWait u s
  | .hingeOperation b => Sys2Proof.Machine.execHingeOperation b s
  | .hingeComplete b => Sys2Proof.Machine.execHingeComplete b s
  | .dmaKick u => Sys2Proof.Machine.execDmaKick u s
  | .dmaWait u => Sys2Proof.Machine.execDmaWait u s
  | .moverStart u m => Sys2Proof.Machine.execMoverStart u m s
  | .moverStop u m => Sys2Proof.Machine.execMoverStop u m s
  | .rearm u m => Sys2Proof.Machine.execRearm u m s
  | .flush u m => Sys2Proof.Machine.execFlush u m s
  | .takeBaton u m => Sys2Proof.Machine.execTakeBaton u m s
  | .streamRun u m => Sys2Proof.Machine.execStreamRun u m s
  | .streamBusError u m => Sys2Proof.Machine.execStreamBusError u m s
  | .dmaCopy e ch => Sys2Proof.Machine.execDmaCopy e ch s
  | .dmaFill e ch => Sys2Proof.Machine.execDmaFill e ch s
  | .dmaSwap64 e ch => Sys2Proof.Machine.execDmaSwap64 e ch s
  | .dmaComplete e ch => Sys2Proof.Machine.execDmaComplete e ch s
  | .dmaTransferError e ch kind write delivered => Sys2Proof.Machine.execDmaTransferError e ch kind write delivered s
  | .dmaTailWrite e tail => Sys2Proof.Machine.execDmaTailWrite e tail s
  | .resume e => Sys2Proof.Machine.execResume e s
  | .abort e => Sys2Proof.Machine.execAbort e s
  | .haltClear c => Sys2Proof.Machine.execHaltClear c s
  | .forceHalt c level fromBar0 => Sys2Proof.Machine.execForceHalt c level fromBar0 s
  | .seHaltClear e => Sys2Proof.Machine.execSeHaltClear e s
  | .seForceHalt e level fromBar0 => Sys2Proof.Machine.execSeForceHalt e level fromBar0 s
  | .engineReset e => Sys2Proof.Machine.execEngineReset e s
  | .sbEntryWrite b hi value => Sys2Proof.Machine.execSbEntryWrite b hi value s
  | .oobClear c mask => Sys2Proof.Machine.execOobClear c mask s
  | .bsConfClearAll b => Sys2Proof.Machine.execBsConfClearAll b s
  | .tumSet region unit value => Sys2Proof.Machine.execTumSet region unit value s
  | .syncDumpStart => Sys2Proof.Machine.execSyncDumpStart s
  | .syncDumpCancel => Sys2Proof.Machine.execSyncDumpCancel s
  | .syncDumpDataRead => Sys2Proof.Machine.execSyncDumpDataRead s
  | .graph ring => Sys2Proof.Machine.execGraph ring s
  | .graphResolved graphId => Sys2Proof.Machine.execGraphResolved graphId s
  | .ownerTable ring => Sys2Proof.Machine.execOwnerTable ring s
  | .guardTable ring => Sys2Proof.Machine.execGuardTable ring s
  | .hurdleTable ring => Sys2Proof.Machine.execHurdleTable ring s
  | .stopGraph ring => Sys2Proof.Machine.execStopGraph ring s
  | .nudge ring => Sys2Proof.Machine.execNudge ring s
  | .ringEnable side ring value => Sys2Proof.Machine.execRingEnable side ring value s
  | .ownerUpdateRecord word3 => Sys2Proof.Machine.execOwnerUpdateRecord word3 s
  | .bar2Write offset data => Sys2Proof.Machine.execBar2Write offset data s
  | .bar2WriteRelease => Sys2Proof.Machine.execBar2WriteRelease s
  | .bar2Read offset len => Sys2Proof.Machine.execBar2Read offset len s
  | .registerWrite who offset value => Sys2Proof.Machine.execRegisterWrite who offset value s
  | .fwFlagsWrite value => Sys2Proof.Machine.execFwFlagsWrite value s
  | .lapNumLoRead => Sys2Proof.Machine.execLapNumLoRead s
  | .measDataRead => Sys2Proof.Machine.execMeasDataRead s
  | .indDataRead who r => Sys2Proof.Machine.execIndDataRead who r s
  | .indDataWrite who r value => Sys2Proof.Machine.execIndDataWrite who r value s
  | .indTimeout who r write => Sys2Proof.Machine.execIndTimeout who r write s
  | .flr => Sys2Proof.Machine.execFlr s
  | .atsInvalidation addr len => Sys2Proof.Machine.execAtsInvalidation addr len s
  | .writeOwner g => Sys2Proof.Machine.execWriteOwner g s
  | .writeExchange g => Sys2Proof.Machine.execWriteExchange g s
  | .writeResend g => Sys2Proof.Machine.execWriteResend g s
  | .readOwner g => Sys2Proof.Machine.execReadOwner g s
  | .readReply g => Sys2Proof.Machine.execReadReply g s
  | .ledger g => Sys2Proof.Machine.execLedger g s
  | .signalFlit g name => Sys2Proof.Machine.execSignalFlit g name s
  | .confirm w => Sys2Proof.Machine.execConfirm w s
  | .confirmTimeout => Sys2Proof.Machine.execConfirmTimeout s
  | .offer w => Sys2Proof.Machine.execOffer w s
  | .decline w => Sys2Proof.Machine.execDecline w s
  | .noRoute w => Sys2Proof.Machine.execNoRoute w s
  | .probe w turnaroundPs => Sys2Proof.Machine.execProbe w turnaroundPs s
  | .probeReply w nowPs => Sys2Proof.Machine.execProbeReply w nowPs s
  | .probeInterval nowPs => Sys2Proof.Machine.execProbeInterval nowPs s
  | .marker port m => Sys2Proof.Machine.execMarker port m s
  | .grandmasterTakeover => Sys2Proof.Machine.execGrandmasterTakeover s
  | .lapRefEdge offsetPs => Sys2Proof.Machine.execLapRefEdge offsetPs s
  | .lapRefHoldover => Sys2Proof.Machine.execLapRefHoldover s
  | .echo port roundTripPs turnaroundPs => Sys2Proof.Machine.execEcho port roundTripPs turnaroundPs s
  | .nak port ack => Sys2Proof.Machine.execNak port ack s
  | .laneFailure port lane => Sys2Proof.Machine.execLaneFailure port lane s
  | .retrainComplete port lanesGood => Sys2Proof.Machine.execRetrainComplete port lanesGood s
  | .dzlPortEnable port enable => Sys2Proof.Machine.execDzlPortEnable port enable s
  | .retrain port => Sys2Proof.Machine.execRetrain port s
  | .trainingComplete port lanesGood farId farPort delayPs => Sys2Proof.Machine.execTrainingComplete port lanesGood farId farPort delayPs s
  | .trainingTimeout port => Sys2Proof.Machine.execTrainingTimeout port s
  | .livenessPoll u answered => Sys2Proof.Machine.execLivenessPoll u answered s
  | .heartbeatMiss u => Sys2Proof.Machine.execHeartbeatMiss u s
  | .errqPop q => Sys2Proof.Machine.execErrqPop q s
  | .selfTestComplete c failing => Sys2Proof.Machine.execSelfTestComplete c failing s
  | .deadboltCmd value => Sys2Proof.Machine.execDeadboltCmd value s
  | .deadboltCutComplete => Sys2Proof.Machine.execDeadboltCutComplete s
  | .partRegionReset value => Sys2Proof.Machine.execPartRegionReset value s
  | .regionResetComplete r passed => Sys2Proof.Machine.execRegionResetComplete r passed s
  | .bridgeFailed b => Sys2Proof.Machine.execBridgeFailed b s
  | .bridgeEnable value => Sys2Proof.Machine.execBridgeEnable value s
  | .sensorSample r idx degrees => Sys2Proof.Machine.execSensorSample r idx degrees s
  | .shedNChange high => Sys2Proof.Machine.execShedNChange high s
  | .paceReqChange level => Sys2Proof.Machine.execPaceReqChange level s
  | .snapshotRequest value => Sys2Proof.Machine.execSnapshotRequest value s
  | .restore value => Sys2Proof.Machine.execRestore value s
  | .push value => Sys2Proof.Machine.execPush value s
  | .flashDrainComplete slot ok => Sys2Proof.Machine.execFlashDrainComplete slot ok s
  | .streamsLoad value => Sys2Proof.Machine.execStreamsLoad value s
  | .trigger => Sys2Proof.Machine.execTrigger s
  | .tracksideFreeze => Sys2Proof.Machine.execTracksideFreeze s
  | .release => Sys2Proof.Machine.execRelease s
  | .exportImage => Sys2Proof.Machine.execExportImage s
  | .importImage => Sys2Proof.Machine.execImportImage s
  | .powerGoodRise => Sys2Proof.Machine.execPowerGoodRise s
  | .powerGoodFall => Sys2Proof.Machine.execPowerGoodFall s
  | .perstN high => Sys2Proof.Machine.execPerstN high s
  | .firmwareVerified slotB romOk => Sys2Proof.Machine.execFirmwareVerified slotB romOk s
  | .listTimeout => Sys2Proof.Machine.execListTimeout s
  | .service value => Sys2Proof.Machine.execService value s
  | .regRead offset count tag => Sys2Proof.Machine.execRegRead offset count tag s
  | .errqRead q tag => Sys2Proof.Machine.execErrqRead q tag s
  | .deadbolt kind unit tag => Sys2Proof.Machine.execDeadbolt kind unit tag s
  | .regionReset r tag => Sys2Proof.Machine.execRegionReset r tag s
  | .syncDump start tag => Sys2Proof.Machine.execSyncDump start tag s
  | .trkTrigger tag => Sys2Proof.Machine.execTrkTrigger tag s
  | .listPut entries tag => Sys2Proof.Machine.execListPut entries tag s
  | .listDone tag => Sys2Proof.Machine.execListDone tag s
  | .notifyAck => Sys2Proof.Machine.execNotifyAck s
  | .notifyResend => Sys2Proof.Machine.execNotifyResend s
  | .debugNonce tag => Sys2Proof.Machine.execDebugNonce tag s
  | .debugUnlock token tag => Sys2Proof.Machine.execDebugUnlock token tag s
  | .ownerEnroll digest tag => Sys2Proof.Machine.execOwnerEnroll digest tag s
  | .indRead r target offset count tag => Sys2Proof.Machine.execIndRead r target offset count tag s
  | .setEndpointId eid => Sys2Proof.Machine.execSetEndpointId eid s
  | .getVersion t => Sys2Proof.Machine.execGetVersion t s
  | .getCapabilities t req => Sys2Proof.Machine.execGetCapabilities t req s
  | .negotiateAlgorithms t req => Sys2Proof.Machine.execNegotiateAlgorithms t req s
  | .getDigests t => Sys2Proof.Machine.execGetDigests t s
  | .getCertificate t slot offset len => Sys2Proof.Machine.execGetCertificate t slot offset len s
  | .challenge t req => Sys2Proof.Machine.execChallenge t req s
  | .getMeasurements t req => Sys2Proof.Machine.execGetMeasurements t req s
  | .builtInTestComplete failed regionsFailed => Sys2Proof.Machine.execBuiltInTestComplete failed regionsFailed s
  | .flitCrcFailure port => Sys2Proof.Machine.execFlitCrcFailure port s
  | .idle port ack => Sys2Proof.Machine.execIdle port ack s
  | .forward r f => Sys2Proof.Machine.execForward r f s
  | .streamResponse u m => Sys2Proof.Machine.execStreamResponse u m s
  | .flashPortReady port width rate => Sys2Proof.Machine.execFlashPortReady port width rate s

end Sys2Proof.Machine
end

