-- ==== Sys2Proof/WellFormed.lean ====
section
/-! DEFINITION. What makes a command well formed: its operands name units, channels, ports and fields that the widths of the
manual admit (R1, R18, R98, R450, R453, R466, R487, R497, R546, R554, R559, R580, R606). Whether the unit is there is a matter of State. -/

namespace Sys2Proof

namespace WellFormed

/-- A core or a stack engine (R18, R559). -/
def unit (u : Nat) : Bool := decide (u < 528)
def coreIx (c : Nat) : Bool := decide (c < 512)
def engine (e : Nat) : Bool := decide (e < 16)
def block (b : Nat) : Bool := decide (b < 64)
def region (r : Nat) : Bool := decide (r < 8)
def port (p : Nat) : Bool := decide (p < 32)
def ring (n : Nat) : Bool := decide (n < 1024)
def partId (p : Nat) : Bool := decide (p < 2 ^ 17)
def tag (t : Nat) : Bool := decide (t < 256)
def mover (u m : Nat) : Bool := unit u && decide (m < 8)

/-- A requester of register accesses; a control core is one of a region (R34). -/
def requester : Requester → Bool
  | .control r => region r
  | .bar4 => false
  | _ => true

/-- Channels of a block engine and of a region engine (R326). -/
def channel : DmaEng → Nat → Bool
  | .blk b, ch => block b && decide (ch < 16)
  | .rgn r, ch => region r && decide (ch < 32)

def dmaEng : DmaEng → Bool
  | .blk b => block b
  | .rgn r => region r

def queue : QueueId → Bool
  | .blk b => block b
  | .rgn r => region r
  | .part => true

def polled : PolledUnit → Bool
  | .core c => coreIx c
  | .block b => block b
  | .region r => region r
  | .engine e => engine e
  | .controlCore n => port n

/-- A segment head's fields (R450, R453). -/
def segment (g : Segment) : Bool :=
  partId g.src && partId g.dst && decide (g.seg < 4096 ∧ g.tableId < 256 ∧ g.gen < 2 ^ 16 ∧ g.xid < 2 ^ 16 ∧ g.lap < 2 ^ 48 ∧ g.offset < 2 ^ 48)

/-- A flit's header fields (R450). -/
def flit (f : Flit) : Bool :=
  partId f.dst && partId f.src && decide (f.ftype < 16 ∧ f.cls < 4 ∧ f.hops < 64 ∧ f.valid < 16 ∧ f.vc < 2 ∧ f.seg < 4096 ∧ f.payload.length ≤ 240)

/-- A marker's fields (R466). -/
def marker (m : Marker) : Bool :=
  partId m.gmId && decide (m.lap < 2 ^ 48 ∧ m.periodUs < 2 ^ 11 ∧ m.depth < 32 ∧ m.gmRank < 16 ∧ m.residencePs < 2 ^ 24)

/-- A register of R546: 64 MiB of offsets. -/
def offset (o : Nat) : Bool := decide (o < 2 ^ 26)

end WellFormed

open WellFormed in
/-- Whether the operands of a command are in range. -/
def wellFormed : Instr → Bool
  | .lapMark => true
  | .doorbellPoll => true
  | .lapCleanSend dst => partId dst
  | .lapClean _ => true
  | .commitPoint => true
  | .firstIssue => true
  | .planPoint => true
  | .holdoverLimit => true
  | .taskStart u => unit u
  | .taskFinish u _ _ => unit u
  | .frameWaitResume u m => mover u m
  | .fillCopyComplete r frame => region r && decide (frame < 2 ^ 21)
  | .fold r => region r
  | .ptRecordWrite r => region r
  | .ptUpdateRecord who r _ => requester who && region r
  | .nop u => unit u
  | .endTask u => unit u
  | .loop u => unit u
  | .branch u => unit u
  | .branchIf u => unit u
  | .lrSet u => unit u
  | .lrAdd u => unit u
  | .lrFromSum u => unit u
  | .sbPost u => unit u
  | .sbWait u => unit u
  | .sbRelease u => unit u
  | .sbWaitFree u => unit u
  | .tumSignal u => unit u
  | .tumWait u => unit u
  | .fence u => unit u
  | .sumPost u => unit u
  | .halt u => unit u
  | .mac u => unit u
  | .macT u => unit u
  | .mtxLoad u => unit u
  | .drain u => unit u
  | .zero u => unit u
  | .batch u => unit u
  | .batchTimeout u => unit u
  | .vecNop u => unit u
  | .mov u => unit u
  | .add u => unit u
  | .sub u => unit u
  | .mul u => unit u
  | .fma u => unit u
  | .vecMin u => unit u
  | .vecMax u => unit u
  | .abs u => unit u
  | .neg u => unit u
  | .cmpLt u => unit u
  | .cmpLe u => unit u
  | .cmpEq u => unit u
  | .cmpNe u => unit u
  | .sel u => unit u
  | .cvt u => unit u
  | .srCvt u => unit u
  | .compress u => unit u
  | .expand u => unit u
  | .and u => unit u
  | .or u => unit u
  | .xor u => unit u
  | .shl u => unit u
  | .shr u => unit u
  | .rand u => unit u
  | .exp u => unit u
  | .log u => unit u
  | .rcp u => unit u
  | .rsqrt u => unit u
  | .rowStart u => unit u
  | .redSum u => unit u
  | .redMax u => unit u
  | .sumExp u => unit u
  | .shiftedSq u => unit u
  | .normTap u => unit u
  | .rowEnd u => unit u
  | .scanStep u => unit u
  | .loadH u => unit u
  | .storeH u => unit u
  | .chunk u => unit u
  | .hingeSubmit u => unit u
  | .hingeWait u => unit u
  | .hingeOperation b => block b
  | .hingeComplete b => block b
  | .dmaKick u => unit u
  | .dmaWait u => unit u
  | .moverStart u m => mover u m
  | .moverStop u m => mover u m
  | .rearm u m => mover u m
  | .flush u m => mover u m
  | .takeBaton u m => mover u m
  | .streamRun u m => mover u m
  | .streamBusError u m => mover u m
  | .dmaCopy e ch => channel e ch
  | .dmaFill e ch => channel e ch
  | .dmaSwap64 e ch => channel e ch
  | .dmaComplete e ch => channel e ch
  | .dmaTransferError e ch _ _ _ => channel e ch
  | .dmaTailWrite e _ => dmaEng e
  | .resume e => dmaEng e
  | .abort e => dmaEng e
  | .haltClear c => coreIx c
  | .forceHalt c level _ => coreIx c && decide (level < 4)
  | .seHaltClear e => engine e
  | .seForceHalt e level _ => engine e && decide (level < 4)
  | .engineReset e => engine e
  | .sbEntryWrite b _ _ => block b
  | .oobClear c _ => coreIx c
  | .bsConfClearAll b => block b
  | .tumSet region unit _ => if region then WellFormed.region unit else block unit
  | .syncDumpStart => true
  | .syncDumpCancel => true
  | .syncDumpDataRead => true
  | .graph ring => WellFormed.ring ring
  | .graphResolved graphId => decide (graphId < 2 ^ 32)
  | .ownerTable ring => WellFormed.ring ring
  | .guardTable ring => WellFormed.ring ring
  | .hurdleTable ring => WellFormed.ring ring
  | .stopGraph ring => WellFormed.ring ring
  | .nudge ring => WellFormed.ring ring
  | .ringEnable _ ring _ => WellFormed.ring ring
  | .ownerUpdateRecord _ => true
  | .bar2Write offset data => decide (offset + data.bytes.length ≤ 2 ^ 36)
  | .bar2WriteRelease => true
  | .bar2Read offset len => decide (offset + len ≤ 2 ^ 36)
  | .registerWrite who offset value =>
    (if who = .bar4 then decide (offset < 2 ^ 16) else requester who && WellFormed.offset offset) && decide (1 ≤ value.size ∧ value.size ≤ 8)
  | .fwFlagsWrite _ => true
  | .lapNumLoRead => true
  | .measDataRead => true
  | .indDataRead who r => requester who && region r
  | .indDataWrite who r _ => requester who && region r
  | .indTimeout who r _ => requester who && region r
  | .flr => true
  | .atsInvalidation addr len => decide (addr + len ≤ 2 ^ 51)
  | .writeOwner s => segment s
  | .writeExchange s => segment s
  | .writeResend s => segment s
  | .readOwner s => segment s
  | .readReply s => segment s
  | .ledger s => segment s
  | .signalFlit s _ => segment s
  | .confirm _ => true
  | .confirmTimeout => true
  | .offer _ => true
  | .decline _ => true
  | .noRoute _ => true
  | .probe _ _ => true
  | .probeReply _ _ => true
  | .probeInterval _ => true
  | .marker port m => WellFormed.port port && WellFormed.marker m
  | .grandmasterTakeover => true
  | .lapRefEdge _ => true
  | .lapRefHoldover => true
  | .echo port _ _ => WellFormed.port port
  | .nak port ack => WellFormed.port port && decide (ack < 4096)
  | .laneFailure port lane => WellFormed.port port && decide (lane < 8)
  | .retrainComplete port lanesGood => WellFormed.port port && decide (lanesGood < 256)
  | .dzlPortEnable port _ => WellFormed.port port
  | .retrain port => WellFormed.port port
  | .trainingComplete port lanesGood farId farPort delayPs => WellFormed.port port && partId farId && decide (lanesGood < 256 ∧ farPort < 32 ∧ delayPs < 2 ^ 20)
  | .trainingTimeout port => WellFormed.port port
  | .livenessPoll u _ => polled u
  | .heartbeatMiss u => polled u
  | .errqPop q => queue q
  | .selfTestComplete c _ => coreIx c
  | .deadboltCmd _ => true
  | .deadboltCutComplete => true
  | .partRegionReset _ => true
  | .regionResetComplete r _ => region r
  | .bridgeFailed b => decide (b < 12)
  | .bridgeEnable _ => true
  | .sensorSample r i _ => region r && decide (i < 12)
  | .shedNChange _ => true
  | .paceReqChange level => decide (level < 4)
  | .snapshotRequest _ => true
  | .restore _ => true
  | .push _ => true
  | .flashDrainComplete slot _ => decide (slot < 2)
  | .streamsLoad _ => true
  | .trigger => true
  | .tracksideFreeze => true
  | .release => true
  | .exportImage => true
  | .importImage => true
  | .powerGoodRise => true
  | .powerGoodFall => true
  | .perstN _ => true
  | .firmwareVerified _ _ => true
  | .listTimeout => true
  | .service _ => true
  | .regRead offset count tag => WellFormed.offset offset && WellFormed.tag tag && decide (count < 256)
  | .errqRead q tag => queue q && WellFormed.tag tag
  | .deadbolt kind unit tag => WellFormed.tag tag && decide (kind < 16 ∧ unit < 4096)
  | .regionReset r tag => region r && WellFormed.tag tag
  | .syncDump _ tag => WellFormed.tag tag
  | .trkTrigger tag => WellFormed.tag tag
  | .listPut entries tag => WellFormed.tag tag && decide (entries.length ≤ 7)
  | .listDone tag => WellFormed.tag tag
  | .notifyAck => true
  | .notifyResend => true
  | .debugNonce tag => WellFormed.tag tag
  | .debugUnlock _ tag => WellFormed.tag tag
  | .ownerEnroll _ tag => WellFormed.tag tag
  | .indRead r target offset count tag => region r && WellFormed.tag tag && decide (target < 256 ∧ offset < 2 ^ 20 ∧ count < 256)
  | .setEndpointId eid => decide (eid < 256)
  | .getVersion _ => true
  | .getCapabilities _ _ => true
  | .negotiateAlgorithms _ _ => true
  | .getDigests _ => true
  | .getCertificate _ slot offset len => decide (slot < 8 ∧ offset < 2 ^ 16 ∧ len < 2 ^ 16)
  | .challenge _ _ => true
  | .getMeasurements _ _ => true
  | .builtInTestComplete failed regionsFailed => failed.all (fun e => (unit e.1 && decide (e.2 < 7)) || decide (528 ≤ e.1 ∧ e.1 < 1552 ∧ e.2 = 0)) && regionsFailed.all region
  | .flitCrcFailure port => WellFormed.port port.port && decide (port.good < 4096)
  | .idle port ack => WellFormed.port port && decide (ack < 4096)
  | .forward r f => region r && flit f
  | .streamResponse u m => mover u m
  | .flashPortReady port width rate => decide (port < 2 ∧ width < 8 ∧ rate < 8)

end Sys2Proof
end

