-- ==== Sys2Proof/Safety.lean ====
section
/-! DEFINITION. What counts as a safe run, in the terms the statements use: steps that answer a next state, queues of
well-formed commands, and memories and tables in their one canonical form. -/

namespace Sys2Proof.Safety

open Sys2Proof.Machine

/-- A step that neither faults nor is refused. -/
def runs (s : State) : Prop := ∃ t, step s = .next t

/-- Every command that waits is well formed. -/
def queueOk (s : State) : Prop := ∀ c ∈ s.pending, wellFormed c = true

/-- What is fixed at manufacture is the same in two states (R1 to R3, R576, R606). -/
def sameMake (s t : State) : Prop :=
  t.fuses.grade = s.fuses.grade ∧ t.fuses.fusedOff = s.fuses.fusedOff ∧ t.fuses.scanLess = s.fuses.scanLess ∧
    t.fuses.standingW = s.fuses.standingW ∧ t.fuses.leak85W = s.fuses.leak85W ∧ t.fuses.seed = s.fuses.seed ∧
    t.fuses.serial = s.fuses.serial ∧ t.fuses.clockMHz = s.fuses.clockMHz

/-- What is burned stays burned: the rollback floor does not fall (R571) and an enrolled owner key stays (R583). -/
def burnKept (s t : State) : Prop :=
  s.fuses.rollbackFloor ≤ t.fuses.rollbackFloor ∧ ∀ d, s.fuses.ownerDigest = some d → t.fuses.ownerDigest = some d

/-- The memories of the part that are one table each are in canonical form. -/
def memoryOk (s : State) : Prop := tabWf (0 : Byte) s.host.mem = true ∧ tabWf (0 : Byte) s.lapLog = true ∧ tabWf (0 : Byte) s.boot.flash = true

/-! ## The sequencer -/

/-- The word w of a running sequencer issues now: nothing stalls it, and every check at issue passes (R127, R145). -/
def mayIssue (s : State) (u w : Nat) : Prop :=
  curWord s u = some w ∧ (getCore s u).seq.tumPending = none ∧ issueWait s u w = none ∧ issueCheck s u w = none

/-- The word w, whose operation has given t, leaves: the wait flags clear, its fields go to their engines (R127), and NOP
fields at the heads of field queues retire (R116). -/
def issued (t : State) (u w pc : Nat) : State :=
  settleNops (enqueueFields (updSeq t u (setWaits false false false false)) u w pc) u

/-- The relation that COND names between s and i (R119). -/
def condRel (cond : Nat) (s i : Word) : Prop :=
  match cond with
  | 0 => s = i
  | 1 => s ≠ i
  | 2 => s.toInt < i.toInt
  | 3 => i.toInt ≤ s.toInt
  | 4 => s.toNat < i.toNat
  | 5 => i.toNat ≤ s.toNat
  | 6 => s &&& i ≠ 0
  | _ => s &&& i = 0

/-- No NOP field stands at the head of a field queue once the fields of w have joined: nothing retires by itself. -/
def noNopHead (s : State) (u w : Nat) : Prop :=
  ∀ eng ∈ nopEngines, (getFq (getCore s u) eng = [] → ∀ p ∈ activeFields w, p.1 = eng → nopField eng p.2 = false) ∧
    ∀ f rest, getFq (getCore s u) eng = f :: rest → nopField eng f.bits = false

/-! ## Engines -/

/-- Field f stands at the head of an engine's field queue of a unit that runs a task. -/
def fieldAt (s : State) (u eng : Nat) (f : QField) (rest : List QField) : Prop :=
  (getCore s u).seq.st = .running ∧ getFq (getCore s u) eng = f :: rest

/-- The head field of an engine has run and left the unit as c: it retires, and so do NOP fields that it uncovers (R116, R127). -/
def retired (s : State) (u eng : Nat) (rest : List QField) (c : Core) : State := setCore s u (setFq c eng rest)

/-- The VEC field f at the head of the vector queue has its baton and its queue operands, and no check of R208 halts it: c is the unit
once it has taken them, with what the checks correct and suppress counted, and beats are the beats it reads, by queue (R139, R202, R224). -/
def vecReady (s : State) (u : Nat) (f : QField) (rest : List QField) (c : Core) (beats : List (Nat × Bytes)) : Prop :=
  fieldAt s u 2 f rest ∧ ∃ c1 c2 fixes sup, takeBaton (getCore s u) f.bits = .ok c1 ∧
    takeBeats c1 (vecQueues f.bits) [] = (.beat [] c2, beats) ∧ vecCheck c2 u f.bits = (none, fixes, sup) ∧
    c = { c2 with checks := { c2.checks with vec := satAdd 8 c2.checks.vec fixes, sup := satAdd 8 c2.checks.sup sup } }

/-- The VEC field at the head has left the unit as c: its baton is put, it retires, and its cycles count, with a free value for those
it waited (R138, R213, R225, R366; assumption 114). -/
def vecDone (s : State) (u cycles : Nat) (rest : List QField) (c : Core) : State :=
  let t := drawFree (retired s u 2 rest c)
  settleNops (if isSE u then fbump t.2 fSE_LANE_CYCLES_COUNT (u - 512) 0 (cycles + t.1)
    else fbump t.2 fCORE_VEC_CYCLES_COUNT u 0 (cycles + t.1)) u

end Sys2Proof.Safety
end

