-- ==== Sys2Proof/Certificates/Slice0/Obligations.lean ====
section
/-! DEFINITION. The statements for the provers, group by group: the machine, the sequencer, the engines, memory and transfers, the lap, the host,
registers, the link, faults, snapshots, boot and the sideband port. -/

open Sys2Proof Sys2Proof.Machine Sys2Proof.Safety

/-! ## The machine: the queue, reset, what every step keeps -/

/-- A step takes the command at the front of the queue and runs it on the part with the queue's rest. An empty queue idles, but that a part
which boots in phase RAILS comes to FIRMWARE; both are the model's choice (log entries 41 and 133). -/
def Obligations.StepRunsFront : Prop :=
  (∀ (s : State) (c : Instr) (rest : List Instr), s.pending = c :: rest → step s = exec c { s with pending := rest }) ∧
  ∀ s : State, s.pending = [] →
    (booting s = true → bootPhase s = 0 → step s = .next (fput s fPART_BOOT_STATUS_PHASE 0 0 1)) ∧
    (booting s = false ∨ bootPhase s ≠ 0 → step s = .next s)

/-- What reset leaves. Every voted or plain register field reads its reset value; the part is out of lap service, its queue is empty, its
memories, tables and error queues list nothing, every unit is as its own reset leaves it, POWER_GOOD is low (R565, R566). Values that the spec
does not give are the model's (log entry 1), and so is what a byte that nothing lists reads as (log entry 2). -/
def Obligations.ResetState : Prop :=
  (∀ (f : Fld) (unit sel : Nat), fget State.reset f unit sel = fldDefault State.reset.fuses.grade f sel) ∧
  State.reset.pending = [] ∧ inService State.reset = false ∧ State.reset.pins.powerGood = false ∧ State.reset.lap.cur = [] ∧
  State.reset.graphs = [] ∧ (∀ u, (getCore State.reset u).seq.st = .idle) ∧ (∀ u, (getCore State.reset u).task = none) ∧
  State.reset.host.mem = [] ∧ State.reset.boot.flash = [] ∧ State.reset.cores = [] ∧ State.reset.blocks = [] ∧ State.reset.regions = [] ∧
  State.reset.owners = [] ∧ State.reset.ownPend = [] ∧ State.reset.guards = [] ∧ State.reset.hurdles = [] ∧ State.reset.lapLog = [] ∧
  State.reset.digests = [] ∧ State.reset.out = [] ∧ (∀ q : QueueId, (queueOf State.reset q).recs = []) ∧
  (∀ u, (getCore State.reset u).store = []) ∧ (∀ b, (getBlock State.reset b).bs = []) ∧ (∀ r, (getRegion State.reset r).hbm = []) ∧
  fget State.reset fPART_LAP_CFG_PERIOD_US 0 0 = 100 ∧ fget State.reset fPART_LAP_CFG_COMMIT_WIN 0 0 = 16 ∧ queueOk State.reset ∧ memoryOk State.reset

/-- AN INVARIANT OF EVERY STEP: what manufacture fixed stays as it was in m, the rollback floor does not fall below m's, an owner key that m
has enrolled stays (R571, R583), and the commands that wait stay well formed. -/
def Obligations.EveryStepKeepsFuses : Prop :=
  ∀ (m s t : State), sameMake m s → burnKept m s → queueOk s → step s = .next t → sameMake m t ∧ burnKept m t ∧ queueOk t

/-- THE LAP SEQUENCE, over every command (R46, R575): a step leaves the lap number and the phase of the lap as they are, but that a lap mark
ends an issuing lap and counts the next; a commit point commits a marked lap or ends lap service; first issue starts a committed one; a
marker or a lap-reference edge opens lap service on a part whose SERVICE asks for it; and a part reset ends everything. The commands behind
the front one wait on in their order. -/
def Obligations.EveryStepKeepsLapSequence : Prop :=
  ∀ (s t : State) (c : Instr) (rest : List Instr), s.pending = c :: rest → step s = .next t →
    t.pending = rest ∧
    ((t.lap.num = s.lap.num ∧ t.lap.phase = s.lap.phase) ∨
     (c = .lapMark ∧ s.lap.phase = .issuing ∧ t.lap.phase = .marked ∧ t.lap.num = (s.lap.num + 1) % 2 ^ 48) ∨
     (c = .commitPoint ∧ s.lap.phase = .marked ∧ (t.lap.phase = .committed ∨ t.lap.phase = .off) ∧ t.lap.num = s.lap.num) ∨
     (c = .firstIssue ∧ s.lap.phase = .committed ∧ s.part.thermTrip = false ∧ t.lap.phase = .issuing ∧ t.lap.num = s.lap.num) ∨
     (s.lap.phase = .off ∧ fget s fPART_BOOT_CTRL_SERVICE 0 0 = 1 ∧ t.lap.phase = .marked ∧
       ((∃ port m, c = .marker port m ∧ t.lap.num = m.lap) ∨ ∃ o, c = .lapRefEdge o ∧ t.lap.num = bootLap s)) ∨
     ((c = .powerGoodRise ∨ c = .powerGoodFall ∨ ∃ high, c = .perstN high) ∧ t.lap = State.reset.lap))

/-- The memories of the part. A write keeps the canonical form; a read of a written byte gives what was written, any other byte reads as
before; and bytes written together read back together. It is a law of the model's memory, whose canonical form and whose value of a byte that
nothing lists are the model's choice (log entry 2). -/
def Obligations.MemoryReadsWhatWasWritten : Prop :=
  ∀ (m : Mem) (a : Nat) (bs : Bytes), Memory.wf m = true →
    Memory.wf (memWrite m a bs) = true ∧ memRead (memWrite m a bs) a bs.length = bs ∧
    ∀ b, (b < a ∨ a + bs.length ≤ b) → memGet (memWrite m a bs) b = memGet m b

/-- Register fields. A written field reads back, at its width; every other field, and the same field of another unit or copy, reads as
before; and a voted field whose three copies hold one value survives an upset of any one of them (R12). -/
def Obligations.FieldsReadBack : Prop :=
  (∀ (s : State) (f : Fld) (u i v : Nat), fget (fput s f u i v) f u i = v % 2 ^ f.width) ∧
  (∀ (s : State) (f g : Fld) (u i v w j : Nat), fldKey f u i ≠ fldKey g w j → fget (fput s f u i v) g w j = fget s g w j) ∧
  (∀ v x : Nat, voteTri ⟨x, v, v⟩ = v ∧ voteTri ⟨v, x, v⟩ = v ∧ voteTri ⟨v, v, x⟩ = v)

/-! ## The sequencer -/

/-- The words of control flow complete: NOP goes on by the end test, END ends issue, LOOP opens its body or skips it, BRANCH goes
to its target and leaves the loops it jumps out of. -/
def Obligations.FlowWords : Prop :=
  ∀ (s : State) (u w : Nat), mayIssue s u w →
    let pc := (getCore s u).seq.pc
    let loops := (getCore s u).seq.loops
    (qSop w = 0x00 → exec (.nop u) s =
      .next (issued (updSeq s u fun q => { q with pc := (endTest pc loops).1, loops := (endTest pc loops).2 }) u w pc)) ∧
    (qSop w = 0x01 → exec (.endTask u) s = .next (issued (updSeq s u fun q => { q with ended := true }) u w pc)) ∧
    (qSop w = 0x02 → getLr (getCore s u) (qLr w) = 0 → exec (.loop u) s =
      .next (issued (updSeq s u fun q =>
        { q with pc := (endTest (qTarget w) loops).1, loops := (endTest (qTarget w) loops).2 }) u w pc)) ∧
    (qSop w = 0x02 → getLr (getCore s u) (qLr w) ≠ 0 → exec (.loop u) s =
      .next (issued (updSeq s u fun q =>
        { q with pc := pc + 1, loops := ⟨pc + 1, qTarget w, (getLr (getCore s u) (qLr w)).toNat⟩ :: loops }) u w pc)) ∧
    (qSop w = 0x03 → exec (.branch u) s =
      .next (issued (updSeq s u fun q => { q with pc := qTarget w, loops := leaveLoops (qTarget w) loops }) u w pc))

/-- BRANCH_IF branches exactly where the relation that COND names holds between S[SUM] and IMM (R119); else it goes on by the end
test. -/
def Obligations.BranchIfByCond : Prop :=
  ∀ (s : State) (u w : Nat), mayIssue s u w → qSop w = 0x04 →
    let q := (getCore s u).seq
    let v := getSum (getCore s u) (qSum w)
    let i := BitVec.ofNat 32 (qImm w)
    (condRel (qCond w) v i → exec (.branchIf u) s =
      .next (issued (updSeq s u fun q => { q with pc := qTarget w, loops := leaveLoops (qTarget w) q.loops }) u w q.pc)) ∧
    (¬ condRel (qCond w) v i → exec (.branchIf u) s =
      .next (issued (updSeq s u fun q => { q with pc := (endTest q.pc q.loops).1, loops := (endTest q.pc q.loops).2 }) u w q.pc))

/-- LR_SET, LR_ADD, LR_FROM_SUM, SUM_POST and FENCE complete with the one register each names written, and go on by the end
test. -/
def Obligations.RegisterWords : Prop :=
  ∀ (s : State) (u w : Nat), mayIssue s u w →
    let c := getCore s u
    let nextPc := fun (q : Seq) => { q with pc := (endTest c.seq.pc c.seq.loops).1, loops := (endTest c.seq.pc c.seq.loops).2 }
    let setLrTo := fun (v : Word) => issued (updSeq s u fun q => nextPc { q with lr := tabSet 0 q.lr (qLr w) v }) u w c.seq.pc
    (qSop w = 0x05 → exec (.lrSet u) s = .next (setLrTo (BitVec.ofNat 32 (qImm w)))) ∧
    (qSop w = 0x06 → exec (.lrAdd u) s = .next (setLrTo (getLr c (qLr w) + BitVec.ofNat 32 (qImm w)))) ∧
    (qSop w = 0x07 → exec (.lrFromSum u) s = .next (setLrTo (getSum c (qSum w)))) ∧
    (qSop w = 0x0E → exec (.fence u) s = .next (issued (updSeq s u nextPc) u w c.seq.pc)) ∧
    (qSop w = 0x0F → exec (.sumPost u) s = .next (issued (updSeq s u fun q =>
      nextPc { q with results := tabSet 0 q.results (qImm w % 8) (getSum c (qSum w)) }) u w c.seq.pc))

/-- The frame of the words that name no memory: only the sequencer, the queue bindings and the field queues of the one unit may
change. Every register file, store, cache, accumulator and mover of the unit, every other unit, and everything outside the units is
as before; loop registers, summaries and results other than the one that the word names keep their values. -/
def Obligations.WordFrame : Prop :=
  ∀ (s t : State) (u w : Nat), mayIssue s u w → noNopHead s u w →
    ∀ i ∈ ([(0x00, .nop u), (0x01, .endTask u), (0x02, .loop u), (0x03, .branch u), (0x04, .branchIf u), (0x05, .lrSet u), (0x06, .lrAdd u),
        (0x07, .lrFromSum u), (0x0E, .fence u), (0x0F, .sumPost u)] : List (Nat × Instr)),
      qSop w = i.1 → exec i.2 s = .next t →
        let c := getCore s u
        let d := getCore t u
        t = { s with cores := t.cores } ∧ (∀ v, v ≠ u → getCore t v = getCore s v) ∧
        d = { c with seq := d.seq, fq := d.fq, queues := d.queues } ∧
        (∀ q, (getQ d q).items = (getQ c q).items) ∧
        d.seq.sums = c.seq.sums ∧ d.seq.cstore = c.seq.cstore ∧ d.seq.st = .running ∧ d.seq.haltRec = c.seq.haltRec ∧
        (∀ k, ¬ ((i.1 = 0x05 ∨ i.1 = 0x06 ∨ i.1 = 0x07) ∧ k = qLr w) → getLr d k = getLr c k) ∧
        (∀ k, ¬ (i.1 = 0x0F ∧ k = qImm w % 8) → tabGet 0 d.seq.results k = tabGet 0 c.seq.results k)

/-- A loop of count c runs its body c times: the first c - 1 end tests at its end word go back to its start, and the next drops it and
tests the loop around it at the same word. -/
def Obligations.LoopRunsLrTimes : Prop :=
  ∀ (start stop n : Nat) (outer : List LoopEnt),
    let test := fun (r : Nat × List LoopEnt) => endTest stop r.2
    (∀ k, 1 ≤ k → k < n → test^[k] (start, ⟨start, stop, n⟩ :: outer) = (start, ⟨start, stop, n - k⟩ :: outer)) ∧
    (1 ≤ n → test^[n] (start, ⟨start, stop, n⟩ :: outer) = endTest stop outer) ∧
    (∀ p l, p ≠ stop → endTest p (⟨start, stop, l⟩ :: outer) = (p + 1, ⟨start, stop, l⟩ :: outer))

/-- HALT halts the unit with PROGRAM_HALT and IMM as its DETAIL: issue stops, the field queues are discarded, every mover that is armed
stops, every queue is emptied, and loop stack, loop registers and summaries are cleared. The record goes to the error queue of the core's
block, or of a stack engine's region (R152, R357); where that queue takes it, stores and memory stay, and so does every other unit. That a
class P record goes under the cause of class H is an inference (log entry 107). -/
def Obligations.HaltWord : Prop :=
  ∀ (s : State) (u w : Nat), mayIssue s u w → qSop w = 0x10 → ∃ t, exec (.halt u) s = .next t ∧
    let c := getCore s u
    let d := getCore t u
    let index := ((unitTask s u).map (·.desc.index)).getD 0
    let halt := haltRecord s u 0x15 0 c.seq.pc c.seq.loops.length (((unitTask s u).map (·.graph)).getD 0) index (qImm w)
    let rec_ := if isSE u then errRecord s 3 2 0x0B (u - 512) 3 0 (halt % 2 ^ 32)
      else errRecord s 0 1 0x01 u 0 0 (halt % 2 ^ 32 + index % 2 ^ 16 * 2 ^ 32)
    let queue := if isSE u then (getRegion s (unitRegion u)).errq else (getBlock s (unitBlock u)).errq
    arrive queue rec_ = .enter →
    d.seq.st = .halted ∧ d.fq = [] ∧ (∀ q, (getQ d q).items = []) ∧ d.seq.loops = [] ∧ d.seq.lr = [] ∧ d.seq.sums = [] ∧
    (∀ m, (getMv d m).st = .unarmed ∨ (getMv d m).st = .armed) ∧ (∀ m, (getMv d m).req = none) ∧ d.task = none ∧ d.seq.haltRec = halt ∧
    d.store = c.store ∧ d.cache = c.cache ∧ d.acc = c.acc ∧ d.slots = c.slots ∧ d.masks = c.masks ∧ d.quarantined = c.quarantined ∧
    (∀ k ∈ t.lap.cur, k.unit = u → some k.slot = c.task → k.outcome ≠ none) ∧
    (∀ r, getRegion t r = { getRegion s r with errq := if isSE u ∧ r = unitRegion u then errqTake queue rec_ else (getRegion s r).errq }) ∧
    (∀ b, getBlock t b = { getBlock s b with errq := if ¬ isSE u ∧ b = unitBlock u then errqTake queue rec_ else (getBlock s b).errq }) ∧
    t.graphs = s.graphs ∧ t.link = s.link ∧ t.owners = s.owners ∧ t.guards = s.guards ∧ t.hurdles = s.hurdles ∧
    ∀ v, v ≠ u → getCore t v = getCore s v

/-! ## Scoreboard and tumblers -/

/-- SB_POST, SB_WAIT, SB_RELEASE and SB_WAIT_FREE on region r = IMM[7:0] of the unit's block (R142): SB_RANGE for a region that is not
valid, SB_ROLE in the wrong role, and else the count changes, or the word goes on, or issue stalls. SB_POST waits for a quiet unit
first, as FENCE does. -/
def Obligations.ScoreboardWords : Prop :=
  (∀ (s : State) (u w : Nat), mayIssue s u w →
    let b := unitBlock u
    let r := qImm w % 256
    let n := nbits (qImm w) 8 8
    let x := getSb s b r
    let me := u % 8
    let rel := tabGet 0 x.rel me
    let pc := (getCore s u).seq.pc
    let loops := (getCore s u).seq.loops
    let go := fun (t : State) => issued (updSeq t u fun q => { q with pc := (endTest pc loops).1, loops := (endTest pc loops).2 }) u w pc
    let stop := fun (reason : Nat) => haltUnit s u reason 0 pc r
    let stall := fun (t : State) => updSeq t u (setWaits true false false false)
    (∀ i ∈ ([(0x08, .sbPost u), (0x09, .sbWait u), (0x0A, .sbRelease u), (0x0B, .sbWaitFree u)] : List (Nat × Instr)), qSop w = i.1 →
      (x.valid = false → exec i.2 s = .next (stop 0x0C)) ∧
      (x.valid = true → ((i.1 = 0x08 ∨ i.1 = 0x0B) ∧ x.producer ≠ me ∨ (i.1 = 0x09 ∨ i.1 = 0x0A) ∧ nbit x.consumers me = false) →
        exec i.2 s = .next (stop 0x0D))) ∧
    (x.valid = true → x.producer = me →
      (qSop w = 0x08 → x.posted = 255 → exec (.sbPost u) s = .next (stop 0x0C)) ∧
      (qSop w = 0x08 → x.posted ≠ 255 → exec (.sbPost u) s = .next (go (putSb s b r { x with posted := x.posted + 1 }))) ∧
      (qSop w = 0x0B → x.posted - sbReleased x ≤ n → exec (.sbWaitFree u) s = .next (go s)) ∧
      (qSop w = 0x0B → n < x.posted - sbReleased x → exec (.sbWaitFree u) s = .next (stall s))) ∧
    (x.valid = true → nbit x.consumers me = true →
      (qSop w = 0x0A → rel = x.posted → exec (.sbRelease u) s = .next (stop 0x0C)) ∧
      (qSop w = 0x0A → rel ≠ x.posted →
        exec (.sbRelease u) s = .next (go (putSb s b r { x with rel := tabSet 0 x.rel me (rel + 1) }))) ∧
      (qSop w = 0x09 → (n = 0 ∧ rel < x.posted ∨ n ≠ 0 ∧ n ≤ x.posted) → exec (.sbWait u) s = .next (go (noteSb s u x))) ∧
      (qSop w = 0x09 → (n = 0 ∧ x.posted ≤ rel ∨ x.posted < n) → exec (.sbWait u) s = .next (stall (noteSb s u x))))) ∧
  ∀ (s : State) (u w : Nat), curWord s u = some w → (getCore s u).seq.tumPending = none → qSop w = 0x08 → isSE u = false →
    quiet s u = false → exec (.sbPost u) s = .next (updSeq s u (setWaits false false false false))

/-- TUM_SIGNAL (R430): the amount is added to COUNT, SIGNALS counts it, LAST_CORE and LAST_SOURCE name the core, and the waits are tested
again; past 65,535 the signal is refused, SAT is set and the core halts with TUMBLER_SAT. A tumbler that a deadbolt has cut drops it
(R437). -/
def Obligations.TumblerSignalWord : Prop :=
  ∀ (s : State) (u w : Nat), mayIssue s u w → qSop w = 0x0C →
    let t := tumRefOf (unitBlock u) (qImm w)
    let x := tumGet s t
    let amount := if nbits (qImm w) 24 8 = 0 then (getLr (getCore s u) (qLr w)).toNat else nbits (qImm w) 24 8
    let pc := (getCore s u).seq.pc
    (tumCut s t = true → exec (.tumSignal u) s = .next (issued (stepPc s u) u w pc)) ∧
    (tumCut s t = false → x.count + amount ≤ 65535 →
      exec (.tumSignal u) s = .next (issued (stepPc (tumRetest (noteSignaller (tumPut s t { x with
        count := x.count + amount, signals := min (x.signals + 1) 65535, lastCore := u, lastSource := 0,
        sigs := insNat x.sigs (runSlot s u) }) t (runSlot s u)) t) u) u w pc)) ∧
    (tumCut s t = false → 65535 < x.count + amount →
      exec (.tumSignal u) s = .next (haltUnit (tumPut s t { x with sat := true }) u 0x13 0 pc (qImm w)))

/-- TUM_WAIT at a tumbler on which nothing waits (R432): with COUNT at least the amount it passes at once, and a TAKE lowers COUNT by it;
else issue stalls with the wait at the tumbler. At a tumbler that a deadbolt has cut the wait is dropped and never passes (R437). A wait
that has passed since lets its word issue. -/
def Obligations.TumblerWaitWord : Prop :=
  (∀ (s : State) (u w : Nat), mayIssue s u w → qSop w = 0x0D →
    let t := tumRefOf (unitBlock u) (qImm w)
    let x := tumGet s t
    let amount := if nbits (qImm w) 24 8 = 0 then (getLr (getCore s u) (qLr w)).toNat else nbits (qImm w) 24 8
    let take := !nbit (qImm w) 21
    let pc := (getCore s u).seq.pc
    let waiting := updSeq s u fun q =>
      setWaits false false true false { q with tumPending := some (qImm w), tumAmount := amount, tumPassed := false }
    (tumCut s t = true → exec (.tumWait u) s = .next waiting) ∧
    (tumCut s t = false → x.waits = [] → x.count < amount →
      exec (.tumWait u) s = .next (tumPut waiting t { x with waits := [⟨u, runSlot s u, amount, take⟩] })) ∧
    (tumCut s t = false → x.waits = [] → amount ≤ x.count →
      exec (.tumWait u) s = .next (issued (updTask (tumPut (updSeq s u fun q => { q with
            pc := (endTest q.pc q.loops).1, loops := (endTest q.pc q.loops).2,
            tumPending := none, tumAmount := 0, tumPassed := false, waitTum := false })
          t { x with count := if take then x.count - amount else x.count, waits := [] })
        (runSlot s u) fun k => { k with rdTums := insNat k.rdTums (tumKey t), replay := k.replay || x.hand }) u w pc))) ∧
  ∀ (s : State) (u w : Nat), curWord s u = some w → qSop w = 0x0D → (getCore s u).seq.tumPending ≠ none →
    (getCore s u).seq.tumPassed = true →
    exec (.tumWait u) s = .next (issued (updSeq s u fun q => { q with
      pc := (endTest q.pc q.loops).1, loops := (endTest q.pc q.loops).2,
      tumPending := none, tumAmount := 0, tumPassed := false }) u w (getCore s u).seq.pc)

/-- TAKE waits are served strictly in order of arrival (R432): those that pass are the first TAKEs of the queue, their amounts leave COUNT,
the rest keep their order, and the first of the rest lacks count. -/
def Obligations.TakesServedInOrder : Prop :=
  ∀ (ws : List TumPend) (count : Nat),
    let r := serveTakes ws count false
    r.1 ++ r.2.1.filter (·.take) = ws.filter (·.take) ∧ r.2.1.filter (fun w => !w.take) = ws.filter (fun w => !w.take) ∧
    (r.1.map (·.amount)).sum + r.2.2 = count ∧ (∀ w rest, r.2.1.filter (·.take) = w :: rest → r.2.2 < w.amount)

/-! ## The matrix array -/

/-- MAC, MAC_T, LOAD, DRAIN and ZERO at the head of the matrix queue, with no batch open (R174, R179, R182): the beat leaves IQ, the rows of
the bank or the section of the slot take the result, BP moves as the operation says, the baton is put, the field retires, and a MAC counts
its rows as array cycles. An input that breaks a rule of R192 halts the core with BAD_OPERAND, and a MAC or DRAIN that reads an
uncorrectable word with STORE_ECC or ENGINE_CHECK; what it corrects is counted, and what is written whole holds no error (R193). -/
def Obligations.MatrixFields : Prop :=
  ∀ (s : State) (u : Nat) (f : QField) (rest : List QField) (c1 : Core),
    fieldAt s u 1 f rest → (getCore s u).batch = none → takeBaton (getCore s u) f.bits = .ok c1 →
    let b := f.bits
    let done := fun (c : Core) (cycles : Nat) => settleNops (countArray (retired s u 1 rest c) u cycles) u
    (∀ i ∈ ([(1, false, .mac u), (2, true, .macT u)] : List (Nat × Bool × Instr)), fOp4 b = i.1 →
      ∀ bs c2, popBeat c1 (mIq b) = .beat bs c2 →
        let t := mFmt b
        let n := bs.length / mtxRecord t i.2.1
        let tile := getSlot c2 (mSlot b)
        let base := getBp c2 (mAcc b)
        let records := (rangeFrom 0 n).zip (blocksOf (mtxRecord t i.2.1) n bs)
        let rows := rangeFrom base (if i.2.1 then 4 * n else n)
        (∀ d, inputBad c2 b [mSlot b] i.2.1 bs = some d → exec i.2.2 s = .next (settleNops (haltUnit s u 0x03 1 f.pc d) u)) ∧
        (tile.st = .ready → mtxPair t tile.fmt i.2.1 = true → bs.length % mtxRecord t i.2.1 = 0 → 1 ≤ n → n ≤ mtxRows t →
          (∀ e, arrayCheck c2 [mSlot b] (mAcc b) rows = .error e → exec i.2.2 s = .next (settleNops (haltUnit s u e.1 1 f.pc e.2) u)) ∧
          ∀ x c3, arrayCheck c2 [mSlot b] (mAcc b) rows = .ok x → putBaton (records.foldl (fun c r =>
              if i.2.1 then ((rangeFrom 0 4).zip (blocksOf 64 4 (macTRow t tile r.2))).foldl
                  (fun c q => addRow c (mAcc b) (base + 4 * r.1 + q.1) q.2) c
              else addRow c (mAcc b) (base + r.1) (macRow t tile r.2)) (mendAcc x (mAcc b) rows)) b = .ok c3 →
            exec i.2.2 s = .next (done c3 n))) ∧
    (fOp4 b = 3 → ∀ bs c2, popBeat c1 (mIq b) = .beat bs c2 →
      let t := mFmt b
      let old := getSlot c2 (mSlot b)
      let elems := decide (old.cursor < mtxSections t)
      let last := decide (old.cursor + 1 = mtxSections t + b2n (mtxScales t ≠ 0))
      let filled : WSlot := ⟨if last then .ready else .filling, if last then 0 else old.cursor + 1, t,
        if old.cursor = 0 then bs else if elems then old.elems ++ bs else old.elems, if elems then old.scales else bs⟩
      (old.cursor = 0 → 1 ≤ t ∧ t ≤ 9) → (old.cursor ≠ 0 → old.fmt = t) → bs.length = (if elems then 4096 else mtxScales t) →
      ∀ c3, putBaton { c2 with
          slots := tabSet wslotReset c2.slots (mSlot b) filled
          harm := tabSet 0 c2.harm (harmKey 2 (mSlot b) (if elems then old.cursor else 8)) 0 } b = .ok c3 → exec (.mtxLoad u) s = .next (done c3 0)) ∧
    (fOp4 b = 4 → ∀ c2,
      let bp := getBp c1 (mAcc b)
      pushQ c1 (mOq b) (.beat (unElems 4 (accRow c1 (mAcc b) bp))) = some c2 →
      (∀ e, arrayCheck c1 [] (mAcc b) [bp] = .error e → exec (.drain u) s = .next (settleNops (haltUnit s u e.1 1 f.pc e.2) u)) ∧
      ∀ x c3, arrayCheck c1 [] (mAcc b) [bp] = .ok x →
        putBaton (mendAcc { c2 with
          acc := tabSet [] c2.acc (mAcc b * 256 + bp) []
          bp := tabSet 0 c2.bp (mAcc b) ((bp + 1) % 256)
          checks := x.checks } (mAcc b) [bp]) b = .ok c3 → exec (.drain u) s = .next (done c3 0)) ∧
    (fOp4 b = 5 → ∀ c3,
      putBaton { c1 with
        acc := c1.acc.filter fun e => decide (e.1 / 256 ≠ mAcc b)
        bp := tabSet 0 c1.bp (mAcc b) 0
        harm := mendRange c1.harm (harmKey 3 (mAcc b) 0) (harmKey 3 (mAcc b) 256) } b = .ok c3 →
        exec (.zero u) s = .next (done c3 0))

/-- BATCH and its timeout (R188 to R191). A BATCH that opens a batch stages its records; when they hold whole windows of complete rows,
those rows run and drain, and FULL_CLOSES counts the windows; the field retires when its rows have drained, and rows below the window
stay staged. A timeout runs the complete rows of an open batch that no close has taken, and TIMEOUT_CLOSES counts it. A row that meets an
uncorrectable word halts the core (R193). -/
def Obligations.BatchFields : Prop :=
  (∀ (s : State) (u : Nat) (f : QField) (rest : List QField) (c1 c2 : Core) (bs : Bytes),
    fieldAt s u 1 f rest → fOp4 f.bits = 6 → (getCore s u).batch = none → takeBaton (getCore s u) f.bits = .ok c1 →
    let b := f.bits
    let n := bs.length / mtxRecord (mFmt b) false
    let records := blocksOf (mtxRecord (mFmt b) false) n bs
    let window := batchWindow s u (mSlot b)
    let windows := records.length / (16 - mSlot b) / window
    let staged := { c2 with batch := some ⟨mSlot b, mFmt b, mAcc b, mOq b, records, windows * window, none, [], f.pc, true, bs.length⟩ }
    let counted := fun (c : Core) (k : Nat) => fbump (countArray (setCore s u c) u k) fCORE_MTX_BATCH_STAT_FULL_CLOSES u 0 windows
    popBeat c1 (mIq b) = .beat bs c2 → inputBad c2 b (rangeFrom (mSlot b) (16 - mSlot b)) false bs = none →
      (∀ c k r d, batchDrain 128 staged 0 = .halt c k r d → exec (.batch u) s = .next (settleNops (haltUnit (counted c k) u r 1 f.pc d) u)) ∧
      (∀ c k y, batchDrain 128 staged 0 = .ok c k → c.batch = some y → y.todo = 0 → nbit b 1 = false →
        exec (.batch u) s = .next (settleNops
          (setCore (counted c k) u (batchTidy (setFq { c with batch := some { y with staged := false } } 1 rest))) u))) ∧
  ∀ (s : State) (u : Nat) (x : Batch), (getCore s u).seq.st = .running → (getCore s u).batch = some x → x.todo < batchRows x →
    let c := { getCore s u with batch := some { x with todo := batchRows x, late := some (batchRows x - x.todo) } }
    let t := fbump s fCORE_MTX_BATCH_STAT_TIMEOUT_CLOSES u 0 1
    (∀ d k, batchDrain 128 c 0 = .ok d k → exec (.batchTimeout u) s = .next (settleNops (countArray (setCore t u (batchTidy d)) u k) u)) ∧
    ∀ d k r n, batchDrain 128 c 0 = .halt d k r n →
      exec (.batchTimeout u) s = .next (settleNops (haltUnit (countArray (setCore t u d) u k) u r 1 x.pc n) u)

/-- A MAC that reads no uncorrectable word adds into the rows from BP upwards and into no other row of either bank (R179, R182): each of its
rows of 64 sums is added to what the row held, one rounding per element. -/
def Obligations.MacRowsAdd : Prop :=
  ∀ (c d e : Core) (b : Nat) (bs : Bytes), popBeat c (mIq b) = .beat bs d → inputBad d b [mSlot b] false bs = none →
    let t := mFmt b
    let n := bs.length / mtxRecord t false
    let base := getBp c (mAcc b)
    mAcc b ≤ 1 → arrayCheck d [mSlot b] (mAcc b) (rangeFrom base n) = .ok e → ∃ c', macField false c b = .ok c' ∧ getBp c' (mAcc b) = base ∧ c'.slots = c.slots ∧ c'.seq = c.seq ∧ c'.store = c.store ∧
      ∀ bank row, bank ≤ 1 → row < 256 → accRow c' bank row =
        if bank = mAcc b ∧ (row + 256 - base % 256) % 256 < n then
          List.zipWith (fun a v => fpEncode fmtFP32 (fvAdd (fpDecode fmtFP32 a) v)) (accRow c bank row)
            (macRow t (getSlot c (mSlot b)) (((bs.drop ((row + 256 - base % 256) % 256 * mtxRecord t false))).take (mtxRecord t false)))
        else accRow c bank row

/-! ## The vector engine -/

/-- The lane operations at the head of the vector queue (R122, R204, R205, R207): each active element of D takes the operation on the
elements of A, B and C, the others keep their bits, the summary follows, and the field retires. Every VEC field that reads an
uncorrectable word of an active element, or whose active lane group fails its residue check, halts the core instead (R208). -/
def Obligations.VectorLaneFields : Prop :=
  (∀ (s : State) (u r d fixes sup : Nat) (f : QField) (rest : List QField) (c1 c : Core) (beats : List (Nat × Bytes)), fieldAt s u 2 f rest →
    takeBaton (getCore s u) f.bits = .ok c1 → takeBeats c1 (vecQueues f.bits) [] = (.beat [] c, beats) →
    vecCheck c u f.bits = (some (r, d), fixes, sup) →
    ∀ i ∈ ([(0x00, .vecNop u), (0x01, .mov u), (0x02, .add u), (0x03, .sub u), (0x04, .mul u), (0x05, .fma u), (0x06, .vecMin u),
        (0x07, .vecMax u), (0x08, .abs u), (0x09, .neg u), (0x0A, .cmpLt u), (0x0B, .cmpLe u), (0x0C, .cmpEq u), (0x0D, .cmpNe u),
        (0x0E, .sel u), (0x0F, .cvt u), (0x10, .compress u), (0x11, .expand u), (0x12, .and u), (0x13, .or u), (0x14, .xor u),
        (0x15, .shl u), (0x16, .shr u), (0x17, .rand u), (0x18, .srCvt u)] : List (Nat × Instr)),
      vVop f.bits = i.1 → exec i.2 s = .next (settleNops (haltUnit s u r 2 f.pc d) u)) ∧
  ∀ (s : State) (u : Nat) (f : QField) (rest : List QField) (c : Core) (beats : List (Nat × Bytes)), vecReady s u f rest c beats →
    let b := f.bits
    let opd := fun (o : Nat) => dataElems c beats b o
    ∀ i ∈ ([(0x02, .add u), (0x03, .sub u), (0x04, .mul u), (0x05, .fma u), (0x06, .vecMin u), (0x07, .vecMax u), (0x08, .abs u),
        (0x09, .neg u), (0x12, .and u), (0x13, .or u), (0x14, .xor u), (0x15, .shl u), (0x16, .shr u)] : List (Nat × Instr)),
      vVop b = i.1 → ((opdOf (vA b)).isMask && (opdOf (vB b)).isMask) = false →
      let unary := decide (i.1 = 0x08 ∨ i.1 = 0x09)
      let ys := if unary then opd (vA b) else opd (vB b)
      let zs := if i.1 = 0x05 then opd (vC b) else opd (vA b)
      ∀ c' c'', finishData c b (activeList c b)
          (List.zipWith (fun x (p : Nat × Nat) => laneOp i.1 (vDtype b) x p.1 p.2) (opd (vA b)) (ys.zip zs)) = .ok c' →
        putBaton (mendRow c c' b) b = .ok c'' → exec i.2 s = .next (vecDone s u 1 rest c'')

/-- MOV to data, SEL, COMPRESS, EXPAND, RAND, CVT, SR_CVT and the summary of a NOP (R122, R206, R209, R210, R255, R261). -/
def Obligations.VectorMoveFields : Prop :=
  ∀ (s : State) (u : Nat) (f : QField) (rest : List QField) (c c' c'' : Core) (beats : List (Nat × Bytes)), vecReady s u f rest c beats →
    let b := f.bits
    let a := dataElems c beats b (vA b)
    let act := activeList c b
    let ne := dtCount (vDtype b)
    let packed := (activeElems act a).map (·.2)
    putBaton (mendRow c c' b) b = .ok c'' →
    (vVop b = 0x00 → vSumOp b = 0 → c' = c → exec (.vecNop u) s = .next (vecDone s u 1 rest c'')) ∧
    (vVop b = 0x00 → vSumOp b ≠ 0 → (opdOf (vA b)).isMask = false → c' = putSum c b (dtView (vDtype b)) (activeElems act a) →
      exec (.vecNop u) s = .next (vecDone s u 1 rest c'')) ∧
    (vVop b = 0x01 → (opdOf (vA b)).isMask = false → (opdOf (vD b)).isMask = false → finishData c b act a = .ok c' →
      exec (.mov u) s = .next (vecDone s u 1 rest c'')) ∧
    (∀ m, vVop b = 0x0E → opdOf (vC b) = .mask m →
      finishData c b act (List.zipWith (fun (p : Bool) (q : Nat × Nat) => if p then q.1 else q.2) (maskElems (maskBits c m) (vDtype b))
        (a.zip (dataElems c beats b (vB b)))) = .ok c' → exec (.sel u) s = .next (vecDone s u 1 rest c'')) ∧
    (∀ d, vVop b = 0x10 → writeRow c (vD b) (unElems (dtBytes (vDtype b)) (padTo ne 0 packed)) = some d →
      c' = putSum d b (dtView (vDtype b)) ((rangeFrom 0 packed.length).zip packed) →
      exec (.compress u) s = .next (vecDone s u 4 rest c'')) ∧
    (vVop b = 0x11 → finishData c b act (expandList act a) = .ok c' → exec (.expand u) s = .next (vecDone s u 4 rest c'')) ∧
    (∀ d, vVop b = 0x17 → drawRow c (vA b) ne = d →
      finishData d.2 b act (if dtBytes (vDtype b) = 4 then d.1 else d.1.map (· / 65536)) = .ok c' →
      exec (.rand u) s = .next (vecDone s u 2 rest c'')) ∧
    (vVop b = 0x0F → opCvt false c beats b = .ok c' → exec (.cvt u) s = .next (vecDone s u 1 rest c'')) ∧
    (vVop b = 0x18 → opCvt true c beats b = .ok c' → exec (.srCvt u) s = .next (vecDone s u 1 rest c''))

/-- The fields with a mask as destination (R122, R200, R205, R207): the comparisons, the logic operations between masks
and a MOV between masks, write the bits of the active elements of mask D and keep the others. -/
def Obligations.VectorMaskFields : Prop :=
  ∀ (s : State) (u d : Nat) (f : QField) (rest : List QField) (c c'' : Core) (beats : List (Nat × Bytes)), vecReady s u f rest c beats →
    let b := f.bits
    let act := activeList c b
    let write := fun (bits : Nat) => { c with masks := tabSet none c.masks d (some bits) }
    let bitsOf := fun (res : List Bool) => maskWrite (maskBits c d) (vDtype b) act res
    let sum := fun (c' : Core) (res : List Bool) => putSum c' b .mask (activeElems act (res.map b2n))
    opdOf (vD b) = .mask d →
    (∀ i ∈ ([(0x0A, .cmpLt u), (0x0B, .cmpLe u), (0x0C, .cmpEq u), (0x0D, .cmpNe u)] : List (Nat × Instr)), vVop b = i.1 →
      let res := List.zipWith (laneCmp i.1 (vDtype b)) (dataElems c beats b (vA b)) (dataElems c beats b (vB b))
      putBaton (sum (write (bitsOf res)) res) b = .ok c'' → exec i.2 s = .next (vecDone s u 1 rest c'')) ∧
    (∀ m n, opdOf (vA b) = .mask m → opdOf (vB b) = .mask n →
      ∀ i ∈ ([(0x12, Nat.land, .and u), (0x13, Nat.lor, .or u), (0x14, Nat.xor, .xor u)] : List (Nat × (Nat → Nat → Nat) × Instr)),
        vVop b = i.1 →
        let res := maskElems (i.2.1 (maskBits c m) (maskBits c n)) (vDtype b)
        putBaton (sum (write (bitsOf res)) res) b = .ok c'' → exec i.2.2 s = .next (vecDone s u 1 rest c'')) ∧
    (∀ m, opdOf (vA b) = .mask m → vVop b = 0x01 →
      let res := maskElems (maskBits c m) (vDtype b)
      putBaton (sum (write (bitsOf res)) res) b = .ok c'' →
      exec (.mov u) s = .next (vecDone s u 1 rest c''))

/-- What the lanes give, with a row of the operand cache as destination: no queue, mask or other engine state moves, and no other row. INT32
lanes wrap modulo 2^32, logic acts bit by bit, and a shift by 32 or more gives zero (R204, R205). A floating-point lane rounds the exact result of
its operands once (R204). CVT and SR_CVT outside the MX formats put the result of source element lo + k at byte place + k * size, rounded once to
the target, to nearest even or by the element's draw (R255, R257, R261); where the width stays, inactive elements keep their bits, else they give
0 (R207, R256). No value that a format holds moves when it is rounded to that format, whatever the draw (R261). -/
def Obligations.LaneResults : Prop :=
  (∀ (c : Core) (beats : List (Nat × Bytes)) (b row : Nat), vDtype b = 3 → vSumOp b = 0 → opdOf (vD b) = .row row →
    ∀ i ∈ ([(0x02, fun x y _ => (x + y) % 2 ^ 32), (0x03, fun x y _ => (x + 2 ^ 32 - y) % 2 ^ 32), (0x04, fun x y _ => x * y % 2 ^ 32),
        (0x05, fun x y z => (x * y + z) % 2 ^ 32), (0x12, fun x y _ => x &&& y), (0x13, fun x y _ => x ||| y), (0x14, fun x y _ => x ^^^ y),
        (0x15, fun x y _ => if 32 ≤ y then 0 else x <<< y % 2 ^ 32), (0x16, fun x y _ => if 32 ≤ y then 0 else x >>> y)] :
        List (Nat × (Nat → Nat → Nat → Nat))),
      ∃ c', opLane i.1 c beats b = .ok c' ∧ { c' with cache := c.cache } = c ∧ (∀ r, r ≠ row → cacheRow c' r = cacheRow c r) ∧
        ∀ e, e < 1024 → (elems 4 (cacheRow c' row)).getD e 0 =
          if (activeList c b).getD e false then
            i.2 ((dataElems c beats b (vA b)).getD e 0) ((dataElems c beats b (vB b)).getD e 0)
              ((dataElems c beats b (if i.1 = 0x05 then vC b else vA b)).getD e 0)
          else (elems 4 (cacheRow c row)).getD e 0) ∧
  (∀ (c : Core) (beats : List (Nat × Bytes)) (b row : Nat), vDtype b ≤ 2 → vSumOp b = 0 → opdOf (vD b) = .row row →
    let form := dtFmt (vDtype b)
    let size := dtBytes (vDtype b)
    ∀ i ∈ ([(0x02, fun x y _ => fvAdd x y), (0x03, fun x y _ => fvAdd x (fvNeg y)), (0x04, fun x y _ => fvMul x y), (0x05, fun x y z => fvFma x y z)] :
        List (Nat × (FV → FV → FV → FV))),
      ∃ c', opLane i.1 c beats b = .ok c' ∧ { c' with cache := c.cache } = c ∧ (∀ r, r ≠ row → cacheRow c' r = cacheRow c r) ∧
        ∀ e, e < dtCount (vDtype b) → (elems size (cacheRow c' row)).getD e 0 =
          if (activeList c b).getD e false then
            fpEncode form (i.2 (fpDecode form ((dataElems c beats b (vA b)).getD e 0)) (fpDecode form ((dataElems c beats b (vB b)).getD e 0))
              (fpDecode form ((dataElems c beats b (if i.1 = 0x05 then vC b else vA b)).getD e 0))) % 2 ^ (8 * size)
          else (elems size (cacheRow c row)).getD e 0) ∧
  (∀ (sr : Bool) (c : Core) (beats : List (Nat × Bytes)) (b row : Nat), vSumOp b = 0 → opdOf (vD b) = .row row →
    let dt := vDtype b
    let target := nbits (vB b) 0 4
    let size := codeBytes target
    let wide := decide (dtBytes dt < size)
    let place := if wide then 0 else 128 * nbits (vB b) 4 5
    let lo := if wide then 1024 * nbits (vB b) 4 1 else 0
    let n := if wide then 1024 else dtCount dt
    let draws := if sr then drawRow c (vC b) (dtCount dt) else ([], c)
    target ≤ 4 ∨ target = 0xA ∨ target = 0xB → place + n * size ≤ 4096 →
      ∃ c', opCvt sr c beats b = .ok c' ∧ { c' with cache := c.cache } = draws.2 ∧ (∀ r, r ≠ row → cacheRow c' r = cacheRow c r) ∧
        (∀ k, k < n → leNat (((cacheRow c' row).drop (place + k * size)).take size) =
          let x := (dataElems c beats b (vA b)).getD (lo + k) 0
          let u := draws.1.getD (lo + k) 0
          if (activeList c b).getD (lo + k) false then (
            if dt = 0 ∧ target = 0 ∨ dt = 3 ∧ target = 0xB then x
            else if target = 0xA ∨ target = 0xB then toIntSat (8 * size) (if sr then some u else none) (srcValue dt x)
            else if sr then fpEncodeSr (codeFmt target) u (srcValue dt x) else fpEncode (codeFmt target) (srcValue dt x)) % 2 ^ (8 * size)
          else if wide = false ∧ size = dtBytes dt then leNat (((cacheRow c row).drop (place + k * size)).take size) else 0) ∧
        ∀ j, j < 4096 → (j < place ∨ place + n * size ≤ j) → (cacheRow c' row).getD j 0 = (cacheRow c row).getD j 0) ∧
  ∀ f ∈ [fmtFP32, fmtBF16, fmtFP16], ∀ x u : Nat, x < 2 ^ (f.eb + f.mb + 1) → u < 2 ^ 32 → (fpDecode f x).isNaN = false →
    fpEncode f (fpDecode f x) = x ∧ fpEncodeSr f u (fpDecode f x) = x

/-! ## Special functions, row statistics and scans -/

/-- EXP, LOG, RCP and RSQRT (R226, R227): quarter SEL of the head beat goes through the function into the assembly row; the field that
reaches the beat's end removes it, puts the row's filled part to OQ and clears the row. A core counts the field. No table or residue error
stands at OP and SEL (R229). -/
def Obligations.SpecialFunctionFields : Prop :=
  ∀ (s : State) (u : Nat) (f : QField) (rest : List QField) (c1 c2 c3 : Core) (bs : Bytes) (items : List QItem), fieldAt s u 3 f rest →
    takeBaton (getCore s u) f.bits = .ok c1 → (getQ c1 (sIq f.bits)).items = .beat bs :: items →
    let b := f.bits
    let q := sSel b
    let done := fun (c : Core) => settleNops (if isSE u then retired s u 3 rest c else fbump (retired s u 3 rest c) fCORE_SFU_COUNT_COUNT u 0 1) u
    putBaton c2 b = .ok c3 → sfuHarm (getCore s u) b < 2 →
    ∀ i ∈ ([(1, fpExp, .exp u), (2, fpLog, .log u), (3, fpRcp, .rcp u), (4, fpRsqrt, .rsqrt u)] : List (Nat × (Nat → Nat) × Instr)),
      fOp4 b = i.1 →
      let quarter := (((padTo 1024 0 (chunk4 bs)).drop (256 * q)).take 256).map i.2.1
      let row := (padTo 1024 0 c1.asm).take (256 * q) ++ quarter ++ (padTo 1024 0 c1.asm).drop (256 * (q + 1))
      (q ≠ 3 → 1024 * (q + 1) < bs.length → c2 = { c1 with asm := row, asmOpen := true } → exec i.2.2 s = .next (done c3)) ∧
      (q = 3 ∨ bs.length ≤ 1024 * (q + 1) →
        ∀ d, pushQ (setQ c1 (sIq b) { getQ c1 (sIq b) with items := items }) (sOq b) (.beat (unElems 4 (row.take (256 * (q + 1))))) = some d →
        c2 = { d with asm := [], asmOpen := false } → exec i.2.2 s = .next (done c3))

/-- The reduction unit (R214, R215): ROW_START opens a row, a data field adds the elements of one beat, ROW_END puts one beat for each
statistic and closes the row. A ROW_START in a row halts the core; the queue number 0 in its DETAIL is the model's choice (log entry 128). -/
def Obligations.ReductionFields : Prop :=
  ∀ (s : State) (u : Nat) (f : QField) (rest : List QField) (c1 c2 c3 : Core), fieldAt s u 4 f rest →
    takeBaton (getCore s u) f.bits = .ok c1 → putBaton c2 f.bits = .ok c3 →
    let b := f.bits
    let done := settleNops (retired s u 4 rest c3) u
    (fOp4 b = 1 → c1.row = none → c2 = { c1 with row := some ⟨0, rTree b, []⟩ } → exec (.rowStart u) s = .next done) ∧
    (fOp4 b = 1 → c1.row ≠ none → exec (.rowStart u) s = .next (settleNops (haltUnit s u 0x03 4 f.pc (4 * 2 ^ 12 + 5 * 2 ^ 16)) u)) ∧
    (∀ i ∈ ([(2, .redSum u), (3, .redMax u), (4, .sumExp u), (5, .shiftedSq u), (6, .normTap u)] : List (Nat × Instr)), fOp4 b = i.1 →
      ∀ r bs d, c1.row = some r → (r.op = 0 ∨ r.op = i.1 ∧ r.tree = rTree b) → popBeat c1 (sIq b) = .beat bs d →
        c2 = { d with row := some ⟨i.1, rTree b, r.elems ++ chunk4 bs⟩ } → exec i.2 s = .next done) ∧
    (fOp4 b = 7 → ∀ r, c1.row = some r → (r.op = 0 ∨ r.tree = rTree b) →
      pushAll { c1 with row := none } (sOq b) ((rowStats r.op r.elems).map fun v => .beat (unElems 4 (List.replicate 1024 v))) = some c2 →
        exec (.rowEnd u) s = .next done)

/-- The reduction unit halts the core with BAD_OPERAND on a field that breaks the framing of rows (R217). -/
def Obligations.ReductionFraming : Prop :=
  ∀ (s : State) (u : Nat) (f : QField) (rest : List QField) (c1 : Core), fieldAt s u 4 f rest → takeBaton (getCore s u) f.bits = .ok c1 →
    let b := f.bits
    let bad := fun (queue cause : Nat) => settleNops (haltUnit s u 0x03 4 f.pc (queue % 512 + 4 * 2 ^ 12 + cause * 2 ^ 16)) u
    (∀ i ∈ ([(2, .redSum u), (3, .redMax u), (4, .sumExp u), (5, .shiftedSq u), (6, .normTap u)] : List (Nat × Instr)), fOp4 b = i.1 →
      (c1.row = none → exec i.2 s = .next (bad (sIq b) 5)) ∧
      (∀ r, c1.row = some r → r.op ≠ 0 → (r.op ≠ i.1 ∨ r.tree ≠ rTree b) → exec i.2 s = .next (bad (sIq b) 6))) ∧
    (fOp4 b = 7 → c1.row = none → exec (.rowEnd u) s = .next (bad (sOq b) 5)) ∧
    (fOp4 b = 1 → c1.row ≠ none → ∃ queue, exec (.rowStart u) s = .next (bad queue 5)) ∧
    (fOp4 b = 7 → ∀ r, c1.row = some r → r.op ≠ 0 → r.tree ≠ rTree b → exec (.rowEnd u) s = .next (bad (sOq b) 6))

/-- The scan unit (R219, R220): STEP takes a and b, sets every h to a times h plus b with one rounding and puts h; LOAD_H takes h from a
beat; STORE_H puts h and leaves it; CHUNK runs STEPs as its queues allow, and retires after the 64th. STEP and CHUNK count steps. That a CHUNK
whose queues stall it keeps the steps that it has done is an inference (log entry 13). -/
def Obligations.ScanFields : Prop :=
  (∀ (s : State) (u : Nat) (f : QField) (rest : List QField) (c1 c2 c3 : Core), fieldAt s u 5 f rest →
    takeBaton (getCore s u) f.bits = .ok c1 → putBaton c2 f.bits = .ok c3 →
    let b := f.bits
    let h := padTo 1024 0 c1.h
    (∀ d1 d2 as bs d, fOp4 b = 1 → popBeat c1 (sIq b) = .beat as d1 → as.length = 4096 →
      popBeat d1 ((sIq b + 1) % 16) = .beat bs d2 → bs.length = 4096 →
      let h' := List.zipWith (fun (p : Nat × Nat) y => fpEncode fmtFP32 (fvFma (fpDecode fmtFP32 p.1) (fpDecode fmtFP32 p.2) (fpDecode fmtFP32 y)))
        ((chunk4 as).zip h) (chunk4 bs)
      pushQ { d2 with h := h' } (sOq b) (.beat (unElems 4 h')) = some d → c2 = d →
        exec (.scanStep u) s = .next (settleNops (fbump (retired s u 5 rest c3) fCORE_SCN_STEPS_COUNT u 0 1) u)) ∧
    (∀ as d, fOp4 b = 2 → popBeat c1 (sIq b) = .beat as d → as.length = 4096 → c2 = { d with h := chunk4 as } →
      exec (.loadH u) s = .next (settleNops (retired s u 5 rest c3) u)) ∧
    (fOp4 b = 3 → pushQ c1 (sOq b) (.beat (unElems 4 h)) = some c2 →
      exec (.storeH u) s = .next (settleNops (retired s u 5 rest c3) u))) ∧
  ∀ (s : State) (u k : Nat) (f : QField) (rest : List QField) (c1 c2 : Core), fieldAt s u 5 f rest → fOp4 f.bits = 4 →
    (if (getCore s u).chunkDone = 0 then takeBaton (getCore s u) f.bits else .ok (getCore s u)) = .ok c1 →
    chunkSteps (64 - c1.chunkDone) c1 f.bits 0 = (.ok c2, k) → 1 ≤ k →
    let counted := fbump s fCORE_SCN_STEPS_COUNT u 0 k
    (c1.chunkDone + k < 64 → exec (.chunk u) s = .next (settleNops (setCore counted u { c2 with chunkDone := c1.chunkDone + k }) u)) ∧
    (∀ c3, 64 ≤ c1.chunkDone + k → putBaton c2 f.bits = .ok c3 →
      exec (.chunk u) s = .next (settleNops (retired counted u 5 rest { c3 with chunkDone := 0 }) u))

/-! ## Stream movers -/

/-- START, STOP, REARM, FLUSH and TAKE_BATON at the head of a mover's queue (R320): the walk starts at its first run, or is done when it
has none; a stopped write-back walk and a stopped prefetch become armed again, and a prefetch discards the entries not yet read; REARM
stops the walk in the same way, where that can be, and takes entry k of the task's arm list, with the tensor descriptor that it names; FLUSH goes
on once no write-back walk runs; TAKE_BATON takes its baton once the beat ahead of it is written to its last part, and a baton with another tag
halts the core with BATON_MISMATCH (R139). On a mover that is not armed every one but a REARM with a full entry halts the core with
STREAM_STATE, and so do a REARM of an entry that the list does not have and a TAKE_BATON of a prefetch mover. A descriptor that cannot be read
halts as R603 has it for a task's start, which is an inference (log entry 124). -/
def Obligations.MoverFields : Prop :=
  ∀ (s : State) (u m : Nat) (f : QField) (rest : List QField), fieldAt s u (6 + m) f rest →
    let c := getCore s u
    let x := getMv c m
    let op := nbits f.bits 0 4
    let k := nbits f.bits 4 3
    let tag := nbits f.bits 4 8
    let done := fun (t : State) => settleNops (updCore t u fun c => setFq c (6 + m) rest) u
    let cut := setCore s u (setMv (setQ c x.queue { getQ c x.queue with
      items := (getQ c x.queue).items.take ((getQ c x.queue).items.length - x.delivered) }) m { rewind x with st := .armed, due := false })
    let stopped := fun (t : State) =>
      t = s ∧ (x.kind = 1 → x.due = false) ∧ (x.st = .unarmed ∨ x.st = .armed ∨ x.st = .done ∧ x.kind = 1) ∨
      t = cut ∧ x.kind ≠ 1 ∧ (x.st = .running ∨ x.st = .done) ∧ readersDone c x.queue f.no = true
    (∀ i ∈ ([(1, .moverStart u m), (2, .moverStop u m), (4, .flush u m), (5, .takeBaton u m)] : List (Nat × Instr)), op = i.1 →
      x.st = .unarmed → exec i.2 s = .next (haltUnit s u 0x0E (6 + m) f.pc m)) ∧
    (op = 1 → x.st ≠ .unarmed → x.st ≠ .running → x.due = false → exec (.moverStart u m) s =
      .next (done (updMv s u m fun x => { rewind x with st := if pRuns x.pat = 0 then .done else .running, pc := f.pc }))) ∧
    (op = 2 → x.kind = 1 → x.st ≠ .unarmed → x.st ≠ .running → exec (.moverStop u m) s =
      .next (done (updMv s u m fun x => { x with st := .armed }))) ∧
    (op = 2 → x.kind ≠ 1 → x.st ≠ .unarmed → x.st ≠ .armed → readersDone c x.queue f.no = true → exec (.moverStop u m) s =
      .next (done cut)) ∧
    (op = 3 → c.arms[k]? = none → exec (.rearm u m) s = .next (haltUnit s u 0x0E (6 + m) f.pc m)) ∧
    (op = 3 → ∀ e, c.arms[k]? = some e → nbits e 4 2 = 2 → x.st = .unarmed → exec (.rearm u m) s = .next (haltUnit s u 0x0E (6 + m) f.pc m)) ∧
    (op = 3 → ∀ e s' q, c.arms[k]? = some e → nbits e 4 2 ≠ 2 → stopped s' →
      (∀ a, descRead s' e = (q, .range a) → exec (.rearm u m) s = .next (haltUnit q u 0x0F (6 + m) f.pc a)) ∧
      (∀ a, descRead s' e = (q, .bus a) → exec (.rearm u m) s = .next (haltUnit q u 0x16 (6 + m) f.pc a)) ∧
      ∀ d, descRead s' e = (q, .ok d) →
        (∀ t, armMover q u m e = (t, none) → exec (.rearm u m) s = .next (done t)) ∧
        ∀ t n, armMover q u m e = (t, some n) → exec (.rearm u m) s = .next (haltUnit t u 0x09 (6 + m) f.pc n)) ∧
    (op = 3 → ∀ e s', c.arms[k]? = some e → nbits e 4 2 = 2 → stopped s' → x.st ≠ .unarmed → exec (.rearm u m) s =
      .next (done (updMv s' u m fun _ => { rewind x with pat := putBits x.pat 0 52 (nbits e 512 52), st := .armed, due := false }))) ∧
    (op = 4 → x.st ≠ .unarmed → ¬ (x.kind = 1 ∧ x.st = .running) → exec (.flush u m) s = .next (done s)) ∧
    (op = 5 → x.st ≠ .unarmed → x.kind ≠ 1 → exec (.takeBaton u m) s = .next (haltUnit s u 0x0E (6 + m) f.pc m)) ∧
    (op = 5 → ∀ t items, x.st ≠ .unarmed → x.kind = 1 → x.req = none → x.part = [] → (getQ c x.queue).items = .baton t :: items →
      (t = tag → exec (.takeBaton u m) s = .next (done (setCore s u (setQ c x.queue { getQ c x.queue with items := items })))) ∧
      (t ≠ tag → exec (.takeBaton u m) s = .next (haltUnit s u 0x0A (6 + m) f.pc (x.queue + tag * 2 ^ 8 + t * 2 ^ 16))))

/-- STREAM_RUN (R157, R159, R161, R162, R303, R321, R323): a mover with its run generated asks for the next bytes of its beat, up to the next
4 KiB boundary, or takes a beat from its queue and sends it so; an invalid run delivers zeros, or drops the beat it takes; a beat of the
wrong length halts the core with BEAT_LENGTH. The request goes where the walk stands, through the owner table of a distributed tensor;
an offset that does not resolve ends as a bus error, which is an inference (log entry 78). A run whose address is not a multiple of 64 halts the
core with ALIGNMENT (R158); that its DETAIL is the address modulo 2^64 is an inference (log entry 119). -/
def Obligations.MoverRuns : Prop :=
  ∀ (s : State) (u m : Nat), mvRuns s u m = true →
    let c := getCore s u
    let x := getMv c m
    let n := min (4096 - x.off % 4096) (pLen x.pat - x.off)
    let v := x.addr + x.off
    let k := min n (4096 - v % 4096)
    let more := v % 4096 != 0 && (x.off != 0 || x.joined)
    let valid := x.idxOk = true ∨ pIndexed x.pat = false
    let lost := fun (t : State) (write : Bool) => haltUnit t u 0x16 (6 + m) x.pc (v % 2 ^ 52 + b2n write * 2 ^ 52 + m * 2 ^ 53)
    (∀ a, x.gen = true → x.kind = 0 → valid → walkAddr s x.table v = some a → exec (.streamRun u m) s =
      .next (setCore s u (setMv c m { x with req := some ⟨a, k, false, [], more⟩ }))) ∧
    (x.gen = true → x.kind = 0 → valid → walkAddr s x.table v = none → exec (.streamRun u m) s = .next (lost s false)) ∧
    (x.gen = true → x.kind = 0 → ¬ valid → ∀ c', pushQ c x.queue (.beat (List.replicate n 0)) = some c' → exec (.streamRun u m) s =
      .next (setCore s u (advance (setMv c' m { x with delivered := x.delivered + 1 }) m n))) ∧
    (∀ a, x.gen = true → x.kind ≠ 0 → x.part ≠ [] → walkAddr s x.table v = some a → exec (.streamRun u m) s =
      .next (setCore s u (setMv c m { x with req := some ⟨a, k, true, x.part.take k, more⟩, part := x.part.drop k }))) ∧
    (x.gen = true → x.kind ≠ 0 → x.part ≠ [] → walkAddr s x.table v = none → exec (.streamRun u m) s = .next (lost s true)) ∧
    (∀ bs items, x.gen = true → x.kind ≠ 0 → x.part = [] → (getQ c x.queue).items = .beat bs :: items →
      let c' := setQ c x.queue { getQ c x.queue with items := items }
      (∀ a, bs.length = n → valid → walkAddr s x.table v = some a → exec (.streamRun u m) s =
        .next (setCore s u (setMv c' m { x with req := some ⟨a, k, true, bs.take k, more⟩, part := bs.drop k }))) ∧
      (bs.length = n → valid → walkAddr s x.table v = none → exec (.streamRun u m) s = .next (lost (setCore s u c') true)) ∧
      (bs.length = n → ¬ valid → exec (.streamRun u m) s = .next (setCore s u (advance c' m n))) ∧
      (bs.length ≠ n → exec (.streamRun u m) s =
        .next (haltUnit s u 0x1B (6 + m) x.pc (m + n * 2 ^ 16 + bs.length * 2 ^ 32)))) ∧
    (x.gen = false → pIndexed x.pat = false → runBase x.pat x.run % 64 ≠ 0 → exec (.streamRun u m) s =
      .next (haltUnit s u 0x10 (6 + m) x.pc (ofSigned 64 (runBase x.pat x.run))))

/-- A mover's request ends (R319, R322, R323, R337, R604): the bytes that were read complete a beat, which enters QUEUE, or wait for its
rest; the bytes of a write land under the task, or wait for a frame or a line, and the retry lands them; an error of the bus, a failed
target among them, halts the unit with STREAM_BUS_ERROR, and an uncorrectable word of a store halts it with STORE_ECC (R267). Bank
arbitrations that the request loses are counted (R165). -/
def Obligations.MoverAnswers : Prop :=
  ∀ (s : State) (u m : Nat) (q : Inflight), (getCore s u).seq.st = .running → (getMv (getCore s u) m).req = some q →
    let c := getCore s u
    let x := getMv c m
    let n := min (4096 - x.off % 4096) (pLen x.pat - x.off)
    let stop := fun (reason detail : Nat) => haltUnit s u reason (6 + m) x.pc detail
    let bus := stop 0x16 (q.addr % 2 ^ 52 + b2n q.write * 2 ^ 52 + m * 2 ^ 53)
    exec (.streamBusError u m) s = .next bus ∧
    (x.waitsFrame = false → targetDead s u q.addr = true → exec (.streamResponse u m) s = .next bus) ∧
    (x.waitsFrame = false → targetDead s u q.addr = false → q.write = false → (q.len = n → (getQ c x.queue).items.length < 8) →
      let bs := readAt s u q.addr q.len
      (∀ t, eccAt s u q.addr q.len = .bus t → exec (.streamResponse u m) s = .next bus) ∧
      (∀ t r d, eccAt s u q.addr q.len = .halt t r d → exec (.streamResponse u m) s = .next (stop r d)) ∧
      (∀ t, eccAt s u q.addr q.len = .ok t →
        let t' := conflictAt (noteAt t u q.addr q.len) u m q.addr
        (bs.length ≠ n → exec (.streamResponse u m) s =
          .next (setCore t' u (advance (setMv (getCore t' u) m { x with part := x.part ++ bs }) m bs.length))) ∧
        (bs.length = n → ∀ c', pushQ (getCore t' u) x.queue (.beat (x.part ++ bs)) = some c' → exec (.streamResponse u m) s =
          .next (setCore t' u (advance (setMv c' m { x with delivered := x.delivered + 1, part := [] }) m bs.length))))) ∧
    (x.waitsFrame = false → targetDead s u q.addr = false → q.write = true → pWop x.pat = 0 →
      (∀ t, writeAt s u q.addr q.data = .ok t → exec (.streamResponse u m) s =
        .next (updCore (conflictAt t u m q.addr) u fun c => advance c m q.len)) ∧
      (∀ r d, writeAt s u q.addr q.data = .halt r d → exec (.streamResponse u m) s = .next (stop r d)) ∧
      (writeAt s u q.addr q.data = .wait → exec (.streamResponse u m) s = .next (updMv s u m fun x => { x with waitsFrame := true }))) ∧
    (x.waitsFrame = false → targetDead s u q.addr = false → q.write = true → pWop x.pat = 1 →
      ∀ t v, eccAt s u q.addr q.len = .ok t →
        writeAt (noteAt t u q.addr q.len) u q.addr (addBytes (pAddFmt x.pat) (readAt s u q.addr q.len) q.data) = .ok v →
        exec (.streamResponse u m) s = .next (updCore (conflictAt v u m q.addr) u fun c => advance c m q.len)) ∧
    (x.waitsFrame = true → q.write = true → pWop x.pat = 0 →
      let s' := updMv s u m fun x => { x with waitsFrame := false }
      ∀ t, writeAt s' u q.addr q.data = .ok t → exec (.frameWaitResume u m) s =
        .next (updCore (conflictAt t u m q.addr) u fun c => advance c m q.len))

/-- THE ADDRESSES OF A WALK. The runs of a walk without an index start, innermost dimension first, at BASE plus each counter times its STRIDE
(R154, R157); those of an indexed walk leave the indexed dimension out, and a new index is taken at the first run of each value of it. That index is
signed, lies four bytes further for each one taken, and serves every run beneath it (R160, R161): a run whose index is in range is generated at
the base plus index times the indexed STRIDE; a fresh index out of range halts the core with INDEX_RANGE under STRICT, and else it counts once and its
runs are invalid (R162, R163). An index line outside the mover's stores halts the core (R155). That no sum wraps at 64 bits is an inference
(log entry 119), and that a line is read only when the walk comes to it is the model's choice (log entry 127). -/
def Obligations.WalkAddresses : Prop :=
  (∀ (p k1 k2 k3 k4 k5 : Nat), k1 < pCount p 1 → k2 < pCount p 2 → k3 < pCount p 3 → k4 < pCount p 4 → k5 < pCount p 5 →
    let t := k1 + pCount p 1 * (k2 + pCount p 2 * (k3 + pCount p 3 * (k4 + pCount p 4 * k5)))
    let part := fun (d k : Nat) => if pIndexed p = true ∧ d = pIdxDim p then 0 else (k : Int) * pStride p d
    runBase p t = (pBase p : Int) + part 1 k1 + part 2 k2 + part 3 k3 + part 4 k4 + part 5 k5 ∧
    (pIndexed p = true → 1 ≤ pIdxDim p → pIdxDim p ≤ 5 →
      (newIndex p t = true ↔ ∀ e ∈ [(1, k1), (2, k2), (3, k3), (4, k4), (5, k5)], e.1 < pIdxDim p → e.2 = 0))) ∧
  ∀ (s : State) (u m : Nat), mvRuns s u m = true → (getMv (getCore s u) m).gen = false → pIndexed (getMv (getCore s u) m).pat = true →
    let x := getMv (getCore s u) m
    let p := x.pat
    let ia := pIdxBase p + 4 * x.idxPos
    let fresh := newIndex p x.run
    (fresh = true → idxReach s u ia = false → exec (.streamRun u m) s = .next (haltUnit s u 0x0F (6 + m) x.pc ia)) ∧
    ∀ (t : State) (v : Int) (word : Nat),
      (fresh = true ∧ idxReach s u ia = true ∧ readIndex s u m ia true = .ok t ∧
          word = leNat (((getMv (getCore t u) m).line.drop (ia % 64)).take 4) ∧ v = toSigned 32 word ∨ fresh = false ∧ t = s ∧ v = x.idx) →
      let ok := 0 ≤ v ∧ v < (pLimit p : Int)
      let y := { getMv (getCore t u) m with idx := v, idxPos := if fresh then x.idxPos + 1 else x.idxPos, idxOk := decide ok, gen := true }
      (fresh = true → ¬ ok → pStrict p = true → exec (.streamRun u m) s =
        .next (haltUnit t u 0x11 (6 + m) x.pc (m + x.idxPos % 2 ^ 29 * 2 ^ 3 + word * 2 ^ 32))) ∧
      (¬ ok → fresh = false ∨ pStrict p = false → exec (.streamRun u m) s = exec (.streamRun u m)
        (updMv (if fresh = true ∧ isSE u = false then countOob t u m else t) u m fun _ => { y with mergeEnd := 0 })) ∧
      (ok →
        let a := runBase p x.run + v * pStride p (pIdxDim p)
        (a < 0 ∨ 2 ^ 52 ≤ a ∨ a % 64 ≠ 0 → exec (.streamRun u m) s = .next (haltUnit t u 0x10 (6 + m) x.pc (ofSigned 64 a))) ∧
        (0 ≤ a → a < 2 ^ 52 → a % 64 = 0 →
          (∀ bad, runBad t u (getMv (getCore t u) m) a.toNat = some bad → exec (.streamRun u m) s = .next (haltUnit t u 0x0F (6 + m) x.pc bad)) ∧
          (runBad t u (getMv (getCore t u) m) a.toNat = none →
            let merged := !y.noMerge && y.mergeEnd == a.toNat && decide (a.toNat ≠ 0 ∧ a.toNat % 4096 ≠ 0)
            exec (.streamRun u m) s = exec (.streamRun u m)
              (updMv (if merged = true ∧ isSE u = false then fbump t fCORE_STM_MERGED_COUNT u 0 1 else t) u m fun _ =>
                { y with addr := a.toNat, mergeEnd := a.toNat + pLen p, joined := merged }))))

/-! ## The hinge network and DMA -/

/-- The XFR fields (R307, R308, R327): HINGE_SUBMIT hands its descriptor to the hinge network and its slot becomes busy; HINGE_WAIT goes
on when the slot is free; DMA_KICK hands its ring to a channel of the core, which runs when the head is owned; DMA_WAIT goes on when the
channel is idle. A descriptor that fails a check of R311, or that the store holds an uncorrectable word of, halts the core, and so does a
channel of another core, with BAD_OPERAND (R340). The order of the checks, and what stands in DETAIL where R311 does not say it, are the model's
choice (log entry 130). -/
def Obligations.TransferFields : Prop :=
  ∀ (s : State) (u : Nat) (f : QField) (rest : List QField) (c1 : Core), fieldAt s u 14 f rest → takeBaton (getCore s u) f.bits = .ok c1 →
    let b := unitBlock u
    let unit := xUnit f.bits
    let at_ := xDesc f.bits * 4096
    let e := DmaEng.blk b
    let s1 := setCore s u c1
    let done := fun (t : State) => ∀ c, putBaton (getCore t u) f.bits = .ok c → ∀ i ∈ ([(1, .hingeSubmit u), (2, .hingeWait u), (3, .dmaKick u),
      (4, .dmaWait u)] : List (Nat × Instr)), fOp4 f.bits = i.1 → exec i.2 s = .next (settleNops (retired t u 14 rest c) u)
    (fOp4 f.bits = 1 → hingeBusy s1 u unit = false → (getBlock s1 (u / 8)).hingeQ.length < 16 →
      let w := leNat (memRead c1.store at_ 64)
      let read := hingeReads u (runSlot s1 u) [(.cs u at_, 64)] s1
      let stop := fun (t : State) (r d : Nat) => exec (.hingeSubmit u) s = .next (haltUnit t u r 14 f.pc d)
      (∀ t r d, read = .halt t r d → stop t r d) ∧
      (∀ t r d, read = .ok t → hingeShapeBad unit w = some (r, d) → stop t r d) ∧
      (∀ t, read = .ok t → hingeShapeBad unit w = none →
        let indices := hingeReads u (runSlot s1 u) (indexPlace s1 u w) t
        (∀ v r d, indices = .halt v r d → stop v r d) ∧
        (∀ v r d, indices = .ok v → hingeBad s1 u unit at_ w = some (r, d) → stop v r d) ∧
        (∀ v, indices = .ok v → hingeBad s1 u unit at_ w = none →
          done (setHingeSlot (updBlock v (u / 8) fun x => { x with hingeQ := x.hingeQ ++ [⟨u, unit, w, runSlot v u, f.pc⟩] }) u unit 1)))) ∧
    (fOp4 f.bits = 2 → hingeBusy s1 u unit = false → done s1) ∧
    (fOp4 f.bits = 3 → chOwner s1 e unit = some u → (getChan s1 e unit).ring ≠ at_ → chState s1 e unit = 0 →
      done (settleChan (updChan (setChHead s1 e unit 0) e unit fun x => { x with ring := at_, pc := f.pc }) e unit)) ∧
    (fOp4 f.bits = 3 → chOwner s1 e unit = some u → (getChan s1 e unit).ring = at_ → chState s1 e unit = 0 →
      done (settleChan (updChan s1 e unit fun x => { x with pc := f.pc }) e unit)) ∧
    (fOp4 f.bits = 3 → chOwner s1 e unit = some u → (getChan s1 e unit).ring = at_ → chState s1 e unit ≠ 0 → done s1) ∧
    (fOp4 f.bits = 4 → chOwner s1 e unit = some u → chState s1 e unit = 0 → done s1) ∧
    (∀ i ∈ ([(3, .dmaKick u), (4, .dmaWait u)] : List (Nat × Instr)), fOp4 f.bits = i.1 → chOwner s1 e unit ≠ some u →
      exec i.2 s = .next (haltUnit s1 u 0x03 14 f.pc (unit + i.1 * 2 ^ 4 + 0x10 * 2 ^ 16)))

/-- The hinge network (R308, R310): the next operation reads its source rows whole and writes its destination rows, transposed or permuted;
when its writes have been accepted it completes, its slot is free and the operation counts. An operation whose checks fail is dropped and
halts its core (R267, R314); one that a fenced core submitted is dropped (R291). -/
def Obligations.HingeOperations : Prop :=
  (∀ (s : State) (b : Nat) (op : HingeOp) (rest : List HingeOp), (getBlock s b).hingeRun = none → (getBlock s b).hingeQ = op :: rest →
    blockAlive s b = true →
    let places := (hSrcRows op.desc).map fun a => placeOf s (some op.core) a.toNat
    let src := places.map (readPlace s op.commitSlot (hSrcLen op.desc))
    let idx := (if hPermute op.desc then hIndices s op.core op.desc else some []).getD []
    let dst := (hDstRows op.desc).zip (hingeRows op.desc idx src)
    (isCut s 0 op.core = true →
      exec (.hingeOperation b) s = .next (setHingeSlot (updBlock s b fun x => { x with hingeQ := rest }) op.core op.slot 0)) ∧
    (isCut s 0 op.core = false → ∀ t, hingeChecks s b op places = .ok t →
      let s1 := places.foldl (fun s p => notePlace s op.commitSlot (hSrcLen op.desc) p) t
      let s2 := dst.foldl (fun s d => hingeConflict s (placeOf s (some op.core) d.1.toNat)) s1
      ∀ v, hingeWrites op dst (updBlock s2 b fun x => { x with hingeQ := rest, hingeRun := some op }) = .ok v →
        exec (.hingeOperation b) s = .next v) ∧
    (isCut s 0 op.core = false → ∀ t r d, hingeChecks s b op places = .halt t r d →
      let t1 := setHingeSlot (updBlock t b fun x => { x with hingeQ := rest, hingeRun := none }) op.core op.slot 0
      (getCore t1 op.core).seq.st = .running → exec (.hingeOperation b) s = .next (haltUnit t1 op.core r 14 op.pc d))) ∧
  ∀ (s : State) (b : Nat) (op : HingeOp), (getBlock s b).hingeRun = some op →
    let t := setHingeSlot (updBlock s b fun x => { x with hingeRun := none }) op.core op.slot 0
    let count := fun (t : State) => fbump t fBLK_HINGE_OPS_OPS b 0 1
    (hStaged t op.core op.desc = false → exec (.hingeComplete b) s = .next (count t)) ∧
    (hStaged t op.core op.desc = true → exec (.hingeComplete b) s = .next (count (fbump t fBLK_HINGE_STATUS_STAGED_OPS b 0 1)))

/-- In a tile transposed, the element in row i, column j goes to row j, column i (R310). -/
def Obligations.TransposeMovesElements : Prop :=
 ∀ (w : Nat) (src : List Bytes) (i j k : Nat), hPermute w = false → src.length = hRows w → (∀ r ∈ src, r.length = hCols w * hSize w) →
    i < hRows w → j < hCols w → k < hSize w →
    (((hingeRows w [] src).getD j []).getD (i * hSize w + k) 0) = ((src.getD i []).getD (j * hSize w + k) 0)

/-- A channel that runs, or waits for pacing, whose turn it is takes its owned head descriptor of KIND COPY, FILL or SWAP64 within the part
(R326, R330, R331, R335): the bytes land at the destination, SWAP64 returns the old value in the descriptor, and the transfer is in flight.
A channel that a fence has cut off, or that the engine does not serve yet, does nothing (R291, R335). -/
def Obligations.DmaTransfers : Prop :=
  ∀ (s : State) (e : DmaEng) (ch w : Nat), (getChan s e ch).desc = none → (chState s e ch = 1 ∨ chState s e ch = 2) →
    w = readEntry s e ch (chHead s e ch) → dOwn w = true →
    let forms : List (Nat × Instr) := [(0, .dmaCopy e ch), (1, .dmaFill e ch), (2, .dmaSwap64 e ch)]
    (engCut s e ch = true ∨ outranked s e ch w = true → ∀ i ∈ forms, exec i.2 s = .next s) ∧
    (engCut s e ch = false → outranked s e ch w = false →
      let ring := chPlace s e ch (entryAddr s e ch (chHead s e ch))
      dmaDead s e ring = false → ∀ r, sourceEcc s e ch 64 ring = .ok r →
      let s0 := dmaConflict (notePlace r (chSlot r e ch) 64 ring) e ring
      fetchBad s0 e ch w = none → (pacePaused s0 e ch w).2 = false → dRemote w = false →
      let s1 := updChan (noteCopy (pacePaused s0 e ch w).1 e ch w) e ch fun x => { x with remote := false }
      let src := chPlace s1 e ch (dSrc w)
      let dst := chPlace s1 e ch (dDst w)
      let slot := chSlot s1 e ch
      let n := dLen w
      let land := fun (t : State) (bs : Bytes) => writePlace t (chOwner t e ch) (chSlot t e ch) (landing (dDstFixed w) (bs.take n)) (chPlace t e ch (dDst w))
      let inFlight := fun (t : State) (w' : Nat) => setChState (setServed (updChan (updChan t e ch fun x => { x with moved := n }) e ch fun x =>
        { x with desc := some w', rerun := false, paused := false, waits := false }) e ch w') e ch 1
      let onPart := fun (p : Place) => ∀ h, p ≠ .host h
      n ≠ 0 → dmaDead s1 e dst = false → onPart dst →
      (dKind w = 0 → dmaDead s1 e src = false → onPart src → ∀ t v,
        sourceEcc s1 e ch (if dSrcFixed w then 64 else n) src = .ok t →
        land (dmaConflict (dmaConflict (notePlace t slot (sideLen w (dSrcFixed w)) src) e src) e dst) (sourceBytes s1 slot n (dSrcFixed w) src) = .ok v →
        exec (.dmaCopy e ch) s = .next (inFlight v w)) ∧
      (dKind w = 1 → ∀ v, land (dmaConflict s1 e dst) (List.replicate (n / 8) (natLe 8 (dValue w))).flatten = .ok v →
        exec (.dmaFill e ch) s = .next (inFlight v w)) ∧
      (dKind w = 2 → ∀ t v, sourceEcc s1 e ch 8 dst = .ok t → land (dmaConflict t e dst) (natLe 8 (dValue w)) = .ok v →
        exec (.dmaSwap64 e ch) s = .next (inFlight v (putBits w 288 64 (leNat (readPlace s1 slot 8 dst))))))

/-- The end of a transfer (R333, R338): once every byte has landed and been read back its descriptor is closed with STATUS 0 and DELIVERED
its length, the head moves on, its signal goes to its tumbler, and the channel runs on or is idle; an error stops the channel, and so does
a read-back from a target that has died, as a bus error of a read, which is an inference (log entry 80). The failing descriptor's DELIVERED counts
what has landed, no further than a READ_OWNER that is not answered (R338). The cause of the record of a failed transfer is the model's choice (log
entry 14), and so is that a completion not yet due does nothing (log entry 7). -/
def Obligations.DmaEnds : Prop :=
  ∀ (s : State) (e : DmaEng) (ch w : Nat), (getChan s e ch).desc = some w → chState s e ch ≠ 3 → isHandCh e ch = false → engCut s e ch = false →
    let i := chHead s e ch
    (dLen w ≤ (getChan s e ch).moved → entryRoom s e ch = true →
      let t := closeHead (readBackNote s e ch w) e ch w
      (readBackDead s e ch w = false → exec (.dmaComplete e ch) s =
        .next (endCopy (settleChan (completeSig (setChHead t e ch ((i + 1) % chRing t e ch)) e ch w) e ch) e ch)) ∧
      (readBackDead s e ch w = true → exec (.dmaComplete e ch) s = .next (failTransfer s e ch w 1 0 (readBackAddr w) 0 (dLen w)))) ∧
    ((getChan s e ch).moved < dLen w ∨ entryRoom s e ch = false → exec (.dmaComplete e ch) s = .next s) ∧
    (∀ write delivered, ∀ k ∈ ([(1, .busError), (2, .translation)] : List (Nat × XferError)),
      let side := if write then (dDst w, dDstSpace w) else (dSrc w, dSrcSpace w)
      let past := if (if write then dDstFixed w else dSrcFixed w) = true then 0 else delivered
      exec (.dmaTransferError e ch k.2 write delivered) s = .next
        (failTransfer s e ch w k.1 (b2n write) (side.1 % 2 ^ (if side.2 = 0 then 52 else 48) + past) side.2 delivered)) ∧
    ∀ kind dir addr space delivered,
      let n := landedBytes s e ch w delivered
      let t := stopChan s e ch w kind dir addr space delivered
      n ≤ delivered ∧ (∀ g ∈ s.link.segs, g.eng = e → g.chan = ch → dSrcSpace w = 1 → dKind w = 0 → n ≤ g.pos) ∧ chState t e ch = 3 ∧
        (getChan t e ch).desc = none ∧ t.link.segs = s.link.segs.filter fun g => !(g.eng == e && g.chan == ch)

/-- Firmware's registers of the selected channel (R327, R339, R341): a TAIL write starts an idle firmware channel whose head is owned; RESUME
runs a stopped channel's failing descriptor again; ABORT of a channel that is not stopped does nothing, and of a stopped one gives the descriptors
after the failing one STATUS ABORTED, sets the tumblers of their signals and of the failing one's where its failure has not, and leaves the channel
idle past them. A write to an engine whose block or region is cut is ignored without report (R548). -/
def Obligations.DmaRegisters : Prop :=
  (∀ (s : State) (e : DmaEng) (tail : Nat), (match e with | .blk b => isCut s 1 b | .rgn r => isCut s 2 r) = true →
    ∀ c ∈ [Instr.dmaTailWrite e tail, .resume e, .abort e], exec c s = .next s) ∧
  ∀ (s : State) (e : DmaEng), (match e with | .blk b => isCut s 1 b | .rgn r => isCut s 2 r) = false →
    let ch := match e with | .blk b => fget s fBLK_DMA_IDX_CHANNEL b 0 | .rgn r => fget s fRGN_DMA_IDX_CHANNEL r 0
    let errKind := fun (t : State) => chPut t fBLK_DMA_STATUS_ERR_KIND fRGN_DMA_STATUS_ERR_KIND e ch 0
    (∀ tail, let t := chPut s fBLK_DMA_TAIL_TAIL fRGN_DMA_TAIL_TAIL e ch tail
      ((chFw t e ch = true ∧ chState t e ch = 0) → exec (.dmaTailWrite e tail) s = .next (settleChan t e ch)) ∧
      (¬ (chFw t e ch = true ∧ chState t e ch = 0) → exec (.dmaTailWrite e tail) s = .next t)) ∧
    (chState s e ch = 3 → exec (.resume e) s = .next (errKind (updChan (setChState s e ch 1) e ch fun x => { x with rerun := true, rerunLap := none }))) ∧
    (chState s e ch ≠ 3 → exec (.resume e) s = .next s ∧ exec (.abort e) s = .next s) ∧
    (chState s e ch = 3 →
      let i := chHead s e ch
      let r := abortRing e ch (chRing s e ch - 1) (i + 1) s []
      let failed := readEntry s e ch i
      let aborted := r.2.reverse.map (·.2)
      let told := chOwner s e ch = none ∧ (nbits failed 224 8 = 1 ∨ nbits failed 224 8 = 2)
      let signalled := (if told then aborted else failed :: aborted).foldl (setForSig e) r.1
      let past := ((r.2.head?.map (·.1)).getD i + 1) % chRing signalled e ch
      exec (.abort e) s = .next (errKind (updChan (setChHead (setChState signalled e ch 0) e ch past) e ch fun x =>
        { x with desc := none, rerun := false, waits := false })))

/-! ## Units, their registers, tasks -/

/-- HALT_CLEAR makes a halted unit idle, and nothing else of it changes; FORCE_HALT halts a running one with EXTERNAL, its DETAIL naming who
forced it, and does nothing else (R151, R365); that its PC is the next word's is the model's choice (log entry 118). ENGINE_RESET of an idle or
halted engine leaves its reset state and its halt record, and is ignored while the engine runs. A unit that is cut, itself or with what encloses
it, ignores all of them (R548). -/
def Obligations.UnitControls : Prop :=
  ∀ (s : State),
    let cut := fun (u : Nat) => if isSE u then isCut s 3 (u - 512) || !regionAlive s (unitRegion u) else isCut s 0 u
    (∀ u, cut u = false → (getCore s u).seq.st = .halted → exec (.haltClear u) s = .next (updSeq s u fun q => { q with st := .idle })) ∧
    (∀ u, cut u = true ∨ (getCore s u).seq.st ≠ .halted → exec (.haltClear u) s = .next s) ∧
    (∀ u level bar0, cut u = false → (getCore s u).seq.st = .running →
      exec (.forceHalt u level bar0) s = .next (haltUnit s u 0x1A 15 (getCore s u).seq.pc (externalDetail level bar0 false false))) ∧
    (∀ u level bar0, cut u = true ∨ (getCore s u).seq.st ≠ .running → exec (.forceHalt u level bar0) s = .next s) ∧
    (∀ e, exec (.seHaltClear e) s = exec (.haltClear (512 + e)) s) ∧
    (∀ e level bar0, (getCore s (512 + e)).deadbolted = false →
      exec (.seForceHalt e level bar0) s = exec (.forceHalt (512 + e) level bar0) s) ∧
    (∀ e level bar0, (getCore s (512 + e)).deadbolted = true → exec (.seForceHalt e level bar0) s = .next s) ∧
    (∀ e, cut (512 + e) = true ∨ (getCore s (512 + e)).seq.st = .running → exec (.engineReset e) s = .next s) ∧
    (∀ e, cut (512 + e) = false → (getCore s (512 + e)).seq.st = .idle ∨ (getCore s (512 + e)).seq.st = .halted → ∃ t, exec (.engineReset e) s = .next t ∧
      (getCore t (512 + e)).seq = { seqReset with haltRec := (getCore s (512 + e)).seq.haltRec } ∧
      (getCore t (512 + e)).queues = [] ∧ (getCore t (512 + e)).movers = [] ∧ (getCore t (512 + e)).task = none ∧
      (getCore t (512 + e)).deadbolted = (getCore s (512 + e)).deadbolted ∧ (∀ v, v ≠ 512 + e → getCore t v = getCore s v) ∧
      t.regions = s.regions ∧ t.blocks = s.blocks ∧ t.lap = s.lap ∧ t.host = s.host ∧ t.out = s.out)

/-- A scoreboard entry write (R153) fills the half of the selected entry that it names and empties its counts: it completes where no core
that the entry names runs, written or, where it is VALID, stored, its region lies below the shadow lines, and no other VALID region meets
it. A write that R153 rejects sets WRITE_REJECTED, one bit for the block by the model's choice (log entry 126), and leaves the entry. Which entry
names the cores, and that a region that is not VALID overlaps none, are inferences (log entry 28). -/
def Obligations.ScoreboardEntryWrites : Prop :=
  ∀ (s : State) (b : Nat) (w : Word),
    let i := fget s fBLK_SB_IDX_INDEX b 0
    let lo := fun (x : SbRegion) => { x with
      base := nbits w.toNat 0 18, producer := nbits w.toNat 18 3, consumers := nbits w.toNat 21 8, valid := nbit w.toNat 29, posted := 0, rel := [] }
    (∀ hi : Bool, blockAlive s b = true →
      let x := getSb s b i
      let y := if hi then { x with lines := nbits w.toNat 0 18, posted := 0, rel := [] } else lo x
      let named := fun (z : SbRegion) (c : Nat) => z.producer = c ∨ nbit z.consumers c = true
      (∀ c < 8, named y c ∨ x.valid = true ∧ named x c → (getCore s (b * 8 + c)).seq.st ≠ .running) →
      (hi = true → 1 ≤ y.lines ∧ y.lines ≤ 196608) → y.base + y.lines ≤ shadowLine s b →
      (y.valid = true → ∀ e ∈ (getBlock s b).sb, e.1 ≠ i → e.2.valid = true → e.2.base + e.2.lines ≤ y.base ∨ y.base + y.lines ≤ e.2.base) →
      exec (.sbEntryWrite b hi w) s = .next (putSb s b i y) ∧ getSb (putSb s b i y) b i = y) ∧
    (blockAlive s b = true → sbRejects s b i false w.toNat = false →
      exec (.sbEntryWrite b false w) s = .next (putSb s b i (lo (getSb s b i)))) ∧
    (blockAlive s b = true → sbRejects s b i true w.toNat = false →
      exec (.sbEntryWrite b true w) s = .next (putSb s b i { getSb s b i with lines := nbits w.toNat 0 18, posted := 0, rel := [] })) ∧
    (∀ hi, blockAlive s b = true → (∃ c < 8, ((getSb s b i).producer = c ∨ nbit (getSb s b i).consumers c = true) ∧ (getSb s b i).valid = true ∧
        (getCore s (b * 8 + c)).seq.st = .running) →
      exec (.sbEntryWrite b hi w) s = .next (fput s fBLK_SB_COUNT_WRITE_REJECTED b 0 1)) ∧
    (∀ hi, blockAlive s b = false → exec (.sbEntryWrite b hi w) s = .next s)

/-- OOB_CLEAR zeroes exactly the counters that its mask names, SATURATED included (R170); CLEAR_ALL zeroes every conflict counter of the block
(R295); TUM_SET sets COUNT of the selected tumbler, marks it HAND after first issue, and tests its waits again (R426, R443). -/
def Obligations.CounterClears : Prop :=
  ∀ (s : State),
    (∀ c mask, corePresent s c = true → isCut s 0 c = false → ∃ t, exec (.oobClear c mask) s = .next t ∧
      (∀ m < 8, fget t (fCORE_STM_OOB_OOB_COUNT m) c 0 = if mask.getLsbD m then 0 else fget s (fCORE_STM_OOB_OOB_COUNT m) c 0) ∧
      (∀ m < 8, fget t (fCORE_STM_OOB_SATURATED m) c 0 = if mask.getLsbD m then 0 else fget s (fCORE_STM_OOB_SATURATED m) c 0) ∧
      t = { s with flds := t.flds }) ∧
    (∀ b, blockAlive s b = true → exec (.bsConfClearAll b) s = .next (updBlock s b fun x => { x with conf := [] })) ∧
    (∀ region unit v, ∀ t : TumRef,
      t = ⟨region, unit, if region then fget s fRGN_TUM_IDX_INDEX unit 0 else fget s fBLK_TUM_IDX_INDEX unit 0⟩ → tumCut s t = false →
      exec (.tumSet region unit v) s = .next (tumRetest (tumPut s t { tumGet s t with
        count := v.toNat % 65536, hand := (tumGet s t).hand || decide (s.lap.phase = .issuing) }) t))

/-- The synchronisation-state dump (R444 to R446). START makes the header and the list of entries, and a second START is ignored; reads
give the 32-bit words of the entries in order, an entry with the contents that it has when its first word is read; the end entry's last
word ends the dump and sets DONE; CANCEL leaves the end entry. -/
def Obligations.DumpReads : Prop :=
  ∀ (s : State),
    let d := s.dump
    (d.busy = false → exec .syncDumpStart s = .next { s with dump := ⟨true,
      .header (s.lap.num % 2 ^ 48 * 2 ^ 4 + fget s fPART_ID_ID 0 0 * 2 ^ 52 + (dumpBody s).length * 2 ^ 72) :: dumpBody s, 0, [], 0⟩ }) ∧
    (d.busy = true → exec .syncDumpStart s = .next s) ∧
    (d.busy = true → exec .syncDumpCancel s = .next { s with dump := { d with todo := [], cur := 0, word := 0 } }) ∧
    (d.busy = false → exec .syncDumpDataRead s = .next (emit s (.read 0 0 [0]))) ∧
    (∀ e rest, d.busy = true → d.todo = e :: rest → d.word = 0 → exec .syncDumpDataRead s =
      .next (emit { s with dump := { d with cur := dumpEntry s e, word := 1 } } (.read 0 0 [nbits (dumpEntry s e) 0 32]))) ∧
    (d.busy = true → 0 < d.word → d.word < 7 → exec .syncDumpDataRead s =
      .next (emit { s with dump := { d with word := d.word + 1 } } (.read 0 0 [nbits d.cur (32 * d.word) 32]))) ∧
    (∀ e rest, d.busy = true → d.todo = e :: rest → d.word = 7 → exec .syncDumpDataRead s =
      .next (emit { s with dump := { d with todo := rest, cur := 0, read := d.read ++ [d.cur], word := 0 } } (.read 0 0 [nbits d.cur 224 32]))) ∧
    (d.busy = true → d.todo = [] → d.word = 0 → exec .syncDumpDataRead s =
      .next (emit { s with dump := { d with cur := dumpEnd d.read, word := 1 } } (.read 0 0 [nbits (dumpEnd d.read) 0 32]))) ∧
    (d.busy = true → d.todo = [] → d.word = 7 → exec .syncDumpDataRead s =
      .next (emit (fput { s with dump := ⟨false, [], 0, [], 0⟩ } fPART_SYNC_DUMP_STATUS_DONE 0 0 1) (.read 0 0 [nbits d.cur 224 32])))

/-- A unit that may start a task takes the first one placed on it (R129): queues, accumulators, masks, scan state, registers and summaries
are empty, the control store holds the program, read now or left by the task before, the arm list is bound and the AT_START movers are
armed, and issue is at word 0. A program or arm list that cannot be read halts it with ADDR_RANGE or STREAM_BUS_ERROR at PC 0 (R603), and so does
a tensor descriptor that an entry names, which is an inference (log entry 124); two
movers that bind one queue halt it with QUEUE_CONFLICT before any word issues (R137; ENGINE and PC are the model's choice, log entry 98).
Spin filler only begins. A task whose END has issued, and all of whose engines and writes are done, finishes (R48, R103, R130): its unit
is idle, its queues are empty, its armed movers are armed still and its open rows dropped, its counters gain the energy counted (how it
divides over a core's engines is free), its energy is what they have gained since the task's start, and its record takes its results and
its final random streams. Spin filler finishes while it runs (R106). -/
def Obligations.TasksStartAndFinish : Prop :=
  (∀ (s : State) (u : Nat) (k : LapTask), mayStart s u = true → nextTask s u = some k →
    let s0 := resetChannels (clearCounts (setCore s u { freshCore (isSE u) (getCore s u) with task := some k.slot, lastTask := some k.slot }) u) u
    let s1 := updTask (drawFree s0).2 k.slot fun x => { x with started := true, startNs := (drawFree s0).1 }
    let unloaded := fun (t : State) => updSeq t u fun q => { q with loaded := false }
    let program := taskRead s1 k.desc.program (64 * k.desc.programWords)
    (k.filler = true → exec (.taskStart u) s = .next (unloaded s1)) ∧
    (k.filler = false → reusable (getCore s u) k.desc = false →
      (∀ q a, program = (q, .range a) → exec (.taskStart u) s = .next (haltUnit (unloaded q) u 0x0F 15 0 a)) ∧
      (∀ q a, program = (q, .bus a) → exec (.taskStart u) s = .next (haltUnit (unloaded q) u 0x16 15 0 a))) ∧
    (∀ s2, k.filler = false →
      (reusable (getCore s u) k.desc = true ∧ s2 = s1 ∨ reusable (getCore s u) k.desc = false ∧ ∃ q b, program = (q, .ok b) ∧
        s2 = updCore q u fun c => { c with
          seq := { c.seq with loaded := true, prog := k.desc.program, progWords := k.desc.programWords, cstore := denseTab (wordsOf k.desc.programWords b) }
          harm := mendRange c.harm (harmKey 4 0 0) (harmKey 4 0 k.desc.programWords) }) →
      let list := taskRead s2 k.desc.armList (64 + 128 * k.desc.armCount)
      (∀ q a, list = (q, .range a) → exec (.taskStart u) s = .next (haltUnit q u 0x0F 15 0 a)) ∧
      (∀ q a, list = (q, .bus a) → exec (.taskStart u) s = .next (haltUnit q u 0x16 15 0 a)) ∧
      (∀ q b, list = (q, .ok b) →
        let arms := (blocksOf 128 k.desc.armCount (b.drop 64)).map leNat
        (∀ v a, readDescs arms q = (v, .range a) → exec (.taskStart u) s = .next (haltUnit v u 0x0F 15 0 a)) ∧
        (∀ v a, readDescs arms q = (v, .bus a) → exec (.taskStart u) s = .next (haltUnit v u 0x16 15 0 a)) ∧
        ∀ v d, readDescs arms q = (v, .ok d) →
          let armed := armAll u arms (updCore (bindRands v u k (leNat (b.take 64))) u fun c => { c with arms := arms })
          (armed.2 = none → exec (.taskStart u) s = .next armed.1) ∧
          (∀ e, armed.2 = some e → exec (.taskStart u) s = .next (haltUnit armed.1 u 0x09 e.1 0 e.2))))) ∧
  ∀ (s : State) (u ns nj : Nat) (k : LapTask), unitTask s u = some k →
    (hasFinished s u = true ∨ k.filler = true ∧ (getCore s u).seq.st = .running) →
    ∃ t, exec (.taskFinish u ns nj) s = .next t ∧ (getCore t u).seq.st = .idle ∧ (getCore t u).task = none ∧ (getCore t u).queues = [] ∧
      (getCore t u).movers = (getCore s u).movers.map (fun e =>
        (e.1, { e.2 with st := if e.2.st = .unarmed then .unarmed else .armed, req := none, due := false })) ∧
      (getCore t u).row = none ∧ (getCore t u).asm = [] ∧ (getCore t u).asmOpen = false ∧
      (getCore t u).acc = (getCore s u).acc ∧
      (let held := fun (x : State) => (List.range 15).map (tabGet 0 (getCore x u).energy)
       if isSE u then held t = (held s).set 0 (tabGet 0 (getCore s u).energy 0 + nj) else (held t).sum = (held s).sum + nj) ∧
      (∀ v, v ≠ u → getCore t v = getCore s v) ∧ t = { s with cores := t.cores, lap := t.lap, freeCtr := t.freeCtr } ∧
      t.lap.cur = s.lap.cur.map fun x => if x.slot = k.slot then { x with
        finished := true, activeNs := ns, energyNj := energySum (getCore s u).energy + nj - (getCore s u).energySnap, results := (getCore s u).seq.results,
        streams := (getCore s u).ctrs.filterMap fun e =>
          if e.2.moved then some (e.1, (⟨e.2.key, e.2.counter, true, e.2.wrapped⟩ : RStream)) else none } else x

/-- Held memory in the background (R55, R280, R283, R285): a fill copy completes once its task's writes are issued, the oldest record in force
goes into the page table, the fold backlog is folded in order, and a posted record takes effect at once outside lap service and waits for
the commit point within it. What goes through a system structure reads it, with its second copy behind it (R287). The sideband copy refuses a
record (R554), a host's write is recorded first (R538), and a region that is cut takes none (R548). That a record for a held page is dropped out of
lap service too is the model's choice (log entry 123). -/
def Obligations.HeldMemory : Prop :=
  ∀ (s : State) (r : Nat),
    (∀ frame page e h, (getRegion s r).pt.find? (fun e => e.2.helds.any fun h => h.frame == frame && !h.filled) = some (page, e) →
      e.helds.find? (fun h => h.frame == frame && !h.filled) = some h → regionAlive s r = true →
      h.lap ≠ s.lap.num % 65536 ∨ writesDone s h.slot = true →
      let x := getRegion s r
      let t := checkLines (readSystem s r .written) r (entryFrame x (tabGet pteReset x.pt page)) false (unwrittenLines h)
      exec (.fillCopyComplete r frame) s = .next (updRegion t r fun x => fillHeld (failedSlice t r frame) x page h)) ∧
    (∀ p rest, (getRegion s r).foldQ = p :: rest → regionAlive s r = true → exec (.fold r) s =
      .next (foldPage (readSystem (readSystem (readSystem s r .outcomes) r .pageTable) r .frameMap) r p)) ∧
    (∀ p rest, (getRegion s r).ptForce = p :: rest → ∃ t, exec (.ptRecordWrite r) s = .next t ∧ (getRegion t r).ptForce = rest ∧
      (let e := tabGet pteReset (getRegion t r).pt p.page
       e.frame = p.frame ∧ e.valid = p.valid ∧ e.lapLocal = p.lapLocal ∧ e.helds = (tabGet pteReset (getRegion s r).pt p.page).helds) ∧
      (∀ q, q ≠ p.page → tabGet pteReset (getRegion t r).pt q = tabGet pteReset (getRegion s r).pt q) ∧
      let u := readSystem s r .pageTable
      t = { u with regions := t.regions } ∧ ∀ v, v ≠ r → getRegion t v = getRegion u v) ∧
    ∀ who w1,
      let got := if who = .bar0 then driverWrite s (0x20_0008 + r * 0x1_0000) w1.toNat else s
      (whoReaches s who (some r) = false ∨ who = .bar0 ∧ fget s fPART_BOOT_STATUS_PHASE 0 0 ≠ 4 → exec (.ptUpdateRecord who r w1) s = .next s) ∧
      (whoReaches s who (some r) = true → (who = .bar0 → fget s fPART_BOOT_STATUS_PHASE 0 0 = 4) → regionAlive s r = false →
        exec (.ptUpdateRecord who r w1) s = .next got) ∧
      (who = .sideband → regionAlive s r = true → exec (.ptUpdateRecord who r w1) s = .next (fput s fRGN_IND_STATUS_REFUSED r 2 1)) ∧
      (who ≠ .sideband → whoReaches s who (some r) = true → (who = .bar0 → fget s fPART_BOOT_STATUS_PHASE 0 0 = 4) → regionAlive s r = true →
        let x := getRegion s r
        let w0 := (tabGet indReset x.ind (copyOf who)).ptWord0
        let p : PtRec := ⟨nbits w0 0 21, nbits w1.toNat 0 21, nbit w1.toNat 21, nbit w1.toNat 22⟩
        (inService s = true → x.ptPend.length + x.ptForce.length < 4096 →
          exec (.ptUpdateRecord who r w1) s = .next (updRegion got r fun x => { x with ptPend := x.ptPend ++ [p] })) ∧
        (inService s = true → 4096 ≤ x.ptPend.length + x.ptForce.length →
          exec (.ptUpdateRecord who r w1) s = .next (fput got fRGN_PT_STATUS_QUEUE_FULL r 0 1)) ∧
        (inService s = false →
          let v := readSystem (readSystem got r .pageTable) r .frameMap
          (ptEffect v r p = none → exec (.ptUpdateRecord who r w1) s = .next (fput v fRGN_PT_STATUS_UPDATE_REJECTED r 0 1)) ∧
          ((pteOf (getRegion v r) p.page).helds ≠ [] → ptEffect v r p = none) ∧
          ∀ t, ptEffect v r p = some t → ∃ u, exec (.ptUpdateRecord who r w1) s = .next u ∧ u = { t with regions := u.regions } ∧
            (let e := tabGet pteReset (getRegion u r).pt p.page
             e.frame = p.frame ∧ e.valid = p.valid ∧ e.lapLocal = p.lapLocal)))

/-! ## The lap: mark, plan point, commit point, first issue, votes -/

/-- THE LAP MARK (R46 step 1, R61, R63, R141, R426). While tasks issue, it ends the lap: no unit holds a task any more; the lap's tasks, all
of them and no other, in their order, become the deciding tasks, each with its slot and its outcome, and with OVERRUN where it neither finished
nor ended; nothing lap-local stays written, and its bytes are gone, no tumbler counts, and no hinge operation waits. What the new mark applies
(votes of registers, shadows, pins, markers, doorbells) follows on that state. In any other phase the command does nothing, which is the model's
choice (log entry 7). A bench re-run puts what the next lap read of host memory in its place first (R544; log entry 134, the model's choice). -/
def Obligations.LapMarkEndsTheLap : Prop :=
  ∀ s : State,
    let m := if benchOn s then benchHost s (s.lap.num + 1) else s
    (s.lap.phase ≠ .issuing → exec .lapMark s = .next s) ∧
    (s.lap.phase = .issuing → ∃ e, exec .lapMark s = .next (startLap e) ∧ e.lap.num = (s.lap.num + 1) % 2 ^ 48 ∧ e.lap.phase = .marked ∧
      e.lap.cur = [] ∧ e.lap.planned = false ∧ (∀ u, (getCore e u).task = none) ∧
      (∀ b, (getBlock e b).llWritten = [] ∧ (getBlock e b).tums = [] ∧ (getBlock e b).hingeQ = [] ∧ (getBlock e b).hingeRun = none) ∧
      (∀ r, (getRegion e r).llWritten = [] ∧ (getRegion e r).tums = [] ∧ (getRegion e r).pageWriters = []) ∧
      e.lap.deciding.map (fun d => (d.slot, d.graph, d.desc, d.unit, d.outcome)) = (dmaMarkAll (trkClose m)).lap.cur.map fun k =>
        (k.slot, k.graph, k.desc, k.unit, if k.finished = false ∧ k.outcome = none then some 1 else k.outcome))

/-- THE COMMIT POINT (R46 step 5, R69). A marked lap is decided and the sequence goes on; in any other phase the command does nothing, which is
the model's choice (log entry 7). A bench re-run applies the recorded control records of the lap first. Each deciding task gets an outcome, one
that it had already stays unless a producer of a task that would commit failed, and NO TASK COMMITS WITH A FAILED PRODUCER: the closure over local
consumers is complete. With BENCH = 1 the recorded log forces the outcomes of R544: OVERRUN, VOTE_LATE, HALTED, PARTNER_LOST, DEADBOLTED and
REPLAY. -/
def Obligations.CommitPointDecides : Prop :=
  ∀ s : State,
    (s.lap.phase ≠ .marked → exec .commitPoint s = .next s) ∧
    (s.lap.phase = .marked → benchOn s = false → exec .commitPoint s = .next (goOn (placeAgain (lapDecided (commitLap (missVotes s)))))) ∧
    (s.lap.phase = .marked → benchOn s = true →
      exec .commitPoint s = .next (commitPoint ((benchInputs s s.lap.num [4]).foldl giveControl s))) ∧
    (decideTasks s).map (fun k => (k.graph, k.slot, k.desc)) = s.lap.deciding.map (fun k => (k.graph, k.slot, k.desc)) ∧
    (∀ k ∈ decideTasks s, k.outcome ≠ none) ∧
    (∀ k ∈ decideTasks s, k.outcome = some 0 → ∀ p ∈ k.prods, p ≠ k.slot → slotFailed s (decideTasks s) p = false) ∧
    (fget s fPART_TRK_CFG_BENCH 0 0 = 0 → ∀ k ∈ s.lap.deciding, ∀ o, k.outcome = some o → o ≠ 0 → k ∈ decideTasks s) ∧
    (fget s fPART_TRK_CFG_BENCH 0 0 = 1 → ∀ k ∈ s.lap.deciding,
      let w := tabGet 0 s.trk.benchLog (lapN s)
      ∀ i, i < nbits w 192 16 → (∀ j, j < i → ¬ (nbits w (512 + 128 * j) 32 = k.graph ∧ nbits w (544 + 128 * j) 16 = k.desc.index)) →
        nbits w (512 + 128 * i) 32 = k.graph → nbits w (544 + 128 * i) 16 = k.desc.index →
        nbits w (576 + 128 * i) 8 ∈ ([1, 2, 5, 6, 7, 8] : List Nat) →
        ∃ q ∈ decideTasks s, q.slot = k.slot ∧ q.outcome = some (nbits w (576 + 128 * i) 8))

/-- THE PLAN POINT AND FIRST ISSUE (R46 step 7, R95 to R105, R45, R505). A plan point that is due plans once: the factor is that of the
pins as they stand, and the plan is kept. Admission stays within the budget of R97: what is left of it after the last task admitted is not
negative; the limit is the peak one only where f is 1, PEAK_ENABLE is 1 and no lap of the last nine was a peak lap (R100); the tasks of
each core pass the check of R110 together; and the plan is what admission made of the state at the plan point. First issue of a committed
lap makes the plan the running lap, leaves out exchanging tasks from the 17th lap of holdover, and ends DEADBOLTED what was planned on a
unit since cut, and PARTNER_LOST what consumes from a partner since lost (R72); without a part manager it starts no task (R29); a thermal
trip withholds it (R591). On a bench re-run it gives the recorded inputs of the lap again (R544; log entry 134). A plan point before the
first mark is the model's reading (log entry 24), and so is that a plan point or a first issue out of its place does nothing (log entry
7). -/
def Obligations.PlanPointAndFirstIssue : Prop :=
  ∀ s : State,
    (planDue s = true → s.lap.planned = false → s.part.manager ≠ none → ∃ t, exec .planPoint s = .next t ∧ t.lap.planned = true ∧
      t.pacer.f = factorOf s.pins.paceReq s.pins.shedN ∧ t.pacer.leakNj = natNj (leaksOf s).sum ∧
      ∃ v caps, v.graphs = s.graphs ∧ v.lap = s.lap ∧ v.cores = s.cores ∧ v.regions = s.regions ∧ v.fuses = s.fuses ∧
        let m := (madeAt v (plannedLap s) (factorOf s.pins.paceReq s.pins.shedN) (leaksOf s).sum caps).1
        t.pacer.budgetNj = natNj m.budget ∧ t.pacer.planPeak = m.peak ∧ (fget s fPART_TRK_CFG_BENCH 0 0 = 0 → t.lap.plan = m.tasks ∧
          t.pacer.plannedNj = natNj (m.budget - m.left))) ∧
    (∀ (lap f : Nat) (leak : Rat) (caps : List Rat),
      let m := (madeAt s lap f leak caps).1
      m.budget = (if m.peak then lapEnergy s (peakW s) - leak else (f : Rat) / 100 * lapEnergy s (sustainedW s) - leak) ∧
      (m.peak = true → f = 100 ∧ fget s fPART_PACER_CFG_PEAK_ENABLE 0 0 = 1 ∧ ∀ b ∈ s.pacer.peaks, b = false) ∧
      (m.tasks = [] ∨ 0 ≤ m.left) ∧
      ∀ u, u < 512 → cyclesFit s s.fuses.clockMHz (((onUnit m.tasks u).map (·.cyclesEst)).sum) = true) ∧
    (planDue s = false ∨ s.lap.planned = true ∨ s.part.manager = none → exec .planPoint s = .next s) ∧
    (s.lap.phase = .committed → s.part.thermTrip = false → ∃ t,
      (let u := relayStep (stirChans (callResends (sendResends (sendOffers (serveReads t)))))
       exec .firstIssue s = .next (if benchOn s then (benchInputs u u.lap.num [2, 3, 5, 6]).foldl giveInput u else u)) ∧
      t.lap.phase = .issuing ∧ t.lap.num = s.lap.num ∧ t.lap.plan = [] ∧ t.pacer.prevPlannedNj = s.pacer.plannedNj ∧
      (s.part.manager = none → t.lap.cur = []) ∧
      (s.part.manager ≠ none → t.lap.cur = ((if 16 < s.lap.holdover then s.lap.plan.filter fun k => !exchanges k else s.lap.plan).map fun k =>
        if unitCut s k.unit then endTask k 8 else k).map fun k => if s.lap.lost.any (consumesFrom s k) then endTask k 6 else k)) ∧
    (s.lap.phase ≠ .committed ∨ s.part.thermTrip = true → exec .firstIssue s = .next s)

/-- LAP-CLEAN WORDS AND HOLDOVER (R45, R68, R71, R489). A word that is owed goes once the votes it depends on are in, or the commit point
has passed; from then on it goes with CLEAN = 0 and OVERFLOW = 1. A sound word for the deciding lap joins the votes once for each sender
while the lap is marked; later it is counted in LATE_VOTES and recorded. From the 17th lap of holdover no word is owed and no exchanging
task is planned. Out of lap service a doorbell poll reads the array; in lap service it does nothing. That a word not owed, a holdover of up to 16 laps
and a poll in service do nothing is the model's choice (log entry 7), and the list of late words is its own (log entry 86). -/
def Obligations.VotesAndHoldover : Prop :=
  ∀ (s : State),
    (∀ dst, inService s = true → hasNat s.lap.owed dst = true → (s.lap.phase ≠ .marked ∨ votesIn s dst = true) → ∃ t, t.lap.owed = s.lap.owed.filter (fun p => p != dst) ∧
      exec (.lapCleanSend dst) s = .next (sendControl t dst 1 (cleanWord s dst))) ∧
    (∀ dst, inService s = false ∨ hasNat s.lap.owed dst = false → exec (.lapCleanSend dst) s = .next s) ∧
    (∀ dst, s.lap.phase ≠ .marked → (voteOfWord (cleanWord s dst).toNat).clean = false ∧ (voteOfWord (cleanWord s dst).toNat).overflow = true ∧
      (voteOfWord (cleanWord s dst).toNat).lap = lapN s % 2 ^ 48) ∧
    (∀ w, let t := trkControl s 1 w
      recordOk t w = true → inService s = true → (voteOfWord w.toNat).lap = lapN t →
        (s.lap.phase = .marked → t.lap.votes.any (fun x => x.src == (voteOfWord w.toNat).src && x.lap == (voteOfWord w.toNat).lap) = false →
          exec (.lapClean w) s = .next (updLap t fun l => { l with votes := l.votes ++ [voteOfWord w.toNat] })) ∧
        (s.lap.phase ≠ .marked → ∃ u, exec (.lapClean w) s = .next u ∧ u.lap = { t.lap with late := t.lap.late ++ [voteOfWord w.toNat] } ∧
          fget u fPART_LAP_STATUS_LATE_VOTES 0 0 = min (fget t fPART_LAP_STATUS_LATE_VOTES 0 0 + 1) (2 ^ fPART_LAP_STATUS_LATE_VOTES.width - 1))) ∧
    (16 < s.lap.holdover → ∃ t, exec .holdoverLimit s = .next t ∧ t.lap.owed = [] ∧ (∀ k ∈ t.lap.plan, exchanges k = false) ∧
      (∀ k ∈ t.lap.cur, exchanges k = true → k.started = true) ∧ t = { s with lap := t.lap }) ∧
    (s.lap.holdover ≤ 16 → exec .holdoverLimit s = .next s) ∧
    (inService s = true → exec .doorbellPoll s = .next s) ∧
    (inService s = false → exec .doorbellPoll s = .next (doorbellRead s))

/-- THE COMMANDS OF THE LAP, OF ITS TASKS AND OF HELD MEMORY COMPLETE: where the rules have one take place (R45, R46, R48, R55, R68, R71, R95,
R129, R280, R283, R489, R604), exec answers a next state, in which it has taken place. -/
def Obligations.LapCommandsComplete : Prop :=
  ∀ (s : State),
    (s.lap.phase = .issuing → ∃ t, exec .lapMark s = .next t ∧ t.lap.phase = .marked ∧ t.lap.num = (s.lap.num + 1) % 2 ^ 48) ∧
    (s.lap.phase = .marked → ∃ t, exec .commitPoint s = .next t ∧ t.lap.num = s.lap.num ∧ (t.lap.phase = .committed ∨ t.lap.phase = .off)) ∧
    (planDue s = true → s.lap.planned = false → s.part.manager ≠ none → ∃ t, exec .planPoint s = .next t ∧ t.lap.planned = true) ∧
    (s.lap.phase = .committed → s.part.thermTrip = false → ∃ t, exec .firstIssue s = .next t ∧ t.lap.phase = .issuing ∧ t.lap.num = s.lap.num) ∧
    (∀ dst, inService s = true → hasNat s.lap.owed dst = true → (s.lap.phase ≠ .marked ∨ votesIn s dst = true) →
      ∃ t, exec (.lapCleanSend dst) s = .next t ∧ hasNat t.lap.owed dst = false) ∧
    (∀ w, inService s = true → recordOk s w = true → (voteOfWord w.toNat).lap = lapN s → ∃ t, exec (.lapClean w) s = .next t ∧
      (s.lap.phase = .marked → ∃ v ∈ t.lap.votes, v.src = (voteOfWord w.toNat).src ∧ v.lap = lapN s) ∧
      (s.lap.phase ≠ .marked → voteOfWord w.toNat ∈ t.lap.late)) ∧
    (16 < s.lap.holdover → ∃ t, exec .holdoverLimit s = .next t ∧ t.lap.owed = []) ∧
    (inService s = false → ∃ t, exec .doorbellPoll s = .next t ∧ t.lap = s.lap) ∧
    (∀ u k pb ab, mayStart s u = true → nextTask s u = some k → k.filler = false → (∀ r, hbmSound s r = true) →
      (taskRead s k.desc.program (64 * k.desc.programWords)).2 = .ok pb → (taskRead s k.desc.armList (64 + 128 * k.desc.armCount)).2 = .ok ab →
      (∀ i < 8, nbit (leNat (ab.take 64)) (32 * i + 16) = false) → (∀ e ∈ blocksOf 128 k.desc.armCount (ab.drop 64), nbit (leNat e) 3 = false) →
      ∃ t, exec (.taskStart u) s = .next t ∧ (getCore t u).seq.st = .running ∧ (getCore t u).seq.pc = 0 ∧ (getCore t u).task = some k.slot ∧
        ∃ q ∈ t.lap.cur, q.slot = k.slot ∧ q.started = true) ∧
    (∀ u ns nj k, unitTask s u = some k → hasFinished s u = true → ∃ t, exec (.taskFinish u ns nj) s = .next t ∧
      (getCore t u).seq.st = .idle ∧ ∃ q ∈ t.lap.cur, q.slot = k.slot ∧ q.finished = true) ∧
    (∀ r frame page e h, (getRegion s r).pt.find? (fun e => e.2.helds.any fun h => h.frame == frame && !h.filled) = some (page, e) →
      e.helds.find? (fun h => h.frame == frame && !h.filled) = some h → regionAlive s r = true →
      h.lap ≠ s.lap.num % 65536 ∨ writesDone s h.slot = true → ∃ t, exec (.fillCopyComplete r frame) s = .next t ∧
        ∀ g ∈ (tabGet pteReset (getRegion t r).pt page).helds, g.lap = h.lap → g.slot = h.slot → g.filled = true) ∧
    (∀ r p rest, (getRegion s r).foldQ = p :: rest → regionAlive s r = true →
      ∃ t, exec (.fold r) s = .next t ∧ hasNat (getRegion t r).foldQ p = false) ∧
    (∀ r p rest, (getRegion s r).ptForce = p :: rest → ∃ t, exec (.ptRecordWrite r) s = .next t ∧ (getRegion t r).ptForce = rest) ∧
    (∀ r w1, endpointUp s = true → fget s fPART_BOOT_STATUS_PHASE 0 0 = 4 → regionAlive s r = true → inService s = true → (getRegion s r).ptPend.length + (getRegion s r).ptForce.length < 4096 →
      ∃ t, exec (.ptUpdateRecord .bar0 r w1) s = .next t ∧ (getRegion t r).ptPend.length = (getRegion s r).ptPend.length + 1) ∧
    (∀ u m q v, (getCore s u).seq.st = .running → (getMv (getCore s u) m).waitsFrame = true → (getMv (getCore s u) m).req = some q →
      q.write = true → pWop (getMv (getCore s u) m).pat = 0 →
      writeAt (updMv s u m fun x => { x with waitsFrame := false }) u q.addr q.data = .ok v →
      ∃ t, exec (.frameWaitResume u m) s = .next t ∧ (getMv (getCore t u) m).waitsFrame = false)

/-! ## Host: submission entries -/

/-- The head entry of a ring that names a table command, or STOP_GRAPH, or GRAPH. A table command (R491) is consumed whatever it holds; it is
answered on its REPLY_RING with code 2 where a reserved bit is set or the length is short, 3 where the image does not translate, and else with
what the image's load finds: 0 where it takes effect. A GUARD_TABLE image changes the guards of its graph alone (R367), a HURDLE_TABLE image
the hurdle records from FIRST on alone (R440), and an OWNER_TABLE image out of lap service the table that it names alone (R301). A guard table
comes before those already kept, which graphs opened under them keep (R367); which table a GRAPH entry takes is the model's reading (log entry
60). That a command without an entry does nothing is the model's choice (log entry 7). -/
def Obligations.TableCommands : Prop :=
  ∀ (s : State) (ring : Nat),
    (∀ c kind usesId act, (c, kind, usesId, act) ∈ [(Instr.ownerTable ring, 1, false, loadOwner), (.guardTable ring, 2, true, loadGuards ring),
        (.hurdleTable ring, 3, false, loadHurdles)] →
      (headEntry s ring kind = none → exec c s = .next s) ∧
      ∀ e, headEntry s ring kind = some e →
        let t := consumeEntry s ring
        let a := nbits e 64 64
        let n := nbits e 128 32
        ((entryReserved e usesId = true ∨ n < 64) → exec c s = .next (settleSub (commandDone t e 2))) ∧
        (entryReserved e usesId = false → 64 ≤ n → hostOk t a n = false → exec c s = .next (settleSub (commandDone t e 3))) ∧
        (entryReserved e usesId = false → 64 ≤ n → hostOk t a n = true →
          (∀ u, act (hostFetch t a n) e (hostRead t a n) = .inl u → exec c s = .next (settleSub (commandDone u e 0))) ∧
          (∀ code, act (hostFetch t a n) e (hostRead t a n) = .inr code → exec c s = .next (settleSub (commandDone (hostFetch t a n) e code))))) ∧
    (∀ e b u, loadGuards ring s e b = .inl u → ∃ x : GuardTab, u = { s with guards := x :: s.guards } ∧ x.graph = nbits e 160 32 ∧ x.ring = ring ∧
      (x.ents.map (·.id)).Nodup ∧ ∀ y ∈ x.ents, y.id ≠ 0) ∧
    (∀ e b u, loadHurdles s e b = .inl u → u = { s with hurdles := u.hurdles } ∧
      ∀ h, h < nbits (leNat (b.take 64)) 0 8 ∨ nbits (leNat (b.take 64)) 0 8 + nbits (leNat (b.take 64)) 8 9 ≤ h →
        tabGet 0 u.hurdles h = tabGet 0 s.hurdles h) ∧
    (inService s = false → ∀ e b u, loadOwner s e b = .inl u → u = { s with owners := u.owners } ∧
      ∀ t, t ≠ nbits (leNat (b.take 64)) 0 8 → getOwner u t = getOwner s t) ∧
    (inService s = true → ∀ e b u, loadOwner s e b = .inl u → ∃ p, u = { s with ownPend := s.ownPend ++ [p] } ∧ s.lap.num < p.lap)

/-- GRAPHS (R85, R86, R489, R491, R492). A GRAPH entry that is at the head is consumed and opens the graph that its read finds,
unresolved, with the fields of its descriptor and, where its tables can be read, their tasks and edges; while graphs or tasks are at their
limit it stays. A second graph of an open ID is rejected at once, and one of an ID that is still to be resolved waits for that (R500).
Resolution rejects a graph that fails a check, which closes it, and accepts another with ACCEPTED on its event ring. STOP_GRAPH of no open
graph answers 5, and of an open one 0, before STOPPED. At most 16 nudges wait; one that is served reads its ring's word, and that ring's
entries come first, and one for a disabled ring does nothing. That a command without an entry or a graph, and one for a graph already
resolved, does nothing is the model's choice (log entry 7). -/
def Obligations.GraphEntries : Prop :=
  ∀ (s : State) (ring : Nat),
    (headEntry s ring 0 = none ∨ graphsFull s = true → exec (.graph ring) s = .next s) ∧
    (∀ e, headEntry s ring 0 = some e → graphsFull s = false →
      let t := consumeEntry s ring
      let a := nbits e 64 64
      let w := leNat (hostRead t a 64)
      let n := nbits w 32 16
      let m := nbits w 192 32
      hostOk t a 64 = true →
      ((∀ x ∈ t.graphs, x.id ≠ nbits w 0 32) → ∃ u g, exec (.graph ring) s = .next (settleSub { u with graphs := s.graphs ++ [g] }) ∧
        u = noteGraphRead t a w ∧ g.id = nbits w 0 32 ∧ g.resolved = false ∧ g.stopped = false ∧ g.stopAsked = false ∧ g.st = [] ∧
        g.priority = nbits w 48 8 ∧ g.ledgerX = nbit w 56 ∧ g.cplRing = nbits w 224 16 ∧ g.evtRing = nbits w 240 16 ∧
        g.notBefore = nbits w 256 48 ∧ g.regionMask = nbits w 304 8 ∧
        ((n = 0 ∨ hostOk t (nbits w 64 64) (128 * n) = true) → (m = 0 ∨ hostOk t (nbits w 128 64) (8 * m) = true) → n ≤ 16384 → m ≤ 262144 →
          g.tasks = (blocksOf 128 n (hostRead t (nbits w 64 64) (128 * n))).map (fun b => taskOfWord (leNat b)) ∧
          g.edges = (blocksOf 8 m (hostRead t (nbits w 128 64) (8 * m))).map fun b => edgeOfWord (leNat b)) ∧
        (¬ ((n = 0 ∨ hostOk t (nbits w 64 64) (128 * n) = true) ∧ (m = 0 ∨ hostOk t (nbits w 128 64) (8 * m) = true)) → g.readFail = 0x0A)) ∧
      (∀ x, t.graphs.find? (fun x => x.id == nbits w 0 32) = some x → ∃ g, g.id = nbits w 0 32 ∧
        (x.resolved = true → exec (.graph ring) s = .next (settleSub (rejectOpen (noteGraphRead t a w) g))) ∧
        (x.resolved = false → exec (.graph ring) s = .next (settleSub (updHost (noteGraphRead t a w) fun h => { h with sameId := h.sameId ++ [g] }))))) ∧
    (∀ gid, getGraph s gid = none → exec (.graphResolved gid) s = .next s) ∧
    (∀ gid g, getGraph s gid = some g →
      (g.resolved = true → exec (.graphResolved gid) s = .next s) ∧
      (g.resolved = false → resolveCode s g ≠ 0 → ∃ t, exec (.graphResolved gid) s = .next t ∧
        t.graphs = s.graphs.filter (fun x => x.id != gid) ++ ((s.host.sameId.filter fun x => x.id == gid).take 1)) ∧
      (g.resolved = false → resolveCode s g = 0 → s.host.sameId.filter (fun x => x.id == gid) = [] →
        ∃ t, (∀ q ∈ t.graphs, q.id = gid → q.resolved = true) ∧ t.graphs.map (·.id) = s.graphs.map (·.id) ∧
        ∀ u, u = postEvent t g.evtRing 0x01 0 gid 0 0 →
          (guardFail g = none → exec (.graphResolved gid) s = .next u) ∧
          (∀ ty, guardFail g = some ty → exec (.graphResolved gid) s = .next (stopGraph (postEvent u g.evtRing ty 0 gid 0 0) gid)))) ∧
    (headEntry s ring 4 = none → exec (.stopGraph ring) s = .next s) ∧
    (∀ e, headEntry s ring 4 = some e → entryReserved e true = false → nbits e 128 32 = 0 →
      let t := consumeEntry s ring
      (mayStop t (nbits e 160 32) = false → exec (.stopGraph ring) s = .next (settleSub (commandDone t e 5))) ∧
      (mayStop t (nbits e 160 32) = true → exec (.stopGraph ring) s = .next (settleSub (stopOpen (commandDone t e 0) (nbits e 160 32)))) ∧
      (mayStop t (nbits e 160 32) = true ↔ ∃ g, getGraph t (nbits e 160 32) = some g ∧ g.resolved = true)) ∧
    let got := driverWrite s 0x24 ring
    (16 ≤ s.host.nudges.length → exec (.nudge ring) s = .next got) ∧
    (s.host.nudges.length < 16 → nudging s = true →
      exec (.nudge ring) s = .next (updHost got fun x => { x with nudges := x.nudges ++ [ring] })) ∧
    (s.host.nudges = [] → nudging s = false → ringOn s ring = false → exec (.nudge ring) s = .next got) ∧
    (s.host.nudges = [] → nudging s = false → ringOn s ring = true → hostOk s (dbBase s + 8 * ring) 8 = true →
      let r := readWord (hostFetch got (dbBase s + 8 * ring) 8) ring
      exec (.nudge ring) s = .next (settleSeen (updHost r.1 fun x =>
        { x with subQ := List.replicate r.2 ring ++ x.subQ.filter (fun m => m != ring), nudgeRing := some ring })))

/-! ## Registers -/

/-- REGISTER WRITES (R10, R11, R14, R16, R26, R481, R547, R548, R550, R553, R574, R575). The sideband port writes no register, and its
write of IND_DATA is refused; an odd access aborts at BAR0 and BAR4 and is a bus error and FIRMWARE_FAULT for a control core (log entry
34), which reaches only its own region, or, of the manager's, the part (R34; log entry 82). BAR0 reaches the HOST_ registers always and
the others while the endpoint is served (log entry 79); before READY it writes those of PART_BOOT_STATUS alone. A write that reaches a
register judges its fields in order against the state as it arrived (log entry 30), then does what the register commands; a reserved
offset, an absent unit and a deadbolted unit take nothing. A field in range takes its value, in its shadow where it is lap-applied and the
part is in lap service; one out of range, or held while its unit runs, keeps its value and sets the bit that its register names; a
read-only one stays. FW_FLAGS takes its mask's bits. SERVICE is rejected before READY and at debug level 2, and at 1 trains the enabled
ports. A write of the driver's is recorded first (R538). What acts before READY is an inference (log entry 32). REGISTER READS THAT ACT,
AND THE INDIRECT PAIR (R80, R554 to R558, R585). PART_LAP_NUM_LO reads bits [31:0] and latches the rest; PART_MEAS_DATA reads a word of a
measurement, zero before READY, and WORD advances. IND_DATA of a target out of reach reads zero, or drops the write, and sets REFUSED;
else the word at OFFSET is read or written and OFFSET advances, within the target's words, unless HOLD is 1; past the target a read gives
zero (log entry 31). Before READY, BAR0 reads zero and writes nothing. An access that times out reads all ones, or is dropped, and sets
TIMEOUT; what a refusal and a timeout do to OFFSET is an inference (log entry 36). A write to a region that is cut does nothing (R548).
Writing both words of an ENERGY entry sets it, but its reserved bits, and no other (R102). -/
def Obligations.RegisterAccess : Prop :=
  (∀ (s : State) (o size : Nat) (v : Word),
    let input := trkInput s 2 hostRegion (0x200_0000_0000 + o) (natLe 4 v.toNat)
    let reaches := fun (who : Requester) (t : State) =>
      (regPlace o = none → exec (.registerWrite who o ⟨v, 4⟩) s = .next t) ∧
      ∀ sp u off, regPlace o = some (sp, u, off) → ¬ (sp = .rgn ∧ off = 8) →
        (fieldsAt sp off = none ∨ spaceHere t sp u = false ∨ spaceCut t sp u = true → exec (.registerWrite who o ⟨v, 4⟩) s = .next t) ∧
        (∀ fs, fieldsAt sp off = some fs → spaceHere t sp u = true → spaceCut t sp u = false → exec (.registerWrite who o ⟨v, 4⟩) s =
          .next (regAct t (fs.foldl (writeField t u (copyOf who) v.toNat) (t, true)).1 who sp u off v.toNat).1)
    ((∀ r, regPlace o ≠ some (.rgn, r, 8)) → exec (.registerWrite .sideband o ⟨v, size⟩) s = .next s) ∧
    (∀ r, regPlace o = some (.rgn, r, 8) → exec (.registerWrite .sideband o ⟨v, size⟩) s =
      .next (if regionAlive s r then fput s fRGN_IND_STATUS_REFUSED r 2 1 else s)) ∧
    (o % 4 ≠ 0 ∨ size ≠ 4 → exec (.registerWrite .bar0 o ⟨v, size⟩) s = .next (emit s .abort) ∧
      exec (.registerWrite .bar4 o ⟨v, size⟩) s = .next (emit s .abort) ∧
      ∀ k, exec (.registerWrite (.control k) o ⟨v, size⟩) s = .next (emit (errPart s (errRecord s 0xF 3 0x25 0 8 0 o)) .busError)) ∧
    (∀ k, o % 4 = 0 → whoReaches s (.control k) (offsetRegion o) = false → exec (.registerWrite (.control k) o ⟨v, 4⟩) s = .next s) ∧
    (∀ k, o % 4 = 0 → whoReaches s (.control k) (offsetRegion o) = true → reaches (.control k) s) ∧
    (o % 4 = 0 → 0x10_0000 ≤ o → endpointUp s = false → exec (.registerWrite .bar0 o ⟨v, 4⟩) s = .next s) ∧
    (o % 4 = 0 → o < 0x10_0000 ∨ endpointUp s = true →
      (fget s fPART_BOOT_STATUS_PHASE 0 0 = 4 → reaches .bar0 input) ∧
      (fget s fPART_BOOT_STATUS_PHASE 0 0 ≠ 4 → 0x10_0000 ≤ o → o ≠ 0x10_0D00 → exec (.registerWrite .bar0 o ⟨v, 4⟩) s = .next input))) ∧
  (∀ (s t : State) (f : Fld) (u copy v : Nat) (ok : Bool),
    let sel := selOf t f u copy
    let x := nbits v f.lo f.width
    portHere f u sel = true →
    (f.access = .ro → writeField s u copy v (t, ok) f = (t, ok)) ∧
    (f.access = .rw → actField f = false → f ≠ fHOST_RING_CFG_TYPE → f ≠ fPART_LAP_CFG_PERIOD_US → f ≠ fPART_LAP_CFG_COMMIT_WIN →
      (f.kind = .heldRunning ∧ unitRuns s f u sel = true ∨ fieldOk t f (if f.sel = .cap then sel else u) x = false →
        writeField s u copy v (t, ok) f = (rejectField t f u sel, false)) ∧
      (¬ (f.kind = .heldRunning ∧ unitRuns s f u sel = true) → fieldOk t f (if f.sel = .cap then sel else u) x = true →
        (f.kind = .lapApplied → inService t = true → writeField s u copy v (t, ok) f =
          ({ t with shadows := tabSet none t.shadows (fldKey f u sel) (some ⟨x, x, x⟩) }, ok)) ∧
        (f.kind ≠ .lapApplied ∨ inService t = false → writeField s u copy v (t, ok) f = (fput t f u sel x, ok))))) ∧
  (∀ (s : State) (v : Word), exec (.fwFlagsWrite v) s = .next (fput s fPART_FW_FLAGS_FLAGS 0 0
    (Nat.land (fget s fPART_FW_FLAGS_FLAGS 0 0) (0xFFFF - v.toNat / 65536 % 65536) + Nat.land (v.toNat % 65536) (v.toNat / 65536 % 65536)))) ∧
  (∀ (s : State) (v : Word),
    let got := driverWrite s 0x10_0D04 v.toNat
    let train := fun (t : State) => if v.toNat % 2 = 1 then
      (rangeFrom 0 32).foldl (fun t p => if pget t fDZL_PORT_CFG_ENABLE p = 1 then portEnable t p true else t) t else t
    (fget s fPART_BOOT_STATUS_PHASE 0 0 ≠ 4 ∨ fget s fPART_BOOT_STATUS_DEBUG_LEVEL 0 0 = 2 →
      exec (.service v) s = .next (fput got fPART_BOOT_STATUS_WRITE_REJECTED 0 0 1)) ∧
    (fget s fPART_BOOT_STATUS_PHASE 0 0 = 4 → fget s fPART_BOOT_STATUS_DEBUG_LEVEL 0 0 ≠ 2 →
      (inService s = true → exec (.service v) s = .next (train (fput got fPART_BOOT_CTRL_SERVICE 0 0 (v.toNat % 2)))) ∧
      (inService s = false → exec (.service v) s = .next (train (fput (updLap got fun l => { l with plan := [], planned := false })
        fPART_BOOT_CTRL_SERVICE 0 0 (v.toNat % 2)))))) ∧
  (∀ (s : State),
    exec .lapNumLoRead s =
      .next (emit (updLap s fun l => { l with numHiLatch := l.num / 2 ^ 32 % 2 ^ 16 }) (.read 0 0 [s.lap.num % 2 ^ 32])) ∧
    (∀ i w, fget s fPART_MEAS_IDX_INDEX 0 0 = i → fget s fPART_MEAS_IDX_WORD 0 0 = w → exec .measDataRead s =
      .next (emit (fput s fPART_MEAS_IDX_WORD 0 0 (w + 1)) (.read 0 0 [if fget s fPART_BOOT_STATUS_PHASE 0 0 = 4 then
        nbits (tabGet 0 s.boot.meas i) (32 * w) 32 else 0])))) ∧
  (∀ (s : State) (who : Requester) (r : Nat) (v : Word),
    let c := copyOf who
    let target := fget s fRGN_IND_ADDR_TARGET r c
    let o := fget s fRGN_IND_ADDR_OFFSET r c
    let barred := who = .sideband ∨ target = 0x10 ∧ who = .bar0 ∧ inService s = true
    let moved := fun (t : State) (n : Nat) => if fget t fRGN_IND_ADDR_HOLD r c = 1 then t else
      fput t fRGN_IND_ADDR_OFFSET r c (if n ≤ fget t fRGN_IND_ADDR_OFFSET r c + 1 then 0 else fget t fRGN_IND_ADDR_OFFSET r c + 1)
    let served := who = .bar0 → fget s fPART_BOOT_STATUS_PHASE 0 0 = 4
    let got := if who = .bar0 then driverWrite s (0x20_0008 + r * 0x1_0000) v.toNat else s
    (whoReaches s who (some r) = false →
      (∀ c ∈ ([.indDataRead who r, .indDataWrite who r v, .indTimeout who r true, .indTimeout who r false] : List Instr), exec c s = .next s)) ∧
    (whoReaches s who (some r) = true → ¬ served →
      exec (.indDataRead who r) s = .next (emit s (.read c r [0])) ∧ exec (.indDataWrite who r v) s = .next s) ∧
    (whoReaches s who (some r) = true → served →
      (regionPresent s r = false → exec (.indDataRead who r) s = .next (emit s (.read c r [0]))) ∧
      (regionPresent s r = true → targetWords s who r target = none →
        exec (.indDataRead who r) s = .next (emit (fput s fRGN_IND_STATUS_REFUSED r c 1) (.read c r [0]))) ∧
      (regionAlive s r = false → exec (.indDataWrite who r v) s = .next got) ∧
      (regionAlive s r = true → barred ∨ targetWords s who r target = none →
        exec (.indDataWrite who r v) s = .next (fput got fRGN_IND_STATUS_REFUSED r c 1)) ∧
      (∀ n, regionPresent s r = true → targetWords s who r target = some n →
        (o < n → exec (.indDataRead who r) s =
          .next (emit (moved (indPeek s who r target o).2 n) (.read c r [(indPeek s who r target o).1]))) ∧
        (n ≤ o → exec (.indDataRead who r) s = .next (emit (moved s n) (.read c r [0]))) ∧
        (regionAlive s r = true → ¬ barred → o < n →
          exec (.indDataWrite who r v) s = .next (moved (indPoke got who r target o v.toNat).1 n)) ∧
        (regionAlive s r = true → ¬ barred → n ≤ o → exec (.indDataWrite who r v) s = .next (moved got n)))) ∧
    (whoReaches s who (some r) = true →
      (regionPresent s r = true → targetWords s who r target = none → ∀ wr, exec (.indTimeout who r wr) s = .next s) ∧
      (∀ n, regionPresent s r = true → targetWords s who r target = some n →
        (exec (.indTimeout who r false) s =
          .next (emit (fput (moved s n) fRGN_IND_STATUS_TIMEOUT r c 1) (.read c r [0xFFFF_FFFF]))) ∧
        (regionAlive s r = true → ¬ barred → exec (.indTimeout who r true) s = .next (fput (moved s n) fRGN_IND_STATUS_TIMEOUT r c 1)) ∧
        (regionAlive s r = false ∨ barred → exec (.indTimeout who r true) s = .next s)))) ∧
  (∀ (s : State) (who : Requester) (r k lo hi : Nat),
    let t := (indPoke (indPoke s who r 0x10 (2 * k) lo).1 who r 0x10 (2 * k + 1) hi).1
    tabGet 0 t.part.energy k = lo + hi % 2 ^ 24 * 2 ^ 32 ∧ ∀ j, j ≠ k → tabGet 0 t.part.energy j = tabGet 0 s.part.energy j)

/-! ## The host interface -/

/-- RING_ENABLE (R497, R500), made at READY with its ring selected (log entry 33): a 0 to 1 write takes the ring's index from the index
array, a ring whose word does not translate stays disabled with FAULT set, and the driver's selection stays. OWNER_UPDATE_RECORD (R305)
queues a sound record of a lap to come, or sets the one status bit; that it is held against the table as it stands when it arrives is an inference
(log entry 129). BAR2 (R479, R482, R483): a write lands in committed memory, or is held
under the host's slot in lap service; one that needs a frame beyond HOST_FRAMES waits and holds back those after it until after a
commit point; its place is that of the WINDOW in force when it was made; what R482 refuses is dropped and counted, or read as ones, and so
is lost data (log entry 103); a poisoned write is dropped, counted and reported. A word of the MSI-X table in BAR4 takes what is written, and a
vector that is unmasked sends its pending message (R480; the table's layout is presumed, log entry 115). FLR (R478) returns the HOST_
registers to their reset values, masks every vector, empties the translation cache, stops every graph, and drops the records of the tasks already
placed, which run on. That FLR drops the accesses that wait in the endpoint is presumed (log entry 23); ATS invalidation (R485) drops the
translations that it names and completes. -/
def Obligations.HostWindow : Prop :=
  (∀ (s : State) (side : Bool) (ring : Nat) (v : Word),
    (1024 ≤ ring → exec (.ringEnable side ring v) s = .next s) ∧
    (ring < 1024 → fget s fPART_BOOT_STATUS_PHASE 0 0 = 4 →
      let sel := ringSel side ring
      let w := idxBase s + 8 * sel
      ∃ t, exec (.ringEnable side ring v) s = .next t ∧
        fget t fHOST_RING_IDX_RING 0 0 = fget s fHOST_RING_IDX_RING 0 0 % 2 ^ 10 ∧
        fget t fHOST_RING_IDX_SIDE 0 0 = fget s fHOST_RING_IDX_SIDE 0 0 % 2 ∧
        (v.getLsbD 4 = false → ringOn t sel = false) ∧
        (v.getLsbD 4 = true → ringOn s sel = true → ringOn t sel = true ∧ ringIndex t sel = ringIndex s sel ∧ ringSize t sel = ringSize s sel) ∧
        (v.getLsbD 4 = true → ringOn s sel = false → hostOk s w 8 = true →
          ringOn t sel = true ∧ ringIndex t sel = leNat (hostRead s w 4) % 2 ^ 32) ∧
        (v.getLsbD 4 = true → ringOn s sel = false → hostOk s w 8 = false →
          ringOn t sel = false ∧ fget t fHOST_RING_STATUS_FAULT 0 sel = 1))) ∧
  (∀ (s : State) (v : Word),
    let w := fget s fPART_OWN_UPD0_DATA 0 0 + fget s fPART_OWN_UPD1_DATA 0 0 * 2 ^ 32 + fget s fPART_OWN_UPD2_DATA 0 0 * 2 ^ 64 +
      v.toNat * 2 ^ 96
    let table := nbits w 84 8
    let block := nbits w 64 20
    let e := nbits w 0 64
    let lap := resolveLap s.lap.num (nbits w 96 16)
    let queued := (s.ownPend.filter fun p => p.image.isNone).length
    let got := driverWrite s 0x10_050C v.toNat
    (4096 ≤ queued → exec (.ownerUpdateRecord v) s = .next (fput got fPART_OWN_STATUS_QUEUE_FULL 0 0 1)) ∧
    (queued < 4096 → lap ≤ s.lap.num → exec (.ownerUpdateRecord v) s = .next (fput got fPART_OWN_STATUS_LATE 0 0 1)) ∧
    (queued < 4096 → s.lap.num < lap →
      ((getOwner s table).count ≤ block ∨ ownEntryBad s (getOwner s table).log2 e = true →
        exec (.ownerUpdateRecord v) s = .next (fput got fPART_OWN_STATUS_BAD_RECORD 0 0 1)) ∧
      (block < (getOwner s table).count → ownEntryBad s (getOwner s table).log2 e = false → nbits w 92 4 = 0 → nbits w 112 16 = 0 →
        nbits e 0 17 = selfId s → regionPresent s (nbits e 17 3) = true →
        exec (.ownerUpdateRecord v) s = .next { got with ownPend := s.ownPend ++ [⟨lap, table, none, block, e⟩] }))) ∧
  (∀ (s : State) (o : Nat) (d : Bytes),
    let a := fget s fHOST_BAR2_CFG_WINDOW 0 0 * 2 ^ 36 + o
    let t := trkInput s 2 hostRegion a d
    let held := updHost t fun h => { h with heldWrites := h.heldWrites ++ [(a, d)] }
    exec (.bar2Write o ⟨d, true⟩) s = .next (emit (fbump s fHOST_BAR_STATUS_DROPPED 0 0 1) .aer) ∧
    exec (.bar2Write o ⟨[], false⟩) s = .next s ∧
    (d ≠ [] →
      (t.host.heldWrites ≠ [] → exec (.bar2Write o ⟨d, false⟩) s = .next held) ∧
      (t.host.heldWrites = [] → bar2Place t a d.length = none → exec (.bar2Write o ⟨d, false⟩) s = .next (fbump t fHOST_BAR_STATUS_DROPPED 0 0 1)) ∧
      ∀ r page off, t.host.heldWrites = [] → bar2Place t a d.length = some (r, page, off) →
        (inService t = false → exec (.bar2Write o ⟨d, false⟩) s = .next (writeNow t r page off d)) ∧
        (inService t = true → hostOver t r page = true → exec (.bar2Write o ⟨d, false⟩) s = .next held) ∧
        (∀ u, inService t = true → hostOver t r page = false →
          writeHbm t r 0x3FFF false (d.length / 65536 + 2) page off d = .ok u → exec (.bar2Write o ⟨d, false⟩) s =
            .next (updHost u fun h => { h with
              hostPages := if h.hostPages.any (fun p => p == (r, page)) then h.hostPages else h.hostPages ++ [(r, page)] })))) ∧
  (∀ (s : State),
    (s.host.heldWrites = [] ∨ s.lap.phase = .marked → exec .bar2WriteRelease s = .next s) ∧
    (∀ a d rest, s.host.heldWrites = (a, d) :: rest → s.lap.phase ≠ .marked →
      (bar2Take s a d = none → exec .bar2WriteRelease s = .next s) ∧
      (∀ t, bar2Take s a d = some t → exec .bar2WriteRelease s = .next (updHost t fun h => { h with heldWrites := rest }))) ∧
    (∀ o n,
      let a := fget s fHOST_BAR2_CFG_WINDOW 0 0 * 2 ^ 36 + o
      let ones := fun (t : State) => emit (fbump t fHOST_BAR_STATUS_ONES_READS 0 0 1) (.read 0 0 (List.replicate n 255))
      (s.lap.phase = .committed → exec (.bar2Read o n) s =
        .next (updHost s fun h => { h with heldReads := h.heldReads ++ [(a, n)] })) ∧
      (s.lap.phase ≠ .committed → bar2Place s a n = none → exec (.bar2Read o n) s = .next (ones s)) ∧
      (∀ r page off, s.lap.phase ≠ .committed → bar2Place s a n = some (r, page, off) →
        let q := readHbmEcc s r noSlot [] (n / 65536 + 2) page off n
        (q.2 = false → exec (.bar2Read o n) s = .next (emit q.1 (.read 0 0 ((readCommitted q.1 r page off n).map (·.toNat))))) ∧
        (q.2 = true → exec (.bar2Read o n) s = .next (ones q.1))))) ∧
  (∀ (s : State) (o : Nat) (v : Word), o % 4 = 0 →
    let i := o / 4
    let t := updHost s fun x => { x with msix := tabSet (b2n (i % 4 == 3)) x.msix i (if i % 4 = 3 then v.toNat % 2 else v.toNat) }
    (0x8000 ≤ o → exec (.registerWrite .bar4 o ⟨v, 4⟩) s = .next s) ∧
    (o < 0x8000 → ¬ (i % 4 = 3 ∧ v.toNat % 2 = 0 ∧ hasNat s.host.pba (i / 4) = true) → exec (.registerWrite .bar4 o ⟨v, 4⟩) s = .next t) ∧
    (o < 0x8000 → i % 4 = 3 → v.toNat % 2 = 0 → hasNat s.host.pba (i / 4) = true → exec (.registerWrite .bar4 o ⟨v, 4⟩) s =
      .next (msixSend (updHost t fun x => { x with pba := x.pba.filter fun n => n != i / 4 }) (i / 4)))) ∧
  (∀ (s : State), ∃ t, exec .flr s = .next ((s.graphs.map (·.id)).foldl stopOpen t) ∧
    t = { s with flds := t.flds, shadows := t.shadows, host := t.host, lap := t.lap } ∧
    (let quiet := fun (k : LapTask) => if (getGraph s k.graph).isSome then { k with noCpl := true } else k
     let held := s.lap.specHeld.map fun e => (e.1, quiet e.2)
     t.lap = { s.lap with plan := s.lap.plan.map quiet, cur := s.lap.cur.map quiet, deciding := s.lap.deciding.map quiet, specHeld := held }) ∧
    (let h := s.host
     t.host = { State.reset.host with mem := h.mem, unpinned := h.unpinned, hostPages := h.hostPages, doorReads := h.doorReads, sameId := h.sameId }) ∧
    (∀ f u sel, f.space = .host → u < 1024 → sel < 65536 → f.off < 65536 → f.lo < 32 → fget t f u sel = fldDefault s.fuses.grade f sel) ∧
    ∀ f u sel, f.space ≠ .host → fget t f u sel = fget s f u sel) ∧
  ∀ (s : State) (a n : Nat), ∃ t, exec (.atsInvalidation a n) s = .next (emit t (.atsDone a n)) ∧
    t = { s with host := { s.host with atsCache := t.host.atsCache } } ∧
    ∀ p, p ∈ t.host.atsCache ↔ p ∈ s.host.atsCache ∧ (a + n ≤ p.1 ∨ p.1 + p.2 ≤ a)

/-! ## The Drivezar link -/

/-- SEGMENTS AND CONTROL RECORDS THAT ARRIVE (R66, R73, R94, R304, R332, R405, R436, R453 to R456, R465, R472, R473). A segment for
another part, or that the rules have no place for, changes nothing or is refused to its source; a lap-local one of another lap than this part's
is discarded and counted; an OWNER write is held under its lap until
its word or confirmation, and lands at once out of lap service (log entry 104); an OWNER read is answered with committed state, and
refused where its data is lost (log entry 103); a reply lands for the transfer that awaits it; an exchange lands in the buffer of the task
that receives it, and a late one is counted; its signal reaches the tumbler; a ledger record is posted by an enabled collector. A record
whose CHECK fails, or for another part, does nothing but be recorded; a CONFIRM and its time limit decide held transfers across domains;
an OFFER is kept, or declined once its lap is planned, or draws the resends that it calls for (log entry 93); a DECLINE is kept while its
lap is decided; a NO_ROUTE ends the transfer of its segment and, without a path, loses the partner; a PROBE is answered and its reply
gives the latency. The lap and slot of a received transfer (log entry 49), the reasons of a refusal (log entry 50) and who is told when nothing
answers (log entry 54) are inferences; that a command out of its place does nothing is the model's choice (log entry 7). -/
def Obligations.LinkTraffic : Prop :=
  (∀ (s : State) (g : Segment) (name : Word),
    (∀ c ∈ ([.writeOwner g, .writeExchange g, .writeResend g, .readOwner g, .readReply g, .ledger g, .signalFlit g name] : List Instr),
      g.dst ≠ selfId s → exec c s = .next s)) ∧
  (∀ (s : State) (g : Segment), g.dst = selfId s →
    let part := fun (op : Nat) => trkSegment s op (managerRegion s) g
    let otherLap := g.held = false ∧ inService s = true ∧ g.lap ≠ s.lap.num
    (inService s = false → exec (.writeExchange g) s = .next (countRefused (part 1) g) ∧ exec (.writeResend g) s = .next (refuseSeg (part 2) g 3)) ∧
    (otherLap → exec (.writeOwner g) s = .next (countRefused (part 0) g) ∧ exec (.readOwner g) s = .next (countRefused (part 3) g) ∧
      (restoreReply s g = false → exec (.readReply g) s = .next (countRefused (part 4) g))) ∧
    (¬ otherLap → ownerPlace s g true g.data.length = none → exec (.writeOwner g) s = .next (refuseSeg (part 0) g 2)) ∧
    (∀ o, ¬ otherLap → ownerPlace s g true g.data.length = some o →
      let relay := (rangeFrom (o.off / 65536) ((o.off % 65536 + g.data.length + 65535) / 65536)).any (inRelayArea s)
      let t := trkSegment s 0 o.region g
      let x := rxSlot (if relay then { t with snap := { t.snap with hosted := some g.tableId } } else t) g (heldLap s g)
      (relay = true → g.src ≠ fget s fPART_RELAY_SRC_SOURCE 0 0 → exec (.writeOwner g) s = .next (refuseSeg t g 2)) ∧
      (relay = false ∨ g.src = fget s fPART_RELAY_SRC_SOURCE 0 0 →
        (inService s = false → exec (.writeOwner g) s = .next (firmwareWrite t o.region (o.off / 65536) (o.off % 65536) g.data).1) ∧
        (inService s = true → lapOpen s (heldLap s g) = false → exec (.writeOwner g) s = .next (countRefused t g)) ∧
        (∀ u, inService s = true → lapOpen s (heldLap s g) = true → writeInLap x.2 o x.1.1 x.1.2 g.data = some u → exec (.writeOwner g) s = .next u) ∧
        (inService s = true → lapOpen s (heldLap s g) = true → writeInLap x.2 o x.1.1 x.1.2 g.data = none → exec (.writeOwner g) s = .next s))) ∧
    (¬ otherLap → ownerPlace s g false g.readLen = none → exec (.readOwner g) s = .next (refuseSeg (part 3) g 2)) ∧
    (∀ o, ¬ otherLap → ownerPlace s g false g.readLen = some o →
      let q := readHbmEcc (trkSegment s 3 o.region g) o.region noSlot [] (g.readLen / 65536 + 2) (o.off / 65536) (o.off % 65536) g.readLen
      (q.2 = true → exec (.readOwner g) s = .next (refuseSeg q.1 g 2)) ∧
      (∀ t, q.2 = false → sendSegment q.1 o.region 4 (if g.urgent then 1 else 2) 0 { g with
        dst := g.src, length := g.readLen, data := readCommitted q.1 o.region (o.off / 65536) (o.off % 65536) g.readLen }
        none none = some t → exec (.readOwner g) s = .next t) ∧
      (q.2 = false → benchOn q.1 = false → routePorts q.1 o.region g.src = [] → exec (.readOwner g) s = .next (partnerLost q.1 g.src))) ∧
    (restoreReply s g = true → exec (.readReply g) s = .next (restorePage (part 4) g.data)) ∧
    (restoreReply s g = false → s.link.segs.find? (awaitsReply s g) = none → exec (.readReply g) s = .next (countRefused (part 4) g)) ∧
    (∀ x u, ¬ otherLap → restoreReply s g = false → s.link.segs.find? (awaitsReply s g) = some x →
      let t := trkSegment s 4 (engRegion x.eng) g
      writePlace t (chOwner t x.eng x.chan) (chSlot t x.eng x.chan) g.data (chPlace t x.eng x.chan g.replyAddr) = .ok u →
        let u := updChan u x.eng x.chan fun c => { c with moved := c.moved + g.data.length }
        exec (.readReply g) s = .next { u with link := { u.link with segs := u.link.segs.erase x } }) ∧
    (g.lap ≠ s.lap.num → inService s = true → exec (.writeExchange g) s = .next (countRefused (part 1) g)) ∧
    (g.lap = s.lap.num → inService s = true →
      (domainOf g.src ≠ domainOf (selfId s) → exec (.writeExchange g) s = .next (refuseSeg (part 1) g 4)) ∧
      (domainOf g.src = domainOf (selfId s) → exchangeBuf s g (fun _ => true) = none → exec (.writeExchange g) s = .next (refuseSeg (part 1) g 3)) ∧
      (∀ k b, domainOf g.src = domainOf (selfId s) → exchangeBuf s g (fun _ => true) = some (k, b) → exchangePlace s g b = none →
        exec (.writeExchange g) s = .next (refuseSeg (part 1) g 3)) ∧
      ∀ k b r page off t, domainOf g.src = domainOf (selfId s) → exchangeBuf s g (fun _ => true) = some (k, b) →
        exchangePlace s g b = some (r, page, off) →
        writeHbm (trkSegment s 1 r g) r k.slot false (g.data.length / 65536 + 2) page off g.data = .ok t →
        exec (.writeExchange g) s = .next (updRegion t r fun x =>
          { x with pageWriters := (getRegion s r).pageWriters, llWriters := (getRegion s r).llWriters })) ∧
    (let may := fun (k : LapTask) => (match getGraph s k.graph with
      | some q => (gst q k.desc.index).resent.any fun e => e == (g.src, g.xid, g.lap)
      | none => false);
      (inService s = true → exchangeBuf s g may = none → exec (.writeResend g) s = .next (refuseSeg (part 2) g 3)) ∧
      ∀ k b r page off t, inService s = true → exchangeBuf s g may = some (k, b) → exchangePlace s g b = some (r, page, off) →
        writeHbm (trkSegment s 2 r g) r k.slot false (g.data.length / 65536 + 2) page off g.data = .ok t →
        exec (.writeResend g) s = .next (updRegion t r fun x =>
          { x with pageWriters := (getRegion s r).pageWriters, llWriters := (getRegion s r).llWriters })) ∧
    let resent := fun (k : LapTask) => if g.urgent then takesResend s g k else g.lap == s.lap.num
    (∀ name : Word, (g.sig = false ∨ g.held = true ∨ nmScope name.toNat = 0 ∨ exchangeBuf s g resent = none) →
      exec (.signalFlit g name) s = .next s) ∧
    (∀ (name : Word) k b p, inService s = true → g.sig = true → g.held = false → nmRemote name.toNat = true → nmBad name.toNat = false →
      nmScope name.toNat ≠ 0 → exchangeBuf s g resent = some (k, b) → exchangePlace s g b = some p →
      let t := tumRefOf 0 name.toNat
      let u := trkSegment s 15 (managerRegion s) { g with data := natLe 4 name.toNat }
      (if t.region then regionPresent s t.unit else regionPresent s (t.unit / 8)) = true →
      let r := tumSignal u t (nmAmount name.toNat) 0 3 k.slot
      (r.2 = false → exec (.signalFlit g name) s = .next r.1) ∧
      (r.2 = true → exec (.signalFlit g name) s = .next (sendControl (noteRefused r.1 t k.slot) g.src 5 (noRouteRec r.1 g.src g.dst g.seg 5)))) ∧
    (fget s fPART_LEDGER_COLLECTOR_COLLECT 0 0 = 0 ∨ g.data.length ≠ 1024 → exec (.ledger g) s = .next (part 5)) ∧
    (fget s fPART_LEDGER_COLLECTOR_COLLECT 0 0 = 1 → g.data.length = 1024 →
      (fget s fPART_LEDGER_CFG_ENABLE 0 0 = 0 → exec (.ledger g) s = .next (fbump (part 5) fPART_LEDGER_STATUS_DROPS 0 0 1)) ∧
      (fget s fPART_LEDGER_CFG_ENABLE 0 0 ≠ 0 → exec (.ledger g) s = .next (ledgerPost (part 5) g.data)))) ∧
  (∀ (s : State) (w : BitVec 256) (ps : Nat),
    let got := fun (type : Nat) => trkControl s type w
    let n := w.toNat
    let v := voteOfWord n
    (∀ c ∈ ([(2, .confirm w), (3, .offer w), (4, .decline w), (5, .noRoute w), (6, .probe w ps), (7, .probeReply w ps)] : List (Nat × Instr)),
      recordOk s w = false → exec c.2 s = .next (got c.1)) ∧
    (recordOk s w = true →
      (let t := got 2
       exec (.confirm w) s = .next { t with link := { t.link with rx := t.link.rx.map fun r =>
        if r.cross = true ∧ r.src = v.src ∧ r.sent = v.lap ∧ r.verdict = none then
          { r with verdict := some (v.clean || !(v.overflow || hasNat v.ids r.xid)) } else r } }) ∧
      (let lap := nbits n 0 48
       let src := nbits n 48 17
       let key := nbits n 82 32
       let t := got 3
       (inService t = false → exec (.offer w) s = .next t) ∧
       let called := if lap = t.lap.num then calledFor t src key else []
       let u := called.foldl (fun s e => resendOne e.1 s e.2) t
       let offers := called = [] ∨ keyTasks t key ≠ []
       (inService t = true → ¬ offers → exec (.offer w) s = .next u) ∧
       (inService t = true → offers → (lap < t.lap.num ∨ lap = t.lap.num ∧ t.lap.planned = true) →
         exec (.offer w) s = .next (sendControl u src 4 (offerRec u lap src key))) ∧
       (inService t = true → offers → (t.lap.num < lap ∨ lap = t.lap.num ∧ t.lap.planned = false) → exec (.offer w) s = .next { u with link := { u.link with
         offersIn := u.link.offersIn.filter (fun o => o != (src, lap, key)) ++ [(src, lap, key)] } }) ∧
       let t := got 4
       ((lap = t.lap.num ∧ t.lap.phase = .issuing ∨ lap + 1 = t.lap.num ∧ t.lap.phase = .marked) → exec (.decline w) s =
         .next { t with link := { t.link with declined := t.link.declined.filter (fun d => d != (src, key)) ++ [(src, key)] } }) ∧
       (¬ (lap = t.lap.num ∧ t.lap.phase = .issuing ∨ lap + 1 = t.lap.num ∧ t.lap.phase = .marked) → exec (.decline w) s = .next t) ∧
       let t := got 6
       exec (.probe w ps) s = .next (sendControl t src 7 (probeRec t lap src (nbits n 82 64) ps)) ∧
       let t := got 7
       exec (.probeReply w ps) s = .next { t with link := { t.link with
         latency := tabSet 0 t.link.latency src ((ps - nbits n 82 64 - nbits n 146 64) / 2), unanswered := tabSet 0 t.link.unanswered src 0 } }) ∧
      (let dst := nbits n 82 17
       let reason := nbits n 111 3
       let t := got 5
       let lost := fun (u : State) => if reason ≤ 1 then partnerLost u dst else u
       (∀ x, t.link.segs.find? (fun x => x.seg == nbits n 99 12 && x.dst == dst) = some x →
         exec (.noRoute w) s = .next (lost (failSegment t x (if reason ≤ 1 ∨ reason = 5 then 1 else 2)))) ∧
       (∀ x, t.link.segs.find? (fun x => x.seg == nbits n 99 12 && x.dst == dst) = none →
         t.snap.pushed.find? (fun x => x.1 == nbits n 99 12 && x.2.1 == dst) = some x → exec (.noRoute w) s =
           .next (lost (snapFail { t with snap := { t.snap with pushed := t.snap.pushed.filter fun y => y.2.2 != x.2.2 } } 2 x.2.2))) ∧
       (t.link.segs.find? (fun x => x.seg == nbits n 99 12 && x.dst == dst) = none →
         t.snap.pushed.find? (fun x => x.1 == nbits n 99 12 && x.2.1 == dst) = none →
         (dst = snapPartner t → snapState t = 2 → exec (.noRoute w) s = .next (lost (snapFail t 0 t.snap.seq))) ∧
         (dst = snapPartner t → snapState t = 3 → exec (.noRoute w) s = .next (lost (snapFail t 1 t.snap.seq))) ∧
         (dst ≠ snapPartner t ∨ snapState t ≠ 2 ∧ snapState t ≠ 3 → exec (.noRoute w) s = .next (lost t)))))) ∧
  ∀ (s : State) (now : Nat),
    (exec .confirmTimeout s = .next { s with link := { s.link with rx := s.link.rx.map fun r =>
      if r.cross = true ∧ r.verdict = none ∧ r.lap + 16 ≤ s.lap.num then { r with verdict := some false } else r } }) ∧
    (inService s = false ∨ s.lap.num < s.link.probeLap + 64 → exec (.probeInterval now) s = .next s) ∧
    (inService s = true → s.link.probeLap + 64 ≤ s.lap.num →
      let t := { s with link := { s.link with probeLap := s.lap.num } }
      (partners s = [] → exec (.probeInterval now) s = .next t) ∧
      ∀ p, partners s = [p] →
        (3 ≤ tabGet 0 s.link.unanswered p → exec (.probeInterval now) s = .next (partnerLost t p)) ∧
        (tabGet 0 s.link.unanswered p < 3 →
          let u := { t with link := { t.link with unanswered := tabSet 0 t.link.unanswered p (tabGet 0 s.link.unanswered p + 1) } }
          exec (.probeInterval now) s = .next (sendControl u p 6 (probeRec u s.lap.num p now 0))))

/-- PORTS (R449, R457, R459, R460, R462 to R464). Enabling a port that is DOWN, and RETRAIN of an enabled one, start full training;
disabling takes a port DOWN, which ends its unacknowledged segments; a port that the configuration image enables trains once SERVICE is 1
(R575). The 256th echo of training, or the 16th of a retrain, sets the delay. Training ends UP at the width its good lanes give, or DOWN
past 250 ns or below MIN_WIDTH. A lane that fails on a port that is UP starts a retrain; the second attempt that fails takes it DOWN; a
retrain that ends reports the lost width, or that it kept it, and resends what was not acknowledged. An ACK frees the replay buffer up to
it; a NAK resends the rest; for a bad flit the receiver sends NAK with the SEQ of the last flit in order, each time (which flits it
discards meanwhile no command says: log entry 48). What may go on a port that is UP goes, then an IDLE. A HEAD, DATA or CONTROL flit for
another part takes one more hop over a candidate port, or is dropped and its source told. The echo delay's median and what training drops
are the model's choice (log entry 51), and so is that a command out of its place does nothing (log entry 7). -/
def Obligations.PortsAndFlits : Prop :=
  ∀ (s : State) (p : Nat),
    (portPresent s p = true →
      (∀ on, let t := pput s fDZL_PORT_CFG_ENABLE p (b2n on)
        (on = false → exec (.dzlPortEnable p on) s = .next (downPort t p)) ∧
        (on = true → fget s fPART_BOOT_STATUS_PHASE 0 0 = 3 → exec (.dzlPortEnable p on) s = .next t) ∧
        (on = true → fget s fPART_BOOT_STATUS_PHASE 0 0 ≠ 3 → portState t p = 0 → portCut t p = false → exec (.dzlPortEnable p on) s =
          .next (pput (updPort (downPort t p) p fun x => { x with badLanes := 0 }) fDZL_PORT_STATUS_STATE p 1)) ∧
        (on = true → portState t p ≠ 0 ∨ portCut t p = true → exec (.dzlPortEnable p on) s = .next t)) ∧
      (pget s fDZL_PORT_CFG_ENABLE p = 1 → portCut s p = false → exec (.retrain p) s =
        .next (pput (updPort (downPort s p) p fun x => { x with badLanes := 0 }) fDZL_PORT_STATUS_STATE p 1)) ∧
      (pget s fDZL_PORT_CFG_ENABLE p ≠ 1 ∨ portCut s p = true → exec (.retrain p) s = .next s) ∧
      (∀ lane, lane < 8 →
        (portState s p = 2 → ∃ t, exec (.laneFailure p lane) s = .next t ∧ portState t p = 3 ∧ (getPort t p).badLanes = putBits (getPort s p).badLanes lane 1 1 ∧
          (getPort t p).replay = (getPort s p).replay ∧ (getPort t p).tx = (getPort s p).tx ∧ (getPort t p).fails = 0 ∧
          ∀ q, q ≠ p → getPort t q = getPort s q) ∧
        (portState s p = 3 →
          let t := pput (updPort s p fun x => { x with badLanes := putBits x.badLanes lane 1 1, fails := x.fails + 1, echoes := [] })
            fDZL_PORT_STATUS_LANES_GOOD p (putBits (pget s fDZL_PORT_STATUS_LANES_GOOD p) lane 1 0)
          ((getPort s p).fails = 0 → exec (.laneFailure p lane) s = .next t) ∧
          (1 ≤ (getPort s p).fails → exec (.laneFailure p lane) s = .next (failPort t p)))) ∧
      (∀ lanes farId farPort delay, portState s p = 1 →
        let good := goodLanes s p lanes
        let d := if 256 ≤ (getPort s p).echoes.length then echoDelay (getPort s p) else delay
        let t := pput (pput (pput (pput (pput s fDZL_PORT_DELAY_DELAY_PS p (min d (2 ^ 20 - 1))) fDZL_PORT_STATUS_LANES_GOOD p (laneMask good))
          fDZL_PORT_FAR_FAR_ID p farId) fDZL_PORT_FAR_FAR_PORT p farPort) fDZL_PORT_STATUS_BOUNDARY p
            (b2n (farId != 0x1FFFF && domainOf farId != domainOf (selfId s)))
        (250000 < d ∨ good.length < 4 ∨ good.length < pget s fDZL_PORT_CFG_MIN_WIDTH p →
          exec (.trainingComplete p lanes farId farPort delay) s = .next (downPort t p)) ∧
        (d ≤ 250000 → 4 ≤ good.length → pget s fDZL_PORT_CFG_MIN_WIDTH p ≤ good.length → exec (.trainingComplete p lanes farId farPort delay) s =
          .next (pput (pput (updPort t p fun x => { x with seq := 0, fails := 0, echoes := [] })
            fDZL_PORT_STATUS_WIDTH p (if good.length = 5 then 4 else good.length)) fDZL_PORT_STATUS_STATE p 2))) ∧
      (∀ lanes, portState s p = 3 →
        let good := goodLanes s p lanes
        let w := if good.length = 5 then 4 else good.length
        let t := pput s fDZL_PORT_STATUS_LANES_GOOD p (laneMask good)
        let unit := p * 8 + (lowestBit (getPort s p).badLanes 0 8).getD 0
        let u := pput (pput (updPort t p fun x => { x with fails := 0, echoes := [] }) fDZL_PORT_STATUS_WIDTH p w)
          fDZL_PORT_STATUS_STATE p 2
        (good.length < 4 ∨ good.length < pget s fDZL_PORT_CFG_MIN_WIDTH p → exec (.retrainComplete p lanes) s = .next (failPort t p)) ∧
        (4 ≤ good.length → pget s fDZL_PORT_CFG_MIN_WIDTH p ≤ good.length →
          let v := errRegion u (p / 4) (if w < pget s fDZL_PORT_STATUS_WIDTH p then errRecord u 5 2 0x0E unit 5 3 w
            else errRecord u 5 2 0x20 unit 5 0 (pget u fDZL_PORT_STATUS_RETRAINS p))
          exec (.retrainComplete p lanes) s = .next (pumpAll (resendAll v p) p)))) ∧
    (portState s p = 1 → exec (.trainingTimeout p) s = .next (downPort s p)) ∧
    (portState s p ≠ 1 → exec (.trainingTimeout p) s = .next s) ∧
    (∀ rt ta, let t := updPort (putFlit s p (getPort s p).seq (echoFlit s)) p fun x => { x with echoes := x.echoes ++ [rt - ta] }
      let last := if portState s p = 1 then 255 else 15
      (portState s p = 1 ∨ portState s p = 3 → (getPort s p).echoes.length ≠ last → exec (.echo p rt ta) s = .next t) ∧
      (portState s p = 1 ∨ portState s p = 3 → (getPort s p).echoes.length = last → exec (.echo p rt ta) s =
        .next (pput t fDZL_PORT_DELAY_DELAY_PS p (min (echoDelay (getPort t p)) (2 ^ 20 - 1)))) ∧
      (portState s p ≠ 1 → portState s p ≠ 3 → exec (.echo p rt ta) s = .next s)) ∧
    (∀ ack,
      (∀ a b f, (getPort s p).replay = a ++ (ack, f) :: b → (∀ e ∈ a, e.1 ≠ ack) →
        let t := updPort s p fun x => { x with replay := b }
        exec (.idle p ack) s = .next (pumpAll t p) ∧
        (portUp s p = true → exec (.nak p ack) s =
          .next (pumpAll (b.foldl (fun s e => putFlit s p e.1 e.2) (pbump t fDZL_PORT_ERR_RETRIES p 1)) p))) ∧
      ((∀ e ∈ (getPort s p).replay, e.1 ≠ ack) → exec (.idle p ack) s = .next (pumpAll s p) ∧
        (portUp s p = true → exec (.nak p ack) s = .next (pumpAll
          ((getPort s p).replay.foldl (fun s e => putFlit s p e.1 e.2) (pbump s fDZL_PORT_ERR_RETRIES p 1)) p))) ∧
      (portUp s p = false → exec (.nak p ack) s = .next s)) ∧
    (∀ good, (portUp s p = true → exec (.flitCrcFailure ⟨p, good⟩) s =
        .next (emit s (.flit p (flitBytes (getPort s p).seq good true idleFlit)))) ∧
      (portUp s p = false → exec (.flitCrcFailure ⟨p, good⟩) s = .next s)) ∧
    ∀ (r : Nat) (f : Flit),
      let tell := fun (reason : Nat) => sendControl s f.src 5 (noRouteRec s f.src f.dst f.seg reason)
      (f.dst = selfId s ∨ regionAlive s r = false ∨ f.ftype = 0 ∨ 4 ≤ f.ftype → exec (.forward r f) s = .next s) ∧
      (f.dst ≠ selfId s → regionAlive s r = true → 1 ≤ f.ftype → f.ftype ≤ 3 →
        (63 ≤ f.hops → exec (.forward r f) s = .next (if f.ftype = 2 then s else tell 1)) ∧
        (f.hops < 63 → forwardPort s r f = none → exec (.forward r f) s = .next (if f.ftype = 2 then s else tell 0)) ∧
        ∀ q, f.hops < 63 → forwardPort s r f = some q →
          exec (.forward r f) s = .next (portSend (notePath s f q) q 0 [{ f with hops := f.hops + 1 }]))

/-- LAP MARKERS AND GRANDMASTERS (R44, R45, R467 to R470, R575, R592). A marker counts on a port that is UP with MARKER_OK, from the own
domain; another period is reported and does nothing else. A part that waits for lap service keeps the first as candidate and enters with
the one a lap later on the same port; in service a marker within 1 microsecond with the lap expected is taken and ends holdover (log entry
52); a lap whose only markers came from depth 20 is reported at the next mark (R469); a grandmaster that hears a lower (rank, ID) pair
stands down, and one that comes back and hears another follows it. A backup with a connected lap-reference input (log entry 105) takes
over once holdover has lasted 2 + RANK laps. A lap-reference edge starts a grandmaster that waits, and within 1 microsecond moves the next
mark by at most 10 ns; two laps without one are holdover, reported once. That a command out of its place does nothing is the model's
choice (log entry 7). -/
def Obligations.MarkersAndGrandmasters : Prop :=
  (∀ (s : State) (p : Nat) (m : Marker),
    (portUp s p = false ∨ pget s fDZL_PORT_CFG_MARKER_OK p = 0 → exec (.marker p m) s = .next s) ∧
    (portUp s p = true → pget s fDZL_PORT_CFG_MARKER_OK p ≠ 0 →
      let t := s
      let c : MarkCand := ⟨p, m.lap, m.depth, m.gmId, m.gmRank, m.arrivalPs - (pget t fDZL_PORT_DELAY_DELAY_PS p : Nat) - (m.residencePs : Nat)⟩
      (domainOf m.gmId ≠ domainOf (selfId t) → exec (.marker p m) s = .next t) ∧
      (domainOf m.gmId = domainOf (selfId t) → m.periodUs ≠ periodUs t →
        (fget t fPART_LAP_STATUS_PERIOD_MISMATCH 0 0 = 1 → exec (.marker p m) s = .next t) ∧
        (fget t fPART_LAP_STATUS_PERIOD_MISMATCH 0 0 ≠ 1 →
          exec (.marker p m) s = .next (raiseTimebase (fput t fPART_LAP_STATUS_PERIOD_MISMATCH 0 0 1)))) ∧
      (domainOf m.gmId = domainOf (selfId t) → m.periodUs = periodUs t → inService t = false →
        (fget t fPART_BOOT_CTRL_SERVICE 0 0 ≠ 1 → exec (.marker p m) s = .next t) ∧
        (fget t fPART_BOOT_CTRL_SERVICE 0 0 = 1 →
          let follows := t.link.stoodDown || isMaster t
          (t.link.cand = none → exec (.marker p m) s = .next { t with link := { t.link with cand := some c, stoodDown := follows } }) ∧
          ∀ a, t.link.cand = some a → a.port = p → m.lap = a.lap + 1 → (c.markPs - a.markPs).natAbs ≤ 1000000 → m.depth < 20 →
            exec (.marker p m) s = .next (enterService { t with link := { t.link with
              cand := none, upstream := some p, depth := m.depth + 1, gm := some (m.gmId, m.gmRank), marks := [], activeGm := false,
              stoodDown := follows } } m.lap))) ∧
      (domainOf m.gmId = domainOf (selfId t) → m.periodUs = periodUs t → inService t = true →
        let expected := if m.arrivalPs < 0 then t.lap.num + 1 else t.lap.num
        (1000000 < m.arrivalPs.natAbs ∨ m.lap ≠ expected → exec (.marker p m) s = .next t) ∧
        (m.arrivalPs.natAbs ≤ 1000000 → m.lap = expected →
          (20 ≤ m.depth →
            (t.link.activeGm = true → exec (.marker p m) s = .next t) ∧
            (t.link.activeGm = false → exec (.marker p m) s = .next { t with link := { t.link with deep := true } })) ∧
          (m.depth < 20 → t.link.activeGm = false → ∃ u, exec (.marker p m) s = .next u ∧ u.lap = { t.lap with holdover := 0 } ∧
            u.link.marks = t.link.marks.filter (fun x => x.port != p) ++ [c] ∧
            u.link.markAdjust = (if t.link.upstream = some p ∨ t.link.upstream = none then c.markPs else t.link.markAdjust) ∧
            u = { t with lap := u.lap, link := { t.link with marks := u.link.marks, markAdjust := u.link.markAdjust } }) ∧
          (m.depth < 20 → t.link.activeGm = true → m.gmId = selfId t → exec (.marker p m) s = .next t) ∧
          (∀ id rank, m.depth < 20 → t.link.activeGm = true → m.gmId ≠ selfId t → t.link.gm = some (id, rank) →
            (m.gmRank < rank ∨ m.gmRank = rank ∧ m.gmId < id → ∃ u, exec (.marker p m) s = .next u ∧ u.link.activeGm = false ∧
              u.link.gm = some (m.gmId, m.gmRank) ∧ u.link.upstream = some p ∧ u.link.depth = m.depth + 1 ∧ u.lap.holdover = 0) ∧
            (¬ (m.gmRank < rank ∨ m.gmRank = rank ∧ m.gmId < id) → exec (.marker p m) s = .next t)))))) ∧
  ∀ (s : State),
    (s.link.marks = [] → s.link.deep = true → chooseUpstream s = (let t := { s with link := { s.link with marks := [], deep := false } };
      if fget s fPART_LAP_BACKUP_DEPTH_EXCEEDED 0 0 = 1 then t else raiseTimebase (fput t fPART_LAP_BACKUP_DEPTH_EXCEEDED 0 0 1))) ∧
    (∀ m, s.link.marks = [m] → (chooseUpstream s).link.upstream = some m.port ∧ (chooseUpstream s).link.depth = m.depth + 1) ∧
    (let rank := fget s fPART_LAP_BACKUP_RANK 0 0
      let due := inService s = true ∧ s.link.activeGm = false ∧ s.pins.lapRef = true ∧ rank ≠ 0 ∧ 2 + rank ≤ s.lap.holdover ∧ s.link.marks = []
      (due → exec .grandmasterTakeover s = .next { s with lap := { s.lap with holdover := 0 }, link := { s.link with
        activeGm := true, stoodDown := false, gm := some (selfId s, rank), depth := 0, upstream := none } }) ∧
      (¬ due → exec .grandmasterTakeover s = .next s)) ∧
    (∀ o, isMaster s = false → exec (.lapRefEdge o) s = .next { s with pins := { s.pins with lapRef := true } }) ∧
    (∀ o, isMaster s = true →
      let seen := { s.pins with lapRef := true }
      (inService s = false → fget s fPART_BOOT_CTRL_SERVICE 0 0 = 1 → exec (.lapRefEdge o) s = .next (enterService { s with pins := seen, link := { s.link with
        activeGm := true, gm := some (selfId s, 0), depth := 0, upstream := none, marks := [], cand := none,
        edgeTaken := true, edgeMisses := 0, gmHoldover := false, markAdjust := 0 } } (bootLap s))) ∧
      (inService s = true → s.link.activeGm = true → o.natAbs ≤ 1000000 → ∃ t, exec (.lapRefEdge o) s = .next t ∧
        t = { s with pins := seen, link := { s.link with edgeTaken := true, edgeMisses := 0, gmHoldover := false, markAdjust := t.link.markAdjust } } ∧
        (o.natAbs ≤ 10000 → t.link.markAdjust = o) ∧ (10000 < o → t.link.markAdjust = 10000) ∧ (o < -10000 → t.link.markAdjust = -10000)) ∧
      (inService s = true → s.link.activeGm = false ∨ 1000000 < o.natAbs → exec (.lapRefEdge o) s = .next { s with pins := seen })) ∧
    (let held := isMaster s = true ∧ inService s = true ∧ s.link.activeGm = true ∧ 2 ≤ s.link.edgeMisses ∧ s.link.gmHoldover = false;
      (held → exec .lapRefHoldover s = .next (raiseTimebase { s with link := { s.link with gmHoldover := true } })) ∧
      (¬ held → exec .lapRefHoldover s = .next s))

/-! ## Faults, containment, pins -/

/-- LIVENESS AND DEADBOLTS (R24, R515, R27, R40, R98, R290, R499, R502, R503, R505, R519, R522, R590). A unit that is watched is forgiven
by an answer and fails at the second miss in a row; a failed core, block, engine, region or control core is reported and fenced (log entry
55); an answer shows a block's failed check, which deadbolts it (log entry 116). A self-test returns a quarantined core or deadbolts it. A
deadbolt command for a unit that is absent or already cut is rejected; else the unit is cut, and its cut completes. A region reset
deadbolts its region first and clears cores, blocks, tumblers and lap-local pages, keeping the flags of what is deadbolted; the region
stays deadbolted when it completes, until a rollback made since then. A queue pops its head. A bridge that fails or is disabled is out of
service, and is brought back by an enable only when it was disabled. Sensors and pins are kept; 115 degrees trips the part. That a command
out of its place does nothing is the model's choice (log entry 7), and so are which region a lost bridge cuts off (log entry 57), the
states of a flash port (log entry 101) and that WRITE_REJECTED of the bridges is one bit (log entry 117); what a region reset keeps and
clears is an inference (log entry 56). -/
def Obligations.FaultsAndPins : Prop :=
  (∀ (s : State) (u : PolledUnit),
    let k := pollKey u
    let polls := fun (n : Nat) => updPart s fun p => { p with missedPolls := tabSet 0 p.missedPolls k n }
    let beatsAt := fun (n : Nat) => updPart s fun p => { p with missedBeats := tabSet 0 p.missedBeats k n }
    (∀ a, watched s u = false → exec (.livenessPoll u a) s = .next s) ∧
    (watched s u = true →
      let t := updPart s fun p => { p with missedPolls := tabSet 0 p.missedPolls k 0, missedBeats := tabSet 0 p.missedBeats k 0 }
      ((∀ b, u = .block b → failedChecks s b = []) → exec (.livenessPoll u true) s = .next t) ∧
      (∀ b n rest, u = .block b → failedChecks s b = n :: rest → exec (.livenessPoll u true) s =
        .next (fenceBlock (errRegion t (b / 8) (errRecord t 1 2 0x05 b 1 2 (Config.subUnitCode n))) byRegion b))) ∧
    (watched s u = true → beats u = false →
      (tabGet 0 s.part.missedPolls k = 0 → exec (.livenessPoll u false) s = .next (polls 1)) ∧
      (1 ≤ tabGet 0 s.part.missedPolls k → exec (.livenessPoll u false) s = .next (noResponse (polls 0) u))) ∧
    (watched s u = true → beats u = true →
      (tabGet 0 s.part.missedBeats k = 0 → exec (.livenessPoll u false) s = .next (beatsAt 1)) ∧
      (1 ≤ tabGet 0 s.part.missedBeats k → exec (.livenessPoll u false) s = .next (noResponse (beatsAt 0) u)) ∧
      (inService s = true → exec (.heartbeatMiss u) s = exec (.livenessPoll u false) s)) ∧
    (beats u = false ∨ watched s u = false ∨ inService s = false → exec (.heartbeatMiss u) s = .next s)) ∧
  (∀ (s : State) (c : Nat),
    noResponse s (.core c) = fence (errBlock s (c / 8) (errRecord s 0 1 0x03 c 0 2 (getCore s c).seq.pc)) byBlock 0 c ∧
    noResponse s (.block c) = fenceBlock (errRegion s (c / 8) (errRecord s 1 2 0x04 c 1 2 0)) byRegion c ∧
    (isCut s 2 c = false → noResponse s (.region c) = errPart (elect (fence s byPart 2 c)) (errRecord (elect (fence s byPart 2 c)) 2 3 0x12 c 2 2 0)) ∧
    ((getCore s c).quarantined = true → isCut s 0 c = false → corePresent s c = true →
      exec (.selfTestComplete c none) s = .next (updCore s c fun x => { x with quarantined := false }) ∧
      ∀ k, exec (.selfTestComplete c (some k)) s = .next (fence (errBlock s (c / 8) (errRecord s 0 1 0x02 c 0 2 k)) byBlock 0 c)) ∧
    (∀ f, (getCore s c).quarantined = false ∨ isCut s 0 c = true ∨ corePresent s c = false → exec (.selfTestComplete c f) s = .next s)) ∧
  (∀ (s : State) (v : Word),
    let kind := v.toNat % 16
    let unit := v.toNat / 16 % 4096
    (unitPresent s kind unit = false ∨ isCut s kind unit = true ∨ regionAlive s (kindRegion kind unit) = false →
      exec (.deadboltCmd v) s = .next (fput s fPART_DEADBOLT_STATUS_REJECTED 0 0 1)) ∧
    (unitPresent s kind unit = true → isCut s kind unit = false → regionAlive s (kindRegion kind unit) = true →
      exec (.deadboltCmd v) s = .next (deadboltUnit s byPart kind unit) ∧
      (∃ later, (deadboltUnit s byPart kind unit).part.cutUnits = s.part.cutUnits ++ (kind, unit) :: later) ∧
      (kind = 0 → (getCore (deadboltUnit s byPart kind unit) unit).deadbolted = true ∧
        ∀ k ∈ (deadboltUnit s byPart kind unit).lap.cur, k.unit = unit → k.outcome ≠ none)) ∧
    (s.part.cutUnits = [] → exec .deadboltCutComplete s = .next s) ∧
    (∀ e rest, s.part.cutUnits = e :: rest → exec .deadboltCutComplete s =
      .next (fput (updPart s fun p => { p with cutUnits := rest }) fPART_DEADBOLT_STATUS_DONE 0 0 1)) ∧
    (v.getLsbD 3 = false ∨ regionPresent s (v.toNat % 8) = false ∨ (getRegion s (v.toNat % 8)).resetting = true →
      exec (.partRegionReset v) s = .next s) ∧
    (∀ r, r = v.toNat % 8 → v.getLsbD 3 = true → regionPresent s r = true → (getRegion s r).resetting = false → ∃ t, exec (.partRegionReset v) s = .next t ∧
      t = resetRegion (if isCut s 2 r then s else elect (fence s byPart 2 r)) r ∧ (getRegion t r).resetting = true ∧ (getRegion t r).llWritten = [] ∧
      (∀ n, { tumGet t ⟨true, r, n⟩ with sigs := [] } = tumReset) ∧ (getRegion t r).dma = [] ∧ (getRegion t r).rolledBack = false ∧
      (∀ c, c < 512 → c / 64 = r → (getCore t c).seq = seqReset ∧ (getCore t c).store = [] ∧ (getCore t c).task = none) ∧
      ∀ b, b / 8 = r → (getBlock t b).bs = [] ∧ (getBlock t b).sb = [])) ∧
  (∀ (s : State) (r : Nat) (ok : Bool),
    ((getRegion s r).resetting = true → exec (.regionResetComplete r ok) s =
      .next (updRegion s r fun x => { x with resetting := false, builtInPassed := ok, readmit := ok })) ∧
    ((getRegion s r).resetting = false → exec (.regionResetComplete r ok) s = .next s)) ∧
  (∀ (s : State) (q : QueueId),
    ((queueOf s q).recs = [] → exec (.errqPop q) s = .next s) ∧
    (∀ x rest, (queueOf s q).recs = x :: rest →
      (match q with | .blk b => blockAlive s b | .rgn r => regionAlive s r | .part => true) = true → ∃ t, exec (.errqPop q) s = .next t ∧
        queueOf t q = { queueOf s q with recs := rest, handling := !rest.isEmpty } ∧ (∀ p, p ≠ q → queueOf t p = queueOf s p) ∧
        t = { s with blocks := t.blocks, regions := t.regions, part := t.part })) ∧
  (∀ (s : State) (b : Nat),
    (12 ≤ b ∨ bridgeState s b = 1 ∨ bridgeState s b = 3 → exec (.bridgeFailed b) s = .next s) ∧
    (b < 12 → bridgeState s b ≠ 1 → bridgeState s b ≠ 3 →
      let t := fbump s fPART_BRIDGE_STATUS_FAILURES 0 b 1
      exec (.bridgeFailed b) s = .next (dropBridge (errPart t (errRecord t 2 3 0x10 b 7 6 0)) b 1)) ∧
    (∀ v : Word, fget s fPART_BRIDGE_IDX_BRIDGE 0 0 = b → b < 12 →
      let t := fput s fPART_BRIDGE_CFG_ENABLE 0 b (b2n (v.getLsbD 0))
      (v.getLsbD 0 = true → bridgeState s b = 1 ∨ bridgeState s b = 3 →
        exec (.bridgeEnable v) s = .next (fput s fPART_BRIDGE_STATUS_WRITE_REJECTED 0 0 1)) ∧
      (v.getLsbD 0 = true → bridgeState s b = 0 → exec (.bridgeEnable v) s = .next t) ∧
      (v.getLsbD 0 = true → bridgeState s b = 2 → exec (.bridgeEnable v) s =
        .next (fput (fput t fPART_BRIDGE_STATUS_STATE 0 b 0) fPART_BRIDGE_STATUS_SERVICE_UP 0 b 1)) ∧
      (v.getLsbD 0 = false → bridgeState s b = 0 → exec (.bridgeEnable v) s = .next (dropBridge t b 2)) ∧
      (v.getLsbD 0 = false → bridgeState s b ≠ 0 → exec (.bridgeEnable v) s = .next t)) ∧
    (∀ st, b < 12 → st = 1 ∨ st = 2 → (∀ r < nRegions s, regionAlive s r = true → (bridgeEnds b).1 = r ∨ (bridgeEnds b).2 = r →
        ∃ c < 12, c ≠ b ∧ bridgeState s c = 0 ∧ ((bridgeEnds c).1 = r ∧ regionAlive s (bridgeEnds c).2 = true ∨
          (bridgeEnds c).2 = r ∧ regionAlive s (bridgeEnds c).1 = true)) →
      dropBridge s b st = fput (fput s fPART_BRIDGE_STATUS_STATE 0 b st) fPART_BRIDGE_STATUS_SERVICE_UP 0 b 0)) ∧
  ∀ (s : State),
    (∀ r i d, regionPresent s r = false ∨ 12 ≤ i → exec (.sensorSample r i d) s = .next s) ∧
    (∀ r i d, regionPresent s r = true → i < 12 →
      let t := updRegion s r fun x => { x with sensors := tabSet 0 x.sensors i d }
      (d < 115 → exec (.sensorSample r i d) s = .next t) ∧
      (115 ≤ d → exec (.sensorSample r i d) s =
        .next { t with pins := { t.pins with thermtripN := false }, part := { t.part with thermTrip := true } })) ∧
    (∀ high, exec (.shedNChange high) s = .next { s with pins := { s.pins with shedN := high } }) ∧
    (∀ level, level < 4 → exec (.paceReqChange level) s = .next { s with pins := { s.pins with paceReq := level } }) ∧
    (∀ width rate, exec (.flashPortReady 0 width rate) s = .next (fput (fput (fput s fPART_FLASH_STATUS_STATE0 0 0 3)
      fPART_FLASH_STATUS_WIDTH0 0 0 width) fPART_FLASH_STATUS_RATE0 0 0 rate)) ∧
    ∀ width rate, exec (.flashPortReady 1 width rate) s = .next (fput (fput (fput s fPART_FLASH_STATUS_STATE1 0 0 3)
      fPART_FLASH_STATUS_WIDTH1 0 0 width) fPART_FLASH_STATUS_RATE1 0 0 rate)

/-! ## Snapshots and the recorder -/

/-- SNAPSHOTS (R525 to R527, R530, R533, R536, R537, R545). A request is LATE at or before the current lap; it is refused, with REFUSED
alone, while another runs, where the partner is the part itself, for a manifest that does not read or names a block not owned; else it
waits for its lap with the slot that does not hold the newest sealed copy; ownership is that of its lap, and whether the driver still holds an
older copy in that slot is a free value each time it is looked at (R532). RESTORE is refused while a graph is open; else it asks its
partner for the header of the slot. PUSH of a slot that is not sealed fails, and so does that of lost data (log entry 103); a page of a
sealed one goes to the block that holds it now. A drain completes with the copy in flash, or fails, as it does where a port does not reach
the pages. A stream list loads where no graph is open. THE RECORDER (R542 to R544): a trigger while RECORDING leaves POST_LAPS laps to
record, and is counted else; a freeze makes the image and its length; EXPORT writes it to the host buffer; RELEASE drops the window;
IMPORT is only for a part set to bench and out of lap service. A write of the driver's is recorded first (R538). The model's choices: a HELD read of
a restore (log entry 132), the layouts of stream lists and of the base (log entries 15 and 18), that a write without its bit does nothing (log
entry 7), and the places of a segment and of a record of the image (log entry 134). -/
def Obligations.SnapshotsAndRecorder : Prop :=
  (∀ (s : State) (v : Word),
    let q := driverWrite s 0x100910 v.toNat
    let low := v.toNat % 65536
    let lap := resolveLap s.lap.num low
    let slot := if s.snap.newest = some 0 then 1 else 0
    let refused := fun (t : State) => fput t fPART_SNAP_STATUS_REFUSED 0 0 1
    (v.getLsbD 16 = false → exec (.snapshotRequest v) s = .next q) ∧
    (v.getLsbD 16 = true → lap ≤ s.lap.num → exec (.snapshotRequest v) s = .next (fput q fPART_SNAP_STATUS_LATE 0 0 1)) ∧
    (v.getLsbD 16 = true → s.lap.num < lap →
      (snapState s ≠ 0 ∨ snapPartner s = selfId s → exec (.snapshotRequest v) s = .next (refused q)) ∧
      (snapState s = 0 → snapPartner s ≠ selfId s →
        let t := fetchManifest q
        let d := drawFree t
        (readManifest q = none → exec (.snapshotRequest v) s = .next (refused t)) ∧
        ∀ h es, readManifest q = some (h, es) →
          let begun := fun (u : State) => fput { u with snap := { u.snap with
            lap := lap, seq := s.snap.seq + 1, slot := slot, runStep := nbits h 32 32, manifest := es, digests := [], next := 0, early := [],
            total := (manifestPages (ownersIn u lap) es).length, pages := [], saved := [], head := 0, lastLap := none, sealing := false } }
            fPART_SNAP_STATUS_STATE 0 0 1
          (manifestOwned (ownersIn q lap) es = false → exec (.snapshotRequest v) s = .next (refused t)) ∧
          (manifestOwned (ownersIn q lap) es = true →
            (tabGet 0 s.snap.slotSeq slot = 0 → exec (.snapshotRequest v) s = .next (begun t)) ∧
            (tabGet 0 s.snap.slotSeq slot ≠ 0 → d.1 % 2 = 1 → exec (.snapshotRequest v) s = .next (refused d.2)) ∧
            (tabGet 0 s.snap.slotSeq slot ≠ 0 → d.1 % 2 ≠ 1 → exec (.snapshotRequest v) s = .next (begun d.2))))) ∧
    (v.getLsbD 17 = false → exec (.restore v) s = .next q) ∧
    (v.getLsbD 17 = true →
      (snapState s ≠ 0 ∨ s.graphs ≠ [] ∨ snapPartner s = selfId s → exec (.restore v) s = .next (refused q)) ∧
      (snapState s = 0 → s.graphs = [] → snapPartner s ≠ selfId s →
        let t := fput { q with snap := { q.snap with
          slot := v.toNat / 2 ^ 18 % 2, manifest := [], digests := [], next := 0, total := 0, sealing := false, lastLap := none } }
          fPART_SNAP_STATUS_STATE 0 0 3
        let table := fget t fPART_SNAP_CFG_RELAY_TABLE 0 0
        let x := slotOffset t table (v.toNat / 2 ^ 18 % 2) 0
        (resolveOwner t table x = none → exec (.restore v) s = .next (snapFail t 1 s.snap.seq)) ∧
        ∀ o u, resolveOwner t table x = some o → sendSegment t (managerRegion t) 3 1 0 { blankSeg t o.part with
            held := true, tableId := table, offset := x, gen := o.gen, replyAddr := 0, readLen := 65536 } none none = some u →
          exec (.restore v) s = .next { u with snap := { u.snap with next := 0 } }))) ∧
  (∀ (s0 : State) (v : Word),
    let s := driverWrite s0 0x100A0C v.toNat
    (v.getLsbD 0 = false → exec (.push v) s0 = .next s) ∧
    (v.getLsbD 0 = true →
      (s.snap.hosted = none → exec (.push v) s0 = .next (snapFail s 2 0)) ∧
      (∀ h, slotHeader s (v.toNat / 2 % 2) = some h → slotState s (v.toNat / 2 % 2) ≠ 2 → exec (.push v) s0 = .next (snapFail s 2 (nbits h 96 32))) ∧
      ∀ t h o b, s.snap.hosted = some t → slotHeader s (v.toNat / 2 % 2) = some h → slotState s (v.toNat / 2 % 2) = 2 → nbits h 224 16 = 1 →
        resolveOwner s t (slotOffset s t (v.toNat / 2 % 2) 0) = some o →
        let entry := leNat (((readCommitted s o.region (o.off / 65536) 0 65536).drop 512).take 16)
        manifestBlocks s [entry] = [b] → b.2.2.2 = 1 → nbits entry 48 4 ≠ 4 →
        let r := checkPages s (hostedPages s t (v.toNat / 2 % 2) 1)
        (r.2 = true → exec (.push v) s0 = .next (snapFail r.1 2 (nbits h 96 32))) ∧
        ∀ q, r.2 = false → resolveOwner r.1 t (slotOffset r.1 t (v.toNat / 2 % 2) 1) = some q →
          let u := pushPage r.1 (nbits h 96 32) (readCommitted r.1 q.region (q.off / 65536) 0 65536) b.2.2.1 b.2.1 0 b.1 (getOwner r.1 b.1).log2
          (u.2 = true → exec (.push v) s0 = .next u.1) ∧ (u.2 = false → exec (.push v) s0 = .next (snapFail u.1 2 (nbits h 96 32))))) ∧
  (∀ (s0 : State) (v : Word),
    let s := driverWrite s0 0x100928 v.toNat
    let n := v.toNat % 2 ^ 17
    let a := fget s fPART_SNAP_STREAMS_HI_BASE_HI 0 0 * 2 ^ 32 + fget s fPART_SNAP_STREAMS_LO_BASE_LO 0 0 * 64
    (n = 0 ∨ 65536 < n → exec (.streamsLoad v) s0 = .next (fput s fPART_SNAP_STATUS_WRITE_REJECTED 0 0 1)) ∧
    (1 ≤ n → n ≤ 65536 →
      (v.getLsbD 17 = false ∨ s.graphs ≠ [] → exec (.streamsLoad v) s0 = .next s) ∧
      (v.getLsbD 17 = true → s.graphs = [] →
        (hostOk s a (48 * n) = false → exec (.streamsLoad v) s0 = .next (fput s fPART_SNAP_STATUS_FAILED 0 0 1)) ∧
        (n = 1 → hostOk s a 48 = true →
          let b := hostRead s a 48
          let t := hostFetch s a 48
          let k := leNat (b.take 2)
          exec (.streamsLoad v) s0 = .next (if regionAlive t (k / 8192) then (takeStream t 1 k (leNat (b.drop 16))).1 else t))))) ∧
  (∀ (s : State) (slot : Nat) (ok : Bool),
    (s.snap.drain ≠ some slot → exec (.flashDrainComplete slot ok) s = .next s) ∧
    (s.snap.drain = some slot →
      let t := { s with snap := { s.snap with drain := none } }
      let h := (slotHeader s slot).getD 0
      let q := match s.snap.hosted with
        | some x => checkPages t (hostedPages t x slot (nbits h 256 32 + nbits h 288 32 / 2048))
        | none => (t, false)
      let failed := fun (u : State) => errPart (fput u fPART_RELAY_STATUS_FLASH 0 0 0)
        (errRecord (fput u fPART_RELAY_STATUS_FLASH 0 0 0) 0xC 3 0x21 0 8 0 (3 + nbits h 96 32 * 2 ^ 32))
      (ok = false ∨ drainReaches s slot = false → exec (.flashDrainComplete slot ok) s = .next (failed t)) ∧
      (ok = true → drainReaches s slot = true → q.2 = true → exec (.flashDrainComplete slot ok) s = .next (failed q.1)) ∧
      (ok = true → drainReaches s slot = true → q.2 = false → exec (.flashDrainComplete slot ok) s =
        .next (fput (writeImage q.1 (slotBytes q.1 slot h)) fPART_RELAY_STATUS_FLASH 0 0 2)))) ∧
  (∀ (s : State) (ps : List Bytes), tabGet [] (writeImage s ps).snap.images s.snap.nextImage = ps ∧
    (writeImage s ps).snap.nextImage = (s.snap.nextImage + 1) % Config.flashImages ∧
    ∀ k p, ps[k]? = some p → Output.flashPage (k % 2) s.snap.nextImage k p ∈ (writeImage s ps).out) ∧
  ∀ (s : State),
    let h := fget s fPART_TRK_IMG_HI_BASE_HI 0 0 * 2 ^ 32 + fget s fPART_TRK_IMG_LO_BASE_LO 0 0 * 4096
    let ctl := fun (v : Nat) => driverWrite s 0x100B04 v
    (trkState s = 1 → ∃ t, exec .trigger s = .next t ∧ trkState t = 2 ∧ t.trk = { (ctl 1).trk with
      triggerLap := s.lap.num, postLeft := fget s fPART_TRK_CFG_POST_LAPS 0 0 + 1 } ∧ t = { ctl 1 with flds := t.flds, trk := t.trk }) ∧
    (trkState s ≠ 1 → exec .trigger s = .next (fbump (ctl 1) fPART_TRK_STATUS_TRIGGERS 0 0 1)) ∧
    (trkState s ≠ 2 ∨ s.trk.postLeft ≠ 0 → exec .tracksideFreeze s = .next s) ∧
    (trkState s = 2 → s.trk.postLeft = 0 →
      let t := setTrkState s 3
      let img := trkImage t
      let k := fput { t with trk := { t.trk with image := img, gapNow := true } } fPART_TRK_STATUS_LAPS_KEPT 0 0 (s.trk.lastLap + 1 - s.trk.firstLap)
      let u := fput (fput k fPART_TRK_IMG_BYTES_LO_BYTES_LO 0 0 (img.length % 2 ^ 32)) fPART_TRK_IMG_BYTES_HI_BYTES_HI 0 0 (img.length / 2 ^ 32)
      exec .tracksideFreeze s = .next (errPart u (errRecord u 0xE 3 0x24 0 8 0 3))) ∧
    (trkState s ≠ 3 → exec .release s = .next (ctl 2) ∧ exec .exportImage s = .next (ctl 4)) ∧
    (trkState s = 3 →
      (∃ t, exec .release s = .next t ∧ trkState t = (if fget s fPART_TRK_CFG_ENABLE 0 0 = 1 then 1 else 0) ∧ t.trk.recs = [] ∧
        t.trk.journal = [] ∧ t.trk.firstLap = s.lap.num) ∧
      (hostOk s h s.trk.image.length = true → exec .exportImage s =
        .next (hostWrite (hostTouch (checkBase s) h s.trk.image.length) h s.trk.image)) ∧
      (hostOk s h s.trk.image.length = false → exec .exportImage s = .next s)) ∧
    (let q := ctl 8
     (fget s fPART_TRK_CFG_BENCH 0 0 = 0 ∨ inService s = true → exec .importImage s = .next q) ∧
     (fget s fPART_TRK_CFG_BENCH 0 0 ≠ 0 → inService s = false → hostOk q h 64 = false →
       exec .importImage s = .next (fput q fPART_TRK_STATUS_WRITE_REJECTED 0 0 1)) ∧
     (fget s fPART_TRK_CFG_BENCH 0 0 ≠ 0 → inService s = false → hostOk q h 64 = true →
       let hd := leNat (hostRead q h 64)
       let n := fun (i : Nat) => nbits hd (192 + 64 * i) 64
       let total := 64 + n 0 + n 1 + n 2 + n 3 + n 4
       let logs := parseLogs (n 0 / 64 + 1) (hostRead q (h + 64) (n 0)) []
       (hostOk q h total = false ∨ logLacks q logs = true → exec .importImage s = .next (fput q fPART_TRK_STATUS_WRITE_REJECTED 0 0 1)) ∧
       (hostOk q h total = true → logLacks q logs = false → exec .importImage s = .next (loadBase (n 4 / 16 + 1)
         (hostRead q (h + 64 + n 0 + n 1 + n 2 + n 3) (n 4)) (benchHost { q with trk := { q.trk with
           benchLog := logs, benchDigest := parseDigests (n 3 / 128 + 1) (hostRead q (h + 64 + n 0 + n 1 + n 2) (n 3)) []
           benchIn := parseInputs (n 1 / 32 + 1) (hostRead q (h + 64 + n 0) (n 1)) } } (nbits hd 0 48))))))

/-! ## Power, boot and the board -/

/-- RESETS AND BOOT (R566 to R568, R570, R571, R573, R574, R576, R581, R584, R589). POWER_GOOD rising, and PERST_N released, are a part reset: every
register, memory, table and queue of the part is as reset leaves it, but the fuses, the pins and what lies outside. A verified image is
measured and, with built-in test complete, its part elects a manager and asks the board for its lists; a ROM that fails, an absent flash
and two bad slots fail boot. Failing units are out of service, and a pseudo-channel that fails PHY training degrades its stack (R286).
LIST_DONE and LIST_TIMEOUT apply the lists and the configuration and reach READY, or fail boot where no region is left to take the manager
role; at READY the rollback floor is the image's if it asked for a burn (log entry 39), and the DeviceID key signs the alias certificate. A phase
past LISTS takes neither. The flash devices are held in reset until firmware starts, which is an inference (log entry 136); what FIRMWARE_VERIFIED
tries is the model's choice (log entry 38), and so is that a command out of its place does nothing (log entry 7). -/
def Obligations.ResetsAndBoot : Prop :=
  (∀ (s : State), ∀ c ∈ ([.powerGoodRise, .powerGoodFall, .perstN true, .perstN false] : List Instr),
    let rises := c = .powerGoodRise ∧ s.pins.powerGood = false
    let falls := c = .powerGoodFall ∧ s.pins.powerGood = true
    let perst := (c = .perstN true ∧ s.pins.perstN = false ∨ c = .perstN false ∧ s.pins.perstN = true) ∧ s.pins.powerGood = true
    (rises ∨ falls ∨ perst → ∃ t, exec c s = .next t ∧
      t = { State.reset with
        fuses := s.fuses, pins := t.pins, boot := t.boot, out := s.out, freeCtr := s.freeCtr + 1, pending := s.pending,
        host := { State.reset.host with mem := s.host.mem, unpinned := s.host.unpinned } } ∧
      t.boot = { bootReset with flash := s.boot.flash, flashOk := s.boot.flashOk, nonce := t.boot.nonce } ∧
      t.pins.powerGood = (!decide (c = .powerGoodFall)) ∧ t.pins.perstN = (if perst then decide (c = .perstN true) else s.pins.perstN) ∧
      t.pins.smbAlertN = true ∧ t.pins.flashPerst0N = false ∧ t.pins.flashPerst1N = false ∧ t.pins.thermtripN = (s.pins.thermtripN || decide (c = .powerGoodFall))) ∧
    (¬ rises → ¬ falls → ¬ perst →
      exec c s = .next { s with pins := { s.pins with perstN := if c = .perstN true then true else if c = .perstN false then false else s.pins.perstN } })) ∧
  (∀ (s : State) (slotB romOk : Bool),
    let t := fput s fPART_BOOT_STATUS_PHASE 0 0 1
    (booting s = false ∨ s.boot.fwDone = true ∨ slotB ≠ s.boot.slotAFailed → exec (.firmwareVerified slotB romOk) s = .next s) ∧
    (booting s = true → s.boot.fwDone = false → slotB = s.boot.slotAFailed →
      (romOk = false → exec (.firmwareVerified slotB romOk) s = .next (bootFail t 5)) ∧
      (romOk = true → s.boot.flashOk = false → exec (.firmwareVerified slotB romOk) s = .next (bootFail t 1)) ∧
      (romOk = true → s.boot.flashOk = true → fwImage t slotB = none →
        let u := errPart t (errRecord t 0xD 3 0x23 0 8 0 0)
        exec (.firmwareVerified slotB romOk) s =
          .next (if slotB then bootFail u 2 else { u with boot := { u.boot with slotAFailed := true } })) ∧
      (∀ h, romOk = true → s.boot.flashOk = true → fwImage t slotB = some h → ∃ u, exec (.firmwareVerified slotB romOk) s = .next (startLists u) ∧
        u = { s with flds := u.flds, boot := u.boot } ∧ fget u fPART_BOOT_STATUS_PHASE 0 0 = 1 ∧ fget u fPART_BOOT_STATUS_SLOT 0 0 = b2n slotB ∧
        u.boot.fwDone = true ∧ u.boot.rollback = h.rollback ∧ u.boot.burn = h.burn ∧ u.boot.cfgFloor = h.cfgFloor ∧
        s.fuses.rollbackFloor ≤ h.rollback ∧
        tabGet 0 u.boot.meas 2 = (Config.shake256 (flashBytes s (slotBase slotB) (0x1000 + h.length))).toNat))) ∧
  (∀ (s : State),
    (s.boot.fwDone = false ∨ s.boot.bistDone = false → startLists s = s) ∧
    (s.boot.fwDone = true → s.boot.bistDone = true →
      (electable s = none → startLists s = bootFail s 3) ∧
      (electable s ≠ none → startLists s = notify (fput (elect { s with pins := { s.pins with
        flashPerst0N := true, flashPerst1N := true } }) fPART_BOOT_STATUS_PHASE 0 0 2) true 0)) ∧
    (s.part.manager = none → (elect s).part.manager = electable s) ∧
    (∀ reason, reason < 16 → fget (bootFail s reason) fPART_BOOT_STATUS_PHASE 0 0 = 15 ∧
      fget (bootFail s reason) fPART_BOOT_STATUS_FAIL_REASON 0 0 = reason)) ∧
  (∀ (s : State) (failed : List (Nat × Nat)) (regions : List Nat),
    (booting s = false ∨ s.boot.bistDone = true → exec (.builtInTestComplete failed regions) s = .next s) ∧
    (booting s = true → s.boot.bistDone = false → ∃ t, exec (.builtInTestComplete failed regions) s = .next (startLists t) ∧ t.boot.bistDone = true ∧
      fget t fPART_BOOT_STATUS_PHASE 0 0 = 1 ∧
      ((∀ e ∈ failed, e.1 < 528) → t = { s with flds := t.flds, cores := t.cores, regions := t.regions, boot := t.boot }) ∧
      (∀ u n, (u, n) ∈ failed → 528 ≤ u → u < 528 + 128 * nRegions s →
        stackDegraded t ((u - 528) / 128) ((u - 528) / 64 % 2 * 2 ^ 20) = true) ∧
      (∀ u n, (u, n) ∈ failed → u < 512 → n < 7 → nbit (oosUnits t u) n = true) ∧
      (∀ r, r < nRegions s → hasNat regions r = false → (getRegion t r).builtInPassed = true) ∧
      (∀ r, r < nRegions s → hasNat regions r = true → (getRegion t r).builtInPassed = (getRegion s r).builtInPassed ∧
        ∀ u, u < 512 → u / 64 = r → ∀ n < 7, nbit (oosUnits t u) n = true))) ∧
  ∀ (s : State) (tag : Nat),
    let on := bootPhase s = 2 ∧ s.part.thermTrip = false
    (¬ on → exec .listTimeout s = .next s) ∧
    (on → exec .listTimeout s = .next (finishBoot (fput s fPART_BOOT_STATUS_NO_BOARD_LISTS 0 0 1) [])) ∧
    (sideServed s = true →
      let t := sideInput s 8 tag []
      (on → exec (.listDone tag) s = .next (answer (finishBoot t t.side.lists) tag 0 [])) ∧
      (¬ on → exec (.listDone tag) s = .next (answer t tag 0 []))) ∧
    (∀ lists,
      let u := heldDeadbolts (fput (lists.foldl applyEntry s) fPART_BOOT_STATUS_PHASE 0 0 3)
      (u.part.manager = none → finishBoot s lists = bootFail u 3) ∧
      (u.part.manager ≠ none → finishBoot s lists = becomeReady (configure u) ∧ (configure u).fuses = s.fuses)) ∧
    (bootPhase s = 15 → becomeReady s = s) ∧
    (bootPhase s ≠ 15 → bootPhase (becomeReady s) = 4 ∧
      (let t := becomeReady s
       let body := Config.certBody (Config.aliasKey s.fuses.seed (getMeas t 1) (getMeas t 2) (getMeas t 5))
       t.boot.aliasCert = body ++ Config.deviceSign s.fuses.seed body) ∧
      (s.boot.burn = true → s.fuses.rollbackFloor < s.boot.rollback → (becomeReady s).fuses.rollbackFloor = s.boot.rollback) ∧
      (s.boot.burn = false ∨ s.boot.rollback ≤ s.fuses.rollbackFloor → (becomeReady s).fuses = s.fuses)) ∧
    (∀ w, nbits w 0 4 = 1 → regionPresent s (nbits w 4 3) = true →
      (nbits w 7 21 % 2 ^ 20 < parityFrame → frameState (applyEntry s w) (nbits w 4 3) (nbits w 7 21) = 4) ∧
      (parityFrame ≤ nbits w 7 21 % 2 ^ 20 → hasNat (getRegion (applyEntry s w) (nbits w 4 3)).spared (nbits w 7 21) = true)) ∧
    ∀ w, nbits w 0 4 = 2 → nbits w 16 4 = 0 → unitPresent s 0 (nbits w 4 12) = true → isCut s 0 (nbits w 4 12) = false →
      (getCore (applyEntry s w) (nbits w 4 12)).deadbolted = true

/-- THE SIDEBAND PORT (R444, R505, R519, R522, R542, R548, R554, R579, R580, R582 to R584). Held in reset, the part answers nothing; before LISTS
it answers an error completion to all but REG_READ. REG_READ answers up to 16 words, IND_READ as many of IND_DATA through the sideband
copy; ERRQ_READ the head record; DEADBOLT acts at once, or is held during LISTS; REGION_RESET and TRK_TRIGGER act; SYNC_DUMP starts a
dump or gives its next words; LIST_PUT keeps up to 7 entries; DEBUG_NONCE gives the nonce, which every unlock attempt replaces; a token
sets its level only where it is accepted, M5 takes it and the alias certificate is signed again (R579); the test port serves at level 2 alone (R589);
OWNER_ENROLL burns once. A message whose command byte is reserved is answered with an error completion. NOTIFY_ACK takes the oldest message off the
queue, and a resend sends every one that waits; a full queue grows by no error record (R582; that one which finds list entries alone is sent and not
kept is an inference, log entry 135). The layouts of the token (log entry 27) and of the measurements (log entry 43) are the model's choice; when the
port is served (log entry 46), and until when a token and an owner key are taken (log entry 44), are inferences. -/
def Obligations.SidebandCommands : Prop :=
  (∀ (s : State) (o n tag r target k u : Nat) (q : QueueId) (start : Bool) (es : List (BitVec 64)) (token : Bytes) (d : BitVec 256),
    let served := ([.errqRead q tag, .deadbolt k u tag, .regionReset r tag, .syncDump start tag, .trkTrigger tag, .listPut es tag, .listDone tag,
      .debugNonce tag, .debugUnlock token tag, .ownerEnroll d tag, .indRead r target o n tag] : List Instr)
    (∀ c ∈ .regRead o n tag :: served, partOn s = false → exec c s = .next s) ∧
    (∀ c ∈ served, partOn s = true → bootPhase s < 2 → exec c s = .next (answer s tag 1 [])) ∧
    (partOn s = true →
      (n = 0 ∨ 16 < n ∨ o % 4 ≠ 0 → exec (.regRead o n tag) s = .next (answer s tag 1 [])) ∧
      (1 ≤ n → n ≤ 16 → o % 4 = 0 → ∃ t ws, exec (.regRead o n tag) s = .next (answer t tag 0 ws) ∧ ws.length = n ∧
        (ws, t) = sideWords n o (sideInput s 1 tag (natLe 4 o ++ natLe 1 n)) ∧
        (n = 1 → ws = [(sideWord (sideInput s 1 tag (natLe 4 o ++ natLe 1 1)) o).1]))) ∧
    (sideServed s = true →
      (let t := sideInput s 2 tag (queueBytes q);
        ((queueOf t q).recs = [] → exec (.errqRead q tag) s = .next (answer t tag 0 [])) ∧
        (∀ x rest, (queueOf t q).recs = x :: rest → exec (.errqRead q tag) s = .next (answer t tag 0
          [nbits x 0 32, nbits x 32 32, nbits x 64 32, nbits x 96 32, nbits x 128 32, nbits x 160 32, nbits x 192 32, nbits x 224 32]))) ∧
      (let t := sideInput s 3 tag (natLe 1 k ++ natLe 2 u);
        (bootPhase t = 2 → exec (.deadbolt k u tag) s =
          .next (answer { t with boot := { t.boot with heldDead := t.boot.heldDead ++ [(k, u)] } } tag 0 [])) ∧
        (bootPhase t ≠ 2 → exec (.deadbolt k u tag) s = .next (answer (deadboltCmd t byBoard k u) tag 0 []))) ∧
      exec (.regionReset r tag) s = .next (answer (partRegionReset (sideInput s 4 tag (natLe 1 r)) byBoard r) tag 0 []) ∧
      exec (.trkTrigger tag) s = .next (answer (trkTrigger (sideInput s 6 tag [])) tag 0 []) ∧
      (let t := sideInput s 5 tag (natLe 1 (b2n start));
        (start = true → exec (.syncDump start tag) s = .next (answer (dumpStart t) tag 0 [])) ∧
        (start = false → t.dump.busy = false → exec (.syncDump start tag) s = .next (answer t tag 0 [])) ∧
        (∀ a b rest, start = false → t.dump.busy = true → t.dump.word = 0 → t.dump.todo = a :: b :: rest → exec (.syncDump start tag) s =
          .next (answer { t with dump := { t.dump with
            todo := rest, cur := 0, read := t.dump.read ++ [dumpEntry t a, dumpEntry t b], word := 0 } } tag 0
            (((List.range 8).map fun i => nbits (dumpEntry t a) (32 * i) 32) ++ (List.range 8).map fun i => nbits (dumpEntry t b) (32 * i) 32)))) ∧
      (let t := sideInput s 7 tag (es.flatMap fun e => natLe 8 e.toNat)
        let kept := { t with side := { t.side with lists := t.side.lists ++ es.map (·.toNat) } }
        (7 < es.length → exec (.listPut es tag) s = .next (answer t tag 1 [])) ∧
        (es.length ≤ 7 → bootPhase t = 2 → exec (.listPut es tag) s = .next (answer kept tag 0 [])) ∧
        (es.length ≤ 7 → bootPhase t ≠ 2 → exec (.listPut es tag) s = .next (answer { kept with boot := { kept.boot with
          meas := tabSet 0 kept.boot.meas 6 (Config.shake256 (kept.side.lists.flatMap (natLe 8))).toNat } } tag 0 []))) ∧
      (let t := sideInput s 0xA tag [];
        exec (.debugNonce tag) s = .next (answer t tag 0 [nbits t.boot.nonce 0 32, nbits t.boot.nonce 32 32, nbits t.boot.nonce 64 32,
          nbits t.boot.nonce 96 32])) ∧
      (let t := sideInput s 0xB tag token
        let renewed := { t with freeCtr := t.freeCtr + 1, boot := { t.boot with nonce := Config.freeNat t.freeCtr % 2 ^ 128 } }
        (tokenOk t token = false → exec (.debugUnlock token tag) s = .next (answer (securityEvent renewed 3) tag 1 [])) ∧
        (inService t = true ∨ fget t fPART_BOOT_CTRL_SERVICE 0 0 = 1 ∨ fget t fPART_SEC_CFG_DEBUG_ALLOW 0 0 = 0 ∨
          leNat ((token.drop 16).take 16) ≠ t.boot.nonce → tokenOk t token = false) ∧
        (tokenOk t token = true → ∃ v, exec (.debugUnlock token tag) s = .next (answer (securityEvent v 2) tag 0 []) ∧
          fget v fPART_BOOT_STATUS_DEBUG_LEVEL 0 0 = tokenLevel token ∧ v.boot.debugToken = token ∧ v.boot.nonce = renewed.boot.nonce ∧
          tabGet 0 v.boot.meas 5 = (Config.shake256 (natLe 1 (tokenLevel token) ++ natLe 32 (Config.shake256 token).toNat)).toNat ∧
          (let body := Config.certBody (Config.aliasKey t.fuses.seed (getMeas v 1) (getMeas v 2) (getMeas v 5))
           v.boot.aliasCert = body ++ Config.deviceSign t.fuses.seed body) ∧ (testPortServed v = true ↔ tokenLevel token = 2) ∧
          v = { renewed with flds := v.flds, boot := v.boot })) ∧
      (let t := sideInput s 0xC tag (natLe 32 d.toNat);
        (t.fuses.ownerDigest = none → inService t = false → fget t fPART_BOOT_CTRL_SERVICE 0 0 = 0 → exec (.ownerEnroll d tag) s =
          .next (answer (securityEvent { t with fuses := { t.fuses with ownerDigest := some d } } 4) tag 0 [])) ∧
        (t.fuses.ownerDigest ≠ none ∨ inService t = true ∨ fget t fPART_BOOT_CTRL_SERVICE 0 0 ≠ 0 →
          exec (.ownerEnroll d tag) s = .next (answer t tag 1 []))) ∧
      (let t := sideInput s 0xD tag (natLe 1 r ++ natLe 1 target ++ natLe 4 o ++ natLe 1 n)
        let ws := indWords r n (fput (fput (fput t fRGN_IND_ADDR_OFFSET r 2 o) fRGN_IND_ADDR_HOLD r 2 0) fRGN_IND_ADDR_TARGET r 2 target)
        (regionPresent s r = false ∨ n = 0 ∨ 16 < n → exec (.indRead r target o n tag) s = .next (answer t tag 1 [])) ∧
        (regionPresent s r = true → 1 ≤ n → n ≤ 16 → exec (.indRead r target o n tag) s = .next (answer ws.2 tag 0 ws.1) ∧ ws.1.length = n)))) ∧
  ∀ (s : State),
    (s.side.queue = [] → exec .notifyAck s = .next { s with pins := { s.pins with smbAlertN := true } }) ∧
    (∀ m rest, s.side.queue = m :: rest → exec .notifyAck s =
      .next { s with side := { s.side with queue := rest }, pins := { s.pins with smbAlertN := rest.isEmpty } }) ∧
    exec .notifyResend s = .next { s with
      out := (s.side.queue.map fun m => Output.notify s.side.eid m.seq (b2n m.entry) m.data).reverse ++ s.out } ∧
    (∀ eid, (partOn s = true → exec (.setEndpointId eid) s = .next (emit { s with side := { s.side with eid := eid % 256 } } (.mctp 1 (eid % 256)))) ∧
      (partOn s = false → exec (.setEndpointId eid) s = .next s)) ∧
    (∀ cmd tag ops, cmd = 0 ∨ cmd = 9 ∨ 0xE ≤ cmd → sideMessage s cmd tag ops = if partOn s then answer s tag 1 [] else s) ∧
    ∀ entry data,
      let m : Notify := ⟨s.side.seq, entry, data⟩
      let q := (notify s entry data).side.queue
      (s.side.queue.length < 4096 → q = s.side.queue ++ [m]) ∧
      (4096 ≤ s.side.queue.length → q = (s.side.queue ++ [m]).eraseP (fun x => !x.entry) ∧ (entry = false → q.length = s.side.queue.length))

/-- ATTESTATION (R26, R569, R576 to R578). A transport answers at READY while its bit in PART_SEC_CFG is set, DOE while the endpoint is
served, and else not at all. GET_VERSION offers 1.3 and starts a negotiation, which GET_CAPABILITIES and NEGOTIATE_ALGORITHMS carry on in
that order, the second with what the part selects; then the SHA3-256 digest of the chain and portions of it join the transcript, the chain
being that of slot 0 in the certificate store with the alias certificate behind it, and CHALLENGE and GET_MEASUREMENTS answer with the
alias key's signature over what was exchanged. Measurement blocks are M1 to M6. A request out of order, or for another slot, is answered
with ERROR. The other transport's exchange is left alone. The bodies that the spec gives no layout for are free values (log entry 47), and
the code numbers of version and algorithms are DMTF's, which is presumed (log entry 137). -/
def Obligations.Attestation : Prop :=
  ∀ (s : State) (x : Transport) (req : Bytes) (slot off len : Nat),
    let bit := match x with | .doe => fget s fPART_SEC_CFG_DOE_ATTEST 0 0 | .mctp => fget s fPART_SEC_CFG_MCTP_ATTEST 0 0
    let on := partOn s = true ∧ bootPhase s = 4 ∧ bit = 1 ∧ (x = .doe → endpointUp s = true)
    let y := getSpdm s x
    let error := emit s (.spdm 0x7F (Config.spdmBody 0x7F []))
    let tells := fun (c : Instr) (code : Nat) (body : Bytes) (z : SpdmSt) => ∃ t, exec c s = .next t ∧ t.out = .spdm code body :: s.out ∧
      getSpdm t x = z ∧ (∀ w, w ≠ x → getSpdm t w = getSpdm s w) ∧ t = { s with out := t.out, spdm := t.spdm }
    let sign := fun (b : Bytes) => Config.aliasSign s.fuses.seed (getMeas s 1) (getMeas s 2) (getMeas s 5) b
    let cert := natLe 2 off ++ natLe 2 len
    let version := Config.spdmBody 0x84 [] ++ natLe 2 0x1300
    let selected := Config.spdmBody 0xE3 req ++ (natLe 4 0 ++ natLe 4 8 ++ natLe 1 3 ++ natLe 2 Config.vendorId.toNat ++ natLe 2 1)
    let chain := derChain 0xE_0000 (flashBytes s 0x2_0000 0xE_0000) ++ s.boot.aliasCert
    let digests := Config.spdmBody 0x81 [] ++ natLe 32 (Config.sha3 chain).toNat
    let portion := Config.spdmBody 0x82 cert ++ (chain.drop off).take len
    let blocks := (List.range 6).flatMap fun i => natLe 1 (i + 1) ++ natLe 32 (getMeas s (i + 1)).toNat
    (¬ on → ∀ c ∈ ([.getVersion x, .getCapabilities x req, .negotiateAlgorithms x req, .getDigests x, .getCertificate x slot off len,
      .challenge x req, .getMeasurements x req] : List Instr), exec c s = .next s) ∧
    (on →
      tells (.getVersion x) 0x04 version ⟨1, version, [], []⟩ ∧
      (y.stage = 1 → tells (.getCapabilities x req) 0x61 (Config.spdmBody 0xE1 req) { y with stage := 2, vca := y.vca ++ req ++ Config.spdmBody 0xE1 req }) ∧
      (y.stage = 2 → tells (.negotiateAlgorithms x req) 0x63 selected { y with stage := 3, vca := y.vca ++ req ++ selected }) ∧
      (y.stage ≠ 1 → exec (.getCapabilities x req) s = .next error) ∧ (y.stage ≠ 2 → exec (.negotiateAlgorithms x req) s = .next error) ∧
      (y.stage = 3 →
        tells (.getDigests x) 0x01 digests { y with certs := y.certs ++ digests } ∧
        (slot = 0 → tells (.getCertificate x slot off len) 0x02 portion { y with certs := y.certs ++ cert ++ portion }) ∧
        (slot ≠ 0 → exec (.getCertificate x slot off len) s = .next error) ∧
        tells (.challenge x req) 0x03 (Config.spdmBody 0x83 req ++ sign (y.vca ++ y.certs ++ req ++ Config.spdmBody 0x83 req)) { y with certs := [] } ∧
        tells (.getMeasurements x req) 0x60 (blocks ++ sign (y.vca ++ (y.meas ++ req ++ blocks))) { y with meas := y.meas ++ req ++ blocks }) ∧
      (y.stage ≠ 3 → ∀ c ∈ ([.getDigests x, .getCertificate x slot off len, .challenge x req, .getMeasurements x req] : List Instr),
        exec c s = .next error))
end

