-- ==== Sys2Proof/Laws/Tab.lean ====
section
/-! SUPPORT. Laws of tables and byte memories: read after write, and that every write keeps the canonical form. -/

namespace Sys2Proof.Machine

variable {α : Type}

theorem tabGet_tabDel (d : α) (t : Tab α) (k j : Nat) : tabGet d (tabDel t k) j = if j = k then d else tabGet d t j := by
  induction t with
  | nil => simp [tabDel, tabGet]
  | cons e t ih =>
    obtain ⟨k', v'⟩ := e
    by_cases h : k' = k
    · subst h
      by_cases hj : k' = j
      · subst hj; simp [tabDel, ih]
      · simp [tabDel, tabGet, ih, hj]
    · by_cases hj : k' = j
      · subst hj; simp [tabDel, tabGet, h]
      · simp [tabDel, tabGet, h, hj, ih]

theorem tabGet_tabIns (d : α) (t : Tab α) (k j : Nat) (v : α) : tabGet d (tabIns t k v) j = if j = k then v else tabGet d t j := by
  induction t with
  | nil =>
    by_cases h : k = j
    · simp [tabIns, tabGet, h]
    · simp [tabIns, tabGet, h, Ne.symm h]
  | cons e t ih =>
    obtain ⟨k', v'⟩ := e
    by_cases h : k' < k
    · by_cases hj : k' = j
      · subst hj; simp [tabIns, tabGet, h, Nat.ne_of_lt h]
      · simp [tabIns, tabGet, h, hj, ih]
    · by_cases hj : k = j
      · subst hj; simp [tabIns, tabGet, h]
      · simp [tabIns, tabGet, h, hj, Ne.symm hj]

theorem tabDel_idem (t : Tab α) (k : Nat) : tabDel (tabDel t k) k = tabDel t k := by
  induction t with
  | nil => rfl
  | cons e t ih =>
    obtain ⟨k', v'⟩ := e
    by_cases h : k' = k
    · subst h; simp [tabDel, ih]
    · simp [tabDel, h, ih]

theorem tabDel_tabIns (t : Tab α) (k : Nat) (v : α) : tabDel (tabIns t k v) k = tabDel t k := by
  induction t with
  | nil => simp [tabIns, tabDel]
  | cons e t ih =>
    obtain ⟨k', v'⟩ := e
    by_cases h : k' < k
    · simp [tabIns, tabDel, h, Nat.ne_of_lt h, ih]
    · by_cases hk : k' = k
      · subst hk; simp [tabIns, tabDel]
      · simp [tabIns, tabDel, h, hk]

variable [DecidableEq α]

/-- Read after write. -/
@[simp] theorem tabGet_tabSet_self (d : α) (t : Tab α) (k : Nat) (v : α) : tabGet d (tabSet d t k v) k = v := by
  unfold tabSet
  split
  · rename_i h; subst h; simp [tabGet_tabDel]
  · simp [tabGet_tabIns]

/-- A write leaves every other key alone. -/
theorem tabGet_tabSet (d : α) (t : Tab α) (k j : Nat) (v : α) : tabGet d (tabSet d t k v) j = if j = k then v else tabGet d t j := by
  by_cases h : j = k
  · subst h; simp
  · unfold tabSet
    split
    · simp [tabGet_tabDel, h]
    · simp [tabGet_tabIns, tabGet_tabDel, h]

/-- The same where the table is read under another value for unlisted keys. -/
theorem tabGet_tabSet_other (d d' : α) (t : Tab α) {k j : Nat} (v : α) (h : j ≠ k) : tabGet d' (tabSet d t k v) j = tabGet d' t j := by
  unfold tabSet
  split
  · simp [tabGet_tabDel, h]
  · simp [tabGet_tabIns, tabGet_tabDel, h]

theorem tabGet_tabSet_ne (d : α) (t : Tab α) {k j : Nat} (v : α) (h : j ≠ k) : tabGet d (tabSet d t k v) j = tabGet d t j := by
  simp [tabGet_tabSet, h]

/-- A second write to one key replaces the first. -/
@[simp] theorem tabSet_tabSet (d : α) (t : Tab α) (k : Nat) (v w : α) : tabSet d (tabSet d t k v) k w = tabSet d t k w := by
  have h : tabDel (tabSet d t k v) k = tabDel t k := by
    unfold tabSet
    split
    · exact tabDel_idem t k
    · rw [tabDel_tabIns, tabDel_idem]
  show (if w = d then tabDel (tabSet d t k v) k else tabIns (tabDel (tabSet d t k v) k) k w) = _
  rw [h]
  rfl

/-! ## The canonical form -/

theorem tabWfFrom_mono (d : α) (t : Tab α) {lo lo' : Nat} (h : lo' ≤ lo) (w : tabWfFrom d lo t = true) : tabWfFrom d lo' t = true := by
  cases t with
  | nil => rfl
  | cons e t => obtain ⟨k, v⟩ := e; simp [tabWfFrom] at w ⊢; exact ⟨⟨by omega, w.1.2⟩, w.2⟩

theorem tabWfFrom_tabDel (d : α) (t : Tab α) (k lo : Nat) (w : tabWfFrom d lo t = true) : tabWfFrom d lo (tabDel t k) = true := by
  induction t generalizing lo with
  | nil => rfl
  | cons e t ih =>
    obtain ⟨k', v'⟩ := e
    simp [tabWfFrom] at w
    by_cases h : k' = k
    · simp only [tabDel, h, if_true]
      exact tabWfFrom_mono d _ (by omega) (ih (k' + 1) w.2)
    · simp [tabDel, h, tabWfFrom, w.1, ih (k' + 1) w.2]

theorem tabDel_fresh (d : α) (t : Tab α) (k lo : Nat) (w : tabWfFrom d lo t = true) (h : k < lo) : tabDel t k = t := by
  induction t generalizing lo with
  | nil => rfl
  | cons e t ih =>
    obtain ⟨k', v'⟩ := e
    simp [tabWfFrom] at w
    have : k' ≠ k := by omega
    simp [tabDel, this, ih (k' + 1) w.2 (by omega)]

theorem tabWfFrom_tabIns (d : α) (t : Tab α) (k lo : Nat) (v : α) (w : tabWfFrom d lo (tabDel t k) = true) (hl : lo ≤ k) (hv : v ≠ d) :
    tabWfFrom d lo (tabIns (tabDel t k) k v) = true := by
  induction t generalizing lo with
  | nil => simp [tabDel, tabIns, tabWfFrom, hl, hv]
  | cons e t ih =>
    obtain ⟨k', v'⟩ := e
    by_cases h : k' = k
    · simp only [tabDel, h, if_true] at w ⊢
      exact ih lo w hl
    · simp only [tabDel, h, if_false] at w ⊢
      simp [tabWfFrom] at w
      by_cases hlt : k' < k
      · simp [tabIns, hlt, tabWfFrom, w.1, ih (k' + 1) w.2 (by omega)]
      · have : k + 1 ≤ k' := by omega
        simp [tabIns, hlt, tabWfFrom, hl, hv, w, this]

/-- Every write keeps the canonical form. -/
theorem tabWf_tabSet (d : α) (t : Tab α) (k : Nat) (v : α) (w : tabWf d t = true) : tabWf d (tabSet d t k v) = true := by
  unfold tabWf at *
  unfold tabSet
  split
  · exact tabWfFrom_tabDel d t k 0 w
  · rename_i h
    exact tabWfFrom_tabIns d t k 0 v (tabWfFrom_tabDel d t k 0 w) (by omega) h

theorem tabWf_tabUpd (d : α) (t : Tab α) (k : Nat) (f : α → α) (w : tabWf d t = true) : tabWf d (tabUpd d t k f) = true :=
  tabWf_tabSet d t k _ w

theorem tabWf_nil (d : α) : tabWf d ([] : Tab α) = true := rfl

/-! ## Memories -/

@[simp] theorem memGet_memSet_self (m : Mem) (a : Nat) (b : Byte) : memGet (memSet m a b) a = b := tabGet_tabSet_self 0 m a b

theorem memGet_memSet_ne (m : Mem) {a j : Nat} (b : Byte) (h : j ≠ a) : memGet (memSet m a b) j = memGet m j :=
  tabGet_tabSet_ne 0 m b h

theorem memory_wf_memSet (m : Mem) (a : Nat) (b : Byte) (w : Memory.wf m = true) : Memory.wf (memSet m a b) = true :=
  tabWf_tabSet 0 m a b w

/-- Writing bytes keeps the canonical form. -/
theorem memory_wf_memWrite (m : Mem) (a : Nat) (bs : Bytes) (w : Memory.wf m = true) : Memory.wf (memWrite m a bs) = true := by
  induction bs generalizing m a with
  | nil => exact w
  | cons b bs ih => exact ih (memSet m a b) (a + 1) (memory_wf_memSet m a b w)

/-- A write leaves every byte below it alone. -/
theorem memGet_memWrite_below (m : Mem) (a j : Nat) (bs : Bytes) (h : j < a) : memGet (memWrite m a bs) j = memGet m j := by
  induction bs generalizing m a with
  | nil => rfl
  | cons b bs ih => rw [memWrite, ih _ _ (by omega), memGet_memSet_ne _ _ (by omega)]

end Sys2Proof.Machine
end

