-- ==== Sys2Proof/Laws/State.lean ====
section
/-! SUPPORT. One lemma per field of State per named update: what an update does not name, it leaves. -/

namespace Sys2Proof.Machine

/-! ## setCore -/

@[simp] theorem setCore_fuses (s : State) (u : Nat) (c : Core) : (setCore s u c).fuses = s.fuses := rfl
@[simp] theorem setCore_flds (s : State) (u : Nat) (c : Core) : (setCore s u c).flds = s.flds := rfl
@[simp] theorem setCore_shadows (s : State) (u : Nat) (c : Core) : (setCore s u c).shadows = s.shadows := rfl
@[simp] theorem setCore_lap (s : State) (u : Nat) (c : Core) : (setCore s u c).lap = s.lap := rfl
@[simp] theorem setCore_pacer (s : State) (u : Nat) (c : Core) : (setCore s u c).pacer = s.pacer := rfl
@[simp] theorem setCore_graphs (s : State) (u : Nat) (c : Core) : (setCore s u c).graphs = s.graphs := rfl
@[simp] theorem setCore_regions (s : State) (u : Nat) (c : Core) : (setCore s u c).regions = s.regions := rfl
@[simp] theorem setCore_blocks (s : State) (u : Nat) (c : Core) : (setCore s u c).blocks = s.blocks := rfl
@[simp] theorem setCore_owners (s : State) (u : Nat) (c : Core) : (setCore s u c).owners = s.owners := rfl
@[simp] theorem setCore_ownPend (s : State) (u : Nat) (c : Core) : (setCore s u c).ownPend = s.ownPend := rfl
@[simp] theorem setCore_link (s : State) (u : Nat) (c : Core) : (setCore s u c).link = s.link := rfl
@[simp] theorem setCore_guards (s : State) (u : Nat) (c : Core) : (setCore s u c).guards = s.guards := rfl
@[simp] theorem setCore_hurdles (s : State) (u : Nat) (c : Core) : (setCore s u c).hurdles = s.hurdles := rfl
@[simp] theorem setCore_dump (s : State) (u : Nat) (c : Core) : (setCore s u c).dump = s.dump := rfl
@[simp] theorem setCore_part (s : State) (u : Nat) (c : Core) : (setCore s u c).part = s.part := rfl
@[simp] theorem setCore_host (s : State) (u : Nat) (c : Core) : (setCore s u c).host = s.host := rfl
@[simp] theorem setCore_side (s : State) (u : Nat) (c : Core) : (setCore s u c).side = s.side := rfl
@[simp] theorem setCore_boot (s : State) (u : Nat) (c : Core) : (setCore s u c).boot = s.boot := rfl
@[simp] theorem setCore_spdm (s : State) (u : Nat) (c : Core) : (setCore s u c).spdm = s.spdm := rfl
@[simp] theorem setCore_snap (s : State) (u : Nat) (c : Core) : (setCore s u c).snap = s.snap := rfl
@[simp] theorem setCore_trk (s : State) (u : Nat) (c : Core) : (setCore s u c).trk = s.trk := rfl
@[simp] theorem setCore_lapLog (s : State) (u : Nat) (c : Core) : (setCore s u c).lapLog = s.lapLog := rfl
@[simp] theorem setCore_digests (s : State) (u : Nat) (c : Core) : (setCore s u c).digests = s.digests := rfl
@[simp] theorem setCore_pins (s : State) (u : Nat) (c : Core) : (setCore s u c).pins = s.pins := rfl
@[simp] theorem setCore_out (s : State) (u : Nat) (c : Core) : (setCore s u c).out = s.out := rfl
@[simp] theorem setCore_freeCtr (s : State) (u : Nat) (c : Core) : (setCore s u c).freeCtr = s.freeCtr := rfl
@[simp] theorem setCore_pending (s : State) (u : Nat) (c : Core) : (setCore s u c).pending = s.pending := rfl
@[simp] theorem getRegion_setCore (s : State) (u : Nat) (c : Core) (v : Nat) : getRegion (setCore s u c) v = getRegion s v := rfl
@[simp] theorem getBlock_setCore (s : State) (u : Nat) (c : Core) (v : Nat) : getBlock (setCore s u c) v = getBlock s v := rfl
@[simp] theorem fget_setCore (s : State) (u : Nat) (c : Core) (h : Fld) (i j : Nat) : fget (setCore s u c) h i j = fget s h i j := rfl

/-! ## updCore -/

@[simp] theorem updCore_fuses (s : State) (u : Nat) (f : Core → Core) : (updCore s u f).fuses = s.fuses := rfl
@[simp] theorem updCore_flds (s : State) (u : Nat) (f : Core → Core) : (updCore s u f).flds = s.flds := rfl
@[simp] theorem updCore_shadows (s : State) (u : Nat) (f : Core → Core) : (updCore s u f).shadows = s.shadows := rfl
@[simp] theorem updCore_lap (s : State) (u : Nat) (f : Core → Core) : (updCore s u f).lap = s.lap := rfl
@[simp] theorem updCore_pacer (s : State) (u : Nat) (f : Core → Core) : (updCore s u f).pacer = s.pacer := rfl
@[simp] theorem updCore_graphs (s : State) (u : Nat) (f : Core → Core) : (updCore s u f).graphs = s.graphs := rfl
@[simp] theorem updCore_regions (s : State) (u : Nat) (f : Core → Core) : (updCore s u f).regions = s.regions := rfl
@[simp] theorem updCore_blocks (s : State) (u : Nat) (f : Core → Core) : (updCore s u f).blocks = s.blocks := rfl
@[simp] theorem updCore_owners (s : State) (u : Nat) (f : Core → Core) : (updCore s u f).owners = s.owners := rfl
@[simp] theorem updCore_ownPend (s : State) (u : Nat) (f : Core → Core) : (updCore s u f).ownPend = s.ownPend := rfl
@[simp] theorem updCore_link (s : State) (u : Nat) (f : Core → Core) : (updCore s u f).link = s.link := rfl
@[simp] theorem updCore_guards (s : State) (u : Nat) (f : Core → Core) : (updCore s u f).guards = s.guards := rfl
@[simp] theorem updCore_hurdles (s : State) (u : Nat) (f : Core → Core) : (updCore s u f).hurdles = s.hurdles := rfl
@[simp] theorem updCore_dump (s : State) (u : Nat) (f : Core → Core) : (updCore s u f).dump = s.dump := rfl
@[simp] theorem updCore_part (s : State) (u : Nat) (f : Core → Core) : (updCore s u f).part = s.part := rfl
@[simp] theorem updCore_host (s : State) (u : Nat) (f : Core → Core) : (updCore s u f).host = s.host := rfl
@[simp] theorem updCore_side (s : State) (u : Nat) (f : Core → Core) : (updCore s u f).side = s.side := rfl
@[simp] theorem updCore_boot (s : State) (u : Nat) (f : Core → Core) : (updCore s u f).boot = s.boot := rfl
@[simp] theorem updCore_spdm (s : State) (u : Nat) (f : Core → Core) : (updCore s u f).spdm = s.spdm := rfl
@[simp] theorem updCore_snap (s : State) (u : Nat) (f : Core → Core) : (updCore s u f).snap = s.snap := rfl
@[simp] theorem updCore_trk (s : State) (u : Nat) (f : Core → Core) : (updCore s u f).trk = s.trk := rfl
@[simp] theorem updCore_lapLog (s : State) (u : Nat) (f : Core → Core) : (updCore s u f).lapLog = s.lapLog := rfl
@[simp] theorem updCore_digests (s : State) (u : Nat) (f : Core → Core) : (updCore s u f).digests = s.digests := rfl
@[simp] theorem updCore_pins (s : State) (u : Nat) (f : Core → Core) : (updCore s u f).pins = s.pins := rfl
@[simp] theorem updCore_out (s : State) (u : Nat) (f : Core → Core) : (updCore s u f).out = s.out := rfl
@[simp] theorem updCore_freeCtr (s : State) (u : Nat) (f : Core → Core) : (updCore s u f).freeCtr = s.freeCtr := rfl
@[simp] theorem updCore_pending (s : State) (u : Nat) (f : Core → Core) : (updCore s u f).pending = s.pending := rfl
@[simp] theorem getRegion_updCore (s : State) (u : Nat) (f : Core → Core) (v : Nat) : getRegion (updCore s u f) v = getRegion s v := rfl
@[simp] theorem getBlock_updCore (s : State) (u : Nat) (f : Core → Core) (v : Nat) : getBlock (updCore s u f) v = getBlock s v := rfl
@[simp] theorem fget_updCore (s : State) (u : Nat) (f : Core → Core) (h : Fld) (i j : Nat) : fget (updCore s u f) h i j = fget s h i j := rfl

/-! ## updSeq -/

@[simp] theorem updSeq_fuses (s : State) (u : Nat) (f : Seq → Seq) : (updSeq s u f).fuses = s.fuses := rfl
@[simp] theorem updSeq_flds (s : State) (u : Nat) (f : Seq → Seq) : (updSeq s u f).flds = s.flds := rfl
@[simp] theorem updSeq_shadows (s : State) (u : Nat) (f : Seq → Seq) : (updSeq s u f).shadows = s.shadows := rfl
@[simp] theorem updSeq_lap (s : State) (u : Nat) (f : Seq → Seq) : (updSeq s u f).lap = s.lap := rfl
@[simp] theorem updSeq_pacer (s : State) (u : Nat) (f : Seq → Seq) : (updSeq s u f).pacer = s.pacer := rfl
@[simp] theorem updSeq_graphs (s : State) (u : Nat) (f : Seq → Seq) : (updSeq s u f).graphs = s.graphs := rfl
@[simp] theorem updSeq_regions (s : State) (u : Nat) (f : Seq → Seq) : (updSeq s u f).regions = s.regions := rfl
@[simp] theorem updSeq_blocks (s : State) (u : Nat) (f : Seq → Seq) : (updSeq s u f).blocks = s.blocks := rfl
@[simp] theorem updSeq_owners (s : State) (u : Nat) (f : Seq → Seq) : (updSeq s u f).owners = s.owners := rfl
@[simp] theorem updSeq_ownPend (s : State) (u : Nat) (f : Seq → Seq) : (updSeq s u f).ownPend = s.ownPend := rfl
@[simp] theorem updSeq_link (s : State) (u : Nat) (f : Seq → Seq) : (updSeq s u f).link = s.link := rfl
@[simp] theorem updSeq_guards (s : State) (u : Nat) (f : Seq → Seq) : (updSeq s u f).guards = s.guards := rfl
@[simp] theorem updSeq_hurdles (s : State) (u : Nat) (f : Seq → Seq) : (updSeq s u f).hurdles = s.hurdles := rfl
@[simp] theorem updSeq_dump (s : State) (u : Nat) (f : Seq → Seq) : (updSeq s u f).dump = s.dump := rfl
@[simp] theorem updSeq_part (s : State) (u : Nat) (f : Seq → Seq) : (updSeq s u f).part = s.part := rfl
@[simp] theorem updSeq_host (s : State) (u : Nat) (f : Seq → Seq) : (updSeq s u f).host = s.host := rfl
@[simp] theorem updSeq_side (s : State) (u : Nat) (f : Seq → Seq) : (updSeq s u f).side = s.side := rfl
@[simp] theorem updSeq_boot (s : State) (u : Nat) (f : Seq → Seq) : (updSeq s u f).boot = s.boot := rfl
@[simp] theorem updSeq_spdm (s : State) (u : Nat) (f : Seq → Seq) : (updSeq s u f).spdm = s.spdm := rfl
@[simp] theorem updSeq_snap (s : State) (u : Nat) (f : Seq → Seq) : (updSeq s u f).snap = s.snap := rfl
@[simp] theorem updSeq_trk (s : State) (u : Nat) (f : Seq → Seq) : (updSeq s u f).trk = s.trk := rfl
@[simp] theorem updSeq_lapLog (s : State) (u : Nat) (f : Seq → Seq) : (updSeq s u f).lapLog = s.lapLog := rfl
@[simp] theorem updSeq_digests (s : State) (u : Nat) (f : Seq → Seq) : (updSeq s u f).digests = s.digests := rfl
@[simp] theorem updSeq_pins (s : State) (u : Nat) (f : Seq → Seq) : (updSeq s u f).pins = s.pins := rfl
@[simp] theorem updSeq_out (s : State) (u : Nat) (f : Seq → Seq) : (updSeq s u f).out = s.out := rfl
@[simp] theorem updSeq_freeCtr (s : State) (u : Nat) (f : Seq → Seq) : (updSeq s u f).freeCtr = s.freeCtr := rfl
@[simp] theorem updSeq_pending (s : State) (u : Nat) (f : Seq → Seq) : (updSeq s u f).pending = s.pending := rfl
@[simp] theorem getRegion_updSeq (s : State) (u : Nat) (f : Seq → Seq) (v : Nat) : getRegion (updSeq s u f) v = getRegion s v := rfl
@[simp] theorem getBlock_updSeq (s : State) (u : Nat) (f : Seq → Seq) (v : Nat) : getBlock (updSeq s u f) v = getBlock s v := rfl
@[simp] theorem fget_updSeq (s : State) (u : Nat) (f : Seq → Seq) (h : Fld) (i j : Nat) : fget (updSeq s u f) h i j = fget s h i j := rfl

/-! ## setRegion -/

@[simp] theorem setRegion_fuses (s : State) (r : Nat) (x : Region) : (setRegion s r x).fuses = s.fuses := rfl
@[simp] theorem setRegion_flds (s : State) (r : Nat) (x : Region) : (setRegion s r x).flds = s.flds := rfl
@[simp] theorem setRegion_shadows (s : State) (r : Nat) (x : Region) : (setRegion s r x).shadows = s.shadows := rfl
@[simp] theorem setRegion_lap (s : State) (r : Nat) (x : Region) : (setRegion s r x).lap = s.lap := rfl
@[simp] theorem setRegion_pacer (s : State) (r : Nat) (x : Region) : (setRegion s r x).pacer = s.pacer := rfl
@[simp] theorem setRegion_graphs (s : State) (r : Nat) (x : Region) : (setRegion s r x).graphs = s.graphs := rfl
@[simp] theorem setRegion_cores (s : State) (r : Nat) (x : Region) : (setRegion s r x).cores = s.cores := rfl
@[simp] theorem setRegion_blocks (s : State) (r : Nat) (x : Region) : (setRegion s r x).blocks = s.blocks := rfl
@[simp] theorem setRegion_owners (s : State) (r : Nat) (x : Region) : (setRegion s r x).owners = s.owners := rfl
@[simp] theorem setRegion_ownPend (s : State) (r : Nat) (x : Region) : (setRegion s r x).ownPend = s.ownPend := rfl
@[simp] theorem setRegion_link (s : State) (r : Nat) (x : Region) : (setRegion s r x).link = s.link := rfl
@[simp] theorem setRegion_guards (s : State) (r : Nat) (x : Region) : (setRegion s r x).guards = s.guards := rfl
@[simp] theorem setRegion_hurdles (s : State) (r : Nat) (x : Region) : (setRegion s r x).hurdles = s.hurdles := rfl
@[simp] theorem setRegion_dump (s : State) (r : Nat) (x : Region) : (setRegion s r x).dump = s.dump := rfl
@[simp] theorem setRegion_part (s : State) (r : Nat) (x : Region) : (setRegion s r x).part = s.part := rfl
@[simp] theorem setRegion_host (s : State) (r : Nat) (x : Region) : (setRegion s r x).host = s.host := rfl
@[simp] theorem setRegion_side (s : State) (r : Nat) (x : Region) : (setRegion s r x).side = s.side := rfl
@[simp] theorem setRegion_boot (s : State) (r : Nat) (x : Region) : (setRegion s r x).boot = s.boot := rfl
@[simp] theorem setRegion_spdm (s : State) (r : Nat) (x : Region) : (setRegion s r x).spdm = s.spdm := rfl
@[simp] theorem setRegion_snap (s : State) (r : Nat) (x : Region) : (setRegion s r x).snap = s.snap := rfl
@[simp] theorem setRegion_trk (s : State) (r : Nat) (x : Region) : (setRegion s r x).trk = s.trk := rfl
@[simp] theorem setRegion_lapLog (s : State) (r : Nat) (x : Region) : (setRegion s r x).lapLog = s.lapLog := rfl
@[simp] theorem setRegion_digests (s : State) (r : Nat) (x : Region) : (setRegion s r x).digests = s.digests := rfl
@[simp] theorem setRegion_pins (s : State) (r : Nat) (x : Region) : (setRegion s r x).pins = s.pins := rfl
@[simp] theorem setRegion_out (s : State) (r : Nat) (x : Region) : (setRegion s r x).out = s.out := rfl
@[simp] theorem setRegion_freeCtr (s : State) (r : Nat) (x : Region) : (setRegion s r x).freeCtr = s.freeCtr := rfl
@[simp] theorem setRegion_pending (s : State) (r : Nat) (x : Region) : (setRegion s r x).pending = s.pending := rfl
@[simp] theorem getCore_setRegion (s : State) (r : Nat) (x : Region) (v : Nat) : getCore (setRegion s r x) v = getCore s v := rfl
@[simp] theorem getBlock_setRegion (s : State) (r : Nat) (x : Region) (v : Nat) : getBlock (setRegion s r x) v = getBlock s v := rfl
@[simp] theorem fget_setRegion (s : State) (r : Nat) (x : Region) (h : Fld) (i j : Nat) : fget (setRegion s r x) h i j = fget s h i j := rfl

/-! ## updRegion -/

@[simp] theorem updRegion_fuses (s : State) (r : Nat) (f : Region → Region) : (updRegion s r f).fuses = s.fuses := rfl
@[simp] theorem updRegion_flds (s : State) (r : Nat) (f : Region → Region) : (updRegion s r f).flds = s.flds := rfl
@[simp] theorem updRegion_shadows (s : State) (r : Nat) (f : Region → Region) : (updRegion s r f).shadows = s.shadows := rfl
@[simp] theorem updRegion_lap (s : State) (r : Nat) (f : Region → Region) : (updRegion s r f).lap = s.lap := rfl
@[simp] theorem updRegion_pacer (s : State) (r : Nat) (f : Region → Region) : (updRegion s r f).pacer = s.pacer := rfl
@[simp] theorem updRegion_graphs (s : State) (r : Nat) (f : Region → Region) : (updRegion s r f).graphs = s.graphs := rfl
@[simp] theorem updRegion_cores (s : State) (r : Nat) (f : Region → Region) : (updRegion s r f).cores = s.cores := rfl
@[simp] theorem updRegion_blocks (s : State) (r : Nat) (f : Region → Region) : (updRegion s r f).blocks = s.blocks := rfl
@[simp] theorem updRegion_owners (s : State) (r : Nat) (f : Region → Region) : (updRegion s r f).owners = s.owners := rfl
@[simp] theorem updRegion_ownPend (s : State) (r : Nat) (f : Region → Region) : (updRegion s r f).ownPend = s.ownPend := rfl
@[simp] theorem updRegion_link (s : State) (r : Nat) (f : Region → Region) : (updRegion s r f).link = s.link := rfl
@[simp] theorem updRegion_guards (s : State) (r : Nat) (f : Region → Region) : (updRegion s r f).guards = s.guards := rfl
@[simp] theorem updRegion_hurdles (s : State) (r : Nat) (f : Region → Region) : (updRegion s r f).hurdles = s.hurdles := rfl
@[simp] theorem updRegion_dump (s : State) (r : Nat) (f : Region → Region) : (updRegion s r f).dump = s.dump := rfl
@[simp] theorem updRegion_part (s : State) (r : Nat) (f : Region → Region) : (updRegion s r f).part = s.part := rfl
@[simp] theorem updRegion_host (s : State) (r : Nat) (f : Region → Region) : (updRegion s r f).host = s.host := rfl
@[simp] theorem updRegion_side (s : State) (r : Nat) (f : Region → Region) : (updRegion s r f).side = s.side := rfl
@[simp] theorem updRegion_boot (s : State) (r : Nat) (f : Region → Region) : (updRegion s r f).boot = s.boot := rfl
@[simp] theorem updRegion_spdm (s : State) (r : Nat) (f : Region → Region) : (updRegion s r f).spdm = s.spdm := rfl
@[simp] theorem updRegion_snap (s : State) (r : Nat) (f : Region → Region) : (updRegion s r f).snap = s.snap := rfl
@[simp] theorem updRegion_trk (s : State) (r : Nat) (f : Region → Region) : (updRegion s r f).trk = s.trk := rfl
@[simp] theorem updRegion_lapLog (s : State) (r : Nat) (f : Region → Region) : (updRegion s r f).lapLog = s.lapLog := rfl
@[simp] theorem updRegion_digests (s : State) (r : Nat) (f : Region → Region) : (updRegion s r f).digests = s.digests := rfl
@[simp] theorem updRegion_pins (s : State) (r : Nat) (f : Region → Region) : (updRegion s r f).pins = s.pins := rfl
@[simp] theorem updRegion_out (s : State) (r : Nat) (f : Region → Region) : (updRegion s r f).out = s.out := rfl
@[simp] theorem updRegion_freeCtr (s : State) (r : Nat) (f : Region → Region) : (updRegion s r f).freeCtr = s.freeCtr := rfl
@[simp] theorem updRegion_pending (s : State) (r : Nat) (f : Region → Region) : (updRegion s r f).pending = s.pending := rfl
@[simp] theorem getCore_updRegion (s : State) (r : Nat) (f : Region → Region) (v : Nat) : getCore (updRegion s r f) v = getCore s v := rfl
@[simp] theorem getBlock_updRegion (s : State) (r : Nat) (f : Region → Region) (v : Nat) : getBlock (updRegion s r f) v = getBlock s v := rfl
@[simp] theorem fget_updRegion (s : State) (r : Nat) (f : Region → Region) (h : Fld) (i j : Nat) : fget (updRegion s r f) h i j = fget s h i j := rfl

/-! ## setBlock -/

@[simp] theorem setBlock_fuses (s : State) (b : Nat) (x : Block) : (setBlock s b x).fuses = s.fuses := rfl
@[simp] theorem setBlock_flds (s : State) (b : Nat) (x : Block) : (setBlock s b x).flds = s.flds := rfl
@[simp] theorem setBlock_shadows (s : State) (b : Nat) (x : Block) : (setBlock s b x).shadows = s.shadows := rfl
@[simp] theorem setBlock_lap (s : State) (b : Nat) (x : Block) : (setBlock s b x).lap = s.lap := rfl
@[simp] theorem setBlock_pacer (s : State) (b : Nat) (x : Block) : (setBlock s b x).pacer = s.pacer := rfl
@[simp] theorem setBlock_graphs (s : State) (b : Nat) (x : Block) : (setBlock s b x).graphs = s.graphs := rfl
@[simp] theorem setBlock_cores (s : State) (b : Nat) (x : Block) : (setBlock s b x).cores = s.cores := rfl
@[simp] theorem setBlock_regions (s : State) (b : Nat) (x : Block) : (setBlock s b x).regions = s.regions := rfl
@[simp] theorem setBlock_owners (s : State) (b : Nat) (x : Block) : (setBlock s b x).owners = s.owners := rfl
@[simp] theorem setBlock_ownPend (s : State) (b : Nat) (x : Block) : (setBlock s b x).ownPend = s.ownPend := rfl
@[simp] theorem setBlock_link (s : State) (b : Nat) (x : Block) : (setBlock s b x).link = s.link := rfl
@[simp] theorem setBlock_guards (s : State) (b : Nat) (x : Block) : (setBlock s b x).guards = s.guards := rfl
@[simp] theorem setBlock_hurdles (s : State) (b : Nat) (x : Block) : (setBlock s b x).hurdles = s.hurdles := rfl
@[simp] theorem setBlock_dump (s : State) (b : Nat) (x : Block) : (setBlock s b x).dump = s.dump := rfl
@[simp] theorem setBlock_part (s : State) (b : Nat) (x : Block) : (setBlock s b x).part = s.part := rfl
@[simp] theorem setBlock_host (s : State) (b : Nat) (x : Block) : (setBlock s b x).host = s.host := rfl
@[simp] theorem setBlock_side (s : State) (b : Nat) (x : Block) : (setBlock s b x).side = s.side := rfl
@[simp] theorem setBlock_boot (s : State) (b : Nat) (x : Block) : (setBlock s b x).boot = s.boot := rfl
@[simp] theorem setBlock_spdm (s : State) (b : Nat) (x : Block) : (setBlock s b x).spdm = s.spdm := rfl
@[simp] theorem setBlock_snap (s : State) (b : Nat) (x : Block) : (setBlock s b x).snap = s.snap := rfl
@[simp] theorem setBlock_trk (s : State) (b : Nat) (x : Block) : (setBlock s b x).trk = s.trk := rfl
@[simp] theorem setBlock_lapLog (s : State) (b : Nat) (x : Block) : (setBlock s b x).lapLog = s.lapLog := rfl
@[simp] theorem setBlock_digests (s : State) (b : Nat) (x : Block) : (setBlock s b x).digests = s.digests := rfl
@[simp] theorem setBlock_pins (s : State) (b : Nat) (x : Block) : (setBlock s b x).pins = s.pins := rfl
@[simp] theorem setBlock_out (s : State) (b : Nat) (x : Block) : (setBlock s b x).out = s.out := rfl
@[simp] theorem setBlock_freeCtr (s : State) (b : Nat) (x : Block) : (setBlock s b x).freeCtr = s.freeCtr := rfl
@[simp] theorem setBlock_pending (s : State) (b : Nat) (x : Block) : (setBlock s b x).pending = s.pending := rfl
@[simp] theorem getCore_setBlock (s : State) (b : Nat) (x : Block) (v : Nat) : getCore (setBlock s b x) v = getCore s v := rfl
@[simp] theorem getRegion_setBlock (s : State) (b : Nat) (x : Block) (v : Nat) : getRegion (setBlock s b x) v = getRegion s v := rfl
@[simp] theorem fget_setBlock (s : State) (b : Nat) (x : Block) (h : Fld) (i j : Nat) : fget (setBlock s b x) h i j = fget s h i j := rfl

/-! ## updBlock -/

@[simp] theorem updBlock_fuses (s : State) (b : Nat) (f : Block → Block) : (updBlock s b f).fuses = s.fuses := rfl
@[simp] theorem updBlock_flds (s : State) (b : Nat) (f : Block → Block) : (updBlock s b f).flds = s.flds := rfl
@[simp] theorem updBlock_shadows (s : State) (b : Nat) (f : Block → Block) : (updBlock s b f).shadows = s.shadows := rfl
@[simp] theorem updBlock_lap (s : State) (b : Nat) (f : Block → Block) : (updBlock s b f).lap = s.lap := rfl
@[simp] theorem updBlock_pacer (s : State) (b : Nat) (f : Block → Block) : (updBlock s b f).pacer = s.pacer := rfl
@[simp] theorem updBlock_graphs (s : State) (b : Nat) (f : Block → Block) : (updBlock s b f).graphs = s.graphs := rfl
@[simp] theorem updBlock_cores (s : State) (b : Nat) (f : Block → Block) : (updBlock s b f).cores = s.cores := rfl
@[simp] theorem updBlock_regions (s : State) (b : Nat) (f : Block → Block) : (updBlock s b f).regions = s.regions := rfl
@[simp] theorem updBlock_owners (s : State) (b : Nat) (f : Block → Block) : (updBlock s b f).owners = s.owners := rfl
@[simp] theorem updBlock_ownPend (s : State) (b : Nat) (f : Block → Block) : (updBlock s b f).ownPend = s.ownPend := rfl
@[simp] theorem updBlock_link (s : State) (b : Nat) (f : Block → Block) : (updBlock s b f).link = s.link := rfl
@[simp] theorem updBlock_guards (s : State) (b : Nat) (f : Block → Block) : (updBlock s b f).guards = s.guards := rfl
@[simp] theorem updBlock_hurdles (s : State) (b : Nat) (f : Block → Block) : (updBlock s b f).hurdles = s.hurdles := rfl
@[simp] theorem updBlock_dump (s : State) (b : Nat) (f : Block → Block) : (updBlock s b f).dump = s.dump := rfl
@[simp] theorem updBlock_part (s : State) (b : Nat) (f : Block → Block) : (updBlock s b f).part = s.part := rfl
@[simp] theorem updBlock_host (s : State) (b : Nat) (f : Block → Block) : (updBlock s b f).host = s.host := rfl
@[simp] theorem updBlock_side (s : State) (b : Nat) (f : Block → Block) : (updBlock s b f).side = s.side := rfl
@[simp] theorem updBlock_boot (s : State) (b : Nat) (f : Block → Block) : (updBlock s b f).boot = s.boot := rfl
@[simp] theorem updBlock_spdm (s : State) (b : Nat) (f : Block → Block) : (updBlock s b f).spdm = s.spdm := rfl
@[simp] theorem updBlock_snap (s : State) (b : Nat) (f : Block → Block) : (updBlock s b f).snap = s.snap := rfl
@[simp] theorem updBlock_trk (s : State) (b : Nat) (f : Block → Block) : (updBlock s b f).trk = s.trk := rfl
@[simp] theorem updBlock_lapLog (s : State) (b : Nat) (f : Block → Block) : (updBlock s b f).lapLog = s.lapLog := rfl
@[simp] theorem updBlock_digests (s : State) (b : Nat) (f : Block → Block) : (updBlock s b f).digests = s.digests := rfl
@[simp] theorem updBlock_pins (s : State) (b : Nat) (f : Block → Block) : (updBlock s b f).pins = s.pins := rfl
@[simp] theorem updBlock_out (s : State) (b : Nat) (f : Block → Block) : (updBlock s b f).out = s.out := rfl
@[simp] theorem updBlock_freeCtr (s : State) (b : Nat) (f : Block → Block) : (updBlock s b f).freeCtr = s.freeCtr := rfl
@[simp] theorem updBlock_pending (s : State) (b : Nat) (f : Block → Block) : (updBlock s b f).pending = s.pending := rfl
@[simp] theorem getCore_updBlock (s : State) (b : Nat) (f : Block → Block) (v : Nat) : getCore (updBlock s b f) v = getCore s v := rfl
@[simp] theorem getRegion_updBlock (s : State) (b : Nat) (f : Block → Block) (v : Nat) : getRegion (updBlock s b f) v = getRegion s v := rfl
@[simp] theorem fget_updBlock (s : State) (b : Nat) (f : Block → Block) (h : Fld) (i j : Nat) : fget (updBlock s b f) h i j = fget s h i j := rfl

/-! ## updLap -/

@[simp] theorem updLap_fuses (s : State) (f : LapSt → LapSt) : (updLap s f).fuses = s.fuses := rfl
@[simp] theorem updLap_flds (s : State) (f : LapSt → LapSt) : (updLap s f).flds = s.flds := rfl
@[simp] theorem updLap_shadows (s : State) (f : LapSt → LapSt) : (updLap s f).shadows = s.shadows := rfl
@[simp] theorem updLap_pacer (s : State) (f : LapSt → LapSt) : (updLap s f).pacer = s.pacer := rfl
@[simp] theorem updLap_graphs (s : State) (f : LapSt → LapSt) : (updLap s f).graphs = s.graphs := rfl
@[simp] theorem updLap_cores (s : State) (f : LapSt → LapSt) : (updLap s f).cores = s.cores := rfl
@[simp] theorem updLap_regions (s : State) (f : LapSt → LapSt) : (updLap s f).regions = s.regions := rfl
@[simp] theorem updLap_blocks (s : State) (f : LapSt → LapSt) : (updLap s f).blocks = s.blocks := rfl
@[simp] theorem updLap_owners (s : State) (f : LapSt → LapSt) : (updLap s f).owners = s.owners := rfl
@[simp] theorem updLap_ownPend (s : State) (f : LapSt → LapSt) : (updLap s f).ownPend = s.ownPend := rfl
@[simp] theorem updLap_link (s : State) (f : LapSt → LapSt) : (updLap s f).link = s.link := rfl
@[simp] theorem updLap_guards (s : State) (f : LapSt → LapSt) : (updLap s f).guards = s.guards := rfl
@[simp] theorem updLap_hurdles (s : State) (f : LapSt → LapSt) : (updLap s f).hurdles = s.hurdles := rfl
@[simp] theorem updLap_dump (s : State) (f : LapSt → LapSt) : (updLap s f).dump = s.dump := rfl
@[simp] theorem updLap_part (s : State) (f : LapSt → LapSt) : (updLap s f).part = s.part := rfl
@[simp] theorem updLap_host (s : State) (f : LapSt → LapSt) : (updLap s f).host = s.host := rfl
@[simp] theorem updLap_side (s : State) (f : LapSt → LapSt) : (updLap s f).side = s.side := rfl
@[simp] theorem updLap_boot (s : State) (f : LapSt → LapSt) : (updLap s f).boot = s.boot := rfl
@[simp] theorem updLap_spdm (s : State) (f : LapSt → LapSt) : (updLap s f).spdm = s.spdm := rfl
@[simp] theorem updLap_snap (s : State) (f : LapSt → LapSt) : (updLap s f).snap = s.snap := rfl
@[simp] theorem updLap_trk (s : State) (f : LapSt → LapSt) : (updLap s f).trk = s.trk := rfl
@[simp] theorem updLap_lapLog (s : State) (f : LapSt → LapSt) : (updLap s f).lapLog = s.lapLog := rfl
@[simp] theorem updLap_digests (s : State) (f : LapSt → LapSt) : (updLap s f).digests = s.digests := rfl
@[simp] theorem updLap_pins (s : State) (f : LapSt → LapSt) : (updLap s f).pins = s.pins := rfl
@[simp] theorem updLap_out (s : State) (f : LapSt → LapSt) : (updLap s f).out = s.out := rfl
@[simp] theorem updLap_freeCtr (s : State) (f : LapSt → LapSt) : (updLap s f).freeCtr = s.freeCtr := rfl
@[simp] theorem updLap_pending (s : State) (f : LapSt → LapSt) : (updLap s f).pending = s.pending := rfl
@[simp] theorem getCore_updLap (s : State) (f : LapSt → LapSt) (v : Nat) : getCore (updLap s f) v = getCore s v := rfl
@[simp] theorem getRegion_updLap (s : State) (f : LapSt → LapSt) (v : Nat) : getRegion (updLap s f) v = getRegion s v := rfl
@[simp] theorem getBlock_updLap (s : State) (f : LapSt → LapSt) (v : Nat) : getBlock (updLap s f) v = getBlock s v := rfl
@[simp] theorem fget_updLap (s : State) (f : LapSt → LapSt) (h : Fld) (i j : Nat) : fget (updLap s f) h i j = fget s h i j := rfl

/-! ## updTask -/

@[simp] theorem updTask_fuses (s : State) (k : Nat) (f : LapTask → LapTask) : (updTask s k f).fuses = s.fuses := rfl
@[simp] theorem updTask_flds (s : State) (k : Nat) (f : LapTask → LapTask) : (updTask s k f).flds = s.flds := rfl
@[simp] theorem updTask_shadows (s : State) (k : Nat) (f : LapTask → LapTask) : (updTask s k f).shadows = s.shadows := rfl
@[simp] theorem updTask_pacer (s : State) (k : Nat) (f : LapTask → LapTask) : (updTask s k f).pacer = s.pacer := rfl
@[simp] theorem updTask_graphs (s : State) (k : Nat) (f : LapTask → LapTask) : (updTask s k f).graphs = s.graphs := rfl
@[simp] theorem updTask_cores (s : State) (k : Nat) (f : LapTask → LapTask) : (updTask s k f).cores = s.cores := rfl
@[simp] theorem updTask_regions (s : State) (k : Nat) (f : LapTask → LapTask) : (updTask s k f).regions = s.regions := rfl
@[simp] theorem updTask_blocks (s : State) (k : Nat) (f : LapTask → LapTask) : (updTask s k f).blocks = s.blocks := rfl
@[simp] theorem updTask_owners (s : State) (k : Nat) (f : LapTask → LapTask) : (updTask s k f).owners = s.owners := rfl
@[simp] theorem updTask_ownPend (s : State) (k : Nat) (f : LapTask → LapTask) : (updTask s k f).ownPend = s.ownPend := rfl
@[simp] theorem updTask_link (s : State) (k : Nat) (f : LapTask → LapTask) : (updTask s k f).link = s.link := rfl
@[simp] theorem updTask_guards (s : State) (k : Nat) (f : LapTask → LapTask) : (updTask s k f).guards = s.guards := rfl
@[simp] theorem updTask_hurdles (s : State) (k : Nat) (f : LapTask → LapTask) : (updTask s k f).hurdles = s.hurdles := rfl
@[simp] theorem updTask_dump (s : State) (k : Nat) (f : LapTask → LapTask) : (updTask s k f).dump = s.dump := rfl
@[simp] theorem updTask_part (s : State) (k : Nat) (f : LapTask → LapTask) : (updTask s k f).part = s.part := rfl
@[simp] theorem updTask_host (s : State) (k : Nat) (f : LapTask → LapTask) : (updTask s k f).host = s.host := rfl
@[simp] theorem updTask_side (s : State) (k : Nat) (f : LapTask → LapTask) : (updTask s k f).side = s.side := rfl
@[simp] theorem updTask_boot (s : State) (k : Nat) (f : LapTask → LapTask) : (updTask s k f).boot = s.boot := rfl
@[simp] theorem updTask_spdm (s : State) (k : Nat) (f : LapTask → LapTask) : (updTask s k f).spdm = s.spdm := rfl
@[simp] theorem updTask_snap (s : State) (k : Nat) (f : LapTask → LapTask) : (updTask s k f).snap = s.snap := rfl
@[simp] theorem updTask_trk (s : State) (k : Nat) (f : LapTask → LapTask) : (updTask s k f).trk = s.trk := rfl
@[simp] theorem updTask_lapLog (s : State) (k : Nat) (f : LapTask → LapTask) : (updTask s k f).lapLog = s.lapLog := rfl
@[simp] theorem updTask_digests (s : State) (k : Nat) (f : LapTask → LapTask) : (updTask s k f).digests = s.digests := rfl
@[simp] theorem updTask_pins (s : State) (k : Nat) (f : LapTask → LapTask) : (updTask s k f).pins = s.pins := rfl
@[simp] theorem updTask_out (s : State) (k : Nat) (f : LapTask → LapTask) : (updTask s k f).out = s.out := rfl
@[simp] theorem updTask_freeCtr (s : State) (k : Nat) (f : LapTask → LapTask) : (updTask s k f).freeCtr = s.freeCtr := rfl
@[simp] theorem updTask_pending (s : State) (k : Nat) (f : LapTask → LapTask) : (updTask s k f).pending = s.pending := rfl
@[simp] theorem getCore_updTask (s : State) (k : Nat) (f : LapTask → LapTask) (v : Nat) : getCore (updTask s k f) v = getCore s v := rfl
@[simp] theorem getRegion_updTask (s : State) (k : Nat) (f : LapTask → LapTask) (v : Nat) : getRegion (updTask s k f) v = getRegion s v := rfl
@[simp] theorem getBlock_updTask (s : State) (k : Nat) (f : LapTask → LapTask) (v : Nat) : getBlock (updTask s k f) v = getBlock s v := rfl
@[simp] theorem fget_updTask (s : State) (k : Nat) (f : LapTask → LapTask) (h : Fld) (i j : Nat) : fget (updTask s k f) h i j = fget s h i j := rfl

/-! ## updHost -/

@[simp] theorem updHost_fuses (s : State) (f : HostSt → HostSt) : (updHost s f).fuses = s.fuses := rfl
@[simp] theorem updHost_flds (s : State) (f : HostSt → HostSt) : (updHost s f).flds = s.flds := rfl
@[simp] theorem updHost_shadows (s : State) (f : HostSt → HostSt) : (updHost s f).shadows = s.shadows := rfl
@[simp] theorem updHost_lap (s : State) (f : HostSt → HostSt) : (updHost s f).lap = s.lap := rfl
@[simp] theorem updHost_pacer (s : State) (f : HostSt → HostSt) : (updHost s f).pacer = s.pacer := rfl
@[simp] theorem updHost_graphs (s : State) (f : HostSt → HostSt) : (updHost s f).graphs = s.graphs := rfl
@[simp] theorem updHost_cores (s : State) (f : HostSt → HostSt) : (updHost s f).cores = s.cores := rfl
@[simp] theorem updHost_regions (s : State) (f : HostSt → HostSt) : (updHost s f).regions = s.regions := rfl
@[simp] theorem updHost_blocks (s : State) (f : HostSt → HostSt) : (updHost s f).blocks = s.blocks := rfl
@[simp] theorem updHost_owners (s : State) (f : HostSt → HostSt) : (updHost s f).owners = s.owners := rfl
@[simp] theorem updHost_ownPend (s : State) (f : HostSt → HostSt) : (updHost s f).ownPend = s.ownPend := rfl
@[simp] theorem updHost_link (s : State) (f : HostSt → HostSt) : (updHost s f).link = s.link := rfl
@[simp] theorem updHost_guards (s : State) (f : HostSt → HostSt) : (updHost s f).guards = s.guards := rfl
@[simp] theorem updHost_hurdles (s : State) (f : HostSt → HostSt) : (updHost s f).hurdles = s.hurdles := rfl
@[simp] theorem updHost_dump (s : State) (f : HostSt → HostSt) : (updHost s f).dump = s.dump := rfl
@[simp] theorem updHost_part (s : State) (f : HostSt → HostSt) : (updHost s f).part = s.part := rfl
@[simp] theorem updHost_side (s : State) (f : HostSt → HostSt) : (updHost s f).side = s.side := rfl
@[simp] theorem updHost_boot (s : State) (f : HostSt → HostSt) : (updHost s f).boot = s.boot := rfl
@[simp] theorem updHost_spdm (s : State) (f : HostSt → HostSt) : (updHost s f).spdm = s.spdm := rfl
@[simp] theorem updHost_snap (s : State) (f : HostSt → HostSt) : (updHost s f).snap = s.snap := rfl
@[simp] theorem updHost_trk (s : State) (f : HostSt → HostSt) : (updHost s f).trk = s.trk := rfl
@[simp] theorem updHost_lapLog (s : State) (f : HostSt → HostSt) : (updHost s f).lapLog = s.lapLog := rfl
@[simp] theorem updHost_digests (s : State) (f : HostSt → HostSt) : (updHost s f).digests = s.digests := rfl
@[simp] theorem updHost_pins (s : State) (f : HostSt → HostSt) : (updHost s f).pins = s.pins := rfl
@[simp] theorem updHost_out (s : State) (f : HostSt → HostSt) : (updHost s f).out = s.out := rfl
@[simp] theorem updHost_freeCtr (s : State) (f : HostSt → HostSt) : (updHost s f).freeCtr = s.freeCtr := rfl
@[simp] theorem updHost_pending (s : State) (f : HostSt → HostSt) : (updHost s f).pending = s.pending := rfl
@[simp] theorem getCore_updHost (s : State) (f : HostSt → HostSt) (v : Nat) : getCore (updHost s f) v = getCore s v := rfl
@[simp] theorem getRegion_updHost (s : State) (f : HostSt → HostSt) (v : Nat) : getRegion (updHost s f) v = getRegion s v := rfl
@[simp] theorem getBlock_updHost (s : State) (f : HostSt → HostSt) (v : Nat) : getBlock (updHost s f) v = getBlock s v := rfl
@[simp] theorem fget_updHost (s : State) (f : HostSt → HostSt) (h : Fld) (i j : Nat) : fget (updHost s f) h i j = fget s h i j := rfl

/-! ## updPart -/

@[simp] theorem updPart_fuses (s : State) (f : PartSt → PartSt) : (updPart s f).fuses = s.fuses := rfl
@[simp] theorem updPart_flds (s : State) (f : PartSt → PartSt) : (updPart s f).flds = s.flds := rfl
@[simp] theorem updPart_shadows (s : State) (f : PartSt → PartSt) : (updPart s f).shadows = s.shadows := rfl
@[simp] theorem updPart_lap (s : State) (f : PartSt → PartSt) : (updPart s f).lap = s.lap := rfl
@[simp] theorem updPart_pacer (s : State) (f : PartSt → PartSt) : (updPart s f).pacer = s.pacer := rfl
@[simp] theorem updPart_graphs (s : State) (f : PartSt → PartSt) : (updPart s f).graphs = s.graphs := rfl
@[simp] theorem updPart_cores (s : State) (f : PartSt → PartSt) : (updPart s f).cores = s.cores := rfl
@[simp] theorem updPart_regions (s : State) (f : PartSt → PartSt) : (updPart s f).regions = s.regions := rfl
@[simp] theorem updPart_blocks (s : State) (f : PartSt → PartSt) : (updPart s f).blocks = s.blocks := rfl
@[simp] theorem updPart_owners (s : State) (f : PartSt → PartSt) : (updPart s f).owners = s.owners := rfl
@[simp] theorem updPart_ownPend (s : State) (f : PartSt → PartSt) : (updPart s f).ownPend = s.ownPend := rfl
@[simp] theorem updPart_link (s : State) (f : PartSt → PartSt) : (updPart s f).link = s.link := rfl
@[simp] theorem updPart_guards (s : State) (f : PartSt → PartSt) : (updPart s f).guards = s.guards := rfl
@[simp] theorem updPart_hurdles (s : State) (f : PartSt → PartSt) : (updPart s f).hurdles = s.hurdles := rfl
@[simp] theorem updPart_dump (s : State) (f : PartSt → PartSt) : (updPart s f).dump = s.dump := rfl
@[simp] theorem updPart_host (s : State) (f : PartSt → PartSt) : (updPart s f).host = s.host := rfl
@[simp] theorem updPart_side (s : State) (f : PartSt → PartSt) : (updPart s f).side = s.side := rfl
@[simp] theorem updPart_boot (s : State) (f : PartSt → PartSt) : (updPart s f).boot = s.boot := rfl
@[simp] theorem updPart_spdm (s : State) (f : PartSt → PartSt) : (updPart s f).spdm = s.spdm := rfl
@[simp] theorem updPart_snap (s : State) (f : PartSt → PartSt) : (updPart s f).snap = s.snap := rfl
@[simp] theorem updPart_trk (s : State) (f : PartSt → PartSt) : (updPart s f).trk = s.trk := rfl
@[simp] theorem updPart_lapLog (s : State) (f : PartSt → PartSt) : (updPart s f).lapLog = s.lapLog := rfl
@[simp] theorem updPart_digests (s : State) (f : PartSt → PartSt) : (updPart s f).digests = s.digests := rfl
@[simp] theorem updPart_pins (s : State) (f : PartSt → PartSt) : (updPart s f).pins = s.pins := rfl
@[simp] theorem updPart_out (s : State) (f : PartSt → PartSt) : (updPart s f).out = s.out := rfl
@[simp] theorem updPart_freeCtr (s : State) (f : PartSt → PartSt) : (updPart s f).freeCtr = s.freeCtr := rfl
@[simp] theorem updPart_pending (s : State) (f : PartSt → PartSt) : (updPart s f).pending = s.pending := rfl
@[simp] theorem getCore_updPart (s : State) (f : PartSt → PartSt) (v : Nat) : getCore (updPart s f) v = getCore s v := rfl
@[simp] theorem getRegion_updPart (s : State) (f : PartSt → PartSt) (v : Nat) : getRegion (updPart s f) v = getRegion s v := rfl
@[simp] theorem getBlock_updPart (s : State) (f : PartSt → PartSt) (v : Nat) : getBlock (updPart s f) v = getBlock s v := rfl
@[simp] theorem fget_updPart (s : State) (f : PartSt → PartSt) (h : Fld) (i j : Nat) : fget (updPart s f) h i j = fget s h i j := rfl

/-! ## emit -/

@[simp] theorem emit_fuses (s : State) (o : Output) : (emit s o).fuses = s.fuses := rfl
@[simp] theorem emit_flds (s : State) (o : Output) : (emit s o).flds = s.flds := rfl
@[simp] theorem emit_shadows (s : State) (o : Output) : (emit s o).shadows = s.shadows := rfl
@[simp] theorem emit_lap (s : State) (o : Output) : (emit s o).lap = s.lap := rfl
@[simp] theorem emit_pacer (s : State) (o : Output) : (emit s o).pacer = s.pacer := rfl
@[simp] theorem emit_graphs (s : State) (o : Output) : (emit s o).graphs = s.graphs := rfl
@[simp] theorem emit_cores (s : State) (o : Output) : (emit s o).cores = s.cores := rfl
@[simp] theorem emit_regions (s : State) (o : Output) : (emit s o).regions = s.regions := rfl
@[simp] theorem emit_blocks (s : State) (o : Output) : (emit s o).blocks = s.blocks := rfl
@[simp] theorem emit_owners (s : State) (o : Output) : (emit s o).owners = s.owners := rfl
@[simp] theorem emit_ownPend (s : State) (o : Output) : (emit s o).ownPend = s.ownPend := rfl
@[simp] theorem emit_link (s : State) (o : Output) : (emit s o).link = s.link := rfl
@[simp] theorem emit_guards (s : State) (o : Output) : (emit s o).guards = s.guards := rfl
@[simp] theorem emit_hurdles (s : State) (o : Output) : (emit s o).hurdles = s.hurdles := rfl
@[simp] theorem emit_dump (s : State) (o : Output) : (emit s o).dump = s.dump := rfl
@[simp] theorem emit_part (s : State) (o : Output) : (emit s o).part = s.part := rfl
@[simp] theorem emit_host (s : State) (o : Output) : (emit s o).host = s.host := rfl
@[simp] theorem emit_side (s : State) (o : Output) : (emit s o).side = s.side := rfl
@[simp] theorem emit_boot (s : State) (o : Output) : (emit s o).boot = s.boot := rfl
@[simp] theorem emit_spdm (s : State) (o : Output) : (emit s o).spdm = s.spdm := rfl
@[simp] theorem emit_snap (s : State) (o : Output) : (emit s o).snap = s.snap := rfl
@[simp] theorem emit_trk (s : State) (o : Output) : (emit s o).trk = s.trk := rfl
@[simp] theorem emit_lapLog (s : State) (o : Output) : (emit s o).lapLog = s.lapLog := rfl
@[simp] theorem emit_digests (s : State) (o : Output) : (emit s o).digests = s.digests := rfl
@[simp] theorem emit_pins (s : State) (o : Output) : (emit s o).pins = s.pins := rfl
@[simp] theorem emit_freeCtr (s : State) (o : Output) : (emit s o).freeCtr = s.freeCtr := rfl
@[simp] theorem emit_pending (s : State) (o : Output) : (emit s o).pending = s.pending := rfl
@[simp] theorem getCore_emit (s : State) (o : Output) (v : Nat) : getCore (emit s o) v = getCore s v := rfl
@[simp] theorem getRegion_emit (s : State) (o : Output) (v : Nat) : getRegion (emit s o) v = getRegion s v := rfl
@[simp] theorem getBlock_emit (s : State) (o : Output) (v : Nat) : getBlock (emit s o) v = getBlock s v := rfl
@[simp] theorem fget_emit (s : State) (o : Output) (h : Fld) (i j : Nat) : fget (emit s o) h i j = fget s h i j := rfl

/-! ## fput -/

@[simp] theorem fput_fuses (s : State) (f : Fld) (x y w : Nat) : (fput s f x y w).fuses = s.fuses := rfl
@[simp] theorem fput_shadows (s : State) (f : Fld) (x y w : Nat) : (fput s f x y w).shadows = s.shadows := rfl
@[simp] theorem fput_lap (s : State) (f : Fld) (x y w : Nat) : (fput s f x y w).lap = s.lap := rfl
@[simp] theorem fput_pacer (s : State) (f : Fld) (x y w : Nat) : (fput s f x y w).pacer = s.pacer := rfl
@[simp] theorem fput_graphs (s : State) (f : Fld) (x y w : Nat) : (fput s f x y w).graphs = s.graphs := rfl
@[simp] theorem fput_cores (s : State) (f : Fld) (x y w : Nat) : (fput s f x y w).cores = s.cores := rfl
@[simp] theorem fput_regions (s : State) (f : Fld) (x y w : Nat) : (fput s f x y w).regions = s.regions := rfl
@[simp] theorem fput_blocks (s : State) (f : Fld) (x y w : Nat) : (fput s f x y w).blocks = s.blocks := rfl
@[simp] theorem fput_owners (s : State) (f : Fld) (x y w : Nat) : (fput s f x y w).owners = s.owners := rfl
@[simp] theorem fput_ownPend (s : State) (f : Fld) (x y w : Nat) : (fput s f x y w).ownPend = s.ownPend := rfl
@[simp] theorem fput_link (s : State) (f : Fld) (x y w : Nat) : (fput s f x y w).link = s.link := rfl
@[simp] theorem fput_guards (s : State) (f : Fld) (x y w : Nat) : (fput s f x y w).guards = s.guards := rfl
@[simp] theorem fput_hurdles (s : State) (f : Fld) (x y w : Nat) : (fput s f x y w).hurdles = s.hurdles := rfl
@[simp] theorem fput_dump (s : State) (f : Fld) (x y w : Nat) : (fput s f x y w).dump = s.dump := rfl
@[simp] theorem fput_part (s : State) (f : Fld) (x y w : Nat) : (fput s f x y w).part = s.part := rfl
@[simp] theorem fput_host (s : State) (f : Fld) (x y w : Nat) : (fput s f x y w).host = s.host := rfl
@[simp] theorem fput_side (s : State) (f : Fld) (x y w : Nat) : (fput s f x y w).side = s.side := rfl
@[simp] theorem fput_boot (s : State) (f : Fld) (x y w : Nat) : (fput s f x y w).boot = s.boot := rfl
@[simp] theorem fput_spdm (s : State) (f : Fld) (x y w : Nat) : (fput s f x y w).spdm = s.spdm := rfl
@[simp] theorem fput_snap (s : State) (f : Fld) (x y w : Nat) : (fput s f x y w).snap = s.snap := rfl
@[simp] theorem fput_trk (s : State) (f : Fld) (x y w : Nat) : (fput s f x y w).trk = s.trk := rfl
@[simp] theorem fput_lapLog (s : State) (f : Fld) (x y w : Nat) : (fput s f x y w).lapLog = s.lapLog := rfl
@[simp] theorem fput_digests (s : State) (f : Fld) (x y w : Nat) : (fput s f x y w).digests = s.digests := rfl
@[simp] theorem fput_pins (s : State) (f : Fld) (x y w : Nat) : (fput s f x y w).pins = s.pins := rfl
@[simp] theorem fput_out (s : State) (f : Fld) (x y w : Nat) : (fput s f x y w).out = s.out := rfl
@[simp] theorem fput_freeCtr (s : State) (f : Fld) (x y w : Nat) : (fput s f x y w).freeCtr = s.freeCtr := rfl
@[simp] theorem fput_pending (s : State) (f : Fld) (x y w : Nat) : (fput s f x y w).pending = s.pending := rfl
@[simp] theorem getCore_fput (s : State) (f : Fld) (x y w : Nat) (v : Nat) : getCore (fput s f x y w) v = getCore s v := rfl
@[simp] theorem getRegion_fput (s : State) (f : Fld) (x y w : Nat) (v : Nat) : getRegion (fput s f x y w) v = getRegion s v := rfl
@[simp] theorem getBlock_fput (s : State) (f : Fld) (x y w : Nat) (v : Nat) : getBlock (fput s f x y w) v = getBlock s v := rfl

/-! ## fbump -/

@[simp] theorem fbump_fuses (s : State) (f : Fld) (x y k : Nat) : (fbump s f x y k).fuses = s.fuses := rfl
@[simp] theorem fbump_shadows (s : State) (f : Fld) (x y k : Nat) : (fbump s f x y k).shadows = s.shadows := rfl
@[simp] theorem fbump_lap (s : State) (f : Fld) (x y k : Nat) : (fbump s f x y k).lap = s.lap := rfl
@[simp] theorem fbump_pacer (s : State) (f : Fld) (x y k : Nat) : (fbump s f x y k).pacer = s.pacer := rfl
@[simp] theorem fbump_graphs (s : State) (f : Fld) (x y k : Nat) : (fbump s f x y k).graphs = s.graphs := rfl
@[simp] theorem fbump_cores (s : State) (f : Fld) (x y k : Nat) : (fbump s f x y k).cores = s.cores := rfl
@[simp] theorem fbump_regions (s : State) (f : Fld) (x y k : Nat) : (fbump s f x y k).regions = s.regions := rfl
@[simp] theorem fbump_blocks (s : State) (f : Fld) (x y k : Nat) : (fbump s f x y k).blocks = s.blocks := rfl
@[simp] theorem fbump_owners (s : State) (f : Fld) (x y k : Nat) : (fbump s f x y k).owners = s.owners := rfl
@[simp] theorem fbump_ownPend (s : State) (f : Fld) (x y k : Nat) : (fbump s f x y k).ownPend = s.ownPend := rfl
@[simp] theorem fbump_link (s : State) (f : Fld) (x y k : Nat) : (fbump s f x y k).link = s.link := rfl
@[simp] theorem fbump_guards (s : State) (f : Fld) (x y k : Nat) : (fbump s f x y k).guards = s.guards := rfl
@[simp] theorem fbump_hurdles (s : State) (f : Fld) (x y k : Nat) : (fbump s f x y k).hurdles = s.hurdles := rfl
@[simp] theorem fbump_dump (s : State) (f : Fld) (x y k : Nat) : (fbump s f x y k).dump = s.dump := rfl
@[simp] theorem fbump_part (s : State) (f : Fld) (x y k : Nat) : (fbump s f x y k).part = s.part := rfl
@[simp] theorem fbump_host (s : State) (f : Fld) (x y k : Nat) : (fbump s f x y k).host = s.host := rfl
@[simp] theorem fbump_side (s : State) (f : Fld) (x y k : Nat) : (fbump s f x y k).side = s.side := rfl
@[simp] theorem fbump_boot (s : State) (f : Fld) (x y k : Nat) : (fbump s f x y k).boot = s.boot := rfl
@[simp] theorem fbump_spdm (s : State) (f : Fld) (x y k : Nat) : (fbump s f x y k).spdm = s.spdm := rfl
@[simp] theorem fbump_snap (s : State) (f : Fld) (x y k : Nat) : (fbump s f x y k).snap = s.snap := rfl
@[simp] theorem fbump_trk (s : State) (f : Fld) (x y k : Nat) : (fbump s f x y k).trk = s.trk := rfl
@[simp] theorem fbump_lapLog (s : State) (f : Fld) (x y k : Nat) : (fbump s f x y k).lapLog = s.lapLog := rfl
@[simp] theorem fbump_digests (s : State) (f : Fld) (x y k : Nat) : (fbump s f x y k).digests = s.digests := rfl
@[simp] theorem fbump_pins (s : State) (f : Fld) (x y k : Nat) : (fbump s f x y k).pins = s.pins := rfl
@[simp] theorem fbump_out (s : State) (f : Fld) (x y k : Nat) : (fbump s f x y k).out = s.out := rfl
@[simp] theorem fbump_freeCtr (s : State) (f : Fld) (x y k : Nat) : (fbump s f x y k).freeCtr = s.freeCtr := rfl
@[simp] theorem fbump_pending (s : State) (f : Fld) (x y k : Nat) : (fbump s f x y k).pending = s.pending := rfl
@[simp] theorem getCore_fbump (s : State) (f : Fld) (x y k : Nat) (v : Nat) : getCore (fbump s f x y k) v = getCore s v := rfl
@[simp] theorem getRegion_fbump (s : State) (f : Fld) (x y k : Nat) (v : Nat) : getRegion (fbump s f x y k) v = getRegion s v := rfl
@[simp] theorem getBlock_fbump (s : State) (f : Fld) (x y k : Nat) (v : Nat) : getBlock (fbump s f x y k) v = getBlock s v := rfl

/-! ## drawFree -/

@[simp] theorem drawFree_fuses (s : State) : (drawFree s).2.fuses = s.fuses := rfl
@[simp] theorem drawFree_flds (s : State) : (drawFree s).2.flds = s.flds := rfl
@[simp] theorem drawFree_shadows (s : State) : (drawFree s).2.shadows = s.shadows := rfl
@[simp] theorem drawFree_lap (s : State) : (drawFree s).2.lap = s.lap := rfl
@[simp] theorem drawFree_pacer (s : State) : (drawFree s).2.pacer = s.pacer := rfl
@[simp] theorem drawFree_graphs (s : State) : (drawFree s).2.graphs = s.graphs := rfl
@[simp] theorem drawFree_cores (s : State) : (drawFree s).2.cores = s.cores := rfl
@[simp] theorem drawFree_regions (s : State) : (drawFree s).2.regions = s.regions := rfl
@[simp] theorem drawFree_blocks (s : State) : (drawFree s).2.blocks = s.blocks := rfl
@[simp] theorem drawFree_owners (s : State) : (drawFree s).2.owners = s.owners := rfl
@[simp] theorem drawFree_ownPend (s : State) : (drawFree s).2.ownPend = s.ownPend := rfl
@[simp] theorem drawFree_link (s : State) : (drawFree s).2.link = s.link := rfl
@[simp] theorem drawFree_guards (s : State) : (drawFree s).2.guards = s.guards := rfl
@[simp] theorem drawFree_hurdles (s : State) : (drawFree s).2.hurdles = s.hurdles := rfl
@[simp] theorem drawFree_dump (s : State) : (drawFree s).2.dump = s.dump := rfl
@[simp] theorem drawFree_part (s : State) : (drawFree s).2.part = s.part := rfl
@[simp] theorem drawFree_host (s : State) : (drawFree s).2.host = s.host := rfl
@[simp] theorem drawFree_side (s : State) : (drawFree s).2.side = s.side := rfl
@[simp] theorem drawFree_boot (s : State) : (drawFree s).2.boot = s.boot := rfl
@[simp] theorem drawFree_spdm (s : State) : (drawFree s).2.spdm = s.spdm := rfl
@[simp] theorem drawFree_snap (s : State) : (drawFree s).2.snap = s.snap := rfl
@[simp] theorem drawFree_trk (s : State) : (drawFree s).2.trk = s.trk := rfl
@[simp] theorem drawFree_lapLog (s : State) : (drawFree s).2.lapLog = s.lapLog := rfl
@[simp] theorem drawFree_digests (s : State) : (drawFree s).2.digests = s.digests := rfl
@[simp] theorem drawFree_pins (s : State) : (drawFree s).2.pins = s.pins := rfl
@[simp] theorem drawFree_out (s : State) : (drawFree s).2.out = s.out := rfl
@[simp] theorem drawFree_pending (s : State) : (drawFree s).2.pending = s.pending := rfl
@[simp] theorem drawFree_freeCtr (s : State) : (drawFree s).2.freeCtr = s.freeCtr + 1 := rfl

/-! ## What an update writes -/

@[simp] theorem getCore_setCore_self (s : State) (u : Nat) (c : Core) : getCore (setCore s u c) u = c := by
  simp [getCore, setCore]

theorem getCore_setCore (s : State) (u v : Nat) (c : Core) : getCore (setCore s u c) v = if v = u then c else getCore s v := by
  simp [getCore, setCore, tabGet_tabSet]

@[simp] theorem setCore_setCore (s : State) (u : Nat) (c d : Core) : setCore (setCore s u c) u d = setCore s u d := by
  simp [setCore]

@[simp] theorem getCore_updCore_self (s : State) (u : Nat) (f : Core → Core) : getCore (updCore s u f) u = f (getCore s u) := by
  simp [updCore]

theorem getCore_updCore_ne (s : State) {u v : Nat} (f : Core → Core) (h : v ≠ u) : getCore (updCore s u f) v = getCore s v := by
  simp [updCore, getCore_setCore, h]

@[simp] theorem getRegion_setRegion_self (s : State) (r : Nat) (x : Region) : getRegion (setRegion s r x) r = x := by
  simp [getRegion, setRegion]

theorem getRegion_setRegion (s : State) (r q : Nat) (x : Region) : getRegion (setRegion s r x) q = if q = r then x else getRegion s q := by
  simp [getRegion, setRegion, tabGet_tabSet]

@[simp] theorem setRegion_setRegion (s : State) (r : Nat) (x y : Region) : setRegion (setRegion s r x) r y = setRegion s r y := by
  simp [setRegion]

@[simp] theorem getRegion_updRegion_self (s : State) (r : Nat) (f : Region → Region) : getRegion (updRegion s r f) r = f (getRegion s r) := by
  simp [updRegion]

theorem getRegion_updRegion_ne (s : State) {r q : Nat} (f : Region → Region) (h : q ≠ r) :
    getRegion (updRegion s r f) q = getRegion s q := by
  simp [updRegion, getRegion_setRegion, h]

@[simp] theorem getBlock_setBlock_self (s : State) (b : Nat) (x : Block) : getBlock (setBlock s b x) b = x := by
  simp [getBlock, setBlock]

theorem getBlock_setBlock (s : State) (b q : Nat) (x : Block) : getBlock (setBlock s b x) q = if q = b then x else getBlock s q := by
  simp [getBlock, setBlock, tabGet_tabSet]

@[simp] theorem setBlock_setBlock (s : State) (b : Nat) (x y : Block) : setBlock (setBlock s b x) b y = setBlock s b y := by
  simp [setBlock]

@[simp] theorem getBlock_updBlock_self (s : State) (b : Nat) (f : Block → Block) : getBlock (updBlock s b f) b = f (getBlock s b) := by
  simp [updBlock]

theorem getBlock_updBlock_ne (s : State) {b q : Nat} (f : Block → Block) (h : q ≠ b) : getBlock (updBlock s b f) q = getBlock s q := by
  simp [updBlock, getBlock_setBlock, h]

@[simp] theorem updLap_lap (s : State) (f : LapSt → LapSt) : (updLap s f).lap = f s.lap := rfl
@[simp] theorem updHost_host (s : State) (f : HostSt → HostSt) : (updHost s f).host = f s.host := rfl
@[simp] theorem updPart_part (s : State) (f : PartSt → PartSt) : (updPart s f).part = f s.part := rfl
@[simp] theorem emit_out (s : State) (o : Output) : (emit s o).out = o :: s.out := rfl

/-! ## Fields of registers -/

@[simp] theorem voteTri_triOf (v : Nat) : voteTri (triOf v) = v := by simp [voteTri, triOf]

/-- A field reads what was written, cut to its width. -/
@[simp] theorem fget_fput_self (s : State) (f : Fld) (x y v : Nat) : fget (fput s f x y v) f x y = v % 2 ^ f.width := by
  simp [fget, fput]

/-- A write of one field leaves every other field alone. -/
theorem fget_fput_ne (s : State) (f g : Fld) (x y i j v : Nat) (h : fldKey g i j ≠ fldKey f x y) :
    fget (fput s f x y v) g i j = fget s g i j := by
  unfold fget fput
  simp [tabGet_tabSet_other _ _ _ _ h]

end Sys2Proof.Machine
end

