-- ==== Sys2Proof/Laws/Sequencer.lean ====
section
/-! SUPPORT. Laws of issue, of a field's run and of a halt: what each shared step answers, said once. -/

namespace Sys2Proof.Machine

open Sys2Proof.Safety

/-- What a word at the pc says of its sequencer. -/
theorem curWord_some {s : State} {u w : Nat} (h : curWord s u = some w) :
    s.part.thermTrip = false ∧ (getCore s u).seq.st = .running ∧ (getCore s u).seq.ended = false ∧
      (getCore s u).seq.pc < (getCore s u).seq.progWords ∧ tabGet 0 (getCore s u).seq.cstore (getCore s u).seq.pc = w := by
  simp only [curWord] at h
  split at h
  · rename_i g; simp at g h; exact ⟨g.1, g.2.1, by simpa using g.2.2.1, g.2.2.2, h⟩
  · simp at h

theorem issueWord_go {s t : State} {u w : Nat} {mine op} (h : mayIssue s u w) (hm : mine w = true) (ho : op s w = .go t) :
    issueWord s u mine op = issued t u w (getCore s u).seq.pc := by
  obtain ⟨h1, h2, h3, h4⟩ := h
  simp [issueWord, h1, hm, h2, h3, h4, ho, issued]

theorem issueWord_halt {s t : State} {u w r d : Nat} {mine op} (h : mayIssue s u w) (hm : mine w = true) (ho : op s w = .halt t r d) :
    issueWord s u mine op = haltUnit t u r 0 (getCore s u).seq.pc d := by
  obtain ⟨h1, h2, h3, h4⟩ := h
  simp [issueWord, h1, hm, h2, h3, h4, ho]

/-- A word whose operation stalls leaves the state that the operation gave. -/
theorem issueWord_stall {s t : State} {u w : Nat} {mine op} (h : mayIssue s u w) (hm : mine w = true) (ho : op s w = .stall t) :
    issueWord s u mine op = t := by
  obtain ⟨h1, h2, h3, h4⟩ := h
  simp [issueWord, h1, hm, h2, h3, h4, ho]

theorem issueNop_eq {s : State} {u w : Nat} (h : mayIssue s u w) (h0 : qSop w = 0) :
    issueNop s u = issued (stepPc s u) u w (getCore s u).seq.pc := by
  have hc := curWord_some h.1
  have : ¬ (s.part.thermTrip = false ∧ (getCore s u).seq.st = .running ∧ ((!(getCore s u).seq.ended) = true) ∧
    (getCore s u).seq.progWords ≤ (getCore s u).seq.pc) := by omega
  simp only [issueNop, this, if_false]
  exact issueWord_go h (by simp [h0]) rfl

theorem updSeq_const (s : State) (u : Nat) (f g : Seq → Seq) (h : f (getCore s u).seq = g (getCore s u).seq) : updSeq s u f = updSeq s u g := by
  simp [updSeq, updCore, h]

theorem updSeq_updSeq (s : State) (u : Nat) (f g : Seq → Seq) : updSeq (updSeq s u f) u g = updSeq s u (fun q => g (f q)) := by
  simp [updSeq, updCore]

theorem condHolds_iff (k : Nat) (s i : Word) : condHolds k s i = true ↔ condRel k s i := by
  unfold condHolds condRel
  split <;> simp [BitVec.slt, BitVec.ult]

theorem tumDrop_none (s : State) (u : Nat) (h : (getCore s u).seq.tumPending = none) : tumDrop s u = s := by simp [tumDrop, h]

theorem tabGet_map {α β : Type} (d : α) (e : β) (t : Tab α) (f : α → β) (k : Nat) (hd : f d = e) :
    tabGet e (t.map fun x => (x.1, f x.2)) k = f (tabGet d t k) := by
  induction t with
  | nil => simp [tabGet, hd]
  | cons x t ih => obtain ⟨a, b⟩ := x; by_cases h : a = k <;> simp [tabGet, h, ih]

theorem queue_items_filter (t : Tab Queue) (p : Nat × Queue → Bool) (k : Nat) (h : ∀ e ∈ t, e.2.items = []) :
    (tabGet queueReset (t.filter p) k).items = [] := by
  induction t with
  | nil => rfl
  | cons e t ih =>
    have h1 := h e (by simp)
    have h2 := ih (fun e he => h e (by simp [he]))
    obtain ⟨a, b⟩ := e
    by_cases hp : p (a, b) = true
    · by_cases hk : a = k
      · subst hk; simp [List.filter, hp, tabGet]; exact h1
      · simp [List.filter, hp, tabGet, hk]; exact h2
    · simp [List.filter, hp]; exact h2

theorem runField_notMine (s : State) (u eng : Nat) (mine op) (h : ∀ f rest, getFq (getCore s u) eng = f :: rest → mine f.bits = false) :
    runField s u eng mine op = s := by
  unfold runField
  dsimp only
  split
  · rfl
  · split
    · rfl
    · rename_i f rest hq
      simp [h f rest hq]

theorem drainNops_idle (u : Nat) (s : State) (l : List Nat)
    (h : ∀ eng ∈ l, ∀ f rest, getFq (getCore s u) eng = f :: rest → nopField eng f.bits = false) : drainNops u l s = s := by
  induction l with
  | nil => rfl
  | cons e l ih =>
    simp only [drainNops]
    rw [runField_notMine _ _ _ _ _ (h e (by simp))]
    exact ih (fun eng he => h eng (by simp [he]))

theorem settleNops_idle (u : Nat) (s : State)
    (h : ∀ eng ∈ nopEngines, ∀ f rest, getFq (getCore s u) eng = f :: rest → nopField eng f.bits = false) : settleNops s u = s := by
  simp [settleNops, drainNops_idle u s _ h]

theorem getFq_pushFq (c : Core) (e k : Nat) (f : QField) : getFq (pushFq c e f) k = if k = e then getFq c e ++ [f] else getFq c k := by
  simp only [pushFq, setFq, getFq, tabGet_tabSet]

/-- What joins each field queue. -/
theorem getFq_fold (l : List (Nat × Nat)) (g : Nat × Nat → QField) (c : Core) (k : Nat) :
    getFq (l.foldl (fun c p => pushFq c p.1 (g p)) c) k = getFq c k ++ (l.filter (fun p => p.1 = k)).map g := by
  induction l generalizing c with
  | nil => simp
  | cons p l ih =>
    rw [List.foldl_cons, ih, getFq_pushFq]
    by_cases h : k = p.1
    · simp [h, List.filter]
    · simp [h, Ne.symm h, List.filter]

theorem foldPush_frame (l : List (Nat × Nat)) (g : Nat × Nat → QField) (c : Core) :
    l.foldl (fun c p => pushFq c p.1 (g p)) c = { c with fq := (l.foldl (fun c p => pushFq c p.1 (g p)) c).fq } := by
  induction l generalizing c with
  | nil => rfl
  | cons p l ih => rw [List.foldl_cons, ih]; rfl

theorem bindQ_frame (c : Core) (q e : Nat) (b : Bool) :
    (bindQ c q e b).1 = { c with queues := (bindQ c q e b).1.queues } ∧ ∀ k, (getQ (bindQ c q e b).1 k).items = (getQ c k).items := by
  unfold bindQ
  dsimp only
  split
  · simp
  · refine ⟨rfl, fun k => ?_⟩
    simp only [getQ, setQ, tabGet_tabSet]
    split
    · rename_i hk; subst hk; split <;> rfl
    · rfl

theorem bindAll_frame (e : Nat) (l : List (Nat × Bool)) (c : Core) :
    (bindAll e l c).1 = { c with queues := (bindAll e l c).1.queues } ∧ ∀ k, (getQ (bindAll e l c).1 k).items = (getQ c k).items := by
  induction l generalizing c with
  | nil => simp [bindAll]
  | cons p l ih =>
    obtain ⟨q, b⟩ := p
    have hb := bindQ_frame c q e b
    unfold bindAll
    split
    · rename_i c1 h1
      rw [h1] at hb
      have := ih c1
      refine ⟨?_, fun k => (this.2 k).trans (hb.2 k)⟩
      rw [this.1]; simp only at hb; rw [hb.1]
    · rename_i c1 x h1
      rw [h1] at hb; exact hb

theorem bindWord_frame (l : List (Nat × Nat)) (c : Core) :
    (bindWord l c).1 = { c with queues := (bindWord l c).1.queues } ∧ ∀ k, (getQ (bindWord l c).1 k).items = (getQ c k).items := by
  induction l generalizing c with
  | nil => simp [bindWord]
  | cons p l ih =>
    obtain ⟨q, b⟩ := p
    unfold bindWord
    simp only
    have hb := bindAll_frame q (if 6 ≤ q ∧ q ≤ 13 then [] else (fieldIn q b).map (fun q => (q, true)) ++ (fieldOut q b).map (fun q => (q, false))) c
    split
    · rename_i c1 h1
      rw [h1] at hb
      have := ih c1
      refine ⟨?_, fun k => (this.2 k).trans (hb.2 k)⟩
      rw [this.1]; simp only at hb; rw [hb.1]
    · rename_i c1 x h1
      rw [h1] at hb; exact hb

/-- A core after the fields of a word have joined their queues. -/
def joined (c : Core) (w pc : Nat) : Core :=
  let d := (activeFields w).foldl (fun d p => pushFq d p.1 ⟨p.2, pc, (bindWord (activeFields w) c).1.seq.issueNo⟩) (bindWord (activeFields w) c).1
  { d with seq := { d.seq with issueNo := d.seq.issueNo + 1 } }

theorem enqueue_eq (t : State) (u w pc : Nat) : enqueueFields t u w pc = setCore t u (joined (getCore t u) w pc) := by
  have key : ∀ (l : List (Nat × Nat)) (c : Core) (n : Nat), c.seq.issueNo = n →
      l.foldl (fun (c : Core) p => pushFq c p.1 ⟨p.2, pc, c.seq.issueNo⟩) c = l.foldl (fun c p => pushFq c p.1 ⟨p.2, pc, n⟩) c := by
    intro l
    induction l with
    | nil => intros; rfl
    | cons p l ih => intro c n h; rw [List.foldl_cons, List.foldl_cons, h]; exact ih _ n h
  simp only [enqueueFields, updCore, joined]
  rw [key _ _ _ rfl]

theorem joined_facts (c : Core) (w pc : Nat) :
    let d := joined c w pc
    d = { c with seq := d.seq, fq := d.fq, queues := d.queues } ∧ (∀ q, (getQ d q).items = (getQ c q).items) ∧
    d.seq = { c.seq with issueNo := c.seq.issueNo + 1 } ∧
    ∀ k, getFq d k = getFq c k ++ ((activeFields w).filter (fun p => p.1 = k)).map (fun p => ⟨p.2, pc, c.seq.issueNo⟩) := by
  have hb := bindWord_frame (activeFields w) c
  have hf := foldPush_frame (activeFields w) (fun p => ⟨p.2, pc, (bindWord (activeFields w) c).1.seq.issueNo⟩) (bindWord (activeFields w) c).1
  have hk := getFq_fold (activeFields w) (fun p => ⟨p.2, pc, (bindWord (activeFields w) c).1.seq.issueNo⟩) (bindWord (activeFields w) c).1
  have hseq : (bindWord (activeFields w) c).1.seq = c.seq := by rw [hb.1]
  have hfq : (bindWord (activeFields w) c).1.fq = c.fq := by rw [hb.1]
  refine ⟨?_, ?_, ?_, ?_⟩
  · simp only [joined]; rw [hf, hb.1]
  · intro q
    rw [← hb.2 q]
    simp only [joined]; rw [hf]; rfl
  · simp only [joined]; rw [hf]; simp only [hseq]
  · intro k
    have := hk k
    simp only [joined, getFq] at this ⊢
    rw [this, hseq, hfq]

theorem nbit_eq_getLsbD {n : Nat} (x : BitVec n) (i : Nat) : nbit x.toNat i = x.getLsbD i := by
  rw [BitVec.getLsbD, Nat.testBit_eq_decide_div_mod_eq, nbit]
  by_cases h : x.toNat / 2 ^ i % 2 = 1 <;> simp [h]

/-- A sequencer with its wait flags clear. -/
def waitsClear (q : Seq) : Seq := { q with waitSb := false, waitSum := false, waitTum := false, qFull := false }

end Sys2Proof.Machine
end

