-- ==== Sys2Proof/Laws/Engines.lean ====
section
/-! SUPPORT. Laws of queues and of a field's run: what TAKE, PUT, a pop and a push change, and what a field that runs leaves. -/

namespace Sys2Proof.Machine

open Sys2Proof.Safety

/-! ## Queue operations change only the queues -/

theorem setQ_frame (c : Core) (q : Nat) (x : Queue) : setQ c q x = { c with queues := (setQ c q x).queues } := rfl

theorem popBeat_frame {c d : Core} {q : Nat} {bs : Bytes} (h : popBeat c q = .beat bs d) : d = { c with queues := d.queues } := by
  unfold popBeat at h
  dsimp only at h
  split at h
  · injection h with h1 h2; subst h2; rfl
  · simp at h
  · simp at h

theorem pushQ_frame {c d : Core} {q : Nat} {i : QItem} (h : pushQ c q i = some d) : d = { c with queues := d.queues } := by
  unfold pushQ at h
  dsimp only at h
  split at h
  · injection h with h; subst h; rfl
  · simp at h

theorem pushAll_frame {c d : Core} {q : Nat} {l : List QItem} (h : pushAll c q l = some d) : d = { c with queues := d.queues } := by
  induction l generalizing c with
  | nil => injection h with h; subst h; rfl
  | cons i l ih =>
    unfold pushAll at h
    split at h
    · rename_i c1 h1
      have := ih h
      rw [this, pushQ_frame h1]
    · simp at h

theorem takeBaton_frame {c d : Core} {b : Nat} (h : takeBaton c b = .ok d) : d = { c with queues := d.queues } := by
  unfold takeBaton at h
  dsimp only at h
  split at h
  · split at h
    · simp at h
    · split at h
      · injection h with h; subst h; rfl
      · simp at h
    · simp at h
  · injection h with h; subst h; rfl

theorem putBaton_frame {c d : Core} {b : Nat} (h : putBaton c b = .ok d) : d = { c with queues := d.queues } := by
  unfold putBaton at h
  split at h
  · split at h
    · rename_i c1 h1
      injection h with h; subst h; exact pushQ_frame h1
    · simp at h
  · injection h with h; subst h; rfl

theorem putBaton_of_not {c : Core} {b : Nat} (h : nbit b 1 = false) : putBaton c b = .ok c := by simp [putBaton, h]

/-! ## Counters and units change apart -/

theorem fput_setCore (s : State) (f : Fld) (x y v u : Nat) (c : Core) : fput (setCore s u c) f x y v = setCore (fput s f x y v) u c := rfl
theorem fbump_setCore (s : State) (f : Fld) (x y k u : Nat) (c : Core) : fbump (setCore s u c) f x y k = setCore (fbump s f x y k) u c := rfl
theorem countArray_setCore (s : State) (u k v : Nat) (c : Core) : countArray (setCore s v c) u k = setCore (countArray s u k) v c := rfl

/-! ## The run of a field -/

theorem runField_ok {s : State} {u eng : Nat} {mine op} {f : QField} {rest : List QField} {c1 c2 c3 : Core} (h : fieldAt s u eng f rest)
    (hm : mine f.bits = true) (ht : takeBaton (getCore s u) f.bits = .ok c1) (ho : op c1 f.bits = .ok c2)
    (hp : putBaton c2 f.bits = .ok c3) : runField s u eng mine op = retired s u eng rest c3 := by
  simp [runField, h.1, h.2, hm, ht, ho, hp, retired]

theorem runField_halt {s : State} {u eng r d : Nat} {mine op} {f : QField} {rest : List QField} {c1 : Core} (h : fieldAt s u eng f rest)
    (hm : mine f.bits = true) (ht : takeBaton (getCore s u) f.bits = .ok c1) (ho : op c1 f.bits = .halt r d) :
    runField s u eng mine op = haltUnit s u r eng f.pc d := by
  simp [runField, h.1, h.2, hm, ht, ho]

@[simp] theorem getCore_retired_self (s : State) (u eng : Nat) (rest : List QField) (c : Core) :
    getCore (retired s u eng rest c) u = setFq c eng rest := by simp [retired]

@[simp] theorem getFq_setFq_self (c : Core) (eng : Nat) (l : List QField) : getFq (setFq c eng l) eng = l := by simp [getFq, setFq]

/-- A counted field that runs retires and is counted. -/
theorem countedField_ok {s : State} {u eng : Nat} {mine op} {count : State → State} {f : QField} {rest : List QField} {c1 c2 c3 : Core}
    (h : fieldAt s u eng f rest) (hm : mine f.bits = true) (ht : takeBaton (getCore s u) f.bits = .ok c1) (ho : op c1 f.bits = .ok c2)
    (hp : putBaton c2 f.bits = .ok c3) (hr : c3.seq.st = .running) :
    countedField s u eng mine op count = settleNops (count (retired s u eng rest c3)) u := by
  have hl : (getFq (getCore (retired s u eng rest c3) u) eng).length < (getFq (getCore s u) eng).length ∧
      (getCore (retired s u eng rest c3) u).seq.st = .running := by
    simp [h.2]; exact hr
  simp only [countedField]
  rw [runField_ok h hm ht ho hp, if_pos hl]

@[simp] theorem haltCore_st (c : Core) (w : Nat) : (haltCore c w).seq.st = .halted := rfl

end Sys2Proof.Machine
end

