-- ==== Sys2Proof/Laws/Kept.lean ====
section
/-! SUPPORT. What commands leave alone: the fuses, the queue of waiting commands, the lap number and the phase of the lap. One law
per function over the part's state. -/

set_option linter.unusedTactic false
set_option linter.unreachableTactic false

namespace Sys2Proof.Machine

/-- The parts of the state that only a few named commands write. -/
structure KeptPart where
  fuses : Fuses
  pending : List Instr
  num : Nat
  phase : LapPhase

def kept (s : State) : KeptPart := ⟨s.fuses, s.pending, s.lap.num, s.lap.phase⟩

theorem kept_ite {c : Prop} [Decidable c] {a b : State} {k : KeptPart} (ha : kept a = k) (hb : kept b = k) : kept (if c then a else b) = k := by
  split <;> assumption

theorem kept_elim {α : Type} (o : Option α) (s : State) (f : α → State) (h : ∀ a, kept (f a) = kept s) : kept (o.elim s f) = kept s := by
  cases o with
  | none => rfl
  | some a => exact h a

theorem kept_elimTo {α : Type} {o : Option α} {a : State} {f : α → State} {k : KeptPart} (ha : kept a = k) (hf : ∀ x, kept (f x) = k) :
    kept (o.elim a f) = k := by
  cases o with
  | none => exact ha
  | some x => exact hf x

theorem kept_foldl {α : Type} (g : State → α → State) (l : List α) (s : State) (h : ∀ s a, kept (g s a) = kept s) : kept (l.foldl g s) = kept s := by
  induction l generalizing s with
  | nil => rfl
  | cons a l ih => exact (ih _).trans (h s a)

theorem kept_updLap (s : State) (f : LapSt → LapSt) (h1 : (f s.lap).num = s.lap.num) (h2 : (f s.lap).phase = s.lap.phase) :
    kept (updLap s f) = kept s := by
  simp [kept, updLap, h1, h2]

theorem kept_mk (s : State) (flds shadows lp pacer graphs cores regions blocks owners ownPend link guards hurdles dump part host side boot spdm
    snap trk lapLog digests pins out freeCtr) (h1 : lp.num = s.lap.num) (h2 : lp.phase = s.lap.phase) :
    kept (State.mk s.fuses flds shadows lp pacer graphs cores regions blocks owners ownPend link guards hurdles dump part host side boot spdm
      snap trk lapLog digests pins out freeCtr s.pending) = kept s := by
  simp [kept, h1, h2]

def keptOpt (r : Option State) (k : KeptPart) : Prop := match r with | some t => kept t = k | none => True

def keptWr (r : WrRes) (k : KeptPart) : Prop := match r with | .ok t => kept t = k | _ => True
def keptUnit (r : UnitWr) (k : KeptPart) : Prop := match r with | .ok t => kept t = k | _ => True
def keptMv (r : MvRes) (k : KeptPart) : Prop := match r with | .ok t => kept t = k | .wait => True | .halt t _ _ => kept t = k
def keptGen (r : GenRes) (k : KeptPart) : Prop := match r with | .ok t => kept t = k | .halt t _ _ => kept t = k
def keptHinge (r : HingeRes) (k : KeptPart) : Prop := match r with | .ok t => kept t = k | .wait => True | .halt t _ _ => kept t = k
def keptClose (r : CloseRes) (k : KeptPart) : Prop := match r with | .closed t => kept t = k | .busy t => kept t = k | .stop t _ _ => kept t = k
def keptXfer (r : XferRes) (k : KeptPart) : Prop :=
  match r with | .ok t _ => kept t = k | .wait => True | .fail t _ _ _ _ _ => kept t = k | .halt t _ _ => kept t = k
def keptSeq (r : SeqRes) (k : KeptPart) : Prop := match r with | .go t => kept t = k | .stall t => kept t = k | .halt t _ _ => kept t = k
def keptSum (r : State ⊕ Nat) (k : KeptPart) : Prop := match r with | .inl t => kept t = k | .inr _ => True
def keptEcc (r : EccRes) (k : KeptPart) : Prop := match r with | .ok t => kept t = k | .halt t _ _ => kept t = k | .bus t => kept t = k
def keptSrc (r : SrcRes) (k : KeptPart) : Prop := match r with | .ok t => kept t = k | .lost t _ => kept t = k | .halt t _ _ => kept t = k
def keptFrame (r : Option (Nat × State)) (k : KeptPart) : Prop := match r with | some t => kept t.2 = k | none => True

theorem keptOpt_ite {c : Prop} [Decidable c] {a b : Option State} {k : KeptPart} (ha : keptOpt a k) (hb : keptOpt b k) : keptOpt (if c then a else b) k := by
  split <;> assumption
theorem keptOpt_mono {r : Option State} {k k' : KeptPart} (h : keptOpt r k) (e : k = k') : keptOpt r k' := e ▸ h
theorem keptWr_ite {c : Prop} [Decidable c] {a b : WrRes} {k : KeptPart} (ha : keptWr a k) (hb : keptWr b k) : keptWr (if c then a else b) k := by
  split <;> assumption
theorem keptWr_mono {r : WrRes} {k k' : KeptPart} (h : keptWr r k) (e : k = k') : keptWr r k' := e ▸ h
theorem keptUnit_ite {c : Prop} [Decidable c] {a b : UnitWr} {k : KeptPart} (ha : keptUnit a k) (hb : keptUnit b k) : keptUnit (if c then a else b) k := by
  split <;> assumption
theorem keptUnit_mono {r : UnitWr} {k k' : KeptPart} (h : keptUnit r k) (e : k = k') : keptUnit r k' := e ▸ h
theorem keptMv_ite {c : Prop} [Decidable c] {a b : MvRes} {k : KeptPart} (ha : keptMv a k) (hb : keptMv b k) : keptMv (if c then a else b) k := by
  split <;> assumption
theorem keptMv_mono {r : MvRes} {k k' : KeptPart} (h : keptMv r k) (e : k = k') : keptMv r k' := e ▸ h
theorem keptGen_ite {c : Prop} [Decidable c] {a b : GenRes} {k : KeptPart} (ha : keptGen a k) (hb : keptGen b k) : keptGen (if c then a else b) k := by
  split <;> assumption
theorem keptGen_mono {r : GenRes} {k k' : KeptPart} (h : keptGen r k) (e : k = k') : keptGen r k' := e ▸ h
theorem keptHinge_ite {c : Prop} [Decidable c] {a b : HingeRes} {k : KeptPart} (ha : keptHinge a k) (hb : keptHinge b k) : keptHinge (if c then a else b) k := by
  split <;> assumption
theorem keptHinge_mono {r : HingeRes} {k k' : KeptPart} (h : keptHinge r k) (e : k = k') : keptHinge r k' := e ▸ h
theorem keptClose_ite {c : Prop} [Decidable c] {a b : CloseRes} {k : KeptPart} (ha : keptClose a k) (hb : keptClose b k) : keptClose (if c then a else b) k := by
  split <;> assumption
theorem keptClose_mono {r : CloseRes} {k k' : KeptPart} (h : keptClose r k) (e : k = k') : keptClose r k' := e ▸ h
theorem keptXfer_ite {c : Prop} [Decidable c] {a b : XferRes} {k : KeptPart} (ha : keptXfer a k) (hb : keptXfer b k) : keptXfer (if c then a else b) k := by
  split <;> assumption
theorem keptXfer_mono {r : XferRes} {k k' : KeptPart} (h : keptXfer r k) (e : k = k') : keptXfer r k' := e ▸ h
theorem keptSeq_ite {c : Prop} [Decidable c] {a b : SeqRes} {k : KeptPart} (ha : keptSeq a k) (hb : keptSeq b k) : keptSeq (if c then a else b) k := by
  split <;> assumption
theorem keptSeq_mono {r : SeqRes} {k k' : KeptPart} (h : keptSeq r k) (e : k = k') : keptSeq r k' := e ▸ h
theorem keptSum_ite {c : Prop} [Decidable c] {a b : State ⊕ Nat} {k : KeptPart} (ha : keptSum a k) (hb : keptSum b k) : keptSum (if c then a else b) k := by
  split <;> assumption
theorem keptSum_mono {r : State ⊕ Nat} {k k' : KeptPart} (h : keptSum r k) (e : k = k') : keptSum r k' := e ▸ h
theorem keptFrame_ite {c : Prop} [Decidable c] {a b : Option (Nat × State)} {k : KeptPart} (ha : keptFrame a k) (hb : keptFrame b k) : keptFrame (if c then a else b) k := by
  split <;> assumption
theorem keptFrame_mono {r : Option (Nat × State)} {k k' : KeptPart} (h : keptFrame r k) (e : k = k') : keptFrame r k' := e ▸ h

theorem keptEcc_ite {c : Prop} [Decidable c] {a b : EccRes} {k : KeptPart} (ha : keptEcc a k) (hb : keptEcc b k) : keptEcc (if c then a else b) k := by
  split <;> assumption
theorem keptEcc_mono {r : EccRes} {k k' : KeptPart} (h : keptEcc r k) (e : k = k') : keptEcc r k' := e ▸ h
theorem keptSrc_ite {c : Prop} [Decidable c] {a b : SrcRes} {k : KeptPart} (ha : keptSrc a k) (hb : keptSrc b k) : keptSrc (if c then a else b) k := by
  split <;> assumption
theorem keptSrc_mono {r : SrcRes} {k k' : KeptPart} (h : keptSrc r k) (e : k = k') : keptSrc r k' := e ▸ h

theorem keptOpt_some {t : State} {k : KeptPart} (h : kept t = k) : keptOpt (some t) k := h
theorem keptWr_ok {t : State} {k : KeptPart} (h : kept t = k) : keptWr (.ok t) k := h
theorem keptUnit_ok {t : State} {k : KeptPart} (h : kept t = k) : keptUnit (.ok t) k := h
theorem keptMv_ok {t : State} {k : KeptPart} (h : kept t = k) : keptMv (.ok t) k := h
theorem keptMv_halt {t : State} {k : KeptPart} {a b : Nat} (h : kept t = k) : keptMv (.halt t a b) k := h
theorem keptGen_ok {t : State} {k : KeptPart} (h : kept t = k) : keptGen (.ok t) k := h
theorem keptGen_halt {t : State} {k : KeptPart} {a b : Nat} (h : kept t = k) : keptGen (.halt t a b) k := h
theorem keptHinge_ok {t : State} {k : KeptPart} (h : kept t = k) : keptHinge (.ok t) k := h
theorem keptHinge_halt {t : State} {k : KeptPart} {a b : Nat} (h : kept t = k) : keptHinge (.halt t a b) k := h
theorem keptClose_closed {t : State} {k : KeptPart} (h : kept t = k) : keptClose (.closed t) k := h
theorem keptClose_busy {t : State} {k : KeptPart} (h : kept t = k) : keptClose (.busy t) k := h
theorem keptClose_stop {t : State} {k : KeptPart} {a b : Nat} (h : kept t = k) : keptClose (.stop t a b) k := h
theorem keptEcc_ok {t : State} {k : KeptPart} (h : kept t = k) : keptEcc (.ok t) k := h
theorem keptEcc_halt {t : State} {k : KeptPart} {a b : Nat} (h : kept t = k) : keptEcc (.halt t a b) k := h
theorem keptEcc_bus {t : State} {k : KeptPart} (h : kept t = k) : keptEcc (.bus t) k := h
theorem keptSrc_ok {t : State} {k : KeptPart} (h : kept t = k) : keptSrc (.ok t) k := h
theorem keptSrc_lost {t : State} {k : KeptPart} {a : Nat} (h : kept t = k) : keptSrc (.lost t a) k := h
theorem keptSrc_halt {t : State} {k : KeptPart} {a b : Nat} (h : kept t = k) : keptSrc (.halt t a b) k := h
theorem keptXfer_ok {t : State} {k : KeptPart} {a : Nat} (h : kept t = k) : keptXfer (.ok t a) k := h
theorem keptXfer_fail {t : State} {k : KeptPart} {a b c d e : Nat} (h : kept t = k) : keptXfer (.fail t a b c d e) k := h
theorem keptXfer_halt {t : State} {k : KeptPart} {a b : Nat} (h : kept t = k) : keptXfer (.halt t a b) k := h
theorem keptSeq_go {t : State} {k : KeptPart} (h : kept t = k) : keptSeq (.go t) k := h
theorem keptSeq_stall {t : State} {k : KeptPart} (h : kept t = k) : keptSeq (.stall t) k := h
theorem keptSeq_halt {t : State} {k : KeptPart} {a b : Nat} (h : kept t = k) : keptSeq (.halt t a b) k := h
theorem keptSum_inl {t : State} {k : KeptPart} (h : kept t = k) : keptSum (.inl t) k := h
theorem keptFrame_some {t : State} {k : KeptPart} {a : Nat} (h : kept t = k) : keptFrame (some (a, t)) k := h

theorem kept_foldlPair {α β : Type} (g : State × β → α → State × β) (l : List α) (r : State × β) (h : ∀ r a, kept (g r a).1 = kept r.1) :
    kept (l.foldl g r).1 = kept r.1 := by
  induction l generalizing r with
  | nil => rfl
  | cons a l ih => exact (ih _).trans (h r a)

theorem kept_foldlDec {α : Type} (g : Dec → α → Dec) (l : List α) (r : Dec) (h : ∀ r a, kept (g r a).s = kept r.s) : kept (l.foldl g r).s = kept r.s := by
  induction l generalizing r with
  | nil => rfl
  | cons a l ih => exact (ih _).trans (h r a)

theorem kept_fst {α : Type} (a : State) (b : α) : kept (a, b).1 = kept a := rfl
theorem kept_snd {α : Type} (a : State) (b : α) : kept (b, a).2 = kept a := rfl
theorem kept_fst_ite {α : Type} {c : Prop} [Decidable c] {a b : State × α} {k : KeptPart} (ha : kept a.1 = k) (hb : kept b.1 = k) :
    kept (if c then a else b).1 = k := by split <;> assumption
theorem kept_snd_ite {α : Type} {c : Prop} [Decidable c] {a b : α × State} {k : KeptPart} (ha : kept a.2 = k) (hb : kept b.2 = k) :
    kept (if c then a else b).2 = k := by split <;> assumption
theorem keptOpt_getD {o : Option State} {t : State} {k : KeptPart} (h : keptOpt o k) (ht : kept t = k) : kept (o.getD t) = k := by
  cases o <;> assumption
theorem keptOpt_elim {o : Option State} {t : State} {f : State → State} {k : KeptPart} (h : keptOpt o k) (ht : kept t = k)
    (hf : ∀ u, kept (f u) = kept u) : kept (o.elim t f) = k := by
  cases o with
  | none => exact ht
  | some u => exact (hf u).trans h
theorem keptOpt_map {o : Option State} {f : State → State} {k : KeptPart} (h : keptOpt o k) (hf : ∀ t, kept (f t) = kept t) : keptOpt (o.map f) k := by
  cases o with
  | none => trivial
  | some t => exact (hf t).trans h
theorem kept_dec (s : State) (ts) (fin) (cp) : kept (Dec.mk s ts fin cp).s = kept s := rfl
theorem kept_dec_ite {c : Prop} [Decidable c] {a b : Dec} {k : KeptPart} (ha : kept a.s = k) (hb : kept b.s = k) : kept (if c then a else b).s = k := by
  split <;> assumption

end Sys2Proof.Machine
end

