-- ==== Sys2Proof/Laws/KeptUnits.lean ====
section
/-! SUPPORT. What the functions over registers, memory, tumblers, engines, movers and the sequencer leave alone. -/

set_option linter.unusedTactic false
set_option linter.unreachableTactic false

namespace Sys2Proof.Machine

theorem setCore_kept (s : State) (u : Nat) (c : Core) : kept (setCore s u c) = kept s := rfl

theorem updCore_kept (s : State) (u : Nat) (f : Core → Core) : kept (updCore s u f) = kept s := rfl

theorem updSeq_kept (s : State) (u : Nat) (f : Seq → Seq) : kept (updSeq s u f) = kept s := rfl

theorem setRegion_kept (s : State) (r : Nat) (x : Region) : kept (setRegion s r x) = kept s := rfl

theorem updRegion_kept (s : State) (r : Nat) (f : Region → Region) : kept (updRegion s r f) = kept s := rfl

theorem setBlock_kept (s : State) (b : Nat) (x : Block) : kept (setBlock s b x) = kept s := rfl

theorem updBlock_kept (s : State) (b : Nat) (f : Block → Block) : kept (updBlock s b f) = kept s := rfl

theorem updHost_kept (s : State) (f : HostSt → HostSt) : kept (updHost s f) = kept s := rfl

theorem updPart_kept (s : State) (f : PartSt → PartSt) : kept (updPart s f) = kept s := rfl

theorem emit_kept (s : State) (o : Output) : kept (emit s o) = kept s := rfl

theorem drawFree_kept (s : State) : kept (drawFree s).2 = kept s := rfl

theorem drawFree_kept' {s : State} {resu} (h : drawFree s = resu) : kept resu.2 = kept s := h ▸ drawFree_kept s

theorem spend_kept (s : State) (u n : Nat) : kept (spend s u n) = kept s := by
  unfold spend
  (iterate 60 (all_goals try (first
      | intro _ | fail_if_no_progress beta_reduce | extract_lets -underBinder | with_reducible rfl | with_reducible assumption
      | with_reducible refine Eq.trans (drawFree_kept' rfl) ?_
      | (have hk := drawFree_kept' (by assumption); refine Eq.trans hk ?_; clear hk) | with_reducible refine Eq.trans (updCore_kept ..) ?_
      | with_reducible refine kept_ite ?_ ?_ | split | exact True.intro | dsimp +zetaDelta only)))
  all_goals done

theorem fput_kept (s : State) (f : Fld) (unit sel v : Nat) : kept (fput s f unit sel v) = kept s := rfl

theorem fbump_kept (s : State) (f : Fld) (unit sel k : Nat) : kept (fbump s f unit sel k) = kept s := rfl

theorem hostTouch_kept (s : State) (h n : Nat) : kept (hostTouch s h n) = kept s := by
  unfold hostTouch
  (iterate 60 (all_goals try (first
      | intro _ | fail_if_no_progress beta_reduce | extract_lets -underBinder | with_reducible rfl | with_reducible assumption
      | with_reducible refine Eq.trans (updHost_kept ..) ?_ | with_reducible refine kept_ite ?_ ?_ | split | exact True.intro
      | dsimp +zetaDelta only)))
  all_goals done

theorem hostWrite_kept (s : State) (h : Nat) (b : Bytes) : kept (hostWrite s h b) = kept s := by
  unfold hostWrite
  with_reducible repeat' first | rfl | refine Eq.trans (updHost_kept ..) ?_ | refine kept_ite ?_ ?_ | split

theorem setRingIndex_kept (s : State) (sel v : Nat) : kept (setRingIndex s sel v) = kept s := rfl

theorem msixSend_kept (s : State) (v : Nat) : kept (msixSend s v) = kept s := by
  unfold msixSend
  (iterate 60 (all_goals try (first
      | intro _ | fail_if_no_progress beta_reduce | extract_lets -underBinder | with_reducible rfl | with_reducible assumption
      | with_reducible refine Eq.trans (emit_kept ..) ?_ | with_reducible refine kept_ite ?_ ?_ | split | exact True.intro
      | dsimp +zetaDelta only)))
  all_goals done

theorem fireVector_kept (s : State) (v : Nat) : kept (fireVector s v) = kept s := by
  unfold fireVector
  (iterate 60 (all_goals try (first
      | intro _ | fail_if_no_progress beta_reduce | extract_lets -underBinder | with_reducible rfl | with_reducible assumption
      | with_reducible refine Eq.trans (updHost_kept ..) ?_ | with_reducible refine Eq.trans (msixSend_kept ..) ?_
      | with_reducible refine kept_ite ?_ ?_ | split | exact True.intro | dsimp +zetaDelta only)))
  all_goals done

theorem bar4Write_kept (s : State) (o v : Nat) : kept (bar4Write s o v) = kept s := by
  unfold bar4Write
  (iterate 60 (all_goals try (first
      | intro _ | fail_if_no_progress beta_reduce | extract_lets -underBinder | with_reducible rfl | with_reducible assumption
      | with_reducible refine Eq.trans (updHost_kept ..) ?_ | with_reducible refine Eq.trans (msixSend_kept ..) ?_
      | with_reducible refine kept_ite ?_ ?_ | split | exact True.intro | dsimp +zetaDelta only)))
  all_goals done

theorem notify_kept (s : State) (entry : Bool) (data : Nat) : kept (notify s entry data) = kept s := rfl

theorem ringFaultMark_kept (s : State) (sel : Nat) : kept (ringFaultMark s sel) = kept s := by
  unfold ringFaultMark
  (iterate 60 (all_goals try (first
      | intro _ | fail_if_no_progress beta_reduce | extract_lets -underBinder | with_reducible rfl | with_reducible assumption
      | with_reducible refine Eq.trans (updHost_kept ..) ?_ | with_reducible refine Eq.trans (fput_kept ..) ?_
      | with_reducible refine kept_ite ?_ ?_ | split | exact True.intro | dsimp +zetaDelta only)))
  all_goals done

theorem ringPut_kept (s : State) (ring : Nat) (mk : Nat → Nat) : keptOpt (ringPut s ring mk) (kept s) := by
  unfold ringPut
  (iterate 60 (all_goals try (first
      | intro _ | fail_if_no_progress beta_reduce | extract_lets -underBinder | with_reducible rfl | with_reducible assumption
      | with_reducible refine Eq.trans (hostTouch_kept ..) ?_ | with_reducible refine Eq.trans (hostWrite_kept ..) ?_
      | with_reducible refine Eq.trans (setRingIndex_kept ..) ?_ | with_reducible refine kept_ite ?_ ?_
      | with_reducible refine keptOpt_ite ?_ ?_ | with_reducible refine keptOpt_some ?_ | split | exact True.intro | dsimp +zetaDelta only)))
  all_goals done

theorem ringPut_kept' {s : State} {ring : Nat} {mk : Nat → Nat} {resu}
    (h : ringPut s ring mk = resu) : keptOpt resu (kept s) :=
  h ▸ ringPut_kept s ring mk

theorem putEvent_kept (s : State) (ring : Nat) (mk : Nat → Nat) (irq : Bool) (how : RingEnd) : kept (putEvent s ring mk irq how).1 = kept s := by
  unfold putEvent
  (iterate 60 (all_goals try (first
      | intro _ | fail_if_no_progress beta_reduce | extract_lets -underBinder | with_reducible rfl | with_reducible assumption
      | (have hk := ringPut_kept' (by assumption); refine Eq.trans hk ?_; clear hk)
      | with_reducible refine keptOpt_getD (ringPut_kept ..) ?_ | with_reducible refine Eq.trans (fireVector_kept ..) ?_
      | with_reducible refine Eq.trans (ringFaultMark_kept ..) ?_ | with_reducible refine kept_ite ?_ ?_
      | with_reducible refine kept_fst_ite ?_ ?_ | with_reducible refine kept_snd_ite ?_ ?_ | split | exact True.intro
      | dsimp +zetaDelta only)))
  all_goals done

theorem putEvent_kept' {s : State} {ring : Nat} {mk : Nat → Nat} {irq : Bool} {how : RingEnd} {resu}
    (h : putEvent s ring mk irq how = resu) : kept resu.1 = kept s :=
  h ▸ putEvent_kept s ring mk irq how

theorem putLost_kept (s : State) (ring count next : Nat) (irq : Bool) : kept (putLost s ring count next irq).1 = kept s := by
  unfold putLost
  (iterate 60 (all_goals try (first
      | intro _ | fail_if_no_progress beta_reduce | extract_lets -underBinder | with_reducible rfl | with_reducible assumption
      | with_reducible refine Eq.trans (updHost_kept ..) ?_ | with_reducible refine Eq.trans (putEvent_kept' rfl) ?_
      | (have hk := putEvent_kept' (by assumption); refine Eq.trans hk ?_; clear hk) | with_reducible refine kept_ite ?_ ?_
      | with_reducible refine kept_fst_ite ?_ ?_ | with_reducible refine kept_snd_ite ?_ ?_ | split | exact True.intro
      | dsimp +zetaDelta only)))
  all_goals done

theorem putLost_kept' {s : State} {ring count next : Nat} {irq : Bool} {resu}
    (h : putLost s ring count next irq = resu) : kept resu.1 = kept s :=
  h ▸ putLost_kept s ring count next irq

theorem putOrLose_kept (s : State) (ring : Nat) (mk : Nat → Nat) (irq : Bool) : kept (putOrLose s ring mk irq).1 = kept s := by
  unfold putOrLose
  (iterate 60 (all_goals try (first
      | intro _ | fail_if_no_progress beta_reduce | extract_lets -underBinder | with_reducible rfl | with_reducible assumption
      | with_reducible refine Eq.trans (putEvent_kept' rfl) ?_
      | (have hk := putEvent_kept' (by assumption); refine Eq.trans hk ?_; clear hk) | with_reducible refine Eq.trans (fbump_kept ..) ?_
      | with_reducible refine Eq.trans (updHost_kept ..) ?_ | with_reducible refine Eq.trans (putLost_kept' rfl) ?_
      | (have hk := putLost_kept' (by assumption); refine Eq.trans hk ?_; clear hk) | with_reducible refine kept_ite ?_ ?_
      | with_reducible refine kept_fst_ite ?_ ?_ | with_reducible refine kept_snd_ite ?_ ?_ | split | exact True.intro
      | dsimp +zetaDelta only)))
  all_goals done

theorem putOrLose_kept' {s : State} {ring : Nat} {mk : Nat → Nat} {irq : Bool} {resu}
    (h : putOrLose s ring mk irq = resu) : kept resu.1 = kept s :=
  h ▸ putOrLose_kept s ring mk irq

theorem ringEvent_kept (s : State) (ring : Nat) (mk : Nat → Nat) (irq : Bool) : kept (ringEvent s ring mk irq).1 = kept s := by
  unfold ringEvent
  (iterate 60 (all_goals try (first
      | intro _ | fail_if_no_progress beta_reduce | extract_lets -underBinder | with_reducible rfl | with_reducible assumption
      | with_reducible refine Eq.trans (putOrLose_kept' rfl) ?_
      | (have hk := putOrLose_kept' (by assumption); refine Eq.trans hk ?_; clear hk)
      | with_reducible refine Eq.trans (putLost_kept' rfl) ?_
      | (have hk := putLost_kept' (by assumption); refine Eq.trans hk ?_; clear hk) | with_reducible refine kept_ite ?_ ?_
      | with_reducible refine kept_fst_ite ?_ ?_ | with_reducible refine kept_snd_ite ?_ ?_ | split | exact True.intro
      | dsimp +zetaDelta only)))
  all_goals done

theorem ringEvent_kept' {s : State} {ring : Nat} {mk : Nat → Nat} {irq : Bool} {resu}
    (h : ringEvent s ring mk irq = resu) : kept resu.1 = kept s :=
  h ▸ ringEvent_kept s ring mk irq

theorem errRings_kept (rec : Nat) (x1 : List Nat) (x2 : State) (x3 : List Nat) : kept (errRings rec x1 x2 x3).1 = kept x2 := by
  fun_induction errRings rec x1 x2 x3 <;> (iterate 60 (all_goals try (first
      | intro _ | fail_if_no_progress beta_reduce | extract_lets -underBinder | with_reducible rfl | with_reducible assumption
      | with_reducible refine Eq.trans (ringEvent_kept' rfl) ?_
      | (have hk := ringEvent_kept' (by assumption); refine Eq.trans hk ?_; clear hk)
      | with_reducible refine Eq.trans (fireVector_kept ..) ?_ | refine Eq.trans (by assumption) ?_ | with_reducible refine kept_ite ?_ ?_
      | with_reducible refine kept_fst_ite ?_ ?_ | with_reducible refine kept_snd_ite ?_ ?_ | split | exact True.intro
      | dsimp +zetaDelta only)))
  all_goals done

theorem errRings_kept' {rec : Nat} {x1 : List Nat} {x2 : State} {x3 : List Nat} {resu}
    (h : errRings rec x1 x2 x3 = resu) : kept resu.1 = kept x2 :=
  h ▸ errRings_kept rec x1 x2 x3

theorem trkTrigger_kept (s : State) : kept (trkTrigger s) = kept s := by
  unfold trkTrigger
  with_reducible repeat' first | intro _ | extract_lets -underBinder | rfl | refine Eq.trans (fput_kept ..) ?_ |
    refine Eq.trans (fbump_kept ..) ?_ | refine kept_ite ?_ ?_ | split |
    fail_if_no_progress refine Eq.trans (kept_mk _ _ _ _ _ _ _ _ _ _ _ _ _ _ _ _ _ _ _ _ _ _ _ _ _ _ _ rfl rfl) ?_

theorem setTrkState_kept (s : State) (v : Nat) : kept (setTrkState s v) = kept s := rfl

theorem trkInput_kept (s : State) (source region addr : Nat) (data : Bytes) : kept (trkInput s source region addr data) = kept s := by
  unfold trkInput
  (iterate 60 (all_goals try (first
      | intro _ | fail_if_no_progress beta_reduce | extract_lets -underBinder | with_reducible rfl | exact True.intro | assumption
      | with_reducible refine Eq.trans (drawFree_kept' rfl) ?_
      | (have hk := drawFree_kept' (by assumption); refine Eq.trans hk ?_; clear hk) | with_reducible refine kept_ite ?_ ?_ | split
      | dsimp +zetaDelta only)))
  all_goals done

theorem driverWrite_kept (s : State) (o v : Nat) : kept (driverWrite s o v) = kept s := by
  unfold driverWrite
  (iterate 60 (all_goals try (first
      | intro _ | fail_if_no_progress beta_reduce | extract_lets -underBinder | with_reducible rfl | with_reducible assumption
      | with_reducible refine Eq.trans (trkInput_kept ..) ?_ | with_reducible refine kept_ite ?_ ?_ | split | exact True.intro
      | dsimp +zetaDelta only)))
  all_goals done

theorem hostFetch_kept (s : State) (h n : Nat) : kept (hostFetch s h n) = kept s := by
  unfold hostFetch
  with_reducible repeat' first | rfl | refine Eq.trans (trkInput_kept ..) ?_ | refine Eq.trans (hostTouch_kept ..) ?_ | split

theorem partTake_kept (out : State → Nat → State) (s : State) (rec : Nat) (hout : ∀ s a, kept (out s a) = kept s) :
    kept (partTake out s rec) = kept s := by
  unfold partTake
  (iterate 60 (all_goals try (first
      | intro _ | fail_if_no_progress beta_reduce | extract_lets -underBinder | with_reducible rfl | with_reducible assumption
      | with_reducible refine Eq.trans (updPart_kept ..) ?_ | with_reducible refine Eq.trans (hout ..) ?_
      | with_reducible refine kept_ite ?_ ?_ | split | exact True.intro | dsimp +zetaDelta only)))
  all_goals done

theorem errOutN_kept (x0 : Nat) (x1 : State) (x2 : Nat) : kept (errOutN x0 x1 x2) = kept x1 := by
  induction x0 generalizing x1 x2 with
  | zero => rfl
  | succ n ih =>
    unfold errOutN
    extract_lets s1 s2 rings r s3
    have h2 : kept s2 = kept x1 := by
      show kept (if _ then _ else _) = _
      refine kept_ite ((trkTrigger_kept ..).trans (notify_kept ..)) (notify_kept ..)
    have h3 : kept s3 = kept s2 := by
      show kept (if _ then _ else _) = _
      exact kept_ite (errRings_kept ..) ((fireVector_kept ..).trans (errRings_kept ..))
    exact (kept_foldl _ _ _ fun s a => partTake_kept _ s _ ih).trans (h3.trans h2)

theorem errOut_kept (s : State) (rec : Nat) : kept (errOut s rec) = kept s := errOutN_kept ..

theorem errPart_kept (s : State) (rec : Nat) : kept (errPart s rec) = kept s := partTake_kept _ s rec errOut_kept

theorem deadTasks_kept (s : State) (p : Nat → Bool) : kept (deadTasks s p) = kept s := rfl

theorem updTask_kept (s : State) (slot : Nat) (f : LapTask → LapTask) : kept (updTask s slot f) = kept s := rfl

theorem tumPut_kept (s : State) (t : TumRef) (x : Tumbler) : kept (tumPut s t x) = kept s := by
  unfold tumPut
  with_reducible repeat' first | intro _ | extract_lets -underBinder | rfl | refine Eq.trans (updRegion_kept ..) ?_ |
    refine Eq.trans (updBlock_kept ..) ?_ | refine kept_ite ?_ ?_ | split

theorem passWait_kept (t : TumRef) (hand : Bool) (s : State) (w : TumPend) : kept (passWait t hand s w) = kept s := rfl

theorem tumRetest_kept (s : State) (t : TumRef) : kept (tumRetest s t) = kept s := by
  unfold tumRetest
  with_reducible repeat' first | intro _ | extract_lets -underBinder | rfl | refine Eq.trans (passWait_kept ..) ?_ |
    refine Eq.trans (tumPut_kept ..) ?_ | refine Eq.trans (kept_foldl _ _ _ ?_) ?_ | split

theorem vecHeld_kept (s : State) (u : Nat) : kept (vecHeld s u) = kept s := by
  unfold vecHeld
  (iterate 60 (all_goals try (first
      | intro _ | fail_if_no_progress beta_reduce | extract_lets -underBinder | with_reducible rfl | with_reducible assumption
      | with_reducible refine Eq.trans (drawFree_kept' rfl) ?_
      | (have hk := drawFree_kept' (by assumption); refine Eq.trans hk ?_; clear hk) | with_reducible refine Eq.trans (fbump_kept ..) ?_
      | with_reducible refine kept_ite ?_ ?_ | split | exact True.intro | dsimp +zetaDelta only)))
  all_goals done

theorem haltUnits_kept (p : Nat → Bool) (detail : Nat) (s : State) : kept (haltUnits p detail s) = kept s := by
  unfold haltUnits
  extract_lets s1 cut tums held refs
  have h1 : kept s1 = kept s := kept_foldl _ _ _ fun _ _ => vecHeld_kept ..
  exact (kept_foldl _ _ _ fun s t => kept_ite rfl (tumRetest_kept ..)).trans h1

theorem resumeAtMark_kept (s : State) : kept (resumeAtMark s) = kept s := by
  unfold resumeAtMark
  (iterate 60 (all_goals try (first
      | intro _ | fail_if_no_progress beta_reduce | extract_lets -underBinder | with_reducible rfl | with_reducible assumption
      | with_reducible refine kept_ite ?_ ?_
      | fail_if_no_progress refine Eq.trans (kept_mk _ _ _ _ _ _ _ _ _ _ _ _ _ _ _ _ _ _ _ _ _ _ _ _ _ _ _ rfl rfl) ?_ | split
      | exact True.intro | dsimp +zetaDelta only)))
  all_goals done

theorem elect_kept (s : State) : kept (elect s) = kept s := by
  unfold elect
  (iterate 60 (all_goals try (first
      | intro _ | fail_if_no_progress beta_reduce | extract_lets -underBinder | with_reducible rfl | with_reducible assumption
      | with_reducible refine Eq.trans (resumeAtMark_kept ..) ?_ | with_reducible refine Eq.trans (updPart_kept ..) ?_
      | with_reducible refine Eq.trans (errPart_kept ..) ?_ | with_reducible refine kept_ite ?_ ?_ | split | exact True.intro
      | dsimp +zetaDelta only)))
  all_goals done

theorem regionOut_kept (cut : Cut) (s : State) (r : Nat) (rec : Option Nat) (hcut : ∀ s a b c, kept (cut s a b c) = kept s) :
    kept (regionOut cut s r rec) = kept s := by
  unfold regionOut
  (iterate 60 (all_goals try (first
      | intro _ | fail_if_no_progress beta_reduce | extract_lets -underBinder | with_reducible rfl | with_reducible assumption
      | with_reducible refine Eq.trans (elect_kept ..) ?_ | with_reducible refine Eq.trans (errPart_kept ..) ?_
      | with_reducible refine Eq.trans (hcut ..) ?_ | with_reducible refine kept_ite ?_ ?_ | with_reducible refine kept_elimTo ?_ ?_
      | split | exact True.intro | dsimp +zetaDelta only)))
  all_goals done

theorem regionTake_kept (cut : Cut) (s : State) (r rec : Nat) (hcut : ∀ s a b c, kept (cut s a b c) = kept s) :
    kept (regionTake cut s r rec) = kept s := by
  unfold regionTake
  (iterate 60 (all_goals try (first
      | intro _ | fail_if_no_progress beta_reduce | extract_lets -underBinder | with_reducible rfl | with_reducible assumption
      | with_reducible refine Eq.trans (updRegion_kept ..) ?_ | with_reducible refine Eq.trans (errOut_kept ..) ?_
      | with_reducible refine Eq.trans (regionOut_kept (hcut := by first | assumption | exact fence_kept) ..) ?_
      | with_reducible refine Eq.trans (hcut ..) ?_ | with_reducible refine kept_ite ?_ ?_ | split | exact True.intro
      | dsimp +zetaDelta only)))
  all_goals done

theorem blockCut_kept (cut : Cut) (s : State) (detail b : Nat) (hcut : ∀ s a b c, kept (cut s a b c) = kept s) :
    kept (blockCut cut s detail b) = kept s := by
  unfold blockCut
  (iterate 60 (all_goals try (first
      | intro _ | fail_if_no_progress beta_reduce | extract_lets -underBinder | with_reducible rfl | with_reducible assumption
      | with_reducible refine Eq.trans (regionTake_kept (hcut := by first | assumption | exact fence_kept) ..) ?_
      | with_reducible refine Eq.trans (hcut ..) ?_ | with_reducible refine kept_ite ?_ ?_ | split | exact True.intro
      | dsimp +zetaDelta only)))
  all_goals done

theorem blockTake_kept (cut : Cut) (s : State) (b rec : Nat) (hcut : ∀ s a b c, kept (cut s a b c) = kept s) :
    kept (blockTake cut s b rec) = kept s := by
  unfold blockTake
  (iterate 60 (all_goals try (first
      | intro _ | fail_if_no_progress beta_reduce | extract_lets -underBinder | with_reducible rfl | with_reducible assumption
      | with_reducible refine Eq.trans (updBlock_kept ..) ?_ | with_reducible refine Eq.trans (errOut_kept ..) ?_
      | with_reducible refine Eq.trans (regionTake_kept (hcut := by first | assumption | exact fence_kept) ..) ?_
      | with_reducible refine Eq.trans (blockCut_kept (hcut := by first | assumption | exact fence_kept) ..) ?_
      | with_reducible refine Eq.trans (hcut ..) ?_ | with_reducible refine kept_ite ?_ ?_ | split | exact True.intro
      | dsimp +zetaDelta only)))
  all_goals done

theorem postHalt_kept (cut : Cut) (s : State) (u rec task action : Nat) (hcut : ∀ s a b c, kept (cut s a b c) = kept s) :
    kept (postHalt cut s u rec task action) = kept s := by
  unfold postHalt
  (iterate 60 (all_goals try (first
      | intro _ | fail_if_no_progress beta_reduce | extract_lets -underBinder | with_reducible rfl | with_reducible assumption
      | with_reducible refine Eq.trans (regionTake_kept (hcut := by first | assumption | exact fence_kept) ..) ?_
      | with_reducible refine Eq.trans (blockTake_kept (hcut := by first | assumption | exact fence_kept) ..) ?_
      | with_reducible refine Eq.trans (hcut ..) ?_ | with_reducible refine kept_ite ?_ ?_ | split | exact True.intro
      | dsimp +zetaDelta only)))
  all_goals done

theorem cutUnits_kept (cut : Cut) (p : Nat → Bool) (detail : Nat) (s : State) (hcut : ∀ s a b c, kept (cut s a b c) = kept s) :
    kept (cutUnits cut p detail s) = kept s :=
  (kept_foldl _ _ _ fun _ _ => postHalt_kept (hcut := hcut) ..).trans ((deadTasks_kept ..).trans (haltUnits_kept ..))

theorem fenceN_kept (x0 : Nat) (x1 : State) (x2 x3 x4 : Nat) : kept (fenceN x0 x1 x2 x3 x4) = kept x1 := by
  induction x0 generalizing x1 x2 x3 x4 with
  | zero => rfl
  | succ n ih =>
    unfold fenceN
    refine kept_ite rfl ?_
    extract_lets s1
    have hs : kept s1 = kept x1 := notify_kept ..
    split <;> first
      | exact (cutUnits_kept _ _ _ _ ih).trans ((updCore_kept ..).trans hs)
      | exact (cutUnits_kept _ _ _ _ ih).trans ((updBlock_kept ..).trans hs)
      | exact (cutUnits_kept _ _ _ _ ih).trans ((updRegion_kept ..).trans hs)
      | exact (updRegion_kept ..).trans hs
      | exact (updPart_kept ..).trans hs

theorem fence_kept (s : State) (detail kind unit : Nat) : kept (fence s detail kind unit) = kept s := fenceN_kept ..

theorem errRegion_kept (s : State) (r rec : Nat) : kept (errRegion s r rec) = kept s := regionTake_kept _ _ _ _ fence_kept

theorem fenceBlock_kept (s : State) (detail b : Nat) : kept (fenceBlock s detail b) = kept s := blockCut_kept _ _ _ _ fence_kept

theorem errBlock_kept (s : State) (b rec : Nat) : kept (errBlock s b rec) = kept s := blockTake_kept _ _ _ _ fence_kept

theorem postEvent_kept (s : State) (ring type code gid task detail : Nat) : kept (postEvent s ring type code gid task detail) = kept s := by
  unfold postEvent
  (iterate 60 (all_goals try (first
      | intro _ | fail_if_no_progress beta_reduce | extract_lets -underBinder | with_reducible rfl | with_reducible assumption
      | with_reducible refine Eq.trans (ringEvent_kept' rfl) ?_
      | (have hk := ringEvent_kept' (by assumption); refine Eq.trans hk ?_; clear hk)
      | with_reducible refine Eq.trans (errPart_kept ..) ?_ | with_reducible refine kept_ite ?_ ?_ | split | exact True.intro
      | dsimp +zetaDelta only)))
  all_goals done

theorem retainFrame_kept (s : State) (r page : Nat) (f lap : Nat) (valid lapLocal : Bool) :
    kept (retainFrame s r page f lap valid lapLocal) = kept s := rfl

theorem retireFrame_kept (s : State) (r f : Nat) : kept (retireFrame s r f) = kept s := by
  unfold retireFrame
  with_reducible repeat' first | rfl | refine Eq.trans (notify_kept ..) ?_ | refine Eq.trans (updRegion_kept ..) ?_ |
    refine Eq.trans (errRegion_kept ..) ?_ | refine Eq.trans (fput_kept ..) ?_ | refine kept_ite ?_ ?_ | split

theorem toPool_kept (s : State) (r f : Nat) : kept (toPool s r f) = kept s := by
  unfold toPool
  refine kept_ite ?_ (updRegion_kept ..)
  extract_lets t
  have ht : kept t = kept s := retireFrame_kept ..
  cases highFree t r (decide (2 ^ 20 ≤ f)) with
  | none => exact ht
  | some g => exact (updRegion_kept ..).trans ht

theorem releaseFrame_kept (s : State) (r page : Nat) (f lap : Nat) : kept (releaseFrame s r page f lap) = kept s := by
  unfold releaseFrame
  with_reducible repeat' first | intro _ | extract_lets -underBinder | rfl | refine Eq.trans (retainFrame_kept ..) ?_ |
    refine Eq.trans (toPool_kept ..) ?_ | refine kept_ite ?_ ?_ | split

theorem foldPage_kept (s : State) (r page : Nat) : kept (foldPage s r page) = kept s := by
  unfold foldPage
  with_reducible repeat' first | intro _ | extract_lets -underBinder | rfl | refine Eq.trans (updRegion_kept ..) ?_ |
    refine Eq.trans (releaseFrame_kept ..) ?_ | refine Eq.trans (toPool_kept ..) ?_ | refine Eq.trans (kept_foldl _ _ _ ?_) ?_ | split

theorem foldFinal_kept (s : State) (r page : Nat) : kept (foldFinal s r page) = kept s := by
  unfold foldFinal
  (iterate 60 (all_goals try (first
      | intro _ | fail_if_no_progress beta_reduce | extract_lets -underBinder | with_reducible rfl | with_reducible assumption
      | with_reducible refine Eq.trans (foldPage_kept ..) ?_ | with_reducible refine kept_ite ?_ ?_ | split | exact True.intro
      | dsimp +zetaDelta only)))
  all_goals done

theorem foldFor_kept (r : Nat) (stackB : Bool) (x0 : List Nat) (x1 : State) : keptFrame (foldFor r stackB x0 x1) (kept x1) := by
  induction x0 generalizing x1 with
  | nil => exact True.intro
  | cons p t ih =>
    rw [foldFor]
    refine keptFrame_ite ?_ (ih _)
    dsimp only
    split
    · exact foldPage_kept x1 r p
    · exact keptFrame_mono (ih _) (foldPage_kept ..)

theorem foldFor_kept' {r : Nat} {stackB : Bool} {x0 : List Nat} {x1 : State} {resu} (h : foldFor r stackB x0 x1 = resu) :
    keptFrame resu (kept x1) :=
  h ▸ foldFor_kept ..

theorem drawHalf_kept (s : State) (r : Nat) (stackB : Bool) : keptFrame (drawHalf s r stackB) (kept s) := by
  unfold drawHalf
  (iterate 60 (all_goals try (first
      | intro _ | fail_if_no_progress beta_reduce | extract_lets -underBinder | with_reducible rfl | with_reducible assumption
      | (have hk := foldFor_kept' (by assumption); refine Eq.trans hk ?_; clear hk)
      | with_reducible refine keptFrame_mono (foldFor_kept ..) ?_ | with_reducible refine kept_ite ?_ ?_
      | with_reducible refine kept_fst_ite ?_ ?_ | with_reducible refine kept_snd_ite ?_ ?_ | with_reducible refine keptFrame_ite ?_ ?_
      | with_reducible refine keptFrame_some ?_ | split | exact True.intro | dsimp +zetaDelta only)))
  all_goals done

theorem drawHalf_kept' {s : State} {r : Nat} {stackB : Bool} {resu}
    (h : drawHalf s r stackB = resu) : keptFrame resu (kept s) :=
  h ▸ drawHalf_kept s r stackB

theorem readSystem_kept (s : State) (r : Nat) (k : SysStruct) :
    kept (readSystem s r k) = kept s := by
  unfold readSystem
  (iterate 60 (all_goals try (first
      | intro _ | fail_if_no_progress beta_reduce | extract_lets -underBinder | with_reducible rfl | exact True.intro | assumption
      | with_reducible refine Eq.trans (updRegion_kept ..) ?_ | with_reducible refine kept_ite ?_ ?_ | split | dsimp +zetaDelta only)))
  all_goals done

theorem readTables_kept (s : State) (r : Nat) : kept (readTables s r) = kept s := by
  unfold readTables
  (iterate 60 (all_goals try (first
      | intro _ | fail_if_no_progress beta_reduce | extract_lets -underBinder | with_reducible rfl | with_reducible assumption
      | with_reducible refine Eq.trans (readSystem_kept ..) ?_ | with_reducible refine kept_ite ?_ ?_ | split | exact True.intro
      | dsimp +zetaDelta only)))
  all_goals done

theorem bareDrawn_kept (r : Nat) (d : Nat × State) : kept (bareDrawn r d).2 = kept d.2 := rfl

theorem keptFrame_bare {r : Nat} {o : Option (Nat × State)} {k : KeptPart} (h : keptFrame o k) : keptFrame (o.map (bareDrawn r)) k := by
  cases o with
  | none => trivial
  | some d => exact (bareDrawn_kept r d).trans h

theorem drawFrame_kept (s : State) (r : Nat) (stackB own : Bool) : keptFrame (drawFrame s r stackB own) (kept s) := by
  unfold drawFrame
  split
  · have hk := drawHalf_kept' (by assumption)
    exact (bareDrawn_kept ..).trans hk
  · exact keptFrame_ite True.intro (keptFrame_bare (drawHalf_kept ..))

theorem drawFrame_kept' {s : State} {r : Nat} {stackB own : Bool} {resu}
    (h : drawFrame s r stackB own = resu) : keptFrame resu (kept s) :=
  h ▸ drawFrame_kept s r stackB own

theorem dataLost_kept (s : State) (r f : Nat) : kept (dataLost s r f) = kept s := by
  unfold dataLost
  (iterate 60 (all_goals try (first
      | intro _ | fail_if_no_progress beta_reduce | extract_lets -underBinder | with_reducible rfl | with_reducible assumption
      | with_reducible refine Eq.trans (errRegion_kept ..) ?_ | with_reducible refine kept_ite ?_ ?_ | split | exact True.intro
      | dsimp +zetaDelta only)))
  all_goals done

theorem failPc_kept (s : State) (r f pc n : Nat) : kept (failPc s r f pc n) = kept s := by
  unfold failPc
  (iterate 60 (all_goals try (first
      | intro _ | fail_if_no_progress beta_reduce | extract_lets -underBinder | with_reducible rfl | with_reducible assumption
      | with_reducible refine Eq.trans (dataLost_kept ..) ?_ | with_reducible refine Eq.trans (updRegion_kept ..) ?_
      | with_reducible refine Eq.trans (fput_kept ..) ?_ | with_reducible refine Eq.trans (errRegion_kept ..) ?_
      | with_reducible refine kept_ite ?_ ?_ | split | exact True.intro | dsimp +zetaDelta only)))
  all_goals done

theorem countUe_kept (s : State) (r f o : Nat) : kept (countUe s r f o) = kept s := by
  unfold countUe
  (iterate 60 (all_goals try (first
      | intro _ | fail_if_no_progress beta_reduce | extract_lets -underBinder | with_reducible rfl | with_reducible assumption
      | with_reducible refine Eq.trans (updRegion_kept ..) ?_ | with_reducible refine Eq.trans (failPc_kept ..) ?_
      | with_reducible refine kept_ite ?_ ?_ | split | exact True.intro | dsimp +zetaDelta only)))
  all_goals done

theorem loseFrame_kept (s : State) (r f o : Nat) : kept (loseFrame s r f o) = kept s := by
  unfold loseFrame
  (iterate 60 (all_goals try (first
      | intro _ | fail_if_no_progress beta_reduce | extract_lets -underBinder | with_reducible rfl | with_reducible assumption
      | with_reducible refine Eq.trans (dataLost_kept ..) ?_ | with_reducible refine Eq.trans (updRegion_kept ..) ?_
      | with_reducible refine kept_ite ?_ ?_ | refine Eq.trans (kept_foldl _ _ _ ?_) ?_ | split | exact True.intro | dsimp +zetaDelta only)))
  all_goals done

theorem readHalf_kept (s : State) (r f o : Nat) (lapLocal : Bool) : kept (readHalf s r f o lapLocal).1 = kept s := by
  unfold readHalf
  (iterate 60 (all_goals try (first
      | intro _ | fail_if_no_progress beta_reduce | extract_lets -underBinder | with_reducible rfl | with_reducible assumption
      | with_reducible refine Eq.trans (updRegion_kept ..) ?_ | with_reducible refine Eq.trans (countUe_kept ..) ?_
      | with_reducible refine Eq.trans (loseFrame_kept ..) ?_ | with_reducible refine Eq.trans (fbump_kept ..) ?_
      | with_reducible refine Eq.trans (errRegion_kept ..) ?_ | with_reducible refine kept_ite ?_ ?_
      | with_reducible refine kept_fst_ite ?_ ?_ | with_reducible refine kept_snd_ite ?_ ?_ | split | exact True.intro
      | dsimp +zetaDelta only)))
  all_goals done

theorem readHalf_kept' {s : State} {r f o : Nat} {lapLocal : Bool} {resu}
    (h : readHalf s r f o lapLocal = resu) : kept resu.1 = kept s :=
  h ▸ readHalf_kept s r f o lapLocal

theorem checkLines_kept (s : State) (r f : Nat) (lapLocal : Bool) (ls : List Nat) : kept (checkLines s r f lapLocal ls) = kept s := by
  unfold checkLines
  (iterate 60 (all_goals try (first
      | intro _ | fail_if_no_progress beta_reduce | extract_lets -underBinder | with_reducible rfl | with_reducible assumption
      | with_reducible refine Eq.trans (readHalf_kept' rfl) ?_
      | (have hk := readHalf_kept' (by assumption); refine Eq.trans hk ?_; clear hk) | with_reducible refine kept_ite ?_ ?_
      | refine Eq.trans (kept_foldl _ _ _ ?_) ?_ | refine Eq.trans (kept_foldlPair _ _ _ ?_) ?_ | split | exact True.intro
      | dsimp +zetaDelta only)))
  all_goals done

theorem noteHbmRead_kept (s : State) (r : Nat) (slot : Option Nat) (x3 x4 : Nat) (x5 x6 : Nat) :
    kept (noteHbmRead s r slot x3 x4 x5 x6) = kept s := by
  fun_induction noteHbmRead s r slot x3 x4 x5 x6 <;>
  with_reducible repeat' first | assumption | rfl | refine Eq.trans (fbump_kept ..) ?_ | refine Eq.trans (updTask_kept ..) ?_ |
    refine Eq.trans (by assumption) ?_ | refine kept_ite ?_ ?_ | split

theorem noteJoined_kept (s : State) (place slot : Nat) : kept (noteJoined s place slot) = kept s := by
  unfold noteJoined
  (iterate 60 (all_goals try (first
      | intro _ | fail_if_no_progress beta_reduce | extract_lets -underBinder | with_reducible rfl | with_reducible assumption
      | with_reducible refine Eq.trans (kept_updLap _ _ rfl rfl) ?_ | with_reducible refine kept_ite ?_ ?_ | split | exact True.intro
      | dsimp +zetaDelta only)))
  all_goals done

theorem ensureHeld_kept (s : State) (r page slot : Nat) (own : Bool) :
    keptWr (ensureHeld s r page slot own) (kept s) := by
  unfold ensureHeld
  extract_lets e ep s1 s2 e' task
  have h2 : kept s2 = kept s := (readSystem_kept ..).trans ((foldFinal_kept ..).trans (updRegion_kept ..))
  clear_value task e' s2
  refine keptWr_ite rfl (keptWr_ite (noteJoined_kept ..) ?_)
  split
  · refine keptWr_ite True.intro ?_
    split
    · exact True.intro
    · have hk := drawFrame_kept' (by assumption)
      exact (updTask_kept ..).trans ((updRegion_kept ..).trans (Eq.trans hk h2))
  · split
    · exact True.intro
    · have hk := drawFrame_kept' (by assumption)
      exact (updRegion_kept ..).trans (Eq.trans hk h2)

theorem ensureHeld_kept' {s : State} {r page slot : Nat} {own : Bool} {resu} (h : ensureHeld s r page slot own = resu) : keptWr resu (kept s) :=
  h ▸ ensureHeld_kept s r page slot own

theorem writePage_kept (s : State) (r page off slot : Nat) (own : Bool) (bs : Bytes) : keptWr (writePage s r page off slot own bs) (kept s) := by
  unfold writePage
  (iterate 60 (all_goals try (first
      | intro _ | fail_if_no_progress beta_reduce | extract_lets -underBinder | with_reducible rfl | with_reducible assumption
      | with_reducible refine Eq.trans (readTables_kept ..) ?_ | with_reducible refine Eq.trans (updRegion_kept ..) ?_
      | (have hk := ensureHeld_kept' (by assumption); refine Eq.trans hk ?_; clear hk)
      | with_reducible refine keptWr_mono (ensureHeld_kept ..) ?_ | with_reducible refine Eq.trans (checkLines_kept ..) ?_
      | with_reducible refine kept_ite ?_ ?_ | with_reducible refine keptWr_ite ?_ ?_ | with_reducible refine keptWr_ok ?_ | split
      | exact True.intro | dsimp +zetaDelta only)))
  all_goals done

theorem writePage_kept' {s : State} {r page off slot : Nat} {own : Bool} {bs : Bytes} {resu}
    (h : writePage s r page off slot own bs = resu) : keptWr resu (kept s) :=
  h ▸ writePage_kept s r page off slot own bs

theorem writeHbm_kept (s : State) (r slot : Nat) (own : Bool) (x4 x5 x6 : Nat) (x7 : Bytes) :
    keptWr (writeHbm s r slot own x4 x5 x6 x7) (kept s) := by
  fun_induction writeHbm s r slot own x4 x5 x6 x7 <;> (iterate 60 (all_goals try (first
      | intro _ | fail_if_no_progress beta_reduce | extract_lets -underBinder | with_reducible rfl | exact True.intro | assumption
      | (have hk := writePage_kept' (by assumption); refine Eq.trans hk ?_; clear hk)
      | with_reducible refine keptWr_mono (writePage_kept ..) ?_ | refine keptWr_mono (by assumption) ?_
      | with_reducible refine keptWr_ok ?_ | split | dsimp +zetaDelta only)))
  all_goals done

theorem writeHbm_kept' {s : State} {r slot : Nat} {own : Bool} {x4 x5 x6 : Nat} {x7 : Bytes} {resu} (h : writeHbm s r slot own x4 x5 x6 x7 = resu) : keptWr resu (kept s) := h ▸ writeHbm_kept s r slot own x4 x5 x6 x7

theorem reserveHbm_kept (s : State) (r slot : Nat) (own : Bool) (x4 : List Nat) : keptWr (reserveHbm s r slot own x4) (kept s) := by
  fun_induction reserveHbm s r slot own x4 <;> (iterate 60 (all_goals try (first
      | intro _ | fail_if_no_progress beta_reduce | extract_lets -underBinder | with_reducible rfl | exact True.intro | assumption
      | (have hk := ensureHeld_kept' (by assumption); refine Eq.trans hk ?_; clear hk)
      | with_reducible refine keptWr_mono (ensureHeld_kept ..) ?_ | refine keptWr_mono (by assumption) ?_
      | with_reducible refine keptWr_ok ?_ | split | dsimp +zetaDelta only)))
  all_goals done

theorem reserveHbm_kept' {s : State} {r slot : Nat} {own : Bool} {x4 : List Nat} {resu} (h : reserveHbm s r slot own x4 = resu) : keptWr resu (kept s) := h ▸ reserveHbm_kept s r slot own x4

theorem writeNow_kept (s : State) (r page off : Nat) (bs : Bytes) : kept (writeNow s r page off bs) = kept s := by
  unfold writeNow
  (iterate 60 (all_goals try (first
      | intro _ | fail_if_no_progress beta_reduce | extract_lets -underBinder | with_reducible rfl | with_reducible assumption
      | with_reducible refine Eq.trans (updRegion_kept ..) ?_ | with_reducible refine Eq.trans (foldFinal_kept ..) ?_
      | with_reducible refine Eq.trans (readTables_kept ..) ?_ | with_reducible refine kept_ite ?_ ?_ | split | exact True.intro
      | dsimp +zetaDelta only)))
  all_goals done

theorem fillPage_kept (s : State) (r page : Nat) (h : Held) : kept (fillPage s r page h) = kept s := by
  unfold fillPage
  (iterate 60 (all_goals try (first
      | intro _ | fail_if_no_progress beta_reduce | extract_lets -underBinder | with_reducible rfl | with_reducible assumption
      | with_reducible refine Eq.trans (checkLines_kept ..) ?_ | with_reducible refine Eq.trans (readSystem_kept ..) ?_
      | with_reducible refine Eq.trans (updRegion_kept ..) ?_ | with_reducible refine kept_ite ?_ ?_ | split | exact True.intro
      | dsimp +zetaDelta only)))
  all_goals done

theorem movePage_kept (s : State) (r page : Nat) (stackB retire : Bool) : kept (movePage s r page stackB retire) = kept s := by
  unfold movePage
  (iterate 60 (all_goals try (first
      | intro _ | fail_if_no_progress beta_reduce | extract_lets -underBinder | with_reducible rfl | with_reducible assumption
      | with_reducible refine Eq.trans (checkLines_kept ..) ?_ | with_reducible refine Eq.trans (readSystem_kept ..) ?_
      | with_reducible refine Eq.trans (updRegion_kept ..) ?_ | with_reducible refine Eq.trans (retireFrame_kept ..) ?_
      | with_reducible refine Eq.trans (retainFrame_kept ..) ?_ | with_reducible refine kept_ite ?_ ?_
      | refine Eq.trans (kept_foldl _ _ _ ?_) ?_
      | fail_if_no_progress refine Eq.trans (kept_mk _ _ _ _ _ _ _ _ _ _ _ _ _ _ _ _ _ _ _ _ _ _ _ _ _ _ _ rfl rfl) ?_ | split
      | exact True.intro | dsimp +zetaDelta only)))
  all_goals done

theorem noteBsRead_kept (s : State) (b off n : Nat) (slot : Option Nat) :
    kept (noteBsRead s b off n slot) = kept s := by
  unfold noteBsRead
  with_reducible repeat' first | intro _ | extract_lets -underBinder | rfl | refine Eq.trans (fbump_kept ..) ?_ |
    refine Eq.trans (updTask_kept ..) ?_ | refine Eq.trans (kept_foldl _ _ _ ?_) ?_ | split

theorem fixStore_kept (s : State) (u k : Nat) :
    kept (fixStore s u k) = kept s := by
  unfold fixStore
  (iterate 60 (all_goals try (first
      | intro _ | fail_if_no_progress beta_reduce | extract_lets -underBinder | with_reducible rfl | exact True.intro | assumption
      | with_reducible refine Eq.trans (updCore_kept ..) ?_ | with_reducible refine kept_ite ?_ ?_ | split | dsimp +zetaDelta only)))
  all_goals done

theorem copyLine_kept (s : State) (b line o n slot : Nat) : kept (copyLine s b line o n slot).1 = kept s := by
  unfold copyLine
  (iterate 60 (all_goals try (first
      | intro _ | fail_if_no_progress beta_reduce | extract_lets -underBinder | with_reducible rfl | with_reducible assumption
      | with_reducible refine Eq.trans (fixStore_kept ..) ?_ | with_reducible refine Eq.trans (errRegion_kept ..) ?_
      | with_reducible refine kept_ite ?_ ?_ | with_reducible refine kept_fst_ite ?_ ?_ | with_reducible refine kept_snd_ite ?_ ?_ | split
      | exact True.intro | dsimp +zetaDelta only)))
  all_goals done

theorem copyLine_kept' {s : State} {b line o n slot : Nat} {resu}
    (h : copyLine s b line o n slot = resu) : kept resu.1 = kept s :=
  h ▸ copyLine_kept s b line o n slot

theorem writeLine_kept (s : State) (b line o slot : Nat) (bs : Bytes) : keptWr (writeLine s b line o slot bs) (kept s) := by
  unfold writeLine
  (iterate 60 (all_goals try (first
      | intro _ | fail_if_no_progress beta_reduce | extract_lets -underBinder | with_reducible rfl | with_reducible assumption
      | with_reducible refine Eq.trans (setBlock_kept ..) ?_ | with_reducible refine Eq.trans (noteJoined_kept ..) ?_
      | with_reducible refine Eq.trans (copyLine_kept' rfl) ?_
      | (have hk := copyLine_kept' (by assumption); refine Eq.trans hk ?_; clear hk)
      | with_reducible refine Eq.trans (updBlock_kept ..) ?_ | with_reducible refine Eq.trans (updTask_kept ..) ?_
      | with_reducible refine kept_ite ?_ ?_ | with_reducible refine keptWr_ite ?_ ?_ | with_reducible refine keptWr_ok ?_ | split
      | exact True.intro | dsimp +zetaDelta only)))
  all_goals done

theorem writeLine_kept' {s : State} {b line o slot : Nat} {bs : Bytes} {resu}
    (h : writeLine s b line o slot bs = resu) : keptWr resu (kept s) :=
  h ▸ writeLine_kept s b line o slot bs

theorem writeBs_kept (s : State) (b slot : Nat) (x3 x4 : Nat) (x5 : Bytes) : keptWr (writeBs s b slot x3 x4 x5) (kept s) := by
  fun_induction writeBs s b slot x3 x4 x5 <;> (iterate 60 (all_goals try (first
      | intro _ | fail_if_no_progress beta_reduce | extract_lets -underBinder | with_reducible rfl | exact True.intro | assumption
      | (have hk := writeLine_kept' (by assumption); refine Eq.trans hk ?_; clear hk)
      | with_reducible refine keptWr_mono (writeLine_kept ..) ?_ | refine keptWr_mono (by assumption) ?_
      | with_reducible refine keptWr_ok ?_ | split | dsimp +zetaDelta only)))
  all_goals done

theorem writeBs_kept' {s : State} {b slot : Nat} {x3 x4 : Nat} {x5 : Bytes} {resu} (h : writeBs s b slot x3 x4 x5 = resu) : keptWr resu (kept s) := h ▸ writeBs_kept s b slot x3 x4 x5

theorem readCsEcc_kept (s : State) (u off n : Nat) :
    keptEcc (readCsEcc s u off n) (kept s) := by
  unfold readCsEcc
  (iterate 60 (all_goals try (first
      | intro _ | fail_if_no_progress beta_reduce | extract_lets -underBinder | with_reducible rfl | exact True.intro | assumption
      | with_reducible refine Eq.trans (fixStore_kept ..) ?_ | with_reducible refine kept_ite ?_ ?_
      | with_reducible refine keptEcc_ite ?_ ?_ | with_reducible refine keptEcc_ok ?_ | with_reducible refine keptEcc_halt ?_
      | with_reducible refine keptEcc_bus ?_ | split | dsimp +zetaDelta only)))
  all_goals done

theorem readCsEcc_kept' {s : State} {u off n : Nat} {resu}
    (h : readCsEcc s u off n = resu) : keptEcc resu (kept s) :=
  h ▸ readCsEcc_kept s u off n

theorem writeCs_kept (s : State) (u off : Nat) (bs : Bytes) :
    kept (writeCs s u off bs) = kept s := by
  unfold writeCs
  (iterate 60 (all_goals try (first
      | intro _ | fail_if_no_progress beta_reduce | extract_lets -underBinder | with_reducible rfl | exact True.intro | assumption
      | with_reducible refine Eq.trans (updCore_kept ..) ?_ | with_reducible refine kept_ite ?_ ?_ | split | dsimp +zetaDelta only)))
  all_goals done

theorem readBsEcc_kept (s : State) (core : Option Nat) (b off n slot : Nat) (epoch : List (Nat × Nat)) :
    keptEcc (readBsEcc s core b off n slot epoch) (kept s) := by
  unfold readBsEcc
  (iterate 60 (all_goals try (first
      | intro _ | fail_if_no_progress beta_reduce | extract_lets -underBinder | with_reducible rfl | with_reducible assumption
      | with_reducible refine Eq.trans (fixStore_kept ..) ?_ | with_reducible refine Eq.trans (errRegion_kept ..) ?_
      | with_reducible refine kept_ite ?_ ?_ | with_reducible refine keptEcc_ite ?_ ?_ | with_reducible refine keptEcc_ok ?_
      | with_reducible refine keptEcc_halt ?_ | with_reducible refine keptEcc_bus ?_ | with_reducible refine kept_elimTo ?_ ?_ | split
      | exact True.intro | dsimp +zetaDelta only)))
  all_goals done

theorem readBsEcc_kept' {s : State} {core : Option Nat} {b off n slot : Nat} {epoch : List (Nat × Nat)} {resu}
    (h : readBsEcc s core b off n slot epoch = resu) : keptEcc resu (kept s) :=
  h ▸ readBsEcc_kept s core b off n slot epoch

theorem readHalves_kept (r page lap slot : Nat) (epoch : List (Nat × Nat)) (x6 : List Nat) (x7 : State) :
    kept (readHalves r page lap slot epoch x6 x7).1 = kept x7 := by
  fun_induction readHalves r page lap slot epoch x6 x7 <;> (iterate 60 (all_goals try (first
      | intro _ | fail_if_no_progress beta_reduce | extract_lets -underBinder | with_reducible rfl | exact True.intro | assumption
      | with_reducible refine Eq.trans (readHalf_kept' rfl) ?_
      | (have hk := readHalf_kept' (by assumption); refine Eq.trans hk ?_; clear hk) | refine Eq.trans (by assumption) ?_
      | with_reducible refine kept_ite ?_ ?_ | with_reducible refine kept_fst_ite ?_ ?_ | split | dsimp +zetaDelta only)))
  all_goals done

theorem readHalves_kept' {r page lap slot : Nat} {epoch : List (Nat × Nat)} {x6 : List Nat} {x7 : State} {resu}
    (h : readHalves r page lap slot epoch x6 x7 = resu) : kept resu.1 = kept x7 :=
  h ▸ readHalves_kept r page lap slot epoch x6 x7

theorem readHbmEcc_kept (s : State) (r slot : Nat) (epoch : List (Nat × Nat)) (x4 : Nat) (x5 : Nat) (x6 : Nat) (x7 : Nat) :
    kept (readHbmEcc s r slot epoch x4 x5 x6 x7).1 = kept s := by
  fun_induction readHbmEcc s r slot epoch x4 x5 x6 x7 <;> (iterate 60 (all_goals try (first
      | intro _ | fail_if_no_progress beta_reduce | extract_lets -underBinder | with_reducible rfl | with_reducible assumption
      | with_reducible refine Eq.trans (readTables_kept ..) ?_ | with_reducible refine Eq.trans (readHalves_kept' rfl) ?_
      | (have hk := readHalves_kept' (by assumption); refine Eq.trans hk ?_; clear hk) | refine Eq.trans (by assumption) ?_
      | with_reducible refine kept_ite ?_ ?_ | with_reducible refine kept_fst_ite ?_ ?_ | with_reducible refine kept_snd_ite ?_ ?_ | split
      | exact True.intro | dsimp +zetaDelta only)))
  all_goals done

theorem readHbmEcc_kept' {s : State} {r slot : Nat} {epoch : List (Nat × Nat)} {x4 : Nat} {x5 : Nat} {x6 : Nat} {x7 : Nat} {resu}
    (h : readHbmEcc s r slot epoch x4 x5 x6 x7 = resu) : kept resu.1 = kept s :=
  h ▸ readHbmEcc_kept s r slot epoch x4 x5 x6 x7

theorem taskRead_kept (s : State) (a n : Nat) : kept (taskRead s a n).1 = kept s := by
  unfold taskRead
  (iterate 60 (all_goals try (first
      | intro _ | fail_if_no_progress beta_reduce | extract_lets -underBinder | with_reducible rfl | with_reducible assumption
      | with_reducible refine Eq.trans (readHbmEcc_kept' rfl) ?_
      | (have hk := readHbmEcc_kept' (by assumption); refine Eq.trans hk ?_; clear hk) | with_reducible refine kept_ite ?_ ?_
      | with_reducible refine kept_fst_ite ?_ ?_ | with_reducible refine kept_snd_ite ?_ ?_ | split | exact True.intro
      | dsimp +zetaDelta only)))
  all_goals done

theorem taskRead_kept' {s : State} {a n : Nat} {resu} (h : taskRead s a n = resu) : kept resu.1 = kept s := h ▸ taskRead_kept s a n

theorem csConflict_kept (s : State) (u master : Nat) :
    kept (csConflict s u master) = kept s := by
  unfold csConflict
  (iterate 60 (all_goals try (first
      | intro _ | fail_if_no_progress beta_reduce | extract_lets -underBinder | with_reducible rfl | exact True.intro | assumption
      | with_reducible refine Eq.trans (drawFree_kept' rfl) ?_
      | (have hk := drawFree_kept' (by assumption); refine Eq.trans hk ?_; clear hk) | with_reducible refine Eq.trans (updCore_kept ..) ?_
      | with_reducible refine kept_ite ?_ ?_ | split | dsimp +zetaDelta only)))
  all_goals done

theorem bsConflict_kept (s : State) (b master : Nat) :
    kept (bsConflict s b master) = kept s := by
  unfold bsConflict
  (iterate 60 (all_goals try (first
      | intro _ | fail_if_no_progress beta_reduce | extract_lets -underBinder | with_reducible rfl | exact True.intro | assumption
      | with_reducible refine Eq.trans (drawFree_kept' rfl) ?_
      | (have hk := drawFree_kept' (by assumption); refine Eq.trans hk ?_; clear hk)
      | with_reducible refine Eq.trans (updBlock_kept ..) ?_ | with_reducible refine kept_ite ?_ ?_ | split | dsimp +zetaDelta only)))
  all_goals done

theorem noteSignaller_kept (s : State) (t : TumRef) (slot : Nat) : kept (noteSignaller s t slot) = kept s := by
  unfold noteSignaller
  with_reducible repeat' first | intro _ | extract_lets -underBinder | rfl | refine Eq.trans (updRegion_kept ..) ?_ |
    refine Eq.trans (updBlock_kept ..) ?_ | refine kept_ite ?_ ?_ | split

theorem tumSignal_kept (s : State) (t : TumRef) (amount core : Nat) (source slot : Nat) :
    kept (tumSignal s t amount core source slot).1 = kept s := by
  unfold tumSignal
  with_reducible repeat' first | rfl | refine Eq.trans (tumPut_kept ..) ?_ | refine Eq.trans (tumRetest_kept ..) ?_ |
    refine Eq.trans (noteSignaller_kept ..) ?_ | refine kept_fst_ite ?_ ?_ | split

theorem tumSignal_kept' {s : State} {t : TumRef} {amount core : Nat} {source slot : Nat} {resu} (h : tumSignal s t amount core source slot = resu) : kept resu.1 = kept s := h ▸ tumSignal_kept s t amount core source slot

theorem tumArrive_kept (s : State) (t : TumRef) (w : TumPend) : kept (tumArrive s t w) = kept s := by
  unfold tumArrive
  with_reducible repeat' first | intro _ | extract_lets -underBinder | rfl | refine Eq.trans (tumRetest_kept ..) ?_ |
    refine Eq.trans (tumPut_kept ..) ?_ | refine kept_ite ?_ ?_ | split

theorem tumSetCount_kept (s : State) (t : TumRef) (v : Nat) : kept (tumSetCount s t v) = kept s := by
  unfold tumSetCount
  with_reducible repeat' first | rfl | refine Eq.trans (tumRetest_kept ..) ?_ | refine Eq.trans (tumPut_kept ..) ?_ | split

theorem tumDrop_kept (s : State) (u : Nat) : kept (tumDrop s u) = kept s := by
  unfold tumDrop
  (iterate 60 (all_goals try (first
      | intro _ | fail_if_no_progress beta_reduce | extract_lets -underBinder | with_reducible rfl | with_reducible assumption
      | with_reducible refine Eq.trans (tumPut_kept ..) ?_ | with_reducible refine Eq.trans (tumRetest_kept ..) ?_
      | with_reducible refine kept_ite ?_ ?_ | split | exact True.intro | dsimp +zetaDelta only)))
  all_goals done

theorem postCovering_kept (s : State) (e : Nat) : kept (postCovering s e) = kept s := by
  unfold postCovering
  (iterate 60 (all_goals try (first
      | intro _ | fail_if_no_progress beta_reduce | extract_lets -underBinder | with_reducible rfl | with_reducible assumption
      | with_reducible refine Eq.trans (errRegion_kept ..) ?_ | with_reducible refine kept_ite ?_ ?_ | split | exact True.intro
      | dsimp +zetaDelta only)))
  all_goals done

theorem loseEngine_kept (s : State) (detail e : Nat) : kept (loseEngine s detail e) = kept s := by
  unfold loseEngine
  (iterate 60 (all_goals try (first
      | intro _ | fail_if_no_progress beta_reduce | extract_lets -underBinder | with_reducible rfl | with_reducible assumption
      | with_reducible refine Eq.trans (fence_kept ..) ?_ | with_reducible refine Eq.trans (errRegion_kept ..) ?_
      | with_reducible refine Eq.trans (postCovering_kept ..) ?_ | with_reducible refine kept_ite ?_ ?_ | split | exact True.intro
      | dsimp +zetaDelta only)))
  all_goals done

theorem coverStarts_kept (s0 s : State) : kept (coverStarts s0 s) = kept s := by
  unfold coverStarts
  (iterate 60 (all_goals try (first
      | intro _ | fail_if_no_progress beta_reduce | extract_lets -underBinder | with_reducible rfl | with_reducible assumption
      | with_reducible refine Eq.trans (postCovering_kept ..) ?_ | with_reducible refine kept_ite ?_ ?_
      | refine Eq.trans (kept_foldl _ _ _ ?_) ?_ | split | exact True.intro | dsimp +zetaDelta only)))
  all_goals done

theorem handleHalt_kept (s : State) (u reason rec task : Nat) : kept (handleHalt s u reason rec task) = kept s := by
  unfold handleHalt
  (iterate 60 (all_goals try (first
      | intro _ | fail_if_no_progress beta_reduce | extract_lets -underBinder | with_reducible rfl | with_reducible assumption
      | with_reducible refine Eq.trans (postHalt_kept (hcut := by first | assumption | exact fence_kept) ..) ?_
      | with_reducible refine Eq.trans (fence_kept ..) ?_ | with_reducible refine Eq.trans (updCore_kept ..) ?_
      | with_reducible refine Eq.trans (loseEngine_kept ..) ?_ | with_reducible refine kept_ite ?_ ?_ | split | exact True.intro
      | dsimp +zetaDelta only)))
  all_goals done

theorem haltUnit_kept (s : State) (u reason : Nat) (engine pc detail : Nat) :
    kept (haltUnit s u reason engine pc detail) = kept s := by
  unfold haltUnit
  with_reducible repeat' first | rfl | refine Eq.trans (setCore_kept ..) ?_ | refine Eq.trans (tumDrop_kept ..) ?_ |
    refine Eq.trans (vecHeld_kept ..) ?_ | refine Eq.trans (handleHalt_kept ..) ?_ | refine Eq.trans (kept_updLap _ _ rfl rfl) ?_ | split

theorem runField_kept (s : State) (u eng : Nat) (mine : Nat → Bool) (op : Core → Nat → EngRes) :
    kept (runField s u eng mine op) = kept s := by
  unfold runField
  with_reducible repeat' first | intro _ | extract_lets -underBinder | rfl | refine Eq.trans (haltUnit_kept ..) ?_ |
    refine Eq.trans (setCore_kept ..) ?_ | refine kept_ite ?_ ?_ | split

theorem drainNops_kept (u : Nat) (x1 : List Nat) (x2 : State) : kept (drainNops u x1 x2) = kept x2 := by
  fun_induction drainNops u x1 x2 <;>
  with_reducible repeat' first | assumption | rfl | refine Eq.trans (runField_kept ..) ?_ | refine Eq.trans (by assumption) ?_ | split

theorem settleNops_kept (s : State) (u : Nat) : kept (settleNops s u) = kept s := by
  unfold settleNops
  with_reducible repeat' first | rfl | refine Eq.trans (drainNops_kept ..) ?_ | split

theorem vecStep_kept (s : State) (u vop : Nat) (op : Core → List (Nat × Bytes) → Nat → EngRes) : kept (vecStep s u vop op) = kept s := by
  unfold vecStep
  (iterate 60 (all_goals try (first
      | intro _ | fail_if_no_progress beta_reduce | extract_lets -underBinder | with_reducible rfl | with_reducible assumption
      | with_reducible refine Eq.trans (runField_kept ..) ?_ | with_reducible refine Eq.trans (drawFree_kept' rfl) ?_
      | (have hk := drawFree_kept' (by assumption); refine Eq.trans hk ?_; clear hk) | with_reducible refine Eq.trans (fbump_kept ..) ?_
      | with_reducible refine Eq.trans (settleNops_kept ..) ?_ | with_reducible refine kept_ite ?_ ?_ | split | exact True.intro
      | dsimp +zetaDelta only)))
  all_goals done

theorem countedField_kept (s : State) (u eng : Nat) (mine : Nat → Bool) (op : Core → Nat → EngRes) (count : State → State) (ho : ∀ t, kept (count t) = kept t) :
    kept (countedField s u eng mine op count) = kept s := by
  unfold countedField
  with_reducible repeat' first | rfl | refine Eq.trans (ho ..) ?_ | refine Eq.trans (runField_kept ..) ?_ |
    refine Eq.trans (settleNops_kept ..) ?_ | refine kept_ite ?_ ?_ | split

theorem countRom_kept (before s : State) (u : Nat) : kept (countRom before s u) = kept s := by
  unfold countRom
  split
  · exact kept_ite (updCore_kept ..) rfl
  · rfl

theorem sfuStep_kept (s : State) (u op : Nat) (fn : Nat → Nat) : kept (sfuStep s u op fn) = kept s := by
  unfold sfuStep
  exact (countRom_kept ..).trans (countedField_kept _ _ _ _ _ _ fun _ => kept_ite rfl (fbump_kept ..))

theorem redStep_kept (s : State) (u op : Nat) (f : Core → Nat → EngRes) : kept (redStep s u op f) = kept s := by
  unfold redStep
  with_reducible repeat' first | intro _ | extract_lets -underBinder | rfl | refine Eq.trans (countedField_kept _ _ _ _ _ _ ?_) ?_ | split

theorem scanCount_kept (u k : Nat) (s : State) : kept (scanCount u k s) = kept s := rfl

theorem chunkStep_kept (s : State) (u : Nat) : kept (chunkStep s u) = kept s := by
  unfold chunkStep
  with_reducible repeat' first | intro _ | extract_lets -underBinder | rfl | refine Eq.trans (haltUnit_kept ..) ?_ |
    refine Eq.trans (scanCount_kept ..) ?_ | refine Eq.trans (setCore_kept ..) ?_ | refine kept_ite ?_ ?_ | split

theorem countArray_kept (s : State) (u k : Nat) : kept (countArray s u k) = kept s := rfl

theorem closeBatch_kept (s : State) (u : Nat) (put : Option Nat) : keptClose (closeBatch s u put) (kept s) := by
  unfold closeBatch
  (iterate 60 (all_goals try (first
      | intro _ | fail_if_no_progress beta_reduce | extract_lets -underBinder | with_reducible rfl | with_reducible assumption
      | with_reducible refine Eq.trans (countArray_kept ..) ?_ | with_reducible refine Eq.trans (setCore_kept ..) ?_
      | with_reducible refine kept_ite ?_ ?_ | with_reducible refine keptClose_ite ?_ ?_ | with_reducible refine keptClose_closed ?_
      | with_reducible refine keptClose_busy ?_ | with_reducible refine keptClose_stop ?_ | split | exact True.intro
      | dsimp +zetaDelta only)))
  all_goals done

theorem closeBatch_kept' {s : State} {u : Nat} {put : Option Nat} {resu}
    (h : closeBatch s u put = resu) : keptClose resu (kept s) :=
  h ▸ closeBatch_kept s u put

theorem mtxStep_kept (s : State) (u mop : Nat) (op : Core → Nat → EngRes) (cost : State → Nat → Nat) :
    kept (mtxStep s u mop op cost) = kept s := by
  unfold mtxStep
  cases mtxHead s u mop with
  | none => rfl
  | some f =>
    dsimp only
    have h := closeBatch_kept s u none
    cases e : closeBatch s u none <;> rw [e] at h
    · exact (countedField_kept _ _ _ _ _ _ fun _ => countArray_kept ..).trans h
    · exact h
    · exact ((settleNops_kept ..).trans (haltUnit_kept ..)).trans h

theorem batchRetire_kept (s : State) (u : Nat) (c : Core) (f : QField) :
    kept (batchRetire s u c f) = kept s := by
  unfold batchRetire
  (iterate 60 (all_goals try (first
      | intro _ | fail_if_no_progress beta_reduce | extract_lets -underBinder | with_reducible rfl | exact True.intro | assumption
      | with_reducible refine Eq.trans (setCore_kept ..) ?_ | with_reducible refine kept_ite ?_ ?_ | split | dsimp +zetaDelta only)))
  all_goals done

theorem batchFinish_kept (s : State) (u : Nat) (f : QField) : kept (batchFinish s u f) = kept s := by
  unfold batchFinish
  (iterate 60 (all_goals try (first
      | intro _ | fail_if_no_progress beta_reduce | extract_lets -underBinder | with_reducible rfl | with_reducible assumption
      | with_reducible refine Eq.trans (haltUnit_kept ..) ?_ | with_reducible refine Eq.trans (fbump_kept ..) ?_
      | with_reducible refine Eq.trans (countArray_kept ..) ?_ | with_reducible refine Eq.trans (setCore_kept ..) ?_
      | (have hk := closeBatch_kept' (by assumption); refine Eq.trans hk ?_; clear hk)
      | with_reducible refine Eq.trans (batchRetire_kept ..) ?_ | with_reducible refine kept_ite ?_ ?_ | split | exact True.intro
      | dsimp +zetaDelta only)))
  all_goals done

theorem batchStep_kept (s : State) (u : Nat) : kept (batchStep s u) = kept s := by
  unfold batchStep
  (iterate 60 (all_goals try (first
      | intro _ | fail_if_no_progress beta_reduce | extract_lets -underBinder | with_reducible rfl | with_reducible assumption
      | with_reducible refine Eq.trans (haltUnit_kept ..) ?_ | with_reducible refine Eq.trans (batchFinish_kept ..) ?_
      | with_reducible refine Eq.trans (setCore_kept ..) ?_
      | (have hk := closeBatch_kept' (by assumption); refine Eq.trans hk ?_; clear hk) | with_reducible refine kept_ite ?_ ?_ | split
      | exact True.intro | dsimp +zetaDelta only)))
  all_goals done

theorem batchTimeout_kept (s : State) (u : Nat) : kept (batchTimeout s u) = kept s := by
  unfold batchTimeout
  (iterate 60 (all_goals try (first
      | intro _ | fail_if_no_progress beta_reduce | extract_lets -underBinder | with_reducible rfl | with_reducible assumption
      | with_reducible refine Eq.trans (fbump_kept ..) ?_ | with_reducible refine Eq.trans (haltUnit_kept ..) ?_
      | with_reducible refine Eq.trans (countArray_kept ..) ?_ | with_reducible refine Eq.trans (setCore_kept ..) ?_
      | with_reducible refine kept_ite ?_ ?_ | split | exact True.intro | dsimp +zetaDelta only)))
  all_goals done

theorem noteAt_kept (s : State) (u a n : Nat) : kept (noteAt s u a n) = kept s := by
  unfold noteAt
  with_reducible repeat' first | rfl | refine Eq.trans (noteBsRead_kept ..) ?_ | refine Eq.trans (noteHbmRead_kept ..) ?_ | split

theorem eccAt_kept (s : State) (u a n : Nat) :
    keptEcc (eccAt s u a n) (kept s) := by
  unfold eccAt
  (iterate 60 (all_goals try (first
      | intro _ | fail_if_no_progress beta_reduce | extract_lets -underBinder | with_reducible rfl | exact True.intro | assumption
      | (have hk := readCsEcc_kept' (by assumption); refine Eq.trans hk ?_; clear hk)
      | with_reducible refine keptEcc_mono (readCsEcc_kept ..) ?_
      | (have hk := readBsEcc_kept' (by assumption); refine Eq.trans hk ?_; clear hk)
      | with_reducible refine keptEcc_mono (readBsEcc_kept ..) ?_ | with_reducible refine Eq.trans (readHbmEcc_kept' rfl) ?_
      | (have hk := readHbmEcc_kept' (by assumption); refine Eq.trans hk ?_; clear hk) | with_reducible refine kept_ite ?_ ?_
      | with_reducible refine keptEcc_ite ?_ ?_ | with_reducible refine keptEcc_ok ?_ | with_reducible refine keptEcc_halt ?_
      | with_reducible refine keptEcc_bus ?_ | split | dsimp +zetaDelta only)))
  all_goals done

theorem eccAt_kept' {s : State} {u a n : Nat} {resu}
    (h : eccAt s u a n = resu) : keptEcc resu (kept s) :=
  h ▸ eccAt_kept s u a n

theorem conflictAt_kept (s : State) (u m a : Nat) :
    kept (conflictAt s u m a) = kept s := by
  unfold conflictAt
  (iterate 60 (all_goals try (first
      | intro _ | fail_if_no_progress beta_reduce | extract_lets -underBinder | with_reducible rfl | exact True.intro | assumption
      | with_reducible refine Eq.trans (csConflict_kept ..) ?_ | with_reducible refine Eq.trans (bsConflict_kept ..) ?_
      | with_reducible refine kept_ite ?_ ?_ | split | dsimp +zetaDelta only)))
  all_goals done

theorem writeAt_kept (s : State) (u a : Nat) (bs : Bytes) :
    keptUnit (writeAt s u a bs) (kept s) := by
  unfold writeAt
  (iterate 60 (all_goals try (first
      | intro _ | fail_if_no_progress beta_reduce | extract_lets -underBinder | with_reducible rfl | exact True.intro | assumption
      | with_reducible refine Eq.trans (writeCs_kept ..) ?_ | (have hk := writeBs_kept' (by assumption); refine Eq.trans hk ?_; clear hk)
      | (have hk := writeHbm_kept' (by assumption); refine Eq.trans hk ?_; clear hk) | with_reducible refine kept_ite ?_ ?_
      | with_reducible refine keptUnit_ite ?_ ?_ | with_reducible refine keptUnit_ok ?_ | split | dsimp +zetaDelta only)))
  all_goals done

theorem writeAt_kept' {s : State} {u a : Nat} {bs : Bytes} {resu} (h : writeAt s u a bs = resu) : keptUnit resu (kept s) := h ▸ writeAt_kept s u a bs

theorem updMv_kept (s : State) (u m : Nat) (f : Mover → Mover) : kept (updMv s u m f) = kept s := rfl

theorem descRead_kept (s : State) (e : Nat) : kept (descRead s e).1 = kept s := by
  unfold descRead
  (iterate 60 (all_goals try (first
      | intro _ | fail_if_no_progress beta_reduce | extract_lets -underBinder | with_reducible rfl | with_reducible assumption
      | with_reducible refine Eq.trans (taskRead_kept' rfl) ?_
      | (have hk := taskRead_kept' (by assumption); refine Eq.trans hk ?_; clear hk) | with_reducible refine kept_ite ?_ ?_
      | with_reducible refine kept_fst_ite ?_ ?_ | with_reducible refine kept_snd_ite ?_ ?_ | split | exact True.intro
      | dsimp +zetaDelta only)))
  all_goals done

theorem descRead_kept' {s : State} {e : Nat} {resu} (h : descRead s e = resu) : kept resu.1 = kept s := h ▸ descRead_kept s e

theorem armMover_kept (s : State) (u m e : Nat) : kept (armMover s u m e).1 = kept s := by
  unfold armMover
  (iterate 60 (all_goals try (first
      | intro _ | fail_if_no_progress beta_reduce | extract_lets -underBinder | with_reducible rfl | with_reducible assumption
      | with_reducible refine Eq.trans (setCore_kept ..) ?_ | with_reducible refine kept_ite ?_ ?_
      | with_reducible refine kept_fst_ite ?_ ?_ | with_reducible refine kept_snd_ite ?_ ?_ | split | exact True.intro
      | dsimp +zetaDelta only)))
  all_goals done

theorem armMover_kept' {s : State} {u m e : Nat} {resu} (h : armMover s u m e = resu) : kept resu.1 = kept s := h ▸ armMover_kept s u m e

theorem countOob_kept (s : State) (u m : Nat) : kept (countOob s u m) = kept s := by
  unfold countOob
  with_reducible repeat' first | rfl | refine Eq.trans (fput_kept ..) ?_ | refine kept_ite ?_ ?_ | split

theorem readIndex_kept (s : State) (u m ia : Nat) (fresh : Bool) : keptGen (readIndex s u m ia fresh) (kept s) := by
  unfold readIndex
  (iterate 60 (all_goals try (first
      | intro _ | fail_if_no_progress beta_reduce | extract_lets -underBinder | with_reducible rfl | with_reducible assumption
      | (have hk := eccAt_kept' (by assumption); refine Eq.trans hk ?_; clear hk) | with_reducible refine Eq.trans (updMv_kept ..) ?_
      | with_reducible refine Eq.trans (conflictAt_kept ..) ?_ | with_reducible refine Eq.trans (noteAt_kept ..) ?_
      | with_reducible refine kept_ite ?_ ?_ | with_reducible refine keptGen_ite ?_ ?_ | with_reducible refine keptGen_ok ?_
      | with_reducible refine keptGen_halt ?_ | split | exact True.intro | dsimp +zetaDelta only)))
  all_goals done

theorem readIndex_kept' {s : State} {u m ia : Nat} {fresh : Bool} {resu}
    (h : readIndex s u m ia fresh = resu) : keptGen resu (kept s) :=
  h ▸ readIndex_kept s u m ia fresh

theorem noteMiss_kept (s : State) (u m : Nat) (miss : Bool) :
    kept (noteMiss s u m miss) = kept s := by
  unfold noteMiss
  (iterate 60 (all_goals try (first
      | intro _ | fail_if_no_progress beta_reduce | extract_lets -underBinder | with_reducible rfl | exact True.intro | assumption
      | with_reducible refine Eq.trans (countOob_kept ..) ?_ | with_reducible refine kept_ite ?_ ?_ | split | dsimp +zetaDelta only)))
  all_goals done

theorem placeRun_kept (s : State) (u m : Nat) (x y : Mover) (a : Int) : keptGen (placeRun s u m x y a) (kept s) := by
  unfold placeRun
  (iterate 60 (all_goals try (first
      | intro _ | fail_if_no_progress beta_reduce | extract_lets -underBinder | with_reducible rfl | with_reducible assumption
      | with_reducible refine Eq.trans (fbump_kept ..) ?_ | with_reducible refine Eq.trans (updMv_kept ..) ?_
      | with_reducible refine kept_ite ?_ ?_ | with_reducible refine keptGen_ite ?_ ?_ | with_reducible refine keptGen_ok ?_
      | with_reducible refine keptGen_halt ?_ | split | exact True.intro | dsimp +zetaDelta only)))
  all_goals done

theorem placeRun_kept' {s : State} {u m : Nat} {x y : Mover} {a : Int} {resu}
    (h : placeRun s u m x y a = resu) : keptGen resu (kept s) :=
  h ▸ placeRun_kept s u m x y a

theorem genRun_kept (s : State) (u m : Nat) : keptGen (genRun s u m) (kept s) := by
  unfold genRun
  (iterate 60 (all_goals try (first
      | intro _ | fail_if_no_progress beta_reduce | extract_lets -underBinder | with_reducible rfl | with_reducible assumption
      | (have hk := readIndex_kept' (by assumption); refine Eq.trans hk ?_; clear hk)
      | with_reducible refine keptGen_mono (readIndex_kept ..) ?_ | with_reducible refine Eq.trans (noteMiss_kept ..) ?_
      | with_reducible refine Eq.trans (updMv_kept ..) ?_ | (have hk := placeRun_kept' (by assumption); refine Eq.trans hk ?_; clear hk)
      | with_reducible refine keptGen_mono (placeRun_kept ..) ?_ | with_reducible refine kept_ite ?_ ?_
      | with_reducible refine keptGen_ite ?_ ?_ | with_reducible refine keptGen_ok ?_ | with_reducible refine keptGen_halt ?_ | split
      | exact True.intro | dsimp +zetaDelta only)))
  all_goals done

theorem genRun_kept' {s : State} {u m : Nat} {resu} (h : genRun s u m = resu) : keptGen resu (kept s) := h ▸ genRun_kept s u m

theorem runAtHand_kept (s : State) (u m : Nat) : keptGen (runAtHand s u m) (kept s) := by
  unfold runAtHand
  (iterate 60 (all_goals try (first
      | intro _ | fail_if_no_progress beta_reduce | extract_lets -underBinder | with_reducible rfl | exact True.intro | assumption
      | (have hk := genRun_kept' (by assumption); refine Eq.trans hk ?_; clear hk)
      | with_reducible refine keptGen_mono (genRun_kept ..) ?_ | with_reducible refine keptGen_ite ?_ ?_
      | with_reducible refine keptGen_ok ?_ | split | dsimp +zetaDelta only)))
  all_goals done

theorem runAtHand_kept' {s : State} {u m : Nat} {resu} (h : runAtHand s u m = resu) : keptGen resu (kept s) := h ▸ runAtHand_kept s u m

theorem issueReq_kept (s : State) (u m : Nat) (write : Bool) (bs : Bytes) : kept (issueReq s u m write bs) = kept s := by
  unfold issueReq
  (iterate 60 (all_goals try (first
      | intro _ | fail_if_no_progress beta_reduce | extract_lets -underBinder | with_reducible rfl | with_reducible assumption
      | with_reducible refine Eq.trans (updMv_kept ..) ?_ | with_reducible refine Eq.trans (haltUnit_kept ..) ?_
      | with_reducible refine kept_ite ?_ ?_ | split | exact True.intro | dsimp +zetaDelta only)))
  all_goals done

theorem streamRun_kept (s : State) (u m : Nat) : kept (streamRun s u m) = kept s := by
  unfold streamRun
  (iterate 60 (all_goals try (first
      | intro _ | fail_if_no_progress beta_reduce | extract_lets -underBinder | with_reducible rfl | with_reducible assumption
      | with_reducible refine Eq.trans (updCore_kept ..) ?_
      | (have hk := runAtHand_kept' (by assumption); refine Eq.trans hk ?_; clear hk)
      | with_reducible refine Eq.trans (haltUnit_kept ..) ?_ | with_reducible refine Eq.trans (issueReq_kept ..) ?_
      | with_reducible refine Eq.trans (setCore_kept ..) ?_ | with_reducible refine kept_ite ?_ ?_ | split | exact True.intro
      | dsimp +zetaDelta only)))
  all_goals done

theorem streamBusError_kept (s : State) (u m : Nat) : kept (streamBusError s u m) = kept s := by
  unfold streamBusError
  with_reducible repeat' first | intro _ | fail_if_no_progress beta_reduce | extract_lets -underBinder |
    fail_if_no_progress refine Eq.trans (kept_fst _ _) ?_ | fail_if_no_progress refine Eq.trans (kept_snd _ _) ?_ |
    fail_if_no_progress refine Eq.trans (kept_dec _ _ _ _) ?_ | rfl | refine Eq.trans (haltUnit_kept ..) ?_ | refine kept_ite ?_ ?_ |
    split

theorem readForAdd_kept (s : State) (u : Nat) (x : Mover) (q : Inflight) :
    keptEcc (readForAdd s u x q) (kept s) := by
  unfold readForAdd
  (iterate 60 (all_goals try (first
      | intro _ | fail_if_no_progress beta_reduce | extract_lets -underBinder | with_reducible rfl | exact True.intro | assumption
      | (have hk := eccAt_kept' (by assumption); refine Eq.trans hk ?_; clear hk) | with_reducible refine keptEcc_mono (eccAt_kept ..) ?_
      | with_reducible refine Eq.trans (noteAt_kept ..) ?_ | with_reducible refine kept_ite ?_ ?_
      | with_reducible refine keptEcc_ite ?_ ?_ | with_reducible refine keptEcc_ok ?_ | with_reducible refine keptEcc_halt ?_
      | with_reducible refine keptEcc_bus ?_ | split | dsimp +zetaDelta only)))
  all_goals done

theorem readForAdd_kept' {s : State} {u : Nat} {x : Mover} {q : Inflight} {resu}
    (h : readForAdd s u x q = resu) : keptEcc resu (kept s) :=
  h ▸ readForAdd_kept s u x q

theorem acceptWrite_kept (s : State) (u m : Nat) (x : Mover) (q : Inflight) :
    kept (acceptWrite s u m x q) = kept s := by
  unfold acceptWrite
  (iterate 60 (all_goals try (first
      | intro _ | fail_if_no_progress beta_reduce | extract_lets -underBinder | with_reducible rfl | exact True.intro | assumption
      | (have hk := readForAdd_kept' (by assumption); refine Eq.trans hk ?_; clear hk)
      | with_reducible refine Eq.trans (haltUnit_kept ..) ?_ | with_reducible refine Eq.trans (streamBusError_kept ..) ?_
      | (have hk := writeAt_kept' (by assumption); refine Eq.trans hk ?_; clear hk) | with_reducible refine Eq.trans (updCore_kept ..) ?_
      | with_reducible refine Eq.trans (conflictAt_kept ..) ?_ | with_reducible refine Eq.trans (updMv_kept ..) ?_
      | with_reducible refine kept_ite ?_ ?_ | split | dsimp +zetaDelta only)))
  all_goals done

theorem acceptRead_kept (s : State) (u m : Nat) (x : Mover) (q : Inflight) :
    kept (acceptRead s u m x q) = kept s := by
  unfold acceptRead
  (iterate 60 (all_goals try (first
      | intro _ | fail_if_no_progress beta_reduce | extract_lets -underBinder | with_reducible rfl | exact True.intro | assumption
      | (have hk := eccAt_kept' (by assumption); refine Eq.trans hk ?_; clear hk) | with_reducible refine Eq.trans (haltUnit_kept ..) ?_
      | with_reducible refine Eq.trans (streamBusError_kept ..) ?_ | with_reducible refine Eq.trans (updCore_kept ..) ?_
      | with_reducible refine Eq.trans (conflictAt_kept ..) ?_ | with_reducible refine Eq.trans (noteAt_kept ..) ?_
      | with_reducible refine kept_ite ?_ ?_ | split | dsimp +zetaDelta only)))
  all_goals done

theorem streamResponse_kept (s : State) (u m : Nat) :
    kept (streamResponse s u m) = kept s := by
  unfold streamResponse
  (iterate 60 (all_goals try (first
      | intro _ | fail_if_no_progress beta_reduce | extract_lets -underBinder | with_reducible rfl | exact True.intro | assumption
      | with_reducible refine Eq.trans (streamBusError_kept ..) ?_ | with_reducible refine Eq.trans (acceptWrite_kept ..) ?_
      | with_reducible refine Eq.trans (acceptRead_kept ..) ?_ | with_reducible refine kept_ite ?_ ?_ | split | dsimp +zetaDelta only)))
  all_goals done

theorem frameResume_kept (s : State) (u m : Nat) : kept (frameResume s u m) = kept s := by
  unfold frameResume
  with_reducible repeat' first | intro _ | extract_lets -underBinder | rfl | refine Eq.trans (acceptWrite_kept ..) ?_ |
    refine Eq.trans (updMv_kept ..) ?_ | refine kept_ite ?_ ?_ | split

theorem moverOpOf {op : State → QField → Mover → MvRes} (ho : ∀ t f x, keptMv (op t f x) (kept t)) {v0 v1 v2 resu} (h : op v0 v1 v2 = resu) : keptMv resu (kept v0) := h ▸ ho v0 v1 v2

theorem moverOp_kept (s : State) (u m mvop : Nat) (op : State → QField → Mover → MvRes) (f : QField) (ho : ∀ t f x, keptMv (op t f x) (kept t)) :
    keptMv (moverOp s u m mvop op f) (kept s) := by
  unfold moverOp
  with_reducible repeat' first | rfl | exact True.intro | refine keptMv_mono (ho ..) ?_ |
    (have hk := moverOpOf ho (by assumption); refine Eq.trans hk ?_; clear hk) | refine keptMv_ite ?_ ?_ | refine keptMv_halt ?_ | split

theorem moverOp_kept' {s : State} {u m mvop : Nat} {op : State → QField → Mover → MvRes} {f : QField} (ho : ∀ t f x, keptMv (op t f x) (kept t)) {resu} (h : moverOp s u m mvop op f = resu) : keptMv resu (kept s) := h ▸ moverOp_kept s u m mvop op f ho

theorem moverStepOf {op : State → QField → Mover → MvRes} (ho : ∀ t f x, keptMv (op t f x) (kept t)) {v0 v1 v2 resu} (h : op v0 v1 v2 = resu) : keptMv resu (kept v0) := h ▸ ho v0 v1 v2

theorem moverStep_kept (s : State) (u m mvop : Nat) (op : State → QField → Mover → MvRes) (ho : ∀ t f x, keptMv (op t f x) (kept t)) :
    kept (moverStep s u m mvop op) = kept s := by
  unfold moverStep
  (iterate 60 (all_goals try (first
      | intro _ | fail_if_no_progress beta_reduce | extract_lets -underBinder | with_reducible rfl | exact True.intro | assumption
      | with_reducible refine Eq.trans (haltUnit_kept ..) ?_ | with_reducible refine Eq.trans (settleNops_kept ..) ?_
      | with_reducible refine Eq.trans (updCore_kept ..) ?_
      | (have hk := moverOp_kept' ho (by assumption); refine Eq.trans hk ?_; clear hk)
      | (have hk := moverStepOf ho (by assumption); refine Eq.trans hk ?_; clear hk) | with_reducible refine kept_ite ?_ ?_ | split
      | dsimp +zetaDelta only)))
  all_goals done

theorem stopWalk_kept (s : State) (u m : Nat) (f : QField) (x : Mover) : keptOpt (stopWalk s u m f x) (kept s) := by
  unfold stopWalk
  (iterate 60 (all_goals try (first
      | intro _ | fail_if_no_progress beta_reduce | extract_lets -underBinder | with_reducible rfl | exact True.intro | assumption
      | with_reducible refine Eq.trans (updMv_kept ..) ?_ | with_reducible refine Eq.trans (setCore_kept ..) ?_
      | with_reducible refine keptOpt_ite ?_ ?_ | with_reducible refine keptOpt_some ?_ | split | dsimp +zetaDelta only)))
  all_goals done

theorem stopWalk_kept' {s : State} {u m : Nat} {f : QField} {x : Mover} {resu} (h : stopWalk s u m f x = resu) : keptOpt resu (kept s) := h ▸ stopWalk_kept s u m f x

theorem startWalk_kept (s : State) (u m : Nat) (f : QField) (x : Mover) : keptMv (startWalk s u m f x) (kept s) := by
  unfold startWalk
  (iterate 60 (all_goals try (first
      | intro _ | fail_if_no_progress beta_reduce | extract_lets -underBinder | with_reducible rfl | exact True.intro | assumption
      | with_reducible refine Eq.trans (updMv_kept ..) ?_ | with_reducible refine keptMv_ite ?_ ?_ | with_reducible refine keptMv_ok ?_
      | split | dsimp +zetaDelta only)))
  all_goals done

theorem startWalk_kept' {s : State} {u m : Nat} {f : QField} {x : Mover} {resu} (h : startWalk s u m f x = resu) : keptMv resu (kept s) := h ▸ startWalk_kept s u m f x

theorem stopFirst_kept (s : State) (u m : Nat) (f : QField) (x : Mover) : keptOpt (stopFirst s u m f x) (kept s) := by
  unfold stopFirst
  (iterate 60 (all_goals try (first
      | intro _ | fail_if_no_progress beta_reduce | extract_lets -underBinder | with_reducible rfl | exact True.intro | assumption
      | (have hk := stopWalk_kept' (by assumption); refine Eq.trans hk ?_; clear hk)
      | with_reducible refine keptOpt_mono (stopWalk_kept ..) ?_ | with_reducible refine keptOpt_ite ?_ ?_
      | with_reducible refine keptOpt_some ?_ | split | dsimp +zetaDelta only)))
  all_goals done

theorem stopFirst_kept' {s : State} {u m : Nat} {f : QField} {x : Mover} {resu} (h : stopFirst s u m f x = resu) : keptOpt resu (kept s) := h ▸ stopFirst_kept s u m f x

theorem rearm_kept (s : State) (u m : Nat) (f : QField) (x : Mover) : keptMv (rearm s u m f x) (kept s) := by
  unfold rearm
  (iterate 60 (all_goals try (first
      | intro _ | fail_if_no_progress beta_reduce | extract_lets -underBinder | with_reducible rfl | with_reducible assumption
      | (have hk := stopFirst_kept' (by assumption); refine Eq.trans hk ?_; clear hk)
      | with_reducible refine keptOpt_getD (stopFirst_kept ..) ?_ | with_reducible refine Eq.trans (updMv_kept ..) ?_
      | with_reducible refine Eq.trans (descRead_kept' rfl) ?_
      | (have hk := descRead_kept' (by assumption); refine Eq.trans hk ?_; clear hk)
      | with_reducible refine Eq.trans (armMover_kept' rfl) ?_
      | (have hk := armMover_kept' (by assumption); refine Eq.trans hk ?_; clear hk) | with_reducible refine kept_ite ?_ ?_
      | with_reducible refine keptMv_ite ?_ ?_ | with_reducible refine keptMv_ok ?_ | with_reducible refine keptMv_halt ?_ | split
      | exact True.intro | dsimp +zetaDelta only)))
  all_goals done

theorem rearm_kept' {s : State} {u m : Nat} {f : QField} {x : Mover} {resu}
    (h : rearm s u m f x = resu) : keptMv resu (kept s) :=
  h ▸ rearm_kept s u m f x

theorem flushWalk_kept (s : State) (x : Mover) : keptMv (flushWalk s x) (kept s) := by
  unfold flushWalk
  (iterate 60 (all_goals try (first
      | intro _ | fail_if_no_progress beta_reduce | extract_lets -underBinder | with_reducible rfl | exact True.intro | assumption
      | with_reducible refine keptMv_ite ?_ ?_ | with_reducible refine keptMv_ok ?_ | split | dsimp +zetaDelta only)))
  all_goals done

theorem flushWalk_kept' {s : State} {x : Mover} {resu} (h : flushWalk s x = resu) : keptMv resu (kept s) := h ▸ flushWalk_kept s x

theorem takeMover_kept (s : State) (u m : Nat) (f : QField) (x : Mover) : keptMv (takeMover s u m f x) (kept s) := by
  unfold takeMover
  (iterate 60 (all_goals try (first
      | intro _ | fail_if_no_progress beta_reduce | extract_lets -underBinder | with_reducible rfl | with_reducible assumption
      | with_reducible refine Eq.trans (setCore_kept ..) ?_ | with_reducible refine kept_ite ?_ ?_
      | with_reducible refine keptMv_ite ?_ ?_ | with_reducible refine keptMv_ok ?_ | with_reducible refine keptMv_halt ?_ | split
      | exact True.intro | dsimp +zetaDelta only)))
  all_goals done

theorem takeMover_kept' {s : State} {u m : Nat} {f : QField} {x : Mover} {resu}
    (h : takeMover s u m f x = resu) : keptMv resu (kept s) :=
  h ▸ takeMover_kept s u m f x

theorem stepPc_kept (s : State) (u : Nat) : kept (stepPc s u) = kept s := rfl

theorem branchTo_kept (s : State) (u tgt : Nat) : kept (branchTo s u tgt) = kept s := rfl

theorem enqueueFields_kept (s : State) (u w pc : Nat) : kept (enqueueFields s u w pc) = kept s := rfl

theorem issueWordOf {op : State → Nat → SeqRes} (ho : ∀ t w, keptSeq (op t w) (kept t)) {v0 v1 resu} (h : op v0 v1 = resu) : keptSeq resu (kept v0) := h ▸ ho v0 v1

theorem issueWord_kept (s : State) (u : Nat) (mine : Nat → Bool) (op : State → Nat → SeqRes) (ho : ∀ t w, keptSeq (op t w) (kept t)) :
    kept (issueWord s u mine op) = kept s := by
  unfold issueWord
  (iterate 60 (all_goals try (first
      | intro _ | fail_if_no_progress beta_reduce | extract_lets -underBinder | with_reducible rfl | exact True.intro | assumption
      | with_reducible refine Eq.trans (updSeq_kept ..) ?_ | with_reducible refine Eq.trans (settleNops_kept ..) ?_
      | with_reducible refine Eq.trans (enqueueFields_kept ..) ?_ | with_reducible refine Eq.trans (haltUnit_kept ..) ?_
      | (have hk := issueWordOf ho (by assumption); refine Eq.trans hk ?_; clear hk) | with_reducible refine kept_ite ?_ ?_ | split
      | dsimp +zetaDelta only)))
  all_goals done

theorem issueNop_kept (s : State) (u : Nat) : kept (issueNop s u) = kept s :=
  kept_ite (haltUnit_kept ..) (issueWord_kept _ _ _ _ fun _ _ => stepPc_kept ..)

theorem opEnd_kept (u : Nat) (s : State) (x2 : Nat) : keptSeq (opEnd u s x2) (kept s) := rfl

theorem opEnd_kept' {u : Nat} {s : State} {x2 : Nat} {resu} (h : opEnd u s x2 = resu) : keptSeq resu (kept s) := h ▸ opEnd_kept u s x2

theorem opLoop_kept (u : Nat) (s : State) (w : Nat) : keptSeq (opLoop u s w) (kept s) := rfl

theorem opLoop_kept' {u : Nat} {s : State} {w : Nat} {resu} (h : opLoop u s w = resu) : keptSeq resu (kept s) := h ▸ opLoop_kept u s w

theorem opBranch_kept (u : Nat) (s : State) (w : Nat) : keptSeq (opBranch u s w) (kept s) := rfl

theorem opBranch_kept' {u : Nat} {s : State} {w : Nat} {resu} (h : opBranch u s w = resu) : keptSeq resu (kept s) := h ▸ opBranch_kept u s w

theorem opBranchIf_kept (u : Nat) (s : State) (w : Nat) : keptSeq (opBranchIf u s w) (kept s) := by
  unfold opBranchIf
  with_reducible repeat' first | intro _ | extract_lets -underBinder | rfl | exact True.intro | refine Eq.trans (branchTo_kept ..) ?_ |
    refine Eq.trans (stepPc_kept ..) ?_ | refine keptSeq_ite ?_ ?_ | refine keptSeq_go ?_ | split

theorem opBranchIf_kept' {u : Nat} {s : State} {w : Nat} {resu} (h : opBranchIf u s w = resu) : keptSeq resu (kept s) := h ▸ opBranchIf_kept u s w

theorem setLr_kept (s : State) (u i : Nat) (v : Word) : kept (setLr s u i v) = kept s := rfl

theorem opLrSet_kept (u : Nat) (s : State) (w : Nat) : keptSeq (opLrSet u s w) (kept s) := rfl

theorem opLrSet_kept' {u : Nat} {s : State} {w : Nat} {resu} (h : opLrSet u s w = resu) : keptSeq resu (kept s) := h ▸ opLrSet_kept u s w

theorem opLrAdd_kept (u : Nat) (s : State) (w : Nat) : keptSeq (opLrAdd u s w) (kept s) := rfl

theorem opLrAdd_kept' {u : Nat} {s : State} {w : Nat} {resu} (h : opLrAdd u s w = resu) : keptSeq resu (kept s) := h ▸ opLrAdd_kept u s w

theorem opLrFromSum_kept (u : Nat) (s : State) (w : Nat) : keptSeq (opLrFromSum u s w) (kept s) := rfl

theorem opLrFromSum_kept' {u : Nat} {s : State} {w : Nat} {resu} (h : opLrFromSum u s w = resu) : keptSeq resu (kept s) := h ▸ opLrFromSum_kept u s w

theorem opSumPost_kept (u : Nat) (s : State) (w : Nat) : keptSeq (opSumPost u s w) (kept s) := rfl

theorem opSumPost_kept' {u : Nat} {s : State} {w : Nat} {resu} (h : opSumPost u s w = resu) : keptSeq resu (kept s) := h ▸ opSumPost_kept u s w

theorem opFence_kept (u : Nat) (s : State) (x2 : Nat) : keptSeq (opFence u s x2) (kept s) := rfl

theorem opFence_kept' {u : Nat} {s : State} {x2 : Nat} {resu} (h : opFence u s x2 = resu) : keptSeq resu (kept s) := h ▸ opFence_kept u s x2

theorem opHalt_kept (s : State) (w : Nat) : keptSeq (opHalt s w) (kept s) := rfl

theorem opHalt_kept' {s : State} {w : Nat} {resu} (h : opHalt s w = resu) : keptSeq resu (kept s) := h ▸ opHalt_kept s w

theorem putSb_kept (s : State) (b r : Nat) (x : SbRegion) : kept (putSb s b r x) = kept s := rfl

theorem sbOpOf {f : State → SbRegion → SeqRes} (ho : ∀ t x, keptSeq (f t x) (kept t)) {v0 v1 resu} (h : f v0 v1 = resu) : keptSeq resu (kept v0) := h ▸ ho v0 v1

theorem sbOp_kept (u : Nat) (producer : Bool) (f : State → SbRegion → SeqRes) (s : State) (w : Nat) (ho : ∀ t x, keptSeq (f t x) (kept t)) :
    keptSeq (sbOp u producer f s w) (kept s) := by
  unfold sbOp
  with_reducible repeat' first | rfl | exact True.intro | refine keptSeq_mono (ho ..) ?_ |
    (have hk := sbOpOf ho (by assumption); refine Eq.trans hk ?_; clear hk) | refine keptSeq_ite ?_ ?_ | refine keptSeq_halt ?_ | split

theorem sbOp_kept' {u : Nat} {producer : Bool} {f : State → SbRegion → SeqRes} {s : State} {w : Nat} (ho : ∀ t x, keptSeq (f t x) (kept t)) {resu} (h : sbOp u producer f s w = resu) : keptSeq resu (kept s) := h ▸ sbOp_kept u producer f s w ho

theorem noteSb_kept (s : State) (u : Nat) (x : SbRegion) : kept (noteSb s u x) = kept s := rfl

theorem opSbPost_kept (u : Nat) (s : State) (w : Nat) : keptSeq (opSbPost u s w) (kept s) := by
  unfold opSbPost
  (iterate 60 (all_goals try (first
      | intro _ | fail_if_no_progress beta_reduce | extract_lets -underBinder | with_reducible rfl | exact True.intro | assumption
      | with_reducible refine Eq.trans (stepPc_kept ..) ?_ | with_reducible refine Eq.trans (putSb_kept ..) ?_
      | (have hk := sbOp_kept' ho (by assumption); refine Eq.trans hk ?_; clear hk)
      | with_reducible refine keptSeq_mono (sbOp_kept _ _ _ _ _  ?_) ?_ | with_reducible refine keptSeq_ite ?_ ?_
      | with_reducible refine keptSeq_go ?_ | with_reducible refine keptSeq_halt ?_ | split | dsimp +zetaDelta only)))
  all_goals done

theorem opSbPost_kept' {u : Nat} {s : State} {w : Nat} {resu} (h : opSbPost u s w = resu) : keptSeq resu (kept s) := h ▸ opSbPost_kept u s w

theorem opSbWait_kept (u : Nat) (s : State) (w : Nat) : keptSeq (opSbWait u s w) (kept s) := by
  unfold opSbWait
  (iterate 60 (all_goals try (first
      | intro _ | fail_if_no_progress beta_reduce | extract_lets -underBinder | with_reducible rfl | exact True.intro | assumption
      | with_reducible refine Eq.trans (noteSb_kept ..) ?_ | with_reducible refine Eq.trans (stepPc_kept ..) ?_
      | with_reducible refine Eq.trans (updSeq_kept ..) ?_
      | (have hk := sbOp_kept' ho (by assumption); refine Eq.trans hk ?_; clear hk)
      | with_reducible refine keptSeq_mono (sbOp_kept _ _ _ _ _  ?_) ?_ | with_reducible refine keptSeq_ite ?_ ?_
      | with_reducible refine keptSeq_go ?_ | with_reducible refine keptSeq_stall ?_ | split | dsimp +zetaDelta only)))
  all_goals done

theorem opSbWait_kept' {u : Nat} {s : State} {w : Nat} {resu} (h : opSbWait u s w = resu) : keptSeq resu (kept s) := h ▸ opSbWait_kept u s w

theorem opSbRelease_kept (u : Nat) (s : State) (w : Nat) : keptSeq (opSbRelease u s w) (kept s) := by
  unfold opSbRelease
  (iterate 60 (all_goals try (first
      | intro _ | fail_if_no_progress beta_reduce | extract_lets -underBinder | with_reducible rfl | exact True.intro | assumption
      | with_reducible refine Eq.trans (stepPc_kept ..) ?_ | with_reducible refine Eq.trans (putSb_kept ..) ?_
      | (have hk := sbOp_kept' ho (by assumption); refine Eq.trans hk ?_; clear hk)
      | with_reducible refine keptSeq_mono (sbOp_kept _ _ _ _ _  ?_) ?_ | with_reducible refine keptSeq_ite ?_ ?_
      | with_reducible refine keptSeq_go ?_ | with_reducible refine keptSeq_halt ?_ | split | dsimp +zetaDelta only)))
  all_goals done

theorem opSbRelease_kept' {u : Nat} {s : State} {w : Nat} {resu} (h : opSbRelease u s w = resu) : keptSeq resu (kept s) := h ▸ opSbRelease_kept u s w

theorem opSbWaitFree_kept (u : Nat) (s : State) (w : Nat) : keptSeq (opSbWaitFree u s w) (kept s) := by
  unfold opSbWaitFree
  (iterate 60 (all_goals try (first
      | intro _ | fail_if_no_progress beta_reduce | extract_lets -underBinder | with_reducible rfl | exact True.intro | assumption
      | with_reducible refine Eq.trans (stepPc_kept ..) ?_ | with_reducible refine Eq.trans (updSeq_kept ..) ?_
      | (have hk := sbOp_kept' ho (by assumption); refine Eq.trans hk ?_; clear hk)
      | with_reducible refine keptSeq_mono (sbOp_kept _ _ _ _ _  ?_) ?_ | with_reducible refine keptSeq_ite ?_ ?_
      | with_reducible refine keptSeq_go ?_ | with_reducible refine keptSeq_stall ?_ | split | dsimp +zetaDelta only)))
  all_goals done

theorem opSbWaitFree_kept' {u : Nat} {s : State} {w : Nat} {resu} (h : opSbWaitFree u s w = resu) : keptSeq resu (kept s) := h ▸ opSbWaitFree_kept u s w

theorem opTumSignal_kept (u : Nat) (s : State) (w : Nat) : keptSeq (opTumSignal u s w) (kept s) := by
  unfold opTumSignal
  with_reducible repeat' first | intro _ | extract_lets -underBinder | rfl | exact True.intro |
    refine Eq.trans (tumSignal_kept' (by exact rfl)) ?_ | (have hk := tumSignal_kept' (by assumption); refine Eq.trans hk ?_; clear hk) |
    refine Eq.trans (stepPc_kept ..) ?_ | refine keptSeq_ite ?_ ?_ | refine keptSeq_go ?_ | refine keptSeq_halt ?_ | split

theorem opTumSignal_kept' {u : Nat} {s : State} {w : Nat} {resu} (h : opTumSignal u s w = resu) : keptSeq resu (kept s) := h ▸ opTumSignal_kept u s w

theorem opTumWait_kept (u : Nat) (s : State) (w : Nat) : keptSeq (opTumWait u s w) (kept s) := by
  unfold opTumWait
  (iterate 60 (all_goals try (first
      | intro _ | fail_if_no_progress beta_reduce | extract_lets -underBinder | with_reducible rfl | exact True.intro | assumption
      | with_reducible refine Eq.trans (updSeq_kept ..) ?_ | with_reducible refine Eq.trans (tumArrive_kept ..) ?_
      | with_reducible refine Eq.trans (stepPc_kept ..) ?_ | with_reducible refine keptSeq_ite ?_ ?_
      | with_reducible refine keptSeq_go ?_ | with_reducible refine keptSeq_stall ?_ | with_reducible refine kept_ite ?_ ?_ | split
      | dsimp +zetaDelta only)))
  all_goals done

theorem opTumWait_kept' {u : Nat} {s : State} {w : Nat} {resu} (h : opTumWait u s w = resu) : keptSeq resu (kept s) := h ▸ opTumWait_kept u s w

theorem clearCounts_kept (s : State) (u : Nat) :
    kept (clearCounts s u) = kept s := by
  unfold clearCounts
  (iterate 60 (all_goals try (first
      | intro _ | fail_if_no_progress beta_reduce | extract_lets -underBinder | with_reducible rfl | exact True.intro | assumption
      | with_reducible refine Eq.trans (updCore_kept ..) ?_ | with_reducible refine Eq.trans (fput_kept ..) ?_
      | with_reducible refine kept_ite ?_ ?_ | with_reducible refine Eq.trans (kept_foldl _ _ _ ?_) ?_ | split | dsimp +zetaDelta only)))
  all_goals done

theorem armAll_kept (u : Nat) (x1 : List Nat) (x2 : State) : kept (armAll u x1 x2).1 = kept x2 := by
  fun_induction armAll u x1 x2 <;>
  with_reducible repeat' first | assumption | rfl | refine Eq.trans (armMover_kept' (by exact rfl)) ?_ |
    (have hk := armMover_kept' (by assumption); refine Eq.trans hk ?_; clear hk) | refine Eq.trans (by assumption) ?_ | split

theorem armAll_kept' {u : Nat} {x1 : List Nat} {x2 : State} {resu} (h : armAll u x1 x2 = resu) : kept resu.1 = kept x2 := h ▸ armAll_kept u x1 x2

theorem bindRands_kept (s : State) (u : Nat) (k : LapTask) (hdr : Nat) :
    kept (bindRands s u k hdr) = kept s := by
  unfold bindRands
  (iterate 60 (all_goals try (first
      | intro _ | fail_if_no_progress beta_reduce | extract_lets -underBinder | with_reducible rfl | exact True.intro | assumption
      | with_reducible refine Eq.trans (readSystem_kept ..) ?_ | with_reducible refine Eq.trans (updCore_kept ..) ?_
      | with_reducible refine Eq.trans (updTask_kept ..) ?_ | with_reducible refine kept_ite ?_ ?_
      | with_reducible refine Eq.trans (kept_foldl _ _ _ ?_) ?_ | split | dsimp +zetaDelta only)))
  all_goals done

theorem resetChannels_kept (s : State) (u : Nat) : kept (resetChannels s u) = kept s := by
  unfold resetChannels
  with_reducible repeat' first | intro _ | extract_lets -underBinder | rfl | refine Eq.trans (fput_kept ..) ?_ |
    refine Eq.trans (updBlock_kept ..) ?_ | refine kept_ite ?_ ?_ | refine Eq.trans (kept_foldl _ _ _ ?_) ?_ | split

theorem loadProgram_kept (s : State) (u : Nat) (d : TaskDesc) (b : Bytes) :
    kept (loadProgram s u d b) = kept s := by
  unfold loadProgram
  (iterate 60 (all_goals try (first
      | intro _ | fail_if_no_progress beta_reduce | extract_lets -underBinder | with_reducible rfl | exact True.intro | assumption
      | with_reducible refine Eq.trans (updCore_kept ..) ?_ | with_reducible refine kept_ite ?_ ?_ | split | dsimp +zetaDelta only)))
  all_goals done

theorem beginTask_kept (s : State) (u : Nat) (k : LapTask) : kept (beginTask s u k) = kept s := by
  unfold beginTask
  (iterate 60 (all_goals try (first
      | intro _ | fail_if_no_progress beta_reduce | extract_lets -underBinder | with_reducible rfl | with_reducible assumption
      | with_reducible refine Eq.trans (drawFree_kept' rfl) ?_
      | (have hk := drawFree_kept' (by assumption); refine Eq.trans hk ?_; clear hk)
      | with_reducible refine Eq.trans (resetChannels_kept ..) ?_ | with_reducible refine Eq.trans (clearCounts_kept ..) ?_
      | with_reducible refine Eq.trans (setCore_kept ..) ?_ | with_reducible refine Eq.trans (updTask_kept ..) ?_
      | with_reducible refine kept_ite ?_ ?_ | split | exact True.intro | dsimp +zetaDelta only)))
  all_goals done

theorem failStart_kept (s : State) (u reason a : Nat) :
    kept (failStart s u reason a) = kept s := by
  unfold failStart
  (iterate 60 (all_goals try (first
      | intro _ | fail_if_no_progress beta_reduce | extract_lets -underBinder | with_reducible rfl | exact True.intro | assumption
      | with_reducible refine Eq.trans (haltUnit_kept ..) ?_ | with_reducible refine kept_ite ?_ ?_ | split | dsimp +zetaDelta only)))
  all_goals done

theorem unload_kept (s : State) (u : Nat) :
    kept (unload s u) = kept s := by
  unfold unload
  (iterate 60 (all_goals try (first
      | intro _ | fail_if_no_progress beta_reduce | extract_lets -underBinder | with_reducible rfl | exact True.intro | assumption
      | with_reducible refine Eq.trans (updSeq_kept ..) ?_ | with_reducible refine kept_ite ?_ ?_ | split | dsimp +zetaDelta only)))
  all_goals done

theorem readProgram_kept (s : State) (u : Nat) (d : TaskDesc) (reuse : Bool) :
    kept (readProgram s u d reuse) = kept s := by
  unfold readProgram
  (iterate 60 (all_goals try (first
      | intro _ | fail_if_no_progress beta_reduce | extract_lets -underBinder | with_reducible rfl | exact True.intro | assumption
      | with_reducible refine Eq.trans (taskRead_kept' rfl) ?_
      | (have hk := taskRead_kept' (by assumption); refine Eq.trans hk ?_; clear hk)
      | with_reducible refine Eq.trans (failStart_kept ..) ?_ | with_reducible refine Eq.trans (unload_kept ..) ?_
      | with_reducible refine Eq.trans (loadProgram_kept ..) ?_ | with_reducible refine kept_ite ?_ ?_ | split | dsimp +zetaDelta only)))
  all_goals done

theorem readDescs_kept (x0 : List Nat) (x1 : State) : kept (readDescs x0 x1).1 = kept x1 := by
  fun_induction readDescs x0 x1 <;> (iterate 60 (all_goals try (first
      | intro _ | fail_if_no_progress beta_reduce | extract_lets -underBinder | with_reducible rfl | with_reducible assumption
      | with_reducible refine Eq.trans (descRead_kept' rfl) ?_
      | (have hk := descRead_kept' (by assumption); refine Eq.trans hk ?_; clear hk) | refine Eq.trans (by assumption) ?_
      | with_reducible refine kept_ite ?_ ?_ | with_reducible refine kept_fst_ite ?_ ?_ | with_reducible refine kept_snd_ite ?_ ?_ | split
      | exact True.intro | dsimp +zetaDelta only)))
  all_goals done

theorem readDescs_kept' {x0 : List Nat} {x1 : State} {resu} (h : readDescs x0 x1 = resu) : kept resu.1 = kept x1 := h ▸ readDescs_kept x0 x1

theorem armTask_kept (s : State) (u : Nat) (k : LapTask) : kept (armTask s u k) = kept s := by
  unfold armTask
  (iterate 60 (all_goals try (first
      | intro _ | fail_if_no_progress beta_reduce | extract_lets -underBinder | with_reducible rfl | with_reducible assumption
      | with_reducible refine Eq.trans (taskRead_kept' rfl) ?_
      | (have hk := taskRead_kept' (by assumption); refine Eq.trans hk ?_; clear hk)
      | with_reducible refine Eq.trans (failStart_kept ..) ?_ | with_reducible refine Eq.trans (readDescs_kept' rfl) ?_
      | (have hk := readDescs_kept' (by assumption); refine Eq.trans hk ?_; clear hk)
      | with_reducible refine Eq.trans (armAll_kept' rfl) ?_ | (have hk := armAll_kept' (by assumption); refine Eq.trans hk ?_; clear hk)
      | with_reducible refine Eq.trans (updCore_kept ..) ?_ | with_reducible refine Eq.trans (bindRands_kept ..) ?_
      | with_reducible refine Eq.trans (haltUnit_kept ..) ?_ | with_reducible refine kept_ite ?_ ?_ | split | exact True.intro
      | dsimp +zetaDelta only)))
  all_goals done

theorem loadTask_kept (s : State) (u : Nat) (k : LapTask) (reuse : Bool) :
    kept (loadTask s u k reuse) = kept s := by
  unfold loadTask
  (iterate 60 (all_goals try (first
      | intro _ | fail_if_no_progress beta_reduce | extract_lets -underBinder | with_reducible rfl | exact True.intro | assumption
      | with_reducible refine Eq.trans (readProgram_kept ..) ?_ | with_reducible refine Eq.trans (armTask_kept ..) ?_
      | with_reducible refine kept_ite ?_ ?_ | split | dsimp +zetaDelta only)))
  all_goals done

theorem taskStart_kept (s : State) (u : Nat) :
    kept (taskStart s u) = kept s := by
  unfold taskStart
  (iterate 60 (all_goals try (first
      | intro _ | fail_if_no_progress beta_reduce | extract_lets -underBinder | with_reducible rfl | exact True.intro | assumption
      | with_reducible refine Eq.trans (unload_kept ..) ?_ | with_reducible refine Eq.trans (beginTask_kept ..) ?_
      | with_reducible refine Eq.trans (loadTask_kept ..) ?_ | with_reducible refine kept_ite ?_ ?_ | split | dsimp +zetaDelta only)))
  all_goals done

theorem taskFinish_kept (s : State) (u activeNs energyNj : Nat) : kept (taskFinish s u activeNs energyNj) = kept s := by
  unfold taskFinish
  (iterate 60 (all_goals try (first
      | intro _ | fail_if_no_progress beta_reduce | extract_lets -underBinder | with_reducible rfl | with_reducible assumption
      | with_reducible refine Eq.trans (spend_kept ..) ?_ | with_reducible refine Eq.trans (setCore_kept ..) ?_
      | with_reducible refine Eq.trans (updTask_kept ..) ?_ | with_reducible refine kept_ite ?_ ?_ | split | exact True.intro
      | dsimp +zetaDelta only)))
  all_goals done

theorem haltClear_kept (s : State) (u : Nat) : kept (haltClear s u) = kept s := by
  unfold haltClear
  with_reducible repeat' first | rfl | refine Eq.trans (updSeq_kept ..) ?_ | refine kept_ite ?_ ?_ | split

theorem forceHalt_kept (s : State) (u level : Nat) (bar0 : Bool) : kept (forceHalt s u level bar0) = kept s := by
  unfold forceHalt
  with_reducible repeat' first | rfl | refine Eq.trans (haltUnit_kept ..) ?_ | refine kept_ite ?_ ?_ | split

theorem engineReset_kept (s : State) (e : Nat) : kept (engineReset s e) = kept s := by
  unfold engineReset
  (iterate 60 (all_goals try (first
      | intro _ | fail_if_no_progress beta_reduce | extract_lets -underBinder | with_reducible rfl | with_reducible assumption
      | with_reducible refine Eq.trans (setCore_kept ..) ?_ | with_reducible refine kept_ite ?_ ?_
      | fail_if_no_progress refine Eq.trans (kept_mk _ _ _ _ _ _ _ _ _ _ _ _ _ _ _ _ _ _ _ _ _ _ _ _ _ _ _ rfl rfl) ?_ | split
      | exact True.intro | dsimp +zetaDelta only)))
  all_goals done

end Sys2Proof.Machine
end

