-- ==== Sys2Proof/Laws/KeptMoves.lean ====
section
/-! SUPPORT. What the functions over the link, DMA, the hinge, registers with rows of their own, and the recorder leave alone. -/

set_option linter.unusedTactic false
set_option linter.unreachableTactic false

namespace Sys2Proof.Machine

theorem pput_kept (s : State) (f : Fld) (p v : Nat) : kept (pput s f p v) = kept s := rfl

theorem pbump_kept (s : State) (f : Fld) (p k : Nat) : kept (pbump s f p k) = kept s := rfl

theorem setPort_kept (s : State) (p : Nat) (x : Port) : kept (setPort s p x) = kept s := rfl

theorem updPort_kept (s : State) (p : Nat) (f : Port → Port) : kept (updPort s p f) = kept s := rfl

theorem putFlit_kept (s : State) (p seq : Nat) (f : Flit) : kept (putFlit s p seq f) = kept s := by
  unfold putFlit
  (iterate 60 (all_goals try (first
      | intro _ | fail_if_no_progress beta_reduce | extract_lets -underBinder | with_reducible rfl | with_reducible assumption
      | with_reducible refine Eq.trans (drawFree_kept' rfl) ?_
      | (have hk := drawFree_kept' (by assumption); refine Eq.trans hk ?_; clear hk) | with_reducible refine Eq.trans (emit_kept ..) ?_
      | with_reducible refine kept_ite ?_ ?_ | split | exact True.intro | dsimp +zetaDelta only)))
  all_goals done

theorem pump_kept (p : Nat) (x1 : Nat) (x2 : State) : kept (pump p x1 x2) = kept x2 := by
  fun_induction pump p x1 x2 <;> (iterate 60 (all_goals try (first
      | intro _ | fail_if_no_progress beta_reduce | extract_lets -underBinder | with_reducible rfl | with_reducible assumption
      | with_reducible refine Eq.trans (putFlit_kept ..) ?_ | with_reducible refine Eq.trans (setPort_kept ..) ?_
      | refine Eq.trans (by assumption) ?_ | with_reducible refine kept_ite ?_ ?_ | split | exact True.intro | dsimp +zetaDelta only)))
  all_goals done

theorem pumpAll_kept (s : State) (p : Nat) : kept (pumpAll s p) = kept s := by
  unfold pumpAll
  (iterate 60 (all_goals try (first
      | intro _ | fail_if_no_progress beta_reduce | extract_lets -underBinder | with_reducible rfl | with_reducible assumption
      | with_reducible refine Eq.trans (pump_kept ..) ?_ | with_reducible refine Eq.trans (putFlit_kept ..) ?_
      | with_reducible refine kept_ite ?_ ?_ | split | exact True.intro | dsimp +zetaDelta only)))
  all_goals done

theorem portSend_kept (s : State) (p prio : Nat) (fs : List Flit) : kept (portSend s p prio fs) = kept s := by
  unfold portSend
  (iterate 60 (all_goals try (first
      | intro _ | fail_if_no_progress beta_reduce | extract_lets -underBinder | with_reducible rfl | with_reducible assumption
      | with_reducible refine Eq.trans (pumpAll_kept ..) ?_ | with_reducible refine Eq.trans (updPort_kept ..) ?_
      | with_reducible refine kept_ite ?_ ?_ | split | exact True.intro | dsimp +zetaDelta only)))
  all_goals done

theorem partnerLost_kept (s : State) (p : Nat) : kept (partnerLost s p) = kept s := by
  unfold partnerLost
  (iterate 60 (all_goals try (first
      | intro _ | fail_if_no_progress beta_reduce | extract_lets -underBinder | with_reducible rfl | with_reducible assumption
      | with_reducible refine Eq.trans (errPart_kept ..) ?_ | with_reducible refine Eq.trans (fput_kept ..) ?_
      | with_reducible refine Eq.trans (kept_updLap _ _ rfl rfl) ?_ | with_reducible refine kept_ite ?_ ?_ | split | exact True.intro
      | dsimp +zetaDelta only)))
  all_goals done

theorem sendControls_kept (s : State) (dst : Nat) (rs : List (Nat × BitVec 256)) : kept (sendControls s dst rs) = kept s := by
  unfold sendControls
  (iterate 60 (all_goals try (first
      | intro _ | fail_if_no_progress beta_reduce | extract_lets -underBinder | with_reducible rfl | with_reducible assumption
      | with_reducible refine Eq.trans (portSend_kept ..) ?_ | with_reducible refine Eq.trans (updPort_kept ..) ?_
      | with_reducible refine Eq.trans (partnerLost_kept ..) ?_ | with_reducible refine kept_ite ?_ ?_ | split | exact True.intro
      | dsimp +zetaDelta only)))
  all_goals done

theorem sendControl_kept (s : State) (dst type : Nat) (w : BitVec 256) : kept (sendControl s dst type w) = kept s := by
  unfold sendControl
  (iterate 60 (all_goals try (first
      | intro _ | fail_if_no_progress beta_reduce | extract_lets -underBinder | with_reducible rfl | with_reducible assumption
      | with_reducible refine Eq.trans (sendControls_kept ..) ?_ | with_reducible refine kept_ite ?_ ?_ | split | exact True.intro
      | dsimp +zetaDelta only)))
  all_goals done

theorem sendSegment_kept (s : State) (r op cls prio : Nat) (g : Segment) (name : Option Word) (back : Option (DmaEng × Nat × Nat)) :
    keptOpt (sendSegment s r op cls prio g name back) (kept s) := by
  unfold sendSegment
  (iterate 60 (all_goals try (first
      | intro _ | fail_if_no_progress beta_reduce | extract_lets -underBinder | with_reducible rfl | with_reducible assumption
      | with_reducible refine Eq.trans (portSend_kept ..) ?_ | with_reducible refine kept_ite ?_ ?_
      | with_reducible refine keptOpt_ite ?_ ?_ | with_reducible refine keptOpt_some ?_
      | fail_if_no_progress refine Eq.trans (kept_mk _ _ _ _ _ _ _ _ _ _ _ _ _ _ _ _ _ _ _ _ _ _ _ _ _ _ _ rfl rfl) ?_ | split
      | exact True.intro | dsimp +zetaDelta only)))
  all_goals done

theorem sendSegment_kept' {s : State} {r op cls prio : Nat} {g : Segment} {name : Option Word} {back : Option (DmaEng × Nat × Nat)} {resu}
    (h : sendSegment s r op cls prio g name back = resu) : keptOpt resu (kept s) :=
  h ▸ sendSegment_kept s r op cls prio g name back

theorem resendFrom_kept (r : Nat) (p : Resend) (x2 : Nat) (x3 : Nat) (x4 : State) : keptOpt (resendFrom r p x2 x3 x4) (kept x4) := by
  fun_induction resendFrom r p x2 x3 x4 <;> (iterate 60 (all_goals try (first
      | intro _ | fail_if_no_progress beta_reduce | extract_lets -underBinder | with_reducible rfl | with_reducible assumption
      | (have hk := sendSegment_kept' (by assumption); refine Eq.trans hk ?_; clear hk)
      | with_reducible refine keptOpt_mono (sendSegment_kept ..) ?_ | with_reducible refine keptOpt_getD (sendSegment_kept ..) ?_
      | with_reducible refine keptOpt_map ?_ ?_ | refine keptOpt_mono (by assumption) ?_ | with_reducible refine kept_ite ?_ ?_
      | with_reducible refine keptOpt_ite ?_ ?_ | with_reducible refine keptOpt_some ?_ | split | exact True.intro | dsimp +zetaDelta only)))
  all_goals done

theorem resendFrom_kept' {r : Nat} {p : Resend} {x2 : Nat} {x3 : Nat} {x4 : State} {resu}
    (h : resendFrom r p x2 x3 x4 = resu) : keptOpt resu (kept x4) :=
  h ▸ resendFrom_kept r p x2 x3 x4

theorem resendOne_kept (r : Nat) (s : State) (p : Resend) : kept (resendOne r s p) = kept s := by
  unfold resendOne
  extract_lets t
  have ht : kept t = kept s := readSystem_kept ..
  clear_value t
  have h := resendFrom_kept r p (p.data.length / 65536 + 1) 0 t
  exact (keptOpt_getD h (partnerLost_kept ..)).trans ht

theorem chPut_kept (s : State) (fb fr : Fld) (e : DmaEng) (ch v : Nat) : kept (chPut s fb fr e ch v) = kept s := by
  unfold chPut
  with_reducible repeat' first | rfl | refine Eq.trans (fput_kept ..) ?_ | split

theorem setChState_kept (s : State) (e : DmaEng) (ch v : Nat) : kept (setChState s e ch v) = kept s := by
  unfold setChState
  with_reducible repeat' first | rfl | refine Eq.trans (chPut_kept ..) ?_ | split

theorem setChHead_kept (s : State) (e : DmaEng) (ch v : Nat) : kept (setChHead s e ch v) = kept s := by
  unfold setChHead
  with_reducible repeat' first | rfl | refine Eq.trans (chPut_kept ..) ?_ | split

theorem setChan_kept (s : State) (e : DmaEng) (ch : Nat) (x : DmaChan) : kept (setChan s e ch x) = kept s := by
  unfold setChan
  with_reducible repeat' first | rfl | refine Eq.trans (updBlock_kept ..) ?_ | refine Eq.trans (updRegion_kept ..) ?_ | split

theorem updChan_kept (s : State) (e : DmaEng) (ch : Nat) (f : DmaChan → DmaChan) : kept (updChan s e ch f) = kept s := by
  unfold updChan
  with_reducible repeat' first | rfl | refine Eq.trans (setChan_kept ..) ?_ | split

theorem eccPlace_kept (s : State) (core : Option Nat) (slot n : Nat) (x5 : Place) :
    keptEcc (eccPlace s core slot n x5) (kept s) := by
  unfold eccPlace
  (iterate 60 (all_goals try (first
      | intro _ | fail_if_no_progress beta_reduce | extract_lets -underBinder | with_reducible rfl | exact True.intro | assumption
      | (have hk := readCsEcc_kept' (by assumption); refine Eq.trans hk ?_; clear hk)
      | with_reducible refine keptEcc_mono (readCsEcc_kept ..) ?_
      | (have hk := readBsEcc_kept' (by assumption); refine Eq.trans hk ?_; clear hk)
      | with_reducible refine keptEcc_mono (readBsEcc_kept ..) ?_ | with_reducible refine Eq.trans (readHbmEcc_kept' rfl) ?_
      | (have hk := readHbmEcc_kept' (by assumption); refine Eq.trans hk ?_; clear hk) | with_reducible refine kept_ite ?_ ?_
      | with_reducible refine keptEcc_ite ?_ ?_ | with_reducible refine keptEcc_ok ?_ | with_reducible refine keptEcc_halt ?_
      | with_reducible refine keptEcc_bus ?_ | split | dsimp +zetaDelta only)))
  all_goals done

theorem eccPlace_kept' {s : State} {core : Option Nat} {slot n : Nat} {x5 : Place} {resu}
    (h : eccPlace s core slot n x5 = resu) : keptEcc resu (kept s) :=
  h ▸ eccPlace_kept s core slot n x5

theorem dmaConflict_kept (s : State) (e : DmaEng) (x3 : Place) :
    kept (dmaConflict s e x3) = kept s := by
  unfold dmaConflict
  (iterate 60 (all_goals try (first
      | intro _ | fail_if_no_progress beta_reduce | extract_lets -underBinder | with_reducible rfl | exact True.intro | assumption
      | with_reducible refine Eq.trans (csConflict_kept ..) ?_ | with_reducible refine Eq.trans (bsConflict_kept ..) ?_
      | with_reducible refine kept_ite ?_ ?_ | split | dsimp +zetaDelta only)))
  all_goals done

theorem notePlace_kept (s : State) (slot n : Nat) (x3 : Place) : kept (notePlace s slot n x3) = kept s := by
  unfold notePlace
  with_reducible repeat' first | rfl | refine Eq.trans (noteBsRead_kept ..) ?_ | refine Eq.trans (noteHbmRead_kept ..) ?_ |
    refine Eq.trans (hostFetch_kept ..) ?_ | split

theorem writePlace_kept (s : State) (core : Option Nat) (slot : Nat) (bs : Bytes) (p : Place) :
    keptUnit (writePlace s core slot bs p) (kept s) := by
  unfold writePlace
  (iterate 60 (all_goals try (first
      | intro _ | fail_if_no_progress beta_reduce | extract_lets -underBinder | with_reducible rfl | exact True.intro | assumption
      | with_reducible refine Eq.trans (writeCs_kept ..) ?_ | (have hk := writeBs_kept' (by assumption); refine Eq.trans hk ?_; clear hk)
      | (have hk := writeHbm_kept' (by assumption); refine Eq.trans hk ?_; clear hk)
      | with_reducible refine Eq.trans (hostWrite_kept ..) ?_ | with_reducible refine Eq.trans (hostTouch_kept ..) ?_
      | with_reducible refine kept_ite ?_ ?_ | with_reducible refine keptUnit_ite ?_ ?_ | with_reducible refine keptUnit_ok ?_ | split
      | dsimp +zetaDelta only)))
  all_goals done

theorem writePlace_kept' {s : State} {core : Option Nat} {slot : Nat} {bs : Bytes} {p : Place} {resu} (h : writePlace s core slot bs p = resu) : keptUnit resu (kept s) := h ▸ writePlace_kept s core slot bs p

theorem touchEntry_kept (s : State) (e : DmaEng) (ch i : Nat) : kept (touchEntry s e ch i) = kept s := by
  unfold touchEntry
  (iterate 60 (all_goals try (first
      | intro _ | fail_if_no_progress beta_reduce | extract_lets -underBinder | with_reducible rfl | with_reducible assumption
      | with_reducible refine Eq.trans (dmaConflict_kept ..) ?_ | with_reducible refine Eq.trans (notePlace_kept ..) ?_
      | with_reducible refine kept_ite ?_ ?_ | split | exact True.intro | dsimp +zetaDelta only)))
  all_goals done

theorem writeEntry_kept (s : State) (e : DmaEng) (ch i w : Nat) : kept (writeEntry s e ch i w) = kept s := by
  unfold writeEntry
  (iterate 60 (all_goals try (first
      | intro _ | fail_if_no_progress beta_reduce | extract_lets -underBinder | with_reducible rfl | with_reducible assumption
      | (have hk := writePlace_kept' (by assumption); refine Eq.trans hk ?_; clear hk)
      | with_reducible refine Eq.trans (dmaConflict_kept ..) ?_ | with_reducible refine Eq.trans (updChan_kept ..) ?_
      | with_reducible refine kept_ite ?_ ?_ | split | exact True.intro | dsimp +zetaDelta only)))
  all_goals done

theorem payOwed_kept (s : State) (e : DmaEng) (ch : Nat) : kept (payOwed s e ch) = kept s := by
  unfold payOwed
  (iterate 60 (all_goals try (first
      | intro _ | fail_if_no_progress beta_reduce | extract_lets -underBinder | with_reducible rfl | with_reducible assumption
      | with_reducible refine Eq.trans (writeEntry_kept ..) ?_ | with_reducible refine kept_ite ?_ ?_
      | refine Eq.trans (kept_foldl _ _ _ ?_) ?_ | refine Eq.trans (kept_foldlPair _ _ _ ?_) ?_ | split | exact True.intro
      | dsimp +zetaDelta only)))
  all_goals done

theorem settleChan_kept (s : State) (e : DmaEng) (ch : Nat) : kept (settleChan s e ch) = kept s := by
  unfold settleChan
  (iterate 60 (all_goals try (first
      | intro _ | fail_if_no_progress beta_reduce | extract_lets -underBinder | with_reducible rfl | with_reducible assumption
      | with_reducible refine Eq.trans (setChState_kept ..) ?_ | with_reducible refine Eq.trans (touchEntry_kept ..) ?_
      | with_reducible refine kept_ite ?_ ?_ | split | exact True.intro | dsimp +zetaDelta only)))
  all_goals done

theorem freeRegionChan_kept (s : State) (e : DmaEng) (ch : Nat) : kept (freeRegionChan s e ch) = kept s := by
  unfold freeRegionChan
  with_reducible repeat' first | intro _ | extract_lets -underBinder | rfl | refine Eq.trans (setChState_kept ..) ?_ |
    refine Eq.trans (setChan_kept ..) ?_ | refine kept_ite ?_ ?_ | split

theorem haltOwner_kept (s : State) (e : DmaEng) (ch reason detail : Nat) :
    kept (haltOwner s e ch reason detail) = kept s := by
  unfold haltOwner
  with_reducible repeat' first | rfl | refine Eq.trans (haltUnit_kept ..) ?_ | refine kept_ite ?_ ?_ | split

theorem refuseDesc_kept (s : State) (e : DmaEng) (ch w : Nat) (kind arg : Nat) :
    kept (refuseDesc s e ch w kind arg) = kept s := by
  unfold refuseDesc
  with_reducible repeat' first | rfl | refine Eq.trans (writeEntry_kept ..) ?_ | refine Eq.trans (updChan_kept ..) ?_ |
    refine Eq.trans (setChHead_kept ..) ?_ | refine Eq.trans (setChState_kept ..) ?_ | refine Eq.trans (haltOwner_kept ..) ?_ |
    refine Eq.trans (chPut_kept ..) ?_ | refine kept_ite ?_ ?_ | split

theorem abortRing_kept (e : DmaEng) (ch : Nat) (x2 : Nat) (x3 : Nat) (x4 : State) (x5 : List (Nat × Nat)) :
    kept (abortRing e ch x2 x3 x4 x5).1 = kept x4 := by
  fun_induction abortRing e ch x2 x3 x4 x5 <;> (iterate 60 (all_goals try (first
      | intro _ | fail_if_no_progress beta_reduce | extract_lets -underBinder | with_reducible rfl | with_reducible assumption
      | with_reducible refine Eq.trans (touchEntry_kept ..) ?_ | with_reducible refine Eq.trans (writeEntry_kept ..) ?_
      | refine Eq.trans (by assumption) ?_ | with_reducible refine kept_ite ?_ ?_ | with_reducible refine kept_fst_ite ?_ ?_
      | with_reducible refine kept_snd_ite ?_ ?_ | split | exact True.intro | dsimp +zetaDelta only)))
  all_goals done

theorem abortRing_kept' {e : DmaEng} {ch : Nat} {x2 : Nat} {x3 : Nat} {x4 : State} {x5 : List (Nat × Nat)} {resu}
    (h : abortRing e ch x2 x3 x4 x5 = resu) : kept resu.1 = kept x4 :=
  h ▸ abortRing_kept e ch x2 x3 x4 x5

theorem setForSig_kept (e : DmaEng) (s : State) (w : Nat) : kept (setForSig e s w) = kept s := by
  unfold setForSig
  with_reducible repeat' first | rfl | refine Eq.trans (tumSetCount_kept ..) ?_ | refine kept_ite ?_ ?_ | split

theorem abortChan_kept (s : State) (e : DmaEng) (ch : Nat) : kept (abortChan s e ch) = kept s := by
  unfold abortChan
  (iterate 60 (all_goals try (first
      | intro _ | fail_if_no_progress beta_reduce | extract_lets -underBinder | with_reducible rfl | with_reducible assumption
      | with_reducible refine Eq.trans (abortRing_kept' rfl) ?_
      | (have hk := abortRing_kept' (by assumption); refine Eq.trans hk ?_; clear hk)
      | with_reducible refine Eq.trans (setForSig_kept ..) ?_ | with_reducible refine Eq.trans (setChHead_kept ..) ?_
      | with_reducible refine Eq.trans (setChState_kept ..) ?_ | with_reducible refine Eq.trans (chPut_kept ..) ?_
      | with_reducible refine Eq.trans (updChan_kept ..) ?_ | with_reducible refine kept_ite ?_ ?_
      | refine Eq.trans (kept_foldl _ _ _ ?_) ?_ | refine Eq.trans (kept_foldlPair _ _ _ ?_) ?_ | split | exact True.intro
      | dsimp +zetaDelta only)))
  all_goals done

theorem stopChan_kept (s : State) (e : DmaEng) (ch w : Nat) (kind dir : Nat) (addr space delivered : Nat) :
    kept (stopChan s e ch w kind dir addr space delivered) = kept s := by
  unfold stopChan
  with_reducible repeat' first | rfl | refine Eq.trans (writeEntry_kept ..) ?_ | refine Eq.trans (freeRegionChan_kept ..) ?_ |
    refine Eq.trans (updChan_kept ..) ?_ | refine Eq.trans (chPut_kept ..) ?_ | refine Eq.trans (setChState_kept ..) ?_ | split

theorem postFail_kept (s : State) (e : DmaEng) (ch kind : Nat) : kept (postFail s e ch kind) = kept s := by
  unfold postFail
  with_reducible repeat' first | rfl | refine Eq.trans (errBlock_kept ..) ?_ | refine Eq.trans (errRegion_kept ..) ?_ | split

theorem noteBadAddr_kept (s : State) (e : DmaEng) (ch kind : Nat) (addr space : Nat) :
    kept (noteBadAddr s e ch kind addr space) = kept s := by
  unfold noteBadAddr
  with_reducible repeat' first | rfl | refine Eq.trans (updTask_kept ..) ?_ | refine kept_ite ?_ ?_ | split

theorem noteCopy_kept (s : State) (e : DmaEng) (ch w : Nat) : kept (noteCopy s e ch w) = kept s := by
  unfold noteCopy
  (iterate 60 (all_goals try (first
      | intro _ | fail_if_no_progress beta_reduce | extract_lets -underBinder | with_reducible rfl | with_reducible assumption
      | with_reducible refine Eq.trans (updChan_kept ..) ?_ | with_reducible refine kept_ite ?_ ?_ | split | exact True.intro
      | dsimp +zetaDelta only)))
  all_goals done

theorem endCopy_kept (s : State) (e : DmaEng) (ch : Nat) : kept (endCopy s e ch) = kept s := by
  unfold endCopy
  (iterate 60 (all_goals try (first
      | intro _ | fail_if_no_progress beta_reduce | extract_lets -underBinder | with_reducible rfl | with_reducible assumption
      | with_reducible refine Eq.trans (updChan_kept ..) ?_ | with_reducible refine kept_ite ?_ ?_ | split | exact True.intro
      | dsimp +zetaDelta only)))
  all_goals done

theorem noteHostFail_kept (s : State) (e : DmaEng) (ch w addr : Nat) : kept (noteHostFail s e ch w addr) = kept s := by
  unfold noteHostFail
  (iterate 60 (all_goals try (first
      | intro _ | fail_if_no_progress beta_reduce | extract_lets -underBinder | with_reducible rfl | with_reducible assumption
      | with_reducible refine Eq.trans (updChan_kept ..) ?_ | with_reducible refine Eq.trans (kept_updLap _ _ rfl rfl) ?_
      | with_reducible refine kept_ite ?_ ?_ | split | exact True.intro | dsimp +zetaDelta only)))
  all_goals done

theorem failTransfer_kept (s : State) (e : DmaEng) (ch w kind dir addr space delivered : Nat) :
    kept (failTransfer s e ch w kind dir addr space delivered) = kept s := by
  unfold failTransfer
  (iterate 60 (all_goals try (first
      | intro _ | fail_if_no_progress beta_reduce | extract_lets -underBinder | with_reducible rfl | with_reducible assumption
      | with_reducible refine Eq.trans (noteBadAddr_kept ..) ?_ | with_reducible refine Eq.trans (postFail_kept ..) ?_
      | with_reducible refine Eq.trans (stopChan_kept ..) ?_ | with_reducible refine Eq.trans (abortChan_kept ..) ?_
      | with_reducible refine Eq.trans (haltOwner_kept ..) ?_ | with_reducible refine Eq.trans (noteHostFail_kept ..) ?_
      | with_reducible refine Eq.trans (setForSig_kept ..) ?_ | with_reducible refine Eq.trans (kept_updLap _ _ rfl rfl) ?_
      | with_reducible refine kept_ite ?_ ?_ | split | exact True.intro | dsimp +zetaDelta only)))
  all_goals done

theorem landBytes_kept (s : State) (e : DmaEng) (ch w n : Nat) (bs : Bytes) : keptXfer (landBytes s e ch w n bs) (kept s) := by
  unfold landBytes
  (iterate 60 (all_goals try (first
      | intro _ | fail_if_no_progress beta_reduce | extract_lets -underBinder | with_reducible rfl | exact True.intro | assumption
      | with_reducible refine Eq.trans (updChan_kept ..) ?_
      | (have hk := writePlace_kept' (by assumption); refine Eq.trans hk ?_; clear hk) | with_reducible refine keptXfer_ite ?_ ?_
      | with_reducible refine keptXfer_ok ?_ | with_reducible refine keptXfer_halt ?_ | split | dsimp +zetaDelta only)))
  all_goals done

theorem landBytes_kept' {s : State} {e : DmaEng} {ch w n : Nat} {bs : Bytes} {resu} (h : landBytes s e ch w n bs = resu) : keptXfer resu (kept s) := h ▸ landBytes_kept s e ch w n bs

theorem offload_kept (s : State) (n : Nat) (src dst : Place) : keptOpt (offload s n src dst) (kept s) := by
  unfold offload
  (iterate 60 (all_goals try (first
      | intro _ | fail_if_no_progress beta_reduce | extract_lets -underBinder | with_reducible rfl | with_reducible assumption
      | with_reducible refine Eq.trans (kept_updLap _ _ rfl rfl) ?_ | with_reducible refine kept_ite ?_ ?_
      | with_reducible refine keptOpt_ite ?_ ?_ | with_reducible refine keptOpt_some ?_ | split | exact True.intro | dsimp +zetaDelta only)))
  all_goals done

theorem offload_kept' {s : State} {n : Nat} {src dst : Place} {resu}
    (h : offload s n src dst = resu) : keptOpt resu (kept s) :=
  h ▸ offload_kept s n src dst

theorem burstsEcc_kept (r slot page off n : Nat) (x6 : Nat) (x7 : Nat) (x8 : State) :
    keptSrc (burstsEcc r slot page off n x6 x7 x8) (kept x8) := by
  fun_induction burstsEcc r slot page off n x6 x7 x8 <;> (iterate 60 (all_goals try (first
      | intro _ | fail_if_no_progress beta_reduce | extract_lets -underBinder | with_reducible rfl | exact True.intro | assumption
      | with_reducible refine Eq.trans (readHbmEcc_kept' rfl) ?_
      | (have hk := readHbmEcc_kept' (by assumption); refine Eq.trans hk ?_; clear hk) | refine keptSrc_mono (by assumption) ?_
      | with_reducible refine kept_ite ?_ ?_ | with_reducible refine keptSrc_ite ?_ ?_ | with_reducible refine keptSrc_ok ?_
      | with_reducible refine keptSrc_lost ?_ | with_reducible refine keptSrc_halt ?_ | split | dsimp +zetaDelta only)))
  all_goals done

theorem burstsEcc_kept' {r slot page off n : Nat} {x6 : Nat} {x7 : Nat} {x8 : State} {resu}
    (h : burstsEcc r slot page off n x6 x7 x8 = resu) : keptSrc resu (kept x8) :=
  h ▸ burstsEcc_kept r slot page off n x6 x7 x8

theorem sourceEcc_kept (s : State) (e : DmaEng) (ch n : Nat) (x5 : Place) :
    keptSrc (sourceEcc s e ch n x5) (kept s) := by
  unfold sourceEcc
  (iterate 60 (all_goals try (first
      | intro _ | fail_if_no_progress beta_reduce | extract_lets -underBinder | with_reducible rfl | exact True.intro | assumption
      | (have hk := burstsEcc_kept' (by assumption); refine Eq.trans hk ?_; clear hk)
      | with_reducible refine keptSrc_mono (burstsEcc_kept ..) ?_
      | (have hk := eccPlace_kept' (by assumption); refine Eq.trans hk ?_; clear hk) | with_reducible refine kept_ite ?_ ?_
      | with_reducible refine keptSrc_ite ?_ ?_ | with_reducible refine keptSrc_ok ?_ | with_reducible refine keptSrc_lost ?_
      | with_reducible refine keptSrc_halt ?_ | split | dsimp +zetaDelta only)))
  all_goals done

theorem sourceEcc_kept' {s : State} {e : DmaEng} {ch n : Nat} {x5 : Place} {resu}
    (h : sourceEcc s e ch n x5 = resu) : keptSrc resu (kept s) :=
  h ▸ sourceEcc_kept s e ch n x5

theorem copyBytes_kept (s : State) (e : DmaEng) (ch w n : Nat) (src dst : Place) : keptXfer (copyBytes s e ch w n src dst) (kept s) := by
  unfold copyBytes
  (iterate 60 (all_goals try (first
      | intro _ | fail_if_no_progress beta_reduce | extract_lets -underBinder | with_reducible rfl | with_reducible assumption
      | (have hk := sourceEcc_kept' (by assumption); refine Eq.trans hk ?_; clear hk)
      | (have hk := landBytes_kept' (by assumption); refine Eq.trans hk ?_; clear hk)
      | with_reducible refine keptXfer_mono (landBytes_kept ..) ?_ | with_reducible refine Eq.trans (dmaConflict_kept ..) ?_
      | with_reducible refine Eq.trans (notePlace_kept ..) ?_ | with_reducible refine kept_ite ?_ ?_
      | with_reducible refine keptXfer_ite ?_ ?_ | with_reducible refine keptXfer_ok ?_ | with_reducible refine keptXfer_fail ?_
      | with_reducible refine keptXfer_halt ?_ | split | exact True.intro | dsimp +zetaDelta only)))
  all_goals done

theorem copyBytes_kept' {s : State} {e : DmaEng} {ch w n : Nat} {src dst : Place} {resu}
    (h : copyBytes s e ch w n src dst = resu) : keptXfer resu (kept s) :=
  h ▸ copyBytes_kept s e ch w n src dst

theorem moveBytes_kept (s : State) (e : DmaEng) (ch w n : Nat) (src dst : Place) : keptXfer (moveBytes s e ch w n src dst) (kept s) := by
  unfold moveBytes
  (iterate 60 (all_goals try (first
      | intro _ | fail_if_no_progress beta_reduce | extract_lets -underBinder | with_reducible rfl | with_reducible assumption
      | (have hk := offload_kept' (by assumption); refine Eq.trans hk ?_; clear hk)
      | with_reducible refine keptOpt_getD (offload_kept ..) ?_
      | (have hk := copyBytes_kept' (by assumption); refine Eq.trans hk ?_; clear hk)
      | with_reducible refine keptXfer_mono (copyBytes_kept ..) ?_
      | (have hk := landBytes_kept' (by assumption); refine Eq.trans hk ?_; clear hk)
      | with_reducible refine keptXfer_mono (landBytes_kept ..) ?_ | with_reducible refine Eq.trans (dmaConflict_kept ..) ?_
      | (have hk := sourceEcc_kept' (by assumption); refine Eq.trans hk ?_; clear hk) | with_reducible refine kept_ite ?_ ?_
      | with_reducible refine keptXfer_ite ?_ ?_ | with_reducible refine keptXfer_ok ?_ | with_reducible refine keptXfer_fail ?_
      | with_reducible refine keptXfer_halt ?_ | split | exact True.intro | dsimp +zetaDelta only)))
  all_goals done

theorem moveBytes_kept' {s : State} {e : DmaEng} {ch w n : Nat} {src dst : Place} {resu}
    (h : moveBytes s e ch w n src dst = resu) : keptXfer resu (kept s) :=
  h ▸ moveBytes_kept s e ch w n src dst

theorem localXfer_kept (s : State) (e : DmaEng) (ch w n : Nat) : keptXfer (localXfer s e ch w n) (kept s) := by
  unfold localXfer
  (iterate 60 (all_goals try (first
      | intro _ | fail_if_no_progress beta_reduce | extract_lets -underBinder | with_reducible rfl | with_reducible assumption
      | (have hk := moveBytes_kept' (by assumption); refine Eq.trans hk ?_; clear hk)
      | with_reducible refine keptXfer_mono (moveBytes_kept ..) ?_ | with_reducible refine kept_ite ?_ ?_
      | with_reducible refine keptXfer_ite ?_ ?_ | with_reducible refine keptXfer_ok ?_ | with_reducible refine keptXfer_fail ?_
      | with_reducible refine keptXfer_halt ?_ | split | exact True.intro | dsimp +zetaDelta only)))
  all_goals done

theorem localXfer_kept' {s : State} {e : DmaEng} {ch w n : Nat} {resu}
    (h : localXfer s e ch w n = resu) : keptXfer resu (kept s) :=
  h ▸ localXfer_kept s e ch w n

theorem noteSent_kept (s : State) (e : DmaEng) (ch part xid : Nat) : kept (noteSent s e ch part xid) = kept s := by
  unfold noteSent
  with_reducible repeat' first | rfl | refine Eq.trans (updTask_kept ..) ?_ | refine Eq.trans (kept_updLap _ _ rfl rfl) ?_ | split

theorem sendExchange_kept (e : DmaEng) (ch w r part xid : Nat) (whole : Bool) (bs : Bytes) (x8 : Nat) (x9 : Nat) (x10 : State) :
    keptOpt (sendExchange e ch w r part xid whole bs x8 x9 x10) (kept x10) := by
  fun_induction sendExchange e ch w r part xid whole bs x8 x9 x10 <;> (iterate 60 (all_goals try (first
      | intro _ | fail_if_no_progress beta_reduce | extract_lets -underBinder | with_reducible rfl | with_reducible assumption
      | (have hk := sendSegment_kept' (by assumption); refine Eq.trans hk ?_; clear hk)
      | with_reducible refine keptOpt_mono (sendSegment_kept ..) ?_ | with_reducible refine keptOpt_getD (sendSegment_kept ..) ?_
      | refine keptOpt_mono (by assumption) ?_ | with_reducible refine kept_ite ?_ ?_ | with_reducible refine keptOpt_ite ?_ ?_
      | with_reducible refine keptOpt_some ?_ | split | exact True.intro | dsimp +zetaDelta only)))
  all_goals done

theorem sendExchange_kept' {e : DmaEng} {ch w r part xid : Nat} {whole : Bool} {bs : Bytes} {x8 : Nat} {x9 : Nat} {x10 : State} {resu}
    (h : sendExchange e ch w r part xid whole bs x8 x9 x10 = resu) : keptOpt resu (kept x10) :=
  h ▸ sendExchange_kept e ch w r part xid whole bs x8 x9 x10

theorem exchangeXfer_kept (s : State) (e : DmaEng) (ch w : Nat) : keptXfer (exchangeXfer s e ch w) (kept s) := by
  unfold exchangeXfer
  (iterate 60 (all_goals try (first
      | intro _ | fail_if_no_progress beta_reduce | extract_lets -underBinder | with_reducible rfl | with_reducible assumption
      | (have hk := sourceEcc_kept' (by assumption); refine Eq.trans hk ?_; clear hk)
      | (have hk := sendExchange_kept' (by assumption); refine Eq.trans hk ?_; clear hk)
      | with_reducible refine keptOpt_getD (sendExchange_kept ..) ?_ | with_reducible refine Eq.trans (notePlace_kept ..) ?_
      | with_reducible refine Eq.trans (partnerLost_kept ..) ?_ | with_reducible refine Eq.trans (noteSent_kept ..) ?_
      | with_reducible refine Eq.trans (updTask_kept ..) ?_ | with_reducible refine Eq.trans (updRegion_kept ..) ?_
      | with_reducible refine Eq.trans (updChan_kept ..) ?_ | with_reducible refine kept_ite ?_ ?_
      | with_reducible refine keptXfer_ite ?_ ?_ | with_reducible refine keptXfer_ok ?_ | with_reducible refine keptXfer_fail ?_
      | with_reducible refine keptXfer_halt ?_ | split | exact True.intro | dsimp +zetaDelta only)))
  all_goals done

theorem exchangeXfer_kept' {s : State} {e : DmaEng} {ch w : Nat} {resu}
    (h : exchangeXfer s e ch w = resu) : keptXfer resu (kept s) :=
  h ▸ exchangeXfer_kept s e ch w

theorem ownerWrite_kept (e : DmaEng) (ch w table : Nat) (bs : Bytes) (s : State) (x pos n len : Nat) :
    keptXfer (ownerWrite e ch w table bs s x pos n len) (kept s) := by
  unfold ownerWrite
  (iterate 60 (all_goals try (first
      | intro _ | fail_if_no_progress beta_reduce | extract_lets -underBinder | with_reducible rfl | with_reducible assumption
      | (have hk := writePlace_kept' (by assumption); refine Eq.trans hk ?_; clear hk)
      | (have hk := sendSegment_kept' (by assumption); refine Eq.trans hk ?_; clear hk)
      | with_reducible refine keptOpt_getD (sendSegment_kept ..) ?_ | with_reducible refine Eq.trans (noteSent_kept ..) ?_
      | with_reducible refine Eq.trans (partnerLost_kept ..) ?_ | with_reducible refine kept_ite ?_ ?_
      | with_reducible refine keptXfer_ite ?_ ?_ | with_reducible refine keptXfer_ok ?_ | with_reducible refine keptXfer_fail ?_
      | with_reducible refine keptXfer_halt ?_ | split | exact True.intro | dsimp +zetaDelta only)))
  all_goals done

theorem ownerWrite_kept' {e : DmaEng} {ch w table : Nat} {bs : Bytes} {s : State} {x pos n len : Nat} {resu}
    (h : ownerWrite e ch w table bs s x pos n len = resu) : keptXfer resu (kept s) :=
  h ▸ ownerWrite_kept e ch w table bs s x pos n len

theorem ownerRead_kept (e : DmaEng) (ch w table : Nat) (s : State) (x pos n len : Nat) :
    keptXfer (ownerRead e ch w table s x pos n len) (kept s) := by
  unfold ownerRead
  (iterate 60 (all_goals try (first
      | intro _ | fail_if_no_progress beta_reduce | extract_lets -underBinder | with_reducible rfl | with_reducible assumption
      | (have hk := sourceEcc_kept' (by assumption); refine Eq.trans hk ?_; clear hk)
      | (have hk := writePlace_kept' (by assumption); refine Eq.trans hk ?_; clear hk)
      | with_reducible refine Eq.trans (notePlace_kept ..) ?_ | with_reducible refine Eq.trans (updChan_kept ..) ?_
      | (have hk := sendSegment_kept' (by assumption); refine Eq.trans hk ?_; clear hk)
      | with_reducible refine keptOpt_getD (sendSegment_kept ..) ?_ | with_reducible refine Eq.trans (partnerLost_kept ..) ?_
      | with_reducible refine kept_ite ?_ ?_ | with_reducible refine keptXfer_ite ?_ ?_ | with_reducible refine keptXfer_ok ?_
      | with_reducible refine keptXfer_fail ?_ | with_reducible refine keptXfer_halt ?_ | split | exact True.intro | dsimp +zetaDelta only)))
  all_goals done

theorem ownerRead_kept' {e : DmaEng} {ch w table : Nat} {s : State} {x pos n len : Nat} {resu}
    (h : ownerRead e ch w table s x pos n len = resu) : keptXfer resu (kept s) :=
  h ▸ ownerRead_kept e ch w table s x pos n len

theorem runPiecesOf {f : State → Nat → Nat → Nat → XferRes} (ho : ∀ t a b c, keptXfer (f t a b c) (kept t)) {v0 v1 v2 v3 resu} (h : f v0 v1 v2 v3 = resu) : keptXfer resu (kept v0) := h ▸ ho v0 v1 v2 v3

theorem runPieces_kept (f : State → Nat → Nat → Nat → XferRes) (w : Nat) (x2 : List (Nat × Nat × Nat)) (x3 : State) (ho : ∀ t a b c, keptXfer (f t a b c) (kept t)) :
    keptXfer (runPieces f w x2 x3) (kept x3) := by
  fun_induction runPieces f w x2 x3 <;> (iterate 60 (all_goals try (first
      | intro _ | fail_if_no_progress beta_reduce | extract_lets -underBinder | with_reducible rfl | exact True.intro | assumption
      | with_reducible refine keptXfer_mono (ho ..) ?_ | (have hk := runPiecesOf ho (by assumption); refine Eq.trans hk ?_; clear hk)
      | refine keptXfer_mono (by assumption) ?_ | with_reducible refine keptXfer_ok ?_ | split | dsimp +zetaDelta only)))
  all_goals done

theorem runPieces_kept' {f : State → Nat → Nat → Nat → XferRes} {w : Nat} {x2 : List (Nat × Nat × Nat)} {x3 : State} (ho : ∀ t a b c, keptXfer (f t a b c) (kept t)) {resu} (h : runPieces f w x2 x3 = resu) : keptXfer resu (kept x3) := h ▸ runPieces_kept f w x2 x3 ho

theorem ownerXfer_kept (s : State) (e : DmaEng) (ch w : Nat) : keptXfer (ownerXfer s e ch w) (kept s) := by
  unfold ownerXfer
  extract_lets len table src bs ps run table' ps'
  have hrun : ∀ t n, keptXfer (run t n) (kept t) := fun t n =>
    keptXfer_mono (runPieces_kept _ _ _ _ fun t a b c => ownerWrite_kept ..) (notePlace_kept ..)
  clear_value run
  refine keptXfer_ite (keptXfer_ite rfl ?_) (keptXfer_ite rfl ?_)
  · have hsrc := sourceEcc_kept s e ch len src
    cases hc : sourceEcc s e ch len src <;> rw [hc] at hsrc
    case halt => exact hsrc
    case lost t n =>
      have hs : kept t = kept s := hsrc
      have h := hrun t n
      dsimp only
      cases hr : run t n <;> rw [hr] at h <;> exact keptXfer_mono h hs
    case ok t =>
      have hs : kept t = kept s := hsrc
      have h := hrun t len
      dsimp only
      cases hr : run t len <;> rw [hr] at h
      · exact (updChan_kept ..).trans (Eq.trans h hs)
      all_goals exact keptXfer_mono h hs
  · exact keptXfer_mono (runPieces_kept _ _ _ _ fun t a b c => ownerRead_kept ..) (updChan_kept ..)

theorem ownerXfer_kept' {s : State} {e : DmaEng} {ch w : Nat} {resu}
    (h : ownerXfer s e ch w = resu) : keptXfer resu (kept s) :=
  h ▸ ownerXfer_kept s e ch w

theorem paceLevel_kept (s : State) (e : DmaEng) (ch w : Nat) : kept (paceLevel s e ch w).1 = kept s := by
  unfold paceLevel
  (iterate 60 (all_goals try (first
      | intro _ | fail_if_no_progress beta_reduce | extract_lets -underBinder | with_reducible rfl | with_reducible assumption
      | with_reducible refine Eq.trans (drawFree_kept' rfl) ?_
      | (have hk := drawFree_kept' (by assumption); refine Eq.trans hk ?_; clear hk) | with_reducible refine kept_ite ?_ ?_
      | with_reducible refine kept_fst_ite ?_ ?_ | with_reducible refine kept_snd_ite ?_ ?_ | split | exact True.intro
      | dsimp +zetaDelta only)))
  all_goals done

theorem paceLevel_kept' {s : State} {e : DmaEng} {ch w : Nat} {resu}
    (h : paceLevel s e ch w = resu) : kept resu.1 = kept s :=
  h ▸ paceLevel_kept s e ch w

theorem pacePaused_kept (s : State) (e : DmaEng) (ch w : Nat) : kept (pacePaused s e ch w).1 = kept s := by
  unfold pacePaused
  (iterate 60 (all_goals try (first
      | intro _ | fail_if_no_progress beta_reduce | extract_lets -underBinder | with_reducible rfl | with_reducible assumption
      | with_reducible refine Eq.trans (paceLevel_kept' rfl) ?_
      | (have hk := paceLevel_kept' (by assumption); refine Eq.trans hk ?_; clear hk) | with_reducible refine kept_ite ?_ ?_
      | with_reducible refine kept_fst_ite ?_ ?_ | with_reducible refine kept_snd_ite ?_ ?_ | split | exact True.intro
      | dsimp +zetaDelta only)))
  all_goals done

theorem pacePaused_kept' {s : State} {e : DmaEng} {ch w : Nat} {resu}
    (h : pacePaused s e ch w = resu) : kept resu.1 = kept s :=
  h ▸ pacePaused_kept s e ch w

theorem takeRegionChan_kept (s : State) (e : DmaEng) (w : Nat) : kept (takeRegionChan s e w) = kept s := by
  unfold takeRegionChan
  with_reducible repeat' first | intro _ | extract_lets -underBinder | rfl | refine Eq.trans (setChState_kept ..) ?_ |
    refine Eq.trans (updChan_kept ..) ?_ | refine kept_ite ?_ ?_ | split

theorem runXfer_kept (s : State) (e : DmaEng) (ch w : Nat) : keptXfer (runXfer s e ch w) (kept s) := by
  unfold runXfer
  with_reducible repeat' first | rfl | exact True.intro | refine Eq.trans (updChan_kept ..) ?_ |
    refine Eq.trans (takeRegionChan_kept ..) ?_ | refine keptXfer_mono (exchangeXfer_kept ..) ?_ |
    refine keptXfer_mono (ownerXfer_kept ..) ?_ | refine keptXfer_mono (localXfer_kept ..) ?_ | refine keptXfer_ite ?_ ?_ | split

theorem runXfer_kept' {s : State} {e : DmaEng} {ch w : Nat} {resu} (h : runXfer s e ch w = resu) : keptXfer resu (kept s) := h ▸ runXfer_kept s e ch w

theorem waitXfer_kept (s : State) (e : DmaEng) (ch : Nat) :
    kept (waitXfer s e ch) = kept s := by
  unfold waitXfer
  (iterate 60 (all_goals try (first
      | intro _ | fail_if_no_progress beta_reduce | extract_lets -underBinder | with_reducible rfl | exact True.intro | assumption
      | with_reducible refine Eq.trans (updChan_kept ..) ?_ | with_reducible refine kept_ite ?_ ?_ | split | dsimp +zetaDelta only)))
  all_goals done

theorem setServed_kept (s : State) (e : DmaEng) (ch w : Nat) : kept (setServed s e ch w) = kept s := by
  unfold setServed
  (iterate 60 (all_goals try (first
      | intro _ | fail_if_no_progress beta_reduce | extract_lets -underBinder | with_reducible rfl | with_reducible assumption
      | with_reducible refine Eq.trans (updBlock_kept ..) ?_ | with_reducible refine Eq.trans (updRegion_kept ..) ?_
      | with_reducible refine kept_ite ?_ ?_ | split | exact True.intro | dsimp +zetaDelta only)))
  all_goals done

theorem startedXfer_kept (s : State) (e : DmaEng) (ch w : Nat) (r : XferRes) (h : keptXfer r (kept s)) : kept (startedXfer s e ch w r) = kept s := by
  cases r with
  | ok t v => exact (setChState_kept ..).trans ((setServed_kept ..).trans ((updChan_kept ..).trans h))
  | wait => exact waitXfer_kept ..
  | fail t k d a sp n => exact kept_ite ((failTransfer_kept ..).trans h) (waitXfer_kept ..)
  | halt t r d => exact (((haltOwner_kept ..).trans (setChState_kept ..)).trans (updChan_kept ..)).trans ((freeRegionChan_kept ..).trans h)

theorem runFetched_kept (s : State) (e : DmaEng) (ch w : Nat) : kept (runFetched s e ch w) = kept s := by
  unfold runFetched
  refine kept_elimTo ?_ fun x => kept_ite (refuseDesc_kept ..) (waitXfer_kept ..)
  have h := pacePaused_kept s e ch w
  exact kept_ite (((setChState_kept ..).trans (updChan_kept ..)).trans h)
    (kept_ite h ((startedXfer_kept _ _ _ _ _ (runXfer_kept ..)).trans ((noteCopy_kept ..).trans h)))

theorem fetchEntry_kept (s : State) (e : DmaEng) (ch w : Nat) :
    kept (fetchEntry s e ch w) = kept s := by
  unfold fetchEntry
  (iterate 60 (all_goals try (first
      | intro _ | fail_if_no_progress beta_reduce | extract_lets -underBinder | with_reducible rfl | exact True.intro | assumption
      | with_reducible refine Eq.trans (failTransfer_kept ..) ?_
      | (have hk := sourceEcc_kept' (by assumption); refine Eq.trans hk ?_; clear hk)
      | with_reducible refine Eq.trans (haltOwner_kept ..) ?_ | with_reducible refine Eq.trans (setChState_kept ..) ?_
      | with_reducible refine Eq.trans (runFetched_kept ..) ?_ | with_reducible refine Eq.trans (dmaConflict_kept ..) ?_
      | with_reducible refine Eq.trans (notePlace_kept ..) ?_ | with_reducible refine kept_ite ?_ ?_ | split | dsimp +zetaDelta only)))
  all_goals done

theorem dmaFetch_kept (s : State) (e : DmaEng) (ch : Nat) (mine : Nat → Bool) : kept (dmaFetch s e ch mine) = kept s := by
  unfold dmaFetch
  (iterate 60 (all_goals try (first
      | intro _ | fail_if_no_progress beta_reduce | extract_lets -underBinder | with_reducible rfl | with_reducible assumption
      | with_reducible refine Eq.trans (endCopy_kept ..) ?_ | with_reducible refine Eq.trans (setChState_kept ..) ?_
      | with_reducible refine Eq.trans (touchEntry_kept ..) ?_ | with_reducible refine Eq.trans (fetchEntry_kept ..) ?_
      | with_reducible refine kept_ite ?_ ?_ | split | exact True.intro | dsimp +zetaDelta only)))
  all_goals done

theorem completeSig_kept (s : State) (e : DmaEng) (ch w : Nat) : kept (completeSig s e ch w) = kept s := by
  unfold completeSig
  (iterate 60 (all_goals try (first
      | intro _ | fail_if_no_progress beta_reduce | extract_lets -underBinder | with_reducible rfl | exact True.intro | assumption
      | with_reducible refine Eq.trans (tumSignal_kept' rfl) ?_ | with_reducible refine Eq.trans (haltOwner_kept ..) ?_
      | (have hk := tumSignal_kept' (by assumption); refine Eq.trans hk ?_; clear hk) | with_reducible refine kept_ite ?_ ?_ | split
      | dsimp +zetaDelta only)))
  all_goals done

theorem closeHead_kept (s : State) (e : DmaEng) (ch w : Nat) : kept (closeHead s e ch w) = kept s := by
  unfold closeHead
  (iterate 60 (all_goals try (first
      | intro _ | fail_if_no_progress beta_reduce | extract_lets -underBinder | with_reducible rfl | with_reducible assumption
      | with_reducible refine Eq.trans (writeEntry_kept ..) ?_ | with_reducible refine Eq.trans (freeRegionChan_kept ..) ?_
      | with_reducible refine Eq.trans (updChan_kept ..) ?_ | with_reducible refine kept_ite ?_ ?_
      | fail_if_no_progress refine Eq.trans (kept_mk _ _ _ _ _ _ _ _ _ _ _ _ _ _ _ _ _ _ _ _ _ _ _ _ _ _ _ rfl rfl) ?_ | split
      | exact True.intro | dsimp +zetaDelta only)))
  all_goals done

theorem dmaFinish_kept (s : State) (e : DmaEng) (ch w i : Nat) : kept (dmaFinish s e ch w i) = kept s := by
  unfold dmaFinish
  (iterate 60 (all_goals try (first
      | intro _ | fail_if_no_progress beta_reduce | extract_lets -underBinder | with_reducible rfl | with_reducible assumption
      | with_reducible refine Eq.trans (closeHead_kept ..) ?_ | with_reducible refine Eq.trans (endCopy_kept ..) ?_
      | with_reducible refine Eq.trans (settleChan_kept ..) ?_ | with_reducible refine Eq.trans (completeSig_kept ..) ?_
      | with_reducible refine Eq.trans (setChHead_kept ..) ?_ | with_reducible refine kept_ite ?_ ?_ | split | exact True.intro
      | dsimp +zetaDelta only)))
  all_goals done

theorem readBackNote_kept (s : State) (e : DmaEng) (ch w : Nat) : kept (readBackNote s e ch w) = kept s := by
  unfold readBackNote
  (iterate 60 (all_goals try (first
      | intro _ | fail_if_no_progress beta_reduce | extract_lets -underBinder | with_reducible rfl | with_reducible assumption
      | with_reducible refine Eq.trans (dmaConflict_kept ..) ?_ | with_reducible refine kept_ite ?_ ?_ | split | exact True.intro
      | dsimp +zetaDelta only)))
  all_goals done

theorem dmaComplete_kept (s : State) (e : DmaEng) (ch : Nat) : kept (dmaComplete s e ch) = kept s := by
  unfold dmaComplete
  (iterate 60 (all_goals try (first
      | intro _ | fail_if_no_progress beta_reduce | extract_lets -underBinder | with_reducible rfl | with_reducible assumption
      | with_reducible refine Eq.trans (failTransfer_kept ..) ?_ | with_reducible refine Eq.trans (dmaFinish_kept ..) ?_
      | with_reducible refine Eq.trans (readBackNote_kept ..) ?_ | with_reducible refine kept_ite ?_ ?_ | split | exact True.intro
      | dsimp +zetaDelta only)))
  all_goals done

theorem failHead_kept (s : State) (e : DmaEng) (ch kind : Nat) (write : Bool) (delivered w : Nat) :
    kept (failHead s e ch kind write delivered w) = kept s := by
  unfold failHead
  (iterate 60 (all_goals try (first
      | intro _ | fail_if_no_progress beta_reduce | extract_lets -underBinder | with_reducible rfl | with_reducible assumption
      | with_reducible refine Eq.trans (failTransfer_kept ..) ?_ | with_reducible refine kept_ite ?_ ?_ | split | exact True.intro
      | dsimp +zetaDelta only)))
  all_goals done

theorem freshXfer_kept (s : State) (e : DmaEng) (ch w delivered : Nat) :
    keptXfer (freshXfer s e ch w delivered) (kept s) := by
  unfold freshXfer
  with_reducible repeat' first | intro _ | extract_lets -underBinder | rfl | exact True.intro |
    refine keptXfer_mono (localXfer_kept ..) ?_ | refine keptXfer_ite ?_ ?_ | refine keptXfer_ok ?_ | split

theorem freshXfer_kept' {s : State} {e : DmaEng} {ch w delivered : Nat} {resu} (h : freshXfer s e ch w delivered = resu) : keptXfer resu (kept s) := h ▸ freshXfer_kept s e ch w delivered

theorem failMoved_kept (s : State) (e : DmaEng) (ch kind : Nat) (write : Bool) (delivered w : Nat) (r : XferRes) (h : keptXfer r (kept s)) :
    kept (failMoved s e ch kind write delivered w r) = kept s := by
  cases r with
  | ok t v => exact (failHead_kept ..).trans h
  | wait => rfl
  | fail t k d a sp n => exact (failTransfer_kept ..).trans h
  | halt t r d => exact (haltOwner_kept ..).trans h

theorem failFresh_kept (s : State) (e : DmaEng) (ch kind : Nat) (write : Bool) (delivered w : Nat) :
    kept (failFresh s e ch kind write delivered w) = kept s := by
  unfold failFresh
  cases fetchBad s e ch w with
  | none => exact (failMoved_kept _ _ _ _ _ _ _ _ (freshXfer_kept ..)).trans (noteCopy_kept ..)
  | some x => exact refuseDesc_kept ..

theorem dmaError_kept (s : State) (e : DmaEng) (ch kind : Nat) (write : Bool) (delivered : Nat) :
    kept (dmaError s e ch kind write delivered) = kept s := by
  unfold dmaError
  with_reducible repeat' first | intro _ | extract_lets -underBinder | rfl | refine Eq.trans (failHead_kept ..) ?_ |
    refine Eq.trans (failFresh_kept ..) ?_ | refine kept_ite ?_ ?_ | split

theorem dmaTail_kept (s : State) (e : DmaEng) (tail : Nat) : kept (dmaTail s e tail) = kept s := by
  unfold dmaTail
  with_reducible repeat' first | intro _ | extract_lets -underBinder | rfl | refine Eq.trans (chPut_kept ..) ?_ |
    refine Eq.trans (settleChan_kept ..) ?_ | refine kept_ite ?_ ?_ | split

theorem resumeChan_kept (s : State) (e : DmaEng) (ch : Nat) : kept (resumeChan s e ch) = kept s := by
  unfold resumeChan
  (iterate 60 (all_goals try (first
      | intro _ | fail_if_no_progress beta_reduce | extract_lets -underBinder | with_reducible rfl | with_reducible assumption
      | with_reducible refine Eq.trans (chPut_kept ..) ?_ | with_reducible refine Eq.trans (updChan_kept ..) ?_
      | with_reducible refine Eq.trans (setChState_kept ..) ?_ | with_reducible refine kept_ite ?_ ?_ | split | exact True.intro
      | dsimp +zetaDelta only)))
  all_goals done

theorem rerunCopy_kept (s : State) (e : DmaEng) (ch : Nat) : kept (rerunCopy s e ch) = kept s := by
  unfold rerunCopy
  (iterate 60 (all_goals try (first
      | intro _ | fail_if_no_progress beta_reduce | extract_lets -underBinder | with_reducible rfl | with_reducible assumption
      | with_reducible refine Eq.trans (writeEntry_kept ..) ?_ | with_reducible refine Eq.trans (chPut_kept ..) ?_
      | with_reducible refine Eq.trans (updChan_kept ..) ?_ | with_reducible refine Eq.trans (setChState_kept ..) ?_
      | with_reducible refine Eq.trans (setChHead_kept ..) ?_ | with_reducible refine kept_ite ?_ ?_
      | refine Eq.trans (kept_foldl _ _ _ ?_) ?_ | split | exact True.intro | dsimp +zetaDelta only)))
  all_goals done

theorem dmaResume_kept (s : State) (e : DmaEng) : kept (dmaResume s e) = kept s := by
  unfold dmaResume
  (iterate 60 (all_goals try (first
      | intro _ | fail_if_no_progress beta_reduce | extract_lets -underBinder | with_reducible rfl | with_reducible assumption
      | with_reducible refine Eq.trans (resumeChan_kept ..) ?_ | with_reducible refine kept_ite ?_ ?_ | split | exact True.intro
      | dsimp +zetaDelta only)))
  all_goals done

theorem xfrStepOf {op : State → QField → MvRes} (ho : ∀ t f, keptMv (op t f) (kept t)) {v0 v1 resu} (h : op v0 v1 = resu) : keptMv resu (kept v0) := h ▸ ho v0 v1

theorem xfrStep_kept (s : State) (u xop : Nat) (op : State → QField → MvRes) (ho : ∀ t f, keptMv (op t f) (kept t)) :
    kept (xfrStep s u xop op) = kept s := by
  unfold xfrStep
  (iterate 60 (all_goals try (first
      | intro _ | fail_if_no_progress beta_reduce | extract_lets -underBinder | with_reducible rfl | exact True.intro | assumption
      | with_reducible refine Eq.trans (haltUnit_kept ..) ?_ | with_reducible refine Eq.trans (setCore_kept ..) ?_
      | with_reducible refine Eq.trans (settleNops_kept ..) ?_
      | (have hk := xfrStepOf ho (by assumption); refine Eq.trans hk ?_; clear hk) | with_reducible refine kept_ite ?_ ?_ | split
      | dsimp +zetaDelta only)))
  all_goals done

theorem dmaKick_kept (u : Nat) (s : State) (f : QField) : keptMv (dmaKick u s f) (kept s) := by
  unfold dmaKick
  (iterate 60 (all_goals try (first
      | intro _ | fail_if_no_progress beta_reduce | extract_lets -underBinder | with_reducible rfl | exact True.intro | assumption
      | with_reducible refine Eq.trans (settleChan_kept ..) ?_ | with_reducible refine Eq.trans (updChan_kept ..) ?_
      | with_reducible refine Eq.trans (setChHead_kept ..) ?_ | with_reducible refine keptMv_ite ?_ ?_
      | with_reducible refine keptMv_ok ?_ | with_reducible refine keptMv_halt ?_ | split | dsimp +zetaDelta only)))
  all_goals done

theorem dmaKick_kept' {u : Nat} {s : State} {f : QField} {resu} (h : dmaKick u s f = resu) : keptMv resu (kept s) := h ▸ dmaKick_kept u s f

theorem dmaWait_kept (u : Nat) (s : State) (f : QField) : keptMv (dmaWait u s f) (kept s) := by
  unfold dmaWait
  (iterate 60 (all_goals try (first
      | intro _ | fail_if_no_progress beta_reduce | extract_lets -underBinder | with_reducible rfl | exact True.intro | assumption
      | with_reducible refine keptMv_ite ?_ ?_ | with_reducible refine keptMv_ok ?_ | with_reducible refine keptMv_halt ?_ | split
      | dsimp +zetaDelta only)))
  all_goals done

theorem dmaWait_kept' {u : Nat} {s : State} {f : QField} {resu} (h : dmaWait u s f = resu) : keptMv resu (kept s) := h ▸ dmaWait_kept u s f

theorem setHingeSlot_kept (s : State) (u slot v : Nat) : kept (setHingeSlot s u slot v) = kept s := rfl

theorem hingeConflict_kept (s : State) (x2 : Place) :
    kept (hingeConflict s x2) = kept s := by
  unfold hingeConflict
  (iterate 60 (all_goals try (first
      | intro _ | fail_if_no_progress beta_reduce | extract_lets -underBinder | with_reducible rfl | exact True.intro | assumption
      | with_reducible refine Eq.trans (csConflict_kept ..) ?_ | with_reducible refine Eq.trans (bsConflict_kept ..) ?_
      | with_reducible refine kept_ite ?_ ?_ | split | dsimp +zetaDelta only)))
  all_goals done

theorem hingeReads_kept (u slot : Nat) (x2 : List (Place × Nat)) (x3 : State) : keptEcc (hingeReads u slot x2 x3) (kept x3) := by
  fun_induction hingeReads u slot x2 x3 <;> (iterate 60 (all_goals try (first
      | intro _ | fail_if_no_progress beta_reduce | extract_lets -underBinder | with_reducible rfl | with_reducible assumption
      | (have hk := eccPlace_kept' (by assumption); refine Eq.trans hk ?_; clear hk)
      | with_reducible refine keptEcc_mono (eccPlace_kept ..) ?_ | with_reducible refine Eq.trans (hingeConflict_kept ..) ?_
      | refine keptEcc_mono (by assumption) ?_ | with_reducible refine kept_ite ?_ ?_ | with_reducible refine keptEcc_ite ?_ ?_
      | with_reducible refine keptEcc_ok ?_ | with_reducible refine keptEcc_halt ?_ | with_reducible refine keptEcc_bus ?_ | split
      | exact True.intro | dsimp +zetaDelta only)))
  all_goals done

theorem hingeReads_kept' {u slot : Nat} {x2 : List (Place × Nat)} {x3 : State} {resu}
    (h : hingeReads u slot x2 x3 = resu) : keptEcc resu (kept x3) :=
  h ▸ hingeReads_kept u slot x2 x3

theorem hingeAccept_kept (s : State) (u slot w pc : Nat) :
    kept (hingeAccept s u slot w pc) = kept s := by
  unfold hingeAccept
  (iterate 60 (all_goals try (first
      | intro _ | fail_if_no_progress beta_reduce | extract_lets -underBinder | with_reducible rfl | exact True.intro | assumption
      | with_reducible refine Eq.trans (setHingeSlot_kept ..) ?_ | with_reducible refine Eq.trans (updBlock_kept ..) ?_
      | with_reducible refine kept_ite ?_ ?_ | split | dsimp +zetaDelta only)))
  all_goals done

theorem hingeSubmit_kept (u : Nat) (s : State) (f : QField) :
    keptMv (hingeSubmit u s f) (kept s) := by
  unfold hingeSubmit
  extract_lets slot a w
  refine keptMv_ite True.intro ?_
  split
  · exact hingeReads_kept' (by assumption)
  · exact hingeReads_kept' (by assumption)
  · exact hingeReads_kept' (by assumption)
  · rename_i t h _
    have h1 : kept t = kept s := hingeReads_kept' h
    split
    · have h2 := hingeReads_kept' (by assumption)
      exact Eq.trans h2 h1
    · have h2 := hingeReads_kept' (by assumption)
      exact Eq.trans h2 h1
    · rename_i t' h'
      have h2 : kept t' = kept s := Eq.trans (hingeReads_kept' h') h1
      split
      · exact h2
      · exact (hingeAccept_kept ..).trans h2

theorem hingeSubmit_kept' {u : Nat} {s : State} {f : QField} {resu} (h : hingeSubmit u s f = resu) : keptMv resu (kept s) := h ▸ hingeSubmit_kept u s f

theorem hingeWait_kept (u : Nat) (s : State) (f : QField) : keptMv (hingeWait u s f) (kept s) := by
  unfold hingeWait
  (iterate 60 (all_goals try (first
      | intro _ | fail_if_no_progress beta_reduce | extract_lets -underBinder | with_reducible rfl | exact True.intro | assumption
      | with_reducible refine keptMv_ite ?_ ?_ | with_reducible refine keptMv_ok ?_ | split | dsimp +zetaDelta only)))
  all_goals done

theorem hingeWait_kept' {u : Nat} {s : State} {f : QField} {resu} (h : hingeWait u s f = resu) : keptMv resu (kept s) := h ▸ hingeWait_kept u s f

theorem hingeWrites_kept (op : HingeOp) (x1 : List (ℤ × Bytes)) (x2 : State) : keptHinge (hingeWrites op x1 x2) (kept x2) := by
  fun_induction hingeWrites op x1 x2 <;> (iterate 60 (all_goals try (first
      | intro _ | fail_if_no_progress beta_reduce | extract_lets -underBinder | with_reducible rfl | exact True.intro | assumption
      | (have hk := writePlace_kept' (by assumption); refine Eq.trans hk ?_; clear hk) | refine keptHinge_mono (by assumption) ?_
      | with_reducible refine keptHinge_ok ?_ | with_reducible refine keptHinge_halt ?_ | split | dsimp +zetaDelta only)))
  all_goals done

theorem hingeWrites_kept' {op : HingeOp} {x1 : List (ℤ × Bytes)} {x2 : State} {resu} (h : hingeWrites op x1 x2 = resu) : keptHinge resu (kept x2) := h ▸ hingeWrites_kept op x1 x2

theorem tileCheck_kept (s : State) (b w : Nat) :
    keptEcc (tileCheck s b w) (kept s) := by
  unfold tileCheck
  (iterate 60 (all_goals try (first
      | intro _ | fail_if_no_progress beta_reduce | extract_lets -underBinder | with_reducible rfl | exact True.intro | assumption
      | with_reducible refine Eq.trans (updBlock_kept ..) ?_ | with_reducible refine kept_ite ?_ ?_
      | with_reducible refine keptEcc_ite ?_ ?_ | with_reducible refine keptEcc_ok ?_ | with_reducible refine keptEcc_halt ?_
      | with_reducible refine keptEcc_bus ?_ | split | dsimp +zetaDelta only)))
  all_goals done

theorem tileCheck_kept' {s : State} {b w : Nat} {resu}
    (h : tileCheck s b w = resu) : keptEcc resu (kept s) :=
  h ▸ tileCheck_kept s b w

theorem hingeChecks_kept (s : State) (b : Nat) (op : HingeOp) (places : List Place) :
    keptEcc (hingeChecks s b op places) (kept s) := by
  unfold hingeChecks
  (iterate 60 (all_goals try (first
      | intro _ | fail_if_no_progress beta_reduce | extract_lets -underBinder | with_reducible rfl | exact True.intro | assumption
      | (have hk := hingeReads_kept' (by assumption); refine Eq.trans hk ?_; clear hk)
      | with_reducible refine keptEcc_mono (hingeReads_kept ..) ?_
      | (have hk := tileCheck_kept' (by assumption); refine Eq.trans hk ?_; clear hk)
      | with_reducible refine keptEcc_mono (tileCheck_kept ..) ?_ | with_reducible refine kept_ite ?_ ?_
      | with_reducible refine keptEcc_ite ?_ ?_ | with_reducible refine keptEcc_ok ?_ | with_reducible refine keptEcc_halt ?_
      | with_reducible refine keptEcc_bus ?_ | split | dsimp +zetaDelta only)))
  all_goals done

theorem hingeChecks_kept' {s : State} {b : Nat} {op : HingeOp} {places : List Place} {resu}
    (h : hingeChecks s b op places = resu) : keptEcc resu (kept s) :=
  h ▸ hingeChecks_kept s b op places

theorem hingeDrop_kept (s : State) (b : Nat) (rest : List HingeOp) (op : HingeOp) (r d : Nat) :
    kept (hingeDrop s b rest op r d) = kept s := by
  unfold hingeDrop
  (iterate 60 (all_goals try (first
      | intro _ | fail_if_no_progress beta_reduce | extract_lets -underBinder | with_reducible rfl | exact True.intro | assumption
      | with_reducible refine Eq.trans (setHingeSlot_kept ..) ?_ | with_reducible refine Eq.trans (updBlock_kept ..) ?_
      | with_reducible refine Eq.trans (haltUnit_kept ..) ?_ | with_reducible refine kept_ite ?_ ?_ | split | dsimp +zetaDelta only)))
  all_goals done

theorem hingeRunOp_kept (s t : State) (b : Nat) (rest : List HingeOp) (op : HingeOp) (places : List Place) (h : kept t = kept s) :
    kept (hingeRunOp s t b rest op places) = kept s := by
  unfold hingeRunOp
  extract_lets w src idx dst s1 s2 s3
  have h3 : kept s3 = kept s :=
    ((updBlock_kept ..).trans (kept_foldl _ _ _ fun _ _ => hingeConflict_kept ..)).trans
      ((kept_foldl _ _ _ fun _ _ => notePlace_kept ..).trans h)
  have hw := hingeWrites_kept op dst s3
  split <;> rename_i e
  · rw [e] at hw; exact hw.trans h3
  · rfl
  · rw [e] at hw; exact (hingeDrop_kept ..).trans (hw.trans h3)

theorem hingeStart_kept (s : State) (b : Nat) : kept (hingeStart s b) = kept s := by
  unfold hingeStart
  extract_lets x
  split
  · refine kept_ite rfl (kept_ite ((setHingeSlot_kept ..).trans (updBlock_kept ..)) ?_)
    extract_lets places
    split <;> rename_i e <;> have hc := hingeChecks_kept' e
    · exact hingeRunOp_kept _ _ _ _ _ _ hc
    · exact (hingeDrop_kept ..).trans hc
    · exact (hingeDrop_kept ..).trans hc
  · rfl

theorem hingeComplete_kept (s : State) (b : Nat) : kept (hingeComplete s b) = kept s := by
  unfold hingeComplete
  with_reducible repeat' first | rfl | refine Eq.trans (setHingeSlot_kept ..) ?_ | refine Eq.trans (updBlock_kept ..) ?_ |
    refine Eq.trans (fbump_kept ..) ?_ | refine kept_ite ?_ ?_ | split

theorem sbEntryWrite_kept (s : State) (b : Nat) (hi : Bool) (w : Nat) : kept (sbEntryWrite s b hi w) = kept s := by
  unfold sbEntryWrite
  with_reducible repeat' first | rfl | refine Eq.trans (fput_kept ..) ?_ | refine Eq.trans (putSb_kept ..) ?_ | refine kept_ite ?_ ?_ |
    split

theorem oobClear_kept (s : State) (c mask : Nat) : kept (oobClear s c mask) = kept s := by
  unfold oobClear
  with_reducible repeat' first | intro _ | extract_lets -underBinder | rfl | refine Eq.trans (fput_kept ..) ?_ | refine kept_ite ?_ ?_ |
    refine Eq.trans (kept_foldl _ _ _ ?_) ?_ | split

theorem bsConfClear_kept (s : State) (b : Nat) : kept (bsConfClear s b) = kept s := by
  unfold bsConfClear
  with_reducible repeat' first | rfl | refine Eq.trans (updBlock_kept ..) ?_ | refine kept_ite ?_ ?_ | split

theorem tumSet_kept (s : State) (region : Bool) (unit value : Nat) : kept (tumSet s region unit value) = kept s := by
  unfold tumSet
  with_reducible repeat' first | rfl | refine Eq.trans (tumSetCount_kept ..) ?_ | refine kept_ite ?_ ?_ | split

theorem fillCopy_kept (s : State) (r frame : Nat) : kept (fillCopy s r frame) = kept s := by
  unfold fillCopy
  (iterate 60 (all_goals try (first
      | intro _ | fail_if_no_progress beta_reduce | extract_lets -underBinder | with_reducible rfl | with_reducible assumption
      | with_reducible refine Eq.trans (fillPage_kept ..) ?_ | with_reducible refine kept_ite ?_ ?_ | split | exact True.intro
      | dsimp +zetaDelta only)))
  all_goals done

theorem readFold_kept (s : State) (r : Nat) : kept (readFold s r) = kept s := by
  unfold readFold
  (iterate 60 (all_goals try (first
      | intro _ | fail_if_no_progress beta_reduce | extract_lets -underBinder | with_reducible rfl | with_reducible assumption
      | with_reducible refine Eq.trans (readSystem_kept ..) ?_ | with_reducible refine kept_ite ?_ ?_ | split | exact True.intro
      | dsimp +zetaDelta only)))
  all_goals done

theorem foldNext_kept (s : State) (r : Nat) : kept (foldNext s r) = kept s := by
  unfold foldNext
  (iterate 60 (all_goals try (first
      | intro _ | fail_if_no_progress beta_reduce | extract_lets -underBinder | with_reducible rfl | with_reducible assumption
      | with_reducible refine Eq.trans (foldPage_kept ..) ?_ | with_reducible refine Eq.trans (readFold_kept ..) ?_
      | with_reducible refine kept_ite ?_ ?_ | split | exact True.intro | dsimp +zetaDelta only)))
  all_goals done

theorem ptWriteNext_kept (s : State) (r : Nat) :
    kept (ptWriteNext s r) = kept s := by
  unfold ptWriteNext
  (iterate 60 (all_goals try (first
      | intro _ | fail_if_no_progress beta_reduce | extract_lets -underBinder | with_reducible rfl | exact True.intro | assumption
      | with_reducible refine Eq.trans (updRegion_kept ..) ?_ | with_reducible refine Eq.trans (readSystem_kept ..) ?_
      | with_reducible refine kept_ite ?_ ?_ | split | dsimp +zetaDelta only)))
  all_goals done

theorem ptEffect_kept (s : State) (r : Nat) (p : PtRec) : keptOpt (ptEffect s r p) (kept s) := by
  unfold ptEffect
  (iterate 60 (all_goals try (first
      | intro _ | fail_if_no_progress beta_reduce | extract_lets -underBinder | with_reducible rfl | exact True.intro | assumption
      | with_reducible refine Eq.trans (retainFrame_kept ..) ?_ | with_reducible refine Eq.trans (updRegion_kept ..) ?_
      | with_reducible refine keptOpt_ite ?_ ?_ | with_reducible refine keptOpt_some ?_ | with_reducible refine kept_ite ?_ ?_ | split
      | dsimp +zetaDelta only)))
  all_goals done

theorem ptEffect_kept' {s : State} {r : Nat} {p : PtRec} {resu} (h : ptEffect s r p = resu) : keptOpt resu (kept s) := h ▸ ptEffect_kept s r p

theorem ptPost_kept (s : State) (r word0 word1 : Nat) : kept (ptPost s r word0 word1) = kept s := by
  unfold ptPost
  (iterate 60 (all_goals try (first
      | intro _ | fail_if_no_progress beta_reduce | extract_lets -underBinder | with_reducible rfl | with_reducible assumption
      | with_reducible refine Eq.trans (readSystem_kept ..) ?_
      | (have hk := ptEffect_kept' (by assumption); refine Eq.trans hk ?_; clear hk)
      | with_reducible refine keptOpt_getD (ptEffect_kept ..) ?_ | with_reducible refine Eq.trans (updRegion_kept ..) ?_
      | with_reducible refine Eq.trans (fput_kept ..) ?_ | with_reducible refine kept_ite ?_ ?_ | split | exact True.intro
      | dsimp +zetaDelta only)))
  all_goals done

theorem rowInput_kept (s : State) (who : Requester) (o v : Nat) : kept (rowInput s who o v) = kept s := by
  unfold rowInput
  (iterate 60 (all_goals try (first
      | intro _ | fail_if_no_progress beta_reduce | extract_lets -underBinder | with_reducible rfl | with_reducible assumption
      | with_reducible refine Eq.trans (driverWrite_kept ..) ?_ | with_reducible refine kept_ite ?_ ?_ | split | exact True.intro
      | dsimp +zetaDelta only)))
  all_goals done

theorem ptUpdate_kept (s : State) (who : Requester) (r word1 : Nat) : kept (ptUpdate s who r word1) = kept s := by
  unfold ptUpdate
  (iterate 60 (all_goals try (first
      | intro _ | fail_if_no_progress beta_reduce | extract_lets -underBinder | with_reducible rfl | with_reducible assumption
      | with_reducible refine Eq.trans (fput_kept ..) ?_ | with_reducible refine Eq.trans (ptPost_kept ..) ?_
      | with_reducible refine kept_ite ?_ ?_ | split | exact True.intro | dsimp +zetaDelta only)))
  all_goals done

theorem dumpStart_kept (s : State) : kept (dumpStart s) = kept s := by
  unfold dumpStart
  (iterate 60 (all_goals try (first
      | intro _ | fail_if_no_progress beta_reduce | extract_lets -underBinder | with_reducible rfl | with_reducible assumption
      | with_reducible refine kept_ite ?_ ?_
      | fail_if_no_progress refine Eq.trans (kept_mk _ _ _ _ _ _ _ _ _ _ _ _ _ _ _ _ _ _ _ _ _ _ _ _ _ _ _ rfl rfl) ?_ | split
      | exact True.intro | dsimp +zetaDelta only)))
  all_goals done

theorem dumpCancel_kept (s : State) : kept (dumpCancel s) = kept s := by
  unfold dumpCancel
  (iterate 60 (all_goals try (first
      | intro _ | fail_if_no_progress beta_reduce | extract_lets -underBinder | with_reducible rfl | with_reducible assumption
      | with_reducible refine kept_ite ?_ ?_
      | fail_if_no_progress refine Eq.trans (kept_mk _ _ _ _ _ _ _ _ _ _ _ _ _ _ _ _ _ _ _ _ _ _ _ _ _ _ _ rfl rfl) ?_ | split
      | exact True.intro | dsimp +zetaDelta only)))
  all_goals done

theorem dumpNext_kept (s : State) : kept (dumpNext s).2 = kept s := by
  unfold dumpNext
  (iterate 60 (all_goals try (first
      | intro _ | fail_if_no_progress beta_reduce | extract_lets -underBinder | with_reducible rfl | with_reducible assumption
      | with_reducible refine Eq.trans (fput_kept ..) ?_ | with_reducible refine kept_ite ?_ ?_ | with_reducible refine kept_fst_ite ?_ ?_
      | with_reducible refine kept_snd_ite ?_ ?_
      | fail_if_no_progress refine Eq.trans (kept_mk _ _ _ _ _ _ _ _ _ _ _ _ _ _ _ _ _ _ _ _ _ _ _ _ _ _ _ rfl rfl) ?_ | split
      | exact True.intro | dsimp +zetaDelta only)))
  all_goals done

theorem dumpNext_kept' {s : State} {resu} (h : dumpNext s = resu) : kept resu.2 = kept s := h ▸ dumpNext_kept s

theorem giveBack_kept (s : State) (x1 : TrkJ) : kept (giveBack s x1) = kept s := by
  unfold giveBack
  (iterate 60 (all_goals try (first
      | intro _ | fail_if_no_progress beta_reduce | extract_lets -underBinder | with_reducible rfl | with_reducible assumption
      | with_reducible refine Eq.trans (updRegion_kept ..) ?_ | with_reducible refine Eq.trans (toPool_kept ..) ?_
      | with_reducible refine Eq.trans (retireFrame_kept ..) ?_ | with_reducible refine kept_ite ?_ ?_ | split | exact True.intro
      | dsimp +zetaDelta only)))
  all_goals done

theorem dropLap_kept (s : State) : kept (dropLap s) = kept s := by
  unfold dropLap
  with_reducible repeat' first | intro _ | extract_lets -underBinder | rfl | refine Eq.trans (giveBack_kept ..) ?_ |
    refine Eq.trans (kept_foldl _ _ _ ?_) ?_ | split

theorem setKept_kept (s : State) (n : Nat) : kept (setKept s n) = kept s := by
  unfold setKept
  (iterate 60 (all_goals try (first
      | intro _ | fail_if_no_progress beta_reduce | extract_lets -underBinder | with_reducible rfl | with_reducible assumption
      | with_reducible refine Eq.trans (fput_kept ..) ?_ | with_reducible refine kept_ite ?_ ?_ | split | exact True.intro
      | dsimp +zetaDelta only)))
  all_goals done

theorem dropWindow_kept (s : State) : kept (dropWindow s) = kept s := by
  unfold dropWindow
  (iterate 60 (all_goals try (first
      | intro _ | fail_if_no_progress beta_reduce | extract_lets -underBinder | with_reducible rfl | with_reducible assumption
      | with_reducible refine Eq.trans (giveBack_kept ..) ?_ | with_reducible refine Eq.trans (setKept_kept ..) ?_
      | with_reducible refine kept_ite ?_ ?_ | refine Eq.trans (kept_foldl _ _ _ ?_) ?_
      | fail_if_no_progress refine Eq.trans (kept_mk _ _ _ _ _ _ _ _ _ _ _ _ _ _ _ _ _ _ _ _ _ _ _ _ _ _ _ rfl rfl) ?_ | split
      | exact True.intro | dsimp +zetaDelta only)))
  all_goals done

theorem trimWindow_kept (x0 : Nat) (x1 : State) : kept (trimWindow x0 x1) = kept x1 := by
  fun_induction trimWindow x0 x1 <;>
  with_reducible repeat' first | assumption | rfl | refine Eq.trans (dropLap_kept ..) ?_ | refine Eq.trans (fput_kept ..) ?_ |
    refine Eq.trans (by assumption) ?_ | refine kept_ite ?_ ?_ | split

theorem trkFreeze_kept (s : State) : kept (trkFreeze s) = kept s := by
  unfold trkFreeze
  (iterate 60 (all_goals try (first
      | intro _ | fail_if_no_progress beta_reduce | extract_lets -underBinder | with_reducible rfl | with_reducible assumption
      | with_reducible refine Eq.trans (setTrkState_kept ..) ?_ | with_reducible refine Eq.trans (setKept_kept ..) ?_
      | with_reducible refine Eq.trans (fput_kept ..) ?_ | with_reducible refine Eq.trans (errPart_kept ..) ?_
      | with_reducible refine kept_ite ?_ ?_
      | fail_if_no_progress refine Eq.trans (kept_mk _ _ _ _ _ _ _ _ _ _ _ _ _ _ _ _ _ _ _ _ _ _ _ _ _ _ _ rfl rfl) ?_ | split
      | exact True.intro | dsimp +zetaDelta only)))
  all_goals done

theorem closeGap_kept (s : State) : kept (closeGap s) = kept s := by
  unfold closeGap
  (iterate 60 (all_goals try (first
      | intro _ | fail_if_no_progress beta_reduce | extract_lets -underBinder | with_reducible rfl | with_reducible assumption
      | with_reducible refine kept_ite ?_ ?_
      | fail_if_no_progress refine Eq.trans (kept_mk _ _ _ _ _ _ _ _ _ _ _ _ _ _ _ _ _ _ _ _ _ _ _ _ _ _ _ rfl rfl) ?_ | split
      | exact True.intro | dsimp +zetaDelta only)))
  all_goals done

theorem trkClose_kept (s : State) : kept (trkClose s) = kept s := by
  unfold trkClose
  (iterate 60 (all_goals try (first
      | intro _ | fail_if_no_progress beta_reduce | extract_lets -underBinder | with_reducible rfl | with_reducible assumption
      | with_reducible refine Eq.trans (closeGap_kept ..) ?_ | with_reducible refine Eq.trans (trimWindow_kept ..) ?_
      | with_reducible refine Eq.trans (setKept_kept ..) ?_ | with_reducible refine Eq.trans (setTrkState_kept ..) ?_
      | with_reducible refine Eq.trans (dropWindow_kept ..) ?_ | with_reducible refine kept_ite ?_ ?_ | split | exact True.intro
      | dsimp +zetaDelta only)))
  all_goals done

theorem trkPost_kept (s : State) : kept (trkPost s) = kept s := by
  unfold trkPost
  with_reducible repeat' first | rfl | refine Eq.trans (trkFreeze_kept ..) ?_ | refine kept_ite ?_ ?_ | split |
    fail_if_no_progress refine Eq.trans (kept_mk _ _ _ _ _ _ _ _ _ _ _ _ _ _ _ _ _ _ _ _ _ _ _ _ _ _ _ rfl rfl) ?_

theorem trkWhole_kept (s : State) (lap : Nat) : kept (trkWhole s lap) = kept s := by
  unfold trkWhole
  (iterate 60 (all_goals try (first
      | intro _ | fail_if_no_progress beta_reduce | extract_lets -underBinder | with_reducible rfl | with_reducible assumption
      | with_reducible refine kept_ite ?_ ?_
      | fail_if_no_progress refine Eq.trans (kept_mk _ _ _ _ _ _ _ _ _ _ _ _ _ _ _ _ _ _ _ _ _ _ _ _ _ _ _ rfl rfl) ?_ | split
      | exact True.intro | dsimp +zetaDelta only)))
  all_goals done

theorem trkRelease_kept (s : State) : kept (trkRelease s) = kept s := by
  unfold trkRelease
  with_reducible repeat' first | intro _ | extract_lets -underBinder | rfl | refine Eq.trans (setTrkState_kept ..) ?_ |
    refine Eq.trans (dropWindow_kept ..) ?_ | refine kept_ite ?_ ?_ | split

theorem checkBase_kept (s : State) : kept (checkBase s) = kept s := by
  unfold checkBase
  (iterate 60 (all_goals try (first
      | intro _ | fail_if_no_progress beta_reduce | extract_lets -underBinder | with_reducible rfl | with_reducible assumption
      | with_reducible refine Eq.trans (readHalf_kept' rfl) ?_
      | (have hk := readHalf_kept' (by assumption); refine Eq.trans hk ?_; clear hk) | with_reducible refine kept_ite ?_ ?_
      | refine Eq.trans (kept_foldl _ _ _ ?_) ?_ | refine Eq.trans (kept_foldlPair _ _ _ ?_) ?_ | split | exact True.intro
      | dsimp +zetaDelta only)))
  all_goals done

theorem trkExport_kept (s : State) : kept (trkExport s) = kept s := by
  unfold trkExport
  (iterate 60 (all_goals try (first
      | intro _ | fail_if_no_progress beta_reduce | extract_lets -underBinder | with_reducible rfl | with_reducible assumption
      | with_reducible refine Eq.trans (hostWrite_kept ..) ?_ | with_reducible refine Eq.trans (hostTouch_kept ..) ?_
      | with_reducible refine Eq.trans (checkBase_kept ..) ?_ | with_reducible refine kept_ite ?_ ?_ | split | exact True.intro
      | dsimp +zetaDelta only)))
  all_goals done

theorem trkEnable_kept (s : State) (on : Bool) : kept (trkEnable s on) = kept s := by
  unfold trkEnable
  with_reducible repeat' first | intro _ | extract_lets -underBinder | rfl | refine Eq.trans (setTrkState_kept ..) ?_ |
    refine Eq.trans (dropWindow_kept ..) ?_ | refine kept_ite ?_ ?_ | split |
    fail_if_no_progress refine Eq.trans (kept_mk _ _ _ _ _ _ _ _ _ _ _ _ _ _ _ _ _ _ _ _ _ _ _ _ _ _ _ rfl rfl) ?_

end Sys2Proof.Machine
end

