-- ==== Sys2Proof/Laws/KeptLap.lean ====
section
/-! SUPPORT. What the functions over the pacer, the commit, snapshots, the lap mark and the plan leave alone. -/

set_option linter.unusedTactic false
set_option linter.unreachableTactic false

namespace Sys2Proof.Machine

theorem updGraph_kept (s : State) (gid : Nat) (f : Graph → Graph) : kept (updGraph s gid f) = kept s := rfl

theorem updGst_kept (s : State) (gid i : Nat) (f : GTask → GTask) : kept (updGst s gid i f) = kept s := rfl

theorem graphEvent_kept (s : State) (gid type : Nat) (code task detail : Nat) :
    kept (graphEvent s gid type code task detail) = kept s := by
  unfold graphEvent
  with_reducible repeat' first | rfl | refine Eq.trans (postEvent_kept ..) ?_ | split

theorem dropHeld_kept (s : State) (b : Nat) (e : Epoch) : kept (dropHeld s b e) = kept s := rfl

theorem freeEpoch_kept (s : State) (b i : Nat) : kept (freeEpoch s b i) = kept s := rfl

theorem putStream_kept (s : State) (n lap : Nat) (v : RStream) : kept (putStream s n lap v) = kept s := by
  unfold putStream
  with_reducible repeat' first | rfl | refine Eq.trans (updRegion_kept ..) ?_ | refine kept_ite ?_ ?_ | split |
    fail_if_no_progress refine Eq.trans (kept_mk _ _ _ _ _ _ _ _ _ _ _ _ _ _ _ _ _ _ _ _ _ _ _ _ _ _ _ rfl rfl) ?_

theorem discardEpoch_kept (d : Dec) (b i : Nat) (e : Epoch) (final : Bool) : kept (discardEpoch d b i e final).s = kept d.s := by
  unfold discardEpoch
  (iterate 60 (all_goals try (first
      | intro _ | fail_if_no_progress beta_reduce | extract_lets -underBinder | with_reducible rfl | with_reducible assumption
      | with_reducible refine Eq.trans (updGst_kept ..) ?_ | with_reducible refine Eq.trans (freeEpoch_kept ..) ?_
      | with_reducible refine Eq.trans (dropHeld_kept ..) ?_ | with_reducible refine Eq.trans (fbump_kept ..) ?_
      | with_reducible refine Eq.trans (graphEvent_kept ..) ?_ | with_reducible refine kept_ite ?_ ?_
      | refine Eq.trans (kept_foldl _ _ _ ?_) ?_ | split | exact True.intro | dsimp +zetaDelta only)))
  all_goals done

theorem discardEpoch_kept' {d : Dec} {b i : Nat} {e : Epoch} {final : Bool} {resu}
    (h : discardEpoch d b i e final = resu) : kept resu.s = kept d.s :=
  h ▸ discardEpoch_kept d b i e final

theorem commitEpoch_kept (d : Dec) (b i : Nat) (e : Epoch) : kept (commitEpoch d b i e).s = kept d.s := by
  unfold commitEpoch
  with_reducible repeat' first | intro _ | extract_lets -underBinder | rfl | refine Eq.trans (updGst_kept ..) ?_ |
    refine Eq.trans (putStream_kept ..) ?_ | refine Eq.trans (fbump_kept ..) ?_ | refine Eq.trans (freeEpoch_kept ..) ?_ |
    refine Eq.trans (dropHeld_kept ..) ?_ | refine Eq.trans (kept_foldl _ _ _ ?_) ?_ | split

theorem commitEpoch_kept' {d : Dec} {b i : Nat} {e : Epoch} {resu} (h : commitEpoch d b i e = resu) : kept resu.s = kept d.s := h ▸ commitEpoch_kept d b i e

theorem settleConfirmed_kept (conf : List (Nat × Nat)) (d : Dec) (x : Nat × Nat × Epoch) :
    kept (settleConfirmed conf d x).s = kept d.s := by
  unfold settleConfirmed
  with_reducible repeat' first | rfl | refine Eq.trans (discardEpoch_kept' (by exact rfl)) ?_ |
    (have hk := discardEpoch_kept' (by assumption); refine Eq.trans hk ?_; clear hk) |
    refine Eq.trans (commitEpoch_kept' (by exact rfl)) ?_ |
    (have hk := commitEpoch_kept' (by assumption); refine Eq.trans hk ?_; clear hk) | refine kept_dec_ite ?_ ?_ | split

theorem settleConfirmed_kept' {conf : List (Nat × Nat)} {d : Dec} {x : Nat × Nat × Epoch} {resu} (h : settleConfirmed conf d x = resu) : kept resu.s = kept d.s := h ▸ settleConfirmed_kept conf d x

theorem skipGuarded_kept (d : Dec) (gid id : Nat) : kept (skipGuarded d gid id).s = kept d.s := by
  unfold skipGuarded
  with_reducible repeat' first | intro _ | extract_lets -underBinder | rfl | refine Eq.trans (updGst_kept ..) ?_ |
    refine Eq.trans (graphEvent_kept ..) ?_ | refine Eq.trans (kept_foldl _ _ _ ?_) ?_ | split

theorem skipGuarded_kept' {d : Dec} {gid id : Nat} {resu} (h : skipGuarded d gid id = resu) : kept resu.s = kept d.s := h ▸ skipGuarded_kept d gid id

theorem resolveGuards_kept (d : Dec) : kept (resolveGuards d).s = kept d.s := by
  unfold resolveGuards
  with_reducible repeat' first | intro _ | extract_lets -underBinder | rfl | refine Eq.trans (updGraph_kept ..) ?_ |
    refine Eq.trans (skipGuarded_kept' (by exact rfl)) ?_ |
    (have hk := skipGuarded_kept' (by assumption); refine Eq.trans hk ?_; clear hk) | refine kept_dec_ite ?_ ?_ |
    refine Eq.trans (kept_foldlDec _ _ _ ?_) ?_ | split

theorem resolveGuards_kept' {d : Dec} {resu} (h : resolveGuards d = resu) : kept resu.s = kept d.s := h ▸ resolveGuards_kept d

theorem joinEpoch_kept (d : Dec) (b i : Nat) (e : Epoch) (st : Nat) : kept (joinEpoch d b i e st).s = kept d.s := by
  unfold joinEpoch
  with_reducible repeat' first | intro _ | extract_lets -underBinder | rfl | refine Eq.trans (updBlock_kept ..) ?_ |
    refine Eq.trans (updGst_kept ..) ?_ | refine Eq.trans (kept_updLap _ _ rfl rfl) ?_ | refine Eq.trans (kept_foldl _ _ _ ?_) ?_ | split

theorem joinEpoch_kept' {d : Dec} {b i : Nat} {e : Epoch} {st : Nat} {resu} (h : joinEpoch d b i e st = resu) : kept resu.s = kept d.s := h ▸ joinEpoch_kept d b i e st

theorem settleOpen_kept (conf : List (Nat × Nat)) (d : Dec) (x : Nat × Nat × Epoch) : kept (settleOpen conf d x).s = kept d.s := by
  unfold settleOpen
  (iterate 60 (all_goals try (first
      | intro _ | fail_if_no_progress beta_reduce | extract_lets -underBinder | with_reducible rfl | exact True.intro | assumption
      | with_reducible refine Eq.trans (discardEpoch_kept' rfl) ?_ | with_reducible refine Eq.trans (joinEpoch_kept' rfl) ?_
      | (have hk := discardEpoch_kept' (by assumption); refine Eq.trans hk ?_; clear hk)
      | (have hk := joinEpoch_kept' (by assumption); refine Eq.trans hk ?_; clear hk) | with_reducible refine kept_dec_ite ?_ ?_
      | split | dsimp +zetaDelta only)))
  all_goals done

theorem settleOpen_kept' {conf : List (Nat × Nat)} {d : Dec} {x : Nat × Nat × Epoch} {resu} (h : settleOpen conf d x = resu) : kept resu.s = kept d.s := h ▸ settleOpen_kept conf d x

theorem settleEpochs_kept (s : State) (ts : List LapTask) : kept (settleEpochs s ts).s = kept s := by
  unfold settleEpochs
  (iterate 60 (all_goals try (first
      | intro _ | fail_if_no_progress beta_reduce | extract_lets -underBinder | with_reducible rfl | exact True.intro | assumption
      | with_reducible refine Eq.trans (settleConfirmed_kept' rfl) ?_ | with_reducible refine Eq.trans (resolveGuards_kept' rfl) ?_
      | with_reducible refine Eq.trans (settleOpen_kept' rfl) ?_
      | (have hk := settleConfirmed_kept' (by assumption); refine Eq.trans hk ?_; clear hk)
      | (have hk := resolveGuards_kept' (by assumption); refine Eq.trans hk ?_; clear hk)
      | (have hk := settleOpen_kept' (by assumption); refine Eq.trans hk ?_; clear hk)
      | with_reducible refine Eq.trans (kept_foldlDec _ _ _ ?_) ?_ | split | dsimp +zetaDelta only)))
  all_goals done

theorem settleEpochs_kept' {s : State} {ts : List LapTask} {resu} (h : settleEpochs s ts = resu) : kept resu.s = kept s := h ▸ settleEpochs_kept s ts

theorem sendOutcomes_kept (s : State) (fs : List (Nat × Nat × Bool)) : kept (sendOutcomes s fs) = kept s := rfl

theorem commitPages_kept (s : State) (r : Nat) : kept (commitPages s r) = kept s := by
  unfold commitPages
  (iterate 60 (all_goals try (first
      | intro _ | fail_if_no_progress beta_reduce | extract_lets -underBinder | with_reducible rfl | with_reducible assumption
      | with_reducible refine Eq.trans (readSystem_kept ..) ?_ | with_reducible refine Eq.trans (fillPage_kept ..) ?_
      | with_reducible refine Eq.trans (updRegion_kept ..) ?_ | with_reducible refine kept_ite ?_ ?_
      | refine Eq.trans (kept_foldl _ _ _ ?_) ?_ | refine Eq.trans (kept_foldlPair _ _ _ ?_) ?_ | split | exact True.intro
      | dsimp +zetaDelta only)))
  all_goals done

theorem commitShadow_kept (s : State) (b : Nat) : kept (commitShadow s b) = kept s := by
  unfold commitShadow
  (iterate 60 (all_goals try (first
      | intro _ | fail_if_no_progress beta_reduce | extract_lets -underBinder | with_reducible rfl | with_reducible assumption
      | with_reducible refine Eq.trans (setBlock_kept ..) ?_ | with_reducible refine kept_ite ?_ ?_
      | refine Eq.trans (kept_foldl _ _ _ ?_) ?_
      | fail_if_no_progress refine Eq.trans (kept_mk _ _ _ _ _ _ _ _ _ _ _ _ _ _ _ _ _ _ _ _ _ _ _ _ _ _ _ rfl rfl) ?_ | split
      | exact True.intro | dsimp +zetaDelta only)))
  all_goals done

theorem commitPt_kept (s : State) (r : Nat) : kept (commitPt s r) = kept s := by
  unfold commitPt
  (iterate 60 (all_goals try (first
      | intro _ | fail_if_no_progress beta_reduce | extract_lets -underBinder | with_reducible rfl | with_reducible assumption
      | with_reducible refine Eq.trans (readSystem_kept ..) ?_ | with_reducible refine Eq.trans (updRegion_kept ..) ?_
      | (have hk := ptEffect_kept' (by assumption); refine Eq.trans hk ?_; clear hk)
      | with_reducible refine keptOpt_getD (ptEffect_kept ..) ?_ | with_reducible refine Eq.trans (fput_kept ..) ?_
      | with_reducible refine kept_ite ?_ ?_ | refine Eq.trans (kept_foldl _ _ _ ?_) ?_ | split | exact True.intro | dsimp +zetaDelta only)))
  all_goals done

theorem commitIndStreams_kept (ts : List LapTask) (s : State) (r : Nat) : kept (commitIndStreams ts s r) = kept s := by
  unfold commitIndStreams
  with_reducible repeat' first | intro _ | extract_lets -underBinder | rfl | refine Eq.trans (updRegion_kept ..) ?_ |
    refine Eq.trans (fput_kept ..) ?_ | refine Eq.trans (putStream_kept ..) ?_ | refine kept_ite ?_ ?_ |
    refine Eq.trans (kept_foldl _ _ _ ?_) ?_ | split

theorem applyOwn_kept (s : State) (p : OwnPend) : kept (applyOwn s p) = kept s := by
  unfold applyOwn
  with_reducible repeat' first | rfl | refine Eq.trans (fput_kept ..) ?_ | refine kept_ite ?_ ?_ | split |
    fail_if_no_progress refine Eq.trans (kept_mk _ _ _ _ _ _ _ _ _ _ _ _ _ _ _ _ _ _ _ _ _ _ _ _ _ _ _ rfl rfl) ?_

theorem commitOwn_kept (s : State) :
    kept (commitOwn s) = kept s := by
  unfold commitOwn
  (iterate 60 (all_goals try (first
      | intro _ | fail_if_no_progress beta_reduce | extract_lets -underBinder | with_reducible rfl | exact True.intro | assumption
      | with_reducible refine Eq.trans (readSystem_kept ..) ?_ | with_reducible refine Eq.trans (applyOwn_kept ..) ?_
      | with_reducible refine kept_ite ?_ ?_ | with_reducible refine Eq.trans (kept_foldl _ _ _ ?_) ?_ | split | dsimp +zetaDelta only)))
  all_goals done

theorem dropCpls_kept (s : State) (ring : Nat → Bool) : kept (dropCpls s ring) = kept s := by
  unfold dropCpls
  (iterate 60 (all_goals try (first
      | intro _ | fail_if_no_progress beta_reduce | extract_lets -underBinder | with_reducible rfl | with_reducible assumption
      | with_reducible refine Eq.trans (updHost_kept ..) ?_ | with_reducible refine Eq.trans (kept_updLap _ _ rfl rfl) ?_
      | with_reducible refine kept_ite ?_ ?_ | split | exact True.intro | dsimp +zetaDelta only)))
  all_goals done

theorem putCpl_kept (s : State) (ring w : Nat) : kept (putCpl s ring w) = kept s := by
  unfold putCpl
  (iterate 60 (all_goals try (first
      | intro _ | fail_if_no_progress beta_reduce | extract_lets -underBinder | with_reducible rfl | with_reducible assumption
      | with_reducible refine Eq.trans (updHost_kept ..) ?_ | (have hk := ringPut_kept' (by assumption); refine Eq.trans hk ?_; clear hk)
      | with_reducible refine keptOpt_getD (ringPut_kept ..) ?_ | with_reducible refine Eq.trans (ringFaultMark_kept ..) ?_
      | with_reducible refine Eq.trans (errPart_kept ..) ?_ | with_reducible refine kept_ite ?_ ?_ | split | exact True.intro
      | dsimp +zetaDelta only)))
  all_goals done

theorem putCpls_kept (s : State) (l : List (Nat × Nat)) : kept (putCpls s l) = kept s := by
  unfold putCpls
  with_reducible repeat' first | intro _ | extract_lets -underBinder | rfl | refine Eq.trans (putCpl_kept ..) ?_ |
    refine Eq.trans (updHost_kept ..) ?_ | refine Eq.trans (fireVector_kept ..) ?_ | refine kept_ite ?_ ?_ |
    refine Eq.trans (kept_foldl _ _ _ ?_) ?_ | split

theorem stopGraph_kept (s : State) (gid : Nat) : kept (stopGraph s gid) = kept s := rfl

theorem settleOutcome_kept (s : State) (k : LapTask) : kept (settleOutcome s k) = kept s := by
  unfold settleOutcome
  (iterate 60 (all_goals try (first
      | intro _ | fail_if_no_progress beta_reduce | extract_lets -underBinder | with_reducible rfl | with_reducible assumption
      | with_reducible refine Eq.trans (updGst_kept ..) ?_ | with_reducible refine Eq.trans (stopGraph_kept ..) ?_
      | with_reducible refine Eq.trans (graphEvent_kept ..) ?_ | with_reducible refine Eq.trans (errPart_kept ..) ?_
      | with_reducible refine kept_ite ?_ ?_ | split | exact True.intro | dsimp +zetaDelta only)))
  all_goals done

theorem settleTask_kept (raw : List LapTask) (s : State) (k : LapTask) : kept (settleTask raw s k) = kept s := by
  unfold settleTask
  (iterate 60 (all_goals try (first
      | intro _ | fail_if_no_progress beta_reduce | extract_lets -underBinder | with_reducible rfl | with_reducible assumption
      | with_reducible refine Eq.trans (settleOutcome_kept ..) ?_ | with_reducible refine kept_ite ?_ ?_ | split | exact True.intro
      | dsimp +zetaDelta only)))
  all_goals done

theorem groupsAgain_kept (s : State) (ts : List LapTask) : kept (groupsAgain s ts) = kept s := by
  unfold groupsAgain
  with_reducible repeat' first | intro _ | fail_if_no_progress beta_reduce | extract_lets -underBinder |
    fail_if_no_progress refine Eq.trans (kept_fst _ _) ?_ | fail_if_no_progress refine Eq.trans (kept_snd _ _) ?_ |
    fail_if_no_progress refine Eq.trans (kept_dec _ _ _ _) ?_ | rfl | refine Eq.trans (updGst_kept ..) ?_ | refine kept_ite ?_ ?_ |
    refine Eq.trans (kept_foldl _ _ _ ?_) ?_ | split

theorem endStopped_kept (s : State) (ts : List LapTask) : kept (endStopped s ts) = kept s := by
  unfold endStopped
  with_reducible repeat' first | intro _ | fail_if_no_progress beta_reduce | extract_lets -underBinder |
    fail_if_no_progress refine Eq.trans (kept_fst _ _) ?_ | fail_if_no_progress refine Eq.trans (kept_snd _ _) ?_ |
    fail_if_no_progress refine Eq.trans (kept_dec _ _ _ _) ?_ | rfl | refine Eq.trans (updGst_kept ..) ?_ | refine kept_ite ?_ ?_ |
    refine Eq.trans (kept_foldl _ _ _ ?_) ?_ | split

theorem closeGraph_kept (s : State) (g : Graph) : kept (closeGraph s g) = kept s := by
  unfold closeGraph
  with_reducible repeat' first | rfl | refine Eq.trans (postEvent_kept ..) ?_ | refine kept_ite ?_ ?_ | split |
    fail_if_no_progress refine Eq.trans (kept_mk _ _ _ _ _ _ _ _ _ _ _ _ _ _ _ _ _ _ _ _ _ _ _ _ _ _ _ rfl rfl) ?_

theorem calibrateAll_kept (s : State) (d : Dec) :
    kept (calibrateAll s d) = kept s := by
  unfold calibrateAll
  (iterate 60 (all_goals try (first
      | intro _ | fail_if_no_progress beta_reduce | extract_lets -underBinder | with_reducible rfl | exact True.intro | assumption
      | with_reducible refine Eq.trans (updPart_kept ..) ?_ | with_reducible refine kept_ite ?_ ?_
      | with_reducible refine Eq.trans (kept_foldl _ _ _ ?_) ?_ | split | dsimp +zetaDelta only)))
  all_goals done

theorem writeLog_kept (s : State) (b : Bytes) : kept (writeLog s b) = kept s := by
  unfold writeLog
  extract_lets size h0 h t
  have ht : kept t = kept s := (readSystem_kept ..).trans rfl
  exact (fput_kept ..).trans ht

theorem ledgerDrop_kept (s : State) : kept (ledgerDrop s) = kept s := by
  unfold ledgerDrop
  (iterate 60 (all_goals try (first
      | intro _ | fail_if_no_progress beta_reduce | extract_lets -underBinder | with_reducible rfl | with_reducible assumption
      | with_reducible refine Eq.trans (fbump_kept ..) ?_ | with_reducible refine kept_ite ?_ ?_ | split | exact True.intro
      | dsimp +zetaDelta only)))
  all_goals done

theorem ledgerPost_kept (s : State) (b : Bytes) : kept (ledgerPost s b) = kept s := by
  unfold ledgerPost
  (iterate 60 (all_goals try (first
      | intro _ | fail_if_no_progress beta_reduce | extract_lets -underBinder | with_reducible rfl | with_reducible assumption
      | with_reducible refine Eq.trans (fbump_kept ..) ?_ | with_reducible refine Eq.trans (fput_kept ..) ?_
      | with_reducible refine Eq.trans (hostWrite_kept ..) ?_ | with_reducible refine Eq.trans (hostTouch_kept ..) ?_
      | with_reducible refine kept_ite ?_ ?_ | split | exact True.intro | dsimp +zetaDelta only)))
  all_goals done

theorem ledgerLap_kept (s : State) (ts : List LapTask) : kept (ledgerLap s ts) = kept s := by
  unfold ledgerLap
  (iterate 60 (all_goals try (first
      | intro _ | fail_if_no_progress beta_reduce | extract_lets -underBinder | with_reducible rfl | with_reducible assumption
      | with_reducible refine Eq.trans (ledgerPost_kept ..) ?_ | with_reducible refine Eq.trans (ledgerDrop_kept ..) ?_
      | with_reducible refine Eq.trans (fbump_kept ..) ?_
      | (have hk := sendSegment_kept' (by assumption); refine Eq.trans hk ?_; clear hk)
      | with_reducible refine keptOpt_getD (sendSegment_kept ..) ?_ | with_reducible refine kept_ite ?_ ?_ | split | exact True.intro
      | dsimp +zetaDelta only)))
  all_goals done

theorem ringFault_kept (s : State) (sel addr : Nat) (overrun : Bool) : kept (ringFault s sel addr overrun) = kept s := by
  unfold ringFault
  (iterate 60 (all_goals try (first
      | intro _ | fail_if_no_progress beta_reduce | extract_lets -underBinder | with_reducible rfl | with_reducible assumption
      | with_reducible refine Eq.trans (ringFaultMark_kept ..) ?_ | with_reducible refine Eq.trans (errPart_kept ..) ?_
      | with_reducible refine kept_ite ?_ ?_ | split | exact True.intro | dsimp +zetaDelta only)))
  all_goals done

theorem readWord_kept (s : State) (sel : Nat) : kept (readWord s sel).1 = kept s := by
  unfold readWord
  with_reducible repeat' first | intro _ | extract_lets -underBinder | rfl | refine Eq.trans (ringFault_kept ..) ?_ |
    refine Eq.trans (updHost_kept ..) ?_ | refine kept_ite ?_ ?_ | refine kept_fst_ite ?_ ?_ | split

theorem readWord_kept' {s : State} {sel : Nat} {resu} (h : readWord s sel = resu) : kept resu.1 = kept s := h ▸ readWord_kept s sel

theorem readLineDb_kept (s : State) (line : Nat) (sels : List Nat) : kept (readLineDb s line sels).1 = kept s := by
  unfold readLineDb
  with_reducible repeat' first | intro _ | extract_lets -underBinder | rfl | refine Eq.trans (ringFault_kept ..) ?_ |
    refine Eq.trans (readWord_kept' (by exact rfl)) ?_ | (have hk := readWord_kept' (by assumption); refine Eq.trans hk ?_; clear hk) |
    refine Eq.trans (hostFetch_kept ..) ?_ | refine kept_fst_ite ?_ ?_ | refine Eq.trans (kept_foldlPair _ _ _ ?_) ?_ |
    refine Eq.trans (kept_foldl _ _ _ ?_) ?_ | split

theorem readLineDb_kept' {s : State} {line : Nat} {sels : List Nat} {resu} (h : readLineDb s line sels = resu) : kept resu.1 = kept s := h ▸ readLineDb_kept s line sels

theorem readLines_kept (s : State) : kept (readLines s).1 = kept s := by
  unfold readLines
  extract_lets -underBinder on
  refine Eq.trans (kept_foldlPair _ _ _ fun r a => ?_) (kept_fst _ _)
  extract_lets x
  exact Eq.trans (kept_fst _ _) (readLineDb_kept' (resu := x) rfl)

theorem readLines_kept' {s : State} {resu} (h : readLines s = resu) : kept resu.1 = kept s := h ▸ readLines_kept s

theorem writeHead_kept (s : State) (n : Nat) : kept (writeHead s n) = kept s := by
  unfold writeHead
  (iterate 60 (all_goals try (first
      | intro _ | fail_if_no_progress beta_reduce | extract_lets -underBinder | with_reducible rfl | with_reducible assumption
      | with_reducible refine Eq.trans (updHost_kept ..) ?_ | with_reducible refine Eq.trans (hostWrite_kept ..) ?_
      | with_reducible refine Eq.trans (hostTouch_kept ..) ?_ | with_reducible refine Eq.trans (ringFault_kept ..) ?_
      | with_reducible refine kept_ite ?_ ?_ | split | exact True.intro | dsimp +zetaDelta only)))
  all_goals done

theorem consumeEntry_kept (s : State) (n : Nat) : kept (consumeEntry s n) = kept s := by
  unfold consumeEntry
  (iterate 60 (all_goals try (first
      | intro _ | fail_if_no_progress beta_reduce | extract_lets -underBinder | with_reducible rfl | with_reducible assumption
      | with_reducible refine Eq.trans (trkInput_kept ..) ?_ | with_reducible refine Eq.trans (hostTouch_kept ..) ?_
      | with_reducible refine Eq.trans (updHost_kept ..) ?_ | with_reducible refine Eq.trans (setRingIndex_kept ..) ?_
      | with_reducible refine Eq.trans (writeHead_kept ..) ?_ | with_reducible refine kept_ite ?_ ?_ | split | exact True.intro
      | dsimp +zetaDelta only)))
  all_goals done

theorem dropBad_kept (x0 : Nat) (x1 : State) : kept (dropBad x0 x1) = kept x1 := by
  fun_induction dropBad x0 x1 <;>
  with_reducible repeat' first | assumption | rfl | refine Eq.trans (ringFault_kept ..) ?_ | refine Eq.trans (consumeEntry_kept ..) ?_ |
    refine Eq.trans (fput_kept ..) ?_ | refine Eq.trans (by assumption) ?_ | split

theorem writeHeads_kept (s : State) : kept (writeHeads s) = kept s := by
  unfold writeHeads
  (iterate 60 (all_goals try (first
      | intro _ | fail_if_no_progress beta_reduce | extract_lets -underBinder | with_reducible rfl | with_reducible assumption
      | with_reducible refine Eq.trans (writeHead_kept ..) ?_ | with_reducible refine kept_ite ?_ ?_
      | refine Eq.trans (kept_foldl _ _ _ ?_) ?_ | split | exact True.intro | dsimp +zetaDelta only)))
  all_goals done

theorem settleSeen_kept (s : State) : kept (settleSeen s) = kept s := by
  unfold settleSeen
  (iterate 60 (all_goals try (first
      | intro _ | fail_if_no_progress beta_reduce | extract_lets -underBinder | with_reducible rfl | with_reducible assumption
      | with_reducible refine Eq.trans (updHost_kept ..) ?_ | with_reducible refine Eq.trans (writeHeads_kept ..) ?_
      | with_reducible refine Eq.trans (dropBad_kept ..) ?_ | with_reducible refine kept_ite ?_ ?_ | split | exact True.intro
      | dsimp +zetaDelta only)))
  all_goals done

theorem nudgeRead_kept (s : State) (n : Nat) : kept (nudgeRead s n) = kept s := by
  unfold nudgeRead
  (iterate 60 (all_goals try (first
      | intro _ | fail_if_no_progress beta_reduce | extract_lets -underBinder | with_reducible rfl | with_reducible assumption
      | with_reducible refine Eq.trans (ringFault_kept ..) ?_ | with_reducible refine Eq.trans (readWord_kept' rfl) ?_
      | (have hk := readWord_kept' (by assumption); refine Eq.trans hk ?_; clear hk)
      | with_reducible refine Eq.trans (hostFetch_kept ..) ?_ | with_reducible refine Eq.trans (settleSeen_kept ..) ?_
      | with_reducible refine Eq.trans (updHost_kept ..) ?_ | with_reducible refine kept_ite ?_ ?_ | split | exact True.intro
      | dsimp +zetaDelta only)))
  all_goals done

theorem serveNudges_kept (x0 : Nat) (x1 : State) : kept (serveNudges x0 x1) = kept x1 := by
  fun_induction serveNudges x0 x1 <;> (iterate 60 (all_goals try (first
      | intro _ | fail_if_no_progress beta_reduce | extract_lets -underBinder | with_reducible rfl | with_reducible assumption
      | with_reducible refine Eq.trans (nudgeRead_kept ..) ?_ | with_reducible refine Eq.trans (updHost_kept ..) ?_
      | refine Eq.trans (by assumption) ?_ | with_reducible refine kept_ite ?_ ?_ | split | exact True.intro | dsimp +zetaDelta only)))
  all_goals done

theorem settleSub_kept (s : State) : kept (settleSub s) = kept s := by
  unfold settleSub
  (iterate 60 (all_goals try (first
      | intro _ | fail_if_no_progress beta_reduce | extract_lets -underBinder | with_reducible rfl | with_reducible assumption
      | with_reducible refine Eq.trans (serveNudges_kept ..) ?_ | with_reducible refine Eq.trans (settleSeen_kept ..) ?_
      | with_reducible refine kept_ite ?_ ?_ | split | exact True.intro | dsimp +zetaDelta only)))
  all_goals done

theorem nudge_kept (s : State) (n : Nat) : kept (nudge s n) = kept s := by
  unfold nudge
  (iterate 60 (all_goals try (first
      | intro _ | fail_if_no_progress beta_reduce | extract_lets -underBinder | with_reducible rfl | with_reducible assumption
      | with_reducible refine Eq.trans (serveNudges_kept ..) ?_ | with_reducible refine Eq.trans (updHost_kept ..) ?_
      | with_reducible refine kept_ite ?_ ?_ | split | exact True.intro | dsimp +zetaDelta only)))
  all_goals done

theorem doorbellRead_kept (s : State) : kept (doorbellRead s) = kept s := by
  unfold doorbellRead
  (iterate 60 (all_goals try (first
      | intro _ | fail_if_no_progress beta_reduce | extract_lets -underBinder | with_reducible rfl | with_reducible assumption
      | with_reducible refine Eq.trans (readLines_kept' rfl) ?_
      | (have hk := readLines_kept' (by assumption); refine Eq.trans hk ?_; clear hk)
      | with_reducible refine Eq.trans (writeHeads_kept ..) ?_ | with_reducible refine Eq.trans (settleSub_kept ..) ?_
      | with_reducible refine Eq.trans (updHost_kept ..) ?_ | with_reducible refine kept_ite ?_ ?_ | split | exact True.intro
      | dsimp +zetaDelta only)))
  all_goals done

theorem setSnapState_kept (s : State) (v : Nat) : kept (setSnapState s v) = kept s := rfl

theorem fetchManifest_kept (s : State) : kept (fetchManifest s) = kept s := by
  unfold fetchManifest
  (iterate 60 (all_goals try (first
      | intro _ | fail_if_no_progress beta_reduce | extract_lets -underBinder | with_reducible rfl | with_reducible assumption
      | with_reducible refine Eq.trans (hostFetch_kept ..) ?_ | with_reducible refine kept_ite ?_ ?_ | split | exact True.intro
      | dsimp +zetaDelta only)))
  all_goals done

theorem snapFail_kept (s : State) (kind seq : Nat) : kept (snapFail s kind seq) = kept s := by
  unfold snapFail
  with_reducible repeat' first | rfl | refine Eq.trans (fput_kept ..) ?_ | refine Eq.trans (setSnapState_kept ..) ?_ |
    refine Eq.trans (errPart_kept ..) ?_ | refine kept_ite ?_ ?_ | split |
    fail_if_no_progress refine Eq.trans (kept_mk _ _ _ _ _ _ _ _ _ _ _ _ _ _ _ _ _ _ _ _ _ _ _ _ _ _ _ rfl rfl) ?_

theorem snapRefuse_kept (s : State) : kept (snapRefuse s) = kept s := rfl

theorem ownersIn_kept (s : State) (lap : Nat) : kept (ownersIn s lap) = kept s := by
  unfold ownersIn
  (iterate 60 (all_goals try (first
      | intro _ | fail_if_no_progress beta_reduce | extract_lets -underBinder | with_reducible rfl | with_reducible assumption
      | with_reducible refine Eq.trans (applyOwn_kept ..) ?_ | with_reducible refine kept_ite ?_ ?_
      | refine Eq.trans (kept_foldl _ _ _ ?_) ?_ | split | exact True.intro | dsimp +zetaDelta only)))
  all_goals done

theorem heldForHost_kept (s : State) (slot : Nat) : kept (heldForHost s slot).1 = kept s := by
  unfold heldForHost
  (iterate 60 (all_goals try (first
      | intro _ | fail_if_no_progress beta_reduce | extract_lets -underBinder | with_reducible rfl | with_reducible assumption
      | with_reducible refine Eq.trans (drawFree_kept' rfl) ?_
      | (have hk := drawFree_kept' (by assumption); refine Eq.trans hk ?_; clear hk) | with_reducible refine kept_ite ?_ ?_
      | with_reducible refine kept_fst_ite ?_ ?_ | with_reducible refine kept_snd_ite ?_ ?_ | split | exact True.intro
      | dsimp +zetaDelta only)))
  all_goals done

theorem heldForHost_kept' {s : State} {slot : Nat} {resu}
    (h : heldForHost s slot = resu) : kept resu.1 = kept s :=
  h ▸ heldForHost_kept s slot

theorem snapBegin_kept (s : State) (lap slot runStep : Nat) (es : List Nat) : kept (snapBegin s lap slot runStep es) = kept s := by
  unfold snapBegin
  (iterate 60 (all_goals try (first
      | intro _ | fail_if_no_progress beta_reduce | extract_lets -underBinder | with_reducible rfl | with_reducible assumption
      | with_reducible refine Eq.trans (setSnapState_kept ..) ?_ | with_reducible refine Eq.trans (ownersIn_kept ..) ?_
      | with_reducible refine kept_ite ?_ ?_
      | fail_if_no_progress refine Eq.trans (kept_mk _ _ _ _ _ _ _ _ _ _ _ _ _ _ _ _ _ _ _ _ _ _ _ _ _ _ _ rfl rfl) ?_ | split
      | exact True.intro | dsimp +zetaDelta only)))
  all_goals done

theorem snapRequest_kept (s : State) (value : Nat) : kept (snapRequest s value) = kept s := by
  unfold snapRequest
  (iterate 60 (all_goals try (first
      | intro _ | fail_if_no_progress beta_reduce | extract_lets -underBinder | with_reducible rfl | with_reducible assumption
      | with_reducible refine Eq.trans (fput_kept ..) ?_ | with_reducible refine Eq.trans (snapRefuse_kept ..) ?_
      | with_reducible refine Eq.trans (fetchManifest_kept ..) ?_ | with_reducible refine Eq.trans (ownersIn_kept ..) ?_
      | with_reducible refine Eq.trans (heldForHost_kept' rfl) ?_
      | (have hk := heldForHost_kept' (by assumption); refine Eq.trans hk ?_; clear hk)
      | with_reducible refine Eq.trans (snapBegin_kept ..) ?_ | with_reducible refine kept_ite ?_ ?_ | split | exact True.intro
      | dsimp +zetaDelta only)))
  all_goals done

theorem setLeft_kept (s : State) (n : Nat) : kept (setLeft s n) = kept s := rfl

theorem relayPage_kept (s : State) (slot k : Nat) (b : Bytes) : keptOpt (relayPage s slot k b) (kept s) := by
  unfold relayPage
  (iterate 60 (all_goals try (first
      | intro _ | fail_if_no_progress beta_reduce | extract_lets -underBinder | with_reducible rfl | with_reducible assumption
      | (have hk := sendSegment_kept' (by assumption); refine Eq.trans hk ?_; clear hk)
      | with_reducible refine keptOpt_mono (sendSegment_kept ..) ?_ | with_reducible refine keptOpt_getD (sendSegment_kept ..) ?_
      | with_reducible refine keptOpt_map ?_ ?_ | with_reducible refine Eq.trans (kept_updLap _ _ rfl rfl) ?_
      | with_reducible refine kept_ite ?_ ?_ | with_reducible refine keptOpt_ite ?_ ?_ | with_reducible refine keptOpt_some ?_ | split
      | exact True.intro | dsimp +zetaDelta only)))
  all_goals done

theorem relayPage_kept' {s : State} {slot k : Nat} {b : Bytes} {resu}
    (h : relayPage s slot k b = resu) : keptOpt resu (kept s) :=
  h ▸ relayPage_kept s slot k b

theorem relayPages_kept (slot : Nat) (x1 : List (Nat × Bytes)) (x2 : State) : keptOpt (relayPages slot x1 x2) (kept x2) := by
  fun_induction relayPages slot x1 x2 <;> (iterate 60 (all_goals try (first
      | intro _ | fail_if_no_progress beta_reduce | extract_lets -underBinder | with_reducible rfl | exact True.intro | assumption
      | (have hk := relayPage_kept' (by assumption); refine Eq.trans hk ?_; clear hk)
      | with_reducible refine keptOpt_mono (relayPage_kept ..) ?_ | refine keptOpt_mono (by assumption) ?_
      | with_reducible refine keptOpt_some ?_ | split | dsimp +zetaDelta only)))
  all_goals done

theorem relayPages_kept' {slot : Nat} {x1 : List (Nat × Bytes)} {x2 : State} {resu} (h : relayPages slot x1 x2 = resu) : keptOpt resu (kept x2) := h ▸ relayPages_kept slot x1 x2

theorem checkPages_kept (s : State) (ps : List (Nat × Nat)) : kept (checkPages s ps).1 = kept s :=
  kept_foldlPair _ _ _ fun r p => readHbmEcc_kept r.1 p.1 noSlot [] 2 p.2 0 65536

theorem checkPages_kept' {s : State} {ps : List (Nat × Nat)} {resu}
    (h : checkPages s ps = resu) : kept resu.1 = kept s :=
  h ▸ checkPages_kept s ps

theorem keepImage_kept (old new : State) : kept (keepImage old new) = kept new := by
  unfold keepImage
  (iterate 60 (all_goals try (first
      | intro _ | fail_if_no_progress beta_reduce | extract_lets -underBinder | with_reducible rfl | with_reducible assumption
      | with_reducible refine kept_ite ?_ ?_
      | fail_if_no_progress refine Eq.trans (kept_mk _ _ _ _ _ _ _ _ _ _ _ _ _ _ _ _ _ _ _ _ _ _ _ _ _ _ _ rfl rfl) ?_ | split
      | exact True.intro | dsimp +zetaDelta only)))
  all_goals done

theorem keepWhole_kept (s : State) : kept (keepWhole s) = kept s := by
  unfold keepWhole
  (iterate 60 (all_goals try (first
      | intro _ | fail_if_no_progress beta_reduce | extract_lets -underBinder | with_reducible rfl | with_reducible assumption
      | with_reducible refine kept_ite ?_ ?_
      | fail_if_no_progress refine Eq.trans (kept_mk _ _ _ _ _ _ _ _ _ _ _ _ _ _ _ _ _ _ _ _ _ _ _ _ _ _ _ rfl rfl) ?_ | split
      | exact True.intro | dsimp +zetaDelta only)))
  all_goals done

theorem relayStep_kept (s : State) : kept (relayStep s) = kept s := by
  unfold relayStep
  (iterate 60 (all_goals try (first
      | intro _ | fail_if_no_progress beta_reduce | extract_lets -underBinder | with_reducible rfl | with_reducible assumption
      | (have hk := relayPage_kept' (by assumption); refine Eq.trans hk ?_; clear hk)
      | with_reducible refine keptOpt_getD (relayPage_kept ..) ?_ | with_reducible refine keptOpt_map ?_ ?_
      | with_reducible refine Eq.trans (snapFail_kept ..) ?_ | with_reducible refine Eq.trans (checkPages_kept' rfl) ?_
      | (have hk := checkPages_kept' (by assumption); refine Eq.trans hk ?_; clear hk)
      | (have hk := relayPages_kept' (by assumption); refine Eq.trans hk ?_; clear hk)
      | with_reducible refine keptOpt_getD (relayPages_kept ..) ?_ | with_reducible refine keptOpt_map ?_ ?_
      | with_reducible refine Eq.trans (setLeft_kept ..) ?_ | with_reducible refine kept_ite ?_ ?_
      | refine Eq.trans (kept_foldl _ _ _ ?_) ?_ | refine Eq.trans (kept_foldlPair _ _ _ ?_) ?_
      | fail_if_no_progress refine Eq.trans (kept_mk _ _ _ _ _ _ _ _ _ _ _ _ _ _ _ _ _ _ _ _ _ _ _ _ _ _ _ rfl rfl) ?_ | split
      | exact True.intro | dsimp +zetaDelta only)))
  all_goals done

theorem headerEvents_kept (s : State) (ps : List (Nat × Nat)) : kept (headerEvents s ps) = kept s := by
  unfold headerEvents
  with_reducible repeat' first | intro _ | fail_if_no_progress beta_reduce | extract_lets -underBinder |
    fail_if_no_progress refine Eq.trans (kept_fst _ _) ?_ | fail_if_no_progress refine Eq.trans (kept_snd _ _) ?_ |
    fail_if_no_progress refine Eq.trans (kept_dec _ _ _ _) ?_ | rfl | refine Eq.trans (postEvent_kept ..) ?_ | refine kept_ite ?_ ?_ |
    refine Eq.trans (kept_foldl _ _ _ ?_) ?_ | split

theorem snapPoint_kept (before s : State) : kept (snapPoint before s) = kept s := by
  unfold snapPoint
  (iterate 60 (all_goals try (first
      | intro _ | fail_if_no_progress beta_reduce | extract_lets -underBinder | with_reducible rfl | with_reducible assumption
      | with_reducible refine Eq.trans (snapFail_kept ..) ?_ | with_reducible refine Eq.trans (headerEvents_kept ..) ?_
      | with_reducible refine Eq.trans (checkPages_kept' rfl) ?_
      | (have hk := checkPages_kept' (by assumption); refine Eq.trans hk ?_; clear hk)
      | with_reducible refine Eq.trans (setLeft_kept ..) ?_ | with_reducible refine Eq.trans (setSnapState_kept ..) ?_
      | with_reducible refine kept_ite ?_ ?_
      | fail_if_no_progress refine Eq.trans (kept_mk _ _ _ _ _ _ _ _ _ _ _ _ _ _ _ _ _ _ _ _ _ _ _ _ _ _ _ rfl rfl) ?_ | split
      | exact True.intro | dsimp +zetaDelta only)))
  all_goals done

theorem snapCommit_kept (before s : State) : kept (snapCommit before s) = kept s := by
  unfold snapCommit
  (iterate 60 (all_goals try (first
      | intro _ | fail_if_no_progress beta_reduce | extract_lets -underBinder | with_reducible rfl | with_reducible assumption
      | with_reducible refine Eq.trans (snapPoint_kept ..) ?_ | with_reducible refine Eq.trans (fput_kept ..) ?_
      | with_reducible refine Eq.trans (setSnapState_kept ..) ?_ | with_reducible refine kept_ite ?_ ?_
      | fail_if_no_progress refine Eq.trans (kept_mk _ _ _ _ _ _ _ _ _ _ _ _ _ _ _ _ _ _ _ _ _ _ _ _ _ _ _ rfl rfl) ?_ | split
      | exact True.intro | dsimp +zetaDelta only)))
  all_goals done

theorem relayCommit_kept (s : State) : kept (relayCommit s) = kept s := by
  unfold relayCommit
  with_reducible repeat' first | intro _ | extract_lets -underBinder | rfl | refine Eq.trans (fput_kept ..) ?_ | refine kept_ite ?_ ?_ |
    refine Eq.trans (kept_foldl _ _ _ ?_) ?_ | split |
    fail_if_no_progress refine Eq.trans (kept_mk _ _ _ _ _ _ _ _ _ _ _ _ _ _ _ _ _ _ _ _ _ _ _ _ _ _ _ rfl rfl) ?_

theorem writeImage_kept (s : State) (pages : List Bytes) : kept (writeImage s pages) = kept s := by
  unfold writeImage
  (iterate 60 (all_goals try (first
      | intro _ | fail_if_no_progress beta_reduce | extract_lets -underBinder | with_reducible rfl | with_reducible assumption
      | with_reducible refine Eq.trans (emit_kept ..) ?_ | with_reducible refine kept_ite ?_ ?_ | refine Eq.trans (kept_foldl _ _ _ ?_) ?_
      | refine Eq.trans (kept_foldlPair _ _ _ ?_) ?_
      | fail_if_no_progress refine Eq.trans (kept_mk _ _ _ _ _ _ _ _ _ _ _ _ _ _ _ _ _ _ _ _ _ _ _ _ _ _ _ rfl rfl) ?_ | split
      | exact True.intro | dsimp +zetaDelta only)))
  all_goals done

theorem drainDone_kept (s : State) (slot : Nat) (ok : Bool) : kept (drainDone s slot ok) = kept s := by
  unfold drainDone
  (iterate 60 (all_goals try (first
      | intro _ | fail_if_no_progress beta_reduce | extract_lets -underBinder | with_reducible rfl | with_reducible assumption
      | with_reducible refine Eq.trans (errPart_kept ..) ?_ | with_reducible refine Eq.trans (fput_kept ..) ?_
      | with_reducible refine Eq.trans (checkPages_kept' rfl) ?_
      | (have hk := checkPages_kept' (by assumption); refine Eq.trans hk ?_; clear hk)
      | with_reducible refine Eq.trans (writeImage_kept ..) ?_ | with_reducible refine kept_ite ?_ ?_
      | fail_if_no_progress refine Eq.trans (kept_mk _ _ _ _ _ _ _ _ _ _ _ _ _ _ _ _ _ _ _ _ _ _ _ _ _ _ _ rfl rfl) ?_ | split
      | exact True.intro | dsimp +zetaDelta only)))
  all_goals done

theorem firmwareWrite_kept (s : State) (r page off : Nat) (b : Bytes) : kept (firmwareWrite s r page off b).1 = kept s := by
  unfold firmwareWrite
  (iterate 60 (all_goals try (first
      | intro _ | fail_if_no_progress beta_reduce | extract_lets -underBinder | with_reducible rfl | with_reducible assumption
      | (have hk := writeHbm_kept' (by assumption); refine Eq.trans hk ?_; clear hk)
      | with_reducible refine Eq.trans (writeNow_kept ..) ?_ | with_reducible refine kept_ite ?_ ?_
      | with_reducible refine kept_fst_ite ?_ ?_ | with_reducible refine kept_snd_ite ?_ ?_ | refine Eq.trans (kept_foldl _ _ _ ?_) ?_
      | refine Eq.trans (kept_foldlPair _ _ _ ?_) ?_ | split | exact True.intro | dsimp +zetaDelta only)))
  all_goals done

theorem firmwareWrite_kept' {s : State} {r page off : Nat} {b : Bytes} {resu}
    (h : firmwareWrite s r page off b = resu) : kept resu.1 = kept s :=
  h ▸ firmwareWrite_kept s r page off b

theorem takeStream_kept (s : State) (copy n w : Nat) : kept (takeStream s copy n w).1 = kept s := by
  unfold takeStream
  with_reducible repeat' first | rfl | refine Eq.trans (trkInput_kept ..) ?_ | refine Eq.trans (updRegion_kept ..) ?_ |
    refine Eq.trans (putStream_kept ..) ?_ | refine kept_fst_ite ?_ ?_ | split

theorem takeStream_kept' {s : State} {copy n w : Nat} {resu} (h : takeStream s copy n w = resu) : kept resu.1 = kept s := h ▸ takeStream_kept s copy n w

theorem restoreAsk_kept (s : State) (k : Nat) : kept (restoreAsk s k) = kept s := by
  unfold restoreAsk
  (iterate 60 (all_goals try (first
      | intro _ | fail_if_no_progress beta_reduce | extract_lets -underBinder | with_reducible rfl | with_reducible assumption
      | with_reducible refine Eq.trans (snapFail_kept ..) ?_
      | (have hk := sendSegment_kept' (by assumption); refine Eq.trans hk ?_; clear hk)
      | with_reducible refine keptOpt_getD (sendSegment_kept ..) ?_ | with_reducible refine kept_ite ?_ ?_
      | fail_if_no_progress refine Eq.trans (kept_mk _ _ _ _ _ _ _ _ _ _ _ _ _ _ _ _ _ _ _ _ _ _ _ _ _ _ _ rfl rfl) ?_ | split
      | exact True.intro | dsimp +zetaDelta only)))
  all_goals done

theorem snapRestore_kept (s : State) (value : Nat) : kept (snapRestore s value) = kept s := by
  unfold snapRestore
  with_reducible repeat' first | rfl | refine Eq.trans (snapRefuse_kept ..) ?_ | refine Eq.trans (restoreAsk_kept ..) ?_ |
    refine Eq.trans (setSnapState_kept ..) ?_ | refine kept_ite ?_ ?_ | split |
    fail_if_no_progress refine Eq.trans (kept_mk _ _ _ _ _ _ _ _ _ _ _ _ _ _ _ _ _ _ _ _ _ _ _ _ _ _ _ rfl rfl) ?_

theorem restoreEnd_kept (s : State) : kept (restoreEnd s) = kept s := by
  unfold restoreEnd
  (iterate 60 (all_goals try (first
      | intro _ | fail_if_no_progress beta_reduce | extract_lets -underBinder | with_reducible rfl | with_reducible assumption
      | with_reducible refine Eq.trans (checkPages_kept' rfl) ?_
      | (have hk := checkPages_kept' (by assumption); refine Eq.trans hk ?_; clear hk) | with_reducible refine Eq.trans (fput_kept ..) ?_
      | with_reducible refine Eq.trans (setSnapState_kept ..) ?_ | with_reducible refine Eq.trans (snapFail_kept ..) ?_
      | with_reducible refine kept_ite ?_ ?_
      | fail_if_no_progress refine Eq.trans (kept_mk _ _ _ _ _ _ _ _ _ _ _ _ _ _ _ _ _ _ _ _ _ _ _ _ _ _ _ rfl rfl) ?_ | split
      | exact True.intro | dsimp +zetaDelta only)))
  all_goals done

theorem restoreHeader_kept (s : State) (b : Bytes) : kept (restoreHeader s b) = kept s := by
  unfold restoreHeader
  with_reducible repeat' first | rfl | refine Eq.trans (snapFail_kept ..) ?_ | refine Eq.trans (setLeft_kept ..) ?_ |
    refine Eq.trans (restoreAsk_kept ..) ?_ | refine kept_ite ?_ ?_ | split |
    fail_if_no_progress refine Eq.trans (kept_mk _ _ _ _ _ _ _ _ _ _ _ _ _ _ _ _ _ _ _ _ _ _ _ _ _ _ _ rfl rfl) ?_

theorem restoreTake_kept (s : State) (k : Nat) (b : Bytes) : kept (restoreTake s k b).1 = kept s := by
  unfold restoreTake
  refine kept_fst_ite ?_ ?_
  · split
    · exact kept_fst_ite (headerEvents_kept ..) (kept_fst_ite (firmwareWrite_kept ..) (kept_fst _ _))
    · exact kept_fst _ _
  · exact (kept_fst _ _).trans (kept_foldl _ _ _ fun t e => takeStream_kept ..)

theorem restoreTake_kept' {s : State} {k : Nat} {b : Bytes} {resu}
    (h : restoreTake s k b = resu) : kept resu.1 = kept s :=
  h ▸ restoreTake_kept s k b

theorem restoreOn_kept (s : State) (k last total : Nat) : kept (restoreOn s k last total) = kept s := by
  unfold restoreOn
  with_reducible repeat' first | rfl | refine Eq.trans (setLeft_kept ..) ?_ | refine Eq.trans (restoreAsk_kept ..) ?_ |
    refine Eq.trans (restoreEnd_kept ..) ?_ | refine kept_ite ?_ ?_ | split |
    fail_if_no_progress refine Eq.trans (kept_mk _ _ _ _ _ _ _ _ _ _ _ _ _ _ _ _ _ _ _ _ _ _ _ _ _ _ _ rfl rfl) ?_

theorem restorePage_kept (s : State) (b : Bytes) : kept (restorePage s b) = kept s := by
  unfold restorePage
  with_reducible repeat' first | intro _ | extract_lets -underBinder | rfl | refine Eq.trans (restoreHeader_kept ..) ?_ |
    refine Eq.trans (restoreTake_kept' (by exact rfl)) ?_ |
    (have hk := restoreTake_kept' (by assumption); refine Eq.trans hk ?_; clear hk) | refine Eq.trans (snapFail_kept ..) ?_ |
    refine Eq.trans (restoreOn_kept ..) ?_ | refine kept_ite ?_ ?_ | split

theorem restoreCommit_kept (s : State) : kept (restoreCommit s) = kept s := by
  unfold restoreCommit
  with_reducible repeat' first | rfl | refine Eq.trans (restoreEnd_kept ..) ?_ | refine kept_ite ?_ ?_ | split

theorem pushPage_kept (s : State) (seq : Nat) (b : Bytes) (e k off : Nat) (t log2 : Nat) : kept (pushPage s seq b e k off t log2).1 = kept s := by
  unfold pushPage
  (iterate 60 (all_goals try (first
      | intro _ | fail_if_no_progress beta_reduce | extract_lets -underBinder | with_reducible rfl | with_reducible assumption
      | with_reducible refine Eq.trans (firmwareWrite_kept' rfl) ?_
      | (have hk := firmwareWrite_kept' (by assumption); refine Eq.trans hk ?_; clear hk)
      | (have hk := sendSegment_kept' (by assumption); refine Eq.trans hk ?_; clear hk)
      | with_reducible refine keptOpt_getD (sendSegment_kept ..) ?_ | with_reducible refine Eq.trans (kept_updLap _ _ rfl rfl) ?_
      | with_reducible refine kept_ite ?_ ?_ | with_reducible refine kept_fst_ite ?_ ?_ | with_reducible refine kept_snd_ite ?_ ?_
      | fail_if_no_progress refine Eq.trans (kept_mk _ _ _ _ _ _ _ _ _ _ _ _ _ _ _ _ _ _ _ _ _ _ _ _ _ _ _ rfl rfl) ?_ | split
      | exact True.intro | dsimp +zetaDelta only)))
  all_goals done

theorem pushPage_kept' {s : State} {seq : Nat} {b : Bytes} {e k off : Nat} {t log2 : Nat} {resu}
    (h : pushPage s seq b e k off t log2 = resu) : kept resu.1 = kept s :=
  h ▸ pushPage_kept s seq b e k off t log2

theorem snapPush_kept (s : State) (value : Nat) : kept (snapPush s value) = kept s := by
  unfold snapPush
  refine kept_ite rfl ?_
  extract_lets slot
  split
  · refine kept_ite (snapFail_kept ..) ?_
    extract_lets page es items q s1 bad r
    have h1 : kept s1 = kept s := checkPages_kept ..
    clear_value q s1
    have hr : kept r.1 = kept s1 := kept_foldlPair _ _ _ fun _ _ => kept_fst_ite rfl (pushPage_kept ..)
    clear_value r
    exact kept_ite (((snapFail_kept ..).trans (headerEvents_kept ..)).trans h1) (kept_ite (hr.trans h1) (((snapFail_kept ..).trans hr).trans h1))
  · exact snapFail_kept ..

theorem streamsLoad_kept (s : State) (value : Nat) : kept (streamsLoad s value) = kept s := by
  unfold streamsLoad
  (iterate 60 (all_goals try (first
      | intro _ | fail_if_no_progress beta_reduce | extract_lets -underBinder | with_reducible rfl | with_reducible assumption
      | with_reducible refine Eq.trans (fput_kept ..) ?_ | with_reducible refine Eq.trans (takeStream_kept' rfl) ?_
      | (have hk := takeStream_kept' (by assumption); refine Eq.trans hk ?_; clear hk)
      | with_reducible refine Eq.trans (hostFetch_kept ..) ?_ | with_reducible refine kept_ite ?_ ?_
      | refine Eq.trans (kept_foldl _ _ _ ?_) ?_ | refine Eq.trans (kept_foldlPair _ _ _ ?_) ?_ | split | exact True.intro
      | dsimp +zetaDelta only)))
  all_goals done

theorem benchHost_kept (s : State) (lap : Nat) : kept (benchHost s lap) = kept s := by
  unfold benchHost
  (iterate 60 (all_goals try (first
      | intro _ | fail_if_no_progress beta_reduce | extract_lets -underBinder | with_reducible rfl | with_reducible assumption
      | with_reducible refine Eq.trans (updHost_kept ..) ?_ | with_reducible refine kept_ite ?_ ?_
      | refine Eq.trans (kept_foldl _ _ _ ?_) ?_ | split | exact True.intro | dsimp +zetaDelta only)))
  all_goals done

theorem loadBase_kept (x0 : Nat) (x1 : Bytes) (x2 : State) : kept (loadBase x0 x1 x2) = kept x2 := by
  fun_induction loadBase x0 x1 x2 <;> (iterate 60 (all_goals try (first
      | intro _ | fail_if_no_progress beta_reduce | extract_lets -underBinder | with_reducible rfl | with_reducible assumption
      | with_reducible refine Eq.trans (updRegion_kept ..) ?_ | with_reducible refine Eq.trans (updBlock_kept ..) ?_
      | refine Eq.trans (by assumption) ?_ | with_reducible refine kept_ite ?_ ?_
      | fail_if_no_progress refine Eq.trans (kept_mk _ _ _ _ _ _ _ _ _ _ _ _ _ _ _ _ _ _ _ _ _ _ _ _ _ _ _ rfl rfl) ?_ | split
      | exact True.intro | dsimp +zetaDelta only)))
  all_goals done

theorem trkImport_kept (s : State) : kept (trkImport s) = kept s := by
  unfold trkImport
  (iterate 60 (all_goals try (first
      | intro _ | fail_if_no_progress beta_reduce | extract_lets -underBinder | with_reducible rfl | with_reducible assumption
      | with_reducible refine Eq.trans (fput_kept ..) ?_ | with_reducible refine Eq.trans (loadBase_kept ..) ?_
      | with_reducible refine Eq.trans (benchHost_kept ..) ?_ | with_reducible refine kept_ite ?_ ?_
      | fail_if_no_progress refine Eq.trans (kept_mk _ _ _ _ _ _ _ _ _ _ _ _ _ _ _ _ _ _ _ _ _ _ _ _ _ _ _ rfl rfl) ?_ | split
      | exact True.intro | dsimp +zetaDelta only)))
  all_goals done

theorem bar2TakeAt_kept (s : State) (data : Bytes) (x2 : Option (Nat × Nat × Nat)) : keptOpt (bar2TakeAt s data x2) (kept s) := by
  unfold bar2TakeAt
  (iterate 60 (all_goals try (first
      | intro _ | fail_if_no_progress beta_reduce | extract_lets -underBinder | with_reducible rfl | with_reducible assumption
      | with_reducible refine Eq.trans (fbump_kept ..) ?_ | with_reducible refine Eq.trans (writeNow_kept ..) ?_
      | (have hk := writeHbm_kept' (by assumption); refine Eq.trans hk ?_; clear hk) | with_reducible refine Eq.trans (updHost_kept ..) ?_
      | with_reducible refine kept_ite ?_ ?_ | with_reducible refine keptOpt_ite ?_ ?_ | with_reducible refine keptOpt_some ?_ | split
      | exact True.intro | dsimp +zetaDelta only)))
  all_goals done

theorem bar2TakeAt_kept' {s : State} {data : Bytes} {x2 : Option (Nat × Nat × Nat)} {resu}
    (h : bar2TakeAt s data x2 = resu) : keptOpt resu (kept s) :=
  h ▸ bar2TakeAt_kept s data x2

theorem bar2Take_kept (s : State) (a : Nat) (data : Bytes) : keptOpt (bar2Take s a data) (kept s) := by
  unfold bar2Take
  (iterate 60 (all_goals try (first
      | intro _ | fail_if_no_progress beta_reduce | extract_lets -underBinder | with_reducible rfl | with_reducible assumption
      | (have hk := bar2TakeAt_kept' (by assumption); refine Eq.trans hk ?_; clear hk)
      | with_reducible refine keptOpt_mono (bar2TakeAt_kept ..) ?_ | with_reducible refine keptOpt_getD (bar2TakeAt_kept ..) ?_
      | with_reducible refine kept_ite ?_ ?_ | with_reducible refine keptOpt_ite ?_ ?_ | with_reducible refine keptOpt_some ?_ | split
      | exact True.intro | dsimp +zetaDelta only)))
  all_goals done

theorem bar2Take_kept' {s : State} {a : Nat} {data : Bytes} {resu}
    (h : bar2Take s a data = resu) : keptOpt resu (kept s) :=
  h ▸ bar2Take_kept s a data

theorem dropPoisoned_kept (s : State) : kept (dropPoisoned s) = kept s := by
  unfold dropPoisoned
  (iterate 60 (all_goals try (first
      | intro _ | fail_if_no_progress beta_reduce | extract_lets -underBinder | with_reducible rfl | with_reducible assumption
      | with_reducible refine Eq.trans (emit_kept ..) ?_ | with_reducible refine Eq.trans (fbump_kept ..) ?_
      | with_reducible refine kept_ite ?_ ?_ | split | exact True.intro | dsimp +zetaDelta only)))
  all_goals done

theorem bar2Post_kept (s : State) (a : Nat) (data : Bytes) : kept (bar2Post s a data) = kept s := by
  unfold bar2Post
  extract_lets t wait
  have ht : kept t = kept s := trkInput_kept ..
  clear_value t
  exact kept_ite ((updHost_kept ..).trans ht) (keptOpt_getD (keptOpt_mono (bar2Take_kept ..) ht) ((updHost_kept ..).trans ht))

theorem bar2Write_kept (s : State) (offset : Nat) (data : Bytes) (poisoned : Bool) :
    kept (bar2Write s offset data poisoned) = kept s := by
  unfold bar2Write
  refine kept_ite (dropPoisoned_kept ..) (kept_ite rfl ?_)
  refine kept_ite (trkInput_kept ..) ?_
  exact keptOpt_getD (keptOpt_mono (bar2Take_kept ..) (trkInput_kept ..)) (trkInput_kept ..)

theorem bar2Release_kept (s : State) : kept (bar2Release s) = kept s := by
  unfold bar2Release
  split
  · rfl
  · exact kept_ite rfl (keptOpt_elim (bar2Take_kept ..) rfl fun _ => rfl)

theorem bar2Ones_kept (s : State) (n : Nat) : kept (bar2Ones s n) = kept s := by
  unfold bar2Ones
  (iterate 60 (all_goals try (first
      | intro _ | fail_if_no_progress beta_reduce | extract_lets -underBinder | with_reducible rfl | with_reducible assumption
      | with_reducible refine Eq.trans (emit_kept ..) ?_ | with_reducible refine Eq.trans (fbump_kept ..) ?_
      | with_reducible refine kept_ite ?_ ?_ | split | exact True.intro | dsimp +zetaDelta only)))
  all_goals done

theorem bar2AnswerAt_kept (s : State) (n : Nat) (x2 : Option (Nat × Nat × Nat)) : kept (bar2AnswerAt s n x2) = kept s := by
  unfold bar2AnswerAt
  (iterate 60 (all_goals try (first
      | intro _ | fail_if_no_progress beta_reduce | extract_lets -underBinder | with_reducible rfl | with_reducible assumption
      | with_reducible refine Eq.trans (readHbmEcc_kept' rfl) ?_
      | (have hk := readHbmEcc_kept' (by assumption); refine Eq.trans hk ?_; clear hk)
      | with_reducible refine Eq.trans (bar2Ones_kept ..) ?_ | with_reducible refine Eq.trans (emit_kept ..) ?_
      | with_reducible refine kept_ite ?_ ?_ | split | exact True.intro | dsimp +zetaDelta only)))
  all_goals done

theorem bar2Answer_kept (s : State) (a n : Nat) : kept (bar2Answer s a n) = kept s := by
  unfold bar2Answer
  (iterate 60 (all_goals try (first
      | intro _ | fail_if_no_progress beta_reduce | extract_lets -underBinder | with_reducible rfl | with_reducible assumption
      | with_reducible refine Eq.trans (bar2AnswerAt_kept ..) ?_ | with_reducible refine kept_ite ?_ ?_ | split | exact True.intro
      | dsimp +zetaDelta only)))
  all_goals done

theorem bar2Read_kept (s : State) (offset n : Nat) : kept (bar2Read s offset n) = kept s := by
  unfold bar2Read
  (iterate 60 (all_goals try (first
      | intro _ | fail_if_no_progress beta_reduce | extract_lets -underBinder | with_reducible rfl | with_reducible assumption
      | with_reducible refine Eq.trans (updHost_kept ..) ?_ | with_reducible refine Eq.trans (bar2Answer_kept ..) ?_
      | with_reducible refine kept_ite ?_ ?_ | split | exact True.intro | dsimp +zetaDelta only)))
  all_goals done

theorem serveReads_kept (s : State) : kept (serveReads s) = kept s := by
  unfold serveReads
  with_reducible repeat' first | intro _ | extract_lets -underBinder | rfl | refine Eq.trans (bar2Answer_kept ..) ?_ |
    refine Eq.trans (updHost_kept ..) ?_ | refine Eq.trans (kept_foldl _ _ _ ?_) ?_ | split

theorem stopUnit_kept (s : State) (u : Nat) : kept (stopUnit s u) = kept s := by
  unfold stopUnit
  (iterate 60 (all_goals try (first
      | intro _ | fail_if_no_progress beta_reduce | extract_lets -underBinder | with_reducible rfl | with_reducible assumption
      | with_reducible refine Eq.trans (vecHeld_kept ..) ?_ | with_reducible refine Eq.trans (tumDrop_kept ..) ?_
      | with_reducible refine Eq.trans (updCore_kept ..) ?_ | with_reducible refine kept_ite ?_ ?_ | split | exact True.intro
      | dsimp +zetaDelta only)))
  all_goals done

theorem abortMark_kept (s : State) (e : DmaEng) (ch w moved : Nat) : kept (abortMark s e ch w moved) = kept s := by
  unfold abortMark
  (iterate 60 (all_goals try (first
      | intro _ | fail_if_no_progress beta_reduce | extract_lets -underBinder | with_reducible rfl | with_reducible assumption
      | with_reducible refine Eq.trans (freeRegionChan_kept ..) ?_ | with_reducible refine Eq.trans (writeEntry_kept ..) ?_
      | with_reducible refine Eq.trans (updChan_kept ..) ?_ | with_reducible refine Eq.trans (setChState_kept ..) ?_
      | with_reducible refine Eq.trans (noteHostFail_kept ..) ?_ | with_reducible refine Eq.trans (kept_updLap _ _ rfl rfl) ?_
      | with_reducible refine kept_ite ?_ ?_
      | fail_if_no_progress refine Eq.trans (kept_mk _ _ _ _ _ _ _ _ _ _ _ _ _ _ _ _ _ _ _ _ _ _ _ _ _ _ _ rfl rfl) ?_ | split
      | exact True.intro | dsimp +zetaDelta only)))
  all_goals done

theorem dmaMark_kept (e : DmaEng) (s : State) (ch : Nat) : kept (dmaMark e s ch) = kept s := by
  unfold dmaMark
  (iterate 60 (all_goals try (first
      | intro _ | fail_if_no_progress beta_reduce | extract_lets -underBinder | with_reducible rfl | with_reducible assumption
      | with_reducible refine Eq.trans (abortMark_kept ..) ?_ | with_reducible refine Eq.trans (setChState_kept ..) ?_
      | with_reducible refine kept_ite ?_ ?_ | split | exact True.intro | dsimp +zetaDelta only)))
  all_goals done

theorem dmaMarkAll_kept (s : State) : kept (dmaMarkAll s) = kept s := by
  unfold dmaMarkAll
  with_reducible repeat' first | intro _ | extract_lets -underBinder | rfl | refine Eq.trans (dmaMark_kept ..) ?_ |
    refine Eq.trans (kept_foldl _ _ _ ?_) ?_ | split

theorem countRest_kept (s : State) : kept (countRest s) = kept s := by
  unfold countRest
  (iterate 60 (all_goals try (first
      | intro _ | fail_if_no_progress beta_reduce | extract_lets -underBinder | with_reducible rfl | with_reducible assumption
      | with_reducible refine Eq.trans (drawFree_kept' rfl) ?_
      | (have hk := drawFree_kept' (by assumption); refine Eq.trans hk ?_; clear hk) | with_reducible refine Eq.trans (spend_kept ..) ?_
      | with_reducible refine Eq.trans (updTask_kept ..) ?_ | with_reducible refine Eq.trans (kept_updLap _ _ rfl rfl) ?_
      | with_reducible refine kept_ite ?_ ?_ | refine Eq.trans (kept_foldl _ _ _ ?_) ?_ | refine Eq.trans (kept_foldlPair _ _ _ ?_) ?_
      | split | exact True.intro | dsimp +zetaDelta only)))
  all_goals done

theorem clearLapLocal_kept (s : State) : kept (clearLapLocal s) = kept s := rfl

theorem countFix_kept (s : State) (f : Fld) (unit : Nat) : kept (countFix s f unit) = kept s := by
  unfold countFix
  with_reducible repeat' first | rfl | refine Eq.trans (fbump_kept ..) ?_ | refine kept_ite ?_ ?_ | split

theorem voteLost_kept (s : State) (f : Fld) (unit sel : Nat) : kept (voteLost s f unit sel) = kept s := by
  unfold voteLost
  with_reducible repeat' first | rfl | refine Eq.trans (errBlock_kept ..) ?_ | refine Eq.trans (errRegion_kept ..) ?_ |
    refine Eq.trans (errPart_kept ..) ?_ | split

theorem voteField_kept (s : State) (k : Nat) (t : Tri) : kept (voteField s k t) = kept s := by
  unfold voteField
  with_reducible repeat' first | rfl | refine Eq.trans (voteLost_kept ..) ?_ | refine Eq.trans (countFix_kept ..) ?_ |
    refine Eq.trans (fput_kept ..) ?_ | refine kept_ite ?_ ?_ | split

theorem voteAll_kept (s : State) : kept (voteAll s) = kept s := by
  unfold voteAll
  with_reducible repeat' first | intro _ | extract_lets -underBinder | rfl | refine Eq.trans (voteField_kept ..) ?_ |
    refine Eq.trans (kept_foldl _ _ _ ?_) ?_ | split

theorem countVote_kept (s : State) (f : Fld) (u sel : Nat) (t : Tri) : kept (countVote s f u sel t) = kept s := by
  unfold countVote
  (iterate 60 (all_goals try (first
      | intro _ | fail_if_no_progress beta_reduce | extract_lets -underBinder | with_reducible rfl | with_reducible assumption
      | with_reducible refine Eq.trans (voteLost_kept ..) ?_ | with_reducible refine Eq.trans (countFix_kept ..) ?_
      | with_reducible refine kept_ite ?_ ?_ | split | exact True.intro | dsimp +zetaDelta only)))
  all_goals done

theorem applyShadows_kept (s : State) : kept (applyShadows s) = kept s := by
  unfold applyShadows
  (iterate 60 (all_goals try (first
      | intro _ | fail_if_no_progress beta_reduce | extract_lets -underBinder | with_reducible rfl | with_reducible assumption
      | with_reducible refine Eq.trans (fput_kept ..) ?_ | with_reducible refine Eq.trans (countVote_kept ..) ?_
      | with_reducible refine kept_ite ?_ ?_ | refine Eq.trans (kept_foldl _ _ _ ?_) ?_ | refine Eq.trans (kept_foldlPair _ _ _ ?_) ?_
      | fail_if_no_progress refine Eq.trans (kept_mk _ _ _ _ _ _ _ _ _ _ _ _ _ _ _ _ _ _ _ _ _ _ _ _ _ _ _ rfl rfl) ?_ | split
      | exact True.intro | dsimp +zetaDelta only)))
  all_goals done

theorem sendMarkers_kept (s : State) : kept (sendMarkers s) = kept s := by
  unfold sendMarkers
  (iterate 60 (all_goals try (first
      | intro _ | fail_if_no_progress beta_reduce | extract_lets -underBinder | with_reducible rfl | with_reducible assumption
      | with_reducible refine Eq.trans (drawFree_kept' rfl) ?_
      | (have hk := drawFree_kept' (by assumption); refine Eq.trans hk ?_; clear hk)
      | with_reducible refine Eq.trans (portSend_kept ..) ?_ | with_reducible refine kept_ite ?_ ?_
      | refine Eq.trans (kept_foldl _ _ _ ?_) ?_ | refine Eq.trans (kept_foldlPair _ _ _ ?_) ?_ | split | exact True.intro
      | dsimp +zetaDelta only)))
  all_goals done

theorem raiseTimebase_kept (s : State) : kept (raiseTimebase s) = kept s := by
  unfold raiseTimebase
  with_reducible repeat' first | rfl | refine Eq.trans (errPart_kept ..) ?_ | split

theorem depthExceeded_kept (s : State) : kept (depthExceeded s) = kept s := by
  unfold depthExceeded
  with_reducible repeat' first | intro _ | extract_lets -underBinder | rfl | refine Eq.trans (raiseTimebase_kept ..) ?_ |
    refine Eq.trans (fput_kept ..) ?_ | refine kept_ite ?_ ?_ | split

theorem chooseUpstream_kept (s : State) : kept (chooseUpstream s) = kept s := by
  unfold chooseUpstream
  (iterate 60 (all_goals try (first
      | intro _ | fail_if_no_progress beta_reduce | extract_lets -underBinder | with_reducible rfl | with_reducible assumption
      | with_reducible refine Eq.trans (depthExceeded_kept ..) ?_ | with_reducible refine kept_ite ?_ ?_
      | refine Eq.trans (kept_foldl _ _ _ ?_) ?_
      | fail_if_no_progress refine Eq.trans (kept_mk _ _ _ _ _ _ _ _ _ _ _ _ _ _ _ _ _ _ _ _ _ _ _ _ _ _ _ rfl rfl) ?_ | split
      | exact True.intro | dsimp +zetaDelta only)))
  all_goals done

theorem countHoldover_kept (s : State) : kept (countHoldover s) = kept s := by
  unfold countHoldover
  with_reducible repeat' first | rfl | refine Eq.trans (raiseTimebase_kept ..) ?_ | refine kept_ite ?_ ?_ |
    refine Eq.trans (kept_updLap _ _ rfl rfl) ?_ | split

theorem formPool_kept (s : State) (r : Nat) : kept (formPool s r) = kept s := by
  unfold formPool
  with_reducible repeat' first | intro _ | extract_lets -underBinder | rfl | refine Eq.trans (foldPage_kept ..) ?_ |
    refine Eq.trans (updRegion_kept ..) ?_ | refine Eq.trans (kept_foldl _ _ _ ?_) ?_ | split

theorem openMark_kept (s : State) : kept (openMark s) = kept s := by
  unfold openMark
  with_reducible repeat' first | rfl | refine Eq.trans (doorbellRead_kept ..) ?_ | refine Eq.trans (sendMarkers_kept ..) ?_ | split

theorem readmit_kept (s : State) : kept (readmit s) = kept s := by
  unfold readmit
  (iterate 60 (all_goals try (first
      | intro _ | fail_if_no_progress beta_reduce | extract_lets -underBinder | with_reducible rfl | with_reducible assumption
      | with_reducible refine Eq.trans (formPool_kept ..) ?_ | with_reducible refine Eq.trans (updRegion_kept ..) ?_
      | with_reducible refine kept_ite ?_ ?_ | refine Eq.trans (kept_foldl _ _ _ ?_) ?_ | split | exact True.intro | dsimp +zetaDelta only)))
  all_goals done

theorem stopAll_kept (s : State) :
    kept (stopAll s) = kept s := by
  unfold stopAll
  (iterate 60 (all_goals try (first
      | intro _ | fail_if_no_progress beta_reduce | extract_lets -underBinder | with_reducible rfl | exact True.intro | assumption
      | with_reducible refine Eq.trans (stopUnit_kept ..) ?_ | with_reducible refine kept_ite ?_ ?_
      | with_reducible refine Eq.trans (kept_foldl _ _ _ ?_) ?_ | split | dsimp +zetaDelta only)))
  all_goals done

theorem timeRest_kept (s : State) : kept (timeRest s) = kept s := by
  unfold timeRest
  (iterate 60 (all_goals try (first
      | intro _ | fail_if_no_progress beta_reduce | extract_lets -underBinder | with_reducible rfl | with_reducible assumption
      | with_reducible refine Eq.trans (drawFree_kept' rfl) ?_
      | (have hk := drawFree_kept' (by assumption); refine Eq.trans hk ?_; clear hk) | with_reducible refine Eq.trans (updTask_kept ..) ?_
      | with_reducible refine kept_ite ?_ ?_ | refine Eq.trans (kept_foldl _ _ _ ?_) ?_ | refine Eq.trans (kept_foldlPair _ _ _ ?_) ?_
      | split | exact True.intro | dsimp +zetaDelta only)))
  all_goals done

theorem startLap_kept (s : State) : kept (startLap s) = kept s := by
  unfold startLap
  extract_lets s1 s2 pc s3 keep rs s4 s5 n lk s6 s7 s8
  have h2 : kept s2 = kept s :=
    ((readmit_kept ..).trans (elect_kept ..)).trans ((coverStarts_kept ..).trans ((applyShadows_kept ..).trans (voteAll_kept ..)))
  clear_value s2
  have h4 : kept s4 = kept s2 := rfl
  have h5 : kept s5 = kept s4 := (chooseUpstream_kept ..).trans (countHoldover_kept ..)
  clear_value s5 s4
  have h6 : kept s6 = kept s5 := rfl
  have h7 : kept s7 = kept s6 := (fput_kept ..).trans (fput_kept ..)
  clear_value s7 s6
  exact (openMark_kept ..).trans ((kept_updLap _ _ rfl rfl).trans ((kept_updLap _ _ rfl rfl).trans (h7.trans (h6.trans (h5.trans (h4.trans h2))))))

theorem lapCleanSend_kept (s : State) (dst : Nat) : kept (lapCleanSend s dst) = kept s := by
  unfold lapCleanSend
  with_reducible repeat' first | rfl | refine Eq.trans (sendControl_kept ..) ?_ | refine kept_ite ?_ ?_ |
    refine Eq.trans (kept_updLap _ _ rfl rfl) ?_ | split

theorem trkControl_kept (s : State) (type : Nat) (w : BitVec 256) : kept (trkControl s type w) = kept s := by
  unfold trkControl
  (iterate 60 (all_goals try (first
      | intro _ | fail_if_no_progress beta_reduce | extract_lets -underBinder | with_reducible rfl | with_reducible assumption
      | with_reducible refine Eq.trans (trkInput_kept ..) ?_ | with_reducible refine kept_ite ?_ ?_ | split | exact True.intro
      | dsimp +zetaDelta only)))
  all_goals done

theorem lateUnclean_kept (s : State) (v : Vote) : kept (lateUnclean s v) = kept s := rfl

theorem lapClean_kept (s : State) (w : BitVec 256) : kept (lapClean s w) = kept s := by
  unfold lapClean
  (iterate 60 (all_goals try (first
      | intro _ | fail_if_no_progress beta_reduce | extract_lets -underBinder | with_reducible rfl | with_reducible assumption
      | with_reducible refine Eq.trans (trkControl_kept ..) ?_ | with_reducible refine Eq.trans (lateUnclean_kept ..) ?_
      | with_reducible refine Eq.trans (fbump_kept ..) ?_ | with_reducible refine Eq.trans (kept_updLap _ _ rfl rfl) ?_
      | with_reducible refine kept_ite ?_ ?_ | split | exact True.intro | dsimp +zetaDelta only)))
  all_goals done

theorem holdoverLimit_kept (s : State) : kept (holdoverLimit s) = kept s := by
  unfold holdoverLimit
  with_reducible repeat' first | rfl | refine kept_ite ?_ ?_ | refine Eq.trans (kept_updLap _ _ rfl rfl) ?_ | split

theorem waitEvents_kept (s : State) (un : List (Nat × Nat)) (lap : Nat) (g : Graph) : kept (waitEvents s un lap g) = kept s := by
  unfold waitEvents
  (iterate 60 (all_goals try (first
      | intro _ | fail_if_no_progress beta_reduce | extract_lets -underBinder | with_reducible rfl | with_reducible assumption
      | with_reducible refine Eq.trans (postEvent_kept ..) ?_ | with_reducible refine kept_ite ?_ ?_
      | refine Eq.trans (kept_foldl _ _ _ ?_) ?_ | split | exact True.intro | dsimp +zetaDelta only)))
  all_goals done

theorem noteShort_kept (s : State) (l : List (Nat × Nat)) (planPoint : Bool) : kept (noteShort s l planPoint) = kept s := by
  unfold noteShort
  extract_lets on fresh p1 s1 p2 s2 s3
  have h1 : kept s1 = kept s := kept_ite rfl rfl
  have h2 : kept s2 = kept s := kept_ite h1 h1
  refine kept_ite h2 ?_
  have h3 : kept s3 = kept s := ((fbump_kept ..).trans (fput_kept ..)).trans h2
  exact kept_ite h3 ((errPart_kept ..).trans h3)

theorem noteThermal_kept (s : State) (caps : List ℚ) : kept (noteThermal s caps) = kept s := by
  unfold noteThermal
  with_reducible repeat' first | intro _ | fail_if_no_progress beta_reduce | extract_lets -underBinder |
    fail_if_no_progress refine Eq.trans (kept_fst _ _) ?_ | fail_if_no_progress refine Eq.trans (kept_snd _ _) ?_ |
    fail_if_no_progress refine Eq.trans (kept_dec _ _ _ _) ?_ | rfl | refine Eq.trans (errPart_kept ..) ?_ | refine kept_ite ?_ ?_ |
    refine Eq.trans (kept_foldl _ _ _ ?_) ?_ | split

theorem keepPlan_kept (s : State) (f : Nat) (leaks caps : List Rat) (m : Made) (tasks : List LapTask) :
    kept (keepPlan s f leaks caps m tasks) = kept s := by
  unfold keepPlan
  (iterate 60 (all_goals try (first
      | intro _ | fail_if_no_progress beta_reduce | extract_lets -underBinder | with_reducible rfl | with_reducible assumption
      | with_reducible refine kept_ite ?_ ?_
      | fail_if_no_progress refine Eq.trans (kept_mk _ _ _ _ _ _ _ _ _ _ _ _ _ _ _ _ _ _ _ _ _ _ _ _ _ _ _ rfl rfl) ?_ | split
      | exact True.intro | dsimp +zetaDelta only)))
  all_goals done

theorem planLap_kept (s : State) (lap f : Nat) (leaks caps : List Rat) :
    kept (planLap s lap f leaks caps) = kept s := by
  unfold planLap
  (iterate 60 (all_goals try (first
      | intro _ | fail_if_no_progress beta_reduce | extract_lets -underBinder | with_reducible rfl | exact True.intro | assumption
      | with_reducible refine Eq.trans (noteThermal_kept ..) ?_ | with_reducible refine Eq.trans (waitEvents_kept ..) ?_
      | with_reducible refine Eq.trans (keepPlan_kept ..) ?_ | with_reducible refine Eq.trans (noteShort_kept ..) ?_
      | with_reducible refine kept_ite ?_ ?_ | with_reducible refine Eq.trans (kept_foldl _ _ _ ?_) ?_ | split | dsimp +zetaDelta only)))
  all_goals done

theorem planPoint_kept (s : State) : kept (planPoint s) = kept s := by
  unfold planPoint
  (iterate 60 (all_goals try (first
      | intro _ | fail_if_no_progress beta_reduce | extract_lets -underBinder | with_reducible rfl | with_reducible assumption
      | with_reducible refine Eq.trans (planLap_kept ..) ?_ | with_reducible refine Eq.trans (updPart_kept ..) ?_
      | with_reducible refine kept_ite ?_ ?_ | split | exact True.intro | dsimp +zetaDelta only)))
  all_goals done

theorem missVotes_kept (s : State) : kept (missVotes s) = kept s := by
  unfold missVotes
  with_reducible repeat' first | intro _ | fail_if_no_progress beta_reduce | extract_lets -underBinder |
    fail_if_no_progress refine Eq.trans (kept_fst _ _) ?_ | fail_if_no_progress refine Eq.trans (kept_snd _ _) ?_ |
    fail_if_no_progress refine Eq.trans (kept_dec _ _ _ _) ?_ | rfl | refine Eq.trans (partnerLost_kept ..) ?_ | refine kept_ite ?_ ?_ |
    refine Eq.trans (kept_updLap _ _ rfl rfl) ?_ | refine Eq.trans (kept_foldl _ _ _ ?_) ?_ | split

theorem movePages_kept (s : State) (r : Nat) : kept (movePages s r) = kept s := by
  unfold movePages
  (iterate 60 (all_goals try (first
      | intro _ | fail_if_no_progress beta_reduce | extract_lets -underBinder | with_reducible rfl | with_reducible assumption
      | with_reducible refine Eq.trans (movePage_kept ..) ?_ | with_reducible refine kept_ite ?_ ?_
      | refine Eq.trans (kept_foldl _ _ _ ?_) ?_ | refine Eq.trans (kept_foldlPair _ _ _ ?_) ?_ | split | exact True.intro
      | dsimp +zetaDelta only)))
  all_goals done

theorem commitMemory_kept (s : State) (ts : List LapTask) (fs : List (Nat × Nat × Bool)) : kept (commitMemory s ts fs) = kept s := by
  unfold commitMemory
  with_reducible repeat' first | intro _ | extract_lets -underBinder | rfl | refine Eq.trans (sendOutcomes_kept ..) ?_ |
    refine Eq.trans (commitPages_kept ..) ?_ | refine Eq.trans (commitShadow_kept ..) ?_ | refine Eq.trans (putStream_kept ..) ?_ |
    refine Eq.trans (commitPt_kept ..) ?_ | refine Eq.trans (commitIndStreams_kept ..) ?_ | refine Eq.trans (movePages_kept ..) ?_ |
    refine Eq.trans (commitOwn_kept ..) ?_ | refine kept_ite ?_ ?_ | refine Eq.trans (kept_foldl _ _ _ ?_) ?_ | split

theorem digestLap_kept (s : State) (log state : Bytes) : kept (digestLap s log state) = kept s := by
  unfold digestLap
  (iterate 60 (all_goals try (first
      | intro _ | fail_if_no_progress beta_reduce | extract_lets -underBinder | with_reducible rfl | with_reducible assumption
      | with_reducible refine Eq.trans (trkWhole_kept ..) ?_ | with_reducible refine Eq.trans (setTrkState_kept ..) ?_
      | with_reducible refine Eq.trans (fput_kept ..) ?_ | with_reducible refine Eq.trans (kept_updLap _ _ rfl rfl) ?_
      | with_reducible refine kept_ite ?_ ?_
      | fail_if_no_progress refine Eq.trans (kept_mk _ _ _ _ _ _ _ _ _ _ _ _ _ _ _ _ _ _ _ _ _ _ _ _ _ _ _ rfl rfl) ?_ | split
      | exact True.intro | dsimp +zetaDelta only)))
  all_goals done

theorem measureLap_kept (s : State) (ts : List LapTask) : kept (measureLap s ts) = kept s := rfl

theorem lapRecords_kept (s : State) (ts : List LapTask) (state : Bytes) : kept (lapRecords s ts state) = kept s := by
  unfold lapRecords
  with_reducible repeat' first | rfl | refine Eq.trans (trkInput_kept ..) ?_ | refine Eq.trans (writeLog_kept ..) ?_ |
    refine Eq.trans (digestLap_kept ..) ?_ | refine Eq.trans (ledgerLap_kept ..) ?_ | refine kept_ite ?_ ?_ | split

theorem clearHalts_kept (s : State) (ts : List LapTask) : kept (clearHalts s ts) = kept s := by
  unfold clearHalts
  with_reducible repeat' first | intro _ | extract_lets -underBinder | rfl | refine Eq.trans (engineReset_kept ..) ?_ |
    refine Eq.trans (haltClear_kept ..) ?_ | refine kept_ite ?_ ?_ | refine Eq.trans (kept_foldl _ _ _ ?_) ?_ | split

theorem withdrawRv_kept (s : State) (k : LapTask) : kept (withdrawRv s k) = kept s := by
  unfold withdrawRv
  with_reducible repeat' first | rfl | refine Eq.trans (updGst_kept ..) ?_ | refine kept_ite ?_ ?_ |
    refine Eq.trans (kept_updLap _ _ rfl rfl) ?_ | split

theorem replan_kept (s : State) : kept (replan s) = kept s := by
  unfold replan
  (iterate 60 (all_goals try (first
      | intro _ | fail_if_no_progress beta_reduce | extract_lets -underBinder | with_reducible rfl | with_reducible assumption
      | with_reducible refine Eq.trans (noteShort_kept ..) ?_ | with_reducible refine Eq.trans (withdrawRv_kept ..) ?_
      | with_reducible refine kept_ite ?_ ?_ | refine Eq.trans (kept_foldl _ _ _ ?_) ?_
      | fail_if_no_progress refine Eq.trans (kept_mk _ _ _ _ _ _ _ _ _ _ _ _ _ _ _ _ _ _ _ _ _ _ _ _ _ _ _ rfl rfl) ?_ | split
      | exact True.intro | dsimp +zetaDelta only)))
  all_goals done

theorem dropUnsent_kept (s : State) (ts : List LapTask) : kept (dropUnsent s ts) = kept s := rfl

theorem openFor_kept (s : State) (k : LapTask) : kept (openFor s k) = kept s := by
  unfold openFor
  (iterate 60 (all_goals try (first
      | intro _ | fail_if_no_progress beta_reduce | extract_lets -underBinder | with_reducible rfl | with_reducible assumption
      | with_reducible refine Eq.trans (updBlock_kept ..) ?_ | with_reducible refine kept_ite ?_ ?_ | split | exact True.intro
      | dsimp +zetaDelta only)))
  all_goals done

theorem sendOffers_kept (s : State) : kept (sendOffers s) = kept s := by
  unfold sendOffers
  (iterate 60 (all_goals try (first
      | intro _ | fail_if_no_progress beta_reduce | extract_lets -underBinder | with_reducible rfl | with_reducible assumption
      | with_reducible refine Eq.trans (sendControls_kept ..) ?_ | with_reducible refine kept_ite ?_ ?_
      | refine Eq.trans (kept_foldl _ _ _ ?_) ?_ | refine Eq.trans (kept_foldlPair _ _ _ ?_) ?_
      | fail_if_no_progress refine Eq.trans (kept_mk _ _ _ _ _ _ _ _ _ _ _ _ _ _ _ _ _ _ _ _ _ _ _ _ _ _ _ rfl rfl) ?_ | split
      | exact True.intro | dsimp +zetaDelta only)))
  all_goals done

theorem noteShed_kept (s : State) : kept (noteShed s) = kept s := by
  unfold noteShed
  with_reducible repeat' first | rfl | refine Eq.trans (errPart_kept ..) ?_ | refine kept_ite ?_ ?_ | split |
    fail_if_no_progress refine Eq.trans (kept_mk _ _ _ _ _ _ _ _ _ _ _ _ _ _ _ _ _ _ _ _ _ _ _ _ _ _ _ rfl rfl) ?_

theorem noteLap_kept (s : State) : kept (noteLap s) = kept s := rfl

theorem meetEpochs_kept (s : State) (ts : List LapTask) : kept (meetEpochs s ts) = kept s := by
  unfold meetEpochs
  (iterate 60 (all_goals try (first
      | intro _ | fail_if_no_progress beta_reduce | extract_lets -underBinder | with_reducible rfl | with_reducible assumption
      | with_reducible refine kept_ite ?_ ?_ | refine Eq.trans (kept_foldl _ _ _ ?_) ?_ | refine Eq.trans (kept_foldlPair _ _ _ ?_) ?_
      | fail_if_no_progress refine Eq.trans (kept_mk _ _ _ _ _ _ _ _ _ _ _ _ _ _ _ _ _ _ _ _ _ _ _ _ _ _ _ rfl rfl) ?_ | split
      | exact True.intro | dsimp +zetaDelta only)))
  all_goals done

theorem sendResends_kept (s : State) :
    kept (sendResends s) = kept s := by
  unfold sendResends
  (iterate 60 (all_goals try (first
      | intro _ | fail_if_no_progress beta_reduce | extract_lets -underBinder | with_reducible rfl | exact True.intro | assumption
      | with_reducible refine Eq.trans (resendOne_kept ..) ?_ | with_reducible refine kept_ite ?_ ?_
      | with_reducible refine Eq.trans (kept_foldl _ _ _ ?_) ?_ | split | dsimp +zetaDelta only)))
  all_goals done

theorem callResends_kept (s : State) : kept (callResends s) = kept s := by
  unfold callResends
  (iterate 60 (all_goals try (first
      | intro _ | fail_if_no_progress beta_reduce | extract_lets -underBinder | with_reducible rfl | with_reducible assumption
      | with_reducible refine Eq.trans (sendControls_kept ..) ?_ | with_reducible refine kept_ite ?_ ?_
      | refine Eq.trans (kept_foldl _ _ _ ?_) ?_ | refine Eq.trans (kept_foldlPair _ _ _ ?_) ?_ | split | exact True.intro
      | dsimp +zetaDelta only)))
  all_goals done

theorem stirChans_kept (s : State) : kept (stirChans s) = kept s := by
  unfold stirChans
  (iterate 60 (all_goals try (first
      | intro _ | fail_if_no_progress beta_reduce | extract_lets -underBinder | with_reducible rfl | with_reducible assumption
      | with_reducible refine Eq.trans (payOwed_kept ..) ?_ | with_reducible refine Eq.trans (rerunCopy_kept ..) ?_
      | with_reducible refine kept_ite ?_ ?_ | refine Eq.trans (kept_foldl _ _ _ ?_) ?_ | refine Eq.trans (kept_foldlPair _ _ _ ?_) ?_
      | split | exact True.intro | dsimp +zetaDelta only)))
  all_goals done

end Sys2Proof.Machine
end

