-- ==== Sys2Proof/Laws/KeptHost.lean ====
section
/-! SUPPORT. What the functions over the host, segments, ports and faults leave alone. -/

set_option linter.unusedTactic false
set_option linter.unreachableTactic false

namespace Sys2Proof.Machine

theorem noteGraphRead_kept (s : State) (a w : Nat) : kept (noteGraphRead s a w) = kept s := by
  unfold noteGraphRead
  with_reducible repeat' first | rfl | refine Eq.trans (hostFetch_kept ..) ?_ | refine kept_ite ?_ ?_ | split

theorem unreported_kept (s : State) (entry : Nat) (notRing : Bool) : kept (unreported s entry notRing) = kept s := by
  unfold unreported
  with_reducible repeat' first | rfl | refine Eq.trans (errPart_kept ..) ?_ | split

theorem rejectGraph_kept (s : State) (g : Graph) (code : Nat) : kept (rejectGraph s g code) = kept s := by
  unfold rejectGraph
  with_reducible repeat' first | intro _ | extract_lets -underBinder | rfl | refine Eq.trans (postEvent_kept ..) ?_ |
    refine Eq.trans (unreported_kept ..) ?_ | refine kept_ite ?_ ?_ | split

theorem rejectOpen_kept (s : State) (g : Graph) : kept (rejectOpen s g) = kept s := by
  unfold rejectOpen
  (iterate 60 (all_goals try (first
      | intro _ | fail_if_no_progress beta_reduce | extract_lets -underBinder | with_reducible rfl | with_reducible assumption
      | with_reducible refine Eq.trans (rejectGraph_kept ..) ?_ | with_reducible refine kept_ite ?_ ?_ | split | exact True.intro
      | dsimp +zetaDelta only)))
  all_goals done

theorem openGraph_kept (s : State) (g : Graph) : kept (openGraph s g) = kept s := by
  unfold openGraph
  (iterate 60 (all_goals try (first
      | intro _ | fail_if_no_progress beta_reduce | extract_lets -underBinder | with_reducible rfl | with_reducible assumption
      | with_reducible refine Eq.trans (rejectOpen_kept ..) ?_ | with_reducible refine Eq.trans (updHost_kept ..) ?_
      | with_reducible refine kept_ite ?_ ?_
      | fail_if_no_progress refine Eq.trans (kept_mk _ _ _ _ _ _ _ _ _ _ _ _ _ _ _ _ _ _ _ _ _ _ _ _ _ _ _ rfl rfl) ?_ | split
      | exact True.intro | dsimp +zetaDelta only)))
  all_goals done

theorem graphAt_kept (s : State) (ring tag a : Nat) : kept (graphAt s ring tag a) = kept s := by
  unfold graphAt
  exact kept_ite (unreported_kept ..) ((openGraph_kept ..).trans (noteGraphRead_kept ..))

theorem graphEntry_kept (s : State) (ring : Nat) : kept (graphEntry s ring) = kept s := by
  unfold graphEntry
  (iterate 60 (all_goals try (first
      | intro _ | fail_if_no_progress beta_reduce | extract_lets -underBinder | with_reducible rfl | with_reducible assumption
      | with_reducible refine Eq.trans (settleSub_kept ..) ?_ | with_reducible refine Eq.trans (graphAt_kept ..) ?_
      | with_reducible refine Eq.trans (consumeEntry_kept ..) ?_ | with_reducible refine kept_ite ?_ ?_
      | with_reducible refine kept_elimTo ?_ ?_ | split | exact True.intro | dsimp +zetaDelta only)))
  all_goals done

theorem readLists_kept (s : State) (g : Graph) : kept (readLists s g) = kept s := by
  unfold readLists
  (iterate 60 (all_goals try (first
      | intro _ | fail_if_no_progress beta_reduce | extract_lets -underBinder | with_reducible rfl | with_reducible assumption
      | with_reducible refine Eq.trans (taskRead_kept' rfl) ?_
      | (have hk := taskRead_kept' (by assumption); refine Eq.trans hk ?_; clear hk) | with_reducible refine kept_ite ?_ ?_
      | refine Eq.trans (kept_foldl _ _ _ ?_) ?_ | refine Eq.trans (kept_foldlPair _ _ _ ?_) ?_ | split | exact True.intro
      | dsimp +zetaDelta only)))
  all_goals done

theorem acceptGraph_kept (s : State) (g : Graph) : kept (acceptGraph s g) = kept s := updGraph_kept ..

theorem checkGuards_kept (s : State) (g : Graph) : kept (checkGuards s g) = kept s :=
  kept_elim _ _ _ fun _ => (stopGraph_kept ..).trans (postEvent_kept ..)

theorem sameIdNext_kept (s : State) (id : Nat) (accepted : Bool) : kept (sameIdNext s id accepted) = kept s := by
  unfold sameIdNext
  (iterate 60 (all_goals try (first
      | intro _ | fail_if_no_progress beta_reduce | extract_lets -underBinder | with_reducible rfl | with_reducible assumption
      | with_reducible refine Eq.trans (updHost_kept ..) ?_ | with_reducible refine Eq.trans (rejectOpen_kept ..) ?_
      | with_reducible refine kept_ite ?_ ?_ | refine Eq.trans (kept_foldl _ _ _ ?_) ?_
      | fail_if_no_progress refine Eq.trans (kept_mk _ _ _ _ _ _ _ _ _ _ _ _ _ _ _ _ _ _ _ _ _ _ _ _ _ _ _ rfl rfl) ?_ | split
      | exact True.intro | dsimp +zetaDelta only)))
  all_goals done

theorem resolveAs_kept (s : State) (g : Graph) (code : Nat) : kept (resolveAs s g code) = kept s := by
  unfold resolveAs
  (iterate 60 (all_goals try (first
      | intro _ | fail_if_no_progress beta_reduce | extract_lets -underBinder | with_reducible rfl | with_reducible assumption
      | with_reducible refine Eq.trans (sameIdNext_kept ..) ?_ | with_reducible refine Eq.trans (rejectGraph_kept ..) ?_
      | with_reducible refine Eq.trans (checkGuards_kept ..) ?_ | with_reducible refine Eq.trans (postEvent_kept ..) ?_
      | with_reducible refine Eq.trans (acceptGraph_kept ..) ?_ | with_reducible refine kept_ite ?_ ?_
      | fail_if_no_progress refine Eq.trans (kept_mk _ _ _ _ _ _ _ _ _ _ _ _ _ _ _ _ _ _ _ _ _ _ _ _ _ _ _ rfl rfl) ?_ | split
      | exact True.intro | dsimp +zetaDelta only)))
  all_goals done

theorem graphResolved_kept (s : State) (gid : Nat) : kept (graphResolved s gid) = kept s := by
  unfold graphResolved
  (iterate 60 (all_goals try (first
      | intro _ | fail_if_no_progress beta_reduce | extract_lets -underBinder | with_reducible rfl | with_reducible assumption
      | with_reducible refine Eq.trans (resolveAs_kept ..) ?_ | with_reducible refine Eq.trans (readLists_kept ..) ?_
      | with_reducible refine kept_ite ?_ ?_ | with_reducible refine kept_elimTo ?_ ?_ | split | exact True.intro | dsimp +zetaDelta only)))
  all_goals done

theorem commandDone_kept (s : State) (e code : Nat) : kept (commandDone s e code) = kept s := by
  unfold commandDone
  with_reducible repeat' first | rfl | refine Eq.trans (postEvent_kept ..) ?_ | split

theorem tableEntryOf {act : State → Nat → Bytes → State ⊕ Nat} (ho : ∀ t n b, keptSum (act t n b) (kept t)) {v0 v1 v2 resu} (h : act v0 v1 v2 = resu) : keptSum resu (kept v0) := h ▸ ho v0 v1 v2

theorem tableEntry_kept (s : State) (ring kind : Nat) (usesId : Bool) (act : State → Nat → Bytes → State ⊕ Nat) (ho : ∀ t n b, keptSum (act t n b) (kept t)) :
    kept (tableEntry s ring kind usesId act) = kept s := by
  unfold tableEntry
  (iterate 60 (all_goals try (first
      | intro _ | fail_if_no_progress beta_reduce | extract_lets -underBinder | with_reducible rfl | exact True.intro | assumption
      | with_reducible refine Eq.trans (consumeEntry_kept ..) ?_ | with_reducible refine Eq.trans (hostFetch_kept ..) ?_
      | with_reducible refine Eq.trans (settleSub_kept ..) ?_ | with_reducible refine Eq.trans (commandDone_kept ..) ?_
      | (have hk := tableEntryOf ho (by assumption); refine Eq.trans hk ?_; clear hk) | with_reducible refine kept_fst_ite ?_ ?_
      | split | dsimp +zetaDelta only)))
  all_goals done

theorem loadOwner_kept (s : State) (_e : Nat) (b : Bytes) : keptSum (loadOwner s _e b) (kept s) := by
  unfold loadOwner
  (iterate 60 (all_goals try (first
      | intro _ | fail_if_no_progress beta_reduce | extract_lets -underBinder | with_reducible rfl | exact True.intro | assumption
      | with_reducible refine Eq.trans (applyOwn_kept ..) ?_ | with_reducible refine keptSum_ite ?_ ?_
      | with_reducible refine keptSum_inl ?_ | with_reducible refine kept_ite ?_ ?_ | split
      | fail_if_no_progress with_reducible refine Eq.trans (kept_mk _ _ _ _ _ _ _ _ _ _ _ _ _ _ _ _ _ _ _ _ _ _ _ _ _ _ _ rfl rfl) ?_
      | dsimp +zetaDelta only)))
  all_goals done

theorem loadOwner_kept' {s : State} {_e : Nat} {b : Bytes} {resu} (h : loadOwner s _e b = resu) : keptSum resu (kept s) := h ▸ loadOwner_kept s _e b

theorem loadGuards_kept (ring : Nat) (s : State) (e : Nat) (b : Bytes) : keptSum (loadGuards ring s e b) (kept s) := by
  unfold loadGuards
  (iterate 60 (all_goals try (first
      | intro _ | fail_if_no_progress beta_reduce | extract_lets -underBinder | with_reducible rfl | with_reducible assumption
      | with_reducible refine kept_ite ?_ ?_ | with_reducible refine keptSum_ite ?_ ?_ | with_reducible refine keptSum_inl ?_
      | refine Eq.trans (kept_foldl _ _ _ ?_) ?_
      | fail_if_no_progress refine Eq.trans (kept_mk _ _ _ _ _ _ _ _ _ _ _ _ _ _ _ _ _ _ _ _ _ _ _ _ _ _ _ rfl rfl) ?_ | split
      | exact True.intro | dsimp +zetaDelta only)))
  all_goals done

theorem loadGuards_kept' {ring : Nat} {s : State} {e : Nat} {b : Bytes} {resu}
    (h : loadGuards ring s e b = resu) : keptSum resu (kept s) :=
  h ▸ loadGuards_kept ring s e b

theorem loadHurdles_kept (s : State) (_e : Nat) (b : Bytes) : keptSum (loadHurdles s _e b) (kept s) := by
  unfold loadHurdles
  (iterate 60 (all_goals try (first
      | intro _ | fail_if_no_progress beta_reduce | extract_lets -underBinder | with_reducible rfl | exact True.intro | assumption
      | with_reducible refine keptSum_ite ?_ ?_ | with_reducible refine keptSum_inl ?_ | split
      | fail_if_no_progress with_reducible refine Eq.trans (kept_mk _ _ _ _ _ _ _ _ _ _ _ _ _ _ _ _ _ _ _ _ _ _ _ _ _ _ _ rfl rfl) ?_
      | dsimp +zetaDelta only)))
  all_goals done

theorem loadHurdles_kept' {s : State} {_e : Nat} {b : Bytes} {resu} (h : loadHurdles s _e b = resu) : keptSum resu (kept s) := h ▸ loadHurdles_kept s _e b

theorem stopOpen_kept (s : State) (gid : Nat) : kept (stopOpen s gid) = kept s := by
  unfold stopOpen
  with_reducible repeat' first | intro _ | extract_lets -underBinder | rfl | refine Eq.trans (updGraph_kept ..) ?_ |
    refine Eq.trans (closeGraph_kept ..) ?_ | split

theorem stopAt_kept (s : State) (e : Nat) : kept (stopAt s e) = kept s := by
  unfold stopAt
  (iterate 60 (all_goals try (first
      | intro _ | fail_if_no_progress beta_reduce | extract_lets -underBinder | with_reducible rfl | with_reducible assumption
      | with_reducible refine Eq.trans (commandDone_kept ..) ?_ | with_reducible refine Eq.trans (stopOpen_kept ..) ?_
      | with_reducible refine kept_ite ?_ ?_ | split | exact True.intro | dsimp +zetaDelta only)))
  all_goals done

theorem stopGraphEntry_kept (s : State) (ring : Nat) : kept (stopGraphEntry s ring) = kept s :=
  kept_elim _ _ _ fun _ => (settleSub_kept ..).trans ((stopAt_kept ..).trans (consumeEntry_kept ..))

theorem ownUpdate_kept (s : State) (word3 : Nat) : kept (ownUpdate s word3) = kept s := by
  unfold ownUpdate
  with_reducible repeat' first | rfl | refine Eq.trans (fput_kept ..) ?_ | refine kept_ite ?_ ?_ | split |
    fail_if_no_progress refine Eq.trans (kept_mk _ _ _ _ _ _ _ _ _ _ _ _ _ _ _ _ _ _ _ _ _ _ _ _ _ _ _ rfl rfl) ?_

theorem flr_kept (s : State) : kept (flr s) = kept s := by
  unfold flr
  (iterate 60 (all_goals try (first
      | intro _ | fail_if_no_progress beta_reduce | extract_lets -underBinder | with_reducible rfl | with_reducible assumption
      | with_reducible refine Eq.trans (dropCpls_kept ..) ?_ | with_reducible refine Eq.trans (updHost_kept ..) ?_
      | with_reducible refine Eq.trans (stopOpen_kept ..) ?_ | with_reducible refine kept_ite ?_ ?_
      | refine Eq.trans (kept_foldl _ _ _ ?_) ?_ | refine Eq.trans (kept_foldlPair _ _ _ ?_) ?_
      | fail_if_no_progress refine Eq.trans (kept_mk _ _ _ _ _ _ _ _ _ _ _ _ _ _ _ _ _ _ _ _ _ _ _ _ _ _ _ rfl rfl) ?_ | split
      | exact True.intro | dsimp +zetaDelta only)))
  all_goals done

theorem atsInvalidate_kept (s : State) (addr len : Nat) : kept (atsInvalidate s addr len) = kept s := by
  unfold atsInvalidate
  (iterate 60 (all_goals try (first
      | intro _ | fail_if_no_progress beta_reduce | extract_lets -underBinder | with_reducible rfl | with_reducible assumption
      | with_reducible refine Eq.trans (emit_kept ..) ?_ | with_reducible refine Eq.trans (updHost_kept ..) ?_
      | with_reducible refine kept_ite ?_ ?_ | split | exact True.intro | dsimp +zetaDelta only)))
  all_goals done

theorem countRefused_kept (s : State) (g : Segment) : kept (countRefused s g) = kept s := by
  unfold countRefused
  (iterate 60 (all_goals try (first
      | intro _ | fail_if_no_progress beta_reduce | extract_lets -underBinder | with_reducible rfl | with_reducible assumption
      | with_reducible refine Eq.trans (pbump_kept ..) ?_ | with_reducible refine kept_ite ?_ ?_ | split | exact True.intro
      | dsimp +zetaDelta only)))
  all_goals done

theorem refuseSeg_kept (s : State) (g : Segment) (reason : Nat) : kept (refuseSeg s g reason) = kept s := by
  unfold refuseSeg
  with_reducible repeat' first | rfl | refine Eq.trans (sendControl_kept ..) ?_ | refine Eq.trans (countRefused_kept ..) ?_ | split

theorem trkSegment_kept (s : State) (op r : Nat) (g : Segment) : kept (trkSegment s op r g) = kept s := by
  unfold trkSegment
  (iterate 60 (all_goals try (first
      | intro _ | fail_if_no_progress beta_reduce | extract_lets -underBinder | with_reducible rfl | with_reducible assumption
      | with_reducible refine Eq.trans (trkInput_kept ..) ?_ | with_reducible refine kept_ite ?_ ?_ | split | exact True.intro
      | dsimp +zetaDelta only)))
  all_goals done

theorem rxSlot_kept (s : State) (g : Segment) (lap : Nat) : kept (rxSlot s g lap).2 = kept s := by
  unfold rxSlot
  with_reducible repeat' first | rfl | split |
    fail_if_no_progress refine Eq.trans (kept_mk _ _ _ _ _ _ _ _ _ _ _ _ _ _ _ _ _ _ _ _ _ _ _ _ _ _ _ rfl rfl) ?_

theorem rxSlot_kept' {s : State} {g : Segment} {lap : Nat} {resu} (h : rxSlot s g lap = resu) : kept resu.2 = kept s := h ▸ rxSlot_kept s g lap

theorem writeInLap_kept (s : State) (o : Owned) (slot n : Nat) (bs : Bytes) : keptOpt (writeInLap s o slot n bs) (kept s) := by
  unfold writeInLap
  split
  · rename_i r h
    have h := writeHbm_kept' h
    simp only [keptOpt, keptWr, kept, updLap, KeptPart.mk.injEq] at h ⊢
    exact ⟨h.1, h.2.1, trivial, h.2.2.2⟩
  · trivial

theorem writeInLap_kept' {s : State} {o : Owned} {slot n : Nat} {bs : Bytes} {resu} (h : writeInLap s o slot n bs = resu) : keptOpt resu (kept s) :=
  h ▸ writeInLap_kept s o slot n bs

theorem writeOwner_kept (s : State) (g : Segment) : kept (writeOwner s g) = kept s := by
  unfold writeOwner
  (iterate 60 (all_goals try (first
      | intro _ | fail_if_no_progress beta_reduce | extract_lets -underBinder | with_reducible rfl | with_reducible assumption
      | with_reducible refine Eq.trans (countRefused_kept ..) ?_ | with_reducible refine Eq.trans (trkSegment_kept ..) ?_
      | with_reducible refine Eq.trans (refuseSeg_kept ..) ?_ | with_reducible refine Eq.trans (firmwareWrite_kept' rfl) ?_
      | (have hk := firmwareWrite_kept' (by assumption); refine Eq.trans hk ?_; clear hk)
      | with_reducible refine Eq.trans (rxSlot_kept' rfl) ?_ | (have hk := rxSlot_kept' (by assumption); refine Eq.trans hk ?_; clear hk)
      | (have hk := writeInLap_kept' (by assumption); refine Eq.trans hk ?_; clear hk)
      | with_reducible refine keptOpt_getD (writeInLap_kept ..) ?_ | with_reducible refine kept_ite ?_ ?_
      | fail_if_no_progress refine Eq.trans (kept_mk _ _ _ _ _ _ _ _ _ _ _ _ _ _ _ _ _ _ _ _ _ _ _ _ _ _ _ rfl rfl) ?_ | split
      | exact True.intro | dsimp +zetaDelta only)))
  all_goals done

theorem readOwner_kept (s : State) (g : Segment) : kept (readOwner s g) = kept s := by
  unfold readOwner
  (iterate 60 (all_goals try (first
      | intro _ | fail_if_no_progress beta_reduce | extract_lets -underBinder | with_reducible rfl | with_reducible assumption
      | with_reducible refine Eq.trans (countRefused_kept ..) ?_ | with_reducible refine Eq.trans (trkSegment_kept ..) ?_
      | with_reducible refine Eq.trans (refuseSeg_kept ..) ?_ | with_reducible refine Eq.trans (readHbmEcc_kept' rfl) ?_
      | (have hk := readHbmEcc_kept' (by assumption); refine Eq.trans hk ?_; clear hk)
      | (have hk := sendSegment_kept' (by assumption); refine Eq.trans hk ?_; clear hk)
      | with_reducible refine keptOpt_getD (sendSegment_kept ..) ?_ | with_reducible refine Eq.trans (partnerLost_kept ..) ?_
      | with_reducible refine kept_ite ?_ ?_ | split | exact True.intro | dsimp +zetaDelta only)))
  all_goals done

theorem readReply_kept (s : State) (g : Segment) : kept (readReply s g) = kept s := by
  unfold readReply
  (iterate 60 (all_goals try (first
      | intro _ | fail_if_no_progress beta_reduce | extract_lets -underBinder | with_reducible rfl | with_reducible assumption
      | with_reducible refine Eq.trans (restorePage_kept ..) ?_ | with_reducible refine Eq.trans (trkSegment_kept ..) ?_
      | with_reducible refine Eq.trans (countRefused_kept ..) ?_
      | (have hk := writePlace_kept' (by assumption); refine Eq.trans hk ?_; clear hk)
      | with_reducible refine Eq.trans (updChan_kept ..) ?_ | with_reducible refine Eq.trans (haltOwner_kept ..) ?_
      | with_reducible refine kept_ite ?_ ?_
      | fail_if_no_progress refine Eq.trans (kept_mk _ _ _ _ _ _ _ _ _ _ _ _ _ _ _ _ _ _ _ _ _ _ _ _ _ _ _ rfl rfl) ?_ | split
      | exact True.intro | dsimp +zetaDelta only)))
  all_goals done

theorem landExchange_kept (s : State) (op : Nat) (g : Segment) (may : LapTask → Bool) : kept (landExchange s op g may) = kept s := by
  unfold landExchange
  (iterate 60 (all_goals try (first
      | intro _ | fail_if_no_progress beta_reduce | extract_lets -underBinder | with_reducible rfl | with_reducible assumption
      | with_reducible refine Eq.trans (refuseSeg_kept ..) ?_ | with_reducible refine Eq.trans (trkSegment_kept ..) ?_
      | (have hk := writeHbm_kept' (by assumption); refine Eq.trans hk ?_; clear hk)
      | with_reducible refine Eq.trans (updRegion_kept ..) ?_ | with_reducible refine kept_ite ?_ ?_ | split | exact True.intro
      | dsimp +zetaDelta only)))
  all_goals done

theorem writeExchange_kept (s : State) (g : Segment) : kept (writeExchange s g) = kept s := by
  unfold writeExchange
  with_reducible repeat' first | rfl | refine Eq.trans (countRefused_kept ..) ?_ | refine Eq.trans (trkSegment_kept ..) ?_ |
    refine Eq.trans (refuseSeg_kept ..) ?_ | refine Eq.trans (landExchange_kept ..) ?_ | refine kept_ite ?_ ?_ | split

theorem writeResend_kept (s : State) (g : Segment) : kept (writeResend s g) = kept s := by
  unfold writeResend
  (iterate 60 (all_goals try (first
      | intro _ | fail_if_no_progress beta_reduce | extract_lets -underBinder | with_reducible rfl | with_reducible assumption
      | with_reducible refine Eq.trans (refuseSeg_kept ..) ?_ | with_reducible refine Eq.trans (trkSegment_kept ..) ?_
      | with_reducible refine Eq.trans (landExchange_kept ..) ?_ | with_reducible refine kept_ite ?_ ?_ | split | exact True.intro
      | dsimp +zetaDelta only)))
  all_goals done

theorem noteRefused_kept (s : State) (t : TumRef) (slot : Nat) : kept (noteRefused s t slot) = kept s := by
  unfold noteRefused
  (iterate 60 (all_goals try (first
      | intro _ | fail_if_no_progress beta_reduce | extract_lets -underBinder | with_reducible rfl | with_reducible assumption
      | with_reducible refine Eq.trans (noteSignaller_kept ..) ?_ | with_reducible refine Eq.trans (tumPut_kept ..) ?_
      | with_reducible refine kept_ite ?_ ?_ | split | exact True.intro | dsimp +zetaDelta only)))
  all_goals done

theorem signalFlit_kept (s : State) (g : Segment) (name : Nat) : kept (signalFlit s g name) = kept s := by
  unfold signalFlit
  (iterate 60 (all_goals try (first
      | intro _ | fail_if_no_progress beta_reduce | extract_lets -underBinder | with_reducible rfl | with_reducible assumption
      | with_reducible refine Eq.trans (trkSegment_kept ..) ?_ | with_reducible refine Eq.trans (tumSignal_kept' rfl) ?_
      | (have hk := tumSignal_kept' (by assumption); refine Eq.trans hk ?_; clear hk)
      | with_reducible refine Eq.trans (sendControl_kept ..) ?_ | with_reducible refine Eq.trans (noteRefused_kept ..) ?_
      | with_reducible refine kept_ite ?_ ?_ | split | exact True.intro | dsimp +zetaDelta only)))
  all_goals done

theorem ledgerIn_kept (s : State) (g : Segment) : kept (ledgerIn s g) = kept s := by
  unfold ledgerIn
  (iterate 60 (all_goals try (first
      | intro _ | fail_if_no_progress beta_reduce | extract_lets -underBinder | with_reducible rfl | with_reducible assumption
      | with_reducible refine Eq.trans (trkSegment_kept ..) ?_ | with_reducible refine Eq.trans (ledgerDrop_kept ..) ?_
      | with_reducible refine Eq.trans (ledgerPost_kept ..) ?_ | with_reducible refine kept_ite ?_ ?_ | split | exact True.intro
      | dsimp +zetaDelta only)))
  all_goals done

theorem confirmRec_kept (s : State) (w : BitVec 256) : kept (confirmRec s w) = kept s := by
  unfold confirmRec
  with_reducible repeat' first | rfl | refine Eq.trans (trkControl_kept ..) ?_ | refine kept_ite ?_ ?_ | split

theorem confirmTimeout_kept (s : State) : kept (confirmTimeout s) = kept s := rfl

theorem offerIn_kept (s : State) (w : BitVec 256) : kept (offerIn s w) = kept s := by
  unfold offerIn
  (iterate 60 (all_goals try (first
      | intro _ | fail_if_no_progress beta_reduce | extract_lets -underBinder | with_reducible rfl | with_reducible assumption
      | with_reducible refine Eq.trans (trkControl_kept ..) ?_ | with_reducible refine Eq.trans (resendOne_kept ..) ?_
      | with_reducible refine Eq.trans (sendControl_kept ..) ?_ | with_reducible refine kept_ite ?_ ?_
      | refine Eq.trans (kept_foldl _ _ _ ?_) ?_ | refine Eq.trans (kept_foldlPair _ _ _ ?_) ?_
      | fail_if_no_progress refine Eq.trans (kept_mk _ _ _ _ _ _ _ _ _ _ _ _ _ _ _ _ _ _ _ _ _ _ _ _ _ _ _ rfl rfl) ?_ | split
      | exact True.intro | dsimp +zetaDelta only)))
  all_goals done

theorem declineIn_kept (s : State) (w : BitVec 256) : kept (declineIn s w) = kept s := by
  unfold declineIn
  with_reducible repeat' first | rfl | refine Eq.trans (trkControl_kept ..) ?_ | refine kept_ite ?_ ?_ | split

theorem failSegment_kept (s : State) (x : SegOut) (kind : Nat) : kept (failSegment s x kind) = kept s := by
  unfold failSegment
  (iterate 60 (all_goals try (first
      | intro _ | fail_if_no_progress beta_reduce | extract_lets -underBinder | with_reducible rfl | with_reducible assumption
      | with_reducible refine Eq.trans (failTransfer_kept ..) ?_ | with_reducible refine kept_ite ?_ ?_
      | fail_if_no_progress refine Eq.trans (kept_mk _ _ _ _ _ _ _ _ _ _ _ _ _ _ _ _ _ _ _ _ _ _ _ _ _ _ _ rfl rfl) ?_ | split
      | exact True.intro | dsimp +zetaDelta only)))
  all_goals done

theorem noRoute_kept (s : State) (w : BitVec 256) : kept (noRoute s w) = kept s := by
  unfold noRoute
  (iterate 60 (all_goals try (first
      | intro _ | fail_if_no_progress beta_reduce | extract_lets -underBinder | with_reducible rfl | with_reducible assumption
      | with_reducible refine Eq.trans (trkControl_kept ..) ?_ | with_reducible refine Eq.trans (failSegment_kept ..) ?_
      | with_reducible refine Eq.trans (snapFail_kept ..) ?_ | with_reducible refine Eq.trans (partnerLost_kept ..) ?_
      | with_reducible refine kept_ite ?_ ?_
      | fail_if_no_progress refine Eq.trans (kept_mk _ _ _ _ _ _ _ _ _ _ _ _ _ _ _ _ _ _ _ _ _ _ _ _ _ _ _ rfl rfl) ?_ | split
      | exact True.intro | dsimp +zetaDelta only)))
  all_goals done

theorem probeIn_kept (s : State) (w : BitVec 256) (turnaround : Nat) : kept (probeIn s w turnaround) = kept s := by
  unfold probeIn
  with_reducible repeat' first | intro _ | extract_lets -underBinder | rfl | refine Eq.trans (trkControl_kept ..) ?_ |
    refine Eq.trans (sendControl_kept ..) ?_ | refine kept_ite ?_ ?_ | split

theorem probeReply_kept (s : State) (w : BitVec 256) (now : Nat) : kept (probeReply s w now) = kept s := by
  unfold probeReply
  with_reducible repeat' first | rfl | refine Eq.trans (trkControl_kept ..) ?_ | refine kept_ite ?_ ?_ | split

theorem probeInterval_kept (s : State) (now : Nat) : kept (probeInterval s now) = kept s := by
  unfold probeInterval
  with_reducible repeat' first | intro _ | extract_lets -underBinder | rfl | refine Eq.trans (partnerLost_kept ..) ?_ |
    refine Eq.trans (sendControl_kept ..) ?_ | refine kept_ite ?_ ?_ | refine Eq.trans (kept_foldl _ _ _ ?_) ?_ | split |
    fail_if_no_progress refine Eq.trans (kept_mk _ _ _ _ _ _ _ _ _ _ _ _ _ _ _ _ _ _ _ _ _ _ _ _ _ _ _ rfl rfl) ?_

theorem downPort_kept (s : State) (p : Nat) : kept (downPort s p) = kept s := by
  unfold downPort
  (iterate 60 (all_goals try (first
      | intro _ | fail_if_no_progress beta_reduce | extract_lets -underBinder | with_reducible rfl | with_reducible assumption
      | with_reducible refine Eq.trans (setPort_kept ..) ?_ | with_reducible refine Eq.trans (pput_kept ..) ?_
      | with_reducible refine Eq.trans (sendControl_kept ..) ?_ | with_reducible refine Eq.trans (failSegment_kept ..) ?_
      | with_reducible refine kept_ite ?_ ?_ | refine Eq.trans (kept_foldl _ _ _ ?_) ?_ | refine Eq.trans (kept_foldlPair _ _ _ ?_) ?_
      | fail_if_no_progress refine Eq.trans (kept_mk _ _ _ _ _ _ _ _ _ _ _ _ _ _ _ _ _ _ _ _ _ _ _ _ _ _ _ rfl rfl) ?_ | split
      | exact True.intro | dsimp +zetaDelta only)))
  all_goals done

theorem failPort_kept (s : State) (p : Nat) : kept (failPort s p) = kept s := by
  unfold failPort
  with_reducible repeat' first | rfl | refine Eq.trans (downPort_kept ..) ?_ | refine Eq.trans (errRegion_kept ..) ?_ | split

theorem startTraining_kept (s : State) (p : Nat) : kept (startTraining s p) = kept s := by
  unfold startTraining
  with_reducible repeat' first | rfl | refine Eq.trans (pput_kept ..) ?_ | refine Eq.trans (updPort_kept ..) ?_ |
    refine Eq.trans (downPort_kept ..) ?_ | refine kept_ite ?_ ?_ | split

theorem portEnable_kept (s : State) (p : Nat) (on : Bool) : kept (portEnable s p on) = kept s := by
  unfold portEnable
  with_reducible repeat' first | rfl | refine Eq.trans (pput_kept ..) ?_ | refine Eq.trans (downPort_kept ..) ?_ |
    refine Eq.trans (startTraining_kept ..) ?_ | refine kept_ite ?_ ?_ | split

theorem retrainPort_kept (s : State) (p : Nat) : kept (retrainPort s p) = kept s := by
  unfold retrainPort
  with_reducible repeat' first | rfl | refine Eq.trans (startTraining_kept ..) ?_ | refine kept_ite ?_ ?_ | split

theorem echoIn_kept (s : State) (p roundTrip turnaround : Nat) : kept (echoIn s p roundTrip turnaround) = kept s := by
  unfold echoIn
  (iterate 60 (all_goals try (first
      | intro _ | fail_if_no_progress beta_reduce | extract_lets -underBinder | with_reducible rfl | with_reducible assumption
      | with_reducible refine Eq.trans (updPort_kept ..) ?_ | with_reducible refine Eq.trans (putFlit_kept ..) ?_
      | with_reducible refine Eq.trans (pput_kept ..) ?_ | with_reducible refine kept_ite ?_ ?_ | split | exact True.intro
      | dsimp +zetaDelta only)))
  all_goals done

theorem trainingDone_kept (s : State) (p lanes : Nat) (farId farPort delay : Nat) :
    kept (trainingDone s p lanes farId farPort delay) = kept s := by
  unfold trainingDone
  with_reducible repeat' first | rfl | refine Eq.trans (pput_kept ..) ?_ | refine Eq.trans (downPort_kept ..) ?_ |
    refine Eq.trans (updPort_kept ..) ?_ | refine kept_ite ?_ ?_ | split

theorem trainingTimeout_kept (s : State) (p : Nat) : kept (trainingTimeout s p) = kept s := by
  unfold trainingTimeout
  with_reducible repeat' first | rfl | refine Eq.trans (downPort_kept ..) ?_ | refine kept_ite ?_ ?_ | split

theorem laneFailure_kept (s : State) (p lane : Nat) : kept (laneFailure s p lane) = kept s := by
  unfold laneFailure
  (iterate 60 (all_goals try (first
      | intro _ | fail_if_no_progress beta_reduce | extract_lets -underBinder | with_reducible rfl | with_reducible assumption
      | with_reducible refine Eq.trans (updPort_kept ..) ?_ | with_reducible refine Eq.trans (pput_kept ..) ?_
      | with_reducible refine Eq.trans (pbump_kept ..) ?_ | with_reducible refine Eq.trans (failPort_kept ..) ?_
      | with_reducible refine kept_ite ?_ ?_ | split | exact True.intro | dsimp +zetaDelta only)))
  all_goals done

theorem resendAll_kept (s : State) (p : Nat) : kept (resendAll s p) = kept s := by
  unfold resendAll
  (iterate 60 (all_goals try (first
      | intro _ | fail_if_no_progress beta_reduce | extract_lets -underBinder | with_reducible rfl | with_reducible assumption
      | with_reducible refine Eq.trans (putFlit_kept ..) ?_ | with_reducible refine kept_ite ?_ ?_
      | refine Eq.trans (kept_foldl _ _ _ ?_) ?_ | refine Eq.trans (kept_foldlPair _ _ _ ?_) ?_ | split | exact True.intro
      | dsimp +zetaDelta only)))
  all_goals done

theorem retrainDone_kept (s : State) (p lanes : Nat) : kept (retrainDone s p lanes) = kept s := by
  unfold retrainDone
  with_reducible repeat' first | rfl | refine Eq.trans (pput_kept ..) ?_ | refine Eq.trans (failPort_kept ..) ?_ |
    refine Eq.trans (updPort_kept ..) ?_ | refine Eq.trans (errRegion_kept ..) ?_ | refine Eq.trans (pumpAll_kept ..) ?_ |
    refine Eq.trans (resendAll_kept ..) ?_ | refine kept_ite ?_ ?_ | split

theorem ackTo_kept (s : State) (p ack : Nat) : kept (ackTo s p ack) = kept s := by
  unfold ackTo
  with_reducible repeat' first | rfl | refine Eq.trans (updPort_kept ..) ?_ | split

theorem idleIn_kept (s : State) (p ack : Nat) : kept (idleIn s p ack) = kept s := by
  unfold idleIn
  with_reducible repeat' first | rfl | refine Eq.trans (pumpAll_kept ..) ?_ | refine Eq.trans (ackTo_kept ..) ?_ | split

theorem nakIn_kept (s : State) (p ack : Nat) : kept (nakIn s p ack) = kept s := by
  unfold nakIn
  with_reducible repeat' first | rfl | refine Eq.trans (pumpAll_kept ..) ?_ | refine Eq.trans (resendAll_kept ..) ?_ |
    refine Eq.trans (pbump_kept ..) ?_ | refine Eq.trans (ackTo_kept ..) ?_ | refine kept_ite ?_ ?_ | split

theorem crcFailure_kept (s : State) (p good : Nat) : kept (crcFailure s p good) = kept s := by
  unfold crcFailure
  (iterate 60 (all_goals try (first
      | intro _ | fail_if_no_progress beta_reduce | extract_lets -underBinder | with_reducible rfl | with_reducible assumption
      | with_reducible refine Eq.trans (emit_kept ..) ?_ | with_reducible refine kept_ite ?_ ?_ | split | exact True.intro
      | dsimp +zetaDelta only)))
  all_goals done

theorem notePath_kept (s : State) (f : Flit) (p : Nat) : kept (notePath s f p) = kept s := by
  unfold notePath
  with_reducible repeat' first | rfl | refine kept_ite ?_ ?_ | split |
    fail_if_no_progress refine Eq.trans (kept_mk _ _ _ _ _ _ _ _ _ _ _ _ _ _ _ _ _ _ _ _ _ _ _ _ _ _ _ rfl rfl) ?_

theorem forwardFlit_kept (s : State) (r : Nat) (f : Flit) : kept (forwardFlit s r f) = kept s := by
  unfold forwardFlit
  (iterate 60 (all_goals try (first
      | intro _ | fail_if_no_progress beta_reduce | extract_lets -underBinder | with_reducible rfl | with_reducible assumption
      | with_reducible refine Eq.trans (sendControl_kept ..) ?_ | with_reducible refine Eq.trans (portSend_kept ..) ?_
      | with_reducible refine Eq.trans (notePath_kept ..) ?_ | with_reducible refine kept_ite ?_ ?_ | split | exact True.intro
      | dsimp +zetaDelta only)))
  all_goals done

theorem periodMismatch_kept (s : State) : kept (periodMismatch s) = kept s := by
  unfold periodMismatch
  with_reducible repeat' first | intro _ | extract_lets -underBinder | rfl | refine Eq.trans (raiseTimebase_kept ..) ?_ |
    refine Eq.trans (fput_kept ..) ?_ | refine kept_ite ?_ ?_ | split

theorem takeMarker_kept (s : State) (p : Nat) (m : Marker) : kept (takeMarker s p m) = kept s := by
  unfold takeMarker
  with_reducible repeat' first | rfl | refine kept_ite ?_ ?_ | refine Eq.trans (kept_updLap _ _ rfl rfl) ?_ | split |
    fail_if_no_progress refine Eq.trans (kept_mk _ _ _ _ _ _ _ _ _ _ _ _ _ _ _ _ _ _ _ _ _ _ _ _ _ _ _ rfl rfl) ?_

theorem tooDeep_kept (s : State) : kept (tooDeep s) = kept s := by
  unfold tooDeep
  (iterate 60 (all_goals try (first
      | intro _ | fail_if_no_progress beta_reduce | extract_lets -underBinder | with_reducible rfl | with_reducible assumption
      | with_reducible refine kept_ite ?_ ?_
      | fail_if_no_progress refine Eq.trans (kept_mk _ _ _ _ _ _ _ _ _ _ _ _ _ _ _ _ _ _ _ _ _ _ _ _ _ _ _ rfl rfl) ?_ | split
      | exact True.intro | dsimp +zetaDelta only)))
  all_goals done

theorem standDown_kept (s : State) (p : Nat) (m : Marker) : kept (standDown s p m) = kept s := by
  unfold standDown
  with_reducible repeat' first | rfl | refine Eq.trans (takeMarker_kept ..) ?_ | refine kept_ite ?_ ?_ | split |
    fail_if_no_progress refine Eq.trans (kept_mk _ _ _ _ _ _ _ _ _ _ _ _ _ _ _ _ _ _ _ _ _ _ _ _ _ _ _ rfl rfl) ?_

theorem takeover_kept (s : State) : kept (takeover s) = kept s := by
  unfold takeover
  (iterate 60 (all_goals try (first
      | intro _ | fail_if_no_progress beta_reduce | extract_lets -underBinder | with_reducible rfl | with_reducible assumption
      | with_reducible refine Eq.trans (kept_updLap _ _ rfl rfl) ?_ | with_reducible refine kept_ite ?_ ?_
      | fail_if_no_progress refine Eq.trans (kept_mk _ _ _ _ _ _ _ _ _ _ _ _ _ _ _ _ _ _ _ _ _ _ _ _ _ _ _ rfl rfl) ?_ | split
      | exact True.intro | dsimp +zetaDelta only)))
  all_goals done

theorem lapRefHoldover_kept (s : State) : kept (lapRefHoldover s) = kept s := by
  unfold lapRefHoldover
  with_reducible repeat' first | rfl | refine Eq.trans (raiseTimebase_kept ..) ?_ | refine kept_ite ?_ ?_ | split |
    fail_if_no_progress refine Eq.trans (kept_mk _ _ _ _ _ _ _ _ _ _ _ _ _ _ _ _ _ _ _ _ _ _ _ _ _ _ _ rfl rfl) ?_

theorem regionFailed_kept (s : State) (r : Nat) : kept (regionFailed s r) = kept s := by
  unfold regionFailed
  (iterate 60 (all_goals try (first
      | intro _ | fail_if_no_progress beta_reduce | extract_lets -underBinder | with_reducible rfl | with_reducible assumption
      | with_reducible refine Eq.trans (regionOut_kept (hcut := by first | assumption | exact fence_kept) ..) ?_
      | with_reducible refine Eq.trans (fence_kept ..) ?_ | with_reducible refine kept_ite ?_ ?_ | split | exact True.intro
      | dsimp +zetaDelta only)))
  all_goals done

theorem deadboltUnit_kept (s : State) (detail kind unit : Nat) : kept (deadboltUnit s detail kind unit) = kept s := by
  unfold deadboltUnit
  with_reducible repeat' first | rfl | refine Eq.trans (fence_kept ..) ?_ | refine Eq.trans (fenceBlock_kept ..) ?_ |
    refine Eq.trans (elect_kept ..) ?_ | refine Eq.trans (loseEngine_kept ..) ?_ | refine Eq.trans (regionFailed_kept ..) ?_ |
    refine Eq.trans (failPort_kept ..) ?_ | refine kept_ite ?_ ?_ | split

theorem deadboltCmd_kept (s : State) (detail kind unit : Nat) : kept (deadboltCmd s detail kind unit) = kept s := by
  unfold deadboltCmd
  with_reducible repeat' first | rfl | refine Eq.trans (fput_kept ..) ?_ | refine Eq.trans (deadboltUnit_kept ..) ?_ |
    refine Eq.trans (updPart_kept ..) ?_ | refine kept_ite ?_ ?_ | split

theorem cutComplete_kept (s : State) : kept (cutComplete s) = kept s := by
  unfold cutComplete
  with_reducible repeat' first | rfl | refine Eq.trans (fput_kept ..) ?_ | refine Eq.trans (updPart_kept ..) ?_ | split

theorem noResponse_kept (s : State) (u : PolledUnit) : kept (noResponse s u) = kept s := by
  unfold noResponse
  with_reducible repeat' first | rfl | refine Eq.trans (fence_kept ..) ?_ | refine Eq.trans (errBlock_kept ..) ?_ |
    refine Eq.trans (fenceBlock_kept ..) ?_ | refine Eq.trans (errRegion_kept ..) ?_ | refine Eq.trans (loseEngine_kept ..) ?_ |
    refine Eq.trans (regionFailed_kept ..) ?_ | refine Eq.trans (deadboltUnit_kept ..) ?_ | split

theorem missOne_kept (s : State) (u : PolledUnit) : kept (missOne s u) = kept s := by
  unfold missOne
  with_reducible repeat' first | intro _ | extract_lets -underBinder | rfl | refine Eq.trans (noResponse_kept ..) ?_ |
    refine Eq.trans (updPart_kept ..) ?_ | refine kept_ite ?_ ?_ | split

theorem checkBlock_kept (s : State) (u : PolledUnit) : kept (checkBlock s u) = kept s := by
  unfold checkBlock
  (iterate 60 (all_goals try (first
      | intro _ | fail_if_no_progress beta_reduce | extract_lets -underBinder | with_reducible rfl | with_reducible assumption
      | with_reducible refine Eq.trans (fenceBlock_kept ..) ?_ | with_reducible refine Eq.trans (errRegion_kept ..) ?_
      | with_reducible refine kept_ite ?_ ?_ | split | exact True.intro | dsimp +zetaDelta only)))
  all_goals done

theorem livenessPoll_kept (s : State) (u : PolledUnit) (answered : Bool) : kept (livenessPoll s u answered) = kept s := by
  unfold livenessPoll
  (iterate 60 (all_goals try (first
      | intro _ | fail_if_no_progress beta_reduce | extract_lets -underBinder | with_reducible rfl | with_reducible assumption
      | with_reducible refine Eq.trans (checkBlock_kept ..) ?_ | with_reducible refine Eq.trans (updPart_kept ..) ?_
      | with_reducible refine Eq.trans (missOne_kept ..) ?_ | with_reducible refine kept_ite ?_ ?_ | split | exact True.intro
      | dsimp +zetaDelta only)))
  all_goals done

theorem heartbeatMiss_kept (s : State) (u : PolledUnit) : kept (heartbeatMiss s u) = kept s := by
  unfold heartbeatMiss
  with_reducible repeat' first | rfl | refine Eq.trans (missOne_kept ..) ?_ | refine kept_ite ?_ ?_ | split

theorem selfTest_kept (s : State) (c : Nat) (failing : Option Nat) : kept (selfTest s c failing) = kept s := by
  unfold selfTest
  with_reducible repeat' first | rfl | refine Eq.trans (updCore_kept ..) ?_ | refine Eq.trans (fence_kept ..) ?_ |
    refine Eq.trans (errBlock_kept ..) ?_ | refine kept_ite ?_ ?_ | split

theorem updQueue_kept (s : State) (q : QueueId) (f : ErrQ → ErrQ) : kept (updQueue s q f) = kept s := by
  unfold updQueue
  with_reducible repeat' first | rfl | refine Eq.trans (updBlock_kept ..) ?_ | refine Eq.trans (updRegion_kept ..) ?_ |
    refine Eq.trans (updPart_kept ..) ?_ | split

theorem errqPop_kept (s : State) (q : QueueId) : kept (errqPop s q) = kept s := by
  unfold errqPop
  with_reducible repeat' first | rfl | refine Eq.trans (updQueue_kept ..) ?_ | refine kept_ite ?_ ?_ | split

theorem resetRegion_kept (s : State) (r : Nat) : kept (resetRegion s r) = kept s := rfl

theorem partRegionReset_kept (s : State) (detail r : Nat) : kept (partRegionReset s detail r) = kept s := by
  unfold partRegionReset
  with_reducible repeat' first | rfl | refine Eq.trans (resetRegion_kept ..) ?_ | refine Eq.trans (elect_kept ..) ?_ |
    refine Eq.trans (fence_kept ..) ?_ | refine kept_ite ?_ ?_ | split

theorem resetComplete_kept (s : State) (r : Nat) (passed : Bool) : kept (resetComplete s r passed) = kept s := by
  unfold resetComplete
  with_reducible repeat' first | rfl | refine Eq.trans (updRegion_kept ..) ?_ | refine kept_ite ?_ ?_ | split

theorem dropBridge_kept (s : State) (b st : Nat) : kept (dropBridge s b st) = kept s := by
  unfold dropBridge
  with_reducible repeat' first | intro _ | extract_lets -underBinder | rfl | refine Eq.trans (fput_kept ..) ?_ |
    refine Eq.trans (regionFailed_kept ..) ?_ | refine Eq.trans (kept_foldl _ _ _ ?_) ?_ | split

theorem bridgeFailed_kept (s : State) (b : Nat) : kept (bridgeFailed s b) = kept s := by
  unfold bridgeFailed
  with_reducible repeat' first | rfl | refine Eq.trans (fbump_kept ..) ?_ | refine Eq.trans (dropBridge_kept ..) ?_ |
    refine Eq.trans (errPart_kept ..) ?_ | refine kept_ite ?_ ?_ | split

theorem bridgeEnable_kept (s : State) (on : Bool) : kept (bridgeEnable s on) = kept s := by
  unfold bridgeEnable
  with_reducible repeat' first | intro _ | extract_lets -underBinder | rfl | refine Eq.trans (fput_kept ..) ?_ |
    refine Eq.trans (dropBridge_kept ..) ?_ | refine kept_ite ?_ ?_ | split

theorem sensorSample_kept (s : State) (r i : Nat) (degrees : ℤ) : kept (sensorSample s r i degrees) = kept s := by
  unfold sensorSample
  with_reducible repeat' first | intro _ | extract_lets -underBinder | rfl | refine Eq.trans (updRegion_kept ..) ?_ |
    refine Eq.trans (updPart_kept ..) ?_ | refine kept_ite ?_ ?_ | split |
    fail_if_no_progress refine Eq.trans (kept_mk _ _ _ _ _ _ _ _ _ _ _ _ _ _ _ _ _ _ _ _ _ _ _ _ _ _ _ rfl rfl) ?_

theorem flashReady_kept (s : State) (port width rate : Nat) : kept (flashReady s port width rate) = kept s := by
  unfold flashReady
  with_reducible repeat' first | rfl | refine Eq.trans (fput_kept ..) ?_ | refine kept_ite ?_ ?_ | split

theorem giveSegment_kept (s : State) (x : TrkRec) : kept (giveSegment s x) = kept s := by
  unfold giveSegment
  (iterate 60 (all_goals try (first
      | intro _ | fail_if_no_progress beta_reduce | extract_lets -underBinder | with_reducible rfl | with_reducible assumption
      | with_reducible refine Eq.trans (writeOwner_kept ..) ?_ | with_reducible refine Eq.trans (writeExchange_kept ..) ?_
      | with_reducible refine Eq.trans (writeResend_kept ..) ?_ | with_reducible refine Eq.trans (readOwner_kept ..) ?_
      | with_reducible refine Eq.trans (readReply_kept ..) ?_ | with_reducible refine Eq.trans (ledgerIn_kept ..) ?_
      | with_reducible refine Eq.trans (signalFlit_kept ..) ?_ | with_reducible refine kept_ite ?_ ?_ | split | exact True.intro
      | dsimp +zetaDelta only)))
  all_goals done

theorem giveControl_kept (s : State) (x : TrkRec) : kept (giveControl s x) = kept s := by
  unfold giveControl
  (iterate 60 (all_goals try (first
      | intro _ | fail_if_no_progress beta_reduce | extract_lets -underBinder | with_reducible rfl | with_reducible assumption
      | with_reducible refine Eq.trans (lapClean_kept ..) ?_ | with_reducible refine Eq.trans (confirmRec_kept ..) ?_
      | with_reducible refine Eq.trans (offerIn_kept ..) ?_ | with_reducible refine Eq.trans (declineIn_kept ..) ?_
      | with_reducible refine Eq.trans (noRoute_kept ..) ?_ | with_reducible refine kept_ite ?_ ?_ | split | exact True.intro
      | dsimp +zetaDelta only)))
  all_goals done

end Sys2Proof.Machine
end

