-- ==== Sys2Proof/Laws/KeptRegs.lean ====
section
/-! SUPPORT. What the functions over register access, boot and the sideband port leave alone. -/

set_option linter.unusedTactic false
set_option linter.unreachableTactic false

namespace Sys2Proof.Machine

theorem voteRead_kept (u copy : Nat) (fs : List Fld) (s : State) : kept (voteRead u copy fs s) = kept s := by
  unfold voteRead
  with_reducible repeat' first | intro _ | fail_if_no_progress beta_reduce | extract_lets -underBinder |
    fail_if_no_progress refine Eq.trans (kept_fst _ _) ?_ | fail_if_no_progress refine Eq.trans (kept_snd _ _) ?_ |
    fail_if_no_progress refine Eq.trans (kept_dec _ _ _ _) ?_ | rfl | refine Eq.trans (voteField_kept ..) ?_ | refine kept_ite ?_ ?_ |
    refine Eq.trans (kept_foldl _ _ _ ?_) ?_ | split

theorem latchLapHi_kept (s : State) : kept (latchLapHi s) = kept s := rfl

theorem measAdvance_kept (s : State) : kept (measAdvance s) = kept s := rfl

theorem regRead_kept (s : State) (sp : Space) (u off copy : Nat) : kept (regRead s sp u off copy).2 = kept s := by
  unfold regRead
  with_reducible repeat' first | rfl | refine Eq.trans (latchLapHi_kept ..) ?_ | refine Eq.trans (dumpNext_kept' (by exact rfl)) ?_ |
    (have hk := dumpNext_kept' (by assumption); refine Eq.trans hk ?_; clear hk) | refine Eq.trans (measAdvance_kept ..) ?_ |
    refine Eq.trans (voteRead_kept ..) ?_ | refine kept_snd_ite ?_ ?_ | split

theorem regRead_kept' {s : State} {sp : Space} {u off copy : Nat} {resu} (h : regRead s sp u off copy = resu) : kept resu.2 = kept s := h ▸ regRead_kept s sp u off copy

theorem rejectField_kept (s : State) (f : Fld) (u sel : Nat) : kept (rejectField s f u sel) = kept s := by
  unfold rejectField
  with_reducible repeat' first | rfl | refine Eq.trans (fput_kept ..) ?_ | split

theorem putField_kept (s : State) (f : Fld) (u sel v : Nat) : kept (putField s f u sel v) = kept s := by
  unfold putField
  with_reducible repeat' first | intro _ | extract_lets -underBinder | rfl | refine Eq.trans (updCore_kept ..) ?_ |
    refine Eq.trans (fput_kept ..) ?_ | refine kept_ite ?_ ?_ | split |
    fail_if_no_progress refine Eq.trans (kept_mk _ _ _ _ _ _ _ _ _ _ _ _ _ _ _ _ _ _ _ _ _ _ _ _ _ _ _ rfl rfl) ?_

theorem writeField_kept (s0 : State) (u copy value : Nat) (r : State × Bool) (f : Fld) :
    kept (writeField s0 u copy value r f).1 = kept r.1 := by
  unfold writeField
  (iterate 60 (all_goals try (first
      | intro _ | fail_if_no_progress beta_reduce | extract_lets -underBinder | with_reducible rfl | exact True.intro | assumption
      | with_reducible refine Eq.trans (fput_kept ..) ?_ | with_reducible refine Eq.trans (updQueue_kept ..) ?_
      | with_reducible refine Eq.trans (rejectField_kept ..) ?_ | with_reducible refine Eq.trans (putField_kept ..) ?_
      | with_reducible refine kept_ite ?_ ?_ | with_reducible refine kept_fst_ite ?_ ?_ | split | dsimp +zetaDelta only)))
  all_goals done

theorem writeField_kept' {s0 : State} {u copy value : Nat} {r : State × Bool} {f : Fld} {resu} (h : writeField s0 u copy value r f = resu) : kept resu.1 = kept r.1 := h ▸ writeField_kept s0 u copy value r f

theorem ringEnable_kept (s : State) (sel : Nat) (on : Bool) : kept (ringEnable s sel on) = kept s := by
  unfold ringEnable
  (iterate 60 (all_goals try (first
      | intro _ | fail_if_no_progress beta_reduce | extract_lets -underBinder | with_reducible rfl | with_reducible assumption
      | with_reducible refine Eq.trans (fput_kept ..) ?_ | with_reducible refine Eq.trans (hostFetch_kept ..) ?_
      | with_reducible refine Eq.trans (setRingIndex_kept ..) ?_ | with_reducible refine Eq.trans (ringFault_kept ..) ?_
      | with_reducible refine Eq.trans (writeHead_kept ..) ?_ | with_reducible refine Eq.trans (dropCpls_kept ..) ?_
      | with_reducible refine Eq.trans (updHost_kept ..) ?_ | with_reducible refine kept_ite ?_ ?_ | split | exact True.intro
      | dsimp +zetaDelta only)))
  all_goals done

theorem enablePorts_kept (s : State) : kept (enablePorts s) = kept s := by
  unfold enablePorts
  (iterate 60 (all_goals try (first
      | intro _ | fail_if_no_progress beta_reduce | extract_lets -underBinder | with_reducible rfl | with_reducible assumption
      | with_reducible refine Eq.trans (portEnable_kept ..) ?_ | with_reducible refine kept_ite ?_ ?_
      | refine Eq.trans (kept_foldl _ _ _ ?_) ?_ | split | exact True.intro | dsimp +zetaDelta only)))
  all_goals done

theorem serviceWrite_kept (s : State) (v : Nat) : kept (serviceWrite s v).1 = kept s := by
  unfold serviceWrite
  (iterate 60 (all_goals try (first
      | intro _ | fail_if_no_progress beta_reduce | extract_lets -underBinder | with_reducible rfl | with_reducible assumption
      | with_reducible refine Eq.trans (fput_kept ..) ?_ | with_reducible refine Eq.trans (enablePorts_kept ..) ?_
      | with_reducible refine Eq.trans (kept_updLap _ _ rfl rfl) ?_ | with_reducible refine kept_ite ?_ ?_
      | with_reducible refine kept_fst_ite ?_ ?_ | with_reducible refine kept_snd_ite ?_ ?_ | split | exact True.intro
      | dsimp +zetaDelta only)))
  all_goals done

theorem serviceWrite_kept' {s : State} {v : Nat} {resu} (h : serviceWrite s v = resu) : kept resu.1 = kept s := h ▸ serviceWrite_kept s v

theorem dmaCtrl_kept (s : State) (e : DmaEng) (v : Nat) : kept (dmaCtrl s e v) = kept s := by
  unfold dmaCtrl
  with_reducible repeat' first | intro _ | extract_lets -underBinder | rfl | refine Eq.trans (dmaResume_kept ..) ?_ |
    refine Eq.trans (abortChan_kept ..) ?_ | refine kept_ite ?_ ?_ | split

theorem partAct_kept (s : State) (who : Requester) (off v : Nat) : kept (partAct s who off v) = kept s := by
  unfold partAct
  with_reducible repeat' first | rfl | refine Eq.trans (ownUpdate_kept ..) ?_ | refine Eq.trans (dumpCancel_kept ..) ?_ |
    refine Eq.trans (dumpStart_kept ..) ?_ | refine Eq.trans (deadboltCmd_kept ..) ?_ | refine Eq.trans (partRegionReset_kept ..) ?_ |
    refine Eq.trans (errqPop_kept ..) ?_ | refine Eq.trans (snapRestore_kept ..) ?_ | refine Eq.trans (snapRequest_kept ..) ?_ |
    refine Eq.trans (streamsLoad_kept ..) ?_ | refine Eq.trans (snapPush_kept ..) ?_ | refine Eq.trans (trkEnable_kept ..) ?_ |
    refine Eq.trans (trkTrigger_kept ..) ?_ | refine Eq.trans (trkRelease_kept ..) ?_ | refine Eq.trans (trkExport_kept ..) ?_ |
    refine Eq.trans (trkImport_kept ..) ?_ | refine Eq.trans (bridgeEnable_kept ..) ?_ | refine kept_ite ?_ ?_ | split |
    fail_if_no_progress refine Eq.trans (kept_mk _ _ _ _ _ _ _ _ _ _ _ _ _ _ _ _ _ _ _ _ _ _ _ _ _ _ _ rfl rfl) ?_

theorem regAct_kept (s0 s : State) (who : Requester) (sp : Space) (u off v : Nat) : kept (regAct s0 s who sp u off v).1 = kept s := by
  unfold regAct
  (iterate 60 (all_goals try (first
      | intro _ | fail_if_no_progress beta_reduce | extract_lets -underBinder | with_reducible rfl | with_reducible assumption
      | with_reducible refine Eq.trans (nudge_kept ..) ?_ | with_reducible refine Eq.trans (ringEnable_kept ..) ?_
      | with_reducible refine Eq.trans (serviceWrite_kept' rfl) ?_
      | (have hk := serviceWrite_kept' (by assumption); refine Eq.trans hk ?_; clear hk)
      | with_reducible refine Eq.trans (partAct_kept ..) ?_ | with_reducible refine Eq.trans (dmaTail_kept ..) ?_
      | with_reducible refine Eq.trans (dmaCtrl_kept ..) ?_ | with_reducible refine Eq.trans (tumSet_kept ..) ?_
      | with_reducible refine Eq.trans (errqPop_kept ..) ?_ | with_reducible refine Eq.trans (sbEntryWrite_kept ..) ?_
      | with_reducible refine Eq.trans (bsConfClear_kept ..) ?_ | with_reducible refine Eq.trans (haltClear_kept ..) ?_
      | with_reducible refine Eq.trans (forceHalt_kept ..) ?_ | with_reducible refine Eq.trans (oobClear_kept ..) ?_
      | with_reducible refine Eq.trans (engineReset_kept ..) ?_ | with_reducible refine Eq.trans (coverStarts_kept ..) ?_
      | with_reducible refine Eq.trans (portEnable_kept ..) ?_ | with_reducible refine Eq.trans (retrainPort_kept ..) ?_
      | with_reducible refine kept_ite ?_ ?_ | with_reducible refine kept_fst_ite ?_ ?_ | with_reducible refine kept_snd_ite ?_ ?_ | split
      | exact True.intro | dsimp +zetaDelta only)))
  all_goals done

theorem regAct_kept' {s0 s : State} {who : Requester} {sp : Space} {u off v : Nat} {resu}
    (h : regAct s0 s who sp u off v = resu) : kept resu.1 = kept s :=
  h ▸ regAct_kept s0 s who sp u off v

theorem regWrite_kept (s : State) (who : Requester) (sp : Space) (u off v : Nat) : kept (regWrite s who sp u off v).1 = kept s := by
  unfold regWrite
  (iterate 60 (all_goals try (first
      | intro _ | fail_if_no_progress beta_reduce | extract_lets -underBinder | with_reducible rfl | exact True.intro | assumption
      | with_reducible refine Eq.trans (writeField_kept' rfl) ?_ | with_reducible refine Eq.trans (regAct_kept' rfl) ?_
      | (have hk := writeField_kept' (by assumption); refine Eq.trans hk ?_; clear hk)
      | (have hk := regAct_kept' (by assumption); refine Eq.trans hk ?_; clear hk) | with_reducible refine kept_fst_ite ?_ ?_
      | with_reducible refine Eq.trans (kept_foldlPair _ _ _ ?_) ?_ | split | dsimp +zetaDelta only)))
  all_goals done

theorem regWrite_kept' {s : State} {who : Requester} {sp : Space} {u off v : Nat} {resu} (h : regWrite s who sp u off v = resu) : kept resu.1 = kept s := h ▸ regWrite_kept s who sp u off v

theorem updInd_kept (s : State) (r copy : Nat) (f : IndCopy → IndCopy) : kept (updInd s r copy f) = kept s := rfl

theorem indFlag_kept (s : State) (who : Requester) (r : Nat) (f : Fld) : kept (indFlag s who r f) = kept s := rfl

theorem indAdvance_kept (s : State) (who : Requester) (r n : Nat) : kept (indAdvance s who r n) = kept s := by
  unfold indAdvance
  with_reducible repeat' first | rfl | refine Eq.trans (fput_kept ..) ?_ | refine kept_ite ?_ ?_ | split

theorem indPeek_kept (s : State) (who : Requester) (r target o : Nat) :
    kept (indPeek s who r target o).2 = kept s := by
  unfold indPeek
  (iterate 60 (all_goals try (first
      | intro _ | fail_if_no_progress beta_reduce | extract_lets -underBinder | with_reducible rfl | exact True.intro | assumption
      | with_reducible refine Eq.trans (regRead_kept' rfl) ?_
      | (have hk := regRead_kept' (by assumption); refine Eq.trans hk ?_; clear hk)
      | with_reducible refine Eq.trans (readSystem_kept ..) ?_ | with_reducible refine Eq.trans (drawFree_kept' rfl) ?_
      | (have hk := drawFree_kept' (by assumption); refine Eq.trans hk ?_; clear hk) | with_reducible refine kept_ite ?_ ?_
      | with_reducible refine kept_snd_ite ?_ ?_ | split | dsimp +zetaDelta only)))
  all_goals done

theorem indPeek_kept' {s : State} {who : Requester} {r target o : Nat} {resu} (h : indPeek s who r target o = resu) : kept resu.2 = kept s := h ▸ indPeek_kept s who r target o

theorem indRead_kept (s : State) (who : Requester) (r : Nat) : kept (indRead s who r).2 = kept s := by
  unfold indRead
  with_reducible repeat' first | intro _ | extract_lets -underBinder | rfl | refine Eq.trans (indFlag_kept ..) ?_ |
    refine Eq.trans (indPeek_kept' (by exact rfl)) ?_ | (have hk := indPeek_kept' (by assumption); refine Eq.trans hk ?_; clear hk) |
    refine Eq.trans (indAdvance_kept ..) ?_ | refine kept_snd_ite ?_ ?_ | split

theorem indRead_kept' {s : State} {who : Requester} {r : Nat} {resu} (h : indRead s who r = resu) : kept resu.2 = kept s := h ▸ indRead_kept s who r

theorem writeStream_kept (s : State) (who : Requester) (r o v : Nat) : kept (writeStream s who r o v) = kept s := by
  unfold writeStream
  (iterate 60 (all_goals try (first
      | intro _ | fail_if_no_progress beta_reduce | extract_lets -underBinder | with_reducible rfl | exact True.intro | assumption
      | with_reducible refine Eq.trans (updInd_kept ..) ?_ | with_reducible refine Eq.trans (takeStream_kept' rfl) ?_
      | with_reducible refine Eq.trans (indFlag_kept ..) ?_
      | (have hk := takeStream_kept' (by assumption); refine Eq.trans hk ?_; clear hk) | with_reducible refine kept_ite ?_ ?_ | split
      | dsimp +zetaDelta only)))
  all_goals done

theorem writeEnergy_kept (s : State) (who : Requester) (r o v : Nat) : kept (writeEnergy s who r o v) = kept s := by
  unfold writeEnergy
  with_reducible repeat' first | intro _ | extract_lets -underBinder | rfl | refine Eq.trans (updInd_kept ..) ?_ |
    refine Eq.trans (updPart_kept ..) ?_ | refine kept_ite ?_ ?_ | split

theorem indPoke_kept (s : State) (who : Requester) (r target : Nat) (o v : Nat) : kept (indPoke s who r target o v).1 = kept s := by
  unfold indPoke
  (iterate 60 (all_goals try (first
      | intro _ | fail_if_no_progress beta_reduce | extract_lets -underBinder | with_reducible rfl | exact True.intro | assumption
      | with_reducible refine Eq.trans (regWrite_kept' rfl) ?_ | with_reducible refine Eq.trans (writeEnergy_kept ..) ?_
      | with_reducible refine Eq.trans (writeStream_kept ..) ?_ | with_reducible refine Eq.trans (updInd_kept ..) ?_
      | with_reducible refine Eq.trans (ptPost_kept ..) ?_
      | (have hk := regWrite_kept' (by assumption); refine Eq.trans hk ?_; clear hk) | with_reducible refine kept_fst_ite ?_ ?_ | split
      | dsimp +zetaDelta only)))
  all_goals done

theorem indPoke_kept' {s : State} {who : Requester} {r target : Nat} {o v : Nat} {resu} (h : indPoke s who r target o v = resu) : kept resu.1 = kept s := h ▸ indPoke_kept s who r target o v

theorem indWrite_kept (s : State) (who : Requester) (r v : Nat) : kept (indWrite s who r v).1 = kept s := by
  unfold indWrite
  with_reducible repeat' first | intro _ | extract_lets -underBinder | rfl | refine Eq.trans (indFlag_kept ..) ?_ |
    refine Eq.trans (indPoke_kept' (by exact rfl)) ?_ | (have hk := indPoke_kept' (by assumption); refine Eq.trans hk ?_; clear hk) |
    refine Eq.trans (indAdvance_kept ..) ?_ | refine kept_fst_ite ?_ ?_ | split

theorem indWrite_kept' {s : State} {who : Requester} {r v : Nat} {resu} (h : indWrite s who r v = resu) : kept resu.1 = kept s := h ▸ indWrite_kept s who r v

theorem indTimeout_kept (s : State) (who : Requester) (r : Nat) (write : Bool) : kept (indTimeout s who r write) = kept s := by
  unfold indTimeout
  with_reducible repeat' first | rfl | refine Eq.trans (indFlag_kept ..) ?_ | refine Eq.trans (indAdvance_kept ..) ?_ |
    refine Eq.trans (emit_kept ..) ?_ | refine kept_ite ?_ ?_ | split

theorem putAt_kept (s : State) (who : Requester) (o v : Nat) : kept (putAt s who o v).1 = kept s := by
  unfold putAt
  with_reducible repeat' first | rfl | refine Eq.trans (indWrite_kept' (by exact rfl)) ?_ |
    (have hk := indWrite_kept' (by assumption); refine Eq.trans hk ?_; clear hk) | refine Eq.trans (regWrite_kept' (by exact rfl)) ?_ |
    (have hk := regWrite_kept' (by assumption); refine Eq.trans hk ?_; clear hk) | refine kept_fst_ite ?_ ?_ | split

theorem putAt_kept' {s : State} {who : Requester} {o v : Nat} {resu} (h : putAt s who o v = resu) : kept resu.1 = kept s := h ▸ putAt_kept s who o v

theorem registerWrite_kept (s : State) (who : Requester) (o v size : Nat) : kept (registerWrite s who o v size) = kept s := by
  unfold registerWrite
  (iterate 60 (all_goals try (first
      | intro _ | fail_if_no_progress beta_reduce | extract_lets -underBinder | with_reducible rfl | with_reducible assumption
      | with_reducible refine Eq.trans (indWrite_kept' rfl) ?_
      | (have hk := indWrite_kept' (by assumption); refine Eq.trans hk ?_; clear hk) | with_reducible refine Eq.trans (emit_kept ..) ?_
      | with_reducible refine Eq.trans (bar4Write_kept ..) ?_ | with_reducible refine Eq.trans (errPart_kept ..) ?_
      | with_reducible refine Eq.trans (putAt_kept' rfl) ?_ | (have hk := putAt_kept' (by assumption); refine Eq.trans hk ?_; clear hk)
      | with_reducible refine Eq.trans (driverWrite_kept ..) ?_ | with_reducible refine kept_ite ?_ ?_ | split | exact True.intro
      | dsimp +zetaDelta only)))
  all_goals done

theorem selectRing_kept (s : State) (ring side : Nat) : kept (selectRing s ring side) = kept s := rfl

theorem ringCfgWrite_kept (s : State) (side : Bool) (ring v : Nat) : kept (ringCfgWrite s side ring v) = kept s := by
  unfold ringCfgWrite
  (iterate 60 (all_goals try (first
      | intro _ | fail_if_no_progress beta_reduce | extract_lets -underBinder | with_reducible rfl | with_reducible assumption
      | with_reducible refine Eq.trans (registerWrite_kept ..) ?_ | with_reducible refine Eq.trans (selectRing_kept ..) ?_
      | with_reducible refine kept_ite ?_ ?_ | split | exact True.intro | dsimp +zetaDelta only)))
  all_goals done

theorem setPhase_kept (s : State) (v : Nat) : kept (setPhase s v) = kept s := rfl

theorem bootFail_kept (s : State) (reason : Nat) : kept (bootFail s reason) = kept s := rfl

theorem securityEvent_kept (s : State) (what : Nat) : kept (securityEvent s what) = kept s := by
  unfold securityEvent
  with_reducible repeat' first | rfl | refine Eq.trans (errPart_kept ..) ?_ | split

theorem setMeas_kept (s : State) (i v : Nat) : kept (setMeas s i v) = kept s := rfl

theorem measLists_kept (s : State) : kept (measLists s) = kept s := rfl

theorem measDebug_kept (s : State) : kept (measDebug s) = kept s := rfl

theorem releaseFlash_kept (s : State) : kept (releaseFlash s) = kept s := by
  unfold releaseFlash
  (iterate 60 (all_goals try (first
      | intro _ | fail_if_no_progress beta_reduce | extract_lets -underBinder | with_reducible rfl | with_reducible assumption
      | with_reducible refine kept_ite ?_ ?_
      | fail_if_no_progress refine Eq.trans (kept_mk _ _ _ _ _ _ _ _ _ _ _ _ _ _ _ _ _ _ _ _ _ _ _ _ _ _ _ rfl rfl) ?_ | split
      | exact True.intro | dsimp +zetaDelta only)))
  all_goals done

theorem startLists_kept (s : State) : kept (startLists s) = kept s := by
  unfold startLists
  (iterate 60 (all_goals try (first
      | intro _ | fail_if_no_progress beta_reduce | extract_lets -underBinder | with_reducible rfl | with_reducible assumption
      | with_reducible refine Eq.trans (notify_kept ..) ?_ | with_reducible refine Eq.trans (setPhase_kept ..) ?_
      | with_reducible refine Eq.trans (elect_kept ..) ?_ | with_reducible refine Eq.trans (releaseFlash_kept ..) ?_
      | with_reducible refine Eq.trans (bootFail_kept ..) ?_ | with_reducible refine kept_ite ?_ ?_ | split | exact True.intro
      | dsimp +zetaDelta only)))
  all_goals done

theorem idle_kept (s : State) : kept (idle s) = kept s := by
  unfold idle
  (iterate 60 (all_goals try (first
      | intro _ | fail_if_no_progress beta_reduce | extract_lets -underBinder | with_reducible rfl | with_reducible assumption
      | with_reducible refine Eq.trans (setPhase_kept ..) ?_ | with_reducible refine kept_ite ?_ ?_ | split | exact True.intro
      | dsimp +zetaDelta only)))
  all_goals done

theorem fwTake_kept (s : State) (slotB : Bool) (h : FwHeader) : kept (fwTake s slotB h) = kept s := by
  unfold fwTake
  with_reducible repeat' first | rfl | refine Eq.trans (setMeas_kept ..) ?_ | refine Eq.trans (startLists_kept ..) ?_ |
    refine Eq.trans (fput_kept ..) ?_ | split |
    fail_if_no_progress refine Eq.trans (kept_mk _ _ _ _ _ _ _ _ _ _ _ _ _ _ _ _ _ _ _ _ _ _ _ _ _ _ _ rfl rfl) ?_

theorem firmwareVerified_kept (s : State) (slotB romOk : Bool) : kept (firmwareVerified s slotB romOk) = kept s := by
  unfold firmwareVerified
  with_reducible repeat' first | rfl | refine Eq.trans (setPhase_kept ..) ?_ | refine Eq.trans (bootFail_kept ..) ?_ |
    refine Eq.trans (fwTake_kept ..) ?_ | refine Eq.trans (securityEvent_kept ..) ?_ | refine kept_ite ?_ ?_ | split

theorem markOos_kept (s : State) (u units : Nat) : kept (markOos s u units) = kept s := rfl

theorem builtInTest_kept (s : State) (failed : List (Nat × Nat)) (regions : List Nat) : kept (builtInTest s failed regions) = kept s := by
  unfold builtInTest
  (iterate 60 (all_goals try (first
      | intro _ | fail_if_no_progress beta_reduce | extract_lets -underBinder | with_reducible rfl | with_reducible assumption
      | with_reducible refine Eq.trans (setPhase_kept ..) ?_ | with_reducible refine Eq.trans (markOos_kept ..) ?_
      | with_reducible refine Eq.trans (failPc_kept ..) ?_ | with_reducible refine Eq.trans (updRegion_kept ..) ?_
      | with_reducible refine Eq.trans (startLists_kept ..) ?_ | with_reducible refine kept_ite ?_ ?_
      | refine Eq.trans (kept_foldl _ _ _ ?_) ?_ | refine Eq.trans (kept_foldlPair _ _ _ ?_) ?_
      | fail_if_no_progress refine Eq.trans (kept_mk _ _ _ _ _ _ _ _ _ _ _ _ _ _ _ _ _ _ _ _ _ _ _ _ _ _ _ rfl rfl) ?_ | split
      | exact True.intro | dsimp +zetaDelta only)))
  all_goals done

theorem applyRecord_kept (s : State) (w : Nat) : kept (applyRecord s w).1 = kept s := by
  unfold applyRecord
  with_reducible repeat' first | intro _ | extract_lets -underBinder | rfl | refine Eq.trans (putAt_kept' (by exact rfl)) ?_ |
    (have hk := putAt_kept' (by assumption); refine Eq.trans hk ?_; clear hk) | refine Eq.trans (indPoke_kept' (by exact rfl)) ?_ |
    (have hk := indPoke_kept' (by assumption); refine Eq.trans hk ?_; clear hk) | refine kept_fst_ite ?_ ?_ | split

theorem applyRecord_kept' {s : State} {w : Nat} {resu} (h : applyRecord s w = resu) : kept resu.1 = kept s := h ▸ applyRecord_kept s w

theorem applyRecords_kept (x0 : List Nat) (x1 : Nat) (x2 : State) : kept (applyRecords x0 x1 x2).1 = kept x2 := by
  fun_induction applyRecords x0 x1 x2 <;>
  with_reducible repeat' first | assumption | rfl | refine Eq.trans (applyRecord_kept' (by exact rfl)) ?_ |
    (have hk := applyRecord_kept' (by assumption); refine Eq.trans hk ?_; clear hk) | refine Eq.trans (by assumption) ?_ | split

theorem applyRecords_kept' {x0 : List Nat} {x1 : Nat} {x2 : State} {resu} (h : applyRecords x0 x1 x2 = resu) : kept resu.1 = kept x2 := h ▸ applyRecords_kept x0 x1 x2

theorem resetRegisters_kept (s : State) : kept (resetRegisters s) = kept s := rfl

theorem fallBack_kept (s : State) (reason : Nat) : kept (fallBack s reason) = kept s := by
  unfold fallBack
  (iterate 60 (all_goals try (first
      | intro _ | fail_if_no_progress beta_reduce | extract_lets -underBinder | with_reducible rfl | exact True.intro | assumption
      | with_reducible refine Eq.trans (fput_kept ..) ?_ | with_reducible refine Eq.trans (setMeas_kept ..) ?_
      | with_reducible refine Eq.trans (applyRecords_kept' rfl) ?_ | with_reducible refine Eq.trans (bootFail_kept ..) ?_
      | (have hk := applyRecords_kept' (by assumption); refine Eq.trans hk ?_; clear hk) | with_reducible refine kept_ite ?_ ?_ | split
      | dsimp +zetaDelta only)))
  all_goals done

theorem configure_kept (s : State) : kept (configure s) = kept s := by
  unfold configure
  with_reducible repeat' first | intro _ | extract_lets -underBinder | rfl | refine Eq.trans (securityEvent_kept ..) ?_ |
    refine Eq.trans (fallBack_kept ..) ?_ | refine Eq.trans (applyRecords_kept' (by exact rfl)) ?_ |
    (have hk := applyRecords_kept' (by assumption); refine Eq.trans hk ?_; clear hk) | refine Eq.trans (setMeas_kept ..) ?_ |
    refine Eq.trans (fput_kept ..) ?_ | refine Eq.trans (resetRegisters_kept ..) ?_ | refine kept_ite ?_ ?_ | split

theorem markDead_kept (s : State) (kind unit : Nat) :
    kept (markDead s kind unit) = kept s := by
  unfold markDead
  (iterate 60 (all_goals try (first
      | intro _ | fail_if_no_progress beta_reduce | extract_lets -underBinder | with_reducible rfl | exact True.intro | assumption
      | with_reducible refine Eq.trans (updCore_kept ..) ?_ | with_reducible refine Eq.trans (updBlock_kept ..) ?_
      | with_reducible refine Eq.trans (elect_kept ..) ?_ | with_reducible refine Eq.trans (updRegion_kept ..) ?_
      | with_reducible refine Eq.trans (regionFailed_kept ..) ?_ | with_reducible refine Eq.trans (updPart_kept ..) ?_
      | with_reducible refine kept_ite ?_ ?_ | split | dsimp +zetaDelta only)))
  all_goals done

theorem listRetired_kept (s : State) (r f : Nat) : kept (listRetired s r f) = kept s := by
  unfold listRetired
  (iterate 60 (all_goals try (first
      | intro _ | fail_if_no_progress beta_reduce | extract_lets -underBinder | with_reducible rfl | with_reducible assumption
      | with_reducible refine Eq.trans (updRegion_kept ..) ?_ | with_reducible refine Eq.trans (errRegion_kept ..) ?_
      | with_reducible refine Eq.trans (fput_kept ..) ?_ | with_reducible refine kept_ite ?_ ?_ | split | exact True.intro
      | dsimp +zetaDelta only)))
  all_goals done

theorem applyEntry_kept (s : State) (w : Nat) :
    kept (applyEntry s w) = kept s := by
  unfold applyEntry
  (iterate 60 (all_goals try (first
      | intro _ | fail_if_no_progress beta_reduce | extract_lets -underBinder | with_reducible rfl | exact True.intro | assumption
      | with_reducible refine Eq.trans (listRetired_kept ..) ?_ | with_reducible refine Eq.trans (markDead_kept ..) ?_
      | with_reducible refine kept_ite ?_ ?_ | split | dsimp +zetaDelta only)))
  all_goals done

theorem signAlias_kept (s : State) : kept (signAlias s) = kept s := by
  unfold signAlias
  (iterate 60 (all_goals try (first
      | intro _ | fail_if_no_progress beta_reduce | extract_lets -underBinder | with_reducible rfl | with_reducible assumption
      | with_reducible refine kept_ite ?_ ?_
      | fail_if_no_progress refine Eq.trans (kept_mk _ _ _ _ _ _ _ _ _ _ _ _ _ _ _ _ _ _ _ _ _ _ _ _ _ _ _ rfl rfl) ?_ | split
      | exact True.intro | dsimp +zetaDelta only)))
  all_goals done

theorem answer_kept (s : State) (tag code : Nat) (data : List Nat) : kept (answer s tag code data) = kept s := rfl

theorem sideInput_kept (s : State) (cmd tag : Nat) (operands : Bytes) : kept (sideInput s cmd tag operands) = kept s := by
  unfold sideInput
  with_reducible repeat' first | rfl | refine Eq.trans (trkInput_kept ..) ?_ | split

theorem sideCommand_kept (s : State) (cmd tag : Nat) (operands : Bytes) (act : State → State) (ho : ∀ t, kept (act t) = kept t) :
    kept (sideCommand s cmd tag operands act) = kept s := by
  unfold sideCommand
  with_reducible repeat' first | rfl | refine Eq.trans (ho ..) ?_ | refine Eq.trans (sideInput_kept ..) ?_ |
    refine Eq.trans (answer_kept ..) ?_ | refine kept_ite ?_ ?_ | split

theorem sideWord_kept (s : State) (o : Nat) : kept (sideWord s o).2 = kept s := by
  unfold sideWord
  with_reducible repeat' first | rfl | refine Eq.trans (indRead_kept' (by exact rfl)) ?_ |
    (have hk := indRead_kept' (by assumption); refine Eq.trans hk ?_; clear hk) | refine Eq.trans (regRead_kept' (by exact rfl)) ?_ |
    (have hk := regRead_kept' (by assumption); refine Eq.trans hk ?_; clear hk) | refine kept_snd_ite ?_ ?_ | split

theorem sideWord_kept' {s : State} {o : Nat} {resu} (h : sideWord s o = resu) : kept resu.2 = kept s := h ▸ sideWord_kept s o

theorem sideWords_kept (x0 x1 : Nat) (x2 : State) : kept (sideWords x0 x1 x2).2 = kept x2 := by
  fun_induction sideWords x0 x1 x2 <;>
  with_reducible repeat' first | assumption | rfl | refine Eq.trans (sideWord_kept' (by exact rfl)) ?_ |
    (have hk := sideWord_kept' (by assumption); refine Eq.trans hk ?_; clear hk) | refine Eq.trans (by assumption) ?_ | split

theorem sideWords_kept' {x0 x1 : Nat} {x2 : State} {resu} (h : sideWords x0 x1 x2 = resu) : kept resu.2 = kept x2 := h ▸ sideWords_kept x0 x1 x2

theorem regReadCmd_kept (s : State) (o n tag : Nat) : kept (regReadCmd s o n tag) = kept s := by
  unfold regReadCmd
  with_reducible repeat' first | intro _ | extract_lets -underBinder | rfl | refine Eq.trans (answer_kept ..) ?_ |
    refine Eq.trans (sideWords_kept' (by exact rfl)) ?_ | (have hk := sideWords_kept' (by assumption); refine Eq.trans hk ?_; clear hk) |
    refine Eq.trans (sideInput_kept ..) ?_ | refine kept_ite ?_ ?_ | split

theorem errqRead_kept (q : QueueId) (tag : Nat) (s : State) : kept (errqRead q tag s) = kept s := rfl

theorem indWords_kept (r x1 : Nat) (x2 : State) : kept (indWords r x1 x2).2 = kept x2 := by
  fun_induction indWords r x1 x2 <;>
  with_reducible repeat' first | assumption | rfl | refine Eq.trans (indRead_kept' (by exact rfl)) ?_ |
    (have hk := indRead_kept' (by assumption); refine Eq.trans hk ?_; clear hk) | refine Eq.trans (by assumption) ?_ | split

theorem indWords_kept' {r x1 : Nat} {x2 : State} {resu} (h : indWords r x1 x2 = resu) : kept resu.2 = kept x2 := h ▸ indWords_kept r x1 x2

theorem setIndAddr_kept (s : State) (r target o : Nat) : kept (setIndAddr s r target o) = kept s := rfl

theorem indReadCmd_kept (r target : Nat) (o n tag : Nat) (s : State) :
    kept (indReadCmd r target o n tag s) = kept s := by
  unfold indReadCmd
  with_reducible repeat' first | intro _ | extract_lets -underBinder | rfl | refine Eq.trans (answer_kept ..) ?_ |
    refine Eq.trans (indWords_kept' (by exact rfl)) ?_ | (have hk := indWords_kept' (by assumption); refine Eq.trans hk ?_; clear hk) |
    refine Eq.trans (setIndAddr_kept ..) ?_ | refine kept_ite ?_ ?_ | split

theorem sideDeadbolt_kept (kind unit tag : Nat) (s : State) : kept (sideDeadbolt kind unit tag s) = kept s := by
  unfold sideDeadbolt
  with_reducible repeat' first | intro _ | extract_lets -underBinder | rfl | refine Eq.trans (answer_kept ..) ?_ |
    refine Eq.trans (deadboltCmd_kept ..) ?_ | refine kept_ite ?_ ?_ | split |
    fail_if_no_progress refine Eq.trans (kept_mk _ _ _ _ _ _ _ _ _ _ _ _ _ _ _ _ _ _ _ _ _ _ _ _ _ _ _ rfl rfl) ?_

theorem dumpWords_kept (x0 : Nat) (x1 : State) : kept (dumpWords x0 x1).2 = kept x1 := by
  fun_induction dumpWords x0 x1 <;>
  with_reducible repeat' first | assumption | rfl | refine Eq.trans (dumpNext_kept' (by exact rfl)) ?_ |
    (have hk := dumpNext_kept' (by assumption); refine Eq.trans hk ?_; clear hk) | refine Eq.trans (by assumption) ?_ | split

theorem dumpWords_kept' {x0 : Nat} {x1 : State} {resu} (h : dumpWords x0 x1 = resu) : kept resu.2 = kept x1 := h ▸ dumpWords_kept x0 x1

theorem sideDump_kept (start : Bool) (tag : Nat) (s : State) : kept (sideDump start tag s) = kept s := by
  unfold sideDump
  with_reducible repeat' first | intro _ | extract_lets -underBinder | rfl | refine Eq.trans (answer_kept ..) ?_ |
    refine Eq.trans (dumpStart_kept ..) ?_ | refine Eq.trans (dumpWords_kept' (by exact rfl)) ?_ |
    (have hk := dumpWords_kept' (by assumption); refine Eq.trans hk ?_; clear hk) | refine kept_ite ?_ ?_ | split

theorem listPut_kept (entries : List (BitVec 64)) (tag : Nat) (s : State) : kept (listPut entries tag s) = kept s := by
  unfold listPut
  with_reducible repeat' first | intro _ | extract_lets -underBinder | rfl | refine Eq.trans (answer_kept ..) ?_ |
    refine Eq.trans (measLists_kept ..) ?_ | refine kept_ite ?_ ?_ | split |
    fail_if_no_progress refine Eq.trans (kept_mk _ _ _ _ _ _ _ _ _ _ _ _ _ _ _ _ _ _ _ _ _ _ _ _ _ _ _ rfl rfl) ?_

theorem notifyAck_kept (s : State) : kept (notifyAck s) = kept s := rfl

theorem notifyResend_kept (s : State) : kept (notifyResend s) = kept s := by
  unfold notifyResend
  with_reducible repeat' first | intro _ | extract_lets -underBinder | rfl | refine Eq.trans (emit_kept ..) ?_ |
    refine Eq.trans (kept_foldl _ _ _ ?_) ?_ | split

theorem setEndpoint_kept (s : State) (eid : Nat) : kept (setEndpoint s eid) = kept s := by
  unfold setEndpoint
  (iterate 60 (all_goals try (first
      | intro _ | fail_if_no_progress beta_reduce | extract_lets -underBinder | with_reducible rfl | with_reducible assumption
      | with_reducible refine Eq.trans (emit_kept ..) ?_ | with_reducible refine kept_ite ?_ ?_
      | fail_if_no_progress refine Eq.trans (kept_mk _ _ _ _ _ _ _ _ _ _ _ _ _ _ _ _ _ _ _ _ _ _ _ _ _ _ _ rfl rfl) ?_ | split
      | exact True.intro | dsimp +zetaDelta only)))
  all_goals done

theorem renewNonce_kept (s : State) : kept (renewNonce s) = kept s := rfl

theorem debugUnlock_kept (token : Bytes) (tag : Nat) (s : State) : kept (debugUnlock token tag s) = kept s := by
  unfold debugUnlock
  (iterate 60 (all_goals try (first
      | intro _ | fail_if_no_progress beta_reduce | extract_lets -underBinder | with_reducible rfl | with_reducible assumption
      | with_reducible refine Eq.trans (fput_kept ..) ?_ | with_reducible refine Eq.trans (renewNonce_kept ..) ?_
      | with_reducible refine Eq.trans (answer_kept ..) ?_ | with_reducible refine Eq.trans (securityEvent_kept ..) ?_
      | with_reducible refine Eq.trans (signAlias_kept ..) ?_ | with_reducible refine Eq.trans (measDebug_kept ..) ?_
      | with_reducible refine kept_ite ?_ ?_
      | fail_if_no_progress refine Eq.trans (kept_mk _ _ _ _ _ _ _ _ _ _ _ _ _ _ _ _ _ _ _ _ _ _ _ _ _ _ _ rfl rfl) ?_ | split
      | exact True.intro | dsimp +zetaDelta only)))
  all_goals done

theorem setSpdm_kept (s : State) (t : Transport) (x : SpdmSt) : kept (setSpdm s t x) = kept s := rfl

theorem spdmError_kept (s : State) : kept (spdmError s) = kept s := rfl

theorem spdmAnswer_kept (s : State) (t : Transport) (code : Nat) (body : Bytes) (x : SpdmSt) :
    kept (spdmAnswer s t code body x) = kept s := rfl

theorem spdmVersion_kept (s : State) (t : Transport) : kept (spdmVersion s t) = kept s := by
  unfold spdmVersion
  with_reducible repeat' first | rfl | refine Eq.trans (spdmAnswer_kept ..) ?_ | refine kept_ite ?_ ?_ | split

theorem spdmNegotiate_kept (s : State) (t : Transport) (request code stage : Nat) (req selects : Bytes) :
    kept (spdmNegotiate s t request code stage req selects) = kept s := by
  unfold spdmNegotiate
  (iterate 60 (all_goals try (first
      | intro _ | fail_if_no_progress beta_reduce | extract_lets -underBinder | with_reducible rfl | with_reducible assumption
      | with_reducible refine Eq.trans (spdmError_kept ..) ?_ | with_reducible refine Eq.trans (spdmAnswer_kept ..) ?_
      | with_reducible refine kept_ite ?_ ?_ | split | exact True.intro | dsimp +zetaDelta only)))
  all_goals done

theorem spdmCerts_kept (s : State) (t : Transport) (request code slot : Nat) (req content : Bytes) :
    kept (spdmCerts s t request code slot req content) = kept s := by
  unfold spdmCerts
  (iterate 60 (all_goals try (first
      | intro _ | fail_if_no_progress beta_reduce | extract_lets -underBinder | with_reducible rfl | with_reducible assumption
      | with_reducible refine Eq.trans (spdmError_kept ..) ?_ | with_reducible refine Eq.trans (spdmAnswer_kept ..) ?_
      | with_reducible refine kept_ite ?_ ?_ | split | exact True.intro | dsimp +zetaDelta only)))
  all_goals done

theorem spdmChallenge_kept (s : State) (t : Transport) (req : Bytes) : kept (spdmChallenge s t req) = kept s := by
  unfold spdmChallenge
  with_reducible repeat' first | intro _ | extract_lets -underBinder | rfl | refine Eq.trans (spdmError_kept ..) ?_ |
    refine Eq.trans (spdmAnswer_kept ..) ?_ | refine kept_ite ?_ ?_ | split

theorem spdmMeasurements_kept (s : State) (t : Transport) (req : Bytes) : kept (spdmMeasurements s t req) = kept s := by
  unfold spdmMeasurements
  with_reducible repeat' first | intro _ | extract_lets -underBinder | rfl | refine Eq.trans (spdmError_kept ..) ?_ |
    refine Eq.trans (spdmAnswer_kept ..) ?_ | refine kept_ite ?_ ?_ | split

theorem giveWrite_kept (s : State) (x : TrkRec) : kept (giveWrite s x) = kept s := by
  unfold giveWrite
  (iterate 60 (all_goals try (first
      | intro _ | fail_if_no_progress beta_reduce | extract_lets -underBinder | with_reducible rfl | with_reducible assumption
      | with_reducible refine Eq.trans (registerWrite_kept ..) ?_ | with_reducible refine Eq.trans (bar2Post_kept ..) ?_
      | with_reducible refine kept_ite ?_ ?_ | split | exact True.intro | dsimp +zetaDelta only)))
  all_goals done

end Sys2Proof.Machine
end

