-- ==== Sys2Proof/Laws/KeptExec.lean ====
section
/-! SUPPORT. What each command leaves of the fuses, the queue, the lap number and the phase: one law per command, and what the
few that write them write. -/

set_option linter.unusedTactic false
set_option linter.unreachableTactic false

namespace Sys2Proof.Machine

def keptOut (o : Host.Outcome State Fault Refusal) (k : KeptPart) : Prop :=
  match o with | .next t => kept t = k | _ => True

theorem exec_doorbellPoll_kept (s : State) : keptOut (exec .doorbellPoll s) (kept s) := by
  show keptOut (execDoorbellPoll  s) (kept s)
  unfold execDoorbellPoll
  show kept _ = _
  with_reducible repeat' first
    | intro _
    | rfl
    | exact True.intro
    | assumption
    | refine Eq.trans (doorbellRead_kept ..) ?_
    | exact doorbellRead_kept ..
    | refine kept_ite ?_ ?_
    | split

theorem exec_lapCleanSend_kept (s : State) (dst : _) : keptOut (exec (.lapCleanSend dst) s) (kept s) := by
  show keptOut (execLapCleanSend dst s) (kept s)
  unfold execLapCleanSend
  show kept _ = _
  exact lapCleanSend_kept ..

theorem exec_lapClean_kept (s : State) (w : _) : keptOut (exec (.lapClean w) s) (kept s) := by
  show keptOut (execLapClean w s) (kept s)
  unfold execLapClean
  show kept _ = _
  exact lapClean_kept ..

theorem exec_planPoint_kept (s : State) : keptOut (exec .planPoint s) (kept s) := by
  show keptOut (execPlanPoint  s) (kept s)
  unfold execPlanPoint
  show kept _ = _
  exact planPoint_kept ..

theorem exec_holdoverLimit_kept (s : State) : keptOut (exec .holdoverLimit s) (kept s) := by
  show keptOut (execHoldoverLimit  s) (kept s)
  unfold execHoldoverLimit
  show kept _ = _
  exact holdoverLimit_kept ..

theorem exec_taskStart_kept (s : State) (u : _) : keptOut (exec (.taskStart u) s) (kept s) := by
  show keptOut (execTaskStart u s) (kept s)
  unfold execTaskStart
  show kept _ = _
  exact taskStart_kept ..

theorem exec_taskFinish_kept (s : State) (u activeNs energyNj : _) : keptOut (exec (.taskFinish u activeNs energyNj) s) (kept s) := by
  show keptOut (execTaskFinish u activeNs energyNj s) (kept s)
  unfold execTaskFinish
  show kept _ = _
  exact taskFinish_kept ..

theorem exec_frameWaitResume_kept (s : State) (u m : _) : keptOut (exec (.frameWaitResume u m) s) (kept s) := by
  show keptOut (execFrameWaitResume u m s) (kept s)
  unfold execFrameWaitResume
  show kept _ = _
  exact frameResume_kept ..

theorem exec_fillCopyComplete_kept (s : State) (r frame : _) : keptOut (exec (.fillCopyComplete r frame) s) (kept s) := by
  show keptOut (execFillCopyComplete r frame s) (kept s)
  unfold execFillCopyComplete
  show kept _ = _
  exact fillCopy_kept ..

theorem exec_fold_kept (s : State) (r : _) : keptOut (exec (.fold r) s) (kept s) := by
  show keptOut (execFold r s) (kept s)
  unfold execFold
  show kept _ = _
  exact foldNext_kept ..

theorem exec_ptRecordWrite_kept (s : State) (r : _) : keptOut (exec (.ptRecordWrite r) s) (kept s) := by
  show keptOut (execPtRecordWrite r s) (kept s)
  unfold execPtRecordWrite
  show kept _ = _
  exact ptWriteNext_kept ..

theorem exec_ptUpdateRecord_kept (s : State) (who r word1 : _) : keptOut (exec (.ptUpdateRecord who r word1) s) (kept s) := by
  show keptOut (execPtUpdateRecord who r word1 s) (kept s)
  unfold execPtUpdateRecord
  show kept _ = _
  exact kept_ite ((ptUpdate_kept ..).trans (rowInput_kept ..)) rfl

theorem exec_nop_kept (s : State) (u : _) : keptOut (exec (.nop u) s) (kept s) := by
  show keptOut (execNop u s) (kept s)
  unfold execNop
  show kept _ = _
  exact issueNop_kept ..

theorem exec_endTask_kept (s : State) (u : _) : keptOut (exec (.endTask u) s) (kept s) := by
  show keptOut (execEndTask u s) (kept s)
  unfold execEndTask
  show kept _ = _
  with_reducible repeat' first
    | intro _
    | rfl
    | exact True.intro
    | assumption
    | refine issueWord_kept (ho := ?_) ..
    | exact opEnd_kept ..
    | refine Eq.trans (opEnd_kept ..) ?_
    | refine keptMv_mono (opEnd_kept ..) ?_
    | refine keptSeq_mono (opEnd_kept ..) ?_
    | refine keptSum_mono (opEnd_kept ..) ?_
    | refine kept_ite ?_ ?_
    | split

theorem exec_loop_kept (s : State) (u : _) : keptOut (exec (.loop u) s) (kept s) := by
  show keptOut (execLoop u s) (kept s)
  unfold execLoop
  show kept _ = _
  with_reducible repeat' first
    | intro _
    | rfl
    | exact True.intro
    | assumption
    | refine issueWord_kept (ho := ?_) ..
    | exact opLoop_kept ..
    | refine Eq.trans (opLoop_kept ..) ?_
    | refine keptMv_mono (opLoop_kept ..) ?_
    | refine keptSeq_mono (opLoop_kept ..) ?_
    | refine keptSum_mono (opLoop_kept ..) ?_
    | refine kept_ite ?_ ?_
    | split

theorem exec_branch_kept (s : State) (u : _) : keptOut (exec (.branch u) s) (kept s) := by
  show keptOut (execBranch u s) (kept s)
  unfold execBranch
  show kept _ = _
  with_reducible repeat' first
    | intro _
    | rfl
    | exact True.intro
    | assumption
    | refine issueWord_kept (ho := ?_) ..
    | exact opBranch_kept ..
    | refine Eq.trans (opBranch_kept ..) ?_
    | refine keptMv_mono (opBranch_kept ..) ?_
    | refine keptSeq_mono (opBranch_kept ..) ?_
    | refine keptSum_mono (opBranch_kept ..) ?_
    | refine kept_ite ?_ ?_
    | split

theorem exec_branchIf_kept (s : State) (u : _) : keptOut (exec (.branchIf u) s) (kept s) := by
  show keptOut (execBranchIf u s) (kept s)
  unfold execBranchIf
  show kept _ = _
  with_reducible repeat' first
    | intro _
    | rfl
    | exact True.intro
    | assumption
    | refine issueWord_kept (ho := ?_) ..
    | exact opBranchIf_kept ..
    | refine Eq.trans (opBranchIf_kept ..) ?_
    | refine keptMv_mono (opBranchIf_kept ..) ?_
    | refine keptSeq_mono (opBranchIf_kept ..) ?_
    | refine keptSum_mono (opBranchIf_kept ..) ?_
    | refine kept_ite ?_ ?_
    | split

theorem exec_lrSet_kept (s : State) (u : _) : keptOut (exec (.lrSet u) s) (kept s) := by
  show keptOut (execLrSet u s) (kept s)
  unfold execLrSet
  show kept _ = _
  with_reducible repeat' first
    | intro _
    | rfl
    | exact True.intro
    | assumption
    | refine issueWord_kept (ho := ?_) ..
    | exact opLrSet_kept ..
    | refine Eq.trans (opLrSet_kept ..) ?_
    | refine keptMv_mono (opLrSet_kept ..) ?_
    | refine keptSeq_mono (opLrSet_kept ..) ?_
    | refine keptSum_mono (opLrSet_kept ..) ?_
    | refine kept_ite ?_ ?_
    | split

theorem exec_lrAdd_kept (s : State) (u : _) : keptOut (exec (.lrAdd u) s) (kept s) := by
  show keptOut (execLrAdd u s) (kept s)
  unfold execLrAdd
  show kept _ = _
  with_reducible repeat' first
    | intro _
    | rfl
    | exact True.intro
    | assumption
    | refine issueWord_kept (ho := ?_) ..
    | exact opLrAdd_kept ..
    | refine Eq.trans (opLrAdd_kept ..) ?_
    | refine keptMv_mono (opLrAdd_kept ..) ?_
    | refine keptSeq_mono (opLrAdd_kept ..) ?_
    | refine keptSum_mono (opLrAdd_kept ..) ?_
    | refine kept_ite ?_ ?_
    | split

theorem exec_lrFromSum_kept (s : State) (u : _) : keptOut (exec (.lrFromSum u) s) (kept s) := by
  show keptOut (execLrFromSum u s) (kept s)
  unfold execLrFromSum
  show kept _ = _
  with_reducible repeat' first
    | intro _
    | rfl
    | exact True.intro
    | assumption
    | refine issueWord_kept (ho := ?_) ..
    | exact opLrFromSum_kept ..
    | refine Eq.trans (opLrFromSum_kept ..) ?_
    | refine keptMv_mono (opLrFromSum_kept ..) ?_
    | refine keptSeq_mono (opLrFromSum_kept ..) ?_
    | refine keptSum_mono (opLrFromSum_kept ..) ?_
    | refine kept_ite ?_ ?_
    | split

theorem exec_sbPost_kept (s : State) (u : _) : keptOut (exec (.sbPost u) s) (kept s) := by
  show keptOut (execSbPost u s) (kept s)
  unfold execSbPost
  show kept _ = _
  with_reducible repeat' first
    | intro _
    | rfl
    | exact True.intro
    | assumption
    | refine issueWord_kept (ho := ?_) ..
    | exact opSbPost_kept ..
    | refine Eq.trans (opSbPost_kept ..) ?_
    | refine keptMv_mono (opSbPost_kept ..) ?_
    | refine keptSeq_mono (opSbPost_kept ..) ?_
    | refine keptSum_mono (opSbPost_kept ..) ?_
    | refine kept_ite ?_ ?_
    | split

theorem exec_sbWait_kept (s : State) (u : _) : keptOut (exec (.sbWait u) s) (kept s) := by
  show keptOut (execSbWait u s) (kept s)
  unfold execSbWait
  show kept _ = _
  with_reducible repeat' first
    | intro _
    | rfl
    | exact True.intro
    | assumption
    | refine issueWord_kept (ho := ?_) ..
    | exact opSbWait_kept ..
    | refine Eq.trans (opSbWait_kept ..) ?_
    | refine keptMv_mono (opSbWait_kept ..) ?_
    | refine keptSeq_mono (opSbWait_kept ..) ?_
    | refine keptSum_mono (opSbWait_kept ..) ?_
    | refine kept_ite ?_ ?_
    | split

theorem exec_sbRelease_kept (s : State) (u : _) : keptOut (exec (.sbRelease u) s) (kept s) := by
  show keptOut (execSbRelease u s) (kept s)
  unfold execSbRelease
  show kept _ = _
  with_reducible repeat' first
    | intro _
    | rfl
    | exact True.intro
    | assumption
    | refine issueWord_kept (ho := ?_) ..
    | exact opSbRelease_kept ..
    | refine Eq.trans (opSbRelease_kept ..) ?_
    | refine keptMv_mono (opSbRelease_kept ..) ?_
    | refine keptSeq_mono (opSbRelease_kept ..) ?_
    | refine keptSum_mono (opSbRelease_kept ..) ?_
    | refine kept_ite ?_ ?_
    | split

theorem exec_sbWaitFree_kept (s : State) (u : _) : keptOut (exec (.sbWaitFree u) s) (kept s) := by
  show keptOut (execSbWaitFree u s) (kept s)
  unfold execSbWaitFree
  show kept _ = _
  with_reducible repeat' first
    | intro _
    | rfl
    | exact True.intro
    | assumption
    | refine issueWord_kept (ho := ?_) ..
    | exact opSbWaitFree_kept ..
    | refine Eq.trans (opSbWaitFree_kept ..) ?_
    | refine keptMv_mono (opSbWaitFree_kept ..) ?_
    | refine keptSeq_mono (opSbWaitFree_kept ..) ?_
    | refine keptSum_mono (opSbWaitFree_kept ..) ?_
    | refine kept_ite ?_ ?_
    | split

theorem exec_tumSignal_kept (s : State) (u : _) : keptOut (exec (.tumSignal u) s) (kept s) := by
  show keptOut (execTumSignal u s) (kept s)
  unfold execTumSignal
  show kept _ = _
  with_reducible repeat' first
    | intro _
    | rfl
    | exact True.intro
    | assumption
    | refine issueWord_kept (ho := ?_) ..
    | exact opTumSignal_kept ..
    | refine Eq.trans (opTumSignal_kept ..) ?_
    | refine keptMv_mono (opTumSignal_kept ..) ?_
    | refine keptSeq_mono (opTumSignal_kept ..) ?_
    | refine keptSum_mono (opTumSignal_kept ..) ?_
    | refine kept_ite ?_ ?_
    | split

theorem exec_tumWait_kept (s : State) (u : _) : keptOut (exec (.tumWait u) s) (kept s) := by
  show keptOut (execTumWait u s) (kept s)
  unfold execTumWait
  show kept _ = _
  with_reducible repeat' first
    | intro _
    | rfl
    | exact True.intro
    | assumption
    | refine issueWord_kept (ho := ?_) ..
    | exact opTumWait_kept ..
    | refine Eq.trans (opTumWait_kept ..) ?_
    | refine keptMv_mono (opTumWait_kept ..) ?_
    | refine keptSeq_mono (opTumWait_kept ..) ?_
    | refine keptSum_mono (opTumWait_kept ..) ?_
    | refine kept_ite ?_ ?_
    | split

theorem exec_fence_kept (s : State) (u : _) : keptOut (exec (.fence u) s) (kept s) := by
  show keptOut (execFence u s) (kept s)
  unfold execFence
  show kept _ = _
  with_reducible repeat' first
    | intro _
    | rfl
    | exact True.intro
    | assumption
    | refine issueWord_kept (ho := ?_) ..
    | exact opFence_kept ..
    | refine Eq.trans (opFence_kept ..) ?_
    | refine keptMv_mono (opFence_kept ..) ?_
    | refine keptSeq_mono (opFence_kept ..) ?_
    | refine keptSum_mono (opFence_kept ..) ?_
    | refine kept_ite ?_ ?_
    | split

theorem exec_sumPost_kept (s : State) (u : _) : keptOut (exec (.sumPost u) s) (kept s) := by
  show keptOut (execSumPost u s) (kept s)
  unfold execSumPost
  show kept _ = _
  with_reducible repeat' first
    | intro _
    | rfl
    | exact True.intro
    | assumption
    | refine issueWord_kept (ho := ?_) ..
    | exact opSumPost_kept ..
    | refine Eq.trans (opSumPost_kept ..) ?_
    | refine keptMv_mono (opSumPost_kept ..) ?_
    | refine keptSeq_mono (opSumPost_kept ..) ?_
    | refine keptSum_mono (opSumPost_kept ..) ?_
    | refine kept_ite ?_ ?_
    | split

theorem exec_halt_kept (s : State) (u : _) : keptOut (exec (.halt u) s) (kept s) := by
  show keptOut (execHalt u s) (kept s)
  unfold execHalt
  show kept _ = _
  with_reducible repeat' first
    | intro _
    | rfl
    | exact True.intro
    | assumption
    | refine issueWord_kept (ho := ?_) ..
    | exact opHalt_kept ..
    | refine Eq.trans (opHalt_kept ..) ?_
    | refine keptMv_mono (opHalt_kept ..) ?_
    | refine keptSeq_mono (opHalt_kept ..) ?_
    | refine keptSum_mono (opHalt_kept ..) ?_
    | refine kept_ite ?_ ?_
    | split

theorem exec_mac_kept (s : State) (u : _) : keptOut (exec (.mac u) s) (kept s) := by
  show keptOut (execMac u s) (kept s)
  unfold execMac
  show kept _ = _
  exact mtxStep_kept ..

theorem exec_macT_kept (s : State) (u : _) : keptOut (exec (.macT u) s) (kept s) := by
  show keptOut (execMacT u s) (kept s)
  unfold execMacT
  show kept _ = _
  exact mtxStep_kept ..

theorem exec_mtxLoad_kept (s : State) (u : _) : keptOut (exec (.mtxLoad u) s) (kept s) := by
  show keptOut (execMtxLoad u s) (kept s)
  unfold execMtxLoad
  show kept _ = _
  exact mtxStep_kept ..

theorem exec_drain_kept (s : State) (u : _) : keptOut (exec (.drain u) s) (kept s) := by
  show keptOut (execDrain u s) (kept s)
  unfold execDrain
  show kept _ = _
  exact mtxStep_kept ..

theorem exec_zero_kept (s : State) (u : _) : keptOut (exec (.zero u) s) (kept s) := by
  show keptOut (execZero u s) (kept s)
  unfold execZero
  show kept _ = _
  exact mtxStep_kept ..

theorem exec_batch_kept (s : State) (u : _) : keptOut (exec (.batch u) s) (kept s) := by
  show keptOut (execBatch u s) (kept s)
  unfold execBatch
  show kept _ = _
  exact (settleNops_kept ..).trans (batchStep_kept ..)

theorem exec_batchTimeout_kept (s : State) (u : _) : keptOut (exec (.batchTimeout u) s) (kept s) := by
  show keptOut (execBatchTimeout u s) (kept s)
  unfold execBatchTimeout
  show kept _ = _
  exact (settleNops_kept ..).trans (batchTimeout_kept ..)

theorem exec_vecNop_kept (s : State) (u : _) : keptOut (exec (.vecNop u) s) (kept s) := by
  show keptOut (execVecNop u s) (kept s)
  unfold execVecNop
  show kept _ = _
  exact vecStep_kept ..

theorem exec_mov_kept (s : State) (u : _) : keptOut (exec (.mov u) s) (kept s) := by
  show keptOut (execMov u s) (kept s)
  unfold execMov
  show kept _ = _
  exact vecStep_kept ..

theorem exec_add_kept (s : State) (u : _) : keptOut (exec (.add u) s) (kept s) := by
  show keptOut (execAdd u s) (kept s)
  unfold execAdd
  show kept _ = _
  exact vecStep_kept ..

theorem exec_sub_kept (s : State) (u : _) : keptOut (exec (.sub u) s) (kept s) := by
  show keptOut (execSub u s) (kept s)
  unfold execSub
  show kept _ = _
  exact vecStep_kept ..

theorem exec_mul_kept (s : State) (u : _) : keptOut (exec (.mul u) s) (kept s) := by
  show keptOut (execMul u s) (kept s)
  unfold execMul
  show kept _ = _
  exact vecStep_kept ..

theorem exec_fma_kept (s : State) (u : _) : keptOut (exec (.fma u) s) (kept s) := by
  show keptOut (execFma u s) (kept s)
  unfold execFma
  show kept _ = _
  exact vecStep_kept ..

theorem exec_vecMin_kept (s : State) (u : _) : keptOut (exec (.vecMin u) s) (kept s) := by
  show keptOut (execVecMin u s) (kept s)
  unfold execVecMin
  show kept _ = _
  exact vecStep_kept ..

theorem exec_vecMax_kept (s : State) (u : _) : keptOut (exec (.vecMax u) s) (kept s) := by
  show keptOut (execVecMax u s) (kept s)
  unfold execVecMax
  show kept _ = _
  exact vecStep_kept ..

theorem exec_abs_kept (s : State) (u : _) : keptOut (exec (.abs u) s) (kept s) := by
  show keptOut (execAbs u s) (kept s)
  unfold execAbs
  show kept _ = _
  exact vecStep_kept ..

theorem exec_neg_kept (s : State) (u : _) : keptOut (exec (.neg u) s) (kept s) := by
  show keptOut (execNeg u s) (kept s)
  unfold execNeg
  show kept _ = _
  exact vecStep_kept ..

theorem exec_cmpLt_kept (s : State) (u : _) : keptOut (exec (.cmpLt u) s) (kept s) := by
  show keptOut (execCmpLt u s) (kept s)
  unfold execCmpLt
  show kept _ = _
  exact vecStep_kept ..

theorem exec_cmpLe_kept (s : State) (u : _) : keptOut (exec (.cmpLe u) s) (kept s) := by
  show keptOut (execCmpLe u s) (kept s)
  unfold execCmpLe
  show kept _ = _
  exact vecStep_kept ..

theorem exec_cmpEq_kept (s : State) (u : _) : keptOut (exec (.cmpEq u) s) (kept s) := by
  show keptOut (execCmpEq u s) (kept s)
  unfold execCmpEq
  show kept _ = _
  exact vecStep_kept ..

theorem exec_cmpNe_kept (s : State) (u : _) : keptOut (exec (.cmpNe u) s) (kept s) := by
  show keptOut (execCmpNe u s) (kept s)
  unfold execCmpNe
  show kept _ = _
  exact vecStep_kept ..

theorem exec_sel_kept (s : State) (u : _) : keptOut (exec (.sel u) s) (kept s) := by
  show keptOut (execSel u s) (kept s)
  unfold execSel
  show kept _ = _
  exact vecStep_kept ..

theorem exec_cvt_kept (s : State) (u : _) : keptOut (exec (.cvt u) s) (kept s) := by
  show keptOut (execCvt u s) (kept s)
  unfold execCvt
  show kept _ = _
  exact vecStep_kept ..

theorem exec_srCvt_kept (s : State) (u : _) : keptOut (exec (.srCvt u) s) (kept s) := by
  show keptOut (execSrCvt u s) (kept s)
  unfold execSrCvt
  show kept _ = _
  exact vecStep_kept ..

theorem exec_compress_kept (s : State) (u : _) : keptOut (exec (.compress u) s) (kept s) := by
  show keptOut (execCompress u s) (kept s)
  unfold execCompress
  show kept _ = _
  exact vecStep_kept ..

theorem exec_expand_kept (s : State) (u : _) : keptOut (exec (.expand u) s) (kept s) := by
  show keptOut (execExpand u s) (kept s)
  unfold execExpand
  show kept _ = _
  exact vecStep_kept ..

theorem exec_and_kept (s : State) (u : _) : keptOut (exec (.and u) s) (kept s) := by
  show keptOut (execAnd u s) (kept s)
  unfold execAnd
  show kept _ = _
  exact vecStep_kept ..

theorem exec_or_kept (s : State) (u : _) : keptOut (exec (.or u) s) (kept s) := by
  show keptOut (execOr u s) (kept s)
  unfold execOr
  show kept _ = _
  exact vecStep_kept ..

theorem exec_xor_kept (s : State) (u : _) : keptOut (exec (.xor u) s) (kept s) := by
  show keptOut (execXor u s) (kept s)
  unfold execXor
  show kept _ = _
  exact vecStep_kept ..

theorem exec_shl_kept (s : State) (u : _) : keptOut (exec (.shl u) s) (kept s) := by
  show keptOut (execShl u s) (kept s)
  unfold execShl
  show kept _ = _
  exact vecStep_kept ..

theorem exec_shr_kept (s : State) (u : _) : keptOut (exec (.shr u) s) (kept s) := by
  show keptOut (execShr u s) (kept s)
  unfold execShr
  show kept _ = _
  exact vecStep_kept ..

theorem exec_rand_kept (s : State) (u : _) : keptOut (exec (.rand u) s) (kept s) := by
  show keptOut (execRand u s) (kept s)
  unfold execRand
  show kept _ = _
  exact vecStep_kept ..

theorem exec_exp_kept (s : State) (u : _) : keptOut (exec (.exp u) s) (kept s) := by
  show keptOut (execExp u s) (kept s)
  unfold execExp
  show kept _ = _
  exact sfuStep_kept ..

theorem exec_log_kept (s : State) (u : _) : keptOut (exec (.log u) s) (kept s) := by
  show keptOut (execLog u s) (kept s)
  unfold execLog
  show kept _ = _
  exact sfuStep_kept ..

theorem exec_rcp_kept (s : State) (u : _) : keptOut (exec (.rcp u) s) (kept s) := by
  show keptOut (execRcp u s) (kept s)
  unfold execRcp
  show kept _ = _
  exact sfuStep_kept ..

theorem exec_rsqrt_kept (s : State) (u : _) : keptOut (exec (.rsqrt u) s) (kept s) := by
  show keptOut (execRsqrt u s) (kept s)
  unfold execRsqrt
  show kept _ = _
  exact sfuStep_kept ..

theorem exec_rowStart_kept (s : State) (u : _) : keptOut (exec (.rowStart u) s) (kept s) := by
  show keptOut (execRowStart u s) (kept s)
  unfold execRowStart
  show kept _ = _
  exact redStep_kept ..

theorem exec_redSum_kept (s : State) (u : _) : keptOut (exec (.redSum u) s) (kept s) := by
  show keptOut (execRedSum u s) (kept s)
  unfold execRedSum
  show kept _ = _
  exact redStep_kept ..

theorem exec_redMax_kept (s : State) (u : _) : keptOut (exec (.redMax u) s) (kept s) := by
  show keptOut (execRedMax u s) (kept s)
  unfold execRedMax
  show kept _ = _
  exact redStep_kept ..

theorem exec_sumExp_kept (s : State) (u : _) : keptOut (exec (.sumExp u) s) (kept s) := by
  show keptOut (execSumExp u s) (kept s)
  unfold execSumExp
  show kept _ = _
  exact redStep_kept ..

theorem exec_shiftedSq_kept (s : State) (u : _) : keptOut (exec (.shiftedSq u) s) (kept s) := by
  show keptOut (execShiftedSq u s) (kept s)
  unfold execShiftedSq
  show kept _ = _
  exact redStep_kept ..

theorem exec_normTap_kept (s : State) (u : _) : keptOut (exec (.normTap u) s) (kept s) := by
  show keptOut (execNormTap u s) (kept s)
  unfold execNormTap
  show kept _ = _
  exact redStep_kept ..

theorem exec_rowEnd_kept (s : State) (u : _) : keptOut (exec (.rowEnd u) s) (kept s) := by
  show keptOut (execRowEnd u s) (kept s)
  unfold execRowEnd
  show kept _ = _
  exact redStep_kept ..

theorem exec_scanStep_kept (s : State) (u : _) : keptOut (exec (.scanStep u) s) (kept s) := by
  show keptOut (execScanStep u s) (kept s)
  unfold execScanStep
  show kept _ = _
  with_reducible repeat' first
    | intro _
    | rfl
    | exact True.intro
    | assumption
    | refine countedField_kept (ho := ?_) ..
    | exact scanCount_kept ..
    | refine Eq.trans (scanCount_kept ..) ?_
    | refine keptMv_mono (scanCount_kept ..) ?_
    | refine keptSeq_mono (scanCount_kept ..) ?_
    | refine keptSum_mono (scanCount_kept ..) ?_
    | refine kept_ite ?_ ?_
    | split

theorem exec_loadH_kept (s : State) (u : _) : keptOut (exec (.loadH u) s) (kept s) := by
  show keptOut (execLoadH u s) (kept s)
  unfold execLoadH
  show kept _ = _
  with_reducible repeat' first
    | intro _
    | rfl
    | exact True.intro
    | assumption
    | refine countedField_kept (ho := ?_) ..
    | refine kept_ite ?_ ?_
    | split

theorem exec_storeH_kept (s : State) (u : _) : keptOut (exec (.storeH u) s) (kept s) := by
  show keptOut (execStoreH u s) (kept s)
  unfold execStoreH
  show kept _ = _
  with_reducible repeat' first
    | intro _
    | rfl
    | exact True.intro
    | assumption
    | refine countedField_kept (ho := ?_) ..
    | refine kept_ite ?_ ?_
    | split

theorem exec_chunk_kept (s : State) (u : _) : keptOut (exec (.chunk u) s) (kept s) := by
  show keptOut (execChunk u s) (kept s)
  unfold execChunk
  show kept _ = _
  exact (settleNops_kept ..).trans (chunkStep_kept ..)

theorem exec_hingeSubmit_kept (s : State) (u : _) : keptOut (exec (.hingeSubmit u) s) (kept s) := by
  show keptOut (execHingeSubmit u s) (kept s)
  unfold execHingeSubmit
  show kept _ = _
  with_reducible repeat' first
    | intro _
    | rfl
    | exact True.intro
    | assumption
    | refine xfrStep_kept (ho := ?_) ..
    | exact hingeSubmit_kept ..
    | refine Eq.trans (hingeSubmit_kept ..) ?_
    | refine keptMv_mono (hingeSubmit_kept ..) ?_
    | refine keptSeq_mono (hingeSubmit_kept ..) ?_
    | refine keptSum_mono (hingeSubmit_kept ..) ?_
    | refine kept_ite ?_ ?_
    | split

theorem exec_hingeWait_kept (s : State) (u : _) : keptOut (exec (.hingeWait u) s) (kept s) := by
  show keptOut (execHingeWait u s) (kept s)
  unfold execHingeWait
  show kept _ = _
  with_reducible repeat' first
    | intro _
    | rfl
    | exact True.intro
    | assumption
    | refine xfrStep_kept (ho := ?_) ..
    | exact hingeWait_kept ..
    | refine Eq.trans (hingeWait_kept ..) ?_
    | refine keptMv_mono (hingeWait_kept ..) ?_
    | refine keptSeq_mono (hingeWait_kept ..) ?_
    | refine keptSum_mono (hingeWait_kept ..) ?_
    | refine kept_ite ?_ ?_
    | split

theorem exec_hingeOperation_kept (s : State) (b : _) : keptOut (exec (.hingeOperation b) s) (kept s) := by
  show keptOut (execHingeOperation b s) (kept s)
  unfold execHingeOperation
  show kept _ = _
  exact hingeStart_kept ..

theorem exec_hingeComplete_kept (s : State) (b : _) : keptOut (exec (.hingeComplete b) s) (kept s) := by
  show keptOut (execHingeComplete b s) (kept s)
  unfold execHingeComplete
  show kept _ = _
  exact hingeComplete_kept ..

theorem exec_dmaKick_kept (s : State) (u : _) : keptOut (exec (.dmaKick u) s) (kept s) := by
  show keptOut (execDmaKick u s) (kept s)
  unfold execDmaKick
  show kept _ = _
  with_reducible repeat' first
    | intro _
    | rfl
    | exact True.intro
    | assumption
    | refine xfrStep_kept (ho := ?_) ..
    | exact dmaKick_kept ..
    | refine Eq.trans (dmaKick_kept ..) ?_
    | refine keptMv_mono (dmaKick_kept ..) ?_
    | refine keptSeq_mono (dmaKick_kept ..) ?_
    | refine keptSum_mono (dmaKick_kept ..) ?_
    | refine kept_ite ?_ ?_
    | split

theorem exec_dmaWait_kept (s : State) (u : _) : keptOut (exec (.dmaWait u) s) (kept s) := by
  show keptOut (execDmaWait u s) (kept s)
  unfold execDmaWait
  show kept _ = _
  with_reducible repeat' first
    | intro _
    | rfl
    | exact True.intro
    | assumption
    | refine xfrStep_kept (ho := ?_) ..
    | exact dmaWait_kept ..
    | refine Eq.trans (dmaWait_kept ..) ?_
    | refine keptMv_mono (dmaWait_kept ..) ?_
    | refine keptSeq_mono (dmaWait_kept ..) ?_
    | refine keptSum_mono (dmaWait_kept ..) ?_
    | refine kept_ite ?_ ?_
    | split

theorem exec_moverStart_kept (s : State) (u m : _) : keptOut (exec (.moverStart u m) s) (kept s) := by
  show keptOut (execMoverStart u m s) (kept s)
  unfold execMoverStart
  show kept _ = _
  with_reducible repeat' first
    | intro _
    | rfl
    | exact True.intro
    | assumption
    | refine moverStep_kept (ho := ?_) ..
    | exact startWalk_kept ..
    | refine Eq.trans (startWalk_kept ..) ?_
    | refine keptMv_mono (startWalk_kept ..) ?_
    | refine keptSeq_mono (startWalk_kept ..) ?_
    | refine keptSum_mono (startWalk_kept ..) ?_
    | refine kept_ite ?_ ?_
    | split

theorem exec_moverStop_kept (s : State) (u m : _) : keptOut (exec (.moverStop u m) s) (kept s) := by
  show keptOut (execMoverStop u m s) (kept s)
  unfold execMoverStop
  show kept _ = _
  refine moverStep_kept (ho := ?_) ..
  intro t f x
  have h := stopWalk_kept t u m f x
  revert h
  cases stopWalk t u m f x with
  | some v => exact id
  | none => exact fun _ => True.intro

theorem exec_rearm_kept (s : State) (u m : _) : keptOut (exec (.rearm u m) s) (kept s) := by
  show keptOut (execRearm u m s) (kept s)
  unfold execRearm
  show kept _ = _
  with_reducible repeat' first
    | intro _
    | rfl
    | exact True.intro
    | assumption
    | refine moverStep_kept (ho := ?_) ..
    | exact rearm_kept ..
    | refine Eq.trans (rearm_kept ..) ?_
    | refine keptMv_mono (rearm_kept ..) ?_
    | refine keptSeq_mono (rearm_kept ..) ?_
    | refine keptSum_mono (rearm_kept ..) ?_
    | refine kept_ite ?_ ?_
    | split

theorem exec_flush_kept (s : State) (u m : _) : keptOut (exec (.flush u m) s) (kept s) := by
  show keptOut (execFlush u m s) (kept s)
  unfold execFlush
  show kept _ = _
  with_reducible repeat' first
    | intro _
    | rfl
    | exact True.intro
    | assumption
    | refine moverStep_kept (ho := ?_) ..
    | exact flushWalk_kept ..
    | refine Eq.trans (flushWalk_kept ..) ?_
    | refine keptMv_mono (flushWalk_kept ..) ?_
    | refine keptSeq_mono (flushWalk_kept ..) ?_
    | refine keptSum_mono (flushWalk_kept ..) ?_
    | refine kept_ite ?_ ?_
    | split

theorem exec_takeBaton_kept (s : State) (u m : _) : keptOut (exec (.takeBaton u m) s) (kept s) := by
  show keptOut (execTakeBaton u m s) (kept s)
  unfold execTakeBaton
  show kept _ = _
  with_reducible repeat' first
    | intro _
    | rfl
    | exact True.intro
    | assumption
    | refine moverStep_kept (ho := ?_) ..
    | exact takeMover_kept ..
    | refine Eq.trans (takeMover_kept ..) ?_
    | refine keptMv_mono (takeMover_kept ..) ?_
    | refine keptSeq_mono (takeMover_kept ..) ?_
    | refine keptSum_mono (takeMover_kept ..) ?_
    | refine kept_ite ?_ ?_
    | split

theorem exec_streamRun_kept (s : State) (u m : _) : keptOut (exec (.streamRun u m) s) (kept s) := by
  show keptOut (execStreamRun u m s) (kept s)
  unfold execStreamRun
  show kept _ = _
  exact streamRun_kept ..

theorem exec_streamBusError_kept (s : State) (u m : _) : keptOut (exec (.streamBusError u m) s) (kept s) := by
  show keptOut (execStreamBusError u m s) (kept s)
  unfold execStreamBusError
  show kept _ = _
  exact streamBusError_kept ..

theorem exec_dmaCopy_kept (s : State) (e ch : _) : keptOut (exec (.dmaCopy e ch) s) (kept s) := by
  show keptOut (execDmaCopy e ch s) (kept s)
  unfold execDmaCopy
  show kept _ = _
  exact dmaFetch_kept ..

theorem exec_dmaFill_kept (s : State) (e ch : _) : keptOut (exec (.dmaFill e ch) s) (kept s) := by
  show keptOut (execDmaFill e ch s) (kept s)
  unfold execDmaFill
  show kept _ = _
  exact dmaFetch_kept ..

theorem exec_dmaSwap64_kept (s : State) (e ch : _) : keptOut (exec (.dmaSwap64 e ch) s) (kept s) := by
  show keptOut (execDmaSwap64 e ch s) (kept s)
  unfold execDmaSwap64
  show kept _ = _
  exact dmaFetch_kept ..

theorem exec_dmaComplete_kept (s : State) (e ch : _) : keptOut (exec (.dmaComplete e ch) s) (kept s) := by
  show keptOut (execDmaComplete e ch s) (kept s)
  unfold execDmaComplete
  show kept _ = _
  exact dmaComplete_kept ..

theorem exec_dmaTransferError_kept (s : State) (e ch kind write delivered : _) :
    keptOut (exec (.dmaTransferError e ch kind write delivered) s) (kept s) := by
  show keptOut (execDmaTransferError e ch kind write delivered s) (kept s)
  unfold execDmaTransferError
  show kept _ = _
  exact dmaError_kept ..

theorem exec_dmaTailWrite_kept (s : State) (e tail : _) : keptOut (exec (.dmaTailWrite e tail) s) (kept s) := by
  show keptOut (execDmaTailWrite e tail s) (kept s)
  unfold execDmaTailWrite
  show kept _ = _
  exact kept_ite rfl (dmaTail_kept ..)

theorem exec_resume_kept (s : State) (e : _) : keptOut (exec (.resume e) s) (kept s) := by
  show keptOut (execResume e s) (kept s)
  unfold execResume
  show kept _ = _
  exact kept_ite rfl (dmaResume_kept ..)

theorem exec_abort_kept (s : State) (e : _) : keptOut (exec (.abort e) s) (kept s) := by
  show keptOut (execAbort e s) (kept s)
  unfold execAbort
  show kept _ = _
  exact kept_ite rfl (abortChan_kept ..)

theorem exec_haltClear_kept (s : State) (c : _) : keptOut (exec (.haltClear c) s) (kept s) := by
  show keptOut (execHaltClear c s) (kept s)
  unfold execHaltClear
  show kept _ = _
  exact haltClear_kept ..

theorem exec_forceHalt_kept (s : State) (c level fromBar0 : _) : keptOut (exec (.forceHalt c level fromBar0) s) (kept s) := by
  show keptOut (execForceHalt c level fromBar0 s) (kept s)
  unfold execForceHalt
  show kept _ = _
  exact forceHalt_kept ..

theorem exec_seHaltClear_kept (s : State) (e : _) : keptOut (exec (.seHaltClear e) s) (kept s) := by
  show keptOut (execSeHaltClear e s) (kept s)
  unfold execSeHaltClear
  show kept _ = _
  exact haltClear_kept ..

theorem exec_seForceHalt_kept (s : State) (e level fromBar0 : _) : keptOut (exec (.seForceHalt e level fromBar0) s) (kept s) := by
  show keptOut (execSeForceHalt e level fromBar0 s) (kept s)
  unfold execSeForceHalt
  show kept _ = _
  with_reducible repeat' first
    | intro _
    | rfl
    | exact True.intro
    | assumption
    | refine Eq.trans (forceHalt_kept ..) ?_
    | exact forceHalt_kept ..
    | refine kept_ite ?_ ?_
    | split

theorem exec_engineReset_kept (s : State) (e : _) : keptOut (exec (.engineReset e) s) (kept s) := by
  show keptOut (execEngineReset e s) (kept s)
  unfold execEngineReset
  show kept _ = _
  exact engineReset_kept ..

theorem exec_sbEntryWrite_kept (s : State) (b hi value : _) : keptOut (exec (.sbEntryWrite b hi value) s) (kept s) := by
  show keptOut (execSbEntryWrite b hi value s) (kept s)
  unfold execSbEntryWrite
  show kept _ = _
  exact sbEntryWrite_kept ..

theorem exec_oobClear_kept (s : State) (c mask : _) : keptOut (exec (.oobClear c mask) s) (kept s) := by
  show keptOut (execOobClear c mask s) (kept s)
  unfold execOobClear
  show kept _ = _
  exact oobClear_kept ..

theorem exec_bsConfClearAll_kept (s : State) (b : _) : keptOut (exec (.bsConfClearAll b) s) (kept s) := by
  show keptOut (execBsConfClearAll b s) (kept s)
  unfold execBsConfClearAll
  show kept _ = _
  exact bsConfClear_kept ..

theorem exec_tumSet_kept (s : State) (region unit value : _) : keptOut (exec (.tumSet region unit value) s) (kept s) := by
  show keptOut (execTumSet region unit value s) (kept s)
  unfold execTumSet
  show kept _ = _
  exact tumSet_kept ..

theorem exec_syncDumpStart_kept (s : State) : keptOut (exec .syncDumpStart s) (kept s) := by
  show keptOut (execSyncDumpStart  s) (kept s)
  unfold execSyncDumpStart
  show kept _ = _
  exact dumpStart_kept ..

theorem exec_syncDumpCancel_kept (s : State) : keptOut (exec .syncDumpCancel s) (kept s) := by
  show keptOut (execSyncDumpCancel  s) (kept s)
  unfold execSyncDumpCancel
  show kept _ = _
  exact dumpCancel_kept ..

theorem exec_syncDumpDataRead_kept (s : State) : keptOut (exec .syncDumpDataRead s) (kept s) := by
  show keptOut (execSyncDumpDataRead  s) (kept s)
  unfold execSyncDumpDataRead
  show kept _ = _
  with_reducible repeat' first
    | intro _
    | rfl
    | exact True.intro
    | assumption
    | refine Eq.trans (dumpNext_kept ..) ?_
    | exact dumpNext_kept ..
    | refine Eq.trans (emit_kept ..) ?_
    | exact emit_kept ..
    | refine kept_ite ?_ ?_
    | split

theorem exec_graph_kept (s : State) (ring : _) : keptOut (exec (.graph ring) s) (kept s) := by
  show keptOut (execGraph ring s) (kept s)
  unfold execGraph
  show kept _ = _
  exact graphEntry_kept ..

theorem exec_graphResolved_kept (s : State) (graphId : _) : keptOut (exec (.graphResolved graphId) s) (kept s) := by
  show keptOut (execGraphResolved graphId s) (kept s)
  unfold execGraphResolved
  show kept _ = _
  exact graphResolved_kept ..

theorem exec_ownerTable_kept (s : State) (ring : _) : keptOut (exec (.ownerTable ring) s) (kept s) := by
  show keptOut (execOwnerTable ring s) (kept s)
  unfold execOwnerTable
  show kept _ = _
  with_reducible repeat' first
    | intro _
    | rfl
    | exact True.intro
    | assumption
    | refine tableEntry_kept (ho := ?_) ..
    | exact loadOwner_kept ..
    | refine Eq.trans (loadOwner_kept ..) ?_
    | refine keptMv_mono (loadOwner_kept ..) ?_
    | refine keptSeq_mono (loadOwner_kept ..) ?_
    | refine keptSum_mono (loadOwner_kept ..) ?_
    | refine kept_ite ?_ ?_
    | split

theorem exec_guardTable_kept (s : State) (ring : _) : keptOut (exec (.guardTable ring) s) (kept s) := by
  show keptOut (execGuardTable ring s) (kept s)
  unfold execGuardTable
  show kept _ = _
  with_reducible repeat' first
    | intro _
    | rfl
    | exact True.intro
    | assumption
    | refine tableEntry_kept (ho := ?_) ..
    | exact loadGuards_kept ..
    | refine Eq.trans (loadGuards_kept ..) ?_
    | refine keptMv_mono (loadGuards_kept ..) ?_
    | refine keptSeq_mono (loadGuards_kept ..) ?_
    | refine keptSum_mono (loadGuards_kept ..) ?_
    | refine kept_ite ?_ ?_
    | split

theorem exec_hurdleTable_kept (s : State) (ring : _) : keptOut (exec (.hurdleTable ring) s) (kept s) := by
  show keptOut (execHurdleTable ring s) (kept s)
  unfold execHurdleTable
  show kept _ = _
  with_reducible repeat' first
    | intro _
    | rfl
    | exact True.intro
    | assumption
    | refine tableEntry_kept (ho := ?_) ..
    | exact loadHurdles_kept ..
    | refine Eq.trans (loadHurdles_kept ..) ?_
    | refine keptMv_mono (loadHurdles_kept ..) ?_
    | refine keptSeq_mono (loadHurdles_kept ..) ?_
    | refine keptSum_mono (loadHurdles_kept ..) ?_
    | refine kept_ite ?_ ?_
    | split

theorem exec_stopGraph_kept (s : State) (ring : _) : keptOut (exec (.stopGraph ring) s) (kept s) := by
  show keptOut (execStopGraph ring s) (kept s)
  unfold execStopGraph
  show kept _ = _
  exact stopGraphEntry_kept ..

theorem exec_nudge_kept (s : State) (ring : _) : keptOut (exec (.nudge ring) s) (kept s) := by
  show keptOut (execNudge ring s) (kept s)
  unfold execNudge
  show kept _ = _
  exact (nudge_kept ..).trans (driverWrite_kept ..)

theorem exec_ringEnable_kept (s : State) (side ring value : _) : keptOut (exec (.ringEnable side ring value) s) (kept s) := by
  show keptOut (execRingEnable side ring value s) (kept s)
  unfold execRingEnable
  show kept _ = _
  with_reducible repeat' first
    | intro _
    | rfl
    | exact True.intro
    | assumption
    | refine Eq.trans (ringCfgWrite_kept ..) ?_
    | exact ringCfgWrite_kept ..
    | refine kept_ite ?_ ?_
    | split

theorem exec_ownerUpdateRecord_kept (s : State) (word3 : _) : keptOut (exec (.ownerUpdateRecord word3) s) (kept s) := by
  show keptOut (execOwnerUpdateRecord word3 s) (kept s)
  unfold execOwnerUpdateRecord
  show kept _ = _
  exact (ownUpdate_kept ..).trans (driverWrite_kept ..)

theorem exec_bar2Write_kept (s : State) (offset data : _) : keptOut (exec (.bar2Write offset data) s) (kept s) := by
  show keptOut (execBar2Write offset data s) (kept s)
  unfold execBar2Write
  show kept _ = _
  exact bar2Write_kept ..

theorem exec_bar2WriteRelease_kept (s : State) : keptOut (exec .bar2WriteRelease s) (kept s) := by
  show keptOut (execBar2WriteRelease  s) (kept s)
  unfold execBar2WriteRelease
  show kept _ = _
  exact bar2Release_kept ..

theorem exec_bar2Read_kept (s : State) (offset len : _) : keptOut (exec (.bar2Read offset len) s) (kept s) := by
  show keptOut (execBar2Read offset len s) (kept s)
  unfold execBar2Read
  show kept _ = _
  exact bar2Read_kept ..

theorem exec_registerWrite_kept (s : State) (who offset value : _) :
    keptOut (exec (.registerWrite who offset value) s) (kept s) := by
  show keptOut (execRegisterWrite who offset value s) (kept s)
  unfold execRegisterWrite
  show kept _ = _
  exact registerWrite_kept ..

theorem exec_fwFlagsWrite_kept (s : State) (value : _) : keptOut (exec (.fwFlagsWrite value) s) (kept s) := by
  show keptOut (execFwFlagsWrite value s) (kept s)
  unfold execFwFlagsWrite
  show kept _ = _
  exact writeField_kept ..

theorem exec_lapNumLoRead_kept (s : State) : keptOut (exec .lapNumLoRead s) (kept s) := by
  show keptOut (execLapNumLoRead  s) (kept s)
  unfold execLapNumLoRead
  show kept _ = _
  with_reducible repeat' first
    | intro _
    | rfl
    | exact True.intro
    | assumption
    | refine Eq.trans (regRead_kept ..) ?_
    | exact regRead_kept ..
    | refine Eq.trans (emit_kept ..) ?_
    | exact emit_kept ..
    | refine kept_ite ?_ ?_
    | split

theorem exec_measDataRead_kept (s : State) : keptOut (exec .measDataRead s) (kept s) := by
  show keptOut (execMeasDataRead  s) (kept s)
  unfold execMeasDataRead
  show kept _ = _
  with_reducible repeat' first
    | intro _
    | rfl
    | exact True.intro
    | assumption
    | refine Eq.trans (regRead_kept ..) ?_
    | exact regRead_kept ..
    | refine Eq.trans (emit_kept ..) ?_
    | exact emit_kept ..
    | refine kept_ite ?_ ?_
    | split

theorem exec_indDataRead_kept (s : State) (who r : _) : keptOut (exec (.indDataRead who r) s) (kept s) := by
  show keptOut (execIndDataRead who r s) (kept s)
  unfold execIndDataRead
  split
  · rfl
  · split
    · exact emit_kept ..
    · exact (emit_kept ..).trans (indRead_kept ..)

theorem exec_indDataWrite_kept (s : State) (who r value : _) : keptOut (exec (.indDataWrite who r value) s) (kept s) := by
  show keptOut (execIndDataWrite who r value s) (kept s)
  unfold execIndDataWrite
  show kept _ = _
  exact kept_ite ((indWrite_kept ..).trans (rowInput_kept ..)) rfl

theorem exec_indTimeout_kept (s : State) (who r write : _) : keptOut (exec (.indTimeout who r write) s) (kept s) := by
  show keptOut (execIndTimeout who r write s) (kept s)
  unfold execIndTimeout
  show kept _ = _
  exact kept_ite (indTimeout_kept ..) rfl

theorem exec_flr_kept (s : State) : keptOut (exec .flr s) (kept s) := by
  show keptOut (execFlr  s) (kept s)
  unfold execFlr
  show kept _ = _
  exact flr_kept ..

theorem exec_atsInvalidation_kept (s : State) (addr len : _) : keptOut (exec (.atsInvalidation addr len) s) (kept s) := by
  show keptOut (execAtsInvalidation addr len s) (kept s)
  unfold execAtsInvalidation
  show kept _ = _
  exact atsInvalidate_kept ..

theorem exec_writeOwner_kept (s : State) (g : _) : keptOut (exec (.writeOwner g) s) (kept s) := by
  show keptOut (execWriteOwner g s) (kept s)
  unfold execWriteOwner
  show kept _ = _
  exact writeOwner_kept ..

theorem exec_writeExchange_kept (s : State) (g : _) : keptOut (exec (.writeExchange g) s) (kept s) := by
  show keptOut (execWriteExchange g s) (kept s)
  unfold execWriteExchange
  show kept _ = _
  exact writeExchange_kept ..

theorem exec_writeResend_kept (s : State) (g : _) : keptOut (exec (.writeResend g) s) (kept s) := by
  show keptOut (execWriteResend g s) (kept s)
  unfold execWriteResend
  show kept _ = _
  exact writeResend_kept ..

theorem exec_readOwner_kept (s : State) (g : _) : keptOut (exec (.readOwner g) s) (kept s) := by
  show keptOut (execReadOwner g s) (kept s)
  unfold execReadOwner
  show kept _ = _
  exact readOwner_kept ..

theorem exec_readReply_kept (s : State) (g : _) : keptOut (exec (.readReply g) s) (kept s) := by
  show keptOut (execReadReply g s) (kept s)
  unfold execReadReply
  show kept _ = _
  exact readReply_kept ..

theorem exec_ledger_kept (s : State) (g : _) : keptOut (exec (.ledger g) s) (kept s) := by
  show keptOut (execLedger g s) (kept s)
  unfold execLedger
  show kept _ = _
  exact ledgerIn_kept ..

theorem exec_signalFlit_kept (s : State) (g name : _) : keptOut (exec (.signalFlit g name) s) (kept s) := by
  show keptOut (execSignalFlit g name s) (kept s)
  unfold execSignalFlit
  show kept _ = _
  exact signalFlit_kept ..

theorem exec_confirm_kept (s : State) (w : _) : keptOut (exec (.confirm w) s) (kept s) := by
  show keptOut (execConfirm w s) (kept s)
  unfold execConfirm
  show kept _ = _
  exact confirmRec_kept ..

theorem exec_confirmTimeout_kept (s : State) : keptOut (exec .confirmTimeout s) (kept s) := by
  show keptOut (execConfirmTimeout  s) (kept s)
  unfold execConfirmTimeout
  show kept _ = _
  exact confirmTimeout_kept ..

theorem exec_offer_kept (s : State) (w : _) : keptOut (exec (.offer w) s) (kept s) := by
  show keptOut (execOffer w s) (kept s)
  unfold execOffer
  show kept _ = _
  exact offerIn_kept ..

theorem exec_decline_kept (s : State) (w : _) : keptOut (exec (.decline w) s) (kept s) := by
  show keptOut (execDecline w s) (kept s)
  unfold execDecline
  show kept _ = _
  exact declineIn_kept ..

theorem exec_noRoute_kept (s : State) (w : _) : keptOut (exec (.noRoute w) s) (kept s) := by
  show keptOut (execNoRoute w s) (kept s)
  unfold execNoRoute
  show kept _ = _
  exact noRoute_kept ..

theorem exec_probe_kept (s : State) (w turnaroundPs : _) : keptOut (exec (.probe w turnaroundPs) s) (kept s) := by
  show keptOut (execProbe w turnaroundPs s) (kept s)
  unfold execProbe
  show kept _ = _
  exact probeIn_kept ..

theorem exec_probeReply_kept (s : State) (w nowPs : _) : keptOut (exec (.probeReply w nowPs) s) (kept s) := by
  show keptOut (execProbeReply w nowPs s) (kept s)
  unfold execProbeReply
  show kept _ = _
  exact probeReply_kept ..

theorem exec_probeInterval_kept (s : State) (nowPs : _) : keptOut (exec (.probeInterval nowPs) s) (kept s) := by
  show keptOut (execProbeInterval nowPs s) (kept s)
  unfold execProbeInterval
  show kept _ = _
  exact probeInterval_kept ..

theorem exec_grandmasterTakeover_kept (s : State) : keptOut (exec .grandmasterTakeover s) (kept s) := by
  show keptOut (execGrandmasterTakeover  s) (kept s)
  unfold execGrandmasterTakeover
  show kept _ = _
  exact takeover_kept ..

theorem exec_lapRefHoldover_kept (s : State) : keptOut (exec .lapRefHoldover s) (kept s) := by
  show keptOut (execLapRefHoldover  s) (kept s)
  unfold execLapRefHoldover
  show kept _ = _
  exact lapRefHoldover_kept ..

theorem exec_echo_kept (s : State) (port roundTripPs turnaroundPs : _) :
    keptOut (exec (.echo port roundTripPs turnaroundPs) s) (kept s) := by
  show keptOut (execEcho port roundTripPs turnaroundPs s) (kept s)
  unfold execEcho
  show kept _ = _
  exact echoIn_kept ..

theorem exec_nak_kept (s : State) (port ack : _) : keptOut (exec (.nak port ack) s) (kept s) := by
  show keptOut (execNak port ack s) (kept s)
  unfold execNak
  show kept _ = _
  exact nakIn_kept ..

theorem exec_laneFailure_kept (s : State) (port lane : _) : keptOut (exec (.laneFailure port lane) s) (kept s) := by
  show keptOut (execLaneFailure port lane s) (kept s)
  unfold execLaneFailure
  show kept _ = _
  exact laneFailure_kept ..

theorem exec_retrainComplete_kept (s : State) (port lanesGood : _) : keptOut (exec (.retrainComplete port lanesGood) s) (kept s) := by
  show keptOut (execRetrainComplete port lanesGood s) (kept s)
  unfold execRetrainComplete
  show kept _ = _
  exact retrainDone_kept ..

theorem exec_dzlPortEnable_kept (s : State) (port enable : _) : keptOut (exec (.dzlPortEnable port enable) s) (kept s) := by
  show keptOut (execDzlPortEnable port enable s) (kept s)
  unfold execDzlPortEnable
  show kept _ = _
  exact portEnable_kept ..

theorem exec_retrain_kept (s : State) (port : _) : keptOut (exec (.retrain port) s) (kept s) := by
  show keptOut (execRetrain port s) (kept s)
  unfold execRetrain
  show kept _ = _
  exact retrainPort_kept ..

theorem exec_trainingComplete_kept (s : State) (port lanesGood farId farPort delayPs : _) :
    keptOut (exec (.trainingComplete port lanesGood farId farPort delayPs) s) (kept s) := by
  show keptOut (execTrainingComplete port lanesGood farId farPort delayPs s) (kept s)
  unfold execTrainingComplete
  show kept _ = _
  exact trainingDone_kept ..

theorem exec_trainingTimeout_kept (s : State) (port : _) : keptOut (exec (.trainingTimeout port) s) (kept s) := by
  show keptOut (execTrainingTimeout port s) (kept s)
  unfold execTrainingTimeout
  show kept _ = _
  exact trainingTimeout_kept ..

theorem exec_livenessPoll_kept (s : State) (u answered : _) : keptOut (exec (.livenessPoll u answered) s) (kept s) := by
  show keptOut (execLivenessPoll u answered s) (kept s)
  unfold execLivenessPoll
  show kept _ = _
  exact livenessPoll_kept ..

theorem exec_heartbeatMiss_kept (s : State) (u : _) : keptOut (exec (.heartbeatMiss u) s) (kept s) := by
  show keptOut (execHeartbeatMiss u s) (kept s)
  unfold execHeartbeatMiss
  show kept _ = _
  exact heartbeatMiss_kept ..

theorem exec_errqPop_kept (s : State) (q : _) : keptOut (exec (.errqPop q) s) (kept s) := by
  show keptOut (execErrqPop q s) (kept s)
  unfold execErrqPop
  show kept _ = _
  exact errqPop_kept ..

theorem exec_selfTestComplete_kept (s : State) (c failing : _) : keptOut (exec (.selfTestComplete c failing) s) (kept s) := by
  show keptOut (execSelfTestComplete c failing s) (kept s)
  unfold execSelfTestComplete
  show kept _ = _
  exact selfTest_kept ..

theorem exec_deadboltCmd_kept (s : State) (value : _) : keptOut (exec (.deadboltCmd value) s) (kept s) := by
  show keptOut (execDeadboltCmd value s) (kept s)
  unfold execDeadboltCmd
  show kept _ = _
  exact deadboltCmd_kept ..

theorem exec_deadboltCutComplete_kept (s : State) : keptOut (exec .deadboltCutComplete s) (kept s) := by
  show keptOut (execDeadboltCutComplete  s) (kept s)
  unfold execDeadboltCutComplete
  show kept _ = _
  exact cutComplete_kept ..

theorem exec_partRegionReset_kept (s : State) (value : _) : keptOut (exec (.partRegionReset value) s) (kept s) := by
  show keptOut (execPartRegionReset value s) (kept s)
  unfold execPartRegionReset
  show kept _ = _
  with_reducible repeat' first
    | intro _
    | rfl
    | exact True.intro
    | assumption
    | refine Eq.trans (partRegionReset_kept ..) ?_
    | exact partRegionReset_kept ..
    | refine kept_ite ?_ ?_
    | split

theorem exec_regionResetComplete_kept (s : State) (r passed : _) : keptOut (exec (.regionResetComplete r passed) s) (kept s) := by
  show keptOut (execRegionResetComplete r passed s) (kept s)
  unfold execRegionResetComplete
  show kept _ = _
  exact resetComplete_kept ..

theorem exec_bridgeFailed_kept (s : State) (b : _) : keptOut (exec (.bridgeFailed b) s) (kept s) := by
  show keptOut (execBridgeFailed b s) (kept s)
  unfold execBridgeFailed
  show kept _ = _
  exact bridgeFailed_kept ..

theorem exec_bridgeEnable_kept (s : State) (value : _) : keptOut (exec (.bridgeEnable value) s) (kept s) := by
  show keptOut (execBridgeEnable value s) (kept s)
  unfold execBridgeEnable
  show kept _ = _
  exact bridgeEnable_kept ..

theorem exec_sensorSample_kept (s : State) (r idx degrees : _) : keptOut (exec (.sensorSample r idx degrees) s) (kept s) := by
  show keptOut (execSensorSample r idx degrees s) (kept s)
  unfold execSensorSample
  show kept _ = _
  exact sensorSample_kept ..

theorem exec_shedNChange_kept (s : State) (high : _) : keptOut (exec (.shedNChange high) s) (kept s) := by
  show keptOut (execShedNChange high s) (kept s)
  unfold execShedNChange
  show kept _ = _
  first | rfl | exact kept_ite rfl rfl

theorem exec_paceReqChange_kept (s : State) (level : _) : keptOut (exec (.paceReqChange level) s) (kept s) := by
  show keptOut (execPaceReqChange level s) (kept s)
  unfold execPaceReqChange
  show kept _ = _
  first | rfl | exact kept_ite rfl rfl

theorem exec_snapshotRequest_kept (s : State) (value : _) : keptOut (exec (.snapshotRequest value) s) (kept s) := by
  show keptOut (execSnapshotRequest value s) (kept s)
  unfold execSnapshotRequest
  show kept _ = _
  exact (snapRequest_kept ..).trans (driverWrite_kept ..)

theorem exec_restore_kept (s : State) (value : _) : keptOut (exec (.restore value) s) (kept s) := by
  show keptOut (execRestore value s) (kept s)
  unfold execRestore
  show kept _ = _
  exact (snapRestore_kept ..).trans (driverWrite_kept ..)

theorem exec_push_kept (s : State) (value : _) : keptOut (exec (.push value) s) (kept s) := by
  show keptOut (execPush value s) (kept s)
  unfold execPush
  show kept _ = _
  exact (snapPush_kept ..).trans (driverWrite_kept ..)

theorem exec_flashDrainComplete_kept (s : State) (slot ok : _) : keptOut (exec (.flashDrainComplete slot ok) s) (kept s) := by
  show keptOut (execFlashDrainComplete slot ok s) (kept s)
  unfold execFlashDrainComplete
  show kept _ = _
  exact drainDone_kept ..

theorem exec_streamsLoad_kept (s : State) (value : _) : keptOut (exec (.streamsLoad value) s) (kept s) := by
  show keptOut (execStreamsLoad value s) (kept s)
  unfold execStreamsLoad
  show kept _ = _
  exact (streamsLoad_kept ..).trans (driverWrite_kept ..)

theorem exec_trigger_kept (s : State) : keptOut (exec .trigger s) (kept s) := by
  show keptOut (execTrigger  s) (kept s)
  unfold execTrigger
  show kept _ = _
  exact (trkTrigger_kept ..).trans (driverWrite_kept ..)

theorem exec_tracksideFreeze_kept (s : State) : keptOut (exec .tracksideFreeze s) (kept s) := by
  show keptOut (execTracksideFreeze  s) (kept s)
  unfold execTracksideFreeze
  exact trkPost_kept ..

theorem exec_release_kept (s : State) : keptOut (exec .release s) (kept s) := by
  show keptOut (execRelease  s) (kept s)
  unfold execRelease
  show kept _ = _
  exact (trkRelease_kept ..).trans (driverWrite_kept ..)

theorem exec_exportImage_kept (s : State) : keptOut (exec .exportImage s) (kept s) := by
  show keptOut (execExportImage  s) (kept s)
  unfold execExportImage
  show kept _ = _
  exact (trkExport_kept ..).trans (driverWrite_kept ..)

theorem exec_importImage_kept (s : State) : keptOut (exec .importImage s) (kept s) := by
  show keptOut (execImportImage  s) (kept s)
  unfold execImportImage
  show kept _ = _
  exact (trkImport_kept ..).trans (driverWrite_kept ..)

theorem exec_firmwareVerified_kept (s : State) (slotB romOk : _) : keptOut (exec (.firmwareVerified slotB romOk) s) (kept s) := by
  show keptOut (execFirmwareVerified slotB romOk s) (kept s)
  unfold execFirmwareVerified
  show kept _ = _
  exact firmwareVerified_kept ..

theorem exec_service_kept (s : State) (value : _) : keptOut (exec (.service value) s) (kept s) := by
  show keptOut (execService value s) (kept s)
  unfold execService
  show kept _ = _
  exact (serviceWrite_kept ..).trans (driverWrite_kept ..)

theorem exec_regRead_kept (s : State) (offset count tag : _) : keptOut (exec (.regRead offset count tag) s) (kept s) := by
  show keptOut (execRegRead offset count tag s) (kept s)
  unfold execRegRead
  show kept _ = _
  exact regReadCmd_kept ..

theorem exec_errqRead_kept (s : State) (q tag : _) : keptOut (exec (.errqRead q tag) s) (kept s) := by
  show keptOut (execErrqRead q tag s) (kept s)
  unfold execErrqRead
  show kept _ = _
  with_reducible repeat' first
    | intro _
    | rfl
    | exact True.intro
    | assumption
    | refine sideCommand_kept (ho := ?_) ..
    | exact errqRead_kept ..
    | refine Eq.trans (errqRead_kept ..) ?_
    | refine keptMv_mono (errqRead_kept ..) ?_
    | refine keptSeq_mono (errqRead_kept ..) ?_
    | refine keptSum_mono (errqRead_kept ..) ?_
    | refine kept_ite ?_ ?_
    | split

theorem exec_deadbolt_kept (s : State) (kind unit tag : _) : keptOut (exec (.deadbolt kind unit tag) s) (kept s) := by
  show keptOut (execDeadbolt kind unit tag s) (kept s)
  unfold execDeadbolt
  show kept _ = _
  with_reducible repeat' first
    | intro _
    | rfl
    | exact True.intro
    | assumption
    | refine sideCommand_kept (ho := ?_) ..
    | exact sideDeadbolt_kept ..
    | refine Eq.trans (sideDeadbolt_kept ..) ?_
    | refine keptMv_mono (sideDeadbolt_kept ..) ?_
    | refine keptSeq_mono (sideDeadbolt_kept ..) ?_
    | refine keptSum_mono (sideDeadbolt_kept ..) ?_
    | refine kept_ite ?_ ?_
    | split

theorem exec_regionReset_kept (s : State) (r tag : _) : keptOut (exec (.regionReset r tag) s) (kept s) := by
  show keptOut (execRegionReset r tag s) (kept s)
  unfold execRegionReset
  show kept _ = _
  with_reducible repeat' first
    | intro _
    | rfl
    | exact True.intro
    | assumption
    | refine sideCommand_kept (ho := ?_) ..
    | exact answer_kept ..
    | refine Eq.trans (answer_kept ..) ?_
    | refine keptMv_mono (answer_kept ..) ?_
    | refine keptSeq_mono (answer_kept ..) ?_
    | refine keptSum_mono (answer_kept ..) ?_
    | exact partRegionReset_kept ..
    | refine Eq.trans (partRegionReset_kept ..) ?_
    | refine keptMv_mono (partRegionReset_kept ..) ?_
    | refine keptSeq_mono (partRegionReset_kept ..) ?_
    | refine keptSum_mono (partRegionReset_kept ..) ?_
    | refine kept_ite ?_ ?_
    | split

theorem exec_syncDump_kept (s : State) (start tag : _) : keptOut (exec (.syncDump start tag) s) (kept s) := by
  show keptOut (execSyncDump start tag s) (kept s)
  unfold execSyncDump
  show kept _ = _
  with_reducible repeat' first
    | intro _
    | rfl
    | exact True.intro
    | assumption
    | refine sideCommand_kept (ho := ?_) ..
    | exact sideDump_kept ..
    | refine Eq.trans (sideDump_kept ..) ?_
    | refine keptMv_mono (sideDump_kept ..) ?_
    | refine keptSeq_mono (sideDump_kept ..) ?_
    | refine keptSum_mono (sideDump_kept ..) ?_
    | refine kept_ite ?_ ?_
    | split

theorem exec_trkTrigger_kept (s : State) (tag : _) : keptOut (exec (.trkTrigger tag) s) (kept s) := by
  show keptOut (execTrkTrigger tag s) (kept s)
  unfold execTrkTrigger
  show kept _ = _
  with_reducible repeat' first
    | intro _
    | rfl
    | exact True.intro
    | assumption
    | refine sideCommand_kept (ho := ?_) ..
    | exact answer_kept ..
    | refine Eq.trans (answer_kept ..) ?_
    | refine keptMv_mono (answer_kept ..) ?_
    | refine keptSeq_mono (answer_kept ..) ?_
    | refine keptSum_mono (answer_kept ..) ?_
    | exact trkTrigger_kept ..
    | refine Eq.trans (trkTrigger_kept ..) ?_
    | refine keptMv_mono (trkTrigger_kept ..) ?_
    | refine keptSeq_mono (trkTrigger_kept ..) ?_
    | refine keptSum_mono (trkTrigger_kept ..) ?_
    | refine kept_ite ?_ ?_
    | split

theorem exec_listPut_kept (s : State) (entries tag : _) : keptOut (exec (.listPut entries tag) s) (kept s) := by
  show keptOut (execListPut entries tag s) (kept s)
  unfold execListPut
  show kept _ = _
  with_reducible repeat' first
    | intro _
    | rfl
    | exact True.intro
    | assumption
    | refine sideCommand_kept (ho := ?_) ..
    | exact listPut_kept ..
    | refine Eq.trans (listPut_kept ..) ?_
    | refine keptMv_mono (listPut_kept ..) ?_
    | refine keptSeq_mono (listPut_kept ..) ?_
    | refine keptSum_mono (listPut_kept ..) ?_
    | refine kept_ite ?_ ?_
    | split

theorem exec_notifyAck_kept (s : State) : keptOut (exec .notifyAck s) (kept s) := by
  show keptOut (execNotifyAck  s) (kept s)
  unfold execNotifyAck
  show kept _ = _
  exact notifyAck_kept ..

theorem exec_notifyResend_kept (s : State) : keptOut (exec .notifyResend s) (kept s) := by
  show keptOut (execNotifyResend  s) (kept s)
  unfold execNotifyResend
  show kept _ = _
  exact notifyResend_kept ..

theorem exec_debugNonce_kept (s : State) (tag : _) : keptOut (exec (.debugNonce tag) s) (kept s) := by
  show keptOut (execDebugNonce tag s) (kept s)
  unfold execDebugNonce
  show kept _ = _
  with_reducible repeat' first
    | intro _
    | rfl
    | exact True.intro
    | assumption
    | refine sideCommand_kept (ho := ?_) ..
    | exact answer_kept ..
    | refine Eq.trans (answer_kept ..) ?_
    | refine keptMv_mono (answer_kept ..) ?_
    | refine keptSeq_mono (answer_kept ..) ?_
    | refine keptSum_mono (answer_kept ..) ?_
    | refine kept_ite ?_ ?_
    | split

theorem exec_debugUnlock_kept (s : State) (token tag : _) : keptOut (exec (.debugUnlock token tag) s) (kept s) := by
  show keptOut (execDebugUnlock token tag s) (kept s)
  unfold execDebugUnlock
  show kept _ = _
  with_reducible repeat' first
    | intro _
    | rfl
    | exact True.intro
    | assumption
    | refine sideCommand_kept (ho := ?_) ..
    | exact debugUnlock_kept ..
    | refine Eq.trans (debugUnlock_kept ..) ?_
    | refine keptMv_mono (debugUnlock_kept ..) ?_
    | refine keptSeq_mono (debugUnlock_kept ..) ?_
    | refine keptSum_mono (debugUnlock_kept ..) ?_
    | refine kept_ite ?_ ?_
    | split

theorem exec_indRead_kept (s : State) (r target offset count tag : _) : keptOut (exec (.indRead r target offset count tag) s) (kept s) := by
  show keptOut (execIndRead r target offset count tag s) (kept s)
  unfold execIndRead
  show kept _ = _
  with_reducible repeat' first
    | intro _
    | rfl
    | exact True.intro
    | assumption
    | refine sideCommand_kept (ho := ?_) ..
    | exact indReadCmd_kept ..
    | refine Eq.trans (indReadCmd_kept ..) ?_
    | refine keptMv_mono (indReadCmd_kept ..) ?_
    | refine keptSeq_mono (indReadCmd_kept ..) ?_
    | refine keptSum_mono (indReadCmd_kept ..) ?_
    | refine kept_ite ?_ ?_
    | split

theorem exec_setEndpointId_kept (s : State) (eid : _) : keptOut (exec (.setEndpointId eid) s) (kept s) := by
  show keptOut (execSetEndpointId eid s) (kept s)
  unfold execSetEndpointId
  show kept _ = _
  first | rfl | exact kept_ite rfl rfl

theorem exec_getVersion_kept (s : State) (t : _) : keptOut (exec (.getVersion t) s) (kept s) := by
  show keptOut (execGetVersion t s) (kept s)
  unfold execGetVersion
  show kept _ = _
  exact spdmVersion_kept ..

theorem exec_getCapabilities_kept (s : State) (t req : _) : keptOut (exec (.getCapabilities t req) s) (kept s) := by
  show keptOut (execGetCapabilities t req s) (kept s)
  unfold execGetCapabilities
  show kept _ = _
  exact spdmNegotiate_kept ..

theorem exec_negotiateAlgorithms_kept (s : State) (t req : _) : keptOut (exec (.negotiateAlgorithms t req) s) (kept s) := by
  show keptOut (execNegotiateAlgorithms t req s) (kept s)
  unfold execNegotiateAlgorithms
  show kept _ = _
  exact spdmNegotiate_kept ..

theorem exec_getDigests_kept (s : State) (t : _) : keptOut (exec (.getDigests t) s) (kept s) := by
  show keptOut (execGetDigests t s) (kept s)
  unfold execGetDigests
  show kept _ = _
  exact spdmCerts_kept ..

theorem exec_getCertificate_kept (s : State) (t slot offset len : _) : keptOut (exec (.getCertificate t slot offset len) s) (kept s) := by
  show keptOut (execGetCertificate t slot offset len s) (kept s)
  unfold execGetCertificate
  show kept _ = _
  exact spdmCerts_kept ..

theorem exec_challenge_kept (s : State) (t req : _) : keptOut (exec (.challenge t req) s) (kept s) := by
  show keptOut (execChallenge t req s) (kept s)
  unfold execChallenge
  show kept _ = _
  exact spdmChallenge_kept ..

theorem exec_getMeasurements_kept (s : State) (t req : _) : keptOut (exec (.getMeasurements t req) s) (kept s) := by
  show keptOut (execGetMeasurements t req s) (kept s)
  unfold execGetMeasurements
  show kept _ = _
  exact spdmMeasurements_kept ..

theorem exec_builtInTestComplete_kept (s : State) (failed regionsFailed : _) :
    keptOut (exec (.builtInTestComplete failed regionsFailed) s) (kept s) := by
  show keptOut (execBuiltInTestComplete failed regionsFailed s) (kept s)
  unfold execBuiltInTestComplete
  show kept _ = _
  exact builtInTest_kept ..

theorem exec_flitCrcFailure_kept (s : State) (port : _) : keptOut (exec (.flitCrcFailure port) s) (kept s) := by
  show keptOut (execFlitCrcFailure port s) (kept s)
  unfold execFlitCrcFailure
  show kept _ = _
  exact crcFailure_kept ..

theorem exec_idle_kept (s : State) (port ack : _) : keptOut (exec (.idle port ack) s) (kept s) := by
  show keptOut (execIdle port ack s) (kept s)
  unfold execIdle
  show kept _ = _
  exact idleIn_kept ..

theorem exec_forward_kept (s : State) (r f : _) : keptOut (exec (.forward r f) s) (kept s) := by
  show keptOut (execForward r f s) (kept s)
  unfold execForward
  show kept _ = _
  exact forwardFlit_kept ..

theorem exec_streamResponse_kept (s : State) (u m : _) : keptOut (exec (.streamResponse u m) s) (kept s) := by
  show keptOut (execStreamResponse u m s) (kept s)
  unfold execStreamResponse
  show kept _ = _
  exact streamResponse_kept ..

theorem exec_flashPortReady_kept (s : State) (port width rate : _) : keptOut (exec (.flashPortReady port width rate) s) (kept s) := by
  show keptOut (execFlashPortReady port width rate s) (kept s)
  unfold execFlashPortReady
  show kept _ = _
  exact flashReady_kept ..

/-! ## Commands that move the lap or burn a fuse -/

theorem stopWork_kept (s : State) : kept (stopWork s) = kept s := by
  unfold stopWork stopAll
  refine (kept_foldl (fun t (c : Nat × Core) => stopUnit t c.1) _ _ fun t c => stopUnit_kept t c.1).trans ?_
  rw [kept_updLap _ _ rfl rfl, timeRest_kept, countRest_kept]
  exact dmaMarkAll_kept s

theorem turnLap_keptTo (s : State) : kept (turnLap s) = ⟨s.fuses, s.pending, (s.lap.num + 1) % 2 ^ 48, .marked⟩ := rfl

theorem endLap_keptTo (s : State) : kept (endLap s) = ⟨s.fuses, s.pending, (s.lap.num + 1) % 2 ^ 48, .marked⟩ := by
  unfold endLap
  rw [turnLap_keptTo]
  have h : kept (clearLapLocal (trkPost (stopWork (trkClose s)))) = kept s := by
    rw [clearLapLocal_kept, trkPost_kept, stopWork_kept, trkClose_kept]
  have h1 := congrArg KeptPart.fuses h
  have h2 := congrArg KeptPart.pending h
  have h3 := congrArg KeptPart.num h
  simp only [kept] at h1 h2 h3
  rw [h1, h2, h3]

theorem lapMark_keptTo (s : State) (h : s.lap.phase = .issuing) : kept (lapMark s) = ⟨s.fuses, s.pending, (s.lap.num + 1) % 2 ^ 48, .marked⟩ := by
  unfold lapMark
  rw [if_pos h, startLap_kept, endLap_keptTo]

theorem lapMark_idle (s : State) (h : s.lap.phase ≠ .issuing) : lapMark s = s := if_neg h

theorem openLap_kept (s : State) (ts : List LapTask) : kept (openLap s ts) = kept s := by
  show kept (noteShed (meetEpochs (ts.foldl openFor s) ts)) = _
  rw [noteShed_kept, meetEpochs_kept]
  exact kept_foldl _ _ _ fun t k => openFor_kept t k

theorem firstIssue_keptTo (s : State) (h : s.lap.phase = .committed) (ht : s.part.thermTrip = false) :
    kept (firstIssue s) = ⟨s.fuses, s.pending, s.lap.num, .issuing⟩ := by
  unfold firstIssue
  rw [if_neg (by rintro (a | a); exact a h; rw [ht] at a; cases a), relayStep_kept, stirChans_kept, callResends_kept, sendResends_kept,
    sendOffers_kept, serveReads_kept, openLap_kept]
  rfl

theorem firstIssue_idle (s : State) (h : s.lap.phase ≠ .committed ∨ s.part.thermTrip = true) : firstIssue s = s := if_pos h

theorem commitTasks_kept (s : State) (d : Dec) (raw : List LapTask) (st : Bytes) (words) : kept (commitTasks s d raw st words) = kept s := by
  unfold commitTasks
  extract_lets s1 s2 s3 s4
  have h1 : kept s1 = kept s := (calibrateAll_kept ..).trans (kept_foldl _ _ _ fun t w => sendControl_kept t w.1 2 w.2)
  have h2 : kept s2 = kept s1 := kept_foldl _ _ _ fun t e => (stopGraph_kept ..).trans (graphEvent_kept ..)
  have h3 : kept s3 = kept s2 := kept_updLap _ _ rfl rfl
  have h4 : kept s4 = kept s3 :=
    (endStopped_kept ..).trans ((groupsAgain_kept ..).trans (kept_foldl _ _ _ fun t k => settleTask_kept raw t k))
  clear_value s4 s3 s2 s1
  rw [lapRecords_kept, measureLap_kept, putCpls_kept, h4, h3, h2, h1]

theorem commitLap_kept (s : State) : kept (commitLap s) = kept s := by
  unfold commitLap
  rw [dropUnsent_kept, clearHalts_kept, restoreCommit_kept, relayCommit_kept, snapCommit_kept, commitTasks_kept, keepImage_kept, commitMemory_kept, settleEpochs_kept]

theorem lapDecided_kept (s : State) : kept (lapDecided s) = kept s := rfl

theorem placeAgain_kept (s : State) : kept (placeAgain s) = kept s := by
  unfold placeAgain
  exact (kept_foldl _ _ _ fun t g => closeGraph_kept t g).trans (kept_ite (replan_kept _) rfl)

theorem goOn_keptTo (s : State) : ∃ p, (p = .committed ∨ p = .off) ∧ kept (goOn s) = ⟨s.fuses, s.pending, s.lap.num, p⟩ := by
  unfold goOn
  split
  · refine ⟨.off, Or.inr rfl, ?_⟩
    have hr : kept (serveReads { keepWhole s with link := { (keepWhole s).link with activeGm := false } }) = kept s :=
      (serveReads_kept ..).trans (keepWhole_kept ..)
    dsimp only
    generalize serveReads { keepWhole s with link := { (keepWhole s).link with activeGm := false } } = t at *
    have r1 : t.fuses = s.fuses := congrArg KeptPart.fuses hr
    have r2 : t.pending = s.pending := congrArg KeptPart.pending hr
    have r3 : t.lap.num = s.lap.num := congrArg KeptPart.num hr
    show KeptPart.mk t.fuses t.pending t.lap.num .off = _
    rw [r1, r2, r3]
  · exact ⟨.committed, Or.inl rfl, rfl⟩

theorem commitPoint_keptTo (s : State) (h : s.lap.phase = .marked) :
    ∃ p, (p = .committed ∨ p = .off) ∧ kept (commitPoint s) = ⟨s.fuses, s.pending, s.lap.num, p⟩ := by
  unfold commitPoint
  rw [if_neg (by simp [h])]
  have hk : kept (placeAgain (lapDecided (commitLap (missVotes s)))) = kept s := by
    rw [placeAgain_kept]
    rw [lapDecided_kept, commitLap_kept, missVotes_kept]
  generalize placeAgain (lapDecided (commitLap (missVotes s))) = t at hk ⊢
  obtain ⟨p, hp, hg⟩ := goOn_keptTo t
  refine ⟨p, hp, hg.trans ?_⟩
  have r1 : t.fuses = s.fuses := congrArg KeptPart.fuses hk
  have r2 : t.pending = s.pending := congrArg KeptPart.pending hk
  have r3 : t.lap.num = s.lap.num := congrArg KeptPart.num hk
  rw [r1, r2, r3]

theorem commitPoint_idle (s : State) (h : s.lap.phase ≠ .marked) : commitPoint s = s := if_pos h

theorem enterService_keptTo (s : State) (lap : Nat) : kept (enterService s lap) = ⟨s.fuses, s.pending, lap, .marked⟩ := by
  unfold enterService
  extract_lets s1 s2 s3
  rw [openMark_kept]
  have h : kept s2 = kept s := by
    show kept (applyShadows (voteAll (clearLapLocal s1))) = _
    rw [applyShadows_kept, voteAll_kept, clearLapLocal_kept]
    refine (readmit_kept ..).trans ?_
    exact kept_foldl _ _ _ fun t r => kept_ite (formPool_kept t r) rfl
  have h1 : s2.fuses = s.fuses := congrArg KeptPart.fuses h
  have h2 : s2.pending = s.pending := congrArg KeptPart.pending h
  show KeptPart.mk s2.fuses s2.pending lap .marked = _
  rw [h1, h2]

theorem acquire_keptTo (s : State) (p : Nat) (m : Marker) :
    kept (acquire s p m) = kept s ∨ kept (acquire s p m) = ⟨s.fuses, s.pending, m.lap, .marked⟩ := by
  unfold acquire
  extract_lets c
  split
  · exact Or.inl rfl
  · split
    · exact Or.inl rfl
    · split
      · split
        · exact Or.inl (depthExceeded_kept _)
        · exact Or.inr (enterService_keptTo _ _)
      · exact Or.inl rfl

theorem markerIn_keptTo (s : State) (p : Nat) (m : Marker) : kept (markerIn s p m) = kept s ∨
    (awaitsService s = true ∧ kept (markerIn s p m) = ⟨s.fuses, s.pending, m.lap, .marked⟩) := by
  unfold markerIn
  split
  · exact Or.inl rfl
  · split
    · exact Or.inl rfl
    · split
      · exact Or.inl (periodMismatch_kept s)
      · split
        · split
          · rename_i ha
            rcases acquire_keptTo { s with link := { s.link with stoodDown := s.link.stoodDown || isMaster s } } p m with hq | hq
            · exact Or.inl hq
            · exact Or.inr ⟨ha, hq⟩
          · exact Or.inl rfl
        · refine Or.inl ?_
          refine (kept_ite (k := kept s) rfl ?_)
          refine kept_ite (kept_ite rfl (standDown_kept s p m)) ?_
          exact kept_ite (tooDeep_kept s) (takeMarker_kept s p m)

theorem lapRefEdge_keptTo (s : State) (o : Int) : kept (lapRefEdge s o) = kept s ∨
    (awaitsService s = true ∧ kept (lapRefEdge s o) = ⟨s.fuses, s.pending, bootLap s, .marked⟩) := by
  unfold lapRefEdge
  extract_lets s1
  split
  · exact Or.inl rfl
  · split
    · rename_i ha
      exact Or.inr ⟨ha, enterService_keptTo _ _⟩
    · split
      · exact Or.inl rfl
      · exact Or.inl rfl

/-- All of kept but the fuses. -/
def keptLap (s : State) : List Instr × Nat × LapPhase := (s.pending, s.lap.num, s.lap.phase)

theorem keptLap_of_kept {s t : State} (h : kept t = kept s) : keptLap t = keptLap s := by
  have h2 : t.pending = s.pending := congrArg KeptPart.pending h
  have h3 : t.lap.num = s.lap.num := congrArg KeptPart.num h
  have h4 : t.lap.phase = s.lap.phase := congrArg KeptPart.phase h
  show (t.pending, t.lap.num, t.lap.phase) = _
  rw [h2, h3, h4]; rfl

theorem fuses_of_kept {s t : State} (h : kept t = kept s) : t.fuses = s.fuses := congrArg KeptPart.fuses h

/-- Everything of the fuses but the rollback floor and the owner's key stays, the floor does not fall, and a key that is there stays. -/
def fusesGrow (s t : State) : Prop :=
  (t.fuses = { s.fuses with rollbackFloor := t.fuses.rollbackFloor, ownerDigest := t.fuses.ownerDigest }) ∧
    s.fuses.rollbackFloor ≤ t.fuses.rollbackFloor ∧ ∀ d, s.fuses.ownerDigest = some d → t.fuses.ownerDigest = some d

theorem fusesGrow_of_eq {s t : State} (h : t.fuses = s.fuses) : fusesGrow s t := by
  refine ⟨?_, ?_, ?_⟩ <;> rw [h]
  intro d hd; exact hd

theorem fusesGrow_trans {s t u : State} (h : fusesGrow s t) (k : u.fuses = t.fuses) : fusesGrow s u := by
  obtain ⟨h1, h2, h3⟩ := h
  exact ⟨by rw [k]; exact h1, by rw [k]; exact h2, by rw [k]; exact h3⟩

theorem fusesGrow_pre {s t u : State} (h : fusesGrow t u) (k : t.fuses = s.fuses) : fusesGrow s u := by
  obtain ⟨h1, h2, h3⟩ := h
  exact ⟨by rw [← k]; exact h1, by rw [← k]; exact h2, by rw [← k]; exact h3⟩

theorem burnFloor_keptTo (s : State) : keptLap (burnFloor s) = keptLap s ∧ fusesGrow s (burnFloor s) := by
  unfold burnFloor
  split
  · rename_i hb
    simp only [Bool.and_eq_true, decide_eq_true_eq] at hb
    exact ⟨rfl, rfl, le_of_lt hb.2, fun d hd => hd⟩
  · exact ⟨rfl, fusesGrow_of_eq rfl⟩

theorem measReady_kept (s : State) : kept (measReady s) = kept s := by
  unfold measReady
  rw [measDebug_kept, measLists_kept, setMeas_kept, setMeas_kept]

theorem becomeReady_keptTo (s : State) : keptLap (becomeReady s) = keptLap s ∧ fusesGrow s (becomeReady s) := by
  unfold becomeReady
  split
  · exact ⟨rfl, fusesGrow_of_eq rfl⟩
  · have h := burnFloor_keptTo s
    have hk : kept (setPhase (signAlias (measReady (burnFloor s))) 4) = kept (burnFloor s) := by
      rw [setPhase_kept, signAlias_kept, measReady_kept]
    exact ⟨(keptLap_of_kept hk).trans h.1, fusesGrow_trans h.2 (fuses_of_kept hk)⟩

theorem heldDeadbolts_kept (s : State) : kept (heldDeadbolts s) = kept s := by
  unfold heldDeadbolts
  exact kept_foldl (fun t (e : Nat × Nat) => deadboltCmd t byBoard e.1 e.2) _ _ fun t e => deadboltCmd_kept t byBoard e.1 e.2

theorem finishBoot_keptTo (s : State) (l : List Nat) : keptLap (finishBoot s l) = keptLap s ∧ fusesGrow s (finishBoot s l) := by
  unfold finishBoot
  have h : kept (heldDeadbolts (setPhase (l.foldl applyEntry s) 3)) = kept s := by
    rw [heldDeadbolts_kept, setPhase_kept]
    exact kept_foldl _ _ _ fun t e => applyEntry_kept t e
  generalize heldDeadbolts (setPhase (l.foldl applyEntry s) 3) = t at h ⊢
  dsimp only
  split
  · have hc : kept (configure t) = kept s := (configure_kept t).trans h
    have hb := becomeReady_keptTo (configure t)
    exact ⟨hb.1.trans (keptLap_of_kept hc), fusesGrow_pre hb.2 (fuses_of_kept hc)⟩
  · have hf : kept (bootFail t 3) = kept s := (bootFail_kept ..).trans h
    exact ⟨keptLap_of_kept hf, fusesGrow_of_eq (fuses_of_kept hf)⟩

theorem listDone_keptTo (s : State) : keptLap (listDone s) = keptLap s ∧ fusesGrow s (listDone s) := by
  unfold listDone
  split
  · exact finishBoot_keptTo _ _
  · exact ⟨rfl, fusesGrow_of_eq rfl⟩

theorem listTimeout_keptTo (s : State) : keptLap (listTimeout s) = keptLap s ∧ fusesGrow s (listTimeout s) := by
  unfold listTimeout
  split
  · have h := finishBoot_keptTo (fput s fPART_BOOT_STATUS_NO_BOARD_LISTS 0 0 1) []
    exact ⟨h.1, h.2⟩
  · exact ⟨rfl, fusesGrow_of_eq rfl⟩

theorem ownerEnroll_keptTo (d : BitVec 256) (tag : Nat) (s : State) :
    keptLap (ownerEnroll d tag s) = keptLap s ∧ fusesGrow s (ownerEnroll d tag s) := by
  unfold ownerEnroll
  split
  · rename_i h
    simp only [Bool.and_eq_true, Option.isNone_iff_eq_none] at h
    have hk := (answer_kept (securityEvent (fuseOwner s d) 4) tag 0 []).trans (securityEvent_kept _ 4)
    refine ⟨(keptLap_of_kept hk).trans rfl, fusesGrow_trans (t := fuseOwner s d) ?_ (fuses_of_kept hk)⟩
    exact ⟨rfl, le_refl _, fun e he => by rw [h.1] at he; cases he⟩
  · have hk := answer_kept s tag 1 []
    exact ⟨keptLap_of_kept hk, fusesGrow_of_eq (fuses_of_kept hk)⟩

theorem sideCommand_keptTo (s : State) (cmd tag : Nat) (operands : Bytes) (act : State → State) (ho : ∀ t, keptLap (act t) = keptLap t ∧ fusesGrow t (act t)) :
    keptLap (sideCommand s cmd tag operands act) = keptLap s ∧ fusesGrow s (sideCommand s cmd tag operands act) := by
  unfold sideCommand
  split
  · exact ⟨rfl, fusesGrow_of_eq rfl⟩
  · split
    · have hk := sideInput_kept s cmd tag operands
      have h := ho (sideInput s cmd tag operands)
      exact ⟨h.1.trans (keptLap_of_kept hk), fusesGrow_pre h.2 (fuses_of_kept hk)⟩
    · have hk := answer_kept s tag 1 []
      exact ⟨keptLap_of_kept hk, fusesGrow_of_eq (fuses_of_kept hk)⟩

theorem sideAction_keptTo (cmd tag : Nat) (ops : Bytes) (act : State → State) (h : sideAction cmd tag ops = some act) (t : State) :
    keptLap (act t) = keptLap t ∧ fusesGrow t (act t) := by
  have of : ∀ u, kept u = kept t → keptLap u = keptLap t ∧ fusesGrow t u := fun u h => ⟨keptLap_of_kept h, fusesGrow_of_eq (fuses_of_kept h)⟩
  unfold sideAction at h
  extract_lets n at h
  clear_value n
  split at h <;> first | cases h | (simp only [Option.some.injEq] at h; subst h)
  · exact of _ (errqRead_kept ..)
  · exact of _ (sideDeadbolt_kept ..)
  · exact of _ ((answer_kept ..).trans (partRegionReset_kept ..))
  · exact of _ (sideDump_kept ..)
  · exact of _ ((answer_kept ..).trans (trkTrigger_kept ..))
  · exact of _ (listPut_kept ..)
  · have hk := answer_kept (listDone t) tag 0 []
    have h := listDone_keptTo t
    exact ⟨(keptLap_of_kept hk).trans h.1, fusesGrow_trans h.2 (fuses_of_kept hk)⟩
  · exact of _ (answer_kept ..)
  · exact of _ (debugUnlock_kept ..)
  · exact ownerEnroll_keptTo ..
  · exact of _ (indReadCmd_kept ..)

theorem sideMessage_keptTo (s : State) (cmd tag : Nat) (ops : Bytes) :
    keptLap (sideMessage s cmd tag ops) = keptLap s ∧ fusesGrow s (sideMessage s cmd tag ops) := by
  have of : ∀ u, kept u = kept s → keptLap u = keptLap s ∧ fusesGrow s u := fun u h => ⟨keptLap_of_kept h, fusesGrow_of_eq (fuses_of_kept h)⟩
  unfold sideMessage
  split
  · exact of _ rfl
  · split
    · exact of _ (regReadCmd_kept ..)
    · split
      · exact sideCommand_keptTo _ _ _ _ _ fun t => sideAction_keptTo _ _ _ _ (by assumption) t
      · exact of _ (answer_kept ..)

theorem giveInput_keptTo (s : State) (x : TrkRec) : keptLap (giveInput s x) = keptLap s ∧ fusesGrow s (giveInput s x) := by
  have of : ∀ u, kept u = kept s → keptLap u = keptLap s ∧ fusesGrow s u := fun u h => ⟨keptLap_of_kept h, fusesGrow_of_eq (fuses_of_kept h)⟩
  unfold giveInput
  split
  · exact of _ (giveWrite_kept ..)
  · exact of _ (giveSegment_kept ..)
  · exact sideMessage_keptTo ..
  · exact of _ (takeStream_kept ..)
  · exact of _ rfl

theorem fusesGrow_then {s t u : State} (h : fusesGrow s t) (k : fusesGrow t u) : fusesGrow s u := by
  obtain ⟨h1, h2, h3⟩ := h
  obtain ⟨k1, k2, k3⟩ := k
  refine ⟨?_, h2.trans k2, fun d hd => k3 d (h3 d hd)⟩
  rw [k1, h1]

theorem giveInputs_keptTo (l : List TrkRec) (s : State) : keptLap (l.foldl giveInput s) = keptLap s ∧ fusesGrow s (l.foldl giveInput s) := by
  induction l generalizing s with
  | nil => exact ⟨rfl, fusesGrow_of_eq rfl⟩
  | cons x l ih =>
    have h := giveInput_keptTo s x
    have k := ih (giveInput s x)
    exact ⟨k.1.trans h.1, fusesGrow_then h.2 k.2⟩

theorem benchMark_keptTo (s : State) : kept (benchMark s) = kept s ∨
    s.lap.phase = .issuing ∧ kept (benchMark s) = ⟨s.fuses, s.pending, (s.lap.num + 1) % 2 ^ 48, .marked⟩ := by
  unfold benchMark
  by_cases h : s.lap.phase = .issuing
  · right
    refine ⟨h, ?_⟩
    split
    · exact lapMark_keptTo (benchHost s (s.lap.num + 1)) h
    · exact lapMark_keptTo s h
  · left
    rw [if_neg (by simp [h]), lapMark_idle s h]

theorem benchCommit_keptTo (s : State) : kept (benchCommit s) = kept s ∨
    s.lap.phase = .marked ∧ ∃ p, (p = .committed ∨ p = .off) ∧ kept (benchCommit s) = ⟨s.fuses, s.pending, s.lap.num, p⟩ := by
  unfold benchCommit
  by_cases h : s.lap.phase = .marked
  · right
    refine ⟨h, ?_⟩
    split
    · have hk : kept ((benchInputs s s.lap.num [4]).foldl giveControl s) = kept s := kept_foldl _ _ _ fun t x => giveControl_kept t x
      generalize (benchInputs s s.lap.num [4]).foldl giveControl s = t at hk ⊢
      have r1 : t.fuses = s.fuses := congrArg KeptPart.fuses hk
      have r2 : t.pending = s.pending := congrArg KeptPart.pending hk
      have r3 : t.lap.num = s.lap.num := congrArg KeptPart.num hk
      have r4 : t.lap.phase = s.lap.phase := congrArg KeptPart.phase hk
      rw [← r1, ← r2, ← r3]
      exact commitPoint_keptTo t (r4.trans h)
    · exact commitPoint_keptTo s h
  · left
    rw [if_neg (by simp [h]), commitPoint_idle s h]

theorem benchIssue_keptTo (s : State) :
    (keptLap (benchIssue s) = keptLap s ∨
      s.lap.phase = .committed ∧ s.part.thermTrip = false ∧ keptLap (benchIssue s) = (s.pending, s.lap.num, .issuing)) ∧ fusesGrow s (benchIssue s) := by
  unfold benchIssue
  extract_lets t
  by_cases h : s.lap.phase = .committed ∧ s.part.thermTrip = false
  · have hk : kept t = ⟨s.fuses, s.pending, s.lap.num, .issuing⟩ := firstIssue_keptTo s h.1 h.2
    have hl : keptLap t = (s.pending, s.lap.num, .issuing) := by
      have r2 : t.pending = s.pending := congrArg KeptPart.pending hk
      have r3 : t.lap.num = s.lap.num := congrArg KeptPart.num hk
      have r4 : t.lap.phase = .issuing := congrArg KeptPart.phase hk
      show (t.pending, t.lap.num, t.lap.phase) = _
      rw [r2, r3, r4]
    have hf : t.fuses = s.fuses := congrArg KeptPart.fuses hk
    clear_value t
    split
    · have hg := giveInputs_keptTo (benchInputs t t.lap.num [2, 3, 5, 6]) t
      exact ⟨Or.inr ⟨h.1, h.2, hg.1.trans hl⟩, fusesGrow_pre hg.2 hf⟩
    · exact ⟨Or.inr ⟨h.1, h.2, hl⟩, fusesGrow_of_eq hf⟩
  · have ht : t = s := firstIssue_idle s (by
      by_cases h1 : s.lap.phase = .committed
      · exact Or.inr (by cases hx : s.part.thermTrip with
          | true => rfl
          | false => exact absurd ⟨h1, hx⟩ h)
      · exact Or.inl h1)
    rw [ht]
    rw [if_neg (by
      simp only [Bool.and_eq_true, decide_eq_true_eq, not_and]
      intro hb hi
      rw [hb.2] at hi; cases hi)]
    exact ⟨Or.inl rfl, fusesGrow_of_eq rfl⟩

theorem partReset_fuses (s : State) : (partReset s).fuses = s.fuses := rfl

theorem partReset_pending (s : State) : (partReset s).pending = s.pending := rfl

theorem partReset_lap (s : State) : (partReset s).lap = State.reset.lap := rfl

end Sys2Proof.Machine
end

