-- ==== Sys2Proof/Laws/Told.lean ====
section
/-! SUPPORT. What reports leave alone: error records, events, interrupts, the recorder and reads of host memory write register fields and
the state of the host, the board and the recorder, and nothing of the lap, the graphs, the units and their memories. -/

set_option linter.unusedTactic false
set_option linter.unreachableTactic false

namespace Sys2Proof.Machine

/-- The parts of the state that no report writes. -/
structure ToldPart where
  fuses : Fuses
  lap : LapSt
  pacer : PacerSt
  graphs : List Graph
  cores : Tab Core
  regions : Tab Region
  blocks : Tab Block
  owners : Tab OwnTable
  ownPend : List OwnPend
  link : LinkSt
  guards : List GuardTab
  hurdles : Tab Nat
  boot : BootSt
  snap : SnapSt
  pending : List Instr

def told (s : State) : ToldPart :=
  ⟨s.fuses, s.lap, s.pacer, s.graphs, s.cores, s.regions, s.blocks, s.owners, s.ownPend, s.link, s.guards, s.hurdles, s.boot, s.snap, s.pending⟩

theorem told_mk (s : State) (flds shadows dump part host side spdm trk lapLog digests pins out freeCtr) :
    told (State.mk s.fuses flds shadows s.lap s.pacer s.graphs s.cores s.regions s.blocks s.owners s.ownPend s.link s.guards s.hurdles dump part host
      side s.boot spdm s.snap trk lapLog digests pins out freeCtr s.pending) = told s := rfl

theorem told_ite {c : Prop} [Decidable c] {a b : State} {k : ToldPart} (ha : told a = k) (hb : told b = k) : told (if c then a else b) = k := by
  split <;> assumption

theorem told_foldl {α : Type} (g : State → α → State) (l : List α) (s : State) (h : ∀ s a, told (g s a) = told s) : told (l.foldl g s) = told s := by
  induction l generalizing s with
  | nil => rfl
  | cons a l ih => exact (ih _).trans (h s a)

theorem told_foldlPair {α β : Type} (g : State × β → α → State × β) (l : List α) (r : State × β) (h : ∀ r a, told (g r a).1 = told r.1) :
    told (l.foldl g r).1 = told r.1 := by
  induction l generalizing r with
  | nil => rfl
  | cons a l ih => exact (ih _).trans (h r a)

def toldOpt (r : Option State) (k : ToldPart) : Prop := match r with | some t => told t = k | none => True

theorem toldOpt_ite {c : Prop} [Decidable c] {a b : Option State} {k : ToldPart} (ha : toldOpt a k) (hb : toldOpt b k) : toldOpt (if c then a else b) k := by
  split <;> assumption

theorem toldOpt_mono {r : Option State} {k k' : ToldPart} (h : toldOpt r k) (e : k = k') : toldOpt r k' := e ▸ h

theorem toldOpt_some {t : State} {k : ToldPart} (h : told t = k) : toldOpt (some t) k := h

theorem told_fst {α : Type} (a : State) (b : α) : told (a, b).1 = told a := rfl

theorem told_snd {α : Type} (a : State) (b : α) : told (b, a).2 = told a := rfl

theorem told_fst_ite {α : Type} {c : Prop} [Decidable c] {a b : State × α} {k : ToldPart} (ha : told a.1 = k) (hb : told b.1 = k) :
    told (if c then a else b).1 = k := by split <;> assumption

theorem told_snd_ite {α : Type} {c : Prop} [Decidable c] {a b : α × State} {k : ToldPart} (ha : told a.2 = k) (hb : told b.2 = k) :
    told (if c then a else b).2 = k := by split <;> assumption

theorem updHost_told (s : State) (f : HostSt → HostSt) : told (updHost s f) = told s := rfl

theorem updPart_told (s : State) (f : PartSt → PartSt) : told (updPart s f) = told s := rfl

theorem emit_told (s : State) (o : Output) : told (emit s o) = told s := rfl

theorem drawFree_told (s : State) : told (drawFree s).2 = told s := rfl

theorem drawFree_told' {s : State} {resu} (h : drawFree s = resu) : told resu.2 = told s := h ▸ drawFree_told s

theorem fput_told (s : State) (f : Fld) (unit sel v : Nat) : told (fput s f unit sel v) = told s := rfl

theorem fbump_told (s : State) (f : Fld) (unit sel k : Nat) : told (fbump s f unit sel k) = told s := rfl

theorem hostTouch_told (s : State) (h n : Nat) : told (hostTouch s h n) = told s := by
  unfold hostTouch
  (iterate 60 (all_goals try (first
      | intro _ | fail_if_no_progress beta_reduce | extract_lets -underBinder | with_reducible rfl | with_reducible assumption
      | with_reducible refine Eq.trans (updHost_told ..) ?_ | with_reducible refine told_ite ?_ ?_ | split | exact True.intro
      | dsimp +zetaDelta only)))
  all_goals done

theorem hostWrite_told (s : State) (h : Nat) (b : Bytes) : told (hostWrite s h b) = told s := by
  unfold hostWrite
  with_reducible repeat' first | rfl | refine Eq.trans (updHost_told ..) ?_ | refine told_ite ?_ ?_ | split

theorem setRingIndex_told (s : State) (sel v : Nat) : told (setRingIndex s sel v) = told s := rfl

theorem msixSend_told (s : State) (v : Nat) : told (msixSend s v) = told s := by
  unfold msixSend
  (iterate 60 (all_goals try (first
      | intro _ | fail_if_no_progress beta_reduce | extract_lets -underBinder | with_reducible rfl | with_reducible assumption
      | with_reducible refine Eq.trans (emit_told ..) ?_ | with_reducible refine told_ite ?_ ?_ | split | exact True.intro
      | dsimp +zetaDelta only)))
  all_goals done

theorem fireVector_told (s : State) (v : Nat) : told (fireVector s v) = told s := by
  unfold fireVector
  (iterate 60 (all_goals try (first
      | intro _ | fail_if_no_progress beta_reduce | extract_lets -underBinder | with_reducible rfl | with_reducible assumption
      | with_reducible refine Eq.trans (updHost_told ..) ?_ | with_reducible refine Eq.trans (msixSend_told ..) ?_
      | with_reducible refine told_ite ?_ ?_ | split | exact True.intro | dsimp +zetaDelta only)))
  all_goals done

theorem notify_told (s : State) (entry : Bool) (data : Nat) : told (notify s entry data) = told s := rfl

theorem ringFaultMark_told (s : State) (sel : Nat) : told (ringFaultMark s sel) = told s := by
  unfold ringFaultMark
  (iterate 60 (all_goals try (first
      | intro _ | fail_if_no_progress beta_reduce | extract_lets -underBinder | with_reducible rfl | with_reducible assumption
      | with_reducible refine Eq.trans (updHost_told ..) ?_ | with_reducible refine Eq.trans (fput_told ..) ?_
      | with_reducible refine told_ite ?_ ?_ | split | exact True.intro | dsimp +zetaDelta only)))
  all_goals done

theorem ringPut_told (s : State) (ring : Nat) (mk : Nat → Nat) : toldOpt (ringPut s ring mk) (told s) := by
  unfold ringPut
  (iterate 60 (all_goals try (first
      | intro _ | fail_if_no_progress beta_reduce | extract_lets -underBinder | with_reducible rfl | with_reducible assumption
      | with_reducible refine Eq.trans (hostTouch_told ..) ?_ | with_reducible refine Eq.trans (hostWrite_told ..) ?_
      | with_reducible refine Eq.trans (setRingIndex_told ..) ?_ | with_reducible refine told_ite ?_ ?_
      | with_reducible refine toldOpt_ite ?_ ?_ | with_reducible refine toldOpt_some ?_ | split | exact True.intro | dsimp +zetaDelta only)))
  all_goals done

theorem ringPut_told' {s : State} {ring : Nat} {mk : Nat → Nat} {resu}
    (h : ringPut s ring mk = resu) : toldOpt resu (told s) :=
  h ▸ ringPut_told s ring mk

theorem putEvent_told (s : State) (ring : Nat) (mk : Nat → Nat) (irq : Bool) (how : RingEnd) : told (putEvent s ring mk irq how).1 = told s := by
  unfold putEvent
  (iterate 60 (all_goals try (first
      | intro _ | fail_if_no_progress beta_reduce | extract_lets -underBinder | with_reducible rfl | with_reducible assumption
      | (have hk := ringPut_told' (by assumption); refine Eq.trans hk ?_; clear hk)
      | with_reducible refine toldOpt_getD (ringPut_told ..) ?_ | with_reducible refine Eq.trans (fireVector_told ..) ?_
      | with_reducible refine Eq.trans (ringFaultMark_told ..) ?_ | with_reducible refine told_ite ?_ ?_
      | with_reducible refine told_fst_ite ?_ ?_ | with_reducible refine told_snd_ite ?_ ?_ | split | exact True.intro
      | dsimp +zetaDelta only)))
  all_goals done

theorem putEvent_told' {s : State} {ring : Nat} {mk : Nat → Nat} {irq : Bool} {how : RingEnd} {resu}
    (h : putEvent s ring mk irq how = resu) : told resu.1 = told s :=
  h ▸ putEvent_told s ring mk irq how

theorem putLost_told (s : State) (ring count next : Nat) (irq : Bool) : told (putLost s ring count next irq).1 = told s := by
  unfold putLost
  (iterate 60 (all_goals try (first
      | intro _ | fail_if_no_progress beta_reduce | extract_lets -underBinder | with_reducible rfl | with_reducible assumption
      | with_reducible refine Eq.trans (updHost_told ..) ?_ | with_reducible refine Eq.trans (putEvent_told' rfl) ?_
      | (have hk := putEvent_told' (by assumption); refine Eq.trans hk ?_; clear hk) | with_reducible refine told_ite ?_ ?_
      | with_reducible refine told_fst_ite ?_ ?_ | with_reducible refine told_snd_ite ?_ ?_ | split | exact True.intro
      | dsimp +zetaDelta only)))
  all_goals done

theorem putLost_told' {s : State} {ring count next : Nat} {irq : Bool} {resu}
    (h : putLost s ring count next irq = resu) : told resu.1 = told s :=
  h ▸ putLost_told s ring count next irq

theorem putOrLose_told (s : State) (ring : Nat) (mk : Nat → Nat) (irq : Bool) : told (putOrLose s ring mk irq).1 = told s := by
  unfold putOrLose
  (iterate 60 (all_goals try (first
      | intro _ | fail_if_no_progress beta_reduce | extract_lets -underBinder | with_reducible rfl | with_reducible assumption
      | with_reducible refine Eq.trans (putEvent_told' rfl) ?_
      | (have hk := putEvent_told' (by assumption); refine Eq.trans hk ?_; clear hk) | with_reducible refine Eq.trans (fbump_told ..) ?_
      | with_reducible refine Eq.trans (updHost_told ..) ?_ | with_reducible refine Eq.trans (putLost_told' rfl) ?_
      | (have hk := putLost_told' (by assumption); refine Eq.trans hk ?_; clear hk) | with_reducible refine told_ite ?_ ?_
      | with_reducible refine told_fst_ite ?_ ?_ | with_reducible refine told_snd_ite ?_ ?_ | split | exact True.intro
      | dsimp +zetaDelta only)))
  all_goals done

theorem putOrLose_told' {s : State} {ring : Nat} {mk : Nat → Nat} {irq : Bool} {resu}
    (h : putOrLose s ring mk irq = resu) : told resu.1 = told s :=
  h ▸ putOrLose_told s ring mk irq

theorem ringEvent_told (s : State) (ring : Nat) (mk : Nat → Nat) (irq : Bool) : told (ringEvent s ring mk irq).1 = told s := by
  unfold ringEvent
  (iterate 60 (all_goals try (first
      | intro _ | fail_if_no_progress beta_reduce | extract_lets -underBinder | with_reducible rfl | with_reducible assumption
      | with_reducible refine Eq.trans (putOrLose_told' rfl) ?_
      | (have hk := putOrLose_told' (by assumption); refine Eq.trans hk ?_; clear hk)
      | with_reducible refine Eq.trans (putLost_told' rfl) ?_
      | (have hk := putLost_told' (by assumption); refine Eq.trans hk ?_; clear hk) | with_reducible refine told_ite ?_ ?_
      | with_reducible refine told_fst_ite ?_ ?_ | with_reducible refine told_snd_ite ?_ ?_ | split | exact True.intro
      | dsimp +zetaDelta only)))
  all_goals done

theorem ringEvent_told' {s : State} {ring : Nat} {mk : Nat → Nat} {irq : Bool} {resu}
    (h : ringEvent s ring mk irq = resu) : told resu.1 = told s :=
  h ▸ ringEvent_told s ring mk irq

theorem errRings_told (rec : Nat) (x1 : List Nat) (x2 : State) (x3 : List Nat) : told (errRings rec x1 x2 x3).1 = told x2 := by
  fun_induction errRings rec x1 x2 x3 <;> (iterate 60 (all_goals try (first
      | intro _ | fail_if_no_progress beta_reduce | extract_lets -underBinder | with_reducible rfl | with_reducible assumption
      | with_reducible refine Eq.trans (ringEvent_told' rfl) ?_
      | (have hk := ringEvent_told' (by assumption); refine Eq.trans hk ?_; clear hk)
      | with_reducible refine Eq.trans (fireVector_told ..) ?_ | refine Eq.trans (by assumption) ?_ | with_reducible refine told_ite ?_ ?_
      | with_reducible refine told_fst_ite ?_ ?_ | with_reducible refine told_snd_ite ?_ ?_ | split | exact True.intro
      | dsimp +zetaDelta only)))
  all_goals done

theorem errRings_told' {rec : Nat} {x1 : List Nat} {x2 : State} {x3 : List Nat} {resu}
    (h : errRings rec x1 x2 x3 = resu) : told resu.1 = told x2 :=
  h ▸ errRings_told rec x1 x2 x3

theorem trkTrigger_told (s : State) : told (trkTrigger s) = told s := by
  unfold trkTrigger
  with_reducible repeat' first | intro _ | extract_lets -underBinder | rfl | refine Eq.trans (fput_told ..) ?_ |
    refine Eq.trans (fbump_told ..) ?_ | refine told_ite ?_ ?_ | split |
    fail_if_no_progress refine Eq.trans (told_mk ..) ?_

theorem setTrkState_told (s : State) (v : Nat) : told (setTrkState s v) = told s := rfl

theorem trkInput_told (s : State) (source region addr : Nat) (data : Bytes) : told (trkInput s source region addr data) = told s := by
  unfold trkInput
  (iterate 60 (all_goals try (first
      | intro _ | fail_if_no_progress beta_reduce | extract_lets -underBinder | with_reducible rfl | exact True.intro | assumption
      | with_reducible refine Eq.trans (drawFree_told' rfl) ?_
      | (have hk := drawFree_told' (by assumption); refine Eq.trans hk ?_; clear hk) | with_reducible refine told_ite ?_ ?_ | split
      | dsimp +zetaDelta only)))
  all_goals done

theorem hostFetch_told (s : State) (h n : Nat) : told (hostFetch s h n) = told s := by
  unfold hostFetch
  with_reducible repeat' first | rfl | refine Eq.trans (trkInput_told ..) ?_ | refine Eq.trans (hostTouch_told ..) ?_ | split

theorem driverWrite_told (s : State) (o v : Nat) : told (driverWrite s o v) = told s := by
  unfold driverWrite
  (iterate 60 (all_goals try (first
      | intro _ | fail_if_no_progress beta_reduce | extract_lets -underBinder | with_reducible rfl | with_reducible assumption
      | with_reducible refine Eq.trans (trkInput_told ..) ?_ | with_reducible refine told_ite ?_ ?_ | split | exact True.intro
      | dsimp +zetaDelta only)))
  all_goals done

theorem partTake_told (out : State → Nat → State) (s : State) (rec : Nat) (hout : ∀ s a, told (out s a) = told s) :
    told (partTake out s rec) = told s := by
  unfold partTake
  (iterate 60 (all_goals try (first
      | intro _ | fail_if_no_progress beta_reduce | extract_lets -underBinder | with_reducible rfl | with_reducible assumption
      | with_reducible refine Eq.trans (updPart_told ..) ?_ | with_reducible refine Eq.trans (hout ..) ?_
      | with_reducible refine told_ite ?_ ?_ | split | exact True.intro | dsimp +zetaDelta only)))
  all_goals done

theorem errOutN_told (x0 : Nat) (x1 : State) (x2 : Nat) : told (errOutN x0 x1 x2) = told x1 := by
  induction x0 generalizing x1 x2 with
  | zero => rfl
  | succ n ih =>
    unfold errOutN
    extract_lets s1 s2 rings r s3
    have h2 : told s2 = told x1 := by
      show told (if _ then _ else _) = _
      refine told_ite ((trkTrigger_told ..).trans (notify_told ..)) (notify_told ..)
    have h3 : told s3 = told s2 := by
      show told (if _ then _ else _) = _
      exact told_ite (errRings_told ..) ((fireVector_told ..).trans (errRings_told ..))
    exact (told_foldl _ _ _ fun s a => partTake_told _ s _ ih).trans (h3.trans h2)

theorem errOut_told (s : State) (rec : Nat) : told (errOut s rec) = told s := errOutN_told ..

theorem errPart_told (s : State) (rec : Nat) : told (errPart s rec) = told s := partTake_told _ s rec errOut_told

theorem postEvent_told (s : State) (ring type code gid task detail : Nat) : told (postEvent s ring type code gid task detail) = told s := by
  unfold postEvent
  (iterate 60 (all_goals try (first
      | intro _ | fail_if_no_progress beta_reduce | extract_lets -underBinder | with_reducible rfl | with_reducible assumption
      | with_reducible refine Eq.trans (ringEvent_told' rfl) ?_
      | (have hk := ringEvent_told' (by assumption); refine Eq.trans hk ?_; clear hk)
      | with_reducible refine Eq.trans (errPart_told ..) ?_ | with_reducible refine told_ite ?_ ?_ | split | exact True.intro
      | dsimp +zetaDelta only)))
  all_goals done

theorem setKept_told (s : State) (n : Nat) : told (setKept s n) = told s := by
  unfold setKept
  (iterate 60 (all_goals try (first
      | intro _ | fail_if_no_progress beta_reduce | extract_lets -underBinder | with_reducible rfl | with_reducible assumption
      | with_reducible refine Eq.trans (fput_told ..) ?_ | with_reducible refine told_ite ?_ ?_ | split | exact True.intro
      | dsimp +zetaDelta only)))
  all_goals done

theorem trkFreeze_told (s : State) : told (trkFreeze s) = told s := by
  unfold trkFreeze
  (iterate 60 (all_goals try (first
      | intro _ | fail_if_no_progress beta_reduce | extract_lets -underBinder | with_reducible rfl | with_reducible assumption
      | with_reducible refine Eq.trans (setTrkState_told ..) ?_ | with_reducible refine Eq.trans (setKept_told ..) ?_
      | with_reducible refine Eq.trans (fput_told ..) ?_ | with_reducible refine Eq.trans (errPart_told ..) ?_
      | with_reducible refine told_ite ?_ ?_ | fail_if_no_progress refine Eq.trans (told_mk ..) ?_ | split | exact True.intro
      | dsimp +zetaDelta only)))
  all_goals done

theorem putCpl_told (s : State) (ring w : Nat) : told (putCpl s ring w) = told s := by
  unfold putCpl
  (iterate 60 (all_goals try (first
      | intro _ | fail_if_no_progress beta_reduce | extract_lets -underBinder | with_reducible rfl | with_reducible assumption
      | with_reducible refine Eq.trans (updHost_told ..) ?_ | (have hk := ringPut_told' (by assumption); refine Eq.trans hk ?_; clear hk)
      | with_reducible refine toldOpt_getD (ringPut_told ..) ?_ | with_reducible refine Eq.trans (ringFaultMark_told ..) ?_
      | with_reducible refine Eq.trans (errPart_told ..) ?_ | with_reducible refine told_ite ?_ ?_ | split | exact True.intro
      | dsimp +zetaDelta only)))
  all_goals done

theorem writeLog_told (s : State) (b : Bytes) : ∃ m, told (writeLog s b) = told (readSystem { s with lapLog := m } (managerRegion s) .lapLog) :=
  ⟨_, fput_told ..⟩

theorem ledgerDrop_told (s : State) : told (ledgerDrop s) = told s := by
  unfold ledgerDrop
  (iterate 60 (all_goals try (first
      | intro _ | fail_if_no_progress beta_reduce | extract_lets -underBinder | with_reducible rfl | with_reducible assumption
      | with_reducible refine Eq.trans (fbump_told ..) ?_ | with_reducible refine told_ite ?_ ?_ | split | exact True.intro
      | dsimp +zetaDelta only)))
  all_goals done

theorem ledgerPost_told (s : State) (b : Bytes) : told (ledgerPost s b) = told s := by
  unfold ledgerPost
  (iterate 60 (all_goals try (first
      | intro _ | fail_if_no_progress beta_reduce | extract_lets -underBinder | with_reducible rfl | with_reducible assumption
      | with_reducible refine Eq.trans (fbump_told ..) ?_ | with_reducible refine Eq.trans (fput_told ..) ?_
      | with_reducible refine Eq.trans (hostWrite_told ..) ?_ | with_reducible refine Eq.trans (hostTouch_told ..) ?_
      | with_reducible refine told_ite ?_ ?_ | split | exact True.intro | dsimp +zetaDelta only)))
  all_goals done

theorem ringFault_told (s : State) (sel addr : Nat) (overrun : Bool) : told (ringFault s sel addr overrun) = told s := by
  unfold ringFault
  (iterate 60 (all_goals try (first
      | intro _ | fail_if_no_progress beta_reduce | extract_lets -underBinder | with_reducible rfl | with_reducible assumption
      | with_reducible refine Eq.trans (ringFaultMark_told ..) ?_ | with_reducible refine Eq.trans (errPart_told ..) ?_
      | with_reducible refine told_ite ?_ ?_ | split | exact True.intro | dsimp +zetaDelta only)))
  all_goals done

theorem readWord_told (s : State) (sel : Nat) : told (readWord s sel).1 = told s := by
  unfold readWord
  with_reducible repeat' first | intro _ | extract_lets -underBinder | rfl | refine Eq.trans (ringFault_told ..) ?_ |
    refine Eq.trans (updHost_told ..) ?_ | refine told_ite ?_ ?_ | refine told_fst_ite ?_ ?_ | split

theorem readWord_told' {s : State} {sel : Nat} {resu} (h : readWord s sel = resu) : told resu.1 = told s := h ▸ readWord_told s sel

theorem readLineDb_told (s : State) (line : Nat) (sels : List Nat) : told (readLineDb s line sels).1 = told s := by
  unfold readLineDb
  with_reducible repeat' first | intro _ | extract_lets -underBinder | rfl | refine Eq.trans (ringFault_told ..) ?_ |
    refine Eq.trans (readWord_told' (by exact rfl)) ?_ | (have hk := readWord_told' (by assumption); refine Eq.trans hk ?_; clear hk) |
    refine Eq.trans (hostFetch_told ..) ?_ | refine told_fst_ite ?_ ?_ | refine Eq.trans (told_foldlPair _ _ _ ?_) ?_ |
    refine Eq.trans (told_foldl _ _ _ ?_) ?_ | split

theorem readLineDb_told' {s : State} {line : Nat} {sels : List Nat} {resu} (h : readLineDb s line sels = resu) : told resu.1 = told s := h ▸ readLineDb_told s line sels

theorem readLines_told (s : State) : told (readLines s).1 = told s := by
  unfold readLines
  extract_lets -underBinder on
  refine Eq.trans (told_foldlPair _ _ _ fun r a => ?_) (told_fst _ _)
  extract_lets x
  exact Eq.trans (told_fst _ _) (readLineDb_told' (resu := x) rfl)

theorem readLines_told' {s : State} {resu} (h : readLines s = resu) : told resu.1 = told s := h ▸ readLines_told s

theorem writeHead_told (s : State) (n : Nat) : told (writeHead s n) = told s := by
  unfold writeHead
  (iterate 60 (all_goals try (first
      | intro _ | fail_if_no_progress beta_reduce | extract_lets -underBinder | with_reducible rfl | with_reducible assumption
      | with_reducible refine Eq.trans (updHost_told ..) ?_ | with_reducible refine Eq.trans (hostWrite_told ..) ?_
      | with_reducible refine Eq.trans (hostTouch_told ..) ?_ | with_reducible refine Eq.trans (ringFault_told ..) ?_
      | with_reducible refine told_ite ?_ ?_ | split | exact True.intro | dsimp +zetaDelta only)))
  all_goals done

theorem consumeEntry_told (s : State) (n : Nat) : told (consumeEntry s n) = told s := by
  unfold consumeEntry
  (iterate 60 (all_goals try (first
      | intro _ | fail_if_no_progress beta_reduce | extract_lets -underBinder | with_reducible rfl | with_reducible assumption
      | with_reducible refine Eq.trans (trkInput_told ..) ?_ | with_reducible refine Eq.trans (hostTouch_told ..) ?_
      | with_reducible refine Eq.trans (updHost_told ..) ?_ | with_reducible refine Eq.trans (setRingIndex_told ..) ?_
      | with_reducible refine Eq.trans (writeHead_told ..) ?_ | with_reducible refine told_ite ?_ ?_ | split | exact True.intro
      | dsimp +zetaDelta only)))
  all_goals done

theorem dropBad_told (x0 : Nat) (x1 : State) : told (dropBad x0 x1) = told x1 := by
  fun_induction dropBad x0 x1 <;>
  with_reducible repeat' first | assumption | rfl | refine Eq.trans (ringFault_told ..) ?_ | refine Eq.trans (consumeEntry_told ..) ?_ |
    refine Eq.trans (fput_told ..) ?_ | refine Eq.trans (by assumption) ?_ | split

theorem writeHeads_told (s : State) : told (writeHeads s) = told s := by
  unfold writeHeads
  (iterate 60 (all_goals try (first
      | intro _ | fail_if_no_progress beta_reduce | extract_lets -underBinder | with_reducible rfl | with_reducible assumption
      | with_reducible refine Eq.trans (writeHead_told ..) ?_ | with_reducible refine told_ite ?_ ?_
      | refine Eq.trans (told_foldl _ _ _ ?_) ?_ | split | exact True.intro | dsimp +zetaDelta only)))
  all_goals done

theorem settleSeen_told (s : State) : told (settleSeen s) = told s := by
  unfold settleSeen
  (iterate 60 (all_goals try (first
      | intro _ | fail_if_no_progress beta_reduce | extract_lets -underBinder | with_reducible rfl | with_reducible assumption
      | with_reducible refine Eq.trans (updHost_told ..) ?_ | with_reducible refine Eq.trans (writeHeads_told ..) ?_
      | with_reducible refine Eq.trans (dropBad_told ..) ?_ | with_reducible refine told_ite ?_ ?_ | split | exact True.intro
      | dsimp +zetaDelta only)))
  all_goals done

theorem nudgeRead_told (s : State) (n : Nat) : told (nudgeRead s n) = told s := by
  unfold nudgeRead
  (iterate 60 (all_goals try (first
      | intro _ | fail_if_no_progress beta_reduce | extract_lets -underBinder | with_reducible rfl | with_reducible assumption
      | with_reducible refine Eq.trans (ringFault_told ..) ?_ | with_reducible refine Eq.trans (readWord_told' rfl) ?_
      | (have hk := readWord_told' (by assumption); refine Eq.trans hk ?_; clear hk)
      | with_reducible refine Eq.trans (hostFetch_told ..) ?_ | with_reducible refine Eq.trans (settleSeen_told ..) ?_
      | with_reducible refine Eq.trans (updHost_told ..) ?_ | with_reducible refine told_ite ?_ ?_ | split | exact True.intro
      | dsimp +zetaDelta only)))
  all_goals done

theorem serveNudges_told (x0 : Nat) (x1 : State) : told (serveNudges x0 x1) = told x1 := by
  fun_induction serveNudges x0 x1 <;> (iterate 60 (all_goals try (first
      | intro _ | fail_if_no_progress beta_reduce | extract_lets -underBinder | with_reducible rfl | with_reducible assumption
      | with_reducible refine Eq.trans (nudgeRead_told ..) ?_ | with_reducible refine Eq.trans (updHost_told ..) ?_
      | refine Eq.trans (by assumption) ?_ | with_reducible refine told_ite ?_ ?_ | split | exact True.intro | dsimp +zetaDelta only)))
  all_goals done

theorem settleSub_told (s : State) : told (settleSub s) = told s := by
  unfold settleSub
  (iterate 60 (all_goals try (first
      | intro _ | fail_if_no_progress beta_reduce | extract_lets -underBinder | with_reducible rfl | with_reducible assumption
      | with_reducible refine Eq.trans (serveNudges_told ..) ?_ | with_reducible refine Eq.trans (settleSeen_told ..) ?_
      | with_reducible refine told_ite ?_ ?_ | split | exact True.intro | dsimp +zetaDelta only)))
  all_goals done

theorem nudge_told (s : State) (n : Nat) : told (nudge s n) = told s := by
  unfold nudge
  (iterate 60 (all_goals try (first
      | intro _ | fail_if_no_progress beta_reduce | extract_lets -underBinder | with_reducible rfl | with_reducible assumption
      | with_reducible refine Eq.trans (serveNudges_told ..) ?_ | with_reducible refine Eq.trans (updHost_told ..) ?_
      | with_reducible refine told_ite ?_ ?_ | split | exact True.intro | dsimp +zetaDelta only)))
  all_goals done

theorem doorbellRead_told (s : State) : told (doorbellRead s) = told s := by
  unfold doorbellRead
  (iterate 60 (all_goals try (first
      | intro _ | fail_if_no_progress beta_reduce | extract_lets -underBinder | with_reducible rfl | with_reducible assumption
      | with_reducible refine Eq.trans (readLines_told' rfl) ?_
      | (have hk := readLines_told' (by assumption); refine Eq.trans hk ?_; clear hk)
      | with_reducible refine Eq.trans (writeHeads_told ..) ?_ | with_reducible refine Eq.trans (settleSub_told ..) ?_
      | with_reducible refine Eq.trans (updHost_told ..) ?_ | with_reducible refine told_ite ?_ ?_ | split | exact True.intro
      | dsimp +zetaDelta only)))
  all_goals done

theorem raiseTimebase_told (s : State) : told (raiseTimebase s) = told s := by
  unfold raiseTimebase
  with_reducible repeat' first | rfl | refine Eq.trans (errPart_told ..) ?_ | split

theorem depthExceeded_told (s : State) : told (depthExceeded s) = told s := by
  unfold depthExceeded
  with_reducible repeat' first | intro _ | extract_lets -underBinder | rfl | refine Eq.trans (raiseTimebase_told ..) ?_ |
    refine Eq.trans (fput_told ..) ?_ | refine told_ite ?_ ?_ | split

theorem trkControl_told (s : State) (type : Nat) (w : BitVec 256) : told (trkControl s type w) = told s := by
  unfold trkControl
  (iterate 60 (all_goals try (first
      | intro _ | fail_if_no_progress beta_reduce | extract_lets -underBinder | with_reducible rfl | with_reducible assumption
      | with_reducible refine Eq.trans (trkInput_told ..) ?_ | with_reducible refine told_ite ?_ ?_ | split | exact True.intro
      | dsimp +zetaDelta only)))
  all_goals done

theorem noteGraphRead_told (s : State) (a w : Nat) : told (noteGraphRead s a w) = told s := by
  unfold noteGraphRead
  with_reducible repeat' first | rfl | refine Eq.trans (hostFetch_told ..) ?_ | refine told_ite ?_ ?_ | split

theorem unreported_told (s : State) (entry : Nat) (notRing : Bool) : told (unreported s entry notRing) = told s := by
  unfold unreported
  with_reducible repeat' first | rfl | refine Eq.trans (errPart_told ..) ?_ | split

theorem rejectGraph_told (s : State) (g : Graph) (code : Nat) : told (rejectGraph s g code) = told s := by
  unfold rejectGraph
  with_reducible repeat' first | intro _ | extract_lets -underBinder | rfl | refine Eq.trans (postEvent_told ..) ?_ |
    refine Eq.trans (unreported_told ..) ?_ | refine told_ite ?_ ?_ | split

theorem commandDone_told (s : State) (e code : Nat) : told (commandDone s e code) = told s := by
  unfold commandDone
  with_reducible repeat' first | rfl | refine Eq.trans (postEvent_told ..) ?_ | split

theorem periodMismatch_told (s : State) : told (periodMismatch s) = told s := by
  unfold periodMismatch
  with_reducible repeat' first | intro _ | extract_lets -underBinder | rfl | refine Eq.trans (raiseTimebase_told ..) ?_ |
    refine Eq.trans (fput_told ..) ?_ | refine told_ite ?_ ?_ | split

theorem securityEvent_told (s : State) (what : Nat) : told (securityEvent s what) = told s := by
  unfold securityEvent
  with_reducible repeat' first | rfl | refine Eq.trans (errPart_told ..) ?_ | split

theorem answer_told (s : State) (tag code : Nat) (data : List Nat) : told (answer s tag code data) = told s := rfl

theorem sideInput_told (s : State) (cmd tag : Nat) (operands : Bytes) : told (sideInput s cmd tag operands) = told s := by
  unfold sideInput
  with_reducible repeat' first | rfl | refine Eq.trans (trkInput_told ..) ?_ | split

end Sys2Proof.Machine
end

