-- ==== Sys2Proof/Tests/Slice0.lean ====
section
/-! SUPPORT. Tests: ill-formed commands that the check refuses, and for each statement with hypotheses a small state that meets
them. The hypotheses that rest on a Falcon signature (a verified image, an accepted token) or on the driver's hold of a sealed slot rest on a free value,
and have none. -/

namespace Sys2Proof.Tests

open Sys2Proof.Machine Sys2Proof.Safety

set_option Elab.async false

/-! ## Well-formedness -/

theorem test_wf_refuses_unit : wellFormed (.nop 528) = false := by decide

/-- Units 0 to 527 (R559) and movers 0 to 7 (R114). -/
theorem test_wf_refuses_units : ∀ c ∈ ([
    .taskStart 528, .nop 528, .endTask 528, .loop 528, .branch 528, .branchIf 528, .lrSet 528, .lrAdd 528, .lrFromSum 528, .sbPost 528, .sbWait 528,
    .sbRelease 528, .sbWaitFree 528, .tumSignal 528, .tumWait 528, .fence 528, .sumPost 528, .halt 528, .mac 528, .macT 528, .mtxLoad 528,
    .drain 528, .zero 528, .batch 528, .batchTimeout 528, .vecNop 528, .mov 528, .add 528, .sub 528, .mul 528, .fma 528, .vecMin 528, .vecMax 528,
    .abs 528, .neg 528, .cmpLt 528, .cmpLe 528, .cmpEq 528, .cmpNe 528, .sel 528, .cvt 528, .srCvt 528, .compress 528, .expand 528, .and 528,
    .or 528, .xor 528, .shl 528, .shr 528, .rand 528, .exp 528, .log 528, .rcp 528, .rsqrt 528, .rowStart 528, .redSum 528, .redMax 528, .sumExp 528,
    .shiftedSq 528, .normTap 528, .rowEnd 528, .scanStep 528, .loadH 528, .storeH 528, .chunk 528, .hingeSubmit 528, .hingeWait 528, .dmaKick 528,
    .dmaWait 528, .taskFinish 528 0 0, .frameWaitResume 528 0, .moverStart 528 0, .moverStop 528 0, .rearm 528 0, .flush 528 0, .takeBaton 528 0,
    .streamRun 528 0, .streamBusError 528 0, .streamResponse 528 0, .frameWaitResume 0 8, .moverStart 0 8, .moverStop 0 8, .rearm 0 8, .flush 0 8,
    .takeBaton 0 8, .streamRun 0 8, .streamBusError 0 8, .streamResponse 0 8] : List Instr),
    wellFormed c = false := by decide

/-- Block engines have 16 channels, region engines 32 (R326); rings are 0 to 1,023 (R487). -/
theorem test_wf_refuses_channels : ∀ c ∈ ([
    .dmaCopy (.blk 0) 16, .dmaFill (.blk 0) 16, .dmaSwap64 (.blk 0) 16, .dmaComplete (.blk 0) 16, .dmaCopy (.rgn 0) 32, .dmaFill (.rgn 0) 32,
    .dmaSwap64 (.rgn 0) 32, .dmaComplete (.rgn 0) 32, .dmaTransferError (.blk 64) 0 .busError false 0, .dmaTailWrite (.blk 64) 0,
    .dmaTailWrite (.rgn 8) 0, .resume (.rgn 8), .abort (.blk 64), .graph 1024, .ownerTable 1024, .guardTable 1024, .hurdleTable 1024,
    .stopGraph 1024, .nudge 1024, .ringEnable true 1024 0] : List Instr),
    wellFormed c = false := by decide

theorem test_wf_refuses_places : ∀ c ∈ ([
    .fillCopyComplete 8 0, .fillCopyComplete 0 2097152, .fold 8, .ptRecordWrite 8, .ptUpdateRecord .bar0 8 0, .hingeOperation 64, .hingeComplete 64,
    .haltClear 512, .forceHalt 512 0 false, .forceHalt 0 4 false, .seHaltClear 16, .seForceHalt 16 0 false, .seForceHalt 0 4 false, .engineReset 16,
    .sbEntryWrite 64 false 0, .oobClear 512 0, .bsConfClearAll 64, .tumSet true 8 0, .tumSet false 64 0, .indDataRead .bar0 8,
    .indDataWrite .bar0 8 0, .indTimeout .bar0 8 false, .livenessPoll (.core 512) true, .livenessPoll (.block 64) true, .heartbeatMiss (.region 8),
    .heartbeatMiss (.engine 16), .heartbeatMiss (.controlCore 32), .errqPop (.blk 64), .errqPop (.rgn 8), .selfTestComplete 512 none,
    .regionResetComplete 8 true, .bridgeFailed 12, .sensorSample 8 0 0, .sensorSample 0 12 0, .paceReqChange 4, .flashDrainComplete 2 true,
    .builtInTestComplete [(1552, 0)] [], .builtInTestComplete [(528, 1)] [], .builtInTestComplete [(0, 7)] [], .builtInTestComplete [] [8], .flashPortReady 2 0 0, .flashPortReady 0 8 0,
    .flashPortReady 0 0 8] : List Instr),
    wellFormed c = false := by decide

/-- A segment with every field 0. -/
def seg0 : Segment := ⟨0, 0, 0, false, false, false, 0, 0, 0, 0, 0, 0, 0, 0, [], false, 0⟩

/-- A HEAD flit and a marker with every other field 0. -/
def flit0 : Flit := ⟨1, 0, false, 0, 0, 0, 0, 0, 0, []⟩
def marker0 : Marker := ⟨0, 0, 0, 0, 0, 0, 0⟩

theorem test_wf_refuses_host_and_link : ∀ c ∈ ([
    .graphResolved 4294967296, .bar2Write 68719476735 ⟨[0, 0], false⟩, .bar2Read 68719476735 2, .registerWrite .bar0 67108864 ⟨0, 4⟩,
    .registerWrite .bar0 0 ⟨0, 0⟩, .registerWrite .bar0 0 ⟨0, 9⟩, .registerWrite .bar4 65536 ⟨0, 4⟩, .ptUpdateRecord .bar4 0 0,
    .atsInvalidation 2251799813685247 2, .lapCleanSend 131072, .writeOwner { seg0 with src := 131072 }, .writeExchange { seg0 with dst := 131072 },
    .writeResend { seg0 with seg := 4096 }, .readOwner { seg0 with tableId := 256 }, .readReply { seg0 with gen := 65536 },
    .ledger { seg0 with xid := 65536 }, .signalFlit { seg0 with lap := 281474976710656 } 0, .readOwner { seg0 with offset := 281474976710656 },
    .marker 32 marker0, .marker 0 { marker0 with gmId := 131072 }, .marker 0 { marker0 with lap := 281474976710656 },
    .marker 0 { marker0 with periodUs := 2048 }, .marker 0 { marker0 with depth := 32 }, .marker 0 { marker0 with gmRank := 16 },
    .marker 0 { marker0 with residencePs := 16777216 }, .echo 32 0 0, .nak 32 0, .nak 0 4096, .idle 32 0, .idle 0 4096, .laneFailure 32 0,
    .laneFailure 0 8, .retrainComplete 32 0, .retrainComplete 0 256, .dzlPortEnable 32 true, .retrain 32, .trainingTimeout 32, .flitCrcFailure ⟨32, 0⟩, .flitCrcFailure ⟨0, 4096⟩,
    .trainingComplete 32 0 0 0 0, .trainingComplete 0 256 0 0 0, .trainingComplete 0 0 131072 0 0, .trainingComplete 0 0 0 32 0,
    .trainingComplete 0 0 0 0 1048576, .forward 8 flit0, .forward 0 { flit0 with dst := 131072 }, .forward 0 { flit0 with src := 131072 },
    .forward 0 { flit0 with ftype := 16 }, .forward 0 { flit0 with cls := 4 }, .forward 0 { flit0 with valid := 16 }, .forward 0 { flit0 with hops := 64 },
    .forward 0 { flit0 with vc := 2 }, .forward 0 { flit0 with seg := 4096 }] : List Instr),
    wellFormed c = false := by decide

theorem test_wf_refuses_sideband : ∀ c ∈ ([
    .regRead 67108864 0 0, .regRead 0 256 0, .regRead 0 0 256, .errqRead .part 256, .errqRead (.rgn 8) 0, .deadbolt 16 0 0, .deadbolt 0 4096 0,
    .deadbolt 0 0 256, .regionReset 8 0, .regionReset 0 256, .syncDump true 256, .trkTrigger 256, .listPut [0, 0, 0, 0, 0, 0, 0, 0] 0,
    .listPut [] 256, .listDone 256, .debugNonce 256, .debugUnlock [] 256, .ownerEnroll 0 256, .indRead 8 0 0 0 0, .indRead 0 256 0 0 0,
    .indRead 0 0 1048576 0 0, .indRead 0 0 0 256 0, .indRead 0 0 0 0 256, .setEndpointId 256, .getCertificate .doe 8 0 0,
    .getCertificate .doe 0 65536 0, .getCertificate .doe 0 0 65536] : List Instr),
    wellFormed c = false := by decide

theorem test_wf_takes_the_last_of_each_range : ∀ c ∈ ([
    .nop 527, .streamRun 527 7, .dmaCopy (.blk 63) 15, .dmaCopy (.rgn 7) 31, .nudge 1023, .haltClear 511, .engineReset 15,
    .fillCopyComplete 7 2097151, .bridgeFailed 11, .livenessPoll (.controlCore 31) true, .nak 31 4095, .laneFailure 31 7,
    .writeOwner { seg0 with src := 131071, dst := 131071, seg := 4095, gen := 65535, offset := 281474976710655 }, .registerWrite .bar0 67108863 ⟨0, 8⟩, .registerWrite .bar4 65535 ⟨0, 4⟩, .bar2Read 68719476735 1,
    .listPut [0, 0, 0, 0, 0, 0, 0] 255, .setEndpointId 255] : List Instr),
    wellFormed c = true := by decide

/-! ## Witnesses: states and operands that meet the hypotheses of the statements -/

/-- A part that is not held in reset, in a phase of boot. -/
def inPhase (n : Nat) : State := { fput State.reset fPART_BOOT_STATUS_PHASE 0 0 n with pins := { State.reset.pins with powerGood := true, perstN := true } }

/-- Reset with core 0 as given. -/
def withCore (c : Core) : State := { State.reset with cores := [(0, c)] }

/-- Core 0 runs a task whose control store holds w at words 0 to 3; it is at word 0 of 8. -/
def atWord (w : Nat) : Core := { coreReset with seq := { seqReset with
  st := .running, loaded := true, progWords := 8, cstore := [(0, w), (1, w), (2, w), (3, w)] } }

/-- The SEQ field: SOP, LR, SUM, COND, TARGET and IMM at their bits (R117). -/
def seqField (sop lr sum cond target imm : Nat) : Nat :=
  sop + lr * 2 ^ 6 + sum * 2 ^ 11 + cond * 2 ^ 14 + target * 2 ^ 17 + imm * 2 ^ 32

/-- StepRunsFront, EveryStepKeepsLapSequence: a queue with a command in front, and an empty one. -/
theorem witness_queue : ({ State.reset with pending := [.lapMark] } : State).pending = .lapMark :: [] ∧ State.reset.pending = [] := by decide

/-- EveryStepKeepsFuses: reset, with an idle step. -/
theorem witness_fuses : sameMake State.reset State.reset ∧ burnKept State.reset State.reset ∧ queueOk State.reset ∧
    step State.reset = .next State.reset :=
  ⟨⟨rfl, rfl, rfl, rfl, rfl, rfl, rfl, rfl⟩, ⟨Nat.le_refl _, fun _ h => h⟩, (by intro c h; cases h), rfl⟩

/-- EveryStepKeepsLapSequence: a step answers with a command in front. -/
theorem witness_lap_sequence : ∃ t, step { State.reset with pending := [.confirmTimeout] } = .next t := ⟨_, rfl⟩

/-- MemoryReadsWhatWasWritten, and FieldsReadBack: the empty memory, and two fields whose keys differ. -/
theorem witness_memory : Memory.wf State.reset.host.mem = true ∧ (1 < 1 ∨ 1 + 1 ≤ 2) ∧
    fldKey fPART_BOOT_STATUS_PHASE 0 0 ≠ fldKey fPART_BOOT_CTRL_SERVICE 0 0 := by decide

/-- FlowWords, BranchIfByCond, RegisterWords, HaltWord and WordFrame: each SOP issues, with LR 0 and with LR 1, and COND holds or not. -/
theorem witness_words : ∀ sop ∈ [0x00, 0x01, 0x02, 0x03, 0x04, 0x05, 0x06, 0x07, 0x0E, 0x0F, 0x10], ∀ lr ∈ [0, 1],
    let w := seqField sop lr 0 0 7 lr
    let s := withCore { atWord w with seq := { (atWord w).seq with lr := [(1, 3)] } }
    curWord s 0 = some w ∧ (getCore s 0).seq.tumPending = none ∧ (issueWait s 0 w).isNone = true ∧ issueCheck s 0 w = none ∧
    qSop w = sop ∧ getLr (getCore s 0) (qLr w) = BitVec.ofNat 32 (3 * lr) ∧ condHolds (qCond w) (getSum (getCore s 0) 0) (BitVec.ofNat 32 (qImm w)) =
      decide (lr = 0) ∧ activeFields w = [] ∧ getFq (getCore s 0) 1 = [] := by decide +kernel

/-- HaltWord: the record of a core, and of a stack engine, enters its empty queue. -/
theorem witness_halt_queue : ∀ b : Bool, arrive errqReset (if b then errRecord State.reset 3 2 0x0B 0 3 0 0 else errRecord State.reset 0 1 0x01 0 0 0 0) =
    .enter := by decide +kernel

/-- The words of the frame answer a next state. -/
theorem witness_word_frame : ∃ t, exec (.nop 0) (withCore (atWord 0)) = .next t := ⟨_, rfl⟩

/-- Scoreboard region 0 of block 0 as given, and core 0 at word w. -/
def withSb (x : SbRegion) (w : Nat) : State :=
  { withCore (atWord w) with blocks := [(0, { blockReset with sb := [(0, x)] })] }

/-- ScoreboardWords: every case of each word, at the counts where the cases meet. -/
theorem witness_scoreboard :
    (∀ sop ∈ [0x08, 0x09, 0x0A, 0x0B], ∀ x ∈ ([sbReset, ⟨0, 0, 1, true, 4, 255, []⟩, ⟨0, 0, 1, true, 4, 254, [(0, 254)]⟩, ⟨0, 1, 0, true, 4, 0, []⟩] :
        List SbRegion),
      let w := seqField sop 0 0 0 0 0
      let s := withSb x w
      curWord s 0 = some w ∧ (getCore s 0).seq.tumPending = none ∧ (issueWait s 0 w).isNone = true ∧ issueCheck s 0 w = none ∧
        getSb s 0 0 = x) ∧
    sbReset.valid = false ∧
    quiet (withCore { atWord (seqField 0x08 0 0 0 0 0) with batch := some ⟨0, 0, 0, 0, [], 0, none, [], 0, false, 0⟩ }) 0 = false ∧ isSE 0 = false := by decide +kernel

/-- A tumbler of block 0's scope with COUNT c, and a name of it with an amount. -/
def withTum (c : Nat) (w : Nat) : State :=
  { withCore (atWord w) with blocks := [(0, { blockReset with tums := [(0, { tumReset with count := c })] })] }

/-- TumblerSignalWord: COUNT and the amount reach 65,535, and pass it; and a cut tumbler. -/
theorem witness_tum_signal : ∀ c ∈ [65534, 65535],
    let w := seqField 0x0C 0 0 0 0 (1 * 2 ^ 24)
    let s := withTum c w
    curWord s 0 = some w ∧ (getCore s 0).seq.tumPending = none ∧ (issueWait s 0 w).isNone = true ∧ issueCheck s 0 w = none ∧
      tumCut s (tumRefOf 0 (qImm w)) = false ∧ (tumGet s (tumRefOf 0 (qImm w))).count = c ∧
      tumCut { s with regions := [(0, { regionReset with deadbolted := true })] } (tumRefOf 0 (qImm w)) = true := by decide +kernel

/-- TumblerWaitWord: COUNT at the amount, and one below it; and a wait that has passed. -/
theorem witness_tum_wait : (∀ c ∈ [4, 5],
    let w := seqField 0x0D 0 0 0 0 (5 * 2 ^ 24)
    let s := withTum c w
    curWord s 0 = some w ∧ (getCore s 0).seq.tumPending = none ∧ (issueWait s 0 w).isNone = true ∧ issueCheck s 0 w = none ∧
      tumCut s (tumRefOf 0 (qImm w)) = false ∧ (tumGet s (tumRefOf 0 (qImm w))).waits = [] ∧
      (tumGet s (tumRefOf 0 (qImm w))).count = c ∧ nbits (qImm w) 24 8 = 5) ∧
    (let w := seqField 0x0D 0 0 0 0 (5 * 2 ^ 24)
     let s := withCore { atWord w with seq := { (atWord w).seq with tumPending := some (qImm w), tumPassed := true } }
     curWord s 0 = some w ∧ (getCore s 0).seq.tumPending ≠ none ∧ (getCore s 0).seq.tumPassed = true) := by decide +kernel

/-! ### Engines -/

/-- Core 0 runs, and the field with the bits given is at the head of engine eng. -/
def withField (eng bits : Nat) (c : Core) : State :=
  withCore { c with seq := { seqReset with st := .running }, fq := [(eng, [⟨bits, 0, 0⟩])] }

/-- A queue that holds a beat. -/
def beatQ (b : Bytes) : Queue := ⟨[.beat b], none, none⟩

/-- MatrixFields: ZERO, and DRAIN of a row that is sound and of one with an uncorrectable word. -/
theorem witness_matrix_zero : fieldAt (withField 1 (5 * 2 ^ 14) coreReset) 0 1 ⟨5 * 2 ^ 14, 0, 0⟩ [] ∧
    (getCore (withField 1 (5 * 2 ^ 14) coreReset) 0).batch = none ∧
    (∃ c1, takeBaton (getCore (withField 1 (5 * 2 ^ 14) coreReset) 0) (5 * 2 ^ 14) = .ok c1 ∧ ∃ c3, putBaton { c1 with
      acc := c1.acc.filter fun e => decide (e.1 / 256 ≠ mAcc (5 * 2 ^ 14)), bp := tabSet 0 c1.bp (mAcc (5 * 2 ^ 14)) 0,
      harm := mendRange c1.harm (harmKey 3 (mAcc (5 * 2 ^ 14)) 0) (harmKey 3 (mAcc (5 * 2 ^ 14)) 256) } (5 * 2 ^ 14) = .ok c3) ∧
    fOp4 (5 * 2 ^ 14) = 5 := ⟨⟨rfl, rfl⟩, rfl, ⟨_, rfl, _, rfl⟩, rfl⟩

theorem witness_matrix_drain : fieldAt (withField 1 (4 * 2 ^ 14) coreReset) 0 1 ⟨4 * 2 ^ 14, 0, 0⟩ [] ∧
    (∃ c1, takeBaton (getCore (withField 1 (4 * 2 ^ 14) coreReset) 0) (4 * 2 ^ 14) = .ok c1 ∧
      (∃ c2, pushQ c1 (mOq (4 * 2 ^ 14)) (.beat (unElems 4 (accRow c1 (mAcc (4 * 2 ^ 14)) (getBp c1 (mAcc (4 * 2 ^ 14)))))) = some c2) ∧
      (∃ x, arrayCheck c1 [] (mAcc (4 * 2 ^ 14)) [0] = .ok x) ∧
      ∃ e, arrayCheck { c1 with harm := [(harmKey 3 0 0, 2)] } [] (mAcc (4 * 2 ^ 14)) [0] = .error e) ∧
    fOp4 (4 * 2 ^ 14) = 4 := ⟨⟨rfl, rfl⟩, ⟨_, rfl, ⟨_, rfl⟩, ⟨_, rfl⟩, _, rfl⟩, rfl⟩

/-- An engine operation that completes, and the core it leaves. -/
def isOk : EngRes → Bool
  | .ok _ => true
  | _ => false

theorem isOk_ok {r : EngRes} (h : isOk r = true) : ∃ c, r = .ok c := by
  cases r with
  | ok c => exact ⟨c, rfl⟩
  | wait => cases h
  | halt a b => cases h

/-- A core with slot 15 READY in BF16, a record of 512 bytes and one of 4,096 in queues 0 and 1, and all else as at reset. -/
def mtxCore : Core := { coreReset with
  slots := [(15, ⟨.ready, 0, 1, [], []⟩)], queues := [(0, beatQ (List.replicate 512 0)), (1, beatQ (List.replicate 4096 0))] }

/-- MTX fields: MOP, SLOT 15 or 0, FMT 1, IQ, OQ 2 and ACC. -/
def mtxField (mop slot iq acc : Nat) : Nat := mop * 2 ^ 14 + slot * 2 ^ 18 + 1 * 2 ^ 22 + iq * 2 ^ 26 + 2 * 2 ^ 30 + acc * 2 ^ 34

/-- Whether the checks of the matrix array pass (R193). -/
def passes : Except (Nat × Nat) Core → Bool
  | .ok _ => true
  | .error _ => false

/-- MatrixFields, MacRowsAdd: MAC of one record, in each bank, over sound memories and over an uncorrectable section or row; a beat
that breaks a rule; LOAD of section 0. -/
theorem witness_matrix : (∀ acc ∈ [0, 1], ∃ c2, popBeat mtxCore (mIq (mtxField 1 15 0 acc)) = .beat (List.replicate 512 0) c2 ∧
      inputBad c2 (mtxField 1 15 0 acc) [mSlot (mtxField 1 15 0 acc)] false (List.replicate 512 0) = none ∧
      (getSlot c2 15).st = .ready ∧ mAcc (mtxField 1 15 0 acc) = acc ∧ fOp4 (mtxField 1 15 0 acc) = 1 ∧
      (inputBad c2 (mtxField 1 0 0 acc) [0] false (List.replicate 512 0)).isSome = true ∧ passes (arrayCheck c2 [15] acc [0]) = true ∧
      ∀ k ∈ [harmKey 2 15 7, harmKey 3 acc 0], passes (arrayCheck { c2 with harm := [(k, 2)] } [15] acc [0]) = false) ∧
    (∃ c2, popBeat mtxCore (mIq (mtxField 3 0 1 0)) = .beat (List.replicate 4096 0) c2 ∧ (getSlot c2 0).cursor = 0 ∧
      fOp4 (mtxField 3 0 1 0) = 3 ∧ mFmt (mtxField 3 0 1 0) = 1 ∧ (List.replicate 4096 (0 : Byte)).length = 4096) := by
  refine ⟨?_, _, rfl, by decide +kernel, by decide +kernel, by decide +kernel, List.length_replicate⟩
  intro acc h
  simp only [List.mem_cons, List.not_mem_nil, or_false] at h
  rcases h with rfl | rfl <;> exact ⟨_, rfl, by decide +kernel⟩

/-- MAC_T of one record of 64 elements (R177). -/
theorem witness_mac_t : ∃ c2, popBeat { mtxCore with queues := [(0, beatQ (List.replicate 128 0))] } 0 = .beat (List.replicate 128 0) c2 ∧
    inputBad c2 (mtxField 2 15 0 0) [15] true (List.replicate 128 0) = none ∧ mtxPair 1 (getSlot c2 15).fmt true = true ∧
    fOp4 (mtxField 2 15 0 0) = 2 := ⟨_, rfl, by decide +kernel, by decide +kernel, by decide +kernel⟩

/-- Where the run of a batch's rows ends: at its last row (some true), before it (some false), or at a halt (none). -/
def drained : DrainRes → Option Bool
  | .ok c _ => c.batch.map fun y => y.todo == 0
  | .halt _ _ _ _ => none

/-- BatchFields: a BATCH that stages one row, which runs, meets an uncorrectable word, or waits below the window; and an open batch
with a complete row. -/
theorem witness_batch :
    (∃ c2, popBeat mtxCore 0 = .beat (List.replicate 512 0) c2 ∧
      inputBad c2 (mtxField 6 15 0 0) (rangeFrom 15 1) false (List.replicate 512 0) = none ∧
      let staged := { c2 with batch := some ⟨15, 1, 0, 2, [List.replicate 512 0], 1, none, [], 0, true, 512⟩ }
      drained (batchDrain 128 staged 0) = some true ∧ drained (batchDrain 128 { staged with harm := [(harmKey 3 0 0, 2)] } 0) = none) ∧
    fOp4 (mtxField 6 15 0 0) = 6 ∧ nbit (mtxField 6 15 0 0) 1 = false ∧
    (let x : Batch := ⟨15, 1, 0, 2, [List.replicate 512 0], 0, none, [], 0, false, 512⟩
     let s := withCore { coreReset with seq := { seqReset with st := .running }, batch := some x }
     (getCore s 0).seq.st = .running ∧ (getCore s 0).batch = some x ∧ x.todo < batchRows x) :=
  ⟨⟨_, rfl, by decide +kernel⟩, by decide +kernel, by decide +kernel, rfl, rfl, by decide +kernel⟩

/-- VEC fields: VOP, A, B, C, D, DTYPE and SUM_OP, with MASK 0, LGE 0 and no baton. -/
def vecField (vop a b c d dt sum : Nat) : Nat :=
  vop * 2 ^ 14 + a * 2 ^ 20 + b * 2 ^ 29 + c * 2 ^ 38 + d * 2 ^ 47 + dt * 2 ^ 59 + sum * 2 ^ 62

/-- A core for vector fields: queue 0 holds a beat, and random slot 0 is bound to stream 0. -/
def vecCore : Core := { coreReset with queues := [(0, beatQ (List.replicate 4096 0))], rands := [(0, some ⟨0, true⟩)] }

/-- Whether the field is ready on that core. -/
def vecTakes (b : Nat) : Bool := isOk (takeBaton vecCore b) && (match takeBeats vecCore (vecQueues b) [] with | (.beat [] _, _) => true | _ => false) &&
  isOk (putBaton vecCore b)

/-- VectorLaneFields, VectorMoveFields, VectorMaskFields, LaneResults: each operation with rows, and with a queue operand, in FP32 and INT32. -/
theorem witness_vector :
    (∀ vop ∈ [0x00, 0x01, 0x02, 0x03, 0x04, 0x05, 0x06, 0x07, 0x08, 0x09, 0x0E, 0x0F, 0x10, 0x11, 0x12, 0x13, 0x14, 0x15, 0x16, 0x17, 0x18],
      ∀ a ∈ [1, 256], ∀ dt ∈ [0, 3], vVop (vecField vop a 2 3 4 dt 0) = vop ∧ (opdOf a).isMask = false ∧ (opdOf 2).isMask = false ∧
        opdOf (vD (vecField vop a 2 3 4 dt 0)) = .row 4 ∧ vDtype (vecField vop a 2 3 4 dt 0) = dt ∧ vSumOp (vecField vop a 2 3 4 dt 0) = 0 ∧
        vecTakes (vecField vop a 2 3 4 dt 0) = true ∧ isOk (finishData vecCore (vecField vop a 2 3 4 dt 0) [] []) = true) ∧
    (∀ vop ∈ [0x01, 0x0A, 0x0B, 0x0C, 0x0D, 0x12, 0x13, 0x14], ∀ a ∈ [1, 273], opdOf (vD (vecField vop a 274 0 273 0 0)) = .mask 1 ∧
      opdOf 273 = .mask 1 ∧ opdOf (vB (vecField vop a 274 0 273 0 0)) = .mask 2 ∧ vVop (vecField vop a 274 0 273 0 0) = vop ∧
      (a = 273 ∨ vecTakes (vecField vop a 2 0 273 0 0) = true)) ∧
    opdOf (vC (vecField 0x0E 1 2 273 4 0 0)) = .mask 1 ∧ vSumOp (vecField 0x00 1 0 0 0 0 1) = 1 ∧
    (∀ vop ∈ [0x0F, 0x18], ∃ c', opCvt (vop == 0x18) vecCore [] (vecField vop 1 0 280 4 0 0) = .ok c') ∧
    (∃ d, writeRow vecCore 4 [] = some d) := by
  refine ⟨by decide +kernel, by decide +kernel, by decide +kernel, by decide +kernel, ?_, _, rfl⟩
  intro vop h
  simp only [List.mem_cons, List.not_mem_nil, or_false] at h
  rcases h with rfl | rfl <;> exact ⟨_, rfl⟩

/-- LaneResults: every data type and target that fits, at the last place of its size; and patterns that are no NaN. -/
theorem witness_lanes :
    (∀ dt ∈ [0, 1, 2, 3], ∀ target ∈ [0, 1, 2, 3, 4, 0xA, 0xB], let b := vecField 0x0F 1 target 280 4 dt 0
      vDtype b = dt ∧ nbits (vB b) 0 4 = target ∧ vSumOp b = 0 ∧ opdOf (vD b) = .row 4 ∧
        (if dtBytes dt < codeBytes target then 0 else 128 * nbits (vB b) 4 5) +
          (if dtBytes dt < codeBytes target then 1024 else dtCount dt) * codeBytes target ≤ 4096) ∧
    (let b := vecField 0x0F 1 (2 + 24 * 2 ^ 4) 280 4 0 0
     nbits (vB b) 0 4 = 2 ∧ 128 * nbits (vB b) 4 5 + dtCount 0 * codeBytes 3 ≤ 4096) ∧
    ∀ f ∈ [fmtFP32, fmtBF16, fmtFP16], ∀ x ∈ [0, 1, 2 ^ f.mb, 2 ^ (f.eb + f.mb)], x < 2 ^ (f.eb + f.mb + 1) ∧ (fpDecode f x).isNaN = false := by
  decide +kernel

/-- VectorLaneFields: the head of the vector queue is ready; and it is not where a row that it reads holds an uncorrectable word. -/
theorem witness_vec_ready : (∃ c, vecReady (withField 2 (vecField 0x02 1 2 0 4 3 0) coreReset) 0 ⟨vecField 0x02 1 2 0 4 3 0, 0, 0⟩ [] c []) ∧
    (vecCheck { coreReset with cache := [(1, List.replicate 4096 1)], harm := [(harmKey 1 1 0, 2)] } 0 (vecField 0x02 1 2 0 4 3 0)).1.isSome = true :=
  ⟨⟨_, ⟨rfl, rfl⟩, _, _, _, _, rfl, rfl, rfl, rfl⟩, by decide +kernel⟩

/-- SpecialFunctionFields: a field that goes on within its beat, and one that ends it, at the lengths where the cases meet. -/
theorem witness_special : ∀ op ∈ [1, 2, 3, 4], ∀ len ∈ [1024, 1025],
    let b := op * 2 ^ 14 + 0 * 2 ^ 18 + 2 * 2 ^ 22
    let s := withField 3 b { coreReset with queues := [(0, beatQ (List.replicate len 0))] }
    fieldAt s 0 3 ⟨b, 0, 0⟩ [] ∧ isOk (takeBaton (getCore s 0) b) = true ∧ (getQ (getCore s 0) (sIq b)).items = .beat (List.replicate len 0) :: [] ∧
      fOp4 b = op ∧ sSel b = 0 ∧ isOk (putBaton (getCore s 0) b) = true ∧ sfuHarm (getCore s 0) b < 2 ∧
      (pushQ (setQ (getCore s 0) (sIq b) { getQ (getCore s 0) (sIq b) with items := [] }) (sOq b) (.beat [])).isSome = true ∧
      (List.replicate len (0 : Byte)).length = len ∧ (len = 1024 → len ≤ 1024 * (sSel b + 1)) ∧ (len = 1025 → 1024 * (sSel b + 1) < len) := by
  unfold fieldAt; decide +kernel

/-- A RED or SCN field: operation, IQ 0 and OQ 2, TREE 0. -/
def redField (op : Nat) : Nat := op * 2 ^ 14 + 2 * 2 ^ 22

/-- ReductionFields and ReductionFraming: no row, a fresh row, a row of the same operation, of another one and of the tree. -/
theorem witness_reduction : ∀ op ∈ [1, 2, 3, 4, 5, 6, 7],
    let b := redField op
    let c := { coreReset with queues := [(0, beatQ [0, 0, 0, 0])] }
    (∀ row ∈ ([none, some ⟨0, false, []⟩, some ⟨op, false, []⟩, some ⟨2, true, []⟩, some ⟨6, false, []⟩] : List (Option RedRow)),
      let s := withField 4 b { c with row := row }
      fieldAt s 0 4 ⟨b, 0, 0⟩ [] ∧ (getCore s 0).row = row ∧ isOk (takeBaton (getCore s 0) b) = true ∧ isOk (putBaton (getCore s 0) b) = true) ∧
    fOp4 b = op ∧ rTree b = false ∧ (match popBeat c (sIq b) with | .beat bs _ => decide (bs = [0, 0, 0, 0]) | _ => false) = true ∧
    (pushAll { c with row := none } (sOq b) [.beat []]).isSome = true := by
  unfold fieldAt; decide +kernel

/-- ScanFields: STEP, LOAD_H, STORE_H, and a CHUNK that takes one step, as its first and as its last. -/
theorem witness_scan :
    let c := { coreReset with queues := [(0, beatQ (List.replicate 4096 0)), (1, beatQ (List.replicate 4096 0))] }
    (∀ op ∈ [1, 2, 3, 4], ∀ k ∈ [0, 63],
      let b := redField op
      let s := withField 5 b { c with chunkDone := k }
      fieldAt s 0 5 ⟨b, 0, 0⟩ [] ∧ isOk (takeBaton (getCore s 0) b) = true ∧ isOk (putBaton (getCore s 0) b) = true ∧ fOp4 b = op ∧
        (getCore s 0).chunkDone = k) ∧
    (∃ d1 d2, popBeat c (sIq (redField 1)) = .beat (List.replicate 4096 0) d1 ∧ popBeat d1 ((sIq (redField 1) + 1) % 16) =
      .beat (List.replicate 4096 0) d2 ∧ (List.replicate 4096 (0 : Byte)).length = 4096 ∧ ∃ d, pushQ d2 (sOq (redField 1)) (.beat []) = some d) ∧
    (isOk (chunkSteps 64 c (redField 4) 0).1 = true ∧ (chunkSteps 64 c (redField 4) 0).2 = 1) := by
  exact ⟨by unfold fieldAt; decide +kernel, ⟨_, _, rfl, rfl, List.length_replicate, _, rfl⟩, by decide +kernel⟩

/-! ### Movers, hinge, DMA -/

/-- A pattern of one run of 64 bytes at base, every count 1 (R154). -/
def pat1 (base : Nat) : Nat := base + 2 ^ 64 + 2 ^ 192 + 2 ^ 256 + 2 ^ 320 + 2 ^ 384 + 2 ^ 448

/-- Core 0 runs, with mover 0 as given and queue 0. -/
def withMover (x : Mover) (q : Queue) (op : Nat) : State :=
  withField 6 op { coreReset with movers := [(0, x)], queues := [(0, q)], arms := [0, 2 * 2 ^ 4] }

/-- MoverFields: each operation on a mover unarmed, armed, running and done, for reads and write-backs; entries of the arm list of both kinds,
before and after the walk is cut. -/
theorem witness_mover_fields :
    (∀ op ∈ [1, 2, 3, 4, 5], ∀ st ∈ [MvState.unarmed, .armed, .running, .done], ∀ kind ∈ [0, 1],
      let x := { moverReset with st := st, kind := kind }
      let s := withMover x ⟨[.baton 0], none, none⟩ op
      let cut := setCore s 0 (setMv (getCore s 0) 0 { rewind x with st := .armed, due := false })
      fieldAt s 0 (6 + 0) ⟨op, 0, 0⟩ [] ∧ nbits op 0 4 = op ∧ (getMv (getCore s 0) 0).st = st ∧ (getMv (getCore s 0) 0).kind = kind ∧
        (getMv (getCore s 0) 0).due = false ∧ (getMv (getCore s 0) 0).req = none ∧ (getMv (getCore s 0) 0).part = [] ∧ (getQ (getCore s 0) 0).items = .baton (nbits op 4 8) :: [] ∧
        (getCore s 0).arms[0]? = some 0 ∧ nbits 0 4 2 ≠ 2 ∧ (getCore s 0).arms[1]? = some (2 * 2 ^ 4) ∧ nbits (2 * 2 ^ 4) 4 2 = 2 ∧
        ∀ t ∈ [s, cut], (armMover t 0 0 0).2 = none) ∧
    readersDone coreReset 0 0 = true := by
  unfold fieldAt; decide +kernel

/-- MoverFields: a REARM of an entry that the list does not have, and a TAKE_BATON whose baton matches, and does not. -/
theorem witness_mover_stops : (let op := 3 + 2 * 2 ^ 4
     let s := withMover moverReset queueReset op
     fieldAt s 0 (6 + 0) ⟨op, 0, 0⟩ [] ∧ nbits op 0 4 = 3 ∧ (getCore s 0).arms[nbits op 4 3]? = none) ∧
    ∀ tag ∈ [0, 1], let op := 5 + tag * 2 ^ 4
      let s := withMover { moverReset with st := .running, kind := 1 } ⟨[.baton 0], none, none⟩ op
      fieldAt s 0 (6 + 0) ⟨op, 0, 0⟩ [] ∧ nbits op 0 4 = 5 ∧ (getMv (getCore s 0) 0).kind = 1 ∧ (getMv (getCore s 0) 0).req = none ∧
        (getMv (getCore s 0) 0).part = [] ∧ (getQ (getCore s 0) 0).items = .baton 0 :: [] ∧ (0 = nbits op 4 8 ↔ tag = 0) := by
  unfold fieldAt; decide +kernel

/-- MoverRuns: a beat asked for, a beat sent, the rest of one, an invalid run of each kind, a beat of the wrong length, and a misaligned run. -/
theorem witness_mover_runs :
    (∀ kind ∈ [0, 1], ∀ len ∈ [63, 64], ∀ idx ∈ [false, true], ∀ part ∈ ([[], [1]] : List Bytes),
      let x := { moverReset with st := .running, gen := true, kind := kind, pat := pat1 0 + 2 ^ 80 * b2n idx + 2 ^ 81 * b2n idx, part := part }
      let s := withMover x (beatQ (List.replicate len 0)) 0
      mvRuns s 0 0 = true ∧ (getMv (getCore s 0) 0).gen = true ∧ (getMv (getCore s 0) 0).kind = kind ∧ pIndexed x.pat = idx ∧ x.idxOk = false ∧
        (pushQ (getCore s 0) 0 (.beat (List.replicate 64 0))).isSome = true ∧ (getQ (getCore s 0) 0).items = .beat (List.replicate len 0) :: [] ∧
        min (4096 - x.off % 4096) (pLen x.pat - x.off) = 64 ∧ (getMv (getCore s 0) 0).part = part ∧ walkAddr s x.table (x.addr + x.off) = some 0 ∧
        walkAddr s (some 0) (x.addr + x.off) = none) ∧
    (let x := { moverReset with st := .running, pat := pat1 1 }
     let s := withMover x queueReset 0
     mvRuns s 0 0 = true ∧ (getMv (getCore s 0) 0).gen = false ∧ pIndexed x.pat = false ∧ runBase x.pat x.run % 64 ≠ 0) := by decide +kernel

/-- How the check of a read ends: 0 right, 1 a halt, 2 lost data. -/
def eccEnd : EccRes → Nat
  | .ok _ => 0
  | .halt _ _ _ => 1
  | .bus _ => 2

/-- How a write of a unit ends: 0 done, 1 waiting, 2 a halt. -/
def writeEnd : UnitWr → Nat
  | .ok _ => 0
  | .wait => 1
  | .halt _ _ => 2

/-- MoverAnswers: a read and a write of the unit's own store, of a whole beat and of half of one, waiting or not, plain and ADD; a dead target;
a read of an uncorrectable word and of lost data; a write that waits for a frame, and one that the unit may not make. -/
theorem witness_mover_answers :
    (∀ wr ∈ [false, true], ∀ waits ∈ [false, true], ∀ wop ∈ [0, 1], ∀ len ∈ [32, 64],
      let q : Inflight := ⟨0x400_0000_0000, len, wr, if wr then List.replicate len 0 else [], false⟩
      let x := { moverReset with st := .running, req := some q, waitsFrame := waits, pat := pat1 0x400_0000_0000 + wop * 2 ^ 85 }
      let s := withMover x queueReset 0
      (getCore s 0).seq.st = .running ∧ (getMv (getCore s 0) 0).req = some q ∧ (getMv (getCore s 0) 0).waitsFrame = waits ∧ q.write = wr ∧
        targetDead s 0 q.addr = false ∧ pWop (getMv (getCore s 0) 0).pat = wop ∧ (getQ (getCore s 0) 0).items.length < 8 ∧
        (readAt s 0 q.addr q.len).length = len ∧ (pushQ (getCore s 0) 0 (.beat (readAt s 0 q.addr q.len))).isSome = true ∧
        eccEnd (eccAt s 0 q.addr q.len) = 0 ∧ writeEnd (writeAt s 0 q.addr q.data) = 0 ∧
        writeEnd (writeAt s 0 q.addr (addBytes (pAddFmt x.pat) (readAt s 0 q.addr q.len) q.data)) = 0) ∧
    targetDead { State.reset with regions := [(0, { regionReset with deadbolted := true })] } 0 0 = true ∧
    eccEnd (eccAt (withCore { coreReset with harm := [(harmKey 0 0 0, 2)] }) 0 0x400_0000_0000 64) = 1 ∧
    eccEnd (eccAt { State.reset with regions := [(0, { regionReset with pt := [(0, ⟨0, true, false, []⟩)], harm := [(0, 3)] })] } 0 0 64) = 2 ∧
    writeEnd (writeAt State.reset 0 0 (List.replicate 64 0)) = 1 ∧
    writeEnd (writeAt (withSb ⟨0, 1, 0, true, 4, 0, []⟩ 0) 0 0x400_0200_0000 (List.replicate 64 0)) = 2 := by decide +kernel

/-- WalkAddresses: the last element of counts 2, 1, 1, 1, 1. -/
theorem witness_walk : pIndexed (pat1 0 + 2 ^ 192) = false ∧ 1 < pCount (pat1 0 + 2 ^ 192) 1 ∧ 0 < pCount (pat1 0 + 2 ^ 192) 2 ∧
    0 < pCount (pat1 0 + 2 ^ 192) 3 ∧ 0 < pCount (pat1 0 + 2 ^ 192) 4 ∧ 0 < pCount (pat1 0 + 2 ^ 192) 5 := by decide +kernel

/-- An indexed pattern (R154): dimension d, LIMIT 2, indices at the core store's byte 0, STRIDE of dimension 1 as given. -/
def patIdx (base d stride : Nat) (strict : Bool) : Nat :=
  pat1 base + 2 ^ 80 + d * 2 ^ 81 + b2n strict * 2 ^ 84 + 2 * 2 ^ 96 + 0x400_0000_0000 * 2 ^ 128 + stride * 2 ^ 212

/-- Core 0 runs a mover on such a pattern, with the index given in its store; the line reads as index v, and the read ends well. -/
def withIndex (p run v : Nat) : State := withField 6 0 { coreReset with
  store := memWrite [] 0 (natLe 4 v), movers := [(0, { moverReset with st := .running, pat := p, run := run, idx := 1 })] }
def readsIndex (s : State) (v : Nat) : Bool := match readIndex s 0 0 0x400_0000_0000 true with
  | .ok t => leNat ((getMv (getCore t 0) 0).line.take 4) == v
  | .halt _ _ _ => false

/-- WalkAddresses, an index: in range and out of it on both sides, with STRICT and without; an index line out of reach; a run beneath an index
taken before; a base below 0, past 2^52 and not a multiple of 64; a run out of reach. -/
theorem witness_walk_index :
    (∀ strict ∈ [false, true], ∀ v ∈ [0, 1, 2, 0xFFFF_FFFF],
      let p := patIdx 0x400_0000_1000 1 64 strict
      let s := withIndex p 0 v
      let x := getMv (getCore s 0) 0
      mvRuns s 0 0 = true ∧ x.gen = false ∧ pIndexed x.pat = true ∧ pIdxDim p = 1 ∧ newIndex p 0 = true ∧ pIdxBase p + 4 * x.idxPos = 0x400_0000_0000 ∧
        idxReach s 0 0x400_0000_0000 = true ∧ readsIndex s v = true ∧ pStrict p = strict ∧
        (0 ≤ toSigned 32 v ∧ toSigned 32 v < (pLimit p : Int) ↔ v = 0 ∨ v = 1) ∧
        runBase p 0 + 1 * pStride p 1 = 0x400_0000_1040 ∧ runBad s 0 x 0x400_0000_1040 = none ∧ (runBad s 0 x 0x400_0400_0000).isSome = true) ∧
    idxReach State.reset 0 0 = false ∧ runBase (patIdx 0 1 1 false) 0 + 1 * pStride (patIdx 0 1 1 false) 1 = 1 ∧
    runBase (patIdx 0 1 (2 ^ 44 - 64) false) 0 + 1 * pStride (patIdx 0 1 (2 ^ 44 - 64) false) 1 = -64 ∧
    2 ^ 52 ≤ runBase (patIdx (2 ^ 52 - 64) 1 64 false) 0 + 1 * pStride (patIdx (2 ^ 52 - 64) 1 64 false) 1 ∧
    (let p := patIdx 0 2 64 false + 2 ^ 192
     newIndex p 1 = false ∧ mvRuns (withIndex p 1 0) 0 0 = true ∧ 1 < pCount p 1) := by decide +kernel

/-- A row permute of one row of 64 bytes, and the in-place transpose of a tile of 64 by 64 bytes, in the core's store (R309). -/
def permuteDesc : Nat := 2 + 63 * 2 ^ 16 + 0x400_0000_1000 * 2 ^ 64 + 0x400_0000_2000 * 2 ^ 128 + 0x400_0000_3000 * 2 ^ 256
def tileDesc : Nat := 1 + 63 * 2 ^ 8 + 63 * 2 ^ 16 + 0x400_0000_1000 * 2 ^ 64 + 0x400_0000_1000 * 2 ^ 128 + 64 * 2 ^ 192 + 64 * 2 ^ 224

/-- TransferFields, hinge: descriptors with and without fault, in words that read and in one that does not, with the slot free. -/
theorem witness_hinge_fields : ∀ op ∈ [1, 2], ∀ harm ∈ ([[], [(harmKey 0 0 0, 2)]] : List (Tab Nat)), ∀ w ∈ [permuteDesc, 0],
    let b := op * 2 ^ 14
    let s := withField 14 b { coreReset with store := memWrite [] 0 (natLe 64 w), harm := harm }
    fieldAt s 0 14 ⟨b, 0, 0⟩ [] ∧ isOk (takeBaton (getCore s 0) b) = true ∧ isOk (putBaton (getCore s 0) b) = true ∧ fOp4 b = op ∧
      hingeBusy s 0 (xUnit b) = false ∧ (getBlock s 0).hingeQ.length < 16 ∧ leNat (memRead (getCore s 0).store (xDesc b * 4096) 64) = w ∧
      eccEnd (hingeReads 0 (runSlot s 0) [(.cs 0 (xDesc b * 4096), 64)] s) = min harm.length 1 ∧ (hingeShapeBad 0 w).isSome = decide (w = 0) ∧
      eccEnd (hingeReads 0 (runSlot s 0) (indexPlace s 0 w) s) = 0 ∧ (hingeBad s 0 0 0 w).isSome = decide (w = 0) ∧
      (hingeBad s 0 0 0 (permuteDesc + 32 * 2 ^ 64)).isSome = true ∧ hingeShapeBad 0 (permuteDesc + 32 * 2 ^ 64) = none ∧
      eccEnd (hingeReads 0 0 (indexPlace s 0 permuteDesc) (withCore { coreReset with harm := [(harmKey 0 0 1536, 2)] })) = 1 := by
  unfold fieldAt; decide +kernel

/-- HingeOperations: an operation waiting whose checks pass and whose writes all land, one whose source word does not read, one of a fenced
core, operations running, staged and not. TransposeMovesElements: a tile of one row of two columns, of one byte an element. -/
theorem witness_hinge :
    (let op : HingeOp := ⟨0, 0, permuteDesc, 0, 0⟩
     let places := fun (s : State) => (hSrcRows op.desc).map fun a => placeOf s (some op.core) a.toNat
     let s := { withField 14 0 coreReset with blocks := [(0, { blockReset with hingeQ := [op] })] }
     let h := { s with cores := [(0, { getCore s 0 with harm := [(harmKey 0 0 512, 2)] })] }
     (getBlock s 0).hingeRun = none ∧ (getBlock s 0).hingeQ = op :: [] ∧ blockAlive s 0 = true ∧ isCut s 0 0 = false ∧
       eccEnd (hingeChecks s 0 op (places s)) = 0 ∧ eccEnd (hingeChecks h 0 op (places h)) = 1 ∧ (getCore h 0).seq.st = .running ∧
       isCut { s with cores := [(0, { getCore s 0 with deadbolted := true })] } 0 0 = true ∧
       (match hingeWrites op ((hDstRows permuteDesc).zip [List.replicate 64 0]) s with | .ok _ => true | _ => false) = true) ∧
    hStaged State.reset 0 permuteDesc = false ∧ hStaged State.reset 0 tileDesc = true ∧
    hPermute (1 + 1 * 2 ^ 16) = false ∧ ([[1, 2]] : List Bytes).length = hRows (1 + 1 * 2 ^ 16) ∧
    (∀ r ∈ ([[1, 2]] : List Bytes), r.length = hCols (1 + 1 * 2 ^ 16) * hSize (1 + 1 * 2 ^ 16)) ∧ 0 < hRows (1 + 1 * 2 ^ 16) ∧
    1 < hCols (1 + 1 * 2 ^ 16) ∧ 0 < hSize (1 + 1 * 2 ^ 16) := by decide +kernel

/-- A descriptor of KIND k that the channel owns: LEN bytes from the core store's byte 4,096 to byte 8,192 (R329). -/
def dmaDesc (k len : Nat) : Nat := crcSeal 64 (2 * k + len * 2 ^ 32 + 0x400_0000_1000 * 2 ^ 64 + 0x400_0000_2000 * 2 ^ 128) + 1

/-- Core 0's store holds the descriptor at its ring's head, and channel 0 of block 0, which core 0 owns, is in the state given. -/
def withDma (w st : Nat) : State :=
  fput (withCore { coreReset with store := memWrite [] 0 (natLe 64 w) }) fBLK_DMA_STATUS_STATE 0 0 st

/-- Whether the source of a transfer reads without an error. -/
def reads : SrcRes → Bool
  | .ok _ => true
  | _ => false

/-- DmaTransfers: COPY, FILL and SWAP64, on a channel that runs and on one that waits for pacing; the ring, the source and the destination read;
a channel whose owner is fenced, and one that another channel goes before. -/
theorem witness_dma :
    (∀ k ∈ [(0, 64), (1, 64), (2, 8)], ∀ st ∈ [1, 2],
      let e := DmaEng.blk 0
      let w := dmaDesc k.1 k.2
      let s := withDma w st
      (getChan s e 0).desc = none ∧ chState s e 0 = st ∧ w = readEntry s e 0 (chHead s e 0) ∧ dOwn w = true ∧ fetchBad s e 0 w = none ∧
        engCut s e 0 = false ∧ outranked s e 0 w = false ∧ (∀ a ∈ [entryAddr s e 0 (chHead s e 0), dSrc w, dDst w],
          dmaDead s e (chPlace s e 0 a) = false ∧ isHost (chPlace s e 0 a) = false ∧ reads (sourceEcc s e 0 (dLen w) (chPlace s e 0 a)) = true) ∧
        (pacePaused s e 0 w).2 = false ∧ dRemote w = false ∧ dLen w ≠ 0 ∧ dKind w = k.1 ∧
        writeEnd (writePlace s (chOwner s e 0) (chSlot s e 0) (List.replicate 8 0) (chPlace s e 0 (dDst w))) = 0) ∧
    engCut { withDma (dmaDesc 0 64) 1 with cores := [(0, { coreReset with deadbolted := true })] } (.blk 0) 0 = true ∧
    outranked (withDma (dmaDesc 8 64) 1) (.blk 0) 1 (dmaDesc 0 64) = true := by
  decide +kernel

/-- TransferFields, DMA: the channel of core 0 with its ring at 0 or elsewhere, idle and running; and a channel of core 1. -/
theorem witness_dma_fields :
    (∀ op ∈ [3, 4], ∀ desc ∈ [0, 1], ∀ st ∈ [0, 1],
      let b := op * 2 ^ 14 + desc * 2 ^ 22
      let s := fput (withField 14 b coreReset) fBLK_DMA_STATUS_STATE 0 0 st
      fieldAt s 0 14 ⟨b, 0, 0⟩ [] ∧ isOk (takeBaton (getCore s 0) b) = true ∧ isOk (putBaton (getCore s 0) b) = true ∧ fOp4 b = op ∧
        chOwner s (.blk 0) (xUnit b) = some 0 ∧ ((getChan s (.blk 0) (xUnit b)).ring = xDesc b * 4096 ↔ desc = 0) ∧ chState s (.blk 0) (xUnit b) = st) ∧
    chOwner State.reset (.blk 0) (xUnit (3 * 2 ^ 14 + 2 * 2 ^ 18)) ≠ some 0 := by
  unfold fieldAt; decide +kernel

/-- DmaEnds: a transfer whose last byte has landed and one that has not; a ring that takes its status and one that must wait; a target that
answers the read-back and one that has died. -/
theorem witness_dma_ends :
    let e := DmaEng.blk 0
    let w := dmaDesc 0 64
    (∀ n ∈ [63, 64], let s := setChan (withDma w 1) e 0 { dmaReset with desc := some w, moved := n }
      (getChan s e 0).desc = some w ∧ chState s e 0 ≠ 3 ∧ isHandCh e 0 = false ∧ engCut s e 0 = false ∧ (dLen w ≤ (getChan s e 0).moved ↔ n = 64) ∧
        entryRoom s e 0 = true ∧ readBackDead s e 0 w = false) ∧
    entryRoom { State.reset with lap := { State.reset.lap with phase := .issuing }, regions := [(0, { regionReset with pt := [(0, ⟨0, true, false, []⟩)], frameSt := (rangeFrom 0 64).map fun f => (f, some 4) })] }
      (.rgn 0) 8 = false ∧
    readBackDead { State.reset with regions := [(0, { regionReset with deadbolted := true })] } e 0 0 = true := by decide +kernel

/-- DmaRegisters: idle firmware channel 8 of a region, core channel 0 of a block, and a channel stopped by an error. -/
theorem witness_dma_registers : chFw State.reset (.rgn 0) 8 = true ∧ chState State.reset (.rgn 0) 8 = 0 ∧ chFw State.reset (.blk 0) 0 = false ∧
    chState (fput State.reset fBLK_DMA_STATUS_STATE 0 0 3) (.blk 0) 0 = 3 ∧ fget State.reset fBLK_DMA_IDX_CHANNEL 0 0 = 0 ∧
    isCut State.reset 1 0 = false ∧ isCut State.reset 2 0 = false ∧
    isCut { State.reset with regions := [(0, { regionReset with deadbolted := true })] } 2 0 = true ∧
    isCut { State.reset with blocks := [(0, { blockReset with deadbolted := true })] } 1 0 = true := by decide +kernel

/-! ### Units, tasks, the lap -/

/-- UnitControls: a halted core, a running one and an idle one; the same of an engine, deadbolted or not. -/
theorem witness_units : (∀ st ∈ [SeqState.idle, .running, .halted], ∀ u ∈ [0, 512], ∀ dead ∈ [false, true],
    let s := { State.reset with cores := [(u, { coreReset with seq := { seqReset with st := st }, deadbolted := dead })] }
    (getCore s u).seq.st = st ∧ (if isSE u then isCut s 3 (u - 512) || !regionAlive s (unitRegion u) else isCut s 0 u) = dead) ∧ (getCore State.reset 511).seq.st = .idle := by decide

/-- ScoreboardEntryWrites: a block whose entry takes the write, one with a running reader of a valid region, one cut. -/
theorem witness_sb_writes :
    (blockAlive State.reset 63 = true ∧ (∀ hi ∈ [false, true], sbRejects State.reset 63 0 hi (b2n hi) = false)) ∧
    (let s := withSb ⟨0, 0, 0, true, 4, 0, []⟩ 0
     blockAlive s 0 = true ∧ (getSb s 0 (fget s fBLK_SB_IDX_INDEX 0 0)).producer = 0 ∧ (getSb s 0 0).valid = true ∧ (getCore s (0 * 8 + 0)).seq.st = .running) ∧
    blockAlive { State.reset with blocks := [(0, { blockReset with deadbolted := true })] } 0 = false ∧
    (∀ c < 8, (getCore State.reset (63 * 8 + c)).seq.st ≠ .running) ∧ 0 + 1 ≤ shadowLine State.reset 63 ∧ (getBlock State.reset 63).sb = [] ∧
    (let s := putSb State.reset 63 1 ⟨8, 8, 0, true, 4, 0, []⟩
     ∀ e ∈ (getBlock s 63).sb, e.1 ≠ 0 → e.2.valid = true → e.2.base + e.2.lines ≤ 0 ∨ 0 + 8 ≤ e.2.base) := by decide +kernel

/-- CounterClears. -/
theorem witness_clears : corePresent State.reset 511 = true ∧ isCut State.reset 0 511 = false ∧ blockAlive State.reset 63 = true ∧
    tumCut State.reset ⟨true, 7, fget State.reset fRGN_TUM_IDX_INDEX 7 0⟩ = false ∧
    tumCut State.reset ⟨false, 63, fget State.reset fBLK_TUM_IDX_INDEX 63 0⟩ = false := by decide +kernel

/-- DumpReads: no dump; the first, the next and the last word of an entry and of the end entry. -/
theorem witness_dump : State.reset.dump.busy = false ∧ ∀ n ∈ [0, 1, 6, 7], ∀ l ∈ ([[], [.hurdle 3]] : List (List DumpRef)),
    let d : Dump := ⟨true, l, 0, [], n⟩
    d.busy = true ∧ (d.todo = [] ∨ d.todo = .hurdle 3 :: []) ∧ (d.word = 0 ∨ 0 < d.word ∧ d.word < 7 ∨ d.word = 7) := by decide

/-- A task of graph 0 in slot 0 on core 0: one word at address 0, an arm list of no entry there, and nothing else. -/
def desc0 : TaskDesc := ⟨0, 0, 0, 0, 0, 0, 1, 0, 0, 0, 0, 0, 0, 0, 0, 0, 0, 0, 0⟩
def task0 : LapTask := ⟨0, 0, 0, desc0, [], false, false, false, none, 0, 0, 0, [], [], [], [], [], [], 0, 0, 0, 0, [], 0,
  false, false, false, [], [], [], none, false⟩

/-- A state of the lap, with the tasks given as the running lap's. -/
def inLap (p : LapPhase) (cur : List LapTask) : State :=
  { State.reset with lap := { State.reset.lap with phase := p, cur := cur, num := 100 } }

/-- Page 0 of region 0 mapped to frame 0. -/
def mapped0 (s : State) : State := { s with regions := [(0, { regionReset with pt := [(0, ⟨0, true, false, []⟩)] })] }

/-- Region 0 is the part manager's. -/
def managed (s : State) : State := { s with part := { s.part with manager := some 0 } }

/-- A read of the lap's structures: 0 the bytes, 1 out of range, 2 lost. -/
def taskEnd : TaskRead → Nat
  | .ok _ => 0
  | .range _ => 1
  | .bus _ => 2

/-- TasksStartAndFinish: a task, a filler, a program and an arm list that read, are not mapped, or are lost; a control store that serves
the task, and one that does not; movers that bind one queue. -/
theorem witness_task_starts :
    (∀ fl ∈ [false, true], let k := { task0 with filler := fl }
      let s := managed (inLap .issuing [k])
      mayStart s 0 = true ∧ nextTask s 0 = some k ∧ k.filler = fl) ∧
    (∀ l ∈ [false, true], reusable { coreReset with seq := { seqReset with loaded := l, progWords := 1 } } desc0 = l) ∧
    (∀ e ∈ [(desc0.program, 64 * desc0.programWords), (desc0.armList, 64 + 128 * desc0.armCount)],
      taskEnd (taskRead (mapped0 (inLap .issuing [task0])) e.1 e.2).2 = 0 ∧ taskEnd (taskRead (inLap .issuing [task0]) e.1 e.2).2 = 1 ∧
      taskEnd (taskRead { inLap .issuing [task0] with regions := [(0, { regionReset with deadbolted := true })] } e.1 e.2).2 = 2) ∧
    (armAll 0 [] (inLap .issuing [task0])).2 = none ∧ (armAll 0 [8 + pat1 0 * 2 ^ 512, 9 + pat1 0 * 2 ^ 512] (inLap .issuing [task0])).2.isSome = true := by
  decide +kernel

/-- MoverFields and TasksStartAndFinish: a tensor descriptor that reads, is not mapped, or is lost (R603). -/
theorem witness_desc_reads : let e := 2 ^ 3 + 2 ^ 6
    ∀ s ∈ [mapped0 State.reset, State.reset, { State.reset with regions := [(0, { regionReset with deadbolted := true })] }],
      taskEnd (descRead s e).2 = taskEnd (readDescs [e] s).2 ∧
      taskEnd (descRead s e).2 = (if (getRegion s 0).deadbolted then 2 else if (getRegion s 0).pt = [] then 1 else 0) := by decide +kernel

/-- LapCommandsComplete, TASK_START: program and arm list of zeros, in a part whose memory is sound. -/
theorem witness_task_completes :
    let s := managed (mapped0 (inLap .issuing [task0]))
    mayStart s 0 = true ∧ nextTask s 0 = some task0 ∧ task0.filler = false ∧ (∀ r, hbmSound s r = true) ∧
      (taskRead s desc0.program (64 * desc0.programWords)).2 = .ok (List.replicate 64 0) ∧
      (taskRead s desc0.armList (64 + 128 * desc0.armCount)).2 = .ok (List.replicate 64 0) ∧
      (∀ i < 8, nbit (leNat ((List.replicate 64 (0 : Byte)).take 64)) (32 * i + 16) = false) ∧
      ∀ e ∈ blocksOf 128 desc0.armCount ((List.replicate 64 (0 : Byte)).drop 64), nbit (leNat e) 3 = false := by
  refine ⟨by decide +kernel, by decide +kernel, rfl, ?_, by rfl, by rfl, by decide +kernel, by decide +kernel⟩
  intro r
  rcases r with _ | r
  · decide +kernel
  · rfl

/-- TasksStartAndFinish: a task whose END has issued and nothing of which is left; and a filler that runs. -/
theorem witness_task_finishes : ∀ fl ∈ [false, true],
    let k := { task0 with started := true, filler := fl }
    let s := { inLap .issuing [k] with cores := [(0, { coreReset with task := some 0, seq := { seqReset with st := .running, ended := !fl } })] }
    unitTask s 0 = some k ∧ hasFinished s 0 = !fl ∧ (getCore s 0).seq.st = .running := by decide +kernel

/-- HeldMemory: a page with a held frame, a fold and a record waiting, posts at 4,095 and at 4,096 records, and out of service a post that takes
effect and one that names a retired frame; who reaches the registers. -/
theorem witness_held :
    (let h : Held := ⟨0, 100, 7, 0, false⟩
     let p : PTE := ⟨0, true, false, [h]⟩
     let s := { inLap .issuing [{ task0 with finished := true }] with regions := [(0, { regionReset with
       pt := [(0, p)], foldQ := [0], ptForce := [⟨0, 1, true, false⟩] })] }
     (getRegion s 0).pt.find? (fun e => e.2.helds.any fun h => h.frame == 7 && !h.filled) = some (0, p) ∧
       p.helds.find? (fun h => h.frame == 7 && !h.filled) = some h ∧ regionAlive s 0 = true ∧ writesDone s h.slot = true ∧ inService s = true ∧
       (getRegion s 0).foldQ = 0 :: [] ∧ (getRegion s 0).ptForce = ⟨0, 1, true, false⟩ :: [] ∧ Requester.bar0 ≠ .sideband ∧
       whoReaches s .bar0 (some 0) = true ∧
       ∀ n ∈ [4095, 4096], (getRegion (updRegion s 0 fun x => { x with ptPend := List.replicate n ⟨0, 1, true, false⟩, ptForce := [] }) 0).ptPend.length = n) ∧
    (ptEffect State.reset 0 ⟨0, 500000, true, false⟩).isSome = true ∧
    ptEffect { State.reset with regions := [(0, { regionReset with frameSt := [(500000, some 4)] })] } 0 ⟨0, 500000, true, false⟩ = none ∧
    (pteOf (getRegion { State.reset with regions := [(0, { regionReset with pt := [(0, ⟨0, true, false, [⟨0, 100, 7, 0, false⟩]⟩)] })] } 0) 0).helds ≠ [] ∧
    fget State.reset fPART_BOOT_STATUS_PHASE 0 0 ≠ 4 ∧ fget (fput State.reset fPART_BOOT_STATUS_PHASE 0 0 4) fPART_BOOT_STATUS_PHASE 0 0 = 4 ∧
    regionAlive { State.reset with regions := [(0, { regionReset with deadbolted := true })] } 0 = false := by
  decide +kernel

/-- LapMarkEndsTheLap, CommitPointDecides, PlanPointAndFirstIssue, VotesAndHoldover, LapCommandsComplete: every phase of the lap, and the
pacing of a plan point. -/
theorem witness_lap :
    (∀ p ∈ [LapPhase.off, .marked, .committed, .issuing], (inLap p []).lap.phase = p) ∧
    fget State.reset fPART_TRK_CFG_BENCH 0 0 = 0 ∧
    (let s := { inLap .issuing [] with part := { State.reset.part with manager := some 0 } }
     planDue s = true ∧ s.lap.planned = false ∧ s.part.manager ≠ none) ∧ planDue (inLap .marked []) = false ∧ (inLap .committed []).part.manager = none ∧
    (inLap .committed []).part.thermTrip = false ∧ benchOn (inLap .marked []) = false := by decide +kernel

/-- LapMarkEndsTheLap, CommitPointDecides and PlanPointAndFirstIssue, bench: a bench re-run whose log gives the deciding task each outcome that it
forces. PlanPointAndFirstIssue: an admission at the peak limit. -/
theorem witness_bench :
    (∀ p ∈ [LapPhase.marked, .committed, .issuing], benchOn (fput (inLap p []) fPART_TRK_CFG_BENCH 0 0 1) = true) ∧
    (∀ o ∈ [1, 2, 5, 6, 7, 8], let w := 2 ^ 192 + 7 * 2 ^ 512 + o * 2 ^ 576
      let k := { task0 with graph := 7 }
      let m := inLap .marked []
      let s := fput { m with lap := { m.lap with deciding := [k] }, trk := { m.trk with benchLog := [(lapN m, w)] } } fPART_TRK_CFG_BENCH 0 0 1
      k ∈ s.lap.deciding ∧ tabGet 0 s.trk.benchLog (lapN s) = w ∧ nbits w 192 16 = 1 ∧ nbits w 512 32 = k.graph ∧ nbits w 544 16 = k.desc.index ∧
        nbits w 576 8 = o) ∧
    (madeAt (fput State.reset fPART_PACER_CFG_PEAK_ENABLE 0 0 1) 0 100 (10 ^ 9) []).1.peak = true := by decide +kernel

/-- A control record of a lap, from part src to this part, with its CHECK (R66, R67, R84). -/
def record (lap src rest : Nat) : BitVec 256 := BitVec.ofNat 256 (crcSeal 32 (lap + src * 2 ^ 48 + rest * 2 ^ 82))

/-- VotesAndHoldover: a word that is owed, votes in at the mark, a sound word of the deciding lap, and both sides of the 16th lap of holdover. -/
theorem witness_votes :
    (∀ p ∈ [LapPhase.marked, .committed],
      let s := { inLap p [] with lap := { (inLap p []).lap with owed := [5] } }
      inService s = true ∧ hasNat s.lap.owed 5 = true ∧ (s.lap.phase ≠ .marked ∨ votesIn s 5 = true) ∧
        recordOk (trkControl s 1 (record 99 5 1)) (record 99 5 1) = true ∧ (voteOfWord (record 99 5 1).toNat).lap = lapN s ∧
        (trkControl s 1 (record 99 5 1)).lap.votes.any (fun x => x.src == 5) = false) ∧
    hasNat (inLap .marked []).lap.owed 5 = false ∧ ∀ n ∈ [16, 17], (updLap (inLap .marked []) fun l => { l with holdover := n }).lap.holdover = n := by decide +kernel

/-! ### The host, registers, the link -/

/-- Submission ring 0 enabled, with entry e at its head and the image given at host address 4,096. -/
def withEntry (e : Nat) (img : Bytes) : State :=
  { fput State.reset fHOST_RING_CFG_ENABLE 0 0 1 with host := { State.reset.host with
    mem := memWrite (memWrite [] 0 (natLe 64 e)) 4096 img, subQ := [0] } }

/-- An entry of KIND k (R490): an image of n bytes at address 4,096, for graph id. -/
def entryOf (k n id : Nat) : Nat := k + 4096 * 2 ^ 64 + n * 2 ^ 128 + id * 2 ^ 160

/-- An image with the header and the records given, under its CHECK. -/
def imageOf (h : Nat) (recs : Bytes) : Bytes := natLe 60 h ++ natLe 4 (crc32c (natLe 60 h ++ recs)) ++ recs

/-- TableCommands: each kind at the head, with lengths 63 and 64, an image out of the host's reach, and images that load. -/
theorem witness_tables :
    (∀ k ∈ [1, 2, 3], ∀ n ∈ [63, 64],
      let e := entryOf k n 0
      headEntry (withEntry e []) 0 k = some e ∧ headEntry State.reset 0 k = none ∧ entryReserved e (k == 2) = false ∧ nbits e 128 32 = n ∧
        hostOk (withEntry e []) (nbits e 64 64) n = true ∧ entryReserved (e + 2 ^ 4) (k == 2) = true) ∧
    hostOk { State.reset with host := { State.reset.host with unpinned := [(4096, 1)] } } 4096 64 = false ∧
    (match loadGuards 0 State.reset (entryOf 2 80 7) (imageOf (7 + 1 * 2 ^ 32) (natLe 16 (1 + 2 * 2 ^ 38))) with | .inl _ => true | _ => false) = true ∧
    (match loadHurdles State.reset 0 (imageOf (255 + 1 * 2 ^ 8) (natLe 16 (2 * 2 ^ 96))) with | .inl _ => true | _ => false) = true ∧
    (∀ p ∈ [LapPhase.off, .issuing], (match loadOwner (inLap p []) 0 (imageOf (1 + 16 * 2 ^ 8 + 1 * 2 ^ 16 + 101 * 2 ^ 64) (natLe 8 0)) with
      | .inl _ => true | _ => false) = true) ∧
    (match loadOwner State.reset 0 [] with | .inr _ => true | _ => false) = true := by decide +kernel

/-- An open graph without tasks. -/
def graph0 : Graph := ⟨7, 0, false, 0, 1, 0, 0, [], [], [], 0, 0, false, false, false, [], [], [], 0⟩

/-- Completion ring 0 and event ring 1 enabled, and the graph open. -/
def withGraph (g : Graph) : State := { fput (fput (fput State.reset fHOST_RING_CFG_ENABLE 0 1024 1) fHOST_RING_CFG_ENABLE 0 1025 1)
  fHOST_RING_CFG_TYPE 0 1025 1 with graphs := [g] }

/-- StepRunsFront, an empty queue: a part that boots in RAILS, and one past it. -/
theorem witness_idle : booting (inPhase 0) = true ∧ bootPhase (inPhase 0) = 0 ∧ (inPhase 0).pending = [] ∧ booting State.reset = false := by decide +kernel

/-- GraphEntries: GRAPH and STOP_GRAPH at the head, a graph that waits for resolution, failing and not, a graph resolved, and a ring nudged. -/
theorem witness_graphs :
    (let e := entryOf 0 64 0
     headEntry (withEntry e []) 0 0 = some e ∧ graphsFull (withEntry e []) = false ∧ hostOk (consumeEntry (withEntry e []) 0) (nbits e 64 64) 64 = true ∧
       (consumeEntry (withEntry e []) 0).graphs = [] ∧ nbits (leNat (hostRead (withEntry e (natLe 64 7)) 4096 64)) 0 32 = 7 ∧
       hostOk (withEntry e []) 0 0 = true) ∧
    (∀ res ∈ [false, true], let s := withGraph { graph0 with resolved := res }
      s.graphs.find? (fun x => x.id == 7) = some { graph0 with resolved := res } ∧ s.host.sameId.filter (fun x => x.id == 7) = [] ∧
        ({ s.host with sameId := [graph0] } : HostSt).sameId.filter (fun x => x.id == 7) = [graph0]) ∧
    (let s := withGraph graph0
     getGraph s 7 = some graph0 ∧ getGraph s 8 = none ∧ graph0.resolved = false ∧ resolveCode s graph0 = 0 ∧ guardFail graph0 = none) ∧
    (let g := { graph0 with readFail := 1 }
     resolveCode (withGraph g) g ≠ 0) ∧
    guardFail { graph0 with guards := [⟨1, 0, 0, 0, 2, 0⟩] } = some 0x07 ∧
    (let e := entryOf 4 0 7
     headEntry (withEntry e []) 0 4 = some e ∧ entryReserved e true = false ∧ nbits e 128 32 = 0 ∧ mayStop (consumeEntry (withEntry e []) 0) 7 = false ∧
       mayStop { State.reset with graphs := [{ graph0 with resolved := true }] } 7 = true) ∧
    ringOn State.reset 0 = false ∧ ringOn (withEntry 0 []) 0 = true ∧ hostOk (withEntry 0 []) (dbBase (withEntry 0 []) + 8 * 0) 8 = true ∧
    State.reset.host.nudges = [] ∧ nudging State.reset = false ∧ nudging (withEntry 0 []) = false ∧
    nudging (updHost (withEntry 0 []) fun x => { x with nudgeRing := some 0 }) = true ∧
    (∀ n ∈ [15, 16], (updHost State.reset fun x => { x with nudges := List.replicate n 0 }).host.nudges.length = n) := by
  decide +kernel

/-- RegisterAccess: a register, a reserved offset, an absent unit, one cut; a phase at READY and before; a field of each kind; IND_DATA of a target
and of none; the control core of the manager, of the register's region, and of another. -/
theorem witness_registers :
    (∃ fs, regPlace 0x10_0D00 = some (.part, 0, 0xD00) ∧ fieldsAt .part 0xD00 = some fs ∧ spaceHere State.reset .part 0 = true ∧
      spaceCut State.reset .part 0 = false ∧ 0x10_0D00 % 4 = 0 ∧ 0x10_0D01 % 4 ≠ 0) ∧
    regPlace 0x20_0008 = some (.rgn, 0, 8) ∧ regPlace 0x28_0000 = none ∧ spaceHere { State.reset with fuses := { State.reset.fuses with grade := .iz4a } } .rgn 4 = false ∧
    spaceCut { State.reset with regions := [(0, { regionReset with deadbolted := true })] } .rgn 0 = true ∧
    fget State.reset fPART_BOOT_STATUS_PHASE 0 0 ≠ 4 ∧ fget (fput State.reset fPART_BOOT_STATUS_PHASE 0 0 4) fPART_BOOT_STATUS_PHASE 0 0 = 4 ∧
    fPART_BOOT_STATUS_PHASE.access = .ro ∧
    (let f := fHOST_RING_CFG_SIZE_LOG2
     f.access = .rw ∧ portHere f 0 0 = true ∧ actField f = false ∧ f ≠ fHOST_RING_CFG_TYPE) ∧
    (regionPresent State.reset 7 = true ∧ regionPresent State.reset 8 = false ∧ regionAlive State.reset 7 = true) ∧
    endpointUp State.reset = true ∧ endpointUp { State.reset with regions := [(0, { regionReset with deadbolted := true })] } = false ∧ 0xF_FFFC < 0x10_0000 ∧
    (∀ k ∈ [0, 1, 2], whoReaches (managed State.reset) (.control k) (some 2) = (k == 0 || k == 2)) ∧
    (targetWords State.reset .bar0 0 0x10).isSome = true ∧ targetWords State.reset .bar0 0 0xFF = none ∧
    (∀ t ∈ [0, 1], fget (fput State.reset fPART_BOOT_STATUS_DEBUG_LEVEL 0 0 (2 * t)) fPART_BOOT_STATUS_DEBUG_LEVEL 0 0 = 2 * t) := by
  exact ⟨⟨_, by decide +kernel, rfl, by decide +kernel, by decide +kernel, by decide, by decide⟩, by decide +kernel⟩

/-- Port 0 UP with markers, and the route to member 1 by it; owner table 0 gives block 0 to page 0 of region 0 (R300, R462). -/
def withLink (p : LapPhase) (lapLocal : Bool) : State :=
  { fput (fput (fput (inLap p []) fDZL_PORT_STATUS_STATE 0 0 2) fDZL_PORT_CFG_MARKER_OK 0 0 1) fRGN_DZL_ROUTE_ENTRY 0 1 (2 ^ 20) with
    regions := [(0, { regionReset with pt := [(0, ⟨0, true, lapLocal, []⟩)], frameSt := [] })], owners := [(0, ⟨16, 1, [(0, 2 ^ 41)]⟩)] }

/-- A segment of 64 bytes from part 1, of lap 100. -/
def seg1 : Segment := { seg0 with src := 1, lap := 100, length := 64, readLen := 64, data := List.replicate 64 1 }

/-- LinkTraffic, OWNER segments: for this part and for another, in lap service and out of it, a block that resolves, in and out of the relay area,
its lap open and not; a reply that is awaited, and one that is not. -/
theorem witness_owner_segments :
    (∀ p ∈ [LapPhase.off, .issuing], let s := withLink p false
      seg1.dst = selfId s ∧ ({ seg1 with dst := 1 } : Segment).dst ≠ selfId s ∧ inService s = decide (p = .issuing) ∧
        (∀ write ∈ [false, true], (ownerPlace s seg1 write 64).map (·.region) = some 0 ∧ ownerPlace s { seg1 with tableId := 1 } write 64 = none) ∧
        lapOpen s (heldLap s seg1) = true ∧ lapOpen s (heldLap s { seg1 with lap := 98 }) = false ∧ inRelayArea s 0 = false ∧
        inRelayArea (fput (fput s fPART_RELAY_SRC_ENABLE 0 0 1) fPART_RELAY_PAGES_PAGES 0 0 1) 0 = true ∧ restoreReply s seg1 = false ∧
        s.link.segs.find? (awaitsReply s seg1) = none ∧ seg1.held = false ∧ ({ seg1 with lap := 99 } : Segment).lap ≠ s.lap.num ∧
        (rangeFrom (65535 / 65536) ((65535 % 65536 + 64 + 65535) / 65536)).length = 2 ∧ benchOn s = false ∧ routePorts s 0 1 = [0] ∧ routePorts s 0 2 = [] ∧
        (sendSegment s 0 4 2 0 { seg1 with dst := 1 } none none).isSome = true ∧
        (∀ h ∈ ([[], [(0, 3)]] : List (Tab Nat)), (readHbmEcc (updRegion s 0 fun x => { x with harm := h }) 0 noSlot [] 2 0 0 64).2 = !h.isEmpty)) ∧
    (let w := dmaDesc 0 64 + 2 ^ 10
     let s := setChan { withDma w 1 with link := { State.reset.link with segs := [⟨0, 1, .blk 0, 0, 0⟩] } } (.blk 0) 0 { dmaReset with desc := some w }
     let g := { seg1 with offset := nbits (dSrc w) 0 48, replyAddr := dDst w }
     s.link.segs.find? (awaitsReply s g) = some ⟨0, 1, .blk 0, 0, 0⟩ ∧
       (match writePlace s (chOwner s (.blk 0) 0) (chSlot s (.blk 0) 0) g.data (chPlace s (.blk 0) 0 g.replyAddr) with | .ok _ => true | _ => false) = true) := by
  decide +kernel

/-- A task that receives an exchange from part 1 in page 0, and a segment under the ID that firmware gives it. -/
def rxBuf : BufDecl := ⟨0, 65536, 3, 1, true, 1, 0⟩
def rxTask : LapTask := { task0 with bufs := [rxBuf] }
def rxState : State := { withLink .issuing true with lap := (inLap .issuing [rxTask]).lap }
def rxSeg : Segment := { seg1 with xid := Config.exchangeId 0 0 1 0 % 65536, sig := true }

/-- LinkTraffic, exchanges: a running task whose buffer takes the payload, and one past its end; a segment of another part. -/
theorem witness_exchange : exchangeBuf rxState rxSeg (fun _ => true) = some (rxTask, rxBuf) ∧
    exchangeBuf rxState rxSeg (fun k => if rxSeg.urgent then takesResend rxState rxSeg k else rxSeg.lap == rxState.lap.num) = some (rxTask, rxBuf) ∧
    exchangeBuf rxState { rxSeg with src := 2 } (fun _ => true) = none ∧
    exchangePlace rxState rxSeg rxBuf = some (0, 0, 0) ∧ exchangePlace rxState { rxSeg with offset := 65536 } rxBuf = none := by
  have h : selfId rxState = 0 := by decide +kernel
  have hr : receives rxState rxTask 1 rxSeg.xid rxBuf = true := by
    unfold receives; rw [h]; simp [rxTask, rxBuf, rxSeg, task0, desc0]
  refine ⟨?_, ?_, rfl, by decide +kernel, by decide +kernel⟩ <;> have hl : (rxSeg.lap == rxState.lap.num) = true := rfl
  all_goals have hc : rxState.lap.cur = [rxTask] := rfl
  all_goals have hb : rxTask.bufs = [rxBuf] := rfl
  all_goals have hs : rxSeg.src = 1 := rfl
  all_goals have hu : rxSeg.urgent = false := rfl
  all_goals simp [exchangeBuf, hc, hb, hs, hr, hl, hu]

/-- The rest of their conditions, and ledger records: COLLECT and ENABLE at 0 and 1, and 1,024 bytes. -/
theorem witness_signals : (∀ n ∈ [1, 2], let name := 2 ^ 20 + n * 2 ^ 18 + 2 ^ 24
      nmRemote name = true ∧ nmBad name = false ∧ nmScope name = n ∧ (if (tumRefOf 0 name).region then regionPresent State.reset (tumRefOf 0 name).unit
        else regionPresent State.reset ((tumRefOf 0 name).unit / 8)) = true ∧ (tumSignal State.reset (tumRefOf 0 name) 1 0 3 0).2 = false) ∧
    (tumSignal (withTum 65535 0) (tumRefOf 0 (2 ^ 20 + 2 ^ 18 + 2 ^ 24)) 1 0 3 0).2 = true ∧ domainOf 1 = domainOf (selfId State.reset) ∧
    domainOf 32768 ≠ domainOf (selfId State.reset) ∧ (List.replicate 1024 (0 : Byte)).length = 1024 ∧
    (∀ v ∈ [0, 1], fget (fput State.reset fPART_LEDGER_COLLECTOR_COLLECT 0 0 v) fPART_LEDGER_COLLECTOR_COLLECT 0 0 = v ∧
      fget (fput State.reset fPART_LEDGER_CFG_ENABLE 0 0 v) fPART_LEDGER_CFG_ENABLE 0 0 = v) := by decide +kernel

/-- LinkTraffic, records: sound and not, of the laps around the running one; PROBE intervals at 63 and 64 laps with 2 and 3 unanswered. -/
theorem witness_records :
    recordOk State.reset (record 100 1 7) = true ∧ recordOk State.reset 0 = false ∧ recordOk State.reset (record 100 1 7 + 1) = false ∧
    (∀ lap ∈ [99, 100, 101], nbits (record lap 1 7).toNat 0 48 = lap) ∧ (inLap .issuing []).lap.num = 100 ∧
    (let s := { inLap .issuing [] with link := { State.reset.link with segs := [⟨3, 0, .blk 0, 0, 0⟩] } }
     s.link.segs.find? (fun x => x.seg == 3 && x.dst == 0) = some ⟨3, 0, .blk 0, 0, 0⟩ ∧ s.link.segs.find? (fun x => x.seg == 4 && x.dst == 0) = none) ∧
    ((3, 0, 1) : Nat × Nat × Nat) ∈ ({ State.reset.snap with pushed := [(3, 0, 1)] } : SnapSt).pushed ∧ (3, 0, 1) ∉ State.reset.snap.pushed ∧
    (calledFor (inLap .issuing []) 1 7) = [] ∧ (calledFor { inLap .issuing [] with regions := [(0, { regionReset with
      resend := [⟨99, 1, 5, 0, [], 7, 0, none⟩] })] } 1 7).length = 1 ∧ keyTasks (inLap .issuing []) 7 = [] ∧
    keyTasks { inLap .issuing [] with graphs := [⟨7, 0, false, 0, 1, 0, 0, [{ desc0 with rvKey := 7 }], [], [], 0, 0, true, false, false, [], [], [], 0⟩] } 7 ≠ [] ∧
    ([(3, 0, 1)] : List (Nat × Nat × Nat)).find? (fun x => x.1 == 3 && x.2.1 == 0) = some (3, 0, 1) ∧
    (∀ st ∈ [2, 3], snapState (fput State.reset fPART_SNAP_STATUS_STATE 0 0 st) = st) ∧ snapPartner State.reset = selfId State.reset ∧
    (inLap .issuing []).link.probeLap + 64 ≤ (inLap .issuing []).lap.num ∧ partners State.reset = [] := by decide +kernel

/-- HostWindow: RING_ENABLE at READY with the last ring, disabled and enabled, its index word in reach and not; owner records at 4,095 and
4,096 waiting. -/
theorem witness_host_window :
    (let s := fput State.reset fPART_BOOT_STATUS_PHASE 0 0 4
     1023 < 1024 ∧ fget s fPART_BOOT_STATUS_PHASE 0 0 = 4 ∧ ringOn s (ringSel true 1023) = false ∧
       ringOn (fput s fHOST_RING_CFG_ENABLE 0 (ringSel true 1023) 1) (ringSel true 1023) = true ∧ hostOk s (idxBase s + 8 * ringSel true 1023) 8 = true ∧
       hostOk { s with host := { s.host with unpinned := [(0, 65536)] } } (idxBase s + 8 * ringSel true 1023) 8 = false ∧
       (16 : Word).getLsbD 4 = true ∧ (0 : Word).getLsbD 4 = false) ∧
    (∀ n ∈ [4095, 4096], (({ State.reset with ownPend := List.replicate n ⟨101, 0, none, 0, 0⟩ } : State).ownPend.filter fun p => p.image.isNone).length = n) ∧
    (let s := withLink .issuing false
     resolveLap s.lap.num 101 = 101 ∧ resolveLap s.lap.num 100 ≤ s.lap.num ∧ (getOwner s 0).count = 1 ∧ ownEntryBad s (getOwner s 0).log2 0 = false ∧
       ownEntryBad s (getOwner s 0).log2 (3 * 2 ^ 41) = true ∧ nbits 0 0 17 = selfId s ∧ regionPresent s 0 = true) := by decide +kernel

/-- HostWindow, BAR2: a range that is committed and one that is not, with 0 and with room for one host frame, in each phase; a write that waits. -/
theorem witness_bar2 :
    (∀ i ∈ [3, 4], 4 * i % 4 = 0 ∧ 4 * i < 0x8000 ∧ (4 * i / 4 % 4 = 3 ↔ i = 3)) ∧ hasNat ({ State.reset.host with pba := [0] } : HostSt).pba (3 / 4) = true ∧
    (let s := updRegion (withLink .off false) 0 fun x => { x with harm := [(0, 3)] }
     bar2Place s 0 64 = some (0, 0, 0) ∧ (readHbmEcc s 0 noSlot [] 2 0 0 64).2 = true) ∧
    (∀ p ∈ [LapPhase.off, .marked, .committed, .issuing], let s := withLink p false
      bar2Place s 0 64 = some (0, 0, 0) ∧ bar2Place s 65536 64 = none ∧ s.host.heldWrites = [] ∧ s.lap.phase = p ∧
        hostOver (fput s fHOST_BAR2_CFG_HOST_FRAMES 0 0 0) 0 0 = true ∧ hostOver (fput s fHOST_BAR2_CFG_HOST_FRAMES 0 0 1) 0 0 = false) ∧
    bar2Take (fput (withLink .issuing false) fHOST_BAR2_CFG_HOST_FRAMES 0 0 0) 0 [1] = none ∧ (bar2Take (withLink .off false) 0 [1]).isSome = true := by
  decide +kernel

/-- FLR and ATS invalidation: fields of the HOST_ registers and of others. -/
theorem witness_flr : fHOST_RING_CFG_TYPE.space = .host ∧ fHOST_RING_CFG_TYPE.off < 65536 ∧ fHOST_RING_CFG_TYPE.lo < 32 ∧
    fPART_BOOT_STATUS_PHASE.space ≠ .host ∧ (0 + 4096 ≤ 4096 ∨ 8192 ≤ 0) := by decide

/-- PortsAndFlits: each state of a present port, good lanes at and below the least width, 15, 16, 255 and 256 echoes, a flit in and out of reach at
62 and 63 hops, and ACKs that the replay buffer has and has not. -/
theorem witness_ports :
    (∀ st ∈ [0, 1, 2, 3], let s := pput State.reset fDZL_PORT_STATUS_STATE 31 st
      portPresent s 31 = true ∧ portState s 31 = st ∧ portCut s 31 = false ∧ portUp s 31 = decide (st = 2)) ∧
    fget (inPhase 3) fPART_BOOT_STATUS_PHASE 0 0 = 3 ∧ fget State.reset fPART_BOOT_STATUS_PHASE 0 0 ≠ 3 ∧
    portCut { State.reset with part := { State.reset.part with lanesDead := [255] } } 31 = true ∧
    pget (pput State.reset fDZL_PORT_CFG_ENABLE 31 1) fDZL_PORT_CFG_ENABLE 31 = 1 ∧ pget (pput State.reset fDZL_PORT_CFG_ENABLE 31 0) fDZL_PORT_CFG_ENABLE 31 = 0 ∧
    (goodLanes State.reset 31 7).length = 3 ∧ (goodLanes State.reset 31 15).length = 4 ∧
    (∀ w ∈ [4, 5], pget (pput State.reset fDZL_PORT_CFG_MIN_WIDTH 31 w) fDZL_PORT_CFG_MIN_WIDTH 31 = w) ∧
    (∀ n ∈ [15, 16, 255, 256], (getPort (updPort State.reset 31 fun x => { x with echoes := List.replicate n 0 }) 31).echoes.length = n) ∧
    (getPort (updPort State.reset 0 fun x => { x with replay := [(5, flit0), (6, flit0)] }) 0).replay = [(5, flit0)] ++ (6, flit0) :: [] ∧
    (∀ e ∈ ([(5, flit0)] : List (Nat × Flit)), e.1 ≠ 6) ∧
    (let s := withLink .issuing false
     regionAlive s 0 = true ∧ ({ flit0 with dst := 1 } : Flit).dst ≠ selfId s ∧ flit0.dst = selfId s ∧ forwardPort s 0 { flit0 with dst := 1, hops := 62 } = some 0 ∧
       forwardPort s 0 { flit0 with dst := 2 } = none ∧ (62 < 63 ∧ 63 ≤ 63)) := by decide +kernel

/-- MarkersAndGrandmasters: a part that waits for service, with a candidate and without; one in service, within a microsecond and beyond;
depths 19 and 20; a grandmaster that hears a lower pair and a higher one; backups and edges. -/
theorem witness_markers :
    (∀ p ∈ [LapPhase.off, .issuing], let s := fput (withLink p false) fPART_BOOT_CTRL_SERVICE 0 0 1
      portUp s 0 = true ∧ pget s fDZL_PORT_CFG_MARKER_OK 0 ≠ 0 ∧ fget s fPART_BOOT_CTRL_SERVICE 0 0 = 1 ∧ periodUs s = 100 ∧ isMaster s = false ∧
        domainOf marker0.gmId = domainOf (selfId s) ∧ domainOf 32768 ≠ domainOf (selfId s) ∧ s.link.cand = none ∧ inService s = decide (p ≠ .off) ∧
        s.lap.num = 100 ∧ fget s fPART_LAP_STATUS_PERIOD_MISMATCH 0 0 ≠ 1 ∧ fget s fPART_LAP_BACKUP_DEPTH_EXCEEDED 0 0 ≠ 1 ∧
        isMaster (fput s fPART_LAP_CFG_GRANDMASTER 0 0 1) = true) ∧
    (let s := withLink .issuing false
     let deep := { s.link with deep := true }
     s.link.activeGm = false ∧ s.link.marks = [] ∧ deep.deep = true ∧ ({ s.link with activeGm := true } : LinkSt).activeGm = true ∧
       ({ s.link with marks := [⟨0, marker0.gmRank, marker0.gmId, 0, 0, 0⟩] } : LinkSt).marks.length = 1) ∧
    (1000000 : Int).natAbs ≤ 1000000 ∧ 1000000 < (1000001 : Int).natAbs ∧ (19 < 20 ∧ 20 ≤ 20) ∧ (10000 : Int).natAbs ≤ 10000 ∧ (10000 : Int) < 10001 ∧
    (let s := fput { inLap .issuing [] with lap := { (inLap .issuing []).lap with holdover := 3 } } fPART_LAP_BACKUP_RANK 0 0 1
     inService s = true ∧ s.link.activeGm = false ∧ ({ s.pins with lapRef := true } : Pins).lapRef = true ∧ fget s fPART_LAP_BACKUP_RANK 0 0 ≠ 0 ∧ 2 + fget s fPART_LAP_BACKUP_RANK 0 0 ≤ s.lap.holdover ∧ s.link.marks = []) := by
  decide +kernel

/-! ### Faults, snapshots, boot, the sideband port -/

/-- FaultsAndPins, polls: each kind of unit watched, a first miss and a second; a core that is not running; a core under quarantine. -/
theorem witness_polls :
    (∀ u ∈ ([.core 0, .block 63, .region 7, .engine 15, .controlCore 31] : List PolledUnit), let s := withField 1 0 coreReset
      watched s u = true ∧ (beats u = true ↔ u = .region 7 ∨ u = .controlCore 31) ∧ tabGet 0 s.part.missedPolls (pollKey u) = 0 ∧
        tabGet 0 s.part.missedBeats (pollKey u) = 0 ∧ inService (inLap .issuing []) = true) ∧
    watched State.reset (.core 0) = false ∧ failedChecks State.reset 63 = [] ∧
    failedChecks { State.reset with blocks := [(63, { blockReset with harm := [(harmKey 5 0 0, 2)] })] } 63 = [3] ∧
    (let s := withCore { coreReset with quarantined := true }
     (getCore s 0).quarantined = true ∧ isCut s 0 0 = false ∧ corePresent s 0 = true ∧ isCut s 2 7 = false) := by decide +kernel

/-- FaultsAndPins, deadbolts and resets: the last unit of each kind, one past it, one cut; a region with RESET set; a cut to complete; a record. -/
theorem witness_deadbolts :
    (∀ k ∈ [(0, 511), (1, 63), (2, 7), (3, 15), (4, 31), (5, 255)], unitPresent State.reset k.1 k.2 = true ∧ isCut State.reset k.1 k.2 = false ∧
      regionAlive State.reset (kindRegion k.1 k.2) = true ∧ unitPresent State.reset k.1 (k.2 + 1) = false) ∧
    isCut (withCore { coreReset with deadbolted := true }) 0 0 = true ∧
    (15 : Word).getLsbD 3 = true ∧ regionPresent State.reset ((15 : Word).toNat % 8) = true ∧ (getRegion State.reset 7).resetting = false ∧
    (getRegion { State.reset with regions := [(7, { regionReset with resetting := true })] } 7).resetting = true ∧
    (queueOf State.reset .part).recs = [] ∧ (queueOf { State.reset with part := { State.reset.part with errq := { errqReset with recs := [1] } } } .part).recs = 1 :: [] := by
  decide +kernel

/-- FaultsAndPins, bridges and sensors: each STATE of the last bridge; what the ends still reach; 114 and 115 degrees. -/
theorem witness_bridges :
    (∀ st ∈ [0, 1, 2, 3], bridgeState (fput State.reset fPART_BRIDGE_STATUS_STATE 0 11 st) 11 = st) ∧ 11 < 12 ∧ fget State.reset fPART_BRIDGE_IDX_BRIDGE 0 0 = 0 ∧
    bridgeEnds 11 = (6, 7) ∧ bridgeEnds 10 = (6, 7) ∧ bridgeState State.reset 10 = 0 ∧ regionAlive State.reset 6 = true ∧ regionAlive State.reset 7 = true ∧
    regionPresent State.reset 7 = true ∧ ((114 : Int) < 115 ∧ (115 : Int) ≤ 115) := by decide +kernel

/-- A manifest of one block of owner table 0 in host memory (R525). -/
def withManifest (p : LapPhase) : State :=
  let es := natLe 16 (2 ^ 28)
  { withLink p false with host := { State.reset.host with mem := memWrite [] 0 (natLe 60 1 ++ natLe 4 (crc32c (natLe 60 1 ++ es)) ++ es) } }

/-- SnapshotsAndRecorder, requests: laps before and after the present one, a manifest that reads and one that does not, owned and not, a
partner of its own. -/
theorem witness_snapshot :
    (let s := fput (withManifest .issuing) fPART_SNAP_PARTNER_PARTNER 0 0 1
     snapState s = 0 ∧ snapPartner s ≠ selfId s ∧ readManifest s = some (leNat (hostRead s 0 64), [2 ^ 28]) ∧ manifestOwned s [2 ^ 28] = true ∧ manifestOwned s [2 ^ 28 + 1] = false ∧
       resolveLap s.lap.num 100 ≤ s.lap.num ∧ s.lap.num < resolveLap s.lap.num 101 ∧ tabGet 0 s.snap.slotSeq 1 = 0 ∧ ({ s.snap with slotSeq := [(1, 5)] } : SnapSt).slotSeq ≠ [] ∧ (fetchManifest s).snap = s.snap ∧
       manifestOwned (ownersIn s 101) [2 ^ 28] = true ∧ s.graphs = [] ∧ s.snap.hosted = none ∧
       (sendSegment s 0 3 1 0 (blankSeg s 1) none none).isSome = true ∧ (resolveOwner s 0 0).isSome = true ∧ resolveOwner s 1 0 = none) ∧
    (∀ b ∈ [16, 17, 0], (BitVec.ofNat 32 (2 ^ b)).getLsbD b = true) ∧ readManifest State.reset = none ∧ snapPartner State.reset = selfId State.reset ∧
    (∀ n ∈ [0, 1, 65536, 65537], n % 2 ^ 17 = n) ∧ hostOk State.reset 0 (48 * 65536) = true := by decide +kernel

/-- SnapshotsAndRecorder, PUSH: a sealed slot of one block, which the slot's pages give and which has moved. -/
theorem witness_push :
    let h := 0x5A4C5331 + 2 ^ 82 + 1 * 2 ^ 224
    let pte := fun (f : Nat) => (⟨f, true, false, []⟩ : PTE)
    let s := { State.reset with
      regions := [(0, { regionReset with pt := [(0, pte 0), (1, pte 1), (2, pte 2)], hbm := memWrite (memWrite [] 0 (natLe 32 h)) 512 (natLe 16 (1 + 2 ^ 28)) })]
      owners := [(0, ⟨16, 2, [(0, 2 ^ 41), (1, 2 ^ 41 + 2 ^ 20)]⟩), (1, ⟨16, 1, [(0, 2 * 2 ^ 41 + 2 * 2 ^ 20)]⟩)], snap := { State.reset.snap with hosted := some 0 } }
    slotHeader s 0 = some h ∧ slotState s 0 = 2 ∧ nbits h 224 16 = 1 ∧ (resolveOwner s 0 (slotOffset s 0 0 0)).isSome = true ∧
      (resolveOwner s 0 (slotOffset s 0 0 1)).isSome = true ∧
      manifestBlocks s [leNat (((readCommitted s 0 0 0 65536).drop 512).take 16)] = [(1, 0, 2 * 2 ^ 41 + 2 * 2 ^ 20, 1)] ∧
      nbits (leNat (((readCommitted s 0 0 0 65536).drop 512).take 16)) 48 4 ≠ 4 ∧ (checkPages s (hostedPages s 0 0 1)).2 = false ∧
      (checkPages (updRegion s 0 fun x => { x with harm := [(2048, 3)] }) (hostedPages s 0 0 1)).2 = true ∧
      (pushPage s 0 [] (2 * 2 ^ 41 + 2 * 2 ^ 20) 0 0 1 16).2 = true ∧ (pushPage s 0 [] 0 0 0 1 16).2 = false ∧ drainReaches s 0 = true ∧
      (checkPages s (hostedPages s 0 0 1)).2 = false := by decide +kernel

/-- SnapshotsAndRecorder, the rest: a drain, each state of the recorder, an image that the host buffer takes and one that it does not, a bench. -/
theorem witness_recorder :
    (∀ st ∈ [0, 1, 2, 3], trkState (setTrkState State.reset st) = st) ∧ State.reset.trk.postLeft = 0 ∧ State.reset.snap.drain = none ∧
    ({ State.reset.snap with drain := some 1 } : SnapSt).drain = some 1 ∧ drainReaches State.reset 1 = false ∧ hostOk State.reset 0 0 = true ∧
    hostOk { State.reset with host := { State.reset.host with unpinned := [(0, 64)] } } 0 64 = false ∧
    fget (fput State.reset fPART_TRK_CFG_BENCH 0 0 1) fPART_TRK_CFG_BENCH 0 0 ≠ 0 ∧ hostOk State.reset 0 64 = true ∧ logLacks State.reset [] = false := by decide +kernel

/-- ResetsAndBoot: pins before and after each edge; boot and what follows it; a flash that reads and does not; an election with and
without a region; a list entry of each kind; floors at and below the image's. -/
theorem witness_boot :
    State.reset.pins.powerGood = false ∧ (inPhase 0).pins.powerGood = true ∧ (inPhase 0).pins.perstN = true ∧
    (∀ n ∈ [0, 1], booting (inPhase n) = true) ∧ booting (inPhase 2) = false ∧ (inPhase 0).boot.fwDone = false ∧ (inPhase 0).boot.bistDone = false ∧
    (inPhase 0).boot.slotAFailed = false ∧ (inPhase 0).boot.flashOk = false ∧ fwImage (inPhase 1) false = none ∧ electable (inPhase 1) = none ∧
    electable { inPhase 1 with regions := [(7, { regionReset with builtInPassed := true })] } = some 7 ∧ State.reset.part.manager = none ∧
    (∀ n ∈ [1, 2, 15], bootPhase (inPhase n) = n) ∧ (inPhase 2).part.thermTrip = false ∧ (heldDeadbolts (inPhase 3)).part.manager = none ∧ (heldDeadbolts (managed (inPhase 3))).part.manager ≠ none ∧
    sideServed (inPhase 2) = true ∧ sideServed (inPhase 1) = false ∧
    (let w := 1 + 7 * 2 ^ 4 + 5 * 2 ^ 7
     nbits w 0 4 = 1 ∧ regionPresent State.reset (nbits w 4 3) = true) ∧
    (let w := 1 + 7 * 2 ^ 4 + (2 ^ 20 - 1) * 2 ^ 7
     nbits w 0 4 = 1 ∧ regionPresent State.reset (nbits w 4 3) = true ∧ parityFrame ≤ nbits w 7 21 % 2 ^ 20) ∧
    (let w := 2 + 511 * 2 ^ 4
     nbits w 0 4 = 2 ∧ nbits w 16 4 = 0 ∧ unitPresent State.reset 0 (nbits w 4 12) = true ∧ isCut State.reset 0 (nbits w 4 12) = false) ∧
    (State.reset.fuses.rollbackFloor < 1 ∧ 0 ≤ State.reset.fuses.rollbackFloor) ∧ nRegions State.reset = 8 ∧ hasNat [7] 7 = true ∧ hasNat [7] 6 = false := by decide +kernel

/-- SidebandCommands: a part off, before LISTS, in LISTS and after; 16 and 17 words; 7 and 8 entries; each queue of messages; a dump and
none; a key. -/
theorem witness_sideband :
    partOn State.reset = false ∧ (∀ n ∈ [1, 2, 3], partOn (inPhase n) = true ∧ bootPhase (inPhase n) = n ∧ sideServed (inPhase n) = decide (2 ≤ n)) ∧
    (1 ≤ 16 ∧ 16 ≤ 16 ∧ 16 < 17 ∧ 0x10_0000 % 4 = 0) ∧ (∀ n ∈ [7, 8], (List.replicate n (0 : BitVec 64)).length = n) ∧
    (queueOf (sideInput (inPhase 2) 2 0 (queueBytes .part)) .part).recs = [] ∧ (sideInput (inPhase 2) 5 0 (natLe 1 0)).dump.busy = false ∧
    (let t := sideInput { inPhase 2 with dump := ⟨true, [.hurdle 1, .hurdle 2], 0, [], 0⟩ } 5 0 (natLe 1 0)
     t.dump.busy = true ∧ t.dump.word = 0 ∧ t.dump.todo = .hurdle 1 :: .hurdle 2 :: []) ∧
    tokenOk (inPhase 4) [] = false ∧ (inPhase 4).fuses.ownerDigest = none ∧ inService (inPhase 4) = false ∧ fget (inPhase 4) fPART_BOOT_CTRL_SERVICE 0 0 = 0 ∧
    regionPresent (inPhase 4) 7 = true ∧ regionPresent (inPhase 4) 8 = false ∧ State.reset.side.queue = [] ∧
    (∀ n ∈ [4095, 4096], ({ State.reset.side with queue := List.replicate n ⟨0, true, 0⟩ } : SideSt).queue.length = n) ∧
    ({ State.reset.side with queue := [⟨0, true, 0⟩] } : SideSt).queue = ⟨0, true, 0⟩ :: [] := by decide +kernel

/-- Attestation: a transport that answers, at each stage. -/
theorem witness_attestation :
    (∀ n ∈ [0, 1, 2, 3], let s := setSpdm (fput (inPhase 4) fPART_SEC_CFG_DOE_ATTEST 0 0 1) .doe ⟨n, [], [], []⟩
      partOn s = true ∧ bootPhase s = 4 ∧ endpointUp s = true ∧ fget s fPART_SEC_CFG_DOE_ATTEST 0 0 = 1 ∧ (getSpdm s .doe).stage = n ∧ getSpdm s .mctp = spdmReset) ∧
    fget (fput (inPhase 4) fPART_SEC_CFG_DOE_ATTEST 0 0 0) fPART_SEC_CFG_DOE_ATTEST 0 0 ≠ 1 ∧
    endpointUp { inPhase 4 with regions := [(0, { regionReset with deadbolted := true })] } = false := by decide +kernel

end Sys2Proof.Tests
end

section
/-! What register accesses do: fields read back and survive one upset (R10, R12, R552), a write judged field by field and what it commands
(R16, R547 to R551), reads that act (R80, R585), and the indirect pair (R554 to R558). -/

namespace Sys2Proof.Machine

/-! ## Fields -/

theorem voteTri_one_upset (v x : Nat) : voteTri ⟨x, v, v⟩ = v ∧ voteTri ⟨v, x, v⟩ = v ∧ voteTri ⟨v, v, x⟩ = v := by
  by_cases h : x = v
  · simp [voteTri, h]
  · simp [voteTri, h, Ne.symm h]

/-- Settles O6: read after write, the frame of a write by key, and the majority of three copies. -/
theorem fieldsReadBack : Obligations.FieldsReadBack :=
  ⟨fget_fput_self, fun s f g u i v w j h => fget_fput_ne s f g u i w j v (Ne.symm h), voteTri_one_upset⟩

/-! ## An input record of the recorder (R538) -/

/-- An input record touches the recorder and the counter of free values, and nothing else. -/
theorem trkInput_eq (s : State) (source region addr : Nat) (data : Bytes) :
    ∃ x k, trkInput s source region addr data = { s with trk := x, freeCtr := k } := by
  unfold trkInput
  split
  · exact ⟨_, _, rfl⟩
  · exact ⟨s.trk, s.freeCtr, rfl⟩

theorem rowInput_eq (s : State) (who : Requester) (o v : Nat) : ∃ x k, rowInput s who o v = { s with trk := x, freeCtr := k } := by
  unfold rowInput
  split
  · exact trkInput_eq ..
  · exact ⟨s.trk, s.freeCtr, rfl⟩

@[simp] theorem fget_driverWrite (s : State) (o v : Nat) (f : Fld) (u i : Nat) : fget (driverWrite s o v) f u i = fget s f u i := by
  obtain ⟨x, k, h⟩ := trkInput_eq s 2 hostRegion (0x200_0000_0000 + o) (natLe 4 v)
  rw [driverWrite, h]; rfl

@[simp] theorem inService_driverWrite (s : State) (o v : Nat) : inService (driverWrite s o v) = inService s := by
  obtain ⟨x, k, h⟩ := trkInput_eq s 2 hostRegion (0x200_0000_0000 + o) (natLe 4 v)
  rw [driverWrite, h]; rfl

@[simp] theorem fget_rowInput (s : State) (who : Requester) (o v : Nat) (f : Fld) (u i : Nat) :
    fget (rowInput s who o v) f u i = fget s f u i := by
  obtain ⟨x, k, h⟩ := rowInput_eq s who o v
  rw [h]; rfl

@[simp] theorem inService_rowInput (s : State) (who : Requester) (o v : Nat) : inService (rowInput s who o v) = inService s := by
  obtain ⟨x, k, h⟩ := rowInput_eq s who o v
  rw [h]; rfl

@[simp] theorem regionPresent_rowInput (s : State) (who : Requester) (o v r : Nat) :
    regionPresent (rowInput s who o v) r = regionPresent s r := by
  obtain ⟨x, k, h⟩ := rowInput_eq s who o v
  rw [h]; rfl

@[simp] theorem regionAlive_rowInput (s : State) (who : Requester) (o v r : Nat) :
    regionAlive (rowInput s who o v) r = regionAlive s r := by
  obtain ⟨x, k, h⟩ := rowInput_eq s who o v
  rw [h]; rfl

@[simp] theorem targetWords_rowInput (s : State) (who : Requester) (o v : Nat) (asker : Requester) (r target : Nat) :
    targetWords (rowInput s who o v) asker r target = targetWords s asker r target := by
  obtain ⟨x, k, h⟩ := rowInput_eq s who o v
  rw [h]; rfl

theorem rowInput_eq_ite (s : State) (who : Requester) (o v : Nat) :
    rowInput s who o v = if who = .bar0 then driverWrite s o v else s := by
  simp [rowInput]

/-! ## One field of a written word (R10, R14, R16, R551) -/

theorem writeField_ro {s t : State} {f : Fld} {u copy v : Nat} {ok : Bool} (h : f.access = .ro) :
    writeField s u copy v (t, ok) f = (t, ok) := by
  simp [writeField, h]

/-- A plain read-write field: rejected while its unit runs or where its value is out of range, and put otherwise. -/
theorem writeField_rw {s t : State} {f : Fld} {u copy v : Nat} {ok : Bool} (hport : portHere f u (selOf t f u copy) = true)
    (h : f.access = .rw) (hact : actField f = false) (htype : f ≠ fHOST_RING_CFG_TYPE) (hperiod : f ≠ fPART_LAP_CFG_PERIOD_US)
    (hwin : f ≠ fPART_LAP_CFG_COMMIT_WIN) :
    writeField s u copy v (t, ok) f =
      if f.kind = .heldRunning ∧ unitRuns s f u (selOf t f u copy) = true ∨
          fieldOk t f (if f.sel = .cap then selOf t f u copy else u) (nbits v f.lo f.width) = false then
        (rejectField t f u (selOf t f u copy), false)
      else (putField t f u (selOf t f u copy) (nbits v f.lo f.width), ok) := by
  simp [writeField, h, hport, hact, htype, hperiod, hwin]

theorem nbits_mod (w lo n : Nat) : nbits w lo n % 2 ^ n = nbits w lo n := Nat.mod_mod ..

theorem putField_shadow {s : State} {f : Fld} {u sel v : Nat} (hk : f.kind = .lapApplied) (hs : inService s = true) :
    putField s f u sel v = { s with shadows := tabSet none s.shadows (fldKey f u sel) (some (triOf (v % 2 ^ f.width))) } := by
  simp [putField, hk, hs]

theorem putField_inForce {s : State} {f : Fld} {u sel v : Nat} (h : f.kind ≠ .lapApplied ∨ inService s = false) :
    putField s f u sel v = fput s f u sel v := by
  rcases h with h | h <;> simp [putField, h]

/-- What a written word does to one of its fields, read-only or plainly read-write. -/
theorem writeField_judges (s t : State) (f : Fld) (u copy v : Nat) (ok : Bool) :
    let sel := selOf t f u copy
    let x := nbits v f.lo f.width
    portHere f u sel = true →
    (f.access = .ro → writeField s u copy v (t, ok) f = (t, ok)) ∧
    (f.access = .rw → actField f = false → f ≠ fHOST_RING_CFG_TYPE → f ≠ fPART_LAP_CFG_PERIOD_US → f ≠ fPART_LAP_CFG_COMMIT_WIN →
      (f.kind = .heldRunning ∧ unitRuns s f u sel = true ∨ fieldOk t f (if f.sel = .cap then sel else u) x = false →
        writeField s u copy v (t, ok) f = (rejectField t f u sel, false)) ∧
      (¬ (f.kind = .heldRunning ∧ unitRuns s f u sel = true) → fieldOk t f (if f.sel = .cap then sel else u) x = true →
        (f.kind = .lapApplied → inService t = true → writeField s u copy v (t, ok) f =
          ({ t with shadows := tabSet none t.shadows (fldKey f u sel) (some ⟨x, x, x⟩) }, ok)) ∧
        (f.kind ≠ .lapApplied ∨ inService t = false → writeField s u copy v (t, ok) f = (fput t f u sel x, ok)))) := by
  intro sel x hport
  refine ⟨writeField_ro, fun h hact htype hperiod hwin => ?_⟩
  rw [writeField_rw hport h hact htype hperiod hwin]
  refine ⟨fun hbad => if_pos hbad, fun hrun hok => ?_⟩
  rw [if_neg (not_or.mpr ⟨hrun, by simpa using hok⟩)]
  refine ⟨fun hk hs => ?_, fun hk => ?_⟩
  · rw [putField_shadow hk hs, nbits_mod]; rfl
  · rw [putField_inForce hk]

/-- A masked write of FW_FLAGS (R11, R553). -/
theorem exec_fwFlagsWrite (s : State) (v : Word) : exec (.fwFlagsWrite v) s = .next (fput s fPART_FW_FLAGS_FLAGS 0 0
    (Nat.land (fget s fPART_FW_FLAGS_FLAGS 0 0) (0xFFFF - v.toNat / 65536 % 65536) + Nat.land (v.toNat % 65536) (v.toNat / 65536 % 65536))) := by
  have hlo : nbits v.toNat 0 16 = v.toNat % 65536 := by simp [nbits]
  show Host.Outcome.next (writeField s 0 0 v.toNat (s, true) fPART_FW_FLAGS_FLAGS).1 = _
  rw [← hlo]
  rfl

/-! ## A write that reaches a register (R547, R548) -/

theorem regWrite_takesNothing {s : State} {sp : Space} {u off : Nat} (who : Requester) (v : Nat)
    (h : fieldsAt sp off = none ∨ spaceHere s sp u = false ∨ spaceCut s sp u = true) : (regWrite s who sp u off v).1 = s := by
  unfold regWrite
  split
  · rfl
  · next fs hfs =>
    rcases h with h | h | h
    · simp [h] at hfs
    · simp [h]
    · by_cases hhere : spaceHere s sp u = false <;> simp [hhere, h]

theorem regWrite_fields {s : State} {sp : Space} {u off : Nat} {fs : List Fld} (who : Requester) (v : Nat) (hfs : fieldsAt sp off = some fs)
    (hhere : spaceHere s sp u = true) (hcut : spaceCut s sp u = false) :
    (regWrite s who sp u off v).1 = (regAct s (fs.foldl (writeField s u (copyOf who) v) (s, true)).1 who sp u off v).1 := by
  simp [regWrite, hfs, hhere, hcut]

theorem putAt_reserved {o : Nat} (s : State) (who : Requester) (v : Nat) (h : regPlace o = none) : (putAt s who o v).1 = s := by
  simp [putAt, h]

theorem putAt_register {o : Nat} {sp : Space} {u off : Nat} (s : State) (who : Requester) (v : Nat) (h : regPlace o = some (sp, u, off))
    (hind : ¬ (sp = .rgn ∧ off = 8)) : putAt s who o v = regWrite s who sp u off v := by
  simp only [putAt, h, hind, if_false]

/-- A write of 32 bits to offset o, made in state s, does to t what its register does: nothing where no register of a live unit lies there,
and else its fields, in order, and then what the register commands. IND_DATA is stated apart. -/
def WriteReaches (s t : State) (who : Requester) (o : Nat) (v : Word) : Prop :=
  (regPlace o = none → exec (.registerWrite who o ⟨v, 4⟩) s = .next t) ∧
  ∀ sp u off, regPlace o = some (sp, u, off) → ¬ (sp = .rgn ∧ off = 8) →
    (fieldsAt sp off = none ∨ spaceHere t sp u = false ∨ spaceCut t sp u = true → exec (.registerWrite who o ⟨v, 4⟩) s = .next t) ∧
    (∀ fs, fieldsAt sp off = some fs → spaceHere t sp u = true → spaceCut t sp u = false → exec (.registerWrite who o ⟨v, 4⟩) s =
      .next (regAct t (fs.foldl (writeField t u (copyOf who) v.toNat) (t, true)).1 who sp u off v.toNat).1)

theorem writeReaches_of_putAt {s t : State} {who : Requester} {o : Nat} {v : Word}
    (h : exec (.registerWrite who o ⟨v, 4⟩) s = .next (putAt t who o v.toNat).1) : WriteReaches s t who o v := by
  refine ⟨fun hp => ?_, fun sp u off hp hind => ⟨fun hno => ?_, fun fs hfs hhere hcut => ?_⟩⟩ <;> rw [h]
  · rw [putAt_reserved t who _ hp]
  · rw [putAt_register t who _ hp hind, regWrite_takesNothing who _ hno]
  · rw [putAt_register t who _ hp hind, regWrite_fields who _ hfs hhere hcut]

/-! ## REGISTER_WRITE by each requester (R26, R34, R547, R554, R574) -/

theorem exec_registerWrite (s : State) (who : Requester) (o : Nat) (v : Word) (size : Nat) :
    exec (.registerWrite who o ⟨v, size⟩) s = .next (registerWrite s who o v.toNat size) := rfl

theorem registerWrite_sideband_none {o : Nat} (s : State) (v size : Nat) (h : ∀ r, regPlace o ≠ some (.rgn, r, 8)) :
    registerWrite s .sideband o v size = s := by
  simp only [registerWrite]
  split
  · next r off hp =>
    have hoff : off ≠ 8 := fun h8 => h r (h8 ▸ hp)
    rw [if_neg hoff]
  · rfl

theorem regionPresent_of_alive {s : State} {r : Nat} (h : regionAlive s r = true) : regionPresent s r = true := by
  simp only [regionAlive, Bool.and_eq_true] at h
  exact h.1

/-- The sideband port's write of IND_DATA sets REFUSED in its copy, on a region that is not cut (R548, R554). -/
theorem registerWrite_sideband_indData {o r : Nat} (s : State) (v size : Nat) (h : regPlace o = some (.rgn, r, 8)) :
    registerWrite s .sideband o v size = if regionAlive s r then fput s fRGN_IND_STATUS_REFUSED r 2 1 else s := by
  simp only [registerWrite, h, if_true, indWrite]
  cases halive : regionAlive s r
  · cases regionPresent s r <;> rfl
  · simp [regionPresent_of_alive halive, indRefuses, indFlag, copyOf]

theorem registerWrite_bar0_odd {o size : Nat} (s : State) (v : Nat) (h : o % 4 ≠ 0 ∨ size ≠ 4) :
    registerWrite s .bar0 o v size = emit s .abort := by
  simp only [registerWrite, h, if_true]

theorem registerWrite_bar4_odd {o size : Nat} (s : State) (v : Nat) (h : o % 4 ≠ 0 ∨ size ≠ 4) :
    registerWrite s .bar4 o v size = emit s .abort := by
  simp only [registerWrite, h, if_true]

theorem registerWrite_control_odd {o size : Nat} (s : State) (k v : Nat) (h : o % 4 ≠ 0 ∨ size ≠ 4) :
    registerWrite s (.control k) o v size = emit (errPart s (errRecord s 0xF 3 0x25 0 8 0 o)) .busError := by
  simp only [registerWrite, h, if_true]

theorem registerWrite_control {o : Nat} (s : State) (k v : Nat) (h : o % 4 = 0) :
    registerWrite s (.control k) o v 4 = if whoReaches s (.control k) (offsetRegion o) then (putAt s (.control k) o v).1 else s := by
  simp [registerWrite, h]

theorem hostServed_iff (s : State) (o : Nat) : hostServed s o = true ↔ o < 0x10_0000 ∨ endpointUp s = true := by
  simp [hostServed, whoReaches]

theorem registerWrite_bar0_unserved {o : Nat} (s : State) (v : Nat) (h : o % 4 = 0) (hs : hostServed s o = false) :
    registerWrite s .bar0 o v 4 = s := by
  simp [registerWrite, h, hs]

/-- BAR0's aligned write is recorded, and passes at READY or to a register that R574 lets through. -/
theorem registerWrite_bar0 {o : Nat} (s : State) (v : Nat) (h : o % 4 = 0) (hs : hostServed s o = true) :
    registerWrite s .bar0 o v 4 =
      if fget s fPART_BOOT_STATUS_PHASE 0 0 = 4 ∨ beforeReady (driverWrite s o v) o = true then (putAt (driverWrite s o v) .bar0 o v).1
      else driverWrite s o v := by
  simp [registerWrite, h, hs]

theorem beforeReady_eq_false {s : State} {o : Nat} (hlow : 0x10_0000 ≤ o) (hstatus : o ≠ 0x10_0D00) : beforeReady s o = false := by
  simp [beforeReady, hlow, hstatus]

theorem bar0_write_recorded {s : State} {o : Nat} (v : Word) (h : o % 4 = 0) (hs : hostServed s o = true) :
    (fget s fPART_BOOT_STATUS_PHASE 0 0 = 4 → WriteReaches s (driverWrite s o v.toNat) .bar0 o v) ∧
    (fget s fPART_BOOT_STATUS_PHASE 0 0 ≠ 4 → 0x10_0000 ≤ o → o ≠ 0x10_0D00 →
      exec (.registerWrite .bar0 o ⟨v, 4⟩) s = .next (driverWrite s o v.toNat)) := by
  refine ⟨fun hready => writeReaches_of_putAt ?_, fun hboot hlow hstatus => ?_⟩ <;> rw [exec_registerWrite, registerWrite_bar0 s _ h hs]
  · rw [if_pos (Or.inl hready)]
  · rw [if_neg (by simp [hboot, beforeReady_eq_false hlow hstatus])]

theorem control_write_reaches {s : State} {k o : Nat} (v : Word) (h : o % 4 = 0) (hr : whoReaches s (.control k) (offsetRegion o) = true) :
    WriteReaches s s (.control k) o v :=
  writeReaches_of_putAt (by rw [exec_registerWrite, registerWrite_control s k _ h, if_pos hr])

/-! ## SERVICE (R575, R579, R585) -/

theorem serviceWrite_rejected {s : State} (v : Nat) (h : fget s fPART_BOOT_STATUS_PHASE 0 0 ≠ 4 ∨ fget s fPART_BOOT_STATUS_DEBUG_LEVEL 0 0 = 2) :
    (serviceWrite s v).1 = fput s fPART_BOOT_STATUS_WRITE_REJECTED 0 0 1 := by
  simp only [serviceWrite, h, if_true]

/-- What an accepted write of SERVICE = v ends with: at 1 it trains the enabled ports. -/
def trainIf (v : Nat) (t : State) : State := if v = 1 then enablePorts t else t

theorem serviceWrite_inService {s : State} (v : Nat) (hready : fget s fPART_BOOT_STATUS_PHASE 0 0 = 4)
    (hlevel : fget s fPART_BOOT_STATUS_DEBUG_LEVEL 0 0 ≠ 2) (hs : inService s = true) :
    (serviceWrite s v).1 = trainIf v (fput s fPART_BOOT_CTRL_SERVICE 0 0 v) := by
  simp [serviceWrite, trainIf, hready, hlevel, hs]

/-- Out of lap service an accepted write of SERVICE drops the plan. -/
theorem serviceWrite_outOfService {s : State} (v : Nat) (hready : fget s fPART_BOOT_STATUS_PHASE 0 0 = 4)
    (hlevel : fget s fPART_BOOT_STATUS_DEBUG_LEVEL 0 0 ≠ 2) (hs : inService s = false) :
    (serviceWrite s v).1 = trainIf v (fput (updLap s fun l => { l with plan := [], planned := false }) fPART_BOOT_CTRL_SERVICE 0 0 v) := by
  simp [serviceWrite, trainIf, hready, hlevel, hs]

theorem exec_service (s : State) (v : Word) :
    exec (.service v) s = .next (serviceWrite (driverWrite s 0x10_0D04 v.toNat) (v.toNat % 2)).1 := by
  have hbit : nbits v.toNat 0 1 = v.toNat % 2 := by simp [nbits]
  rw [← hbit]
  rfl

/-! ## Reads that act (R80, R585) -/

theorem exec_lapNumLoRead (s : State) : exec .lapNumLoRead s =
    .next (emit (updLap s fun l => { l with numHiLatch := l.num / 2 ^ 32 % 2 ^ 16 }) (.read 0 0 [s.lap.num % 2 ^ 32])) := by
  have hshown : regPeek s .part 0 0x108 0 = s.lap.num % 2 ^ 32 := by
    have hfs : fieldsAt .part 0x108 = some [fPART_LAP_NUM_LO_LAP_LO] := by decide +kernel
    have hview : viewField fPART_LAP_NUM_LO_LAP_LO = true := by decide
    simp [regPeek, hfs, spaceHere, fieldShown, hview, regView, partView]
  show Host.Outcome.next (emit (latchLapHi s) (.read 0 0 [regPeek s .part 0 0x108 0])) = _
  rw [hshown]
  rfl

theorem exec_measDataRead (s : State) : exec .measDataRead s =
    .next (emit (fput s fPART_MEAS_IDX_WORD 0 0 (fget s fPART_MEAS_IDX_WORD 0 0 + 1)) (.read 0 0 [measWord s])) := by
  have hshown : regPeek s .part 0 0xD20 0 = measWord s := by
    have hfs : fieldsAt .part 0xD20 = some [fPART_MEAS_DATA_DATA] := by decide +kernel
    have hview : viewField fPART_MEAS_DATA_DATA = true := by decide
    simp [regPeek, hfs, spaceHere, fieldShown, hview, regView, partView]
  show Host.Outcome.next (emit (measAdvance s) (.read 0 0 [regPeek s .part 0 0xD20 0])) = _
  rw [hshown]
  rfl

/-! ## The indirect pair (R554 to R557) -/

theorem whoServed_iff (s : State) (who : Requester) :
    whoServed s who = true ↔ (who = .bar0 → fget s fPART_BOOT_STATUS_PHASE 0 0 = 4) := by
  simp [whoServed, ← imp_iff_not_or]

theorem indRefuses_iff (s : State) (who : Requester) (r : Nat) : indRefuses s who r = true ↔
    (who = .sideband ∨ indTarget s who r = 0x10 ∧ who = .bar0 ∧ inService s = true) ∨ targetWords s who r (indTarget s who r) = none := by
  simp only [indRefuses, Bool.or_eq_true, Bool.and_eq_true, beq_iff_eq, Option.isNone_iff_eq_none]
  tauto

theorem indRefuses_eq_false {s : State} {who : Requester} {r n : Nat} (ht : targetWords s who r (indTarget s who r) = some n)
    (hb : ¬ (who = .sideband ∨ indTarget s who r = 0x10 ∧ who = .bar0 ∧ inService s = true)) : indRefuses s who r = false := by
  rw [← Bool.not_eq_true, indRefuses_iff, ht]
  simpa using hb

theorem indRefuses_rowInput (s : State) (who : Requester) (o v r : Nat) : indRefuses (rowInput s who o v) who r = indRefuses s who r := by
  simp [indRefuses, indTarget]

/-! ### IND_DATA read -/

theorem indRead_absent {s : State} {r : Nat} (who : Requester) (h : regionPresent s r = false) : indRead s who r = (0, s) := by
  simp [indRead, h]

theorem indRead_refused {s : State} {who : Requester} {r : Nat} (h : regionPresent s r = true)
    (ht : targetWords s who r (indTarget s who r) = none) : indRead s who r = (0, indFlag s who r fRGN_IND_STATUS_REFUSED) := by
  simp [indRead, h, ht]

theorem indRead_target {s : State} {who : Requester} {r n : Nat} (h : regionPresent s r = true)
    (ht : targetWords s who r (indTarget s who r) = some n) : indRead s who r =
      let v := if indOffset s who r < n then indPeek s who r (indTarget s who r) (indOffset s who r) else (0, s)
      (v.1, indAdvance v.2 who r n) := by
  simp [indRead, h, ht]

theorem exec_indDataRead_served {s : State} {who : Requester} {r : Nat} (hr : whoReaches s who (some r) = true)
    (hs : whoServed s who = true) :
    exec (.indDataRead who r) s = .next (emit (indRead s who r).2 (.read (copyOf who) r [(indRead s who r).1])) := by
  show execIndDataRead who r s = _
  simp [execIndDataRead, hr, hs]

/-! ### IND_DATA write -/

theorem indWrite_cut {s : State} {r : Nat} (who : Requester) (v : Nat) (h : regionAlive s r = false) : (indWrite s who r v).1 = s := by
  unfold indWrite
  cases regionPresent s r <;> simp [h]

theorem indWrite_refused {s : State} {who : Requester} {r : Nat} (v : Nat) (h : regionAlive s r = true) (hb : indRefuses s who r = true) :
    (indWrite s who r v).1 = indFlag s who r fRGN_IND_STATUS_REFUSED := by
  simp [indWrite, regionPresent_of_alive h, h, hb]

theorem indWrite_target {s : State} {who : Requester} {r n : Nat} (v : Nat) (h : regionAlive s r = true) (hb : indRefuses s who r = false)
    (ht : targetWords s who r (indTarget s who r) = some n) : (indWrite s who r v).1 =
      indAdvance (if indOffset s who r < n then indPoke s who r (indTarget s who r) (indOffset s who r) v else (s, false)).1 who r n := by
  simp [indWrite, regionPresent_of_alive h, h, hb, ht]

theorem exec_indDataWrite_served {s : State} {who : Requester} {r : Nat} (v : Word) (hr : whoReaches s who (some r) = true)
    (hs : whoServed s who = true) : exec (.indDataWrite who r v) s =
      .next (indWrite (rowInput s who (0x20_0008 + r * 0x1_0000) v.toNat) who r v.toNat).1 := by
  show execIndDataWrite who r v s = _
  simp [execIndDataWrite, hr, hs]

/-! ### An access that times out (R556) -/

theorem exec_indTimeout {s : State} {who : Requester} {r : Nat} (wr : Bool) (hr : whoReaches s who (some r) = true) :
    exec (.indTimeout who r wr) s = .next (indTimeout s who r wr) := by
  show execIndTimeout who r wr s = _
  simp [execIndTimeout, hr]

theorem indTimeout_refused {s : State} {who : Requester} {r : Nat} (wr : Bool) (ht : targetWords s who r (indTarget s who r) = none) :
    indTimeout s who r wr = s := by
  simp [indTimeout, ht]

theorem indTimeout_read {s : State} {who : Requester} {r n : Nat} (h : regionPresent s r = true)
    (ht : targetWords s who r (indTarget s who r) = some n) : indTimeout s who r false =
      emit (indFlag (indAdvance s who r n) who r fRGN_IND_STATUS_TIMEOUT) (.read (copyOf who) r [0xFFFF_FFFF]) := by
  simp [indTimeout, ht, h]

theorem indTimeout_write {s : State} {who : Requester} {r n : Nat} (h : regionAlive s r = true) (hb : indRefuses s who r = false)
    (ht : targetWords s who r (indTarget s who r) = some n) :
    indTimeout s who r true = indFlag (indAdvance s who r n) who r fRGN_IND_STATUS_TIMEOUT := by
  simp [indTimeout, ht, regionPresent_of_alive h, h, hb]

theorem indTimeout_write_dropped {s : State} {who : Requester} {r : Nat} (h : regionAlive s r = false ∨ indRefuses s who r = true) :
    indTimeout s who r true = s := by
  unfold indTimeout
  split
  · rfl
  · rcases h with h | h <;> simp [h]

/-! ### What the indirect pair does, by requester and target -/

theorem indirect_unreached {s : State} {who : Requester} {r : Nat} (v : Word) (hr : whoReaches s who (some r) = false) :
    ∀ c ∈ ([.indDataRead who r, .indDataWrite who r v, .indTimeout who r true, .indTimeout who r false] : List Instr), exec c s = .next s := by
  simp [exec, execIndDataRead, execIndDataWrite, execIndTimeout, hr]

/-- Before READY, BAR0 reads zero and writes nothing (R574). -/
theorem indirect_unserved {s : State} {who : Requester} {r : Nat} (v : Word) (hr : whoReaches s who (some r) = true)
    (hs : whoServed s who = false) :
    exec (.indDataRead who r) s = .next (emit s (.read (copyOf who) r [0])) ∧ exec (.indDataWrite who r v) s = .next s := by
  simp [exec, execIndDataRead, execIndDataWrite, hr, hs]

/-- IND_DATA of a target in reach: reads and writes go to the word at OFFSET while it lies within the target, and OFFSET advances (R555). -/
theorem indirect_target {s : State} {who : Requester} {r n : Nat} (v : Word) (hr : whoReaches s who (some r) = true)
    (hs : whoServed s who = true) (hp : regionPresent s r = true) (ht : targetWords s who r (indTarget s who r) = some n) :
    let o := indOffset s who r
    let got := rowInput s who (0x20_0008 + r * 0x1_0000) v.toNat
    (o < n → exec (.indDataRead who r) s = .next (emit (indAdvance (indPeek s who r (indTarget s who r) o).2 who r n)
      (.read (copyOf who) r [(indPeek s who r (indTarget s who r) o).1]))) ∧
    (n ≤ o → exec (.indDataRead who r) s = .next (emit (indAdvance s who r n) (.read (copyOf who) r [0]))) ∧
    (regionAlive s r = true → indRefuses s who r = false → o < n →
      exec (.indDataWrite who r v) s = .next (indAdvance (indPoke got who r (indTarget s who r) o v.toNat).1 who r n)) ∧
    (regionAlive s r = true → indRefuses s who r = false → n ≤ o → exec (.indDataWrite who r v) s = .next (indAdvance got who r n)) := by
  intro o got
  have hgot : indTarget got who r = indTarget s who r ∧ indOffset got who r = o := ⟨fget_rowInput .., fget_rowInput ..⟩
  have hwrite : regionAlive s r = true → indRefuses s who r = false → exec (.indDataWrite who r v) s =
      .next (indAdvance (if o < n then indPoke got who r (indTarget s who r) o v.toNat else (got, false)).1 who r n) := by
    intro halive hb
    rw [exec_indDataWrite_served v hr hs, indWrite_target (n := n) v.toNat (by simpa using halive)
      ((indRefuses_rowInput ..).trans hb) (by simpa [indTarget] using ht), hgot.1, hgot.2]
  refine ⟨fun ho => ?_, fun ho => ?_, fun halive hb ho => ?_, fun halive hb ho => ?_⟩
  · rw [exec_indDataRead_served hr hs, indRead_target hp ht]
    simp only [show indOffset s who r < n from ho, if_true, o]
  · rw [exec_indDataRead_served hr hs, indRead_target hp ht]
    simp only [show ¬ indOffset s who r < n from Nat.not_lt.mpr ho, if_false]
  · rw [hwrite halive hb, if_pos ho]
  · rw [hwrite halive hb, if_neg (Nat.not_lt.mpr ho)]

/-! ### The ENERGY target (R102, R558) -/

theorem energyLo_held (s : State) (r c k lo : Nat) :
    tabGet none (getInd (updInd s r c fun i => { i with energyLo := tabSet none i.energyLo k (some lo) }) r c).energyLo k = some lo := by
  simp [getInd, updInd, tabUpd]

theorem updInd_part (s : State) (r c : Nat) (f : IndCopy → IndCopy) : (updInd s r c f).part = s.part := rfl

/-- Both words of an ENERGY entry, written through one copy: the entry is set but its reserved bits. -/
theorem indPoke_energy_entry (s : State) (who : Requester) (r k lo hi : Nat) :
    (indPoke (indPoke s who r 0x10 (2 * k) lo).1 who r 0x10 (2 * k + 1) hi).1.part.energy =
      tabSet 0 s.part.energy k (lo + hi % 2 ^ 24 * 2 ^ 32) := by
  have hlow : (indPoke s who r 0x10 (2 * k) lo).1 =
      updInd s r (copyOf who) fun i => { i with energyLo := tabSet none i.energyLo k (some lo) } := by
    simp [indPoke, writeEnergy]
  have hodd : (2 * k + 1) / 2 = k ∧ (2 * k + 1) % 2 = 1 := by omega
  rw [hlow]
  simp [indPoke, writeEnergy, hodd, energyLo_held, updPart, updInd_part]

/-! ## Register writes, reads that act, and the indirect pair -/

theorem exec_registerWrite_byRequester (s : State) (o size : Nat) (v : Word) :
    ((∀ r, regPlace o ≠ some (.rgn, r, 8)) → exec (.registerWrite .sideband o ⟨v, size⟩) s = .next s) ∧
    (∀ r, regPlace o = some (.rgn, r, 8) → exec (.registerWrite .sideband o ⟨v, size⟩) s =
      .next (if regionAlive s r then fput s fRGN_IND_STATUS_REFUSED r 2 1 else s)) ∧
    (o % 4 ≠ 0 ∨ size ≠ 4 → exec (.registerWrite .bar0 o ⟨v, size⟩) s = .next (emit s .abort) ∧
      exec (.registerWrite .bar4 o ⟨v, size⟩) s = .next (emit s .abort) ∧
      ∀ k, exec (.registerWrite (.control k) o ⟨v, size⟩) s = .next (emit (errPart s (errRecord s 0xF 3 0x25 0 8 0 o)) .busError)) ∧
    (∀ k, o % 4 = 0 → whoReaches s (.control k) (offsetRegion o) = false → exec (.registerWrite (.control k) o ⟨v, 4⟩) s = .next s) ∧
    (∀ k, o % 4 = 0 → whoReaches s (.control k) (offsetRegion o) = true → WriteReaches s s (.control k) o v) ∧
    (o % 4 = 0 → 0x10_0000 ≤ o → endpointUp s = false → exec (.registerWrite .bar0 o ⟨v, 4⟩) s = .next s) ∧
    (o % 4 = 0 → o < 0x10_0000 ∨ endpointUp s = true →
      (fget s fPART_BOOT_STATUS_PHASE 0 0 = 4 → WriteReaches s (driverWrite s o v.toNat) .bar0 o v) ∧
      (fget s fPART_BOOT_STATUS_PHASE 0 0 ≠ 4 → 0x10_0000 ≤ o → o ≠ 0x10_0D00 →
        exec (.registerWrite .bar0 o ⟨v, 4⟩) s = .next (driverWrite s o v.toNat))) := by
  simp only [exec_registerWrite]
  refine ⟨fun h => ?_, fun r h => ?_, fun h => ⟨?_, ?_, fun k => ?_⟩, fun k h hr => ?_, fun k h hr => control_write_reaches v h hr,
    fun h hlow hdown => ?_, fun h hs => bar0_write_recorded v h ((hostServed_iff s o).mpr hs)⟩
  · rw [registerWrite_sideband_none s _ size h]
  · rw [registerWrite_sideband_indData s _ size h]
  · rw [registerWrite_bar0_odd s _ h]
  · rw [registerWrite_bar4_odd s _ h]
  · rw [registerWrite_control_odd s k _ h]
  · rw [registerWrite_control s k _ h, hr]; rfl
  · have hs : hostServed s o = false := by
      rw [← Bool.not_eq_true, hostServed_iff]
      simp [hlow, hdown]
    rw [registerWrite_bar0_unserved s _ h hs]

/-- Settles O51: each requester's write and what it reaches, one field of a word, FW_FLAGS, SERVICE, the reads that act, the indirect pair by
requester and target, and an ENERGY entry. -/
theorem registerAccess : Obligations.RegisterAccess := by
  refine ⟨exec_registerWrite_byRequester, writeField_judges, exec_fwFlagsWrite, fun s v => ⟨fun h => ?_, fun hready hlevel => ⟨fun hs => ?_, fun hs => ?_⟩⟩,
    fun s => ⟨exec_lapNumLoRead s, ?_⟩, fun s who r v => ⟨indirect_unreached v, fun hr hs => ?_, fun hr hs => ?_, fun hr => ⟨?_, ?_⟩⟩,
    fun s who r k lo hi => ?_⟩
  · rw [exec_service, serviceWrite_rejected _ (by simpa using h)]
  · rw [exec_service, serviceWrite_inService _ (by simpa using hready) (by simpa using hlevel) (by simpa using hs)]
    rfl
  · rw [exec_service, serviceWrite_outOfService _ (by simpa using hready) (by simpa using hlevel) (by simpa using hs)]
    rfl
  · rintro i w rfl rfl
    exact exec_measDataRead s
  · exact indirect_unserved v hr (by rw [← Bool.not_eq_true, whoServed_iff]; exact hs)
  · have hserved := (whoServed_iff s who).mpr hs
    rw [← rowInput_eq_ite]
    refine ⟨fun hp => ?_, fun hp ht => ?_, fun hcut => ?_, fun halive hb => ?_, fun n hp ht => ?_⟩
    · rw [exec_indDataRead_served hr hserved, indRead_absent who hp]
    · rw [exec_indDataRead_served hr hserved, indRead_refused hp ht]
      rfl
    · rw [exec_indDataWrite_served v hr hserved, indWrite_cut who _ (by simpa using hcut)]
    · rw [exec_indDataWrite_served v hr hserved,
        indWrite_refused _ (by simpa using halive) ((indRefuses_rowInput ..).trans ((indRefuses_iff s who r).mpr hb))]
      rfl
    · have hfree := indRefuses_eq_false ht
      obtain ⟨hread, hpast, hwrite, hwritePast⟩ := indirect_target v hr hserved hp ht
      exact ⟨hread, hpast, fun halive hb => hwrite halive (hfree hb), fun halive hb => hwritePast halive (hfree hb)⟩
  · intro hp ht wr
    rw [exec_indTimeout wr hr, indTimeout_refused wr ht]
  · intro n hp ht
    refine ⟨?_, fun halive hb => ?_, fun h => ?_⟩
    · rw [exec_indTimeout false hr, indTimeout_read hp ht]
      rfl
    · rw [exec_indTimeout true hr, indTimeout_write halive (indRefuses_eq_false ht hb) ht]
      rfl
    · rw [exec_indTimeout true hr, indTimeout_write_dropped (h.imp_right fun hb => (indRefuses_iff s who r).mpr (.inl hb))]
  · refine ⟨?_, fun j hj => ?_⟩
    · rw [indPoke_energy_entry, tabGet_tabSet_self]
    · rw [indPoke_energy_entry, tabGet_tabSet_ne _ _ _ hj]

end Sys2Proof.Machine
end

section
/-! What an attestation request is answered (R26, R569, R576 to R578): nothing on a transport that is off, and else a response or ERROR by the
stage of that transport's exchange. -/

namespace Sys2Proof.Machine

/-! ## A transport and its exchange -/

/-- The bit of a transport in PART_SEC_CFG. -/
def attestBit (s : State) : Transport → Nat
  | .doe => fget s fPART_SEC_CFG_DOE_ATTEST 0 0
  | .mctp => fget s fPART_SEC_CFG_MCTP_ATTEST 0 0

theorem spdmOn_iff (s : State) (x : Transport) :
    spdmOn s x = true ↔ partOn s = true ∧ bootPhase s = 4 ∧ attestBit s x = 1 ∧ (x = .doe → endpointUp s = true) := by
  cases x <;> simp [spdmOn, attestBit] <;> tauto

theorem spdmKey_injective : Function.Injective spdmKey := by
  intro x w h
  cases x <;> cases w <;> trivial

theorem getSpdm_setSpdm_self (s : State) (x : Transport) (z : SpdmSt) : getSpdm (setSpdm s x z) x = z := by
  simp [getSpdm, setSpdm]

theorem getSpdm_setSpdm_ne (s : State) {x w : Transport} (z : SpdmSt) (h : w ≠ x) : getSpdm (setSpdm s x z) w = getSpdm s w :=
  tabGet_tabSet_other _ _ _ _ fun hk => h (spdmKey_injective hk)

/-- A command answers with a response and moves its transport's exchange on, and nothing else changes. -/
def SpdmTells (s : State) (x : Transport) (c : Instr) (code : Nat) (body : Bytes) (z : SpdmSt) : Prop :=
  ∃ t, exec c s = .next t ∧ t.out = .spdm code body :: s.out ∧ getSpdm t x = z ∧
    (∀ w, w ≠ x → getSpdm t w = getSpdm s w) ∧ t = { s with out := t.out, spdm := t.spdm }

theorem spdmTells_of_answer {s : State} {x : Transport} {c : Instr} {code : Nat} {body : Bytes} {z : SpdmSt}
    (h : exec c s = .next (spdmAnswer s x code body z)) : SpdmTells s x c code body z :=
  ⟨_, h, rfl, getSpdm_setSpdm_self s x z, fun _ hw => getSpdm_setSpdm_ne s z hw, rfl⟩

/-! ## A transport that is off -/

/-- The requests of attestation on a transport, with one choice of operands. -/
def spdmRequests (x : Transport) (req : Bytes) (slot off len : Nat) : List Instr :=
  [.getVersion x, .getCapabilities x req, .negotiateAlgorithms x req, .getDigests x, .getCertificate x slot off len, .challenge x req,
    .getMeasurements x req]

theorem exec_spdmRequest_off {s : State} {x : Transport} (h : ¬ spdmOn s x = true) (req : Bytes) (slot off len : Nat) :
    ∀ c ∈ spdmRequests x req slot off len, exec c s = .next s := by
  have hversion : spdmVersion s x = s := by simp [spdmVersion, h]
  have hnegotiate (request code stage selects) : spdmNegotiate s x request code stage req selects = s := by simp [spdmNegotiate, h]
  have hcerts (request code slot req content) : spdmCerts s x request code slot req content = s := by simp [spdmCerts, h]
  have hchallenge : spdmChallenge s x req = s := by simp [spdmChallenge, h]
  have hmeasurements : spdmMeasurements s x req = s := by simp [spdmMeasurements, h]
  simp [spdmRequests, exec, execGetVersion, execGetCapabilities, execNegotiateAlgorithms, execGetDigests, execGetCertificate, execChallenge,
    execGetMeasurements, hversion, hnegotiate, hcerts, hchallenge, hmeasurements]

/-! ## What each request is answered -/

section
variable {s : State} {x : Transport} (hon : spdmOn s x = true)
include hon

theorem exec_getVersion : exec (.getVersion x) s = .next (spdmAnswer s x 0x04 (Config.spdmBody 0x84 [] ++ versionEntry)
    ⟨1, Config.spdmBody 0x84 [] ++ versionEntry, [], []⟩) := by
  simp [exec, execGetVersion, spdmVersion, hon]

theorem spdmNegotiate_eq (request code stage : Nat) (req selects : Bytes) : spdmNegotiate s x request code stage req selects =
    let b := Config.spdmBody request req ++ selects
    if (getSpdm s x).stage = stage then
      spdmAnswer s x code b { getSpdm s x with stage := stage + 1, vca := (getSpdm s x).vca ++ req ++ b }
    else spdmError s := by
  simp [spdmNegotiate, hon, ite_not]

theorem spdmCerts_eq (request code slot : Nat) (req content : Bytes) : spdmCerts s x request code slot req content =
    let b := Config.spdmBody request req ++ content
    if (getSpdm s x).stage = 3 ∧ slot = 0 then
      spdmAnswer s x code b { getSpdm s x with certs := (getSpdm s x).certs ++ req ++ b }
    else spdmError s := by
  by_cases h3 : (getSpdm s x).stage = 3 <;> by_cases h0 : slot = 0 <;> simp [spdmCerts, hon, h3, h0]

theorem spdmChallenge_eq (req : Bytes) : spdmChallenge s x req =
    let b := Config.spdmBody 0x83 req
    if (getSpdm s x).stage = 3 then
      spdmAnswer s x 0x03 (b ++ aliasSignature s ((getSpdm s x).vca ++ (getSpdm s x).certs ++ req ++ b)) { getSpdm s x with certs := [] }
    else spdmError s := by
  simp [spdmChallenge, hon, ite_not]

theorem spdmMeasurements_eq (req : Bytes) : spdmMeasurements s x req =
    let m := (getSpdm s x).meas ++ req ++ measBlocks s
    if (getSpdm s x).stage = 3 then
      spdmAnswer s x 0x60 (measBlocks s ++ aliasSignature s ((getSpdm s x).vca ++ m)) { getSpdm s x with meas := m }
    else spdmError s := by
  simp [spdmMeasurements, hon, ite_not]

/-- Before the negotiation is over no request for certificates, a challenge or measurements is served. -/
theorem exec_spdmRequest_outOfOrder (hstage : (getSpdm s x).stage ≠ 3) (req : Bytes) (slot off len : Nat) :
    ∀ c ∈ ([.getDigests x, .getCertificate x slot off len, .challenge x req, .getMeasurements x req] : List Instr),
      exec c s = .next (spdmError s) := by
  simp [exec, execGetDigests, execGetCertificate, execChallenge, execGetMeasurements, spdmCerts_eq hon, spdmChallenge_eq hon,
    spdmMeasurements_eq hon, hstage]

theorem exec_getCapabilities_tells (req : Bytes) (hstage : (getSpdm s x).stage = 1) :
    SpdmTells s x (.getCapabilities x req) 0x61 (Config.spdmBody 0xE1 req)
      { getSpdm s x with stage := 2, vca := (getSpdm s x).vca ++ req ++ Config.spdmBody 0xE1 req } := by
  apply spdmTells_of_answer
  simp [exec, execGetCapabilities, spdmNegotiate_eq hon, hstage]

theorem exec_negotiateAlgorithms_tells (req : Bytes) (hstage : (getSpdm s x).stage = 2) :
    SpdmTells s x (.negotiateAlgorithms x req) 0x63 (Config.spdmBody 0xE3 req ++ algorithms)
      { getSpdm s x with stage := 3, vca := (getSpdm s x).vca ++ req ++ (Config.spdmBody 0xE3 req ++ algorithms) } := by
  apply spdmTells_of_answer
  simp [exec, execNegotiateAlgorithms, spdmNegotiate_eq hon, hstage]

theorem exec_getDigests_tells (hstage : (getSpdm s x).stage = 3) :
    let digests := Config.spdmBody 0x81 [] ++ natLe 32 (Config.sha3 (certChain s)).toNat
    SpdmTells s x (.getDigests x) 0x01 digests { getSpdm s x with certs := (getSpdm s x).certs ++ digests } := by
  apply spdmTells_of_answer
  simp [exec, execGetDigests, spdmCerts_eq hon, hstage]

theorem exec_getCertificate_tells (off len : Nat) (hstage : (getSpdm s x).stage = 3) :
    let cert := natLe 2 off ++ natLe 2 len
    let portion := Config.spdmBody 0x82 cert ++ ((certChain s).drop off).take len
    SpdmTells s x (.getCertificate x 0 off len) 0x02 portion { getSpdm s x with certs := (getSpdm s x).certs ++ cert ++ portion } := by
  apply spdmTells_of_answer
  simp [exec, execGetCertificate, spdmCerts_eq hon, hstage]

theorem exec_challenge_tells (req : Bytes) (hstage : (getSpdm s x).stage = 3) :
    SpdmTells s x (.challenge x req) 0x03 (Config.spdmBody 0x83 req ++
        aliasSignature s ((getSpdm s x).vca ++ (getSpdm s x).certs ++ req ++ Config.spdmBody 0x83 req))
      { getSpdm s x with certs := [] } := by
  apply spdmTells_of_answer
  simp [exec, execChallenge, spdmChallenge_eq hon, hstage]

theorem exec_getMeasurements_tells (req : Bytes) (hstage : (getSpdm s x).stage = 3) :
    SpdmTells s x (.getMeasurements x req) 0x60
      (measBlocks s ++ aliasSignature s ((getSpdm s x).vca ++ ((getSpdm s x).meas ++ req ++ measBlocks s)))
      { getSpdm s x with meas := (getSpdm s x).meas ++ req ++ measBlocks s } := by
  apply spdmTells_of_answer
  simp [exec, execGetMeasurements, spdmMeasurements_eq hon, hstage]

end

/-- Settles O60: a transport that is off, then GET_VERSION, the two steps of the negotiation in their order, and the requests of stage 3. -/
theorem attestation : Obligations.Attestation := by
  intro s x req slot off len bit on y error tells sign cert version selected chain digests portion blocks
  have hbit : bit = attestBit s x := by cases x <;> rfl
  have hblocks : blocks = measBlocks s := rfl
  have hiff : spdmOn s x = true ↔ on := by rw [spdmOn_iff, ← hbit]
  refine ⟨fun hoff => exec_spdmRequest_off (hiff.not.mpr hoff) req slot off len, fun h => ?_⟩
  have hon := hiff.mpr h
  refine ⟨spdmTells_of_answer (exec_getVersion hon), exec_getCapabilities_tells hon req, exec_negotiateAlgorithms_tells hon req,
    fun hstage => ?_, fun hstage => ?_, fun hstage => ⟨exec_getDigests_tells hon hstage, ?_, fun hslot => ?_,
      exec_challenge_tells hon req hstage, ?_⟩, fun hstage => exec_spdmRequest_outOfOrder hon hstage req slot off len⟩
  · show Host.Outcome.next (spdmNegotiate s x 0xE1 0x61 1 req []) = _
    rw [spdmNegotiate_eq hon, if_neg hstage]; rfl
  · show Host.Outcome.next (spdmNegotiate s x 0xE3 0x63 2 req algorithms) = _
    rw [spdmNegotiate_eq hon, if_neg hstage]; rfl
  · rintro rfl
    exact exec_getCertificate_tells hon off len hstage
  · show Host.Outcome.next (spdmCerts s x 0x82 0x02 slot _ _) = _
    rw [spdmCerts_eq hon, if_neg fun hs => hslot hs.2]; rfl
  · rw [hblocks]
    exact exec_getMeasurements_tells hon req hstage

end Sys2Proof.Machine
end

section
/-! What reports and cuts only add to (R290, R504, R505, R509): the list of cuts in progress grows at its end, a core behind a deadbolt stays
behind it, and a task that has an outcome keeps one. -/

namespace Sys2Proof.Machine

/-! ## The list of cuts, deadbolted cores and ended tasks -/

/-- The cuts in progress of a state stand first among those of another. -/
def CutsGrow (s t : State) : Prop := s.part.cutUnits <+: t.part.cutUnits

/-- Every task of the running lap on a unit has an outcome. -/
def tasksEnded (s : State) (u : Nat) : Prop := ∀ k ∈ s.lap.cur, k.unit = u → k.outcome ≠ none

/-- What is cut in a state stays so in another. -/
structure StaysCut (s t : State) : Prop where
  cuts : CutsGrow s t
  dead : ∀ u, (getCore s u).deadbolted = true → (getCore t u).deadbolted = true
  ended : ∀ u, tasksEnded s u → tasksEnded t u

theorem CutsGrow.refl (s : State) : CutsGrow s s := ⟨[], List.append_nil _⟩

theorem CutsGrow.trans {s t u : State} (h : CutsGrow s t) (h' : CutsGrow t u) : CutsGrow s u := List.IsPrefix.trans h h'

theorem CutsGrow.of_eq {s t : State} (h : t.part.cutUnits = s.part.cutUnits) : CutsGrow s t := by
  rw [CutsGrow, h]

theorem CutsGrow.foldl {α : Type} {g : State → α → State} (h : ∀ s a, CutsGrow s (g s a)) (l : List α) (s : State) :
    CutsGrow s (l.foldl g s) := by
  induction l generalizing s with
  | nil => exact .refl s
  | cons a l ih => exact (h s a).trans (ih _)

theorem StaysCut.refl (s : State) : StaysCut s s := ⟨.refl s, fun _ => id, fun _ => id⟩

theorem StaysCut.trans {s t u : State} (h : StaysCut s t) (h' : StaysCut t u) : StaysCut s u :=
  ⟨h.cuts.trans h'.cuts, fun c hc => h'.dead c (h.dead c hc), fun c hc => h'.ended c (h.ended c hc)⟩

theorem StaysCut.foldl {α : Type} {g : State → α → State} (h : ∀ s a, StaysCut s (g s a)) (l : List α) (s : State) :
    StaysCut s (l.foldl g s) := by
  induction l generalizing s with
  | nil => exact .refl s
  | cons a l ih => exact (h s a).trans (ih _)

theorem StaysCut.of_eq {s t : State} (hpart : t.part.cutUnits = s.part.cutUnits) (hcores : t.cores = s.cores) (hcur : t.lap.cur = s.lap.cur) :
    StaysCut s t :=
  ⟨.of_eq hpart, fun u h => by rwa [getCore, hcores], fun u h => by rwa [tasksEnded, hcur]⟩

theorem StaysCut.of_told {s t : State} (htold : told t = told s) (hpart : t.part.cutUnits = s.part.cutUnits) : StaysCut s t :=
  .of_eq hpart (congrArg ToldPart.cores htold) (congrArg (·.lap.cur) htold)

theorem staysCut_updCore (s : State) (u : Nat) {f : Core → Core} (hf : ∀ c, c.deadbolted = true → (f c).deadbolted = true) :
    StaysCut s (updCore s u f) := by
  refine ⟨.refl s, fun v hv => ?_, fun _ => id⟩
  by_cases h : v = u
  · subst h; rw [getCore_updCore_self]; exact hf _ hv
  · rwa [getCore_updCore_ne s f h]

theorem staysCut_updBlock (s : State) (b : Nat) (f : Block → Block) : StaysCut s (updBlock s b f) := .of_eq rfl rfl rfl

theorem staysCut_updRegion (s : State) (r : Nat) (f : Region → Region) : StaysCut s (updRegion s r f) := .of_eq rfl rfl rfl

theorem tasksEnded_map {s t : State} {f : LapTask → LapTask} (hcur : t.lap.cur = s.lap.cur.map f) (hunit : ∀ k, (f k).unit = k.unit)
    (hout : ∀ k, k.outcome ≠ none → (f k).outcome ≠ none) {u : Nat} (h : tasksEnded s u) : tasksEnded t u := by
  intro k hk hu
  rw [hcur, List.mem_map] at hk
  obtain ⟨k, hk, rfl⟩ := hk
  exact hout k (h k hk (hunit k ▸ hu))

theorem staysCut_mapTasks {s t : State} {f : LapTask → LapTask} (hpart : t.part = s.part) (hcores : t.cores = s.cores)
    (hcur : t.lap.cur = s.lap.cur.map f) (hunit : ∀ k, (f k).unit = k.unit) (hout : ∀ k, k.outcome ≠ none → (f k).outcome ≠ none) :
    StaysCut s t :=
  ⟨.of_eq (by rw [hpart]), fun u h => by rwa [getCore, hcores], fun _ => tasksEnded_map hcur hunit hout⟩

/-! ## Reports leave the list of cuts alone -/

theorem hostTouch_part (s : State) (h n : Nat) : (hostTouch s h n).part = s.part := by
  unfold hostTouch; split <;> rfl

theorem hostWrite_part (s : State) (h : Nat) (b : Bytes) : (hostWrite s h b).part = s.part := by
  unfold hostWrite; split <;> rfl

theorem fireVector_part (s : State) (v : Nat) : (fireVector s v).part = s.part := by
  unfold fireVector; (repeat' split) <;> rfl

theorem trkTrigger_part (s : State) : (trkTrigger s).part = s.part := by
  unfold trkTrigger; split <;> rfl

theorem ringPut_part {s t : State} {ring : Nat} {mk : Nat → Nat} (h : ringPut s ring mk = some t) : t.part = s.part := by
  unfold ringPut at h
  extract_lets sel p n a w touched written at h
  split at h
  · rw [← Option.some.inj h, setRingIndex, updHost_part, hostWrite_part, hostWrite_part, hostTouch_part, hostTouch_part]
  · cases h

theorem putEvent_part (s : State) (ring : Nat) (mk : Nat → Nat) (irq : Bool) (how : RingEnd) : (putEvent s ring mk irq how).1.part = s.part := by
  unfold putEvent
  split
  · rename_i t ht
    dsimp only
    split
    · rw [fireVector_part, ringPut_part ht]
    · exact ringPut_part ht
  · rfl

theorem putLost_part (s : State) (ring count next : Nat) (irq : Bool) : (putLost s ring count next irq).1.part = s.part :=
  (putEvent_part ..).trans (updHost_part ..)

theorem putOrLose_part (s : State) (ring : Nat) (mk : Nat → Nat) (irq : Bool) : (putOrLose s ring mk irq).1.part = s.part := by
  unfold putOrLose
  extract_lets lost counted
  have hcounted : counted.part = s.part := fbump_part ..
  clear_value counted
  split
  · exact putEvent_part ..
  · split
    · exact hcounted
    · exact (putLost_part ..).trans hcounted

theorem ringEvent_part (s : State) (ring : Nat) (mk : Nat → Nat) (irq : Bool) : (ringEvent s ring mk irq).1.part = s.part := by
  unfold ringEvent
  dsimp only
  (repeat' split) <;> simp only [putOrLose_part, putLost_part]

theorem errRings_part (rec : Nat) (rings : List Nat) (s : State) (bad : List Nat) : (errRings rec rings s bad).1.part = s.part := by
  induction rings generalizing s bad with
  | nil => rfl
  | cons ring rings ih =>
    unfold errRings
    split
    · rw [ih]
      split
      · rw [fireVector_part, ringEvent_part]
      · exact ringEvent_part ..
    · exact ih ..

theorem partTake_cutUnits {out : State → Nat → State} (hout : ∀ s a, (out s a).part.cutUnits = s.part.cutUnits) (s : State) (rec : Nat) :
    (partTake out s rec).part.cutUnits = s.part.cutUnits := by
  unfold partTake
  dsimp only
  split <;> rw [hout] <;> rfl

theorem foldl_cutUnits {α : Type} {g : State → α → State} (h : ∀ s a, (g s a).part.cutUnits = s.part.cutUnits) (l : List α) (s : State) :
    (l.foldl g s).part.cutUnits = s.part.cutUnits := by
  induction l generalizing s with
  | nil => rfl
  | cons a l ih => exact (ih _).trans (h s a)

theorem errOutN_cutUnits (n : Nat) (s : State) (rec : Nat) : (errOutN n s rec).part.cutUnits = s.part.cutUnits := by
  induction n generalizing s rec with
  | zero => rfl
  | succ n ih =>
    unfold errOutN
    extract_lets told triggered rings r sent
    have htriggered : triggered.part = s.part := by
      show (if _ then _ else _ : State).part = _
      split
      · exact trkTrigger_part _
      · rfl
    have hsent : sent.part = s.part := by
      show (if _ then _ else _ : State).part = _
      split
      · exact (errRings_part ..).trans htriggered
      · exact (fireVector_part ..).trans ((errRings_part ..).trans htriggered)
    exact (foldl_cutUnits (fun s a => partTake_cutUnits ih s _) _ _).trans (by rw [hsent])

theorem errOut_staysCut (s : State) (rec : Nat) : StaysCut s (errOut s rec) := .of_told (errOut_told s rec) (errOutN_cutUnits ..)

theorem errPart_staysCut (s : State) (rec : Nat) : StaysCut s (errPart s rec) :=
  .of_told (errPart_told s rec) (partTake_cutUnits (errOutN_cutUnits _) s rec)

/-! ## Halts and ended tasks -/

theorem endTask_ended (k : LapTask) (outcome : Nat) : (endTask k outcome).outcome ≠ none := by
  unfold endTask; split <;> simp_all

theorem endTask_unit (k : LapTask) (outcome : Nat) : (endTask k outcome).unit = k.unit := by
  unfold endTask; split <;> rfl

theorem updTask_staysCut (s : State) (slot : Nat) {f : LapTask → LapTask} (hunit : ∀ k, (f k).unit = k.unit)
    (hout : ∀ k, k.outcome ≠ none → (f k).outcome ≠ none) : StaysCut s (updTask s slot f) :=
  staysCut_mapTasks rfl rfl rfl (fun k => by split <;> simp [hunit]) fun k hk => by split <;> simp [hk, hout]

theorem passWait_staysCut (t : TumRef) (hand : Bool) (s : State) (w : TumPend) : StaysCut s (passWait t hand s w) := by
  refine StaysCut.trans (t := updSeq s w.unit _) (staysCut_updCore s _ fun _ => ?_) (updTask_staysCut _ _ (fun _ => ?_) fun _ => ?_)
  · exact id
  · rfl
  · exact id

theorem tumPut_staysCut (s : State) (t : TumRef) (x : Tumbler) : StaysCut s (tumPut s t x) := by
  unfold tumPut
  split <;> exact .of_eq rfl rfl rfl

theorem tumRetest_staysCut (s : State) (t : TumRef) : StaysCut s (tumRetest s t) :=
  (tumPut_staysCut s t _).trans (.foldl (passWait_staysCut t _) _ _)

theorem vecHeld_staysCut (s : State) (u : Nat) : StaysCut s (vecHeld s u) := by
  unfold vecHeld
  dsimp only
  (repeat' split) <;> exact .of_eq rfl rfl rfl

/-- A table whose entries have changed each at its key, without those now equal to d: what d lacks and no change takes away stays. -/
theorem tabGet_changed {α : Type} [DecidableEq α] {d : α} {P : α → Prop} {f : Nat × α → Nat × α} (hd : ¬ P d) (hkey : ∀ e, (f e).1 = e.1)
    (hf : ∀ e, P e.2 → P (f e).2) (t : Tab α) (k : Nat) (h : P (tabGet d t k)) :
    P (tabGet d ((t.map f).filter fun e => decide (e.2 ≠ d)) k) := by
  induction t with
  | nil => exact h
  | cons e t ih =>
    obtain ⟨k', v⟩ := e
    have hk := hkey (k', v)
    have hv := hf (k', v)
    generalize hfe : f (k', v) = e' at hk hv
    obtain ⟨k'', v'⟩ := e'
    obtain rfl : k'' = k' := hk
    rw [List.map_cons, hfe, List.filter_cons]
    by_cases hkk : k'' = k
    · have hP : P v' := hv (by simpa [tabGet, hkk] using h)
      have hne : v' ≠ d := fun he => hd (he ▸ hP)
      simpa [hne, tabGet, hkk] using hP
    · have htail := ih (by simpa [tabGet, hkk] using h)
      split
      · simpa [tabGet, hkk] using htail
      · exact htail

theorem haltUnits_staysCut (p : Nat → Bool) (detail : Nat) (s : State) : StaysCut s (haltUnits p detail s) := by
  unfold haltUnits
  extract_lets held cut tums waits refs
  have hheld : StaysCut s held := .foldl (fun _ _ => vecHeld_staysCut ..) _ _
  refine hheld.trans (StaysCut.trans ?_ (.foldl (fun s t => ?_) _ _))
  · refine ⟨.refl _, fun u hu => ?_, fun _ => id⟩
    refine tabGet_changed (P := fun c : Core => c.deadbolted = true) (by decide) (fun e => ?_) (fun e he => ?_) _ _ hu
    · split <;> rfl
    · split <;> exact he
  · split
    · exact .refl s
    · exact tumRetest_staysCut s t

theorem deadTasks_staysCut (s : State) (p : Nat → Bool) : StaysCut s (deadTasks s p) := by
  refine staysCut_mapTasks rfl rfl rfl (fun k => ?_) (fun k hk => ?_)
  · split <;> simp [endTask_unit]
  · split <;> simp [endTask_ended, hk]

/-- A deadbolt leaves no task of its cores without an outcome (R65). -/
theorem deadTasks_ended (s : State) {p : Nat → Bool} {u : Nat} (hp : p u = true) (hu : isSE u = false) : tasksEnded (deadTasks s p) u := by
  intro k hk hunit
  obtain ⟨j, _, rfl⟩ := List.mem_map.mp hk
  have hj : j.unit = u := by
    rw [← hunit]; split <;> simp [endTask_unit]
  rw [if_pos (by simp [hj, hp, hu])]
  exact endTask_ended j 8

/-! ## Cuts -/

theorem elect_staysCut (s : State) : StaysCut s (elect s) := by
  have hresume (t : State) : StaysCut t (resumeAtMark t) := by
    unfold resumeAtMark; split <;> exact .of_eq rfl rfl rfl
  have hmanager : StaysCut s (updPart s fun p => { p with manager := electable s }) := .of_eq rfl rfl rfl
  unfold elect
  split
  · split
    · exact .refl s
    · dsimp only
      split
      · exact (hmanager.trans (hresume _)).trans (errPart_staysCut ..)
      · exact hmanager.trans (hresume _)
  · exact hmanager

section
variable {cut : Cut} (hcut : ∀ s detail kind unit, StaysCut s (cut s detail kind unit))
include hcut

theorem regionOut_staysCut (s : State) (r : Nat) (rec : Option Nat) : StaysCut s (regionOut cut s r rec) := by
  have hout : StaysCut s (elect (cut s byPart 2 r)) := (hcut ..).trans (elect_staysCut _)
  unfold regionOut
  extract_lets t posted
  have hposted : StaysCut s posted := by
    cases rec with
    | none => exact hout
    | some rec => exact hout.trans (errPart_staysCut ..)
  split
  · exact hposted
  · exact hposted.trans (errPart_staysCut ..)

theorem regionTake_staysCut (s : State) (r rec : Nat) : StaysCut s (regionTake cut s r rec) := by
  have hqueued : StaysCut s (updRegion s r fun x => { x with errq := errqTake x.errq rec }) := .of_eq rfl rfl rfl
  unfold regionTake
  dsimp only
  split
  · exact hqueued.trans (errOut_staysCut ..)
  · exact hqueued.trans (regionOut_staysCut hcut ..)
  · exact hqueued.trans (regionOut_staysCut hcut ..)

theorem blockCut_staysCut (s : State) (detail b : Nat) : StaysCut s (blockCut cut s detail b) := by
  unfold blockCut
  dsimp only
  split
  · exact .refl s
  · split
    · exact (hcut ..).trans (regionTake_staysCut hcut ..)
    · exact hcut ..

theorem blockTake_staysCut (s : State) (b rec : Nat) : StaysCut s (blockTake cut s b rec) := by
  have hqueued : StaysCut s (updBlock s b fun x => { x with errq := errqTake x.errq rec }) := .of_eq rfl rfl rfl
  unfold blockTake
  dsimp only
  split
  · exact hqueued.trans (errOut_staysCut ..)
  · exact (hqueued.trans (blockCut_staysCut hcut ..)).trans (regionTake_staysCut hcut ..)
  · exact (hqueued.trans (blockCut_staysCut hcut ..)).trans (regionTake_staysCut hcut ..)

theorem postHalt_staysCut (s : State) (u rec task action : Nat) : StaysCut s (postHalt cut s u rec task action) := by
  unfold postHalt
  split
  · exact regionTake_staysCut hcut ..
  · exact blockTake_staysCut hcut ..

/-- Once its sequencers have halted and its tasks have ended, a cut only posts records. -/
theorem cutUnits_posts (p : Nat → Bool) (detail : Nat) (s : State) :
    StaysCut (deadTasks (haltUnits p detail s) p) (cutUnits cut p detail s) :=
  .foldl (fun _ _ => postHalt_staysCut hcut ..) _ _

theorem cutUnits_staysCut (p : Nat → Bool) (detail : Nat) (s : State) : StaysCut s (cutUnits cut p detail s) :=
  ((haltUnits_staysCut ..).trans (deadTasks_staysCut ..)).trans (cutUnits_posts hcut p detail s)

end

/-- A unit's cut is in progress, and the board knows of it (R520). -/
def cutBegun (s : State) (kind unit : Nat) : State :=
  notify (updPart s fun p => { p with cutUnits := p.cutUnits ++ [(kind, unit)] }) true (2 + unit * 2 ^ 4 + kind * 2 ^ 16)

theorem cutBegun_staysCut (s : State) (kind unit : Nat) : StaysCut s (cutBegun s kind unit) :=
  ⟨⟨_, rfl⟩, fun _ => id, fun _ => id⟩

/-- A fence of a unit that is not yet cut begins with the cut, and what follows from it stays cut. -/
theorem fenceN_succ_staysCut {n : Nat} (hn : ∀ s detail kind unit, StaysCut s (fenceN n s detail kind unit)) {s : State} {kind unit : Nat}
    (detail : Nat) (h : isCut s kind unit = false) : StaysCut (cutBegun s kind unit) (fenceN (n + 1) s detail kind unit) := by
  unfold fenceN
  rw [if_neg (by simp [h])]
  extract_lets begun
  show StaysCut begun _
  clear_value begun
  clear h
  split
  · exact (staysCut_updCore _ _ fun _ _ => rfl).trans (cutUnits_staysCut hn ..)
  · exact (staysCut_updBlock ..).trans (cutUnits_staysCut hn ..)
  · exact (staysCut_updRegion ..).trans (cutUnits_staysCut hn ..)
  · exact (staysCut_updCore _ _ fun _ _ => rfl).trans (cutUnits_staysCut hn ..)
  · exact .of_eq rfl rfl rfl
  · exact .of_eq rfl rfl rfl

theorem fenceN_staysCut (n : Nat) (s : State) (detail kind unit : Nat) : StaysCut s (fenceN n s detail kind unit) := by
  induction n generalizing s detail kind unit with
  | zero => exact .refl s
  | succ n ih =>
    cases h : isCut s kind unit with
    | false => exact (cutBegun_staysCut ..).trans (fenceN_succ_staysCut ih detail h)
    | true => simpa [fenceN, h] using StaysCut.refl s

theorem fence_staysCut (s : State) (detail kind unit : Nat) : StaysCut s (fence s detail kind unit) := fenceN_staysCut ..

theorem errRegion_staysCut (s : State) (r rec : Nat) : StaysCut s (errRegion s r rec) := regionTake_staysCut fence_staysCut ..

theorem errBlock_staysCut (s : State) (b rec : Nat) : StaysCut s (errBlock s b rec) := blockTake_staysCut fence_staysCut ..

/-- A fence adds its unit to the list of cuts, behind those in progress. -/
theorem fence_cuts {s : State} {kind unit : Nat} (detail : Nat) (h : isCut s kind unit = false) :
    CutsGrow (cutBegun s kind unit) (fence s detail kind unit) :=
  (fenceN_succ_staysCut (fenceN_staysCut 2) detail h).cuts

/-- A fenced core is behind its deadbolt, and its tasks of the running lap have ended (R290, R504). -/
theorem fence_core {s : State} {u : Nat} (detail : Nat) (hu : isSE u = false) (h : isCut s 0 u = false) :
    (getCore (fence s detail 0 u) u).deadbolted = true ∧ tasksEnded (fence s detail 0 u) u := by
  have heq : fence s detail 0 u = cutUnits (fenceN 2) (fun v => v == u) detail
      (updCore (cutBegun s 0 u) u fun c => { c with deadbolted := true, quarantined := false }) := by
    unfold fence fenceN
    rw [if_neg (by simp [h])]
    rfl
  rw [heq]
  exact ⟨(cutUnits_staysCut (fenceN_staysCut 2) ..).dead u (by rw [getCore_updCore_self]),
    (cutUnits_posts (fenceN_staysCut 2) ..).ended u (deadTasks_ended _ (by simp) hu)⟩

end Sys2Proof.Machine
end

section
/-! A port that goes DOWN (R459, R505) ends transfers, halts their owners and loses partners; through all of that the list of cuts in progress
only grows. -/

namespace Sys2Proof.Machine

theorem CutsGrow.of_part {s t : State} (h : t.part = s.part) : CutsGrow s t := .of_eq (by rw [h])

/-- Growth from a state on is growth from any state with the same list before it. -/
theorem CutsGrow.since {s t u : State} (h' : CutsGrow t u) (h : t.part = s.part) : CutsGrow s u := (CutsGrow.of_part h).trans h'

theorem CutsGrow.updRegion {s t : State} (h : CutsGrow s t) (r : Nat) (f : Region → Region) : CutsGrow s (updRegion t r f) := h

theorem CutsGrow.updBlock {s t : State} (h : CutsGrow s t) (b : Nat) (f : Block → Block) : CutsGrow s (updBlock t b f) := h

theorem CutsGrow.updTask {s t : State} (h : CutsGrow s t) (slot : Nat) (f : LapTask → LapTask) : CutsGrow s (updTask t slot f) := h

theorem CutsGrow.fput {s t : State} (h : CutsGrow s t) (f : Fld) (unit sel v : Nat) : CutsGrow s (fput t f unit sel v) := h

theorem errRegion_cuts (s : State) (r rec : Nat) : CutsGrow s (errRegion s r rec) := (errRegion_staysCut s r rec).cuts

theorem errPart_cuts (s : State) (rec : Nat) : CutsGrow s (errPart s rec) := (errPart_staysCut s rec).cuts

/-! ## Flits, control records and lost partners -/

theorem pump_part (p n : Nat) (s : State) : (pump p n s).part = s.part := by
  induction n generalizing s with
  | zero => rfl
  | succ n ih =>
    unfold pump
    split
    · rfl
    · dsimp only
      split
      · rfl
      · rw [ih]; rfl

theorem pumpAll_part (s : State) (p : Nat) : (pumpAll s p).part = s.part := by
  unfold pumpAll
  extract_lets sent
  have hsent : sent.part = s.part := pump_part ..
  clear_value sent
  split <;> exact hsent

theorem portSend_part (s : State) (p prio : Nat) (fs : List Flit) : (portSend s p prio fs).part = s.part := pumpAll_part ..

theorem partnerLost_cuts (s : State) (p : Nat) : CutsGrow s (partnerLost s p) := by
  unfold partnerLost
  split
  · exact .refl s
  · extract_lets lost told escalated
    have hescalated : CutsGrow s escalated := ((errPart_cuts lost _).trans (errPart_cuts ..)).since rfl
    clear_value escalated
    split
    · exact (hescalated.fput ..).trans (errPart_cuts ..)
    · exact hescalated

theorem sendControls_cuts (s : State) (dst : Nat) (rs : List (Nat × BitVec 256)) : CutsGrow s (sendControls s dst rs) := by
  unfold sendControls
  split
  · exact .refl s
  · split
    · split
      · exact .of_part (portSend_part ..)
      · exact .of_part (portSend_part ..)
    · exact partnerLost_cuts ..

/-! ## Frames and pages (R55, R276, R284 to R286) -/

theorem readSystem_part (s : State) (r : Nat) (k : SysStruct) : (readSystem s r k).part = s.part := by
  unfold readSystem
  dsimp only
  split <;> rfl

theorem retireFrame_cuts (s : State) (r f : Nat) : CutsGrow s (retireFrame s r f) := by
  unfold retireFrame
  extract_lets side w retired told n
  have htold : CutsGrow s told := (errRegion_cuts retired ..).since rfl
  clear_value told
  split
  · exact (htold.fput ..).trans (errRegion_cuts ..)
  · exact htold

theorem toPool_cuts (s : State) (r f : Nat) : CutsGrow s (toPool s r f) := by
  unfold toPool
  split
  · dsimp only
    split
    · exact (retireFrame_cuts ..).updRegion ..
    · exact retireFrame_cuts ..
  · exact .of_part rfl

theorem releaseFrame_cuts (s : State) (r page f lap : Nat) : CutsGrow s (releaseFrame s r page f lap) := by
  unfold releaseFrame
  split
  · exact .of_part rfl
  · exact toPool_cuts ..

theorem foldPage_cuts (s : State) (r page : Nat) : CutsGrow s (foldPage s r page) := by
  unfold foldPage
  extract_lets settled e out committed dropped keep
  have hcommitted : CutsGrow settled committed := .foldl (fun t h => (releaseFrame_cuts ..).updRegion ..) _ _
  have hdropped : CutsGrow committed dropped := .foldl (fun t h => toPool_cuts ..) _ _
  exact ((hcommitted.trans hdropped).since rfl).updRegion ..

theorem foldFinal_cuts (s : State) (r page : Nat) : CutsGrow s (foldFinal s r page) := by
  unfold foldFinal
  dsimp only
  split
  · exact foldPage_cuts ..
  · exact .refl s

theorem foldFor_cuts {r : Nat} {stackB : Bool} {pages : List Nat} {s : State} {d : Nat × State} (h : foldFor r stackB pages s = some d) :
    CutsGrow s d.2 := by
  induction pages generalizing s with
  | nil => cases h
  | cons p pages ih =>
    unfold foldFor at h
    split at h
    · dsimp only at h
      split at h
      · cases h; exact foldPage_cuts ..
      · exact (foldPage_cuts ..).trans (ih h)
    · exact ih h

theorem drawHalf_cuts {s : State} {r : Nat} {stackB : Bool} {d : Nat × State} (h : drawHalf s r stackB = some d) : CutsGrow s d.2 := by
  unfold drawHalf at h
  split at h
  · cases h; exact .refl s
  · exact foldFor_cuts h

theorem drawFrame_cuts {s : State} {r : Nat} {stackB own : Bool} {d : Nat × State} (h : drawFrame s r stackB own = some d) :
    CutsGrow s d.2 := by
  unfold drawFrame at h
  split at h
  · rename_i d' hd
    cases h
    exact (drawHalf_cuts hd).updRegion ..
  · split at h
    · cases h
    · obtain ⟨d', hd, rfl⟩ := Option.map_eq_some_iff.mp h
      exact (drawHalf_cuts hd).updRegion ..

theorem failPc_cuts (s : State) (r f pc n : Nat) : CutsGrow s (failPc s r f pc n) := by
  unfold failPc
  dsimp only
  split
  · exact .refl s
  · split
    · exact ((CutsGrow.refl s).updRegion ..).trans (errRegion_cuts ..)
    · exact (((CutsGrow.refl s).fput ..).fput ..).trans (errRegion_cuts ..)

theorem countUe_cuts (s : State) (r f o : Nat) : CutsGrow s (countUe s r f o) := by
  unfold countUe
  extract_lets k counted n
  have hcounted : CutsGrow s counted := .of_part rfl
  clear_value counted
  split
  · exact hcounted.trans (failPc_cuts ..)
  · exact hcounted

theorem loseFrame_cuts (s : State) (r f o : Nat) : CutsGrow s (loseFrame s r f o) :=
  ((CutsGrow.refl s).updRegion ..).trans (errRegion_cuts ..)

theorem readHalf_cuts (s : State) (r f o : Nat) (lapLocal : Bool) : CutsGrow s (readHalf s r f o lapLocal).1 := by
  unfold readHalf
  extract_lets h failed counted rebuilt
  have hcounted : CutsGrow s counted := by
    dsimp only [counted]
    split
    · exact countUe_cuts ..
    · exact .refl s
  clear_value counted
  split
  · exact .refl s
  · split
    · exact .of_part rfl
    · split
      · exact .refl s
      · split
        · exact hcounted
        · split
          · exact hcounted.trans (loseFrame_cuts ..)
          · exact ((hcounted.fput ..).updRegion ..).trans (errRegion_cuts ..)

theorem checkLines_cuts (s : State) (r f : Nat) (lapLocal : Bool) (ls : List Nat) : CutsGrow s (checkLines s r f lapLocal ls) := by
  unfold checkLines
  split
  · exact .refl s
  · exact .foldl (fun _ _ => readHalf_cuts ..) _ _

/-! ## Writes to memory (R54, R58, R61) -/

/-- Where a write is done, the list of cuts has only grown. -/
def wrGrows (s : State) : WrRes → Prop
  | .ok t => CutsGrow s t
  | _ => True

/-- Where a unit's write is done, the list of cuts has only grown. -/
def unitGrows (s : State) : UnitWr → Prop
  | .ok t => CutsGrow s t
  | _ => True

theorem CutsGrow.wrGrows {s t : State} {w : WrRes} (h : CutsGrow s t) (hw : wrGrows t w) : wrGrows s w := by
  cases w with
  | ok u => exact h.trans hw
  | wait => trivial
  | excess kind declared => trivial

theorem copyLine_cuts (s : State) (b line o n slot : Nat) : CutsGrow s (copyLine s b line o n slot).1 := by
  unfold copyLine
  extract_lets t kind ws bad fixes fixed
  have hfixed : fixed.part = s.part := by
    dsimp only [fixed]
    split
    · unfold fixStore; split <;> rfl
    · rfl
  clear_value fixed
  dsimp only
  split
  · exact .of_part hfixed
  · exact (errRegion_cuts ..).since hfixed

theorem writeLine_cuts (s : State) (b line o slot : Nat) (bs : Bytes) : wrGrows s (writeLine s b line o slot bs) := by
  unfold writeLine
  extract_lets x fresh m y ep mine excess data copied held
  have hheld : CutsGrow s held := (copyLine_cuts ..).updBlock ..
  clear_value held excess
  split
  · exact CutsGrow.of_part rfl
  · split
    · extract_lets joined
      have hjoined : joined.part = s.part := by
        dsimp only [joined]
        split <;> rfl
      exact CutsGrow.of_part hjoined
    · split
      · trivial
      · split
        · trivial
        · exact hheld.updTask ..

theorem writeBs_cuts (s : State) (b slot fuel off : Nat) (bs : Bytes) : wrGrows s (writeBs s b slot fuel off bs) := by
  induction fuel generalizing s off bs with
  | zero => exact CutsGrow.refl s
  | succ fuel ih =>
    unfold writeBs
    split
    · exact CutsGrow.refl s
    · extract_lets k
      have hline := writeLine_cuts s b (off / 128) (off % 128) slot (bs.take k)
      cases hw : writeLine s b (off / 128) (off % 128) slot (bs.take k) with
      | ok t =>
        rw [hw] at hline
        exact CutsGrow.wrGrows hline (ih ..)
      | wait => trivial
      | excess kind declared => trivial

theorem ensureHeld_cuts (s : State) (r page slot : Nat) (own : Bool) : wrGrows s (ensureHeld s r page slot own) := by
  unfold ensureHeld
  extract_lets e ep settled folded e' task
  have hfolded : CutsGrow s folded :=
    ((foldFinal_cuts settled r page).since rfl).trans (.of_part (readSystem_part ..))
  clear_value folded task
  split
  · exact CutsGrow.refl s
  · split
    · exact CutsGrow.of_part rfl
    · cases task with
      | some k =>
        dsimp only
        split
        · trivial
        · split
          · trivial
          · rename_i hdrawn
            exact ((hfolded.trans (drawFrame_cuts hdrawn)).updRegion ..).updTask ..
      | none =>
        dsimp only
        split
        · trivial
        · rename_i hdrawn
          exact (hfolded.trans (drawFrame_cuts hdrawn)).updRegion ..

theorem readTables_part (s : State) (r : Nat) : (readTables s r).part = s.part := by
  simp only [readTables, readSystem_part]

theorem writePage_cuts (s : State) (r page off slot : Nat) (own : Bool) (bs : Bytes) : wrGrows s (writePage s r page off slot own bs) := by
  unfold writePage
  extract_lets read e
  have hread : read.part = s.part := readTables_part ..
  clear_value read
  split
  · exact CutsGrow.of_part hread
  · have hheld := ensureHeld_cuts read r page slot own
    cases hw : ensureHeld read r page slot own with
    | ok t =>
      rw [hw] at hheld
      dsimp only
      split
      · exact ((CutsGrow.since hheld hread).trans (checkLines_cuts ..)).updRegion ..
      · trivial
    | wait => trivial
    | excess kind declared => trivial

theorem writeHbm_cuts (s : State) (r slot : Nat) (own : Bool) (fuel page off : Nat) (bs : Bytes) :
    wrGrows s (writeHbm s r slot own fuel page off bs) := by
  induction fuel generalizing s page off bs with
  | zero => exact CutsGrow.refl s
  | succ fuel ih =>
    unfold writeHbm
    split
    · exact CutsGrow.refl s
    · extract_lets k
      have hpage := writePage_cuts s r page off slot own (bs.take k)
      cases hw : writePage s r page off slot own (bs.take k) with
      | ok t =>
        rw [hw] at hpage
        exact CutsGrow.wrGrows hpage (ih ..)
      | wait => trivial
      | excess kind declared => trivial

theorem writePlace_cuts (s : State) (core : Option Nat) (slot : Nat) (bs : Bytes) (p : Place) : unitGrows s (writePlace s core slot bs p) := by
  unfold writePlace
  extract_lets done
  have hdone (w : WrRes) (h : wrGrows s w) : unitGrows s (done w) := by
    cases w <;> exact h
  cases p with
  | cs v off => exact CutsGrow.of_part rfl
  | bs b off =>
    dsimp only
    split
    · trivial
    · exact hdone _ (writeBs_cuts ..)
  | hbm r page off => exact hdone _ (writeHbm_cuts ..)
  | host h => exact CutsGrow.of_part ((hostWrite_part ..).trans (hostTouch_part ..))
  | nowhere => exact CutsGrow.refl s

/-! ## Reads that note their reader (R61, R485, R538) -/

theorem noteBsRead_cuts (s : State) (b off n : Nat) (slot : Option Nat) : CutsGrow s (noteBsRead s b off n slot) := by
  unfold noteBsRead
  extract_lets ls cleared counted
  have hcounted : CutsGrow s counted := .of_part rfl
  clear_value counted
  split
  · exact hcounted.trans (.foldl (fun t l => (CutsGrow.refl t).updTask ..) _ _)
  · exact hcounted

theorem noteHbmRead_cuts (s : State) (r : Nat) (slot : Option Nat) (fuel page off n : Nat) :
    CutsGrow s (noteHbmRead s r slot fuel page off n) := by
  induction fuel generalizing s page off n with
  | zero => exact .refl s
  | succ fuel ih =>
    unfold noteHbmRead
    split
    · exact .refl s
    · extract_lets k e counted noted
      refine CutsGrow.trans (t := noted) (.of_part ?_) (ih ..)
      dsimp only [noted]
      (repeat' split) <;> rfl

theorem hostFetch_part (s : State) (h n : Nat) : (hostFetch s h n).part = s.part := by
  obtain ⟨x, k, heq⟩ := trkInput_eq (hostTouch s h n) 1 hostRegion h (hostRead s h n)
  rw [hostFetch, heq]
  exact hostTouch_part ..

theorem notePlace_cuts (s : State) (slot n : Nat) (p : Place) : CutsGrow s (notePlace s slot n p) := by
  cases p with
  | bs b off => exact noteBsRead_cuts ..
  | hbm r page off => exact noteHbmRead_cuts ..
  | host h => exact .of_part (hostFetch_part ..)
  | cs v off => exact .refl s
  | nowhere => exact .refl s

theorem dmaConflict_part (s : State) (e : DmaEng) (p : Place) : (dmaConflict s e p).part = s.part := by
  cases p <;> rfl

/-! ## A channel that stops or is aborted (R338, R339, R341) -/

theorem setChan_part (s : State) (e : DmaEng) (ch : Nat) (x : DmaChan) : (setChan s e ch x).part = s.part := by
  cases e <;> rfl

theorem chPut_part (s : State) (fb fr : Fld) (e : DmaEng) (ch v : Nat) : (chPut s fb fr e ch v).part = s.part := by
  cases e <;> rfl

theorem freeRegionChan_part (s : State) (e : DmaEng) (ch : Nat) : (freeRegionChan s e ch).part = s.part := by
  unfold freeRegionChan
  split
  · split <;> rfl
  · rfl

theorem writeEntry_cuts (s : State) (e : DmaEng) (ch i w : Nat) : CutsGrow s (writeEntry s e ch i w) := by
  unfold writeEntry
  extract_lets p
  have hconflict : (dmaConflict s e p).part = s.part := dmaConflict_part ..
  have hwrite := writePlace_cuts (dmaConflict s e p) none (chSlot s e ch) (natLe 64 w) p
  split
  · rename_i t ht
    rw [ht] at hwrite
    exact (CutsGrow.since hwrite hconflict).trans (.of_part (setChan_part ..))
  · exact .of_part (setChan_part ..)

theorem stopChan_cuts (s : State) (e : DmaEng) (ch w kind dir addr space delivered : Nat) :
    CutsGrow s (stopChan s e ch w kind dir addr space delivered) := by
  unfold stopChan
  extract_lets closed idle kinded directed addressed spaced link
  refine ((writeEntry_cuts ..).since (freeRegionChan_part ..)).trans (t := closed) (.of_part ?_)
  simp only [spaced, addressed, directed, kinded, idle, setChState, updChan, chPut_part, setChan_part]

theorem touchEntry_cuts (s : State) (e : DmaEng) (ch i : Nat) : CutsGrow s (touchEntry s e ch i) :=
  (notePlace_cuts ..).trans (.of_part (dmaConflict_part ..))

theorem abortRing_cuts (e : DmaEng) (ch n i : Nat) (s : State) (acc : List (Nat × Nat)) : CutsGrow s (abortRing e ch n i s acc).1 := by
  induction n generalizing i s acc with
  | zero => exact .refl s
  | succ n ih =>
    unfold abortRing
    dsimp only
    split
    · exact .refl s
    · split
      · exact (touchEntry_cuts ..).trans (ih ..)
      · exact ((touchEntry_cuts ..).trans (writeEntry_cuts ..)).trans (ih ..)

theorem tumSetCount_cuts (s : State) (t : TumRef) (v : Nat) : CutsGrow s (tumSetCount s t v) :=
  ((tumPut_staysCut ..).trans (tumRetest_staysCut ..)).cuts

theorem setForSig_cuts (e : DmaEng) (s : State) (w : Nat) : CutsGrow s (setForSig e s w) := by
  unfold setForSig
  split
  · extract_lets t
    clear_value t
    split
    · exact .refl s
    · exact tumSetCount_cuts ..
  · exact .refl s

theorem abortChan_cuts (s : State) (e : DmaEng) (ch : Nat) : CutsGrow s (abortChan s e ch) := by
  unfold abortChan
  split
  · exact .refl s
  · extract_lets i failed r set headed
    have hset : CutsGrow s set := (abortRing_cuts ..).trans (.foldl (setForSig_cuts e) _ _)
    refine hset.trans (.of_part ?_)
    simp only [headed, setChState, setChHead, updChan, chPut_part, setChan_part]

/-! ## A unit that halts (R146, R147, R357, R361) -/

theorem postHalt_cuts (s : State) (u rec task action : Nat) : CutsGrow s (postHalt fence s u rec task action) :=
  (postHalt_staysCut fence_staysCut ..).cuts

theorem loseEngine_since (s : State) (detail e : Nat) : CutsGrow (fence s detail 3 e) (loseEngine s detail e) := by
  unfold loseEngine
  dsimp only
  split
  · exact (errRegion_cuts ..).trans (errRegion_cuts ..)
  · exact errRegion_cuts ..

theorem loseEngine_cuts (s : State) (detail e : Nat) : CutsGrow s (loseEngine s detail e) :=
  (fence_staysCut ..).cuts.trans (loseEngine_since ..)

theorem handleHalt_cuts (s : State) (u reason rec task : Nat) : CutsGrow s (handleHalt s u reason rec task) := by
  unfold handleHalt
  extract_lets counted c posted again noted repeated
  have hnoted : CutsGrow s noted := (postHalt_cuts s ..).trans (.of_part rfl)
  clear_value noted again repeated
  split
  · exact postHalt_cuts ..
  · split
    · split
      · exact hnoted.trans (loseEngine_cuts ..)
      · exact hnoted
    · split
      · exact postHalt_cuts ..
      · split
        · exact (postHalt_cuts ..).trans (fence_staysCut ..).cuts
        · exact (postHalt_cuts ..).since rfl

theorem tumDrop_cuts (s : State) (u : Nat) : CutsGrow s (tumDrop s u) := by
  unfold tumDrop
  split
  · dsimp only
    split
    · exact (tumPut_staysCut ..).cuts
    · exact ((tumPut_staysCut ..).trans (tumRetest_staysCut ..)).cuts
  · exact .refl s

theorem haltUnit_cuts (s : State) (u reason engine pc detail : Nat) : CutsGrow s (haltUnit s u reason engine pc detail) := by
  unfold haltUnit
  extract_lets c depth slot task gid idx w halted mark marked
  have hhalted : CutsGrow s halted := ((tumDrop_cuts s u).trans (vecHeld_staysCut ..).cuts).trans (.of_part rfl)
  exact (hhalted.trans (t := halted) (.of_part rfl)).trans (handleHalt_cuts marked ..)

theorem haltOwner_cuts (s : State) (e : DmaEng) (ch reason detail : Nat) : CutsGrow s (haltOwner s e ch reason detail) := by
  unfold haltOwner
  split
  · split
    · exact haltUnit_cuts ..
    · exact .refl s
  · exact .refl s

/-! ## A transfer that fails (R338, R339) -/

theorem postFail_cuts (s : State) (e : DmaEng) (ch kind : Nat) : CutsGrow s (postFail s e ch kind) := by
  cases e with
  | blk b => exact (errBlock_staysCut ..).cuts
  | rgn r => exact errRegion_cuts ..

theorem noteBadAddr_cuts (s : State) (e : DmaEng) (ch kind addr space : Nat) : CutsGrow s (noteBadAddr s e ch kind addr space) := by
  unfold noteBadAddr
  split
  · split
    · exact (CutsGrow.refl s).updTask ..
    · exact .refl s
  · exact .refl s

theorem noteHostFail_cuts (s : State) (e : DmaEng) (ch w addr : Nat) : CutsGrow s (noteHostFail s e ch w addr) := by
  unfold noteHostFail
  extract_lets host ended
  have hended : ended.part = s.part := setChan_part ..
  clear_value ended
  split
  · exact .refl s
  · split
    · exact .of_part (setChan_part ..)
    · split <;> exact .of_part hended

theorem failTransfer_cuts (s : State) (e : DmaEng) (ch w kind dir addr space delivered : Nat) :
    CutsGrow s (failTransfer s e ch w kind dir addr space delivered) := by
  unfold failTransfer
  extract_lets noted
  have hnoted : CutsGrow s noted := ((stopChan_cuts ..).trans (postFail_cuts ..)).trans (noteBadAddr_cuts ..)
  clear_value noted
  split
  · exact (hnoted.trans (haltOwner_cuts ..)).trans (abortChan_cuts ..)
  · exact hnoted.trans (((setForSig_cuts e _ w).trans (noteHostFail_cuts ..)).since rfl)

theorem failSegment_cuts (s : State) (x : SegOut) (kind : Nat) : CutsGrow s (failSegment s x kind) := by
  unfold failSegment
  split
  · exact .of_part rfl
  · exact failTransfer_cuts ..

/-! ## The port itself (R459) -/

theorem downPort_cuts (s : State) (p : Nat) : CutsGrow s (downPort s p) := by
  unfold downPort
  extract_lets segs due others emptied links unrouted link down
  have hdown : CutsGrow s down := .of_part rfl
  clear_value down
  exact (hdown.trans (.foldl (fun t g => failSegment_cuts ..) _ _)).trans (.foldl (fun t e => sendControls_cuts ..) _ _)

theorem failPort_cuts (s : State) (p : Nat) : CutsGrow s (failPort s p) := (downPort_cuts s p).trans (errRegion_cuts ..)

end Sys2Proof.Machine
end

section
/-! Liveness, deadbolts, region resets, error queues, bridges, pins and sensors (R24, R27, R40, R98, R290, R499, R502 to R505, R515, R519, R522,
R590). -/

namespace Sys2Proof.Machine

/-! ## Polls and heartbeats (R502) -/

theorem livenessPoll_unwatched {s : State} {u : PolledUnit} (a : Bool) (h : watched s u = false) : livenessPoll s u a = s := by
  simp [livenessPoll, h]

/-- A unit with a number of polls missed in a row. -/
def pollsMissed (s : State) (u : PolledUnit) (n : Nat) : State :=
  updPart s fun p => { p with missedPolls := tabSet 0 p.missedPolls (pollKey u) n }

/-- A unit with a number of heartbeats missed in a row. -/
def beatsMissed (s : State) (u : PolledUnit) (n : Nat) : State :=
  updPart s fun p => { p with missedBeats := tabSet 0 p.missedBeats (pollKey u) n }

/-- The misses of a unit that answers are forgotten. -/
def forgiven (s : State) (u : PolledUnit) : State := beatsMissed (pollsMissed s u 0) u 0

theorem livenessPoll_answered {s : State} {u : PolledUnit} (h : watched s u = true) : livenessPoll s u true = checkBlock (forgiven s u) u := by
  simp [livenessPoll, h, forgiven, beatsMissed, pollsMissed, updPart]

theorem livenessPoll_missed {s : State} {u : PolledUnit} (h : watched s u = true) : livenessPoll s u false = missOne s u := by
  simp [livenessPoll, h]

/-- Where no check of a block has failed, an answer does no more (R507). -/
theorem livenessPoll_sound {s : State} {u : PolledUnit} (h : watched s u = true) (hsound : ∀ b, u = .block b → failedChecks s b = []) :
    livenessPoll s u true = forgiven s u := by
  rw [livenessPoll_answered h]
  cases u with
  | block b =>
    have hchecks : failedChecks (forgiven s (.block b)) b = [] := hsound b rfl
    simp only [checkBlock, hchecks]
  | core _ | region _ | engine _ | controlCore _ => rfl

/-- The first failed check of a block that answers is reported, and deadbolts it (R507, R516). -/
theorem livenessPoll_failed {s : State} {b n : Nat} {rest : List Nat} (h : watched s (.block b) = true) (hfailed : failedChecks s b = n :: rest) :
    let t := forgiven s (.block b)
    livenessPoll s (.block b) true =
      fenceBlock (errRegion t (b / 8) (errRecord t 1 2 0x05 b 1 2 (Config.subUnitCode n))) byRegion b := by
  have hchecks : failedChecks (forgiven s (.block b)) b = n :: rest := hfailed
  rw [livenessPoll_answered h]
  simp only [checkBlock, hchecks]

theorem missOne_poll_first {s : State} {u : PolledUnit} (hb : beats u = false) (h : tabGet 0 s.part.missedPolls (pollKey u) = 0) :
    missOne s u = pollsMissed s u 1 := by
  simp [missOne, hb, h, pollsMissed]

theorem missOne_poll_again {s : State} {u : PolledUnit} (hb : beats u = false) (h : 1 ≤ tabGet 0 s.part.missedPolls (pollKey u)) :
    missOne s u = noResponse (pollsMissed s u 0) u := by
  simp [missOne, hb, Nat.succ_le_succ h, pollsMissed]

theorem missOne_beat_first {s : State} {u : PolledUnit} (hb : beats u = true) (h : tabGet 0 s.part.missedBeats (pollKey u) = 0) :
    missOne s u = beatsMissed s u 1 := by
  simp [missOne, hb, h, beatsMissed]

theorem missOne_beat_again {s : State} {u : PolledUnit} (hb : beats u = true) (h : 1 ≤ tabGet 0 s.part.missedBeats (pollKey u)) :
    missOne s u = noResponse (beatsMissed s u 0) u := by
  simp [missOne, hb, Nat.succ_le_succ h, beatsMissed]

theorem heartbeatMiss_eq_missOne {s : State} {u : PolledUnit} (hb : beats u = true) (hw : watched s u = true) (hs : inService s = true) :
    heartbeatMiss s u = missOne s u := by
  simp [heartbeatMiss, hb, hw, hs]

theorem heartbeatMiss_idle {s : State} {u : PolledUnit} (h : beats u = false ∨ watched s u = false ∨ inService s = false) :
    heartbeatMiss s u = s := by
  rcases h with h | h | h <;> simp [heartbeatMiss, h]

theorem noResponse_region {s : State} {r : Nat} (h : isCut s 2 r = false) : noResponse s (.region r) =
    errPart (elect (fence s byPart 2 r)) (errRecord (elect (fence s byPart 2 r)) 2 3 0x12 r 2 2 0) := by
  simp [noResponse, regionFailed, regionOut, h]

/-! ## Self-test (R503) -/

theorem selfTest_quarantined {s : State} {c : Nat} (f : Option Nat) (hq : (getCore s c).quarantined = true) (hcut : isCut s 0 c = false)
    (hpresent : corePresent s c = true) : selfTest s c f = match f with
      | none => updCore s c fun x => { x with quarantined := false }
      | some k => fence (errBlock s (c / 8) (errRecord s 0 1 0x02 c 0 2 k)) byBlock 0 c := by
  cases f <;> simp [selfTest, hq, hcut, hpresent]

theorem selfTest_idle {s : State} {c : Nat} (f : Option Nat)
    (h : (getCore s c).quarantined = false ∨ isCut s 0 c = true ∨ corePresent s c = false) : selfTest s c f = s := by
  rcases h with h | h | h <;> simp [selfTest, h]

/-! ## Deadbolts (R27, R290, R505) -/

theorem exec_deadboltCmd (s : State) (v : Word) :
    exec (.deadboltCmd v) s = .next (deadboltCmd s byPart (v.toNat % 16) (v.toNat / 16 % 4096)) := by
  have hkind : nbits v.toNat 0 4 = v.toNat % 16 := by simp [nbits]
  have hunit : nbits v.toNat 4 12 = v.toNat / 16 % 4096 := rfl
  rw [← hkind, ← hunit]
  rfl

theorem deadboltCmd_rejected {s : State} {kind unit : Nat} (detail : Nat)
    (h : unitPresent s kind unit = false ∨ isCut s kind unit = true ∨ regionAlive s (kindRegion kind unit) = false) :
    deadboltCmd s detail kind unit = fput s fPART_DEADBOLT_STATUS_REJECTED 0 0 1 := by
  rcases h with h | h | h <;> simp [deadboltCmd, alreadyCut, h]

theorem deadboltCmd_applied {s : State} {kind unit : Nat} (detail : Nat) (hpresent : unitPresent s kind unit = true)
    (hcut : isCut s kind unit = false) (halive : regionAlive s (kindRegion kind unit) = true) :
    deadboltCmd s detail kind unit = deadboltUnit s detail kind unit := by
  simp [deadboltCmd, alreadyCut, hpresent, hcut, halive]

theorem fenceBlock_since {s : State} {b : Nat} (detail : Nat) (h : isCut s 1 b = false) :
    CutsGrow (fence s detail 1 b) (fenceBlock s detail b) := by
  unfold fenceBlock blockCut
  dsimp only
  rw [if_neg (by simp [h])]
  split
  · exact errRegion_cuts ..
  · exact .refl _

theorem regionFailed_cuts (s : State) (r : Nat) : CutsGrow s (regionFailed s r) := by
  unfold regionFailed
  split
  · exact .refl s
  · exact (regionOut_staysCut fence_staysCut ..).cuts

/-- A deadbolt of a unit that is present and not yet cut begins the unit's cut, whatever else it brings with it. -/
theorem deadboltUnit_cuts {s : State} {kind unit : Nat} (detail : Nat) (hpresent : unitPresent s kind unit = true)
    (hcut : isCut s kind unit = false) : CutsGrow (cutBegun s kind unit) (deadboltUnit s detail kind unit) := by
  have hfence := fence_cuts detail hcut
  match kind with
  | 0 => exact hfence
  | 1 => exact hfence.trans (fenceBlock_since detail hcut)
  | 2 => exact hfence.trans (elect_staysCut _).cuts
  | 3 => exact hfence.trans (loseEngine_since ..)
  | 4 =>
    show CutsGrow _ (if (getRegion (fence s detail 4 unit) (unit / 4)).ctlFailed = 15 then regionFailed _ _ else fence s detail 4 unit)
    split
    · exact hfence.trans (regionFailed_cuts ..)
    · exact hfence
  | 5 =>
    show CutsGrow _ (if portState (fence s detail 5 unit) (unit / 8) = 0 then fence s detail 5 unit else failPort _ _)
    split
    · exact hfence
    · exact hfence.trans (failPort_cuts ..)
  | _ + 6 => cases hpresent

theorem isSE_of_corePresent {s : State} {c : Nat} (h : corePresent s c = true) : isSE c = false := by
  simp only [corePresent, Bool.and_eq_true, decide_eq_true_eq] at h
  simpa [isSE] using h.1.2

theorem cutComplete_none {s : State} (h : s.part.cutUnits = []) : cutComplete s = s := by
  simp only [cutComplete, h]

theorem cutComplete_oldest {s : State} {e : Nat × Nat} {rest : List (Nat × Nat)} (h : s.part.cutUnits = e :: rest) :
    cutComplete s = fput (updPart s fun p => { p with cutUnits := rest }) fPART_DEADBOLT_STATUS_DONE 0 0 1 := by
  simp only [cutComplete, h]

/-! ## Region reset (R519) -/

theorem exec_partRegionReset (s : State) (v : Word) :
    exec (.partRegionReset v) s = .next (if v.getLsbD 3 then partRegionReset s byPart (v.toNat % 8) else s) := by
  have hregion : nbits v.toNat 0 3 = v.toNat % 8 := by simp [nbits]
  rw [← hregion, ← nbit_eq_getLsbD]
  rfl

theorem partRegionReset_idle {s : State} {r : Nat} (detail : Nat) (h : regionPresent s r = false ∨ (getRegion s r).resetting = true) :
    partRegionReset s detail r = s := by
  rcases h with h | h <;> simp [partRegionReset, h]

theorem partRegionReset_resets {s : State} {r : Nat} (detail : Nat) (hpresent : regionPresent s r = true) (h : (getRegion s r).resetting = false) :
    partRegionReset s detail r = resetRegion (if isCut s 2 r then s else elect (fence s detail 2 r)) r := by
  simp [partRegionReset, hpresent, h]

/-- What holds of an unlisted key and of every entry at a key holds of what the table gives there. -/
theorem tabGet_of_all {α : Type} {d : α} {Q : α → Prop} {t : Tab α} {k : Nat} (hd : Q d) (h : ∀ e ∈ t, e.1 = k → Q e.2) : Q (tabGet d t k) := by
  induction t with
  | nil => exact hd
  | cons e t ih =>
    obtain ⟨k', v⟩ := e
    unfold tabGet
    split
    · exact h (k', v) (by simp) ‹_›
    · exact ih fun e he => h e (by simp [he])

theorem getRegion_resetRegion (s : State) (r : Nat) : getRegion (resetRegion s r) r =
    { clearLapLocalPages (getRegion s r) with
      tums := resetTums (getRegion s r).tums, dma := [], ind := [], resend := [], resetting := true, readmit := false, rolledBack := false } :=
  getRegion_updRegion_self ..

/-- A tumbler of a region that was reset keeps its consumer record alone (R510). -/
theorem tumGet_resetRegion (s : State) (r n : Nat) : { tumGet (resetRegion s r) ⟨true, r, n⟩ with sigs := [] } = tumReset := by
  show { tabGet tumReset (getRegion (resetRegion s r) r).tums n with sigs := [] } = tumReset
  rw [getRegion_resetRegion]
  refine tabGet_of_all (Q := fun x : Tumbler => { x with sigs := [] } = tumReset) rfl fun e he _ => ?_
  obtain ⟨e', _, rfl⟩ := List.mem_map.mp (List.mem_of_mem_filter he)
  rfl

theorem getCore_resetRegion {s : State} {r c : Nat} (hc : c < 512) (hr : c / 64 = r) :
    (getCore (resetRegion s r) c).seq = seqReset ∧ (getCore (resetRegion s r) c).store = [] ∧ (getCore (resetRegion s r) c).task = none := by
  refine tabGet_of_all (Q := fun x : Core => x.seq = seqReset ∧ x.store = [] ∧ x.task = none) ⟨rfl, rfl, rfl⟩ fun e he hk => ?_
  obtain ⟨e', _, rfl⟩ := List.mem_map.mp (List.mem_of_mem_filter he)
  have hkey : e'.1 = c := by rw [← hk]; split <;> rfl
  rw [if_pos (by simp [hkey, isSE, hc, hr])]
  exact ⟨rfl, rfl, rfl⟩

theorem getBlock_resetRegion {s : State} {r b : Nat} (hr : b / 8 = r) :
    (getBlock (resetRegion s r) b).bs = [] ∧ (getBlock (resetRegion s r) b).sb = [] := by
  refine tabGet_of_all (Q := fun x : Block => x.bs = [] ∧ x.sb = []) ⟨rfl, rfl⟩ fun e he hk => ?_
  obtain ⟨e', _, rfl⟩ := List.mem_map.mp (List.mem_of_mem_filter he)
  have hkey : e'.1 = b := by rw [← hk]; split <;> rfl
  rw [if_pos (by simp [hkey, hr])]
  exact ⟨rfl, rfl⟩

theorem resetComplete_resetting {s : State} {r : Nat} (passed : Bool) (h : (getRegion s r).resetting = true) :
    resetComplete s r passed = updRegion s r fun x => { x with resetting := false, builtInPassed := passed, readmit := passed } := by
  simp [resetComplete, h]

theorem resetComplete_idle {s : State} {r : Nat} (passed : Bool) (h : (getRegion s r).resetting = false) : resetComplete s r passed = s := by
  simp [resetComplete, h]

/-! ## Error queues (R508, R522) -/

/-- Whether a queue's unit is there and alive. -/
def queueLive (s : State) : QueueId → Bool
  | .blk b => blockAlive s b
  | .rgn r => regionAlive s r
  | .part => true

theorem errqPop_empty {s : State} {q : QueueId} (h : (queueOf s q).recs = []) : errqPop s q = s := by
  simp [errqPop, h]

theorem errqPop_live {s : State} {q : QueueId} {x : Nat} {rest : List Nat} (h : (queueOf s q).recs = x :: rest) (hlive : queueLive s q = true) :
    errqPop s q = updQueue s q popQ := by
  cases q <;> simp_all [errqPop, queueLive]

theorem popQ_cons {q : ErrQ} {x : Nat} {rest : List Nat} (h : q.recs = x :: rest) :
    popQ q = { q with recs := rest, handling := !rest.isEmpty } := by
  cases rest <;> simp [popQ, h]

theorem queueOf_updQueue_self (s : State) (q : QueueId) (f : ErrQ → ErrQ) : queueOf (updQueue s q f) q = f (queueOf s q) := by
  cases q with
  | blk b => simp [queueOf, updQueue]
  | rgn r => simp [queueOf, updQueue]
  | part => rfl

theorem queueOf_updQueue_ne (s : State) {p q : QueueId} (f : ErrQ → ErrQ) (h : p ≠ q) : queueOf (updQueue s q f) p = queueOf s p := by
  cases q with
  | blk b =>
    cases p with
    | blk a => exact congrArg Block.errq (getBlock_updBlock_ne s _ fun hab => h (hab ▸ rfl))
    | rgn _ | part => rfl
  | rgn r =>
    cases p with
    | rgn a => exact congrArg Region.errq (getRegion_updRegion_ne s _ fun hab => h (hab ▸ rfl))
    | blk _ | part => rfl
  | part =>
    cases p with
    | part => exact absurd rfl h
    | blk _ | rgn _ => rfl

theorem updQueue_frame (s : State) (q : QueueId) (f : ErrQ → ErrQ) :
    updQueue s q f = { s with
      blocks := (updQueue s q f).blocks, regions := (updQueue s q f).regions, part := (updQueue s q f).part } := by
  cases q <;> rfl

/-! ## Bridges (R24, R40) -/

theorem bridgeFailed_idle {s : State} {b : Nat} (h : 12 ≤ b ∨ bridgeState s b = 1 ∨ bridgeState s b = 3) : bridgeFailed s b = s := by
  simp [bridgeFailed, h]

theorem bridgeFailed_drops {s : State} {b : Nat} (hb : b < 12) (h1 : bridgeState s b ≠ 1) (h3 : bridgeState s b ≠ 3) :
    let t := fbump s fPART_BRIDGE_STATUS_FAILURES 0 b 1
    bridgeFailed s b = dropBridge (errPart t (errRecord t 2 3 0x10 b 7 6 0)) b 1 := by
  simp [bridgeFailed, h1, h3, Nat.not_le.mpr hb]

theorem exec_bridgeEnable (s : State) (v : Word) : exec (.bridgeEnable v) s = .next (bridgeEnable s (v.getLsbD 0)) := by
  rw [← nbit_eq_getLsbD]
  rfl

/-- An enable: refused for a bridge that has failed or is absent, and it brings back one that was disabled (R24). -/
theorem bridgeEnable_on {s : State} {b : Nat} (hidx : fget s fPART_BRIDGE_IDX_BRIDGE 0 0 = b) (hb : b < 12) :
    bridgeEnable s true =
      let t := fput s fPART_BRIDGE_CFG_ENABLE 0 b 1
      if bridgeState s b = 1 ∨ bridgeState s b = 3 then fput s fPART_BRIDGE_STATUS_WRITE_REJECTED 0 0 1
      else if bridgeState s b = 2 then fput (fput t fPART_BRIDGE_STATUS_STATE 0 b 0) fPART_BRIDGE_STATUS_SERVICE_UP 0 b 1
      else t := by
  simp [bridgeEnable, hidx, Nat.not_le.mpr hb, b2n]

theorem bridgeEnable_off {s : State} {b : Nat} (hidx : fget s fPART_BRIDGE_IDX_BRIDGE 0 0 = b) (hb : b < 12) :
    bridgeEnable s false =
      let t := fput s fPART_BRIDGE_CFG_ENABLE 0 b 0
      if bridgeState s b = 0 then dropBridge t b 2 else t := by
  simp [bridgeEnable, hidx, Nat.not_le.mpr hb, b2n]

theorem mem_rangeFrom {lo n k : Nat} : k ∈ rangeFrom lo n ↔ lo ≤ k ∧ k < lo + n := by
  induction n generalizing lo with
  | zero => simp [rangeFrom]
  | succ n ih => simp only [rangeFrom, List.mem_cons, ih]; omega

/-- A bridge out of service. -/
def bridgeOut (s : State) (b st : Nat) : State :=
  fput (fput s fPART_BRIDGE_STATUS_STATE 0 b st) fPART_BRIDGE_STATUS_SERVICE_UP 0 b 0

theorem bridgeState_bridgeOut_ne (s : State) {b c : Nat} (st : Nat) (h : c ≠ b) : bridgeState (bridgeOut s b st) c = bridgeState s c := by
  unfold bridgeState bridgeOut
  rw [fget_fput_ne, fget_fput_ne]
  all_goals
    simp only [fldKey, fPART_BRIDGE_STATUS_STATE, fPART_BRIDGE_STATUS_SERVICE_UP, spaceIdx]
    omega

/-- A region that still reaches another over a bridge that is UP is not cut off (R24). -/
theorem reachesAny_of_up {s : State} {r c : Nat} (hc : c < 12) (hup : bridgeState s c = 0)
    (hends : (bridgeEnds c).1 = r ∧ regionAlive s (bridgeEnds c).2 = true ∨ (bridgeEnds c).2 = r ∧ regionAlive s (bridgeEnds c).1 = true) :
    reachesAny s r = true := by
  refine List.any_eq_true.mpr ⟨c, mem_rangeFrom.mpr (by omega), ?_⟩
  simpa [hup] using hends

theorem dropBridge_reached {s : State} {b : Nat} (st : Nat)
    (h : ∀ r < nRegions s, regionAlive s r = true → (bridgeEnds b).1 = r ∨ (bridgeEnds b).2 = r →
      ∃ c < 12, c ≠ b ∧ bridgeState s c = 0 ∧ ((bridgeEnds c).1 = r ∧ regionAlive s (bridgeEnds c).2 = true ∨
        (bridgeEnds c).2 = r ∧ regionAlive s (bridgeEnds c).1 = true)) :
    dropBridge s b st = bridgeOut s b st := by
  have hcut : (rangeFrom 0 (nRegions s)).filter (fun r => regionAlive s r && ((bridgeEnds b).1 == r || (bridgeEnds b).2 == r) &&
      !reachesAny (bridgeOut s b st) r) = [] := by
    refine List.filter_eq_nil_iff.mpr fun r hr hlost => ?_
    simp only [Bool.and_eq_true, Bool.or_eq_true, beq_iff_eq, Bool.not_eq_true'] at hlost
    obtain ⟨⟨halive, hend⟩, hlost⟩ := hlost
    obtain ⟨c, hc, hne, hup, hends⟩ := h r (by simpa using (mem_rangeFrom.mp hr).2) halive hend
    have hreach : reachesAny (bridgeOut s b st) r = true :=
      reachesAny_of_up hc ((bridgeState_bridgeOut_ne s st hne).trans hup) hends
    rw [hreach] at hlost
    cases hlost
  show ((rangeFrom 0 (nRegions s)).filter _).foldl regionFailed (bridgeOut s b st) = _
  exact (congrArg (List.foldl regionFailed (bridgeOut s b st)) hcut).trans rfl

/-! ## Sensors (R591) -/

theorem sensorSample_absent {s : State} {r i : Nat} (d : Int) (h : regionPresent s r = false ∨ 12 ≤ i) : sensorSample s r i d = s := by
  rcases h with h | h <;> simp [sensorSample, h]

theorem sensorSample_reading {s : State} {r i : Nat} (d : Int) (hr : regionPresent s r = true) (hi : i < 12) :
    sensorSample s r i d =
      let t := updRegion s r fun x => { x with sensors := tabSet 0 x.sensors i d }
      if d < 115 then t
      else { t with pins := { t.pins with thermtripN := false }, part := { t.part with thermTrip := true } } := by
  simp [sensorSample, hr, hi, updPart]

theorem next_congr {s t : State} (h : s = t) : (Host.Outcome.next s : Host.Outcome State Fault Refusal) = .next t := by rw [h]

/-- Settles O56: polls and heartbeats, failures and self-tests, deadbolts and region resets, error queues, bridges, and pins. -/
theorem faultsAndPins : Obligations.FaultsAndPins := by
  refine ⟨fun s u => ?_, fun s c => ?_, fun s v => ?_, fun s r ok => ⟨fun h => ?_, fun h => ?_⟩, fun s q => ⟨fun h => ?_, fun x rest h hlive => ?_⟩,
    fun s b => ?_, fun s => ?_⟩
  · refine ⟨fun a h => ?_, fun h => ⟨fun hsound => ?_, ?_⟩, fun h hb => ?_, fun h hb => ?_, fun h => ?_⟩
    · exact next_congr (livenessPoll_unwatched a h)
    · exact next_congr (livenessPoll_sound h hsound)
    · rintro b n rest rfl hfailed
      exact next_congr (livenessPoll_failed h hfailed)
    · have hmiss : exec (.livenessPoll u false) s = .next (missOne s u) := next_congr (livenessPoll_missed h)
      exact ⟨fun hfirst => hmiss.trans (next_congr (missOne_poll_first hb hfirst)),
        fun hagain => hmiss.trans (next_congr (missOne_poll_again hb hagain))⟩
    · have hmiss : exec (.livenessPoll u false) s = .next (missOne s u) := next_congr (livenessPoll_missed h)
      exact ⟨fun hfirst => hmiss.trans (next_congr (missOne_beat_first hb hfirst)),
        fun hagain => hmiss.trans (next_congr (missOne_beat_again hb hagain)),
        fun hs => (next_congr (heartbeatMiss_eq_missOne hb h hs)).trans hmiss.symm⟩
    · exact next_congr (heartbeatMiss_idle h)
  · refine ⟨rfl, rfl, noResponse_region, fun hq hcut hpresent => ⟨?_, fun k => ?_⟩, fun f h => ?_⟩
    · exact next_congr (selfTest_quarantined none hq hcut hpresent)
    · exact next_congr (selfTest_quarantined (some k) hq hcut hpresent)
    · exact next_congr (selfTest_idle f h)
  · intro kind unit
    simp only [exec_deadboltCmd, exec_partRegionReset]
    refine ⟨fun h => ?_, fun hpresent hcut halive => ⟨?_, ?_, fun hkind => ?_⟩, fun h => ?_, fun e rest h => ?_, fun h => ?_, ?_⟩
    · rw [deadboltCmd_rejected byPart h]
    · rw [deadboltCmd_applied byPart hpresent hcut halive]
    · obtain ⟨later, hlater⟩ := deadboltUnit_cuts byPart hpresent hcut
      exact ⟨later, by rw [← hlater]; simp [cutBegun, notify]⟩
    · rw [hkind] at hpresent hcut ⊢
      exact fence_core byPart (isSE_of_corePresent hpresent) hcut
    · exact next_congr (cutComplete_none h)
    · exact next_congr (cutComplete_oldest h)
    · rcases h with h | h
      · rw [h]; rfl
      · simp [partRegionReset_idle byPart h]
    · rintro r rfl hreset hpresent hfree
      rw [if_pos hreset, partRegionReset_resets byPart hpresent hfree]
      have hregion := getRegion_resetRegion (if isCut s 2 (v.toNat % 8) then s else elect (fence s byPart 2 (v.toNat % 8))) (v.toNat % 8)
      exact ⟨_, rfl, rfl, congrArg Region.resetting hregion, congrArg Region.llWritten hregion, tumGet_resetRegion _ _,
        congrArg Region.dma hregion, congrArg Region.rolledBack hregion, fun c hc hr => getCore_resetRegion hc hr, fun b hb => getBlock_resetRegion hb⟩
  · exact next_congr (resetComplete_resetting ok h)
  · exact next_congr (resetComplete_idle ok h)
  · exact next_congr (errqPop_empty h)
  · have hlive' : queueLive s q = true := by cases q <;> exact hlive
    refine ⟨_, next_congr (errqPop_live h hlive'), ?_, fun p hp => queueOf_updQueue_ne s popQ hp, updQueue_frame s q popQ⟩
    rw [queueOf_updQueue_self, popQ_cons h]
  · refine ⟨fun h => next_congr (bridgeFailed_idle h), fun hb h1 h3 => next_congr (bridgeFailed_drops hb h1 h3),
      fun v hidx hb => ?_, fun st _ _ hreached => dropBridge_reached st hreached⟩
    simp only [exec_bridgeEnable]
    refine ⟨fun hv h => ?_, fun hv h => ?_, fun hv h => ?_, fun hv h => ?_, fun hv h => ?_⟩
    all_goals rw [hv]
    · rw [bridgeEnable_on hidx hb, if_pos h]
    · rw [bridgeEnable_on hidx hb]; simp [h, b2n]
    · rw [bridgeEnable_on hidx hb]; simp [h, b2n]
    · rw [bridgeEnable_off hidx hb, if_pos h]; rfl
    · rw [bridgeEnable_off hidx hb, if_neg h]; rfl
  · refine ⟨fun r i d h => ?_, fun r i d hr hi => ⟨fun hd => ?_, fun hd => ?_⟩, fun _ => rfl, fun level hlevel => ?_, fun _ _ => rfl, fun _ _ => rfl⟩
    · exact next_congr (sensorSample_absent d h)
    · exact next_congr ((sensorSample_reading d hr hi).trans (if_pos hd))
    · exact next_congr ((sensorSample_reading d hr hi).trans (if_neg (by omega)))
    · show Host.Outcome.next { s with pins := { s.pins with paceReq := level % 4 } } = _
      rw [Nat.mod_eq_of_lt hlevel]

end Sys2Proof.Machine
end

section
/-! The lap sequence over every command (R46, R575): which commands may move the lap number or the phase of the lap, and where they move them to. -/

namespace Sys2Proof.Machine

/-- The commands that are not among those of `exec_kept`: they may write the fuses, the lap number or the phase of the lap. -/
def movesLap : Instr → Bool
  | .lapMark | .commitPoint | .firstIssue | .marker .. | .lapRefEdge _ | .powerGoodRise | .powerGoodFall | .perstN _
  | .listTimeout | .listDone _ | .ownerEnroll .. => true
  | _ => false

theorem exec_kept {c : Instr} (s : State) (h : movesLap c = false) : keptOut (exec c s) (kept s) := by
  cases c with
  | lapMark | commitPoint | firstIssue | marker | lapRefEdge | powerGoodRise | powerGoodFall | perstN | listTimeout | listDone | ownerEnroll =>
    simp [movesLap] at h
  | doorbellPoll => exact exec_doorbellPoll_kept s
  | lapCleanSend dst => exact exec_lapCleanSend_kept s dst
  | lapClean w => exact exec_lapClean_kept s w
  | planPoint => exact exec_planPoint_kept s
  | holdoverLimit => exact exec_holdoverLimit_kept s
  | taskStart u => exact exec_taskStart_kept s u
  | taskFinish u activeNs energyNj => exact exec_taskFinish_kept s u activeNs energyNj
  | frameWaitResume u m => exact exec_frameWaitResume_kept s u m
  | fillCopyComplete r frame => exact exec_fillCopyComplete_kept s r frame
  | fold r => exact exec_fold_kept s r
  | ptRecordWrite r => exact exec_ptRecordWrite_kept s r
  | ptUpdateRecord who r word1 => exact exec_ptUpdateRecord_kept s who r word1
  | nop u => exact exec_nop_kept s u
  | endTask u => exact exec_endTask_kept s u
  | loop u => exact exec_loop_kept s u
  | branch u => exact exec_branch_kept s u
  | branchIf u => exact exec_branchIf_kept s u
  | lrSet u => exact exec_lrSet_kept s u
  | lrAdd u => exact exec_lrAdd_kept s u
  | lrFromSum u => exact exec_lrFromSum_kept s u
  | sbPost u => exact exec_sbPost_kept s u
  | sbWait u => exact exec_sbWait_kept s u
  | sbRelease u => exact exec_sbRelease_kept s u
  | sbWaitFree u => exact exec_sbWaitFree_kept s u
  | tumSignal u => exact exec_tumSignal_kept s u
  | tumWait u => exact exec_tumWait_kept s u
  | fence u => exact exec_fence_kept s u
  | sumPost u => exact exec_sumPost_kept s u
  | halt u => exact exec_halt_kept s u
  | mac u => exact exec_mac_kept s u
  | macT u => exact exec_macT_kept s u
  | mtxLoad u => exact exec_mtxLoad_kept s u
  | drain u => exact exec_drain_kept s u
  | zero u => exact exec_zero_kept s u
  | batch u => exact exec_batch_kept s u
  | batchTimeout u => exact exec_batchTimeout_kept s u
  | vecNop u => exact exec_vecNop_kept s u
  | mov u => exact exec_mov_kept s u
  | add u => exact exec_add_kept s u
  | sub u => exact exec_sub_kept s u
  | mul u => exact exec_mul_kept s u
  | fma u => exact exec_fma_kept s u
  | vecMin u => exact exec_vecMin_kept s u
  | vecMax u => exact exec_vecMax_kept s u
  | abs u => exact exec_abs_kept s u
  | neg u => exact exec_neg_kept s u
  | cmpLt u => exact exec_cmpLt_kept s u
  | cmpLe u => exact exec_cmpLe_kept s u
  | cmpEq u => exact exec_cmpEq_kept s u
  | cmpNe u => exact exec_cmpNe_kept s u
  | sel u => exact exec_sel_kept s u
  | cvt u => exact exec_cvt_kept s u
  | srCvt u => exact exec_srCvt_kept s u
  | compress u => exact exec_compress_kept s u
  | expand u => exact exec_expand_kept s u
  | and u => exact exec_and_kept s u
  | or u => exact exec_or_kept s u
  | xor u => exact exec_xor_kept s u
  | shl u => exact exec_shl_kept s u
  | shr u => exact exec_shr_kept s u
  | rand u => exact exec_rand_kept s u
  | exp u => exact exec_exp_kept s u
  | log u => exact exec_log_kept s u
  | rcp u => exact exec_rcp_kept s u
  | rsqrt u => exact exec_rsqrt_kept s u
  | rowStart u => exact exec_rowStart_kept s u
  | redSum u => exact exec_redSum_kept s u
  | redMax u => exact exec_redMax_kept s u
  | sumExp u => exact exec_sumExp_kept s u
  | shiftedSq u => exact exec_shiftedSq_kept s u
  | normTap u => exact exec_normTap_kept s u
  | rowEnd u => exact exec_rowEnd_kept s u
  | scanStep u => exact exec_scanStep_kept s u
  | loadH u => exact exec_loadH_kept s u
  | storeH u => exact exec_storeH_kept s u
  | chunk u => exact exec_chunk_kept s u
  | hingeSubmit u => exact exec_hingeSubmit_kept s u
  | hingeWait u => exact exec_hingeWait_kept s u
  | hingeOperation b => exact exec_hingeOperation_kept s b
  | hingeComplete b => exact exec_hingeComplete_kept s b
  | dmaKick u => exact exec_dmaKick_kept s u
  | dmaWait u => exact exec_dmaWait_kept s u
  | moverStart u m => exact exec_moverStart_kept s u m
  | moverStop u m => exact exec_moverStop_kept s u m
  | rearm u m => exact exec_rearm_kept s u m
  | flush u m => exact exec_flush_kept s u m
  | takeBaton u m => exact exec_takeBaton_kept s u m
  | streamRun u m => exact exec_streamRun_kept s u m
  | streamBusError u m => exact exec_streamBusError_kept s u m
  | dmaCopy e ch => exact exec_dmaCopy_kept s e ch
  | dmaFill e ch => exact exec_dmaFill_kept s e ch
  | dmaSwap64 e ch => exact exec_dmaSwap64_kept s e ch
  | dmaComplete e ch => exact exec_dmaComplete_kept s e ch
  | dmaTransferError e ch kind write delivered => exact exec_dmaTransferError_kept s e ch kind write delivered
  | dmaTailWrite e tail => exact exec_dmaTailWrite_kept s e tail
  | resume e => exact exec_resume_kept s e
  | abort e => exact exec_abort_kept s e
  | haltClear c => exact exec_haltClear_kept s c
  | forceHalt c level fromBar0 => exact exec_forceHalt_kept s c level fromBar0
  | seHaltClear e => exact exec_seHaltClear_kept s e
  | seForceHalt e level fromBar0 => exact exec_seForceHalt_kept s e level fromBar0
  | engineReset e => exact exec_engineReset_kept s e
  | sbEntryWrite b hi value => exact exec_sbEntryWrite_kept s b hi value
  | oobClear c mask => exact exec_oobClear_kept s c mask
  | bsConfClearAll b => exact exec_bsConfClearAll_kept s b
  | tumSet region unit value => exact exec_tumSet_kept s region unit value
  | syncDumpStart => exact exec_syncDumpStart_kept s
  | syncDumpCancel => exact exec_syncDumpCancel_kept s
  | syncDumpDataRead => exact exec_syncDumpDataRead_kept s
  | graph ring => exact exec_graph_kept s ring
  | graphResolved graphId => exact exec_graphResolved_kept s graphId
  | ownerTable ring => exact exec_ownerTable_kept s ring
  | guardTable ring => exact exec_guardTable_kept s ring
  | hurdleTable ring => exact exec_hurdleTable_kept s ring
  | stopGraph ring => exact exec_stopGraph_kept s ring
  | nudge ring => exact exec_nudge_kept s ring
  | ringEnable side ring value => exact exec_ringEnable_kept s side ring value
  | ownerUpdateRecord word3 => exact exec_ownerUpdateRecord_kept s word3
  | bar2Write offset data => exact exec_bar2Write_kept s offset data
  | bar2WriteRelease => exact exec_bar2WriteRelease_kept s
  | bar2Read offset len => exact exec_bar2Read_kept s offset len
  | registerWrite who offset value => exact exec_registerWrite_kept s who offset value
  | fwFlagsWrite value => exact exec_fwFlagsWrite_kept s value
  | lapNumLoRead => exact exec_lapNumLoRead_kept s
  | measDataRead => exact exec_measDataRead_kept s
  | indDataRead who r => exact exec_indDataRead_kept s who r
  | indDataWrite who r value => exact exec_indDataWrite_kept s who r value
  | indTimeout who r write => exact exec_indTimeout_kept s who r write
  | flr => exact exec_flr_kept s
  | atsInvalidation addr len => exact exec_atsInvalidation_kept s addr len
  | writeOwner g => exact exec_writeOwner_kept s g
  | writeExchange g => exact exec_writeExchange_kept s g
  | writeResend g => exact exec_writeResend_kept s g
  | readOwner g => exact exec_readOwner_kept s g
  | readReply g => exact exec_readReply_kept s g
  | ledger g => exact exec_ledger_kept s g
  | signalFlit g name => exact exec_signalFlit_kept s g name
  | confirm w => exact exec_confirm_kept s w
  | confirmTimeout => exact exec_confirmTimeout_kept s
  | offer w => exact exec_offer_kept s w
  | decline w => exact exec_decline_kept s w
  | noRoute w => exact exec_noRoute_kept s w
  | probe w turnaroundPs => exact exec_probe_kept s w turnaroundPs
  | probeReply w nowPs => exact exec_probeReply_kept s w nowPs
  | probeInterval nowPs => exact exec_probeInterval_kept s nowPs
  | grandmasterTakeover => exact exec_grandmasterTakeover_kept s
  | lapRefHoldover => exact exec_lapRefHoldover_kept s
  | echo port roundTripPs turnaroundPs => exact exec_echo_kept s port roundTripPs turnaroundPs
  | nak port ack => exact exec_nak_kept s port ack
  | laneFailure port lane => exact exec_laneFailure_kept s port lane
  | retrainComplete port lanesGood => exact exec_retrainComplete_kept s port lanesGood
  | dzlPortEnable port enable => exact exec_dzlPortEnable_kept s port enable
  | retrain port => exact exec_retrain_kept s port
  | trainingComplete port lanesGood farId farPort delayPs => exact exec_trainingComplete_kept s port lanesGood farId farPort delayPs
  | trainingTimeout port => exact exec_trainingTimeout_kept s port
  | livenessPoll u answered => exact exec_livenessPoll_kept s u answered
  | heartbeatMiss u => exact exec_heartbeatMiss_kept s u
  | errqPop q => exact exec_errqPop_kept s q
  | selfTestComplete c failing => exact exec_selfTestComplete_kept s c failing
  | deadboltCmd value => exact exec_deadboltCmd_kept s value
  | deadboltCutComplete => exact exec_deadboltCutComplete_kept s
  | partRegionReset value => exact exec_partRegionReset_kept s value
  | regionResetComplete r passed => exact exec_regionResetComplete_kept s r passed
  | bridgeFailed b => exact exec_bridgeFailed_kept s b
  | bridgeEnable value => exact exec_bridgeEnable_kept s value
  | sensorSample r idx degrees => exact exec_sensorSample_kept s r idx degrees
  | shedNChange high => exact exec_shedNChange_kept s high
  | paceReqChange level => exact exec_paceReqChange_kept s level
  | snapshotRequest value => exact exec_snapshotRequest_kept s value
  | restore value => exact exec_restore_kept s value
  | push value => exact exec_push_kept s value
  | flashDrainComplete slot ok => exact exec_flashDrainComplete_kept s slot ok
  | streamsLoad value => exact exec_streamsLoad_kept s value
  | trigger => exact exec_trigger_kept s
  | tracksideFreeze => exact exec_tracksideFreeze_kept s
  | release => exact exec_release_kept s
  | exportImage => exact exec_exportImage_kept s
  | importImage => exact exec_importImage_kept s
  | firmwareVerified slotB romOk => exact exec_firmwareVerified_kept s slotB romOk
  | service value => exact exec_service_kept s value
  | regRead offset count tag => exact exec_regRead_kept s offset count tag
  | errqRead q tag => exact exec_errqRead_kept s q tag
  | deadbolt kind unit tag => exact exec_deadbolt_kept s kind unit tag
  | regionReset r tag => exact exec_regionReset_kept s r tag
  | syncDump start tag => exact exec_syncDump_kept s start tag
  | trkTrigger tag => exact exec_trkTrigger_kept s tag
  | listPut entries tag => exact exec_listPut_kept s entries tag
  | notifyAck => exact exec_notifyAck_kept s
  | notifyResend => exact exec_notifyResend_kept s
  | debugNonce tag => exact exec_debugNonce_kept s tag
  | debugUnlock token tag => exact exec_debugUnlock_kept s token tag
  | indRead r target offset count tag => exact exec_indRead_kept s r target offset count tag
  | setEndpointId eid => exact exec_setEndpointId_kept s eid
  | getVersion t => exact exec_getVersion_kept s t
  | getCapabilities t req => exact exec_getCapabilities_kept s t req
  | negotiateAlgorithms t req => exact exec_negotiateAlgorithms_kept s t req
  | getDigests t => exact exec_getDigests_kept s t
  | getCertificate t slot offset len => exact exec_getCertificate_kept s t slot offset len
  | challenge t req => exact exec_challenge_kept s t req
  | getMeasurements t req => exact exec_getMeasurements_kept s t req
  | builtInTestComplete failed regionsFailed => exact exec_builtInTestComplete_kept s failed regionsFailed
  | flitCrcFailure port => exact exec_flitCrcFailure_kept s port
  | idle port ack => exact exec_idle_kept s port ack
  | forward r f => exact exec_forward_kept s r f
  | streamResponse u m => exact exec_streamResponse_kept s u m
  | flashPortReady port width rate => exact exec_flashPortReady_kept s port width rate

/-! ## What a command may do to the lap number and the phase -/

/-- A command leaves the queue behind it, and of the lap number and the phase what the lap sequence allows (R46, R575). -/
def LapMoves (s : State) (c : Instr) (t : State) : Prop :=
  t.pending = s.pending ∧
  ((t.lap.num = s.lap.num ∧ t.lap.phase = s.lap.phase) ∨
   (c = .lapMark ∧ s.lap.phase = .issuing ∧ t.lap.phase = .marked ∧ t.lap.num = (s.lap.num + 1) % 2 ^ 48) ∨
   (c = .commitPoint ∧ s.lap.phase = .marked ∧ (t.lap.phase = .committed ∨ t.lap.phase = .off) ∧ t.lap.num = s.lap.num) ∨
   (c = .firstIssue ∧ s.lap.phase = .committed ∧ s.part.thermTrip = false ∧ t.lap.phase = .issuing ∧ t.lap.num = s.lap.num) ∨
   (s.lap.phase = .off ∧ fget s fPART_BOOT_CTRL_SERVICE 0 0 = 1 ∧ t.lap.phase = .marked ∧
     ((∃ port m, c = .marker port m ∧ t.lap.num = m.lap) ∨ ∃ o, c = .lapRefEdge o ∧ t.lap.num = bootLap s)) ∨
   ((c = .powerGoodRise ∨ c = .powerGoodFall ∨ ∃ high, c = .perstN high) ∧ t.lap = State.reset.lap))

theorem keptLap_eq {t : State} {q : List Instr} {n : Nat} {p : LapPhase} (h : keptLap t = (q, n, p)) :
    t.pending = q ∧ t.lap.num = n ∧ t.lap.phase = p := by
  simpa [keptLap] using h

theorem keptLap_of_keptTo {t : State} {f : Fuses} {q : List Instr} {n : Nat} {p : LapPhase} (h : kept t = ⟨f, q, n, p⟩) : keptLap t = (q, n, p) :=
  congrArg (fun k : KeptPart => (k.pending, k.num, k.phase)) h

theorem lapMoves_of_keptLap {s t : State} {c : Instr} (h : keptLap t = keptLap s) : LapMoves s c t := by
  obtain ⟨hq, hn, hp⟩ := keptLap_eq h
  exact ⟨hq, .inl ⟨hn, hp⟩⟩

theorem lapMoves_of_kept {s t : State} {c : Instr} (h : kept t = kept s) : LapMoves s c t := lapMoves_of_keptLap (keptLap_of_kept h)

theorem lapMoves_lapMark (s : State) : LapMoves s .lapMark (benchMark s) := by
  rcases benchMark_keptTo s with h | ⟨hp, h⟩
  · exact lapMoves_of_kept h
  · obtain ⟨hq, hn, hm⟩ := keptLap_eq (keptLap_of_keptTo h)
    exact ⟨hq, .inr (.inl ⟨rfl, hp, hm, hn⟩)⟩

theorem lapMoves_commitPoint (s : State) : LapMoves s .commitPoint (benchCommit s) := by
  rcases benchCommit_keptTo s with h | ⟨hp, p, hto, h⟩
  · exact lapMoves_of_kept h
  · obtain ⟨hq, hn, rfl⟩ := keptLap_eq (keptLap_of_keptTo h)
    exact ⟨hq, .inr (.inr (.inl ⟨rfl, hp, hto, hn⟩))⟩

theorem lapMoves_firstIssue (s : State) : LapMoves s .firstIssue (benchIssue s) := by
  rcases (benchIssue_keptTo s).1 with h | ⟨hp, htrip, h⟩
  · exact lapMoves_of_keptLap h
  · obtain ⟨hq, hn, hm⟩ := keptLap_eq h
    exact ⟨hq, .inr (.inr (.inr (.inl ⟨rfl, hp, htrip, hm, hn⟩)))⟩

theorem awaitsService_iff (s : State) : awaitsService s = true ↔ s.lap.phase = .off ∧ fget s fPART_BOOT_CTRL_SERVICE 0 0 = 1 := by
  simp [awaitsService, inService]

theorem lapMoves_marker (s : State) (port : Nat) (m : Marker) : LapMoves s (.marker port m) (markerIn s port m) := by
  rcases markerIn_keptTo s port m with h | ⟨ha, h⟩
  · exact lapMoves_of_kept h
  · obtain ⟨hoff, hservice⟩ := (awaitsService_iff s).1 ha
    obtain ⟨hq, hn, hm⟩ := keptLap_eq (keptLap_of_keptTo h)
    exact ⟨hq, .inr (.inr (.inr (.inr (.inl ⟨hoff, hservice, hm, .inl ⟨port, m, rfl, hn⟩⟩))))⟩

theorem lapMoves_lapRefEdge (s : State) (o : Int) : LapMoves s (.lapRefEdge o) (lapRefEdge s o) := by
  rcases lapRefEdge_keptTo s o with h | ⟨ha, h⟩
  · exact lapMoves_of_kept h
  · obtain ⟨hoff, hservice⟩ := (awaitsService_iff s).1 ha
    obtain ⟨hq, hn, hm⟩ := keptLap_eq (keptLap_of_keptTo h)
    exact ⟨hq, .inr (.inr (.inr (.inr (.inl ⟨hoff, hservice, hm, .inr ⟨o, rfl, hn⟩⟩))))⟩

theorem lapMoves_refl (s : State) (c : Instr) : LapMoves s c s := lapMoves_of_kept rfl

theorem lapMoves_reset {s t : State} {c : Instr} (hc : c = .powerGoodRise ∨ c = .powerGoodFall ∨ ∃ high, c = .perstN high)
    (hq : t.pending = s.pending) (hlap : t.lap = State.reset.lap) : LapMoves s c t :=
  ⟨hq, .inr (.inr (.inr (.inr (.inr ⟨hc, hlap⟩))))⟩

theorem lapMoves_powerRise (s : State) : LapMoves s .powerGoodRise (powerRise s) := by
  unfold powerRise
  split
  · exact lapMoves_refl ..
  · exact lapMoves_reset (.inl rfl) rfl rfl

theorem lapMoves_powerFall (s : State) : LapMoves s .powerGoodFall (powerFall s) := by
  unfold powerFall
  split
  · exact lapMoves_reset (.inr (.inl rfl)) rfl rfl
  · exact lapMoves_refl ..

theorem lapMoves_perst (s : State) (high : Bool) : LapMoves s (.perstN high) (perst s high) := by
  unfold perst
  split
  · exact lapMoves_refl ..
  · dsimp only
    split
    · exact lapMoves_reset (.inr (.inr ⟨high, rfl⟩)) rfl rfl
    · exact lapMoves_of_kept rfl

theorem lapMoves_listDone (s : State) (tag : Nat) :
    LapMoves s (.listDone tag) (sideCommand s 8 tag [] fun s => answer (listDone s) tag 0 []) :=
  lapMoves_of_keptLap (sideCommand_keptTo s 8 tag [] _ fun t =>
    ⟨(keptLap_of_kept (answer_kept ..)).trans (listDone_keptTo t).1, fusesGrow_trans (listDone_keptTo t).2 (fuses_of_kept (answer_kept ..))⟩).1

theorem exec_lapMoves {s t : State} {c : Instr} (h : exec c s = .next t) : LapMoves s c t := by
  cases hc : movesLap c with
  | false =>
    have hkept := exec_kept s hc
    rw [h] at hkept
    exact lapMoves_of_kept hkept
  | true =>
    cases c with
    | lapMark => cases h; exact lapMoves_lapMark s
    | commitPoint => cases h; exact lapMoves_commitPoint s
    | firstIssue => cases h; exact lapMoves_firstIssue s
    | marker port m => cases h; exact lapMoves_marker s port m
    | lapRefEdge o => cases h; exact lapMoves_lapRefEdge s o
    | powerGoodRise => cases h; exact lapMoves_powerRise s
    | powerGoodFall => cases h; exact lapMoves_powerFall s
    | perstN high => cases h; exact lapMoves_perst s high
    | listTimeout => cases h; exact lapMoves_of_keptLap (listTimeout_keptTo s).1
    | listDone tag => cases h; exact lapMoves_listDone s tag
    | ownerEnroll digest tag => cases h; exact lapMoves_of_keptLap (sideCommand_keptTo s 0xC tag _ _ fun t => ownerEnroll_keptTo digest tag t).1
    | _ => cases hc

/-- Settles O4: a command outside `movesLap` keeps both, and each of the eleven in it moves them as `LapMoves` allows. -/
theorem everyStepKeepsLapSequence : Obligations.EveryStepKeepsLapSequence := by
  intro s t c rest hpending hstep
  have hexec : exec c { s with pending := rest } = .next t := by simpa only [step, hpending] using hstep
  exact exec_lapMoves hexec

end Sys2Proof.Machine
end

section
/-! The lap mark (R46 step 1, R61, R63, R426): it stops every unit and transfer, makes the lap's tasks the deciding ones and clears what is
lap-local. -/

namespace Sys2Proof.Machine

/-! ## The lap's tasks and their outcomes -/

/-- Of a running task: which one it is, its outcome, and whether it has finished. -/
def taskMark (k : LapTask) : Nat × Nat × TaskDesc × Nat × Option Nat × Bool := (k.slot, k.graph, k.desc, k.unit, k.outcome, k.finished)

/-- The running tasks are the same, with the same outcomes. -/
def SameTasks (s t : State) : Prop := t.lap.cur.map taskMark = s.lap.cur.map taskMark

theorem SameTasks.of_cur {s t : State} (h : t.lap.cur = s.lap.cur) : SameTasks s t := by rw [SameTasks, h]

theorem SameTasks.of_lap {s t : State} (h : t.lap = s.lap) : SameTasks s t := .of_cur (by rw [h])

theorem SameTasks.trans {s t u : State} (h : SameTasks s t) (h' : SameTasks t u) : SameTasks s u := Eq.trans h' h

theorem SameTasks.foldl {α : Type} {g : State → α → State} (h : ∀ s a, SameTasks s (g s a)) (l : List α) (s : State) :
    SameTasks s (l.foldl g s) := by
  induction l generalizing s with
  | nil => exact .of_lap rfl
  | cons a l ih => exact (h s a).trans (ih _)

theorem sameTasks_updTask (s : State) (slot : Nat) {f : LapTask → LapTask} (hf : ∀ k, taskMark (f k) = taskMark k) :
    SameTasks s (updTask s slot f) := by
  show (s.lap.cur.map fun k => if k.slot == slot then f k else k).map taskMark = _
  rw [List.map_map]
  refine List.map_congr_left fun k _ => ?_
  simp only [Function.comp]
  split
  · exact hf k
  · rfl

theorem sameTasks_countRest (s : State) : SameTasks s (countRest s) := by
  unfold countRest
  refine SameTasks.trans (.of_cur rfl) (SameTasks.foldl (fun t k => ?_) s.lap.cur _)
  dsimp only
  split
  · exact (SameTasks.of_lap rfl).trans (sameTasks_updTask _ _ fun _ => rfl)
  · exact .of_cur rfl

theorem sameTasks_timeRest (s : State) : SameTasks s (timeRest s) := by
  unfold timeRest
  refine SameTasks.foldl (fun t k => ?_) _ s
  exact (SameTasks.of_lap rfl).trans (sameTasks_updTask _ k.slot fun _ => rfl)

/-! ## A unit that is stopped (R63) -/

theorem passWait_frame (t : TumRef) (hand : Bool) (s : State) (w : TumPend) :
    SameTasks s (passWait t hand s w) ∧ ∀ u, (getCore (passWait t hand s w) u).task = (getCore s u).task := by
  refine ⟨(SameTasks.of_lap rfl).trans (sameTasks_updTask _ _ fun _ => rfl), fun u => ?_⟩
  show (getCore (updCore s w.unit fun c => { c with seq := _ }) u).task = _
  by_cases h : u = w.unit
  · rw [h, getCore_updCore_self]
  · rw [getCore_updCore_ne _ _ h]

theorem tumPut_frame (s : State) (t : TumRef) (x : Tumbler) : (tumPut s t x).lap = s.lap ∧ (tumPut s t x).cores = s.cores := by
  unfold tumPut
  split <;> exact ⟨rfl, rfl⟩

theorem passWaits_frame (t : TumRef) (hand : Bool) (l : List TumPend) (s : State) :
    SameTasks s (l.foldl (passWait t hand) s) ∧ ∀ u, (getCore (l.foldl (passWait t hand) s) u).task = (getCore s u).task := by
  induction l generalizing s with
  | nil => exact ⟨.of_lap rfl, fun _ => rfl⟩
  | cons w l ih =>
    obtain ⟨htasks, hcores⟩ := passWait_frame t hand s w
    obtain ⟨htasks', hcores'⟩ := ih (passWait t hand s w)
    exact ⟨htasks.trans htasks', fun u => (hcores' u).trans (hcores u)⟩

theorem getCore_congr {s t : State} (h : t.cores = s.cores) (u : Nat) : getCore t u = getCore s u := by rw [getCore, getCore, h]

theorem tumRetest_frame (s : State) (t : TumRef) :
    SameTasks s (tumRetest s t) ∧ ∀ u, (getCore (tumRetest s t) u).task = (getCore s u).task := by
  unfold tumRetest
  extract_lets x r reach left
  obtain ⟨hlap, hcores⟩ := tumPut_frame s t { x with count := r.2.2, waits := left }
  obtain ⟨htasks, htask⟩ := passWaits_frame t x.hand (r.1 ++ reach) (tumPut s t { x with count := r.2.2, waits := left })
  exact ⟨(SameTasks.of_lap hlap).trans htasks, fun u => (htask u).trans (by rw [getCore_congr hcores])⟩

theorem tumDrop_frame (s : State) (u : Nat) : SameTasks s (tumDrop s u) ∧ ∀ v, (getCore (tumDrop s u) v).task = (getCore s v).task := by
  unfold tumDrop
  split
  · extract_lets t x s1
    obtain ⟨hlap, hcores⟩ := tumPut_frame s t { x with waits := x.waits.filter fun w => w.unit != u }
    split
    · exact ⟨.of_lap hlap, fun v => by rw [getCore_congr hcores]⟩
    · obtain ⟨htasks, htask⟩ := tumRetest_frame s1 t
      exact ⟨(SameTasks.of_lap hlap).trans htasks, fun v => (htask v).trans (by rw [getCore_congr hcores])⟩
  · exact ⟨.of_lap rfl, fun _ => rfl⟩

theorem vecHeld_frame (s : State) (u : Nat) : (vecHeld s u).lap = s.lap ∧ (vecHeld s u).cores = s.cores := by
  unfold vecHeld
  split
  · exact ⟨rfl, rfl⟩
  · dsimp only
    split <;> exact ⟨rfl, rfl⟩

theorem sameTasks_stopUnit (s : State) (u : Nat) : SameTasks s (stopUnit s u) := by
  unfold stopUnit
  split
  · exact .of_lap rfl
  · exact (tumDrop_frame s u).1.trans (.of_lap (vecHeld_frame (tumDrop s u) u).1)

theorem stopUnit_idle (s : State) {u v : Nat} (h : v = u ∨ (getCore s v).task = none) : (getCore (stopUnit s u) v).task = none := by
  unfold stopUnit
  by_cases hu : (getCore s u).task = none
  · rw [if_pos (by rw [hu]; rfl)]
    rcases h with rfl | h
    · exact hu
    · exact h
  · rw [if_neg (by simpa using hu)]
    dsimp only
    by_cases hv : v = u
    · rw [hv, getCore_updCore_self]
      rfl
    · rw [getCore_updCore_ne _ _ hv, getCore_congr (vecHeld_frame ..).2, (tumDrop_frame s u).2]
      exact h.resolve_left hv

theorem stopUnits_idle (l : List (Nat × Core)) {s : State} (h : ∀ u, (getCore s u).task = none ∨ ∃ e ∈ l, e.1 = u) (u : Nat) :
    (getCore (l.foldl (fun s c => stopUnit s c.1) s) u).task = none := by
  induction l generalizing s with
  | nil => simpa using h u
  | cons c l ih =>
    refine ih fun v => ?_
    rcases h v with hv | ⟨e, he, rfl⟩
    · exact .inl (stopUnit_idle s (.inr hv))
    · rcases List.mem_cons.1 he with rfl | he
      · exact .inl (stopUnit_idle s (.inl rfl))
      · exact .inr ⟨e, he, rfl⟩

theorem stopAll_idle (s : State) (u : Nat) : (getCore (stopAll s) u).task = none := by
  refine stopUnits_idle s.cores (fun v => ?_) u
  by_cases hv : ∃ e ∈ s.cores, e.1 = v
  · exact .inr hv
  · exact .inl (tabGet_of_all (Q := fun c => c.task = none) rfl fun e he hk => absurd ⟨e, he, hk⟩ hv)

theorem sameTasks_stopAll (s : State) : SameTasks s (stopAll s) := by
  unfold stopAll
  exact SameTasks.foldl (fun _ _ => sameTasks_stopUnit _ _) s.cores s

/-! ## What the mark ends -/

theorem closeTasks_outcomes (s : State) : (closeTasks s).map (fun d => (d.slot, d.graph, d.desc, d.unit, d.outcome)) = s.lap.cur.map fun k =>
    (k.slot, k.graph, k.desc, k.unit, if k.finished = false ∧ k.outcome = none then some 1 else k.outcome) := by
  unfold closeTasks
  rw [List.map_map]
  refine List.map_congr_left fun k _ => ?_
  cases hf : k.finished <;> cases ho : k.outcome <;> simp [hf, ho, endTask]

theorem map_eq_of_sameTasks {s t : State} (h : SameTasks s t) {α : Type} (f : Nat × Nat × TaskDesc × Nat × Option Nat × Bool → α) :
    t.lap.cur.map (f ∘ taskMark) = s.lap.cur.map (f ∘ taskMark) := by
  rw [← List.map_map, ← List.map_map, show t.lap.cur.map taskMark = _ from h]

theorem stopWork_outcomes (s : State) : (stopWork s).lap.cur.map (fun d => (d.slot, d.graph, d.desc, d.unit, d.outcome)) =
    (dmaMarkAll s).lap.cur.map fun k => (k.slot, k.graph, k.desc, k.unit, if k.finished = false ∧ k.outcome = none then some 1 else k.outcome) := by
  have hrest : SameTasks (dmaMarkAll s) (timeRest (countRest (dmaMarkAll s))) := (sameTasks_countRest _).trans (sameTasks_timeRest _)
  refine (map_eq_of_sameTasks (sameTasks_stopAll _) fun (slot, graph, desc, unit, outcome, _) => (slot, graph, desc, unit, outcome)).trans ?_
  refine (closeTasks_outcomes _).trans ?_
  exact map_eq_of_sameTasks hrest fun (slot, graph, desc, unit, outcome, finished) =>
    (slot, graph, desc, unit, if finished = false ∧ outcome = none then some 1 else outcome)

theorem trkPost_told (s : State) : told (trkPost s) = told s := by
  unfold trkPost
  split
  · exact trkFreeze_told s
  · rfl

theorem lap_of_told {s t : State} (h : told t = told s) : t.lap = s.lap := congrArg ToldPart.lap h

theorem cores_of_told {s t : State} (h : told t = told s) : t.cores = s.cores := congrArg ToldPart.cores h

theorem turnLap_opens (s : State) : (turnLap s).lap.cur = [] ∧ (turnLap s).lap.planned = false := ⟨rfl, rfl⟩

theorem endLap_opens (s : State) : (endLap s).lap.cur = [] ∧ (endLap s).lap.planned = false := by
  unfold endLap
  exact turnLap_opens _

theorem endLap_marked (s : State) : (endLap s).lap.num = (s.lap.num + 1) % 2 ^ 48 ∧ (endLap s).lap.phase = .marked :=
  (keptLap_eq (keptLap_of_keptTo (endLap_keptTo s))).2

theorem turnLap_deciding (s : State) : (turnLap s).lap.deciding = s.lap.cur := rfl

theorem clearLapLocal_lap (s : State) : (clearLapLocal s).lap = s.lap := rfl

theorem endLap_deciding (s : State) : (endLap s).lap.deciding = (stopWork (trkClose s)).lap.cur := by
  unfold endLap
  rw [turnLap_deciding, clearLapLocal_lap, lap_of_told (trkPost_told _)]

theorem turnLap_cores (s : State) : (turnLap s).cores = s.cores := rfl

theorem clearLapLocal_cores (s : State) : (clearLapLocal s).cores = s.cores := rfl

theorem endLap_task (s : State) (u : Nat) : (getCore (endLap s) u).task = none := by
  have hcores : (endLap s).cores = (stopWork (trkClose s)).cores := by
    unfold endLap
    rw [turnLap_cores, clearLapLocal_cores, cores_of_told (trkPost_told _)]
  rw [getCore_congr hcores]
  exact stopAll_idle _ u

theorem tabGet_cleared {α : Type} [DecidableEq α] {d : α} {f : Nat × α → Nat × α} {Q : α → Prop} (t : Tab α) (k : Nat) (hd : Q d)
    (hf : ∀ e, Q (f e).2) : Q (tabGet d ((t.map f).filter fun e => decide (e.2 ≠ d)) k) := by
  refine tabGet_of_all hd fun e he _ => ?_
  obtain ⟨x, -, rfl⟩ := List.mem_map.1 (List.mem_filter.1 he).1
  exact hf x

/-- A block with nothing lap-local written, no tumbler counting and no hinge operation waiting. -/
def BlockCleared (x : Block) : Prop := x.llWritten = [] ∧ x.tums = [] ∧ x.hingeQ = [] ∧ x.hingeRun = none

/-- A region with nothing lap-local written and no tumbler counting. -/
def RegionCleared (x : Region) : Prop := x.llWritten = [] ∧ x.tums = [] ∧ x.pageWriters = []

theorem clearLapLocal_block (s : State) (b : Nat) : BlockCleared (getBlock (clearLapLocal s) b) :=
  tabGet_cleared (Q := BlockCleared) s.blocks b ⟨rfl, rfl, rfl, rfl⟩ fun _ => ⟨rfl, rfl, rfl, rfl⟩

theorem clearLapLocal_region (s : State) (r : Nat) : RegionCleared (getRegion (clearLapLocal s) r) :=
  tabGet_cleared (Q := RegionCleared) s.regions r ⟨rfl, rfl, rfl⟩ fun _ => ⟨rfl, rfl, rfl⟩

theorem getBlock_turnLap (s : State) (b : Nat) : getBlock (turnLap s) b = getBlock s b := rfl

theorem getRegion_turnLap (s : State) (r : Nat) : getRegion (turnLap s) r = getRegion s r := rfl

theorem endLap_block (s : State) (b : Nat) : BlockCleared (getBlock (endLap s) b) := by
  simpa only [endLap, getBlock_turnLap] using clearLapLocal_block _ b

theorem endLap_region (s : State) (r : Nat) : RegionCleared (getRegion (endLap s) r) := by
  simpa only [endLap, getRegion_turnLap] using clearLapLocal_region _ r

/-! ## The mark on a bench re-run (R544) -/

/-- The state that the mark of a running lap ends: on a bench re-run with what the next lap reads of host memory in place. -/
def atMark (s : State) : State := if benchOn s then benchHost s (s.lap.num + 1) else s

theorem atMark_lap (s : State) : (atMark s).lap = s.lap := by
  unfold atMark
  split <;> rfl

theorem benchMark_issuing {s : State} (h : s.lap.phase = .issuing) : benchMark s = startLap (endLap (atMark s)) := by
  have hm : (if benchOn s && decide (s.lap.phase = .issuing) then benchHost s (s.lap.num + 1) else s) = atMark s := by simp [h, atMark]
  rw [benchMark, hm, lapMark, if_pos (by rw [atMark_lap, h])]

theorem benchMark_idle {s : State} (h : s.lap.phase ≠ .issuing) : benchMark s = s := by
  rw [benchMark, if_neg (by simp [h]), lapMark_idle s h]

/-- Settles O44: the deciding tasks are those of the stopped lap (`stopWork_outcomes`), every unit is idle (`stopAll_idle`), and what is lap-local
is cleared in every block and region. -/
theorem lapMarkEndsTheLap : Obligations.LapMarkEndsTheLap := by
  intro s m
  have hm : atMark s = m := rfl
  clear_value m
  subst hm
  refine ⟨fun h => next_congr (benchMark_idle h), fun h => ⟨endLap (atMark s), next_congr (benchMark_issuing h), ?_,
    (endLap_marked _).2, (endLap_opens _).1, (endLap_opens _).2, endLap_task _, endLap_block _, endLap_region _, ?_⟩⟩
  · rw [← atMark_lap s]
    exact (endLap_marked _).1
  · rw [endLap_deciding]
    exact stopWork_outcomes (trkClose (atMark s))

end Sys2Proof.Machine
end

section
/-! The commit point (R46 step 5, R69, R544): the outcomes of the deciding tasks, closed over local consumers. -/

namespace Sys2Proof.Machine

/-! ## The command -/

theorem commitPoint_marked {s : State} (h : s.lap.phase = .marked) :
    commitPoint s = goOn (placeAgain (lapDecided (commitLap (missVotes s)))) := by
  rw [commitPoint, if_neg (by simp [h])]

theorem benchCommit_idle {s : State} (h : s.lap.phase ≠ .marked) : benchCommit s = s := by
  rw [benchCommit, if_neg (by simp [h]), commitPoint_idle s h]

theorem benchCommit_off {s : State} (hb : benchOn s = false) : benchCommit s = commitPoint s := by
  rw [benchCommit, if_neg (by simp [hb])]

theorem benchCommit_on {s : State} (h : s.lap.phase = .marked) (hb : benchOn s = true) :
    benchCommit s = commitPoint ((benchInputs s s.lap.num [4]).foldl giveControl s) := by
  rw [benchCommit, if_pos (by simp [h, hb])]

/-! ## One task's outcome (R69, R544) -/

/-- A task with another outcome, or with its own. -/
def Reoutcome (k q : LapTask) : Prop := q = { k with outcome := q.outcome }

theorem ownOutcome_reoutcome (s : State) (conf : List (Nat × Nat)) (ts : List LapTask) (k : LapTask) : Reoutcome k (ownOutcome s conf ts k) := by
  unfold ownOutcome
  split
  · rfl
  · split <;> rfl

theorem ownOutcome_isSome (s : State) (conf : List (Nat × Nat)) (ts : List LapTask) (k : LapTask) : (ownOutcome s conf ts k).outcome.isSome = true := by
  unfold ownOutcome
  split
  · assumption
  · split <;> rfl

theorem ownOutcome_decided {s : State} {conf : List (Nat × Nat)} {ts : List LapTask} {k : LapTask} (h : k.outcome.isSome = true) :
    ownOutcome s conf ts k = k := if_pos h

theorem benchForce_reoutcome (s : State) (k : LapTask) : Reoutcome k (benchForce s k) := by
  unfold benchForce
  split
  · rfl
  · dsimp only
    split
    · split <;> rfl
    · rfl

theorem benchForce_isSome {s : State} {k : LapTask} (h : k.outcome.isSome = true) : (benchForce s k).outcome.isSome = true := by
  unfold benchForce
  split
  · exact h
  · dsimp only
    split
    · split
      · rfl
      · exact h
    · exact h

theorem benchForce_off {s : State} (h : fget s fPART_TRK_CFG_BENCH 0 0 = 0) (k : LapTask) : benchForce s k = k := if_pos h

/-! ## The closure over local consumers -/

/-- One round of the closure: a task that would commit is replayed where a producer of it has failed. -/
def closeTask (s : State) (ts : List LapTask) (k : LapTask) : LapTask :=
  if k.outcome = some 0 ∧ k.prods.any (fun p => p != k.slot && slotFailed s ts p) then { k with outcome := some 2 } else k

theorem closeReplay_succ (s : State) (n : Nat) (ts : List LapTask) : closeReplay s (n + 1) ts = closeReplay s n (ts.map (closeTask s ts)) := rfl

theorem closeTask_reoutcome (s : State) (ts : List LapTask) (k : LapTask) : Reoutcome k (closeTask s ts k) := by
  unfold closeTask
  split <;> rfl

theorem closeTask_isSome (s : State) (ts : List LapTask) {k : LapTask} (h : k.outcome.isSome = true) : (closeTask s ts k).outcome.isSome = true := by
  unfold closeTask
  split
  · rfl
  · exact h

theorem closeTask_decided (s : State) (ts : List LapTask) {k : LapTask} (h : k.outcome ≠ some 0) : closeTask s ts k = k := if_neg fun hc => h hc.1

/-- The tasks that would commit. -/
def commitCount (ts : List LapTask) : Nat := ts.countP fun k => k.outcome = some 0

/-- No task that would commit has a failed producer. -/
def Closed (s : State) (ts : List LapTask) : Prop :=
  ∀ k ∈ ts, k.outcome = some 0 → ∀ p ∈ k.prods, p ≠ k.slot → slotFailed s ts p = false

theorem closed_of_fixed {s : State} {ts : List LapTask} (h : ts.map (closeTask s ts) = ts) : Closed s ts := by
  intro k hk h0 p hp hne
  by_contra hf
  have hfix : closeTask s ts k = k := List.map_inj_left.1 (h.trans (List.map_id ts).symm) k hk
  rw [closeTask, if_pos ⟨h0, List.any_eq_true.2 ⟨p, hp, by simpa [hne] using hf⟩⟩] at hfix
  have h2 : k.outcome = some 2 := (congrArg LapTask.outcome hfix).symm
  rw [h0] at h2
  cases h2

theorem closeTasks_fixed_or_fewer (s : State) (ts l : List LapTask) :
    l.map (closeTask s ts) = l ∨ commitCount (l.map (closeTask s ts)) < commitCount l := by
  have hle : ∀ l : List LapTask, commitCount (l.map (closeTask s ts)) ≤ commitCount l := fun l => by
    rw [commitCount, commitCount, List.countP_map]
    refine List.countP_mono_left fun k _ hk => ?_
    by_contra h0
    rw [Function.comp, closeTask_decided s ts (by simpa using h0)] at hk
    exact h0 hk
  induction l with
  | nil => exact .inl rfl
  | cons k l ih =>
    by_cases hk : closeTask s ts k = k
    · rcases ih with h | h
      · exact .inl (by rw [List.map_cons, hk, h])
      · refine .inr ?_
        simp only [commitCount, List.map_cons, List.countP_cons, hk] at h ⊢
        omega
    · have h0 : k.outcome = some 0 := by_contra fun h => hk (closeTask_decided s ts h)
      have h2 : (closeTask s ts k).outcome = some 2 := by
        unfold closeTask at hk ⊢
        split at hk
        · rw [if_pos ‹_›]
        · exact absurd rfl hk
      have h := hle l
      refine .inr ?_
      simp only [commitCount, List.map_cons, List.countP_cons, h0, h2] at h ⊢
      simp only [decide_true, if_true, show ¬ (some 2 = some 0) by decide, decide_false]
      simpa using Nat.lt_succ_of_le h

theorem closeReplay_fixed {s : State} {ts : List LapTask} (h : ts.map (closeTask s ts) = ts) (n : Nat) : closeReplay s n ts = ts := by
  induction n with
  | zero => rfl
  | succ n ih => rw [closeReplay_succ, h, ih]

theorem closeReplay_closed (s : State) (n : Nat) {ts : List LapTask} (hn : commitCount ts ≤ n) : Closed s (closeReplay s n ts) := by
  induction n generalizing ts with
  | zero =>
    intro k hk h0
    exact absurd h0 (by simpa using List.countP_eq_zero.1 (Nat.le_zero.1 hn) k hk)
  | succ n ih =>
    rcases closeTasks_fixed_or_fewer s ts ts with h | h
    · rw [closeReplay_fixed h]
      exact closed_of_fixed h
    · rw [closeReplay_succ]
      exact ih (by omega)

theorem closeReplay_map {β : Type} (s : State) {g : LapTask → β} (hg : ∀ k q, Reoutcome k q → g q = g k) (n : Nat) (ts : List LapTask) :
    (closeReplay s n ts).map g = ts.map g := by
  induction n generalizing ts with
  | zero => rfl
  | succ n ih =>
    rw [closeReplay_succ, ih, List.map_map]
    exact List.map_congr_left fun k _ => hg k _ (closeTask_reoutcome s ts k)

theorem mem_closeReplay (s : State) (n : Nat) {ts : List LapTask} {k : LapTask} (hk : k ∈ ts) (h : k.outcome ≠ some 0) : k ∈ closeReplay s n ts := by
  induction n generalizing ts with
  | zero => exact hk
  | succ n ih => exact ih (List.mem_map.2 ⟨k, hk, closeTask_decided s ts h⟩)

theorem closeReplay_isSome (s : State) (n : Nat) {ts : List LapTask} (h : ∀ k ∈ ts, k.outcome.isSome = true) :
    ∀ k ∈ closeReplay s n ts, k.outcome.isSome = true := by
  induction n generalizing ts with
  | zero => exact h
  | succ n ih =>
    refine ih fun q hq => ?_
    obtain ⟨k, hk, rfl⟩ := List.mem_map.1 hq
    exact closeTask_isSome s ts (h k hk)

/-! ## The outcomes of the recorded log (R544) -/

theorem nbits_nbits {w a n lo k : Nat} (h : lo + k ≤ n) : nbits (nbits w a n) lo k = nbits w (a + lo) k := by
  refine Nat.eq_of_testBit_eq fun i => ?_
  simp only [nbits, Nat.testBit_mod_two_pow, Nat.testBit_div_two_pow]
  by_cases hi : i < k
  · simp [hi, show lo + i < n by omega, Nat.add_comm, Nat.add_left_comm]
  · simp [hi]

theorem rangeFrom_eq_range' (lo n : Nat) : rangeFrom lo n = List.range' lo n := by
  induction n generalizing lo with
  | zero => rfl
  | succ n ih => rw [rangeFrom, ih, List.range'_succ]

theorem benchForce_log {s : State} {k : LapTask} {i : Nat} (hbench : fget s fPART_TRK_CFG_BENCH 0 0 = 1) :
    let w := tabGet 0 s.trk.benchLog (lapN s)
    i < nbits w 192 16 → (∀ j, j < i → ¬ (nbits w (512 + 128 * j) 32 = k.graph ∧ nbits w (544 + 128 * j) 16 = k.desc.index)) →
      nbits w (512 + 128 * i) 32 = k.graph → nbits w (544 + 128 * i) 16 = k.desc.index → nbits w (576 + 128 * i) 8 ∈ ([1, 2, 5, 6, 7, 8] : List Nat) →
      (benchForce s k).outcome = some (nbits w (576 + 128 * i) 8) := by
  intro w hi hfirst hgraph hindex houtcome
  have hentry : ∀ j, (nbits (nbits w (512 + 128 * j) 128) 0 32 = nbits w (512 + 128 * j) 32) ∧
      (nbits (nbits w (512 + 128 * j) 128) 32 16 = nbits w (544 + 128 * j) 16) ∧
      nbits (nbits w (512 + 128 * j) 128) 64 8 = nbits w (576 + 128 * j) 8 := fun j =>
    ⟨nbits_nbits (by decide), (nbits_nbits (by decide)).trans (by congr 1; omega), (nbits_nbits (by decide)).trans (by congr 1; omega)⟩
  have hfind : ((rangeFrom 0 (nbits w 192 16)).map fun i => nbits w (512 + 128 * i) 128).find?
      (fun e => nbits e 0 32 == k.graph && nbits e 32 16 == k.desc.index) = some (nbits w (512 + 128 * i) 128) := by
    rw [List.find?_map, rangeFrom_eq_range', List.find?_range'_eq_some.2, Option.map_some]
    refine ⟨?_, ?_, fun j _ hj => ?_⟩
    · simp [(hentry i).1, (hentry i).2.1, hgraph, hindex]
    · simpa using hi
    · simpa [(hentry j).1, (hentry j).2.1, ← not_and_or] using hfirst j hj
  have hone : fget s fPART_TRK_CFG_BENCH 0 0 ≠ 0 := by omega
  simp only [benchForce, if_neg hone]
  rw [hfind]
  simp only [(hentry i).2.2]
  rw [if_pos (by simpa using houtcome)]

/-! ## The outcomes of the deciding tasks -/

/-- A deciding task with its outcome before the closure. -/
def forcedOutcome (s : State) (k : LapTask) : LapTask := benchForce s (ownOutcome s (conflicts s) s.lap.deciding k)

theorem decideTasks_eq (s : State) : decideTasks s = closeReplay s s.lap.deciding.length (s.lap.deciding.map (forcedOutcome s)) := by
  simp only [decideTasks, List.map_map, List.length_map]
  rfl

theorem Reoutcome.trans {k q r : LapTask} (h : Reoutcome k q) (h' : Reoutcome q r) : Reoutcome k r := by
  unfold Reoutcome at h h' ⊢
  rw [h', h]

theorem forcedOutcome_reoutcome (s : State) (k : LapTask) : Reoutcome k (forcedOutcome s k) :=
  (ownOutcome_reoutcome ..).trans (benchForce_reoutcome ..)

theorem decideTasks_map {β : Type} (s : State) {g : LapTask → β} (hg : ∀ k q, Reoutcome k q → g q = g k) :
    (decideTasks s).map g = s.lap.deciding.map g := by
  rw [decideTasks_eq, closeReplay_map s hg, List.map_map]
  exact List.map_congr_left fun k _ => hg k _ (forcedOutcome_reoutcome s k)

theorem decideTasks_decided (s : State) : ∀ k ∈ decideTasks s, k.outcome ≠ none := by
  intro k hk
  rw [decideTasks_eq] at hk
  refine Option.isSome_iff_ne_none.1 (closeReplay_isSome s _ (fun q hq => ?_) k hk)
  obtain ⟨p, -, rfl⟩ := List.mem_map.1 hq
  exact benchForce_isSome (ownOutcome_isSome ..)

theorem decideTasks_closed (s : State) : Closed s (decideTasks s) := by
  rw [decideTasks_eq]
  exact closeReplay_closed s _ (List.countP_le_length.trans_eq (List.length_map ..))

theorem forcedOutcome_mem {s : State} {k : LapTask} (hk : k ∈ s.lap.deciding) (h : (forcedOutcome s k).outcome ≠ some 0) :
    forcedOutcome s k ∈ decideTasks s := by
  rw [decideTasks_eq]
  exact mem_closeReplay s _ (List.mem_map_of_mem hk) h

theorem forcedOutcome_decided {s : State} {k : LapTask} {o : Nat} (hbench : fget s fPART_TRK_CFG_BENCH 0 0 = 0) (ho : k.outcome = some o) :
    forcedOutcome s k = k := by
  rw [forcedOutcome, benchForce_off hbench, ownOutcome_decided (by rw [ho]; rfl)]

/-- Settles O45: each round of the closure leaves fewer tasks that would commit or nothing to change, so that as many rounds as there are tasks
close it (`closeReplay_closed`); what a task has already, or the recorded log forces, is no commit that the closure could change. -/
theorem commitPointDecides : Obligations.CommitPointDecides := by
  intro s
  refine ⟨fun h => next_congr (benchCommit_idle h), fun h hb => next_congr ((benchCommit_off hb).trans (commitPoint_marked h)),
    fun h hb => next_congr (benchCommit_on h hb), decideTasks_map s fun k q hq => by rw [hq], decideTasks_decided s,
    decideTasks_closed s, ?_, ?_⟩
  · intro hbench k hk o ho h0
    have hfixed := forcedOutcome_decided hbench ho
    rw [← hfixed]
    exact forcedOutcome_mem hk (by rw [hfixed, ho]; simpa using h0)
  · intro hbench k hk w i hi hfirst hgraph hindex houtcome
    have hown := ownOutcome_reoutcome s (conflicts s) s.lap.deciding k
    have hforced : (forcedOutcome s k).outcome = some (nbits w (576 + 128 * i) 8) :=
      benchForce_log hbench hi (by rw [hown]; exact hfirst) (by rw [hown]; exact hgraph) (by rw [hown]; exact hindex) houtcome
    refine ⟨forcedOutcome s k, forcedOutcome_mem hk ?_, by rw [forcedOutcome_reoutcome s k], hforced⟩
    rw [hforced]
    rintro h
    simp [Option.some.inj h] at houtcome

end Sys2Proof.Machine
end

section
/-! Lap-clean words, holdover and the doorbell poll (R45, R67, R68, R71, R489). -/

namespace Sys2Proof.Machine

/-! ## The fields of a sealed record (R67, R471) -/

theorem nbits_mod_two_pow {w lo n m : Nat} (h : lo + n ≤ m) : nbits (w % 2 ^ m) lo n = nbits w lo n := by
  simpa [nbits] using nbits_nbits (w := w) (a := 0) h

theorem sealRec_body (w : Nat) : (sealRec w).toNat % 2 ^ 224 = w % 2 ^ 224 := by
  rw [sealRec, crcSeal, BitVec.toNat_ofNat, Nat.mod_mod_of_dvd _ (by decide : 2 ^ 224 ∣ 2 ^ 256)]
  exact (Nat.add_mul_mod_self_right ..).trans (Nat.mod_mod ..)

/-- A field below the CHECK of a control record reads what was sealed. -/
theorem nbits_sealRec {w lo n : Nat} (h : lo + n ≤ 224) : nbits (sealRec w).toNat lo n = nbits w lo n := by
  rw [← nbits_mod_two_pow h, sealRec_body, nbits_mod_two_pow h]

theorem nbit_eq_nbits (w i : Nat) : nbit w i = (nbits w i 1 == 1) := rfl

/-- What a word sent after the commit point says (R68). -/
theorem voteOfWord_cleanWord_late {s : State} (dst : Nat) (h : s.lap.phase ≠ .marked) :
    let v := voteOfWord (cleanWord s dst).toNat
    v.clean = false ∧ v.overflow = true ∧ v.lap = lapN s % 2 ^ 48 := by
  have hlap := Nat.mod_lt (lapN s) (by decide : 2 ^ 48 > 0)
  have hsrc := Nat.mod_lt (selfId s) (by decide : 2 ^ 17 > 0)
  have hdst := Nat.mod_lt dst (by decide : 2 ^ 17 > 0)
  simp only [cleanWord, if_neg h, voteWord, voteOfWord, nbit_eq_nbits]
  rw [nbits_sealRec (by decide), nbits_sealRec (by decide), nbits_sealRec (by decide)]
  simp only [nbits, b2n, List.take_nil, List.zip_nil_right, List.foldl_nil, List.length_nil, beq_iff_eq, beq_eq_false_iff_ne,
    Bool.false_eq_true, reduceIte]
  generalize lapN s % 2 ^ 48 = l at *
  generalize selfId s % 2 ^ 17 = i at *
  generalize dst % 2 ^ 17 = d at *
  refine ⟨?_, ?_, ?_⟩ <;> omega

/-! ## LAP_CLEAN_SEND (R68) -/

theorem lapCleanSend_owed {s : State} {dst : Nat} (hs : inService s = true) (ho : hasNat s.lap.owed dst = true)
    (hv : s.lap.phase ≠ .marked ∨ votesIn s dst = true) : lapCleanSend s dst =
      sendControl (updLap s fun l => { l with owed := l.owed.filter fun p => p != dst }) dst 1 (cleanWord s dst) :=
  if_pos (by simpa [hs, ho] using hv)

theorem lapCleanSend_idle {s : State} {dst : Nat} (h : inService s = false ∨ hasNat s.lap.owed dst = false) : lapCleanSend s dst = s :=
  if_neg (by rcases h with h | h <;> simp [h])

/-! ## LAP_CLEAN (R69, R71) -/

theorem inService_congr {s t : State} (h : t.lap = s.lap) : inService t = inService s := by rw [inService, inService, h]

theorem trkControl_lap (s : State) (type : Nat) (w : BitVec 256) : (trkControl s type w).lap = s.lap := lap_of_told (trkControl_told ..)

theorem inService_trkControl (s : State) (type : Nat) (w : BitVec 256) : inService (trkControl s type w) = inService s :=
  inService_congr (trkControl_lap ..)

section
variable {s : State} {w : BitVec 256} (hs : inService s = true) (hok : recordOk (trkControl s 1 w) w = true)
  (hlap : (voteOfWord w.toNat).lap = lapN (trkControl s 1 w))
include hs hok hlap

theorem lapClean_marked (hm : s.lap.phase = .marked)
    (hnew : (trkControl s 1 w).lap.votes.any (fun x => x.src == (voteOfWord w.toNat).src && x.lap == (voteOfWord w.toNat).lap) = false) :
    lapClean s w = updLap (trkControl s 1 w) fun l => { l with votes := l.votes ++ [voteOfWord w.toNat] } := by
  simp only [lapClean]
  rw [if_neg (by simp [inService_trkControl, hs, hok, hlap]), if_pos (by rw [trkControl_lap, hm]), if_neg (by simp [hnew])]

theorem lapClean_late (hm : s.lap.phase ≠ .marked) : lapClean s w =
    lateUnclean (updLap (fbump (trkControl s 1 w) fPART_LAP_STATUS_LATE_VOTES 0 0 1) fun l => { l with late := l.late ++ [voteOfWord w.toNat] })
      (voteOfWord w.toNat) := by
  simp only [lapClean]
  rw [if_neg (by simp [inService_trkControl, hs, hok, hlap]), if_neg (by rwa [trkControl_lap])]

end

theorem fget_fbump_self (s : State) (f : Fld) (x y k : Nat) : fget (fbump s f x y k) f x y = min (fget s f x y + k) (2 ^ f.width - 1) := by
  rw [fbump, fget_fput_self, satAdd]
  exact Nat.mod_eq_of_lt (Nat.lt_of_le_of_lt (Nat.min_le_right ..) (Nat.sub_lt (Nat.two_pow_pos _) Nat.one_pos))

/-- A word that comes late is counted and recorded. -/
theorem lateWord_counted (t : State) (v : Vote) :
    let u := lateUnclean (updLap (fbump t fPART_LAP_STATUS_LATE_VOTES 0 0 1) fun l => { l with late := l.late ++ [v] }) v
    u.lap = { t.lap with late := t.lap.late ++ [v] } ∧ fget u fPART_LAP_STATUS_LATE_VOTES 0 0 =
      min (fget t fPART_LAP_STATUS_LATE_VOTES 0 0 + 1) (2 ^ fPART_LAP_STATUS_LATE_VOTES.width - 1) :=
  ⟨rfl, fget_fbump_self t fPART_LAP_STATUS_LATE_VOTES 0 0 1⟩

/-! ## HOLDOVER_LIMIT (R45) -/

theorem holdoverLimit_past {s : State} (h : 16 < s.lap.holdover) : holdoverLimit s = updLap s fun l => { l with
    owed := [], cur := l.cur.filter (fun k => !(exchanges k && !k.started)), plan := l.plan.filter fun k => !exchanges k } :=
  if_neg (by omega)

theorem holdoverLimit_within {s : State} (h : s.lap.holdover ≤ 16) : holdoverLimit s = s := if_pos h

/-- Settles O47: each command's own equations, and of the word its sealed fields. -/
theorem votesAndHoldover : Obligations.VotesAndHoldover := by
  intro s
  refine ⟨fun dst hs ho hv => ⟨_, rfl, next_congr (lapCleanSend_owed hs ho hv)⟩, fun dst h => next_congr (lapCleanSend_idle h),
    fun dst h => voteOfWord_cleanWord_late dst h, ?_, fun h => ⟨_, next_congr (holdoverLimit_past h), rfl, fun k hk => ?_, fun k hk hx => ?_, rfl⟩,
    fun h => next_congr (holdoverLimit_within h), fun hs => next_congr (if_pos hs), fun hs => next_congr (if_neg (by simp [hs]))⟩
  · intro w t hok hs hlap
    exact ⟨fun hm hnew => next_congr (lapClean_marked hs hok hlap hm hnew),
      fun hm => ⟨_, next_congr (lapClean_late hs hok hlap hm), lateWord_counted t _⟩⟩
  · simpa using (List.mem_filter.1 hk).2
  · simpa [hx] using (List.mem_filter.1 hk).2

end Sys2Proof.Machine
end

section
/-! Task start where the read of the program itself cuts the unit off (R129, R509, R603): the read corrects a half-line, the record of the correction
finds the region's error queue full, and the region is cut with its units. -/

namespace Sys2Proof.Machine

/-! ## The part whose read fences the unit -/

/-- A task of one program word at address 0, in slot 0 on core 0, with its arm list at the same place. -/
def wordTask : LapTask := ⟨0, 0, 0, ⟨0, 0, 0, 0, 0, 0, 1, 0, 0, 0, 0, 0, 0, 0, 0, 0, 0, 0, 0⟩, [], false, false, false, none, 0, 0, 0,
  [], [], [], [], [], [], 0, 0, 0, 0, [], 0, false, false, false, [], [], [], none, false⟩

/-- A running lap with that task. Page 0 of region 0 is mapped, its first half-line has an uncorrectable error that parity rebuilds, and the
region's error queue is full. -/
def fencedByRead : State := { State.reset with
  lap := { State.reset.lap with phase := .issuing, cur := [wordTask], num := 100 }
  part := { State.reset.part with manager := some 0 }
  regions := [(0, { regionReset with
    pt := [(0, ⟨0, true, false, []⟩)], harm := [(halfKey 0 0, 2)], errq := ⟨List.replicate 8 0, false, false, 8⟩ })] }

/-- That part as the task begins. -/
def begunTask : State := beginTask fencedByRead 0 wordTask

/-- The bytes of a read that succeeded. -/
def bytesRead : TaskRead → Option Bytes
  | .ok b => some b
  | _ => none

theorem eq_ok_of_bytesRead {s : State} {a n : Nat} {b : Bytes} (h : bytesRead (taskRead s a n).2 = some b) :
    taskRead s a n = ((taskRead s a n).1, .ok b) := by
  generalize taskRead s a n = q at h ⊢
  obtain ⟨t, c | c | c⟩ := q <;> cases h
  rfl

/-- The program's word is read, and is 0; the unit is halted all the same. -/
theorem begunTask_reads : bytesRead (taskRead begunTask 0 64).2 = some (List.replicate 64 0) ∧
    (getCore (taskRead begunTask 0 64).1 0).seq.st = .halted := by decide +kernel

/-- That part with the program in the control store. -/
def programLoaded : State := loadProgram (taskRead begunTask 0 64).1 0 wordTask.desc (List.replicate 64 0)

theorem taskRead_deadRegion {s : State} {a n r page off : Nat} (hplace : placeOf s none a = .hbm r page off) (hdead : regionAlive s r = false) :
    taskRead s a n = (s, .bus a) := by
  simp [taskRead, hplace, hdead]

/-- The halt record of a core after a command. -/
def haltRecAfter (u : Nat) : Host.Outcome State Fault Refusal → Nat
  | .next t => (getCore t u).seq.haltRec
  | _ => 0

/-- Refutes O42: a program that is read may leave its unit halted all the same, where the record of a rebuilt half-line overflows the error queue
of its region (R509). The start then ends with that halt, EXTERNAL; the statement has the arm list read on, from a region now cut, and the unit
halted again with STREAM_BUS_ERROR. In `fencedByRead` the two halt records differ. -/
theorem not_tasksStartAndFinish : ¬ Obligations.TasksStartAndFinish := by
  rintro ⟨hstart, -⟩
  have hlist : taskRead programLoaded 0 64 = (programLoaded, .bus 0) :=
    taskRead_deadRegion (r := 0) (page := 0) (off := 0) (by decide +kernel) (by decide +kernel)
  obtain ⟨-, -, hloaded⟩ := hstart fencedByRead 0 wordTask (by decide +kernel) (by decide +kernel)
  obtain ⟨-, hbus, -⟩ := hloaded programLoaded rfl (.inr ⟨by decide +kernel, _, _, eq_ok_of_bytesRead begunTask_reads.1, rfl⟩)
  exact absurd (congrArg (haltRecAfter 0) (hbus _ _ hlist)) (by decide +kernel)

end Sys2Proof.Machine
end

section
/-! Held memory in the background (R55, R280, R283, R285): fill copies, folding, records of the page table. -/

namespace Sys2Proof.Machine

/-! ## Reading a system structure (R287) -/

theorem getRegion_readSystem (s : State) (r : Nat) (k : SysStruct) :
    ∃ l, getRegion (readSystem s r k) r = { getRegion s r with sysBad := l } := by
  unfold readSystem
  dsimp only
  split
  · exact ⟨_, rfl⟩
  · exact ⟨_, getRegion_updRegion_self ..⟩

/-! ## FILL_COPY_COMPLETE and FOLD (R55, R283, R285) -/

theorem fillCopy_completes {s : State} {r frame page : Nat} {e : PTE} {h : Held}
    (hpage : (getRegion s r).pt.find? (fun e => e.2.helds.any fun h => h.frame == frame && !h.filled) = some (page, e))
    (hheld : e.helds.find? (fun h => h.frame == frame && !h.filled) = some h) (halive : regionAlive s r = true)
    (hdone : h.lap ≠ s.lap.num % 65536 ∨ writesDone s h.slot = true) : fillCopy s r frame = fillPage s r page h ∧ h.frame = frame := by
  have hframe := List.find?_some hheld
  simp only [Bool.and_eq_true, beq_iff_eq] at hframe
  refine ⟨?_, hframe.1⟩
  unfold fillCopy
  rw [hpage]
  dsimp only
  rw [hheld]
  exact if_pos (by simpa [halive] using hdone)

theorem foldNext_cons {s : State} {r p : Nat} {rest : List Nat} (h : (getRegion s r).foldQ = p :: rest) (halive : regionAlive s r = true) :
    foldNext s r = foldPage (readFold s r) r p := by
  rw [foldNext, h]
  exact if_pos halive

/-! ## PT_RECORD_WRITE (R280) -/

/-- A region whose oldest record in force has gone into the table. -/
def recordWritten (p : PtRec) (rest : List PtRec) (x : Region) : Region :=
  { setPte x p.page { tabGet pteReset x.pt p.page with frame := p.frame, valid := p.valid, lapLocal := p.lapLocal } with ptForce := rest }

theorem ptWriteNext_cons {s : State} {r : Nat} {p : PtRec} {rest : List PtRec} (h : (getRegion s r).ptForce = p :: rest) :
    ptWriteNext s r = updRegion (readSystem s r .pageTable) r (recordWritten p rest) := by
  rw [ptWriteNext, h]
  rfl

theorem recordWritten_table (p : PtRec) (rest : List PtRec) (x : Region) (q : Nat) :
    tabGet pteReset (recordWritten p rest x).pt q = if q = p.page then
      { tabGet pteReset x.pt p.page with frame := p.frame, valid := p.valid, lapLocal := p.lapLocal } else tabGet pteReset x.pt q :=
  tabGet_tabSet ..

theorem updRegion_frame (s : State) (r : Nat) (f : Region → Region) :
    updRegion s r f = { s with regions := (updRegion s r f).regions } := rfl

/-! ## PT_UPDATE_RECORD (R280, R538, R548, R554) -/

/-- A command of the host on the page-table registers of a region, as its input record leaves the part (R538). -/
def hostRecorded (s : State) (who : Requester) (r : Nat) (w : Word) : State := rowInput s who (0x20_0008 + r * 0x1_0000) w.toNat

theorem hostRecorded_eq (s : State) (who : Requester) (r : Nat) (w : Word) :
    hostRecorded s who r w = if who = .bar0 then driverWrite s (0x20_0008 + r * 0x1_0000) w.toNat else s := rowInput_eq_ite ..

theorem getRegion_rowInput (s : State) (who : Requester) (o v q : Nat) : getRegion (rowInput s who o v) q = getRegion s q := by
  obtain ⟨x, k, h⟩ := rowInput_eq s who o v
  rw [h]; rfl

theorem whoReaches_rowInput (s : State) (who : Requester) (o v : Nat) (asker : Requester) (r : Option Nat) :
    whoReaches (rowInput s who o v) asker r = whoReaches s asker r := by
  obtain ⟨x, k, h⟩ := rowInput_eq s who o v
  rw [h]; rfl

section
variable {s : State} {who : Requester} {r : Nat} (w : Word)

/-- The state that PT_UPDATE_RECORD leaves. -/
def ptUpdated (s : State) (who : Requester) (r : Nat) (w : Word) : State :=
  if whoReaches s who (some r) && whoServed s who then ptUpdate (hostRecorded s who r w) who r w.toNat else s

theorem exec_ptUpdateRecord (s : State) (who : Requester) (r : Nat) (w : Word) :
    exec (.ptUpdateRecord who r w) s = .next (ptUpdated s who r w) := rfl

theorem ptUpdated_unreached (h : whoReaches s who (some r) = false ∨ who = .bar0 ∧ fget s fPART_BOOT_STATUS_PHASE 0 0 ≠ 4) :
    ptUpdated s who r w = s := by
  refine if_neg ?_
  rcases h with h | ⟨rfl, h⟩
  · simp [h]
  · simp [whoServed, h]

variable (hreach : whoReaches s who (some r) = true) (hserved : whoServed s who = true)
include hreach hserved

theorem ptUpdated_reached : ptUpdated s who r w = ptUpdate (hostRecorded s who r w) who r w.toNat := if_pos (by simp [hreach, hserved])

theorem ptUpdated_cut (h : regionAlive s r = false) : ptUpdated s who r w = hostRecorded s who r w := by
  rw [ptUpdated_reached w hreach hserved]
  exact if_pos (.inl (by simp [hostRecorded, h]))

theorem ptUpdated_posts (hwho : who ≠ .sideband) (halive : regionAlive s r = true) : ptUpdated s who r w =
    ptPost (hostRecorded s who r w) r (tabGet indReset (getRegion s r).ind (copyOf who)).ptWord0 w.toNat := by
  have hwho' : whoServed (hostRecorded s who r w) who = true := by simpa [whoServed, hostRecorded] using hserved
  rw [ptUpdated_reached w hreach hserved, ptUpdate, if_neg, if_neg hwho, hostRecorded, getRegion_rowInput]
  simp only [hostRecorded] at hwho'
  simp [hostRecorded, halive, whoReaches_rowInput, hreach, hwho']

end

theorem ptUpdated_sideband {s : State} {r : Nat} (w : Word) (h : regionAlive s r = true) :
    ptUpdated s .sideband r w = fput s fRGN_IND_STATUS_REFUSED r 2 1 := by
  have hrec : hostRecorded s .sideband r w = s := by simp [hostRecorded_eq]
  rw [ptUpdated_reached w rfl rfl, hrec, ptUpdate, if_neg (by simp [h, whoReaches, whoServed]), if_pos rfl]

theorem whoServed_of_ready {s : State} {who : Requester} (h : who = .bar0 → fget s fPART_BOOT_STATUS_PHASE 0 0 = 4) : whoServed s who = true := by
  by_cases hw : who = .bar0
  · simp [whoServed, h hw]
  · simp [whoServed, hw]

/-- The record that two words spell (R280). -/
def ptRecord (w0 w1 : Nat) : PtRec := ⟨nbits w0 0 21, nbits w1 0 21, nbit w1 21, nbit w1 22⟩

theorem ptPost_queued {s : State} {r : Nat} (w0 w1 : Nat) (hs : inService s = true)
    (h : (getRegion s r).ptPend.length + (getRegion s r).ptForce.length < 4096) :
    ptPost s r w0 w1 = updRegion s r fun x => { x with ptPend := x.ptPend ++ [ptRecord w0 w1] } := by
  simp only [ptPost, hs, Bool.not_true, Bool.false_eq_true, reduceIte]
  exact if_neg (by omega)

theorem ptPost_full {s : State} {r : Nat} (w0 w1 : Nat) (hs : inService s = true)
    (h : 4096 ≤ (getRegion s r).ptPend.length + (getRegion s r).ptForce.length) : ptPost s r w0 w1 = fput s fRGN_PT_STATUS_QUEUE_FULL r 0 1 := by
  simp only [ptPost, hs, Bool.not_true, Bool.false_eq_true, reduceIte]
  exact if_pos h

/-- The part as a record posted out of lap service finds it: the table and the frame map have been read (R287). -/
def tablesRead (s : State) (r : Nat) : State := readSystem (readSystem s r .pageTable) r .frameMap

/-- A region whose page has taken a record posted out of lap service. -/
def recordTaken (p : PtRec) (x : Region) : Region :=
  setPte (settlePt x p.page) p.page
    { tabGet pteReset (settlePt x p.page).pt p.page with frame := p.frame, valid := p.valid, lapLocal := p.lapLocal }

theorem ptPost_rejected {s : State} {r : Nat} {w0 w1 : Nat} (hs : inService s = false)
    (h : ptEffect (tablesRead s r) r (ptRecord w0 w1) = none) : ptPost s r w0 w1 = fput (tablesRead s r) fRGN_PT_STATUS_UPDATE_REJECTED r 0 1 := by
  simp only [ptRecord] at h
  simp only [tablesRead, ptPost, hs] at h ⊢
  simp only [h]
  rfl

theorem ptPost_taken {s t : State} {r : Nat} {w0 w1 : Nat} (hs : inService s = false)
    (h : ptEffect (tablesRead s r) r (ptRecord w0 w1) = some t) : ptPost s r w0 w1 = updRegion t r (recordTaken (ptRecord w0 w1)) := by
  simp only [ptRecord] at h
  simp only [tablesRead, ptPost, hs] at h ⊢
  simp only [h]
  rfl

theorem ptEffect_held {s : State} {r : Nat} {p : PtRec} (h : (pteOf (getRegion s r) p.page).helds ≠ []) : ptEffect s r p = none := by
  simp [ptEffect, h]

theorem recordTaken_page (p : PtRec) (x : Region) :
    let e := tabGet pteReset (recordTaken p x).pt p.page
    e.frame = p.frame ∧ e.valid = p.valid ∧ e.lapLocal = p.lapLocal := by
  intro e
  have he : e = { tabGet pteReset (settlePt x p.page).pt p.page with frame := p.frame, valid := p.valid, lapLocal := p.lapLocal } :=
    tabGet_tabSet_self ..
  rw [he]
  exact ⟨rfl, rfl, rfl⟩

/-- Settles O43: each command by its own equation; what it writes to the page table is read back entry by entry. -/
theorem heldMemory : Obligations.HeldMemory := by
  intro s r
  refine ⟨fun frame page e h hpage hheld halive hdone => ?_,
    fun p rest h halive => next_congr (foldNext_cons h halive), fun p rest h => ?_, ?_⟩
  · obtain ⟨hfill, rfl⟩ := fillCopy_completes hpage hheld halive hdone
    exact next_congr hfill
  · obtain ⟨l, hregion⟩ := getRegion_readSystem s r .pageTable
    have hwritten : getRegion (updRegion (readSystem s r .pageTable) r (recordWritten p rest)) r =
        recordWritten p rest { getRegion s r with sysBad := l } := by rw [getRegion_updRegion_self, hregion]
    refine ⟨_, next_congr (ptWriteNext_cons h), by rw [hwritten]; rfl, ?_, fun q hq => ?_, updRegion_frame .., fun v hv => getRegion_updRegion_ne _ _ hv⟩
    · rw [hwritten, recordWritten_table, if_pos rfl]
      exact ⟨rfl, rfl, rfl, rfl⟩
    · rw [hwritten, recordWritten_table, if_neg hq]
  · intro who w got
    have hgot : hostRecorded s who r w = got := hostRecorded_eq ..
    have hregion : getRegion got r = getRegion s r := by rw [← hgot]; exact getRegion_rowInput ..
    have hservice : inService got = inService s := by rw [← hgot]; exact inService_rowInput ..
    clear_value got
    subst hgot
    refine ⟨fun h => next_congr (ptUpdated_unreached w h), fun hreach hready hcut => next_congr (ptUpdated_cut w hreach (whoServed_of_ready hready) hcut),
      ?_, ?_⟩
    · rintro rfl halive
      exact next_congr (ptUpdated_sideband w halive)
    · intro hwho hreach hready halive x w0 p
      have hpost := ptUpdated_posts w hreach (whoServed_of_ready hready) hwho halive
      refine ⟨fun hs hroom => next_congr (hpost.trans (ptPost_queued _ _ (hservice.trans hs) (by rw [hregion]; exact hroom))),
        fun hs hfull => next_congr (hpost.trans (ptPost_full _ _ (hservice.trans hs) (by rw [hregion]; exact hfull))), fun hs => ?_⟩
      refine ⟨fun hnone => next_congr (hpost.trans (ptPost_rejected (hservice.trans hs) hnone)), ptEffect_held, fun t hsome => ?_⟩
      refine ⟨_, next_congr (hpost.trans (ptPost_taken (hservice.trans hs) hsome)), updRegion_frame .., ?_⟩
      rw [getRegion_updRegion_self]
      exact recordTaken_page p (getRegion t r)

end Sys2Proof.Machine
end

section
/-! A task that starts in a part whose memory is sound (R129, R298, R603): its program and its arm list are read as they stand. -/

namespace Sys2Proof.Machine

/-! ## Reads of sound memory -/

/-- In what a read of sound memory looks at, t is as s: the grade, the lap and, but for the system structures that a read repairs, the regions. -/
structure ReadsSame (s t : State) : Prop where
  fuses : t.fuses = s.fuses
  num : t.lap.num = s.lap.num
  region : ∀ r, ∃ l, getRegion t r = { getRegion s r with sysBad := l }
  sound : ∀ r < 8, hbmSound s r = true → hbmSound t r = true

theorem ReadsSame.trans {s t u : State} (h : ReadsSame s t) (h' : ReadsSame t u) : ReadsSame s u where
  fuses := h'.fuses.trans h.fuses
  num := h'.num.trans h.num
  region r := by
    obtain ⟨l, hl⟩ := h.region r
    obtain ⟨l', hl'⟩ := h'.region r
    exact ⟨l', by rw [hl', hl]⟩
  sound r hr hs := h'.sound r hr (h.sound r hr hs)

theorem ReadsSame.of_eq {s t : State} (hfuses : t.fuses = s.fuses) (hnum : t.lap.num = s.lap.num) (hregions : t.regions = s.regions)
    (hflds : t.flds = s.flds) : ReadsSame s t where
  fuses := hfuses
  num := hnum
  region r := ⟨(getRegion s r).sysBad, by rw [getRegion, hregions]; rfl⟩
  sound r _ hs := by simpa only [hbmSound, getRegion, fget, hregions, hflds, hfuses] using hs

theorem readsSame_readSystem (s : State) (r : Nat) (k : SysStruct) : ReadsSame s (readSystem s r k) := by
  unfold readSystem
  dsimp only
  split
  · exact .of_eq rfl rfl rfl rfl
  · have hregion : ∀ q, ∃ l, getRegion (updRegion s r fun x => { x with sysBad := x.sysBad.filter fun i => i / 2 != k.code }) q =
        { getRegion s q with sysBad := l } := fun q => by
      by_cases hq : q = r
      · rw [hq, getRegion_updRegion_self]
        exact ⟨_, rfl⟩
      · rw [getRegion_updRegion_ne _ _ hq]
        exact ⟨_, rfl⟩
    refine ⟨rfl, rfl, hregion, fun q _ hs => ?_⟩
    obtain ⟨l, hl⟩ := hregion q
    rw [hbmSound, hl]
    exact hs

theorem readsSame_readTables (s : State) (r : Nat) : ReadsSame s (readTables s r) :=
  ((readsSame_readSystem ..).trans (readsSame_readSystem ..)).trans (readsSame_readSystem ..)

section
variable {s t : State} (h : ReadsSame s t)
include h

theorem ReadsSame.regionPresent (r : Nat) : regionPresent t r = regionPresent s r := by
  rw [Machine.regionPresent, Machine.regionPresent, nRegions, nRegions, h.fuses]

theorem ReadsSame.regionAlive (r : Nat) : regionAlive t r = regionAlive s r := by
  obtain ⟨l, hl⟩ := h.region r
  rw [Machine.regionAlive, Machine.regionAlive, h.regionPresent, hl]

theorem ReadsSame.placeOf (own : Option Nat) (a : Nat) : placeOf t own a = placeOf s own a := by
  unfold Machine.placeOf corePresent
  rw [show Machine.regionPresent t = Machine.regionPresent s from funext h.regionPresent, h.fuses]

theorem ReadsSame.committedOk (r page off n : Nat) : committedOk t r page off n = committedOk s r page off n := by
  obtain ⟨l, hl⟩ := h.region r
  simp only [Machine.committedOk, hl]
  rfl

theorem ReadsSame.readPage (r lap slot : Nat) (e : PTE) (epoch : List (Nat × Nat)) (off n : Nat) :
    readPage (getRegion t r) e lap slot epoch off n = readPage (getRegion s r) e lap slot epoch off n := by
  obtain ⟨l, hl⟩ := h.region r
  induction n generalizing off with
  | zero => rfl
  | succ n ih =>
    rw [Machine.readPage, Machine.readPage, ih, hl]
    rfl

theorem ReadsSame.pteOf (r page : Nat) : pteOf (getRegion t r) page = pteOf (getRegion s r) page := by
  obtain ⟨l, hl⟩ := h.region r
  rw [hl]
  rfl

theorem ReadsSame.readHbm (r slot : Nat) (epoch : List (Nat × Nat)) (fuel page off n : Nat) :
    readHbm t r slot epoch fuel page off n = readHbm s r slot epoch fuel page off n := by
  induction fuel generalizing page off n with
  | zero => rfl
  | succ fuel ih => simp only [Machine.readHbm, ih, h.readPage, h.pteOf, h.num]

end

theorem readHbmEcc_sound {s : State} {r : Nat} (h : hbmSound s r = true) (slot : Nat) (epoch : List (Nat × Nat)) (fuel page off n : Nat) :
    (readHbmEcc s r slot epoch fuel page off n).2 = false ∧
      ((readHbmEcc s r slot epoch fuel page off n).1 = s ∨ (readHbmEcc s r slot epoch fuel page off n).1 = readTables s r) := by
  cases fuel with
  | zero => exact ⟨rfl, .inl rfl⟩
  | succ fuel =>
    unfold readHbmEcc
    split
    · exact ⟨rfl, .inl rfl⟩
    · exact ⟨rfl, .inr rfl⟩

theorem placeOf_hbm_region {s : State} {a r page off : Nat} (h : placeOf s none a = .hbm r page off) : r < 8 := by
  unfold placeOf at h
  split at h
  · split at h <;> cases h
    omega
  · dsimp only at h
    split_ifs at h

/-- All of HBM is sound. -/
def Sound (s : State) : Prop := ∀ r < 8, hbmSound s r = true

theorem ReadsSame.keepsSound {s t : State} (h : ReadsSame s t) (hs : Sound s) : Sound t := fun r hr => h.sound r hr (hs r hr)

theorem taskRead_leaves {s : State} (h : Sound s) (a n : Nat) : (taskRead s a n).1 = s ∨ ∃ r, (taskRead s a n).1 = readTables s r := by
  unfold taskRead
  split
  · rename_i r page off hplace
    split
    · exact .inl rfl
    · split
      · exact (readHbmEcc_sound (h r (placeOf_hbm_region hplace)) ..).2.imp_right fun hr => ⟨r, hr⟩
      · exact .inl rfl
  · exact .inl rfl

theorem taskRead_readsSame {s : State} (h : Sound s) (a n : Nat) : ReadsSame s (taskRead s a n).1 := by
  rcases taskRead_leaves h a n with ht | ⟨r, ht⟩
  · rw [ht]
    exact .of_eq rfl rfl rfl rfl
  · rw [ht]
    exact readsSame_readTables s r

theorem readTables_frame (s : State) (r : Nat) : (readTables s r).lap = s.lap ∧ (readTables s r).cores = s.cores := by
  have hone : ∀ (t : State) (k : SysStruct), (readSystem t r k).lap = t.lap ∧ (readSystem t r k).cores = t.cores := fun t k => by
    unfold readSystem
    dsimp only
    split <;> exact ⟨rfl, rfl⟩
  unfold readTables
  exact ⟨by rw [(hone _ _).1, (hone _ _).1, (hone _ _).1], by rw [(hone _ _).2, (hone _ _).2, (hone _ _).2]⟩

theorem taskRead_frame {s : State} (h : Sound s) (a n : Nat) : (taskRead s a n).1.lap = s.lap ∧ (taskRead s a n).1.cores = s.cores := by
  rcases taskRead_leaves h a n with ht | ⟨r, ht⟩
  · rw [ht]
    exact ⟨rfl, rfl⟩
  · rw [ht]
    exact readTables_frame s r

theorem taskRead_ok_congr {s t : State} {b : Bytes} (hst : ReadsSame s t) (h : Sound s) {a n : Nat} (hb : (taskRead s a n).2 = .ok b) :
    (taskRead t a n).2 = .ok b := by
  cases hplace : placeOf s none a with
  | hbm r page off =>
    have hr := h r (placeOf_hbm_region hplace)
    simp only [taskRead, hplace, hst.placeOf, hst.regionAlive, hst.committedOk] at hb ⊢
    cases halive : regionAlive s r <;> cases hok : committedOk s r page off n <;>
      simp only [halive, hok, Bool.not_true, Bool.not_false, Bool.false_eq_true, reduceIte, reduceCtorEq] at hb ⊢
    simpa only [(readHbmEcc_sound hr ..).1, (readHbmEcc_sound (hst.sound r (placeOf_hbm_region hplace) hr) ..).1, Bool.false_eq_true,
      reduceIte, readCommitted, hst.readHbm] using hb
  | _ => simp only [taskRead, hplace, reduceCtorEq] at hb

/-! ## The unit as its task begins (R129) -/

theorem ReadsSame.refl (s : State) : ReadsSame s s := .of_eq rfl rfl rfl rfl

theorem ReadsSame.foldl {α : Type} {g : State → α → State} (h : ∀ s a, ReadsSame s (g s a)) (l : List α) (s : State) :
    ReadsSame s (l.foldl g s) := by
  induction l generalizing s with
  | nil => exact .refl s
  | cons a l ih => exact (h s a).trans (ih _)

theorem fldKey_rgn_ne {f g : Fld} {r u i : Nat} (hf : f.space = .rgn) (hoff : f.off < 65536) (hlo : f.lo < 32) (hr : r < 8)
    (hg : 3 ≤ spaceIdx g.space) : fldKey f r 0 ≠ fldKey g u i := by
  unfold fldKey
  rw [hf, show spaceIdx .rgn = 2 from rfl]
  omega

/-- A write to a field of a block, a core or a stack engine leaves what says whether HBM is sound. -/
theorem readsSame_fput (s : State) {f : Fld} (hf : 3 ≤ spaceIdx f.space) (u i v : Nat) : ReadsSame s (fput s f u i v) where
  fuses := rfl
  num := rfl
  region r := ⟨(getRegion s r).sysBad, rfl⟩
  sound r hr hs := by
    rw [hbmSound, getRegion_fput, fget_fput_ne _ _ _ _ _ _ _ _ (fldKey_rgn_ne rfl (by decide) (by decide) hr hf),
      fget_fput_ne _ _ _ _ _ _ _ _ (fldKey_rgn_ne rfl (by decide) (by decide) hr hf)]
    exact hs

theorem readsSame_setCore (s : State) (u : Nat) (c : Core) : ReadsSame s (setCore s u c) := .of_eq rfl rfl rfl rfl

theorem readsSame_clearCounts (s : State) (u : Nat) : ReadsSame s (clearCounts s u) := by
  unfold clearCounts
  refine ReadsSame.trans (.of_eq rfl rfl rfl rfl : ReadsSame s (updCore s u fun c => { c with conf := [] })) ?_
  dsimp only
  split
  · exact readsSame_fput _ (by decide) ..
  · simp only [List.foldl_cons, List.foldl_nil]
    repeat' refine ReadsSame.trans ?_ (readsSame_fput _ (by decide) ..)
    exact .refl _

theorem readsSame_resetChannels (s : State) (u : Nat) : ReadsSame s (resetChannels s u) := by
  unfold resetChannels
  split
  · exact .refl s
  · refine ReadsSame.foldl (fun t ch => ?_) _ s
    refine ReadsSame.trans ?_ ((readsSame_fput _ (by decide) ..).trans (readsSame_fput _ (by decide) ..))
    exact .of_eq rfl rfl rfl rfl

/-- A unit as its task begins: engines, counters and channels are cleared. -/
def unitBegun (s : State) (u : Nat) (k : LapTask) : State :=
  resetChannels (clearCounts (setCore s u { freshCore (isSE u) (getCore s u) with task := some k.slot, lastTask := some k.slot }) u) u

theorem beginTask_eq (s : State) (u : Nat) (k : LapTask) : beginTask s u k =
    updTask (drawFree (unitBegun s u k)).2 k.slot fun q => { q with started := true, startNs := (drawFree (unitBegun s u k)).1 } := rfl

theorem readsSame_unitBegun (s : State) (u : Nat) (k : LapTask) : ReadsSame s (unitBegun s u k) :=
  ((readsSame_setCore s u _).trans (readsSame_clearCounts _ u)).trans (readsSame_resetChannels _ u)

theorem readsSame_beginTask (s : State) (u : Nat) (k : LapTask) : ReadsSame s (beginTask s u k) :=
  (readsSame_unitBegun s u k).trans (.of_eq rfl rfl rfl rfl)

theorem clearCounts_frame (s : State) (u : Nat) :
    (clearCounts s u).lap = s.lap ∧ (clearCounts s u).cores = (updCore s u fun c => { c with conf := [] }).cores := by
  unfold clearCounts
  dsimp only
  split <;> exact ⟨rfl, rfl⟩

theorem foldl_proj {α β : Type} {g : State → α → State} {p : State → β} (h : ∀ s a, p (g s a) = p s) (l : List α) (s : State) :
    p (l.foldl g s) = p s := by
  induction l generalizing s with
  | nil => rfl
  | cons a l ih => exact (ih _).trans (h s a)

theorem resetChannels_frame (s : State) (u : Nat) : (resetChannels s u).lap = s.lap ∧ (resetChannels s u).cores = s.cores := by
  unfold resetChannels
  split
  · exact ⟨rfl, rfl⟩
  · constructor
    · refine foldl_proj (p := State.lap) (fun _ _ => ?_) _ s
      rfl
    · refine foldl_proj (p := State.cores) (fun _ _ => ?_) _ s
      rfl

/-- A unit is at word 0 of a running task, which counts as started. -/
structure AtStart (u slot : Nat) (t : State) : Prop where
  running : (getCore t u).seq.st = .running
  pc : (getCore t u).seq.pc = 0
  task : (getCore t u).task = some slot
  started : ∃ q ∈ t.lap.cur, q.slot = slot ∧ q.started = true

theorem AtStart.of_frame {u slot : Nat} {s t : State} (h : AtStart u slot s) (hf : t.lap = s.lap ∧ t.cores = s.cores) : AtStart u slot t := by
  obtain ⟨hlap, hcores⟩ := hf
  refine ⟨?_, ?_, ?_, hlap ▸ h.started⟩ <;> rw [getCore_congr hcores]
  exacts [h.running, h.pc, h.task]

theorem AtStart.updCore {u slot : Nat} {s : State} (h : AtStart u slot s) {f : Core → Core} (hst : ∀ c, (f c).seq.st = c.seq.st)
    (hpc : ∀ c, (f c).seq.pc = c.seq.pc) (htask : ∀ c, (f c).task = c.task) : AtStart u slot (updCore s u f) := by
  refine ⟨?_, ?_, ?_, h.started⟩ <;> rw [getCore_updCore_self]
  exacts [(hst _).trans h.running, (hpc _).trans h.pc, (htask _).trans h.task]

theorem unitBegun_lap (s : State) (u : Nat) (k : LapTask) : (unitBegun s u k).lap = s.lap :=
  (resetChannels_frame _ u).1.trans (clearCounts_frame _ u).1

theorem getCore_unitBegun (s : State) (u : Nat) (k : LapTask) : getCore (unitBegun s u k) u =
    { freshCore (isSE u) (getCore s u) with task := some k.slot, lastTask := some k.slot, conf := [] } := by
  unfold unitBegun
  rw [getCore_congr (resetChannels_frame _ u).2, getCore_congr (clearCounts_frame _ u).2, getCore_updCore_self, getCore_setCore_self]

theorem beginTask_atStart {s : State} {u : Nat} {k : LapTask} (hk : k ∈ s.lap.cur) : AtStart u k.slot (beginTask s u k) := by
  have hcore : getCore (beginTask s u k) u = _ := getCore_unitBegun s u k
  refine ⟨?_, ?_, ?_, ?_⟩
  · rw [hcore]; rfl
  · rw [hcore]; rfl
  · rw [hcore]
  · rw [beginTask_eq]
    refine ⟨{ k with started := true, startNs := (drawFree (unitBegun s u k)).1 }, ?_, rfl, rfl⟩
    show _ ∈ (unitBegun s u k).lap.cur.map _
    rw [unitBegun_lap]
    exact List.mem_map.2 ⟨k, hk, by simp⟩

/-! ## Its program and its arm list (R129, R316 to R319) -/

theorem foldl_fixed_of_mem {α β : Type} {g : β → α → β} {b : β} {l : List α} (h : ∀ a ∈ l, g b a = b) : l.foldl g b = b := by
  induction l with
  | nil => rfl
  | cons a l ih =>
    rw [List.foldl_cons, h a List.mem_cons_self]
    exact ih fun x hx => h x (List.mem_cons_of_mem _ hx)

theorem bindRands_none {s : State} {u : Nat} {k : LapTask} {hdr : Nat} (h : ∀ i < 8, nbit hdr (32 * i + 16) = false) : bindRands s u k hdr = s :=
  foldl_fixed_of_mem fun i hi => if_neg (by simp [h i (mem_rangeFrom.1 hi).2])

theorem armAll_none {u : Nat} {l : List Nat} (s : State) (h : ∀ e ∈ l, nbit e 3 = false) : armAll u l s = (s, none) := by
  induction l with
  | nil => rfl
  | cons e l ih =>
    rw [armAll, if_neg (by simp [h e List.mem_cons_self])]
    exact ih fun x hx => h x (List.mem_cons_of_mem _ hx)

theorem readDescs_none {l : List Nat} (s : State) (h : ∀ e ∈ l, nbit e 3 = false) : readDescs l s = (s, .ok []) := by
  induction l with
  | nil => rfl
  | cons e l ih =>
    rw [readDescs, if_neg (by simp [h e List.mem_cons_self])]
    exact ih fun x hx => h x (List.mem_cons_of_mem _ hx)

section
variable {s : State} {u : Nat} {k : LapTask} (hsound : Sound s) (hstart : AtStart u k.slot s)
include hsound hstart

theorem readProgram_atStart {reuse : Bool} {b : Bytes} (hb : (taskRead s k.desc.program (64 * k.desc.programWords)).2 = .ok b) :
    AtStart u k.slot (readProgram s u k.desc reuse) ∧ ReadsSame s (readProgram s u k.desc reuse) := by
  unfold readProgram
  split
  · exact ⟨hstart, .refl s⟩
  · dsimp only
    rw [hb]
    have hread := hstart.of_frame (taskRead_frame hsound k.desc.program (64 * k.desc.programWords))
    exact ⟨hread.updCore (fun _ => rfl) (fun _ => rfl) fun _ => rfl, (taskRead_readsSame hsound ..).trans (.of_eq rfl rfl rfl rfl)⟩

theorem armTask_atStart {b : Bytes} (hb : (taskRead s k.desc.armList (64 + 128 * k.desc.armCount)).2 = .ok b)
    (hrands : ∀ i < 8, nbit (leNat (b.take 64)) (32 * i + 16) = false)
    (harms : ∀ e ∈ blocksOf 128 k.desc.armCount (b.drop 64), nbit (leNat e) 3 = false) : AtStart u k.slot (armTask s u k) := by
  have harms' : ∀ e ∈ (blocksOf 128 k.desc.armCount (b.drop 64)).map leNat, nbit e 3 = false := fun e he => by
    obtain ⟨x, hx, rfl⟩ := List.mem_map.1 he
    exact harms x hx
  unfold armTask
  dsimp only
  rw [hb]
  dsimp only
  rw [readDescs_none _ harms']
  dsimp only
  rw [bindRands_none hrands, armAll_none _ harms']
  dsimp only
  refine AtStart.updCore ?_ (fun _ => rfl) (fun _ => rfl) fun _ => rfl
  exact hstart.of_frame (taskRead_frame hsound k.desc.armList (64 + 128 * k.desc.armCount))

end

theorem taskStart_atStart {s : State} {u : Nat} {k : LapTask} {pb ab : Bytes} (hmay : mayStart s u = true) (hnext : nextTask s u = some k)
    (hfiller : k.filler = false) (hsound : Sound s) (hprogram : (taskRead s k.desc.program (64 * k.desc.programWords)).2 = .ok pb)
    (hlist : (taskRead s k.desc.armList (64 + 128 * k.desc.armCount)).2 = .ok ab)
    (hrands : ∀ i < 8, nbit (leNat (ab.take 64)) (32 * i + 16) = false)
    (harms : ∀ e ∈ blocksOf 128 k.desc.armCount (ab.drop 64), nbit (leNat e) 3 = false) : AtStart u k.slot (taskStart s u) := by
  have hbegin : AtStart u k.slot (beginTask s u k) := beginTask_atStart (List.mem_of_find?_eq_some hnext)
  have hsame := readsSame_beginTask s u k
  obtain ⟨hread, hsame'⟩ := readProgram_atStart (reuse := reusable (getCore s u) k.desc) (hsame.keepsSound hsound) hbegin
    (taskRead_ok_congr hsame hsound hprogram)
  have hall := hsame.trans hsame'
  have hload : taskStart s u = armTask (readProgram (beginTask s u k) u k.desc (reusable (getCore s u) k.desc)) u k := by
    rw [taskStart, if_neg (by simp [hmay]), hnext]
    simp only [hfiller, Bool.false_eq_true, reduceIte, loadTask]
    rw [if_neg (by rw [hread.running]; decide)]
  rw [hload]
  exact armTask_atStart (hall.keepsSound hsound) hread (taskRead_ok_congr hall hsound hlist) hrands harms

end Sys2Proof.Machine
end

section
/-! The commands of the lap, of its tasks and of held memory complete (R45, R46, R48, R55, R68, R71, R95, R129, R280, R283, R489, R604). -/

namespace Sys2Proof.Machine

/-! ## Mark, commit point, plan point, first issue -/

theorem benchMark_marks {s : State} (h : s.lap.phase = .issuing) :
    (benchMark s).lap.phase = .marked ∧ (benchMark s).lap.num = (s.lap.num + 1) % 2 ^ 48 := by
  obtain ⟨hnum, hphase⟩ := endLap_marked (atMark s)
  obtain ⟨-, hnum', hphase'⟩ := keptLap_eq (keptLap_of_kept (startLap_kept (endLap (atMark s))))
  rw [benchMark_issuing h, hnum', hphase', hnum, hphase, atMark_lap]
  exact ⟨rfl, rfl⟩

theorem commitPoint_commits {s : State} (h : s.lap.phase = .marked) :
    (commitPoint s).lap.num = s.lap.num ∧ ((commitPoint s).lap.phase = .committed ∨ (commitPoint s).lap.phase = .off) := by
  obtain ⟨p, hp, hto⟩ := commitPoint_keptTo s h
  obtain ⟨-, hnum, rfl⟩ := keptLap_eq (keptLap_of_keptTo hto)
  exact ⟨hnum, hp⟩

theorem benchCommit_commits {s : State} (h : s.lap.phase = .marked) :
    (benchCommit s).lap.num = s.lap.num ∧ ((benchCommit s).lap.phase = .committed ∨ (benchCommit s).lap.phase = .off) := by
  cases hb : benchOn s with
  | false => rw [benchCommit_off hb]; exact commitPoint_commits h
  | true =>
    have hkept : kept ((benchInputs s s.lap.num [4]).foldl giveControl s) = kept s := kept_foldl _ _ _ giveControl_kept
    obtain ⟨-, hnum, hphase⟩ := keptLap_eq (keptLap_of_kept hkept)
    obtain ⟨hnum', hphase'⟩ := commitPoint_commits (hphase.trans h)
    rw [benchCommit_on h hb]
    exact ⟨hnum'.trans hnum, hphase'⟩

theorem planPoint_plans {s : State} (hdue : planDue s = true) (hplanned : s.lap.planned = false) (hmanager : s.part.manager ≠ none) :
    (planPoint s).lap.planned = true := by
  unfold planPoint
  rw [if_neg (by simp [hdue, hplanned, hmanager])]
  rfl

theorem benchIssue_issues {s : State} (h : s.lap.phase = .committed) (htrip : s.part.thermTrip = false) :
    (benchIssue s).lap.phase = .issuing ∧ (benchIssue s).lap.num = s.lap.num := by
  obtain ⟨-, hnum, hphase⟩ := keptLap_eq (keptLap_of_keptTo (firstIssue_keptTo s h htrip))
  unfold benchIssue
  dsimp only
  split
  · obtain ⟨-, hnum', hphase'⟩ := keptLap_eq (giveInputs_keptTo (benchInputs (firstIssue s) (firstIssue s).lap.num [2, 3, 5, 6]) (firstIssue s)).1
    exact ⟨hphase'.trans hphase, hnum'.trans hnum⟩
  · exact ⟨hphase, hnum⟩

/-! ## Lap-clean words -/

theorem pump_lap (p n : Nat) (s : State) : (pump p n s).lap = s.lap := by
  induction n generalizing s with
  | zero => rfl
  | succ n ih =>
    unfold pump
    split
    · rfl
    · dsimp only
      split
      · rfl
      · rw [ih]; rfl

theorem pumpAll_lap (s : State) (p : Nat) : (pumpAll s p).lap = s.lap := by
  unfold pumpAll
  extract_lets sent
  have hsent : sent.lap = s.lap := pump_lap ..
  clear_value sent
  split <;> exact hsent

theorem portSend_lap (s : State) (p prio : Nat) (fs : List Flit) : (portSend s p prio fs).lap = s.lap := pumpAll_lap ..

theorem errPart_lap (s : State) (rec : Nat) : (errPart s rec).lap = s.lap := lap_of_told (errPart_told ..)

theorem partnerLost_owed (s : State) (p : Nat) : (partnerLost s p).lap.owed = s.lap.owed := by
  unfold partnerLost
  split
  · rfl
  · dsimp only
    split
    · rw [errPart_lap, fput_lap, errPart_lap, errPart_lap]; rfl
    · rw [errPart_lap, errPart_lap]; rfl

/-- A control record that goes out leaves the words that are still owed (R66). -/
theorem sendControl_owed (s : State) (dst type : Nat) (w : BitVec 256) : (sendControl s dst type w).lap.owed = s.lap.owed := by
  unfold sendControl sendControls
  split
  · rfl
  · split
    · split
      · rw [portSend_lap]; rfl
      · rw [portSend_lap]
    · exact partnerLost_owed ..

theorem hasNat_filter_ne (l : List Nat) (k : Nat) : hasNat (l.filter fun p => p != k) k = false := by
  simp [hasNat]

theorem lapCleanSend_sent {s : State} {dst : Nat} (hs : inService s = true) (ho : hasNat s.lap.owed dst = true)
    (hv : s.lap.phase ≠ .marked ∨ votesIn s dst = true) : hasNat (lapCleanSend s dst).lap.owed dst = false := by
  rw [lapCleanSend_owed hs ho hv, sendControl_owed]
  exact hasNat_filter_ne ..

theorem recordOk_trkControl (s : State) (type : Nat) (w v : BitVec 256) : recordOk (trkControl s type w) v = recordOk s v := by
  obtain ⟨x, k, h⟩ := trkInput_eq s 4 (managerRegion s) (nbits w.toNat 48 17) (natLe 32 w.toNat ++ natLe 1 type)
  rw [trkControl, h]; rfl

theorem lapN_congr {s t : State} (h : t.lap = s.lap) : lapN t = lapN s := by rw [lapN, lapN, h]

theorem lapClean_votes {s : State} {w : BitVec 256} (hs : inService s = true) (hok : recordOk s w = true)
    (hlap : (voteOfWord w.toNat).lap = lapN s) (hm : s.lap.phase = .marked) :
    ∃ v ∈ (lapClean s w).lap.votes, v.src = (voteOfWord w.toNat).src ∧ v.lap = lapN s := by
  have hok' := (recordOk_trkControl s 1 w w).trans hok
  have hlap' := hlap.trans (lapN_congr (trkControl_lap s 1 w)).symm
  cases hany : (trkControl s 1 w).lap.votes.any (fun x => x.src == (voteOfWord w.toNat).src && x.lap == (voteOfWord w.toNat).lap) with
  | false =>
    rw [lapClean_marked hs hok' hlap' hm hany]
    exact ⟨voteOfWord w.toNat, List.mem_append_right _ (List.mem_singleton_self _), rfl, hlap⟩
  | true =>
    have hsame : lapClean s w = trkControl s 1 w := by
      simp only [lapClean]
      rw [if_neg (by simp [inService_trkControl, hs, hok', hlap']), if_pos (by rw [trkControl_lap, hm]), if_pos hany]
    obtain ⟨v, hv, he⟩ := List.any_eq_true.1 hany
    simp only [Bool.and_eq_true, beq_iff_eq] at he
    exact ⟨v, hsame ▸ hv, he.1, he.2.trans hlap⟩

theorem lapClean_records {s : State} {w : BitVec 256} (hs : inService s = true) (hok : recordOk s w = true)
    (hlap : (voteOfWord w.toNat).lap = lapN s) (hm : s.lap.phase ≠ .marked) : voteOfWord w.toNat ∈ (lapClean s w).lap.late := by
  rw [lapClean_late hs ((recordOk_trkControl s 1 w w).trans hok) (hlap.trans (lapN_congr (trkControl_lap s 1 w)).symm) hm,
    (lateWord_counted _ _).1]
  exact List.mem_append_right _ (List.mem_singleton_self _)

/-! ## A task that finishes (R48, R130) -/

theorem taskBySlot_some {l : List LapTask} {slot : Nat} {k : LapTask} (h : taskBySlot l slot = some k) : k ∈ l ∧ k.slot = slot := by
  refine ⟨List.mem_of_find?_eq_some h, ?_⟩
  simpa using List.find?_some h

theorem unitTask_mem {s : State} {u : Nat} {k : LapTask} (h : unitTask s u = some k) : k ∈ s.lap.cur := by
  unfold unitTask at h
  split at h
  · exact (taskBySlot_some h).1
  · cases h

theorem mem_updTask {s : State} {k : LapTask} (f : LapTask → LapTask) (hk : k ∈ s.lap.cur) : f k ∈ (updTask s k.slot f).lap.cur :=
  List.mem_map.2 ⟨k, hk, if_pos (beq_self_eq_true _)⟩

theorem getCore_spend_seq (s : State) (u n : Nat) : (getCore (spend s u n) u).seq = (getCore s u).seq := by
  unfold spend
  dsimp only
  rw [getCore_updCore_self]
  rfl

theorem taskFinish_finishes {s : State} {u : Nat} {k : LapTask} (ns nj : Nat) (hk : unitTask s u = some k) (hf : hasFinished s u = true) :
    (getCore (taskFinish s u ns nj) u).seq.st = .idle ∧ ∃ q ∈ (taskFinish s u ns nj).lap.cur, q.slot = k.slot ∧ q.finished = true := by
  have hmem : k ∈ s.lap.cur := unitTask_mem hk
  simp only [taskFinish, hk, hf, Bool.true_or, Bool.not_true, Bool.false_eq_true, reduceIte]
  constructor
  · refine (congrArg Seq.st (getCore_spend_seq ..)).trans ?_
    rw [getCore_setCore_self]
  · exact ⟨_, mem_updTask _ hmem, rfl, rfl⟩

/-! ## Held memory and its registers -/

theorem fillHeld_filled (failed : Option Nat) (x : Region) (page : Nat) (h : Held) :
    ∀ g ∈ (tabGet pteReset (fillHeld failed x page h).pt page).helds, g.lap = h.lap → g.slot = h.slot → g.filled = true := by
  intro g hg hlap hslot
  have hpage : (tabGet pteReset (fillHeld failed x page h).pt page).helds =
      (tabGet pteReset x.pt page).helds.map fun g => if g.lap = h.lap ∧ g.slot = h.slot then { g with filled := true } else g :=
    congrArg PTE.helds (tabGet_tabSet_self ..)
  rw [hpage] at hg
  obtain ⟨f, -, rfl⟩ := List.mem_map.1 hg
  by_cases hf : f.lap = h.lap ∧ f.slot = h.slot
  · rw [if_pos hf]
  · rw [if_neg hf] at hlap hslot
    exact absurd ⟨hlap, hslot⟩ hf

theorem fillPage_filled (s : State) (r page : Nat) (h : Held) :
    ∀ g ∈ (tabGet pteReset (getRegion (fillPage s r page h) r).pt page).helds, g.lap = h.lap → g.slot = h.slot → g.filled = true := by
  unfold fillPage
  rw [getRegion_updRegion_self]
  exact fillHeld_filled _ _ page h

theorem foldPage_folded (s : State) (r page : Nat) : hasNat (getRegion (foldPage s r page) r).foldQ page = false := by
  unfold foldPage
  dsimp only
  rw [getRegion_updRegion_self]
  exact hasNat_filter_ne ..

/-! ## A write that waited for a frame (R604) -/

theorem getMv_setMv_self (c : Core) (m : Nat) (x : Mover) : getMv (setMv c m x) m = x := tabGet_tabSet_self ..

theorem flushDue_waitsFrame (c : Core) (m : Nat) : (getMv (flushDue c m) m).waitsFrame = (getMv c m).waitsFrame := by
  unfold flushDue
  dsimp only
  split
  · split
    · rw [getMv_setMv_self]
    · rfl
  · rfl

theorem advance_waitsFrame (c : Core) (m n : Nat) : (getMv (advance c m n) m).waitsFrame = false := by
  unfold advance
  dsimp only
  split
  · rw [getMv_setMv_self]
  · rw [flushDue_waitsFrame, getMv_setMv_self]

theorem frameResume_accepts {s v : State} {u m : Nat} {q : Inflight} (hst : (getCore s u).seq.st = .running)
    (hwaits : (getMv (getCore s u) m).waitsFrame = true) (hreq : (getMv (getCore s u) m).req = some q) (hwop : pWop (getMv (getCore s u) m).pat = 0)
    (hwrite : writeAt (updMv s u m fun x => { x with waitsFrame := false }) u q.addr q.data = .ok v) :
    frameResume s u m = updCore (conflictAt v u m q.addr) u fun c => advance c m q.len := by
  simp only [frameResume, hreq, hwaits, hst, and_self, reduceIte, acceptWrite, readForAdd, hwop, Nat.zero_ne_one, hwrite]

/-- Settles O48: where a command takes place its own equation says what it leaves, and a mark, a commit point and first issue are followed through
what the bench gives again beside them. -/
theorem lapCommandsComplete : Obligations.LapCommandsComplete := by
  intro s
  refine ⟨fun h => ⟨_, rfl, benchMark_marks h⟩, fun h => ⟨_, rfl, benchCommit_commits h⟩, fun hdue hp hm => ⟨_, rfl, planPoint_plans hdue hp hm⟩,
    fun h ht => ⟨_, rfl, benchIssue_issues h ht⟩, fun dst hs ho hv => ⟨_, rfl, lapCleanSend_sent hs ho hv⟩,
    fun w hs hok hl => ⟨_, rfl, lapClean_votes hs hok hl, lapClean_records hs hok hl⟩,
    fun h => ⟨_, next_congr (holdoverLimit_past h), rfl⟩,
    fun hs => ⟨_, next_congr (if_neg (by simp [hs])), lap_of_told (doorbellRead_told s)⟩, ?_,
    fun u ns nj k hk hf => ⟨_, rfl, taskFinish_finishes ns nj hk hf⟩, fun r frame page e h hpage hheld halive hdone => ?_,
    fun r p rest h halive => ⟨_, next_congr (foldNext_cons h halive), foldPage_folded ..⟩,
    fun r p rest h => ⟨_, next_congr (ptWriteNext_cons h), ?_⟩, fun r w hup hready halive hs hroom => ?_, ?_⟩
  · intro u k pb ab hmay hnext hfiller hsound hprogram hlist hrands harms
    obtain ⟨hst, hpc, htask, hstarted⟩ := taskStart_atStart hmay hnext hfiller (fun r _ => hsound r) hprogram hlist hrands harms
    exact ⟨_, rfl, hst, hpc, htask, hstarted⟩
  · obtain ⟨hfill, -⟩ := fillCopy_completes hpage hheld halive hdone
    exact ⟨_, next_congr hfill, fillPage_filled s r _ h⟩
  · rw [getRegion_updRegion_self]
    rfl
  · have hposts := ptUpdated_posts w (show whoReaches s .bar0 (some r) = true from hup) (whoServed_of_ready fun _ => hready) (by decide) halive
    have hregion : getRegion (hostRecorded s .bar0 r w) r = getRegion s r := getRegion_rowInput ..
    have hservice : inService (hostRecorded s .bar0 r w) = inService s := inService_rowInput ..
    refine ⟨_, next_congr (hposts.trans (ptPost_queued _ _ (hservice.trans hs) (by rw [hregion]; exact hroom))), ?_⟩
    rw [getRegion_updRegion_self, hregion]
    exact List.length_append
  · intro u m q v hst hwaits hreq _ hwop hwrite
    refine ⟨_, next_congr (frameResume_accepts hst hwaits hreq hwop hwrite), ?_⟩
    rw [getCore_updCore_self]
    exact advance_waitsFrame ..

end Sys2Proof.Machine
end

section
/-! Lap markers, grandmasters and the lap reference (R44, R45, R467 to R470, R575, R592). -/

namespace Sys2Proof.Machine

/-! ## What a marker does, by the place it arrives at -/

/-- A port hears markers: it is up and has MARKER_OK (R467). -/
def HearsMarkers (s : State) (p : Nat) : Prop := portUp s p = true ∧ pget s fDZL_PORT_CFG_MARKER_OK p ≠ 0

/-- A marker of the receiver's own domain and period on such a port. -/
def MarkerCounts (s : State) (p : Nat) (m : Marker) : Prop :=
  HearsMarkers s p ∧ domainOf m.gmId = domainOf (selfId s) ∧ m.periodUs = periodUs s

/-- The lap whose mark a marker near this part's own mark announces (R467). -/
def markerLap (s : State) (m : Marker) : Nat := if m.arrivalPs < 0 then s.lap.num + 1 else s.lap.num

section
variable {s : State} {p : Nat} {m : Marker}

theorem markerIn_unheard (h : portUp s p = false ∨ pget s fDZL_PORT_CFG_MARKER_OK p = 0) : markerIn s p m = s :=
  if_pos (by simpa using h)

theorem markerIn_heard (h : HearsMarkers s p) :
    ¬ (!portUp s p || pget s fDZL_PORT_CFG_MARKER_OK p == 0) = true := by
  obtain ⟨hup, hok⟩ := h
  simp [hup, hok]

theorem markerIn_foreign (h : HearsMarkers s p) (hd : domainOf m.gmId ≠ domainOf (selfId s)) : markerIn s p m = s := by
  rw [markerIn, if_neg (markerIn_heard h), if_pos hd]

theorem markerIn_otherPeriod (h : HearsMarkers s p) (hd : domainOf m.gmId = domainOf (selfId s)) (hp : m.periodUs ≠ periodUs s) :
    markerIn s p m = periodMismatch s := by
  rw [markerIn, if_neg (markerIn_heard h), if_neg (not_not.2 hd), if_pos hp]

theorem markerIn_outOfService (h : MarkerCounts s p m) (hs : inService s = false) :
    markerIn s p m =
      if awaitsService s then acquire { s with link := { s.link with stoodDown := s.link.stoodDown || isMaster s } } p m else s := by
  obtain ⟨hh, hd, hp⟩ := h
  rw [markerIn, if_neg (markerIn_heard hh), if_neg (not_not.2 hd), if_neg (not_not.2 hp), if_pos (by simp [hs])]

theorem markerIn_offLap (h : MarkerCounts s p m) (hs : inService s = true)
    (hm : 1000000 < m.arrivalPs.natAbs ∨ m.lap ≠ markerLap s m) : markerIn s p m = s := by
  obtain ⟨hh, hd, hp⟩ := h
  rw [markerIn, if_neg (markerIn_heard hh), if_neg (not_not.2 hd), if_neg (not_not.2 hp), if_neg (by simp [hs])]
  exact if_pos hm

theorem markerIn_onLap (h : MarkerCounts s p m) (hs : inService s = true) (hnear : m.arrivalPs.natAbs ≤ 1000000)
    (hlap : m.lap = markerLap s m) :
    markerIn s p m = if s.link.activeGm then (if m.gmId = selfId s ∨ 20 ≤ m.depth then s else standDown s p m)
      else if 20 ≤ m.depth then tooDeep s else takeMarker s p m := by
  obtain ⟨hh, hd, hp⟩ := h
  have hon : ¬ (1000000 < m.arrivalPs.natAbs ∨ m.lap ≠ markerLap s m) := not_or.2 ⟨Nat.not_lt.2 hnear, not_not.2 hlap⟩
  rw [markerIn, if_neg (markerIn_heard hh), if_neg (not_not.2 hd), if_neg (not_not.2 hp), if_neg (by simp [hs])]
  exact if_neg hon

/-! ## Acquisition and standing down -/

theorem acquire_first (h : s.link.cand = none) : acquire s p m = { s with link := { s.link with cand := some (candOf s p m) } } := by
  rw [acquire, h]

theorem acquire_second {a : MarkCand} (h : s.link.cand = some a) (hport : a.port = p) (hlap : m.lap = a.lap + 1)
    (hnear : ((candOf s p m).markPs - a.markPs).natAbs ≤ 1000000) (hdepth : m.depth < 20) :
    acquire s p m = enterService { s with link := { s.link with
      cand := none, upstream := some p, depth := m.depth + 1, gm := some (m.gmId, m.gmRank), marks := [], activeGm := false } } m.lap := by
  rw [acquire, h]
  dsimp only
  rw [if_neg fun hother => hother.1 hport, if_pos ⟨hport, hlap, hnear⟩, if_neg (Nat.not_le.2 hdepth)]

theorem takeMarker_eq (s : State) (p : Nat) (m : Marker) :
    takeMarker s p m = { s with
      lap := { s.lap with holdover := 0 }
      link := { s.link with
        marks := s.link.marks.filter (fun x => x.port != p) ++ [candOf s p m]
        markAdjust := if s.link.upstream = some p ∨ s.link.upstream = none then (candOf s p m).markPs else s.link.markAdjust } } := by
  unfold takeMarker
  dsimp only
  by_cases hup : s.link.upstream = some p ∨ s.link.upstream = none
  · rw [if_pos hup, if_pos (by exact hup)]; rfl
  · rw [if_neg hup, if_neg (by exact hup)]; rfl

theorem standDown_lower {id rank : Nat} (h : s.link.gm = some (id, rank)) (hlow : m.gmRank < rank ∨ m.gmRank = rank ∧ m.gmId < id) :
    standDown s p m = takeMarker { s with link := { s.link with
      activeGm := false, stoodDown := true, gmHoldover := false, gm := some (m.gmId, m.gmRank), upstream := some p, depth := m.depth + 1 } } p m := by
  rw [standDown, h]
  exact if_pos hlow

theorem standDown_notLower {id rank : Nat} (h : s.link.gm = some (id, rank)) (hlow : ¬ (m.gmRank < rank ∨ m.gmRank = rank ∧ m.gmId < id)) :
    standDown s p m = s := by
  rw [standDown, h]
  exact if_neg hlow

/-! ## The choice of the upstream at the mark -/

theorem chooseUpstream_deep (hm : s.link.marks = []) (hd : s.link.deep = true) :
    chooseUpstream s = depthExceeded { s with link := { s.link with marks := [], deep := false } } := by
  simp only [chooseUpstream, hm, hd, List.find?_nil, List.foldl_nil, Option.or_none, reduceIte]

theorem chooseUpstream_one {c : MarkCand} (hm : s.link.marks = [c]) :
    chooseUpstream s = { s with link := { s.link with
      upstream := some c.port, depth := c.depth + 1, gm := some (c.gmId, c.gmRank), marks := [], deep := false } } := by
  have hchosen : ([c].find? fun m => s.link.upstream == some m.port).or (some c) = some c := by
    cases hf : [c].find? fun m => s.link.upstream == some m.port with
    | none => rfl
    | some d => rw [List.mem_singleton.1 (List.mem_of_find?_eq_some hf)]; rfl
  simp only [chooseUpstream, hm, List.foldl_cons, List.foldl_nil, hchosen]

/-! ## The lap reference -/

/-- An edge shows that the lap-reference input is connected (log entry 105). -/
def edgeSeen (s : State) : State := { s with pins := { s.pins with lapRef := true } }

theorem lapRefEdge_master (o : Int) (hmaster : isMaster s = true) :
    lapRefEdge s o =
      if awaitsService s then enterService { edgeSeen s with link := { s.link with
        activeGm := true, gm := some (selfId s, 0), depth := 0, upstream := none, marks := [], cand := none,
        edgeTaken := true, edgeMisses := 0, gmHoldover := false, markAdjust := 0 } } (bootLap s)
      else if !inService s || !s.link.activeGm || decide (1000000 < o.natAbs) then edgeSeen s
      else { edgeSeen s with link := { s.link with
        edgeTaken := true, edgeMisses := 0, gmHoldover := false, markAdjust := max (-10000) (min 10000 o) } } := by
  have hseen : isMaster (edgeSeen s) = true := hmaster
  exact if_neg (c := (!isMaster (edgeSeen s)) = true) (by simp [hseen])

theorem lapRefEdge_unmastered (o : Int) (h : isMaster s = false) : lapRefEdge s o = edgeSeen s :=
  have hseen : isMaster (edgeSeen s) = false := h
  if_pos (c := (!isMaster (edgeSeen s)) = true) (by simp [hseen])

theorem lapRefEdge_waiting (o : Int) (hmaster : isMaster s = true) (hs : inService s = false) (hboot : fget s fPART_BOOT_CTRL_SERVICE 0 0 = 1) :
    lapRefEdge s o = enterService { edgeSeen s with link := { s.link with
      activeGm := true, gm := some (selfId s, 0), depth := 0, upstream := none, marks := [], cand := none,
      edgeTaken := true, edgeMisses := 0, gmHoldover := false, markAdjust := 0 } } (bootLap s) := by
  rw [lapRefEdge_master o hmaster, if_pos (by simp [awaitsService, hs, hboot])]

theorem lapRefEdge_taken {o : Int} (hmaster : isMaster s = true) (hs : inService s = true) (hgm : s.link.activeGm = true)
    (hnear : o.natAbs ≤ 1000000) :
    lapRefEdge s o = { edgeSeen s with link := { s.link with
      edgeTaken := true, edgeMisses := 0, gmHoldover := false, markAdjust := max (-10000) (min 10000 o) } } := by
  rw [lapRefEdge_master o hmaster, if_neg (by simp [awaitsService, hs]), if_neg (by simp [hs, hgm, hnear])]

theorem lapRefEdge_passed {o : Int} (hmaster : isMaster s = true) (hs : inService s = true)
    (h : s.link.activeGm = false ∨ 1000000 < o.natAbs) : lapRefEdge s o = edgeSeen s := by
  rw [lapRefEdge_master o hmaster, if_neg (by simp [awaitsService, hs]), if_pos (by simpa [hs] using h)]

theorem takeover_due (h : inService s = true ∧ s.link.activeGm = false ∧ s.pins.lapRef = true ∧ fget s fPART_LAP_BACKUP_RANK 0 0 ≠ 0 ∧
      2 + fget s fPART_LAP_BACKUP_RANK 0 0 ≤ s.lap.holdover ∧ s.link.marks = []) :
    takeover s = { s with
      lap := { s.lap with holdover := 0 }
      link := { s.link with
        activeGm := true, stoodDown := false, gm := some (selfId s, fget s fPART_LAP_BACKUP_RANK 0 0), depth := 0, upstream := none } } := by
  obtain ⟨hs, hgm, hpin, hrank, hheld, hmarks⟩ := h
  simp only [takeover]
  rw [if_neg (by simp [hs, hgm, hpin, hrank, hheld, hmarks])]
  rfl

theorem takeover_notDue (h : ¬ (inService s = true ∧ s.link.activeGm = false ∧ s.pins.lapRef = true ∧ fget s fPART_LAP_BACKUP_RANK 0 0 ≠ 0 ∧
      2 + fget s fPART_LAP_BACKUP_RANK 0 0 ≤ s.lap.holdover ∧ s.link.marks = [])) : takeover s = s := by
  simp only [takeover]
  refine if_pos ?_
  by_contra hnot
  simp only [Bool.or_eq_true, not_or, Bool.not_eq_true', Bool.not_eq_false, Bool.not_eq_true, decide_eq_true_eq, not_lt, List.isEmpty_iff] at hnot
  obtain ⟨⟨⟨⟨⟨hs, hgm⟩, hpin⟩, hrank⟩, hheld⟩, hmarks⟩ := hnot
  exact h ⟨hs, hgm, hpin, hrank, hheld, hmarks⟩

/-! ## Each place, as the statement has it -/

theorem waiting_marker {c : MarkCand} {follows : Bool} (h : MarkerCounts s p m) (hs : inService s = false) (hc : c = candOf s p m)
    (hf : follows = (s.link.stoodDown || isMaster s)) :
    (fget s fPART_BOOT_CTRL_SERVICE 0 0 ≠ 1 → markerIn s p m = s) ∧
    (fget s fPART_BOOT_CTRL_SERVICE 0 0 = 1 →
      (s.link.cand = none → markerIn s p m = { s with link := { s.link with cand := some c, stoodDown := follows } }) ∧
      ∀ a, s.link.cand = some a → a.port = p → m.lap = a.lap + 1 → (c.markPs - a.markPs).natAbs ≤ 1000000 → m.depth < 20 →
        markerIn s p m = enterService { s with link := { s.link with
          cand := none, upstream := some p, depth := m.depth + 1, gm := some (m.gmId, m.gmRank), marks := [], activeGm := false,
          stoodDown := follows } } m.lap) := by
  subst hc hf
  rw [markerIn_outOfService h hs]
  refine ⟨fun hboot => if_neg (by simp [awaitsService, hboot]), fun hboot => ?_⟩
  rw [if_pos (by simp [awaitsService, hs, hboot])]
  exact ⟨fun hnone => acquire_first hnone, fun a ha hport hlap hnear hdepth => acquire_second ha hport hlap hnear hdepth⟩

theorem near_marker (h : MarkerCounts s p m) (hs : inService s = true) (hnear : m.arrivalPs.natAbs ≤ 1000000)
    (hlap : m.lap = markerLap s m) :
    (20 ≤ m.depth → s.link.activeGm = true → markerIn s p m = s) ∧
    (20 ≤ m.depth → s.link.activeGm = false → markerIn s p m = { s with link := { s.link with deep := true } }) ∧
    (m.depth < 20 → s.link.activeGm = false → markerIn s p m = takeMarker s p m) ∧
    (m.depth < 20 → s.link.activeGm = true → m.gmId = selfId s → markerIn s p m = s) ∧
    (m.depth < 20 → s.link.activeGm = true → m.gmId ≠ selfId s → markerIn s p m = standDown s p m) := by
  rw [markerIn_onLap h hs hnear hlap]
  refine ⟨fun hd hgm => ?_, fun hd hgm => ?_, fun hd hgm => ?_, fun hd hgm hself => ?_, fun hd hgm hother => ?_⟩
  · rw [if_pos hgm, if_pos (.inr hd)]
  · rw [hgm, if_neg Bool.false_ne_true, if_pos hd]; rfl
  · rw [hgm, if_neg Bool.false_ne_true, if_neg (Nat.not_le.2 hd)]
  · rw [if_pos hgm, if_pos (.inl hself)]
  · rw [if_pos hgm, if_neg (not_or.2 ⟨hother, Nat.not_le.2 hd⟩)]

theorem takeMarker_takes {c : MarkCand} (hc : c = candOf s p m) :
    (takeMarker s p m).lap = { s.lap with holdover := 0 } ∧
    (takeMarker s p m).link.marks = s.link.marks.filter (fun x => x.port != p) ++ [c] ∧
    (takeMarker s p m).link.markAdjust = (if s.link.upstream = some p ∨ s.link.upstream = none then c.markPs else s.link.markAdjust) ∧
    takeMarker s p m = { s with
      lap := (takeMarker s p m).lap
      link := { s.link with marks := (takeMarker s p m).link.marks, markAdjust := (takeMarker s p m).link.markAdjust } } := by
  subst hc
  rw [takeMarker_eq]
  exact ⟨rfl, rfl, rfl, rfl⟩

theorem standDown_follows {id rank : Nat} (h : s.link.gm = some (id, rank)) (hlow : m.gmRank < rank ∨ m.gmRank = rank ∧ m.gmId < id) :
    (standDown s p m).link.activeGm = false ∧ (standDown s p m).link.gm = some (m.gmId, m.gmRank) ∧
    (standDown s p m).link.upstream = some p ∧ (standDown s p m).link.depth = m.depth + 1 ∧ (standDown s p m).lap.holdover = 0 := by
  rw [standDown_lower h hlow, takeMarker_eq]
  exact ⟨rfl, rfl, rfl, rfl, rfl⟩

/-- An offset is taken whole up to 10 ns, and else cut to 10 ns (R470). -/
theorem clamp_edge (o : Int) : (o.natAbs ≤ 10000 → max (-10000) (min 10000 o) = o) ∧ (10000 < o → max (-10000) (min 10000 o) = 10000) ∧
    (o < -10000 → max (-10000) (min 10000 o) = -10000) := by
  omega

theorem lapRefHoldover_cases (s : State) :
    ((isMaster s = true ∧ inService s = true ∧ s.link.activeGm = true ∧ 2 ≤ s.link.edgeMisses ∧ s.link.gmHoldover = false) →
      lapRefHoldover s = raiseTimebase { s with link := { s.link with gmHoldover := true } }) ∧
    (¬ (isMaster s = true ∧ inService s = true ∧ s.link.activeGm = true ∧ 2 ≤ s.link.edgeMisses ∧ s.link.gmHoldover = false) →
      lapRefHoldover s = s) := by
  have hiff : (isMaster s && inService s && s.link.activeGm && decide (2 ≤ s.link.edgeMisses) && !s.link.gmHoldover) = true ↔
      isMaster s = true ∧ inService s = true ∧ s.link.activeGm = true ∧ 2 ≤ s.link.edgeMisses ∧ s.link.gmHoldover = false := by
    simp only [Bool.and_eq_true, decide_eq_true_eq, Bool.not_eq_true', and_assoc]
  exact ⟨fun h => if_pos (hiff.2 h), fun h => if_neg fun hheld => h (hiff.1 hheld)⟩

end

/-- Settles O55, place by place: where a marker arrives, and what the part is when it does. -/
theorem markersAndGrandmasters : Obligations.MarkersAndGrandmasters := by
  refine ⟨fun s p m => ⟨fun h => next_congr (markerIn_unheard h), fun hup hok => ?_⟩, fun s => ⟨chooseUpstream_deep, fun m hm => ?_, ?_, ?_, ?_, ?_⟩⟩
  · intro t c
    have hh : HearsMarkers s p := ⟨hup, hok⟩
    refine ⟨fun hd => next_congr (markerIn_foreign hh hd), fun hd hp => ⟨fun h => ?_, fun h => ?_⟩, fun hd hp hs => ?_, fun hd hp hs => ?_⟩
    · exact next_congr ((markerIn_otherPeriod hh hd hp).trans (if_pos h))
    · exact next_congr ((markerIn_otherPeriod hh hd hp).trans (if_neg h))
    · obtain ⟨hidle, hwait⟩ := waiting_marker (c := c) ⟨hh, hd, hp⟩ hs rfl rfl
      refine ⟨fun h => next_congr (hidle h), fun h => ?_⟩
      obtain ⟨hfirst, hsecond⟩ := hwait h
      exact ⟨fun hn => next_congr (hfirst hn), fun a ha h1 h2 h3 h4 => next_congr (hsecond a ha h1 h2 h3 h4)⟩
    · refine ⟨fun h => next_congr (markerIn_offLap ⟨hh, hd, hp⟩ hs h), fun hnear hlap => ?_⟩
      obtain ⟨hdeepGm, hdeep, htakes, hself, hother⟩ := near_marker ⟨hh, hd, hp⟩ hs hnear hlap
      refine ⟨fun hd => ⟨fun hgm => next_congr (hdeepGm hd hgm), fun hgm => next_congr (hdeep hd hgm)⟩,
        fun hd hgm => ⟨_, next_congr (htakes hd hgm), takeMarker_takes rfl⟩, fun hd hgm h => next_congr (hself hd hgm h),
        fun id rank hd hgm hne h => ⟨fun hlow => ⟨_, next_congr (hother hd hgm hne), standDown_follows h hlow⟩,
          fun hlow => next_congr ((hother hd hgm hne).trans (standDown_notLower h hlow))⟩⟩
  · rw [chooseUpstream_one hm]; exact ⟨rfl, rfl⟩
  · exact ⟨fun h => next_congr (takeover_due h), fun h => next_congr (takeover_notDue h)⟩
  · exact fun o h => next_congr (lapRefEdge_unmastered o h)
  · intro o hmaster seen
    exact ⟨fun hs hboot => next_congr (lapRefEdge_waiting o hmaster hs hboot),
      fun hs hgm hnear => ⟨_, next_congr (lapRefEdge_taken hmaster hs hgm hnear), rfl, clamp_edge o⟩,
      fun hs h => next_congr (lapRefEdge_passed hmaster hs h)⟩
  · obtain ⟨hheld, hnot⟩ := lapRefHoldover_cases s
    exact ⟨fun h => next_congr (hheld h), fun h => next_congr (hnot h)⟩

end Sys2Proof.Machine
end

section
/-! A committed read that cannot be answered (R453, R465, R538): without a path back, the model goes on from the state before the request was
recorded. -/

namespace Sys2Proof.Machine

/-! ## The part that has no path back -/

/-- A recorder that has been started, and one region whose page 0 is mapped and holds page 0 of owner table 0, which this part owns. No port is
up. -/
def unroutedOwner : State := fput { State.reset with
  part := { State.reset.part with manager := some 0 }
  owners := [(0, ⟨16, 1, [(0, selfId State.reset + 2 ^ 41)]⟩)]
  regions := [(0, { regionReset with pt := [(0, ⟨0, true, false, []⟩)] })] } fPART_TRK_STATUS_STATE 0 0 1

/-- A read of the first 32 bytes of that page, from part 1. -/
def ownerRequest : Segment := ⟨1, selfId unroutedOwner, 0, false, true, false, 0, 0, 0, 0, 0, 32, 0, 32, [], false, 0⟩

/-- What that read resolves to. -/
def requestedPage : Owned := ⟨selfId unroutedOwner, 0, 0, 0, 1⟩

/-- How many inputs the recorder holds after a command. -/
def recordsAfter : Host.Outcome State Fault Refusal → Nat
  | .next t => t.trk.recs.length
  | _ => 0

theorem requestedPage_resolves : ownerPlace unroutedOwner ownerRequest false ownerRequest.readLen = some requestedPage := by decide +kernel

theorem readOwner_forgetsRequest : recordsAfter (exec (.readOwner ownerRequest) unroutedOwner) = 0 := by decide +kernel

/-- Refutes O53: a committed read whose answer has no path back loses its source, but from the state before the request: its input record
(R538) and what the read corrected on the way are not in the state that follows. The statement keeps both. In `unroutedOwner` the recorder is
on and holds no record after the command, where the statement has one. -/
theorem not_linkTraffic : ¬ Obligations.LinkTraffic := by
  rintro ⟨-, hsegments, -⟩
  obtain ⟨-, -, -, -, -, hread, -⟩ := hsegments unroutedOwner ownerRequest rfl
  have hnotLate : ¬ (ownerRequest.held = false ∧ inService unroutedOwner = true ∧ ownerRequest.lap ≠ unroutedOwner.lap.num) :=
    fun ⟨_, hserved, _⟩ => absurd hserved (by decide +kernel)
  obtain ⟨-, -, hlost⟩ := hread requestedPage hnotLate requestedPage_resolves
  have hkept := congrArg recordsAfter (hlost (by decide +kernel) (by decide +kernel) (by decide +kernel))
  rw [readOwner_forgetsRequest] at hkept
  exact absurd hkept (by decide +kernel)

end Sys2Proof.Machine
end

section
/-! Graphs and nudges that wait on the host side (R492, R500): reports write neither list, and cuts and reads of memory leave the open graphs alone
too. `told` has the graphs, which no report writes; what follows adds the host's two lists to it, and takes both through cuts. -/

namespace Sys2Proof.Machine

/-! ## Reports leave the waiting graphs and nudges alone -/

/-- Graphs that wait for another of their ID, and nudges that wait to be served. -/
def hostQueues (s : State) : List Graph × List Nat := (s.host.sameId, s.host.nudges)

theorem updHost_hostQueues (s : State) {f : HostSt → HostSt} (hsame : (f s.host).sameId = s.host.sameId)
    (hnudges : (f s.host).nudges = s.host.nudges) :
    hostQueues (updHost s f) = hostQueues s := Prod.ext hsame hnudges

theorem foldl_hostQueues {α : Type} {g : State → α → State} (h : ∀ s a, hostQueues (g s a) = hostQueues s) (l : List α) (s : State) :
    hostQueues (l.foldl g s) = hostQueues s := by
  induction l generalizing s with
  | nil => rfl
  | cons a l ih => exact (ih _).trans (h s a)

@[simp] theorem hostTouch_hostQueues (s : State) (h n : Nat) : hostQueues (hostTouch s h n) = hostQueues s := by
  unfold hostTouch; split <;> rfl

@[simp] theorem hostWrite_hostQueues (s : State) (h : Nat) (b : Bytes) : hostQueues (hostWrite s h b) = hostQueues s := by
  unfold hostWrite; split <;> rfl

@[simp] theorem setRingIndex_hostQueues (s : State) (sel v : Nat) : hostQueues (setRingIndex s sel v) = hostQueues s := rfl

@[simp] theorem fireVector_hostQueues (s : State) (v : Nat) : hostQueues (fireVector s v) = hostQueues s := by
  unfold fireVector; (repeat' split) <;> rfl

@[simp] theorem trkTrigger_hostQueues (s : State) : hostQueues (trkTrigger s) = hostQueues s := by
  unfold trkTrigger; split <;> rfl

theorem trkInput_host (s : State) (source region addr : Nat) (data : Bytes) : (trkInput s source region addr data).host = s.host := by
  obtain ⟨x, k, h⟩ := trkInput_eq s source region addr data
  rw [h]

@[simp] theorem trkInput_hostQueues (s : State) (source region addr : Nat) (data : Bytes) :
    hostQueues (trkInput s source region addr data) = hostQueues s := by
  rw [hostQueues, trkInput_host, hostQueues]

@[simp] theorem hostFetch_hostQueues (s : State) (h n : Nat) : hostQueues (hostFetch s h n) = hostQueues s := by
  rw [hostFetch, trkInput_hostQueues, hostTouch_hostQueues]

theorem ringPut_hostQueues {s t : State} {ring : Nat} {mk : Nat → Nat} (h : ringPut s ring mk = some t) : hostQueues t = hostQueues s := by
  unfold ringPut at h
  extract_lets sel p n a w touched written at h
  split at h
  · rw [← Option.some.inj h, setRingIndex_hostQueues, hostWrite_hostQueues, hostWrite_hostQueues, hostTouch_hostQueues, hostTouch_hostQueues]
  · cases h

@[simp] theorem putEvent_hostQueues (s : State) (ring : Nat) (mk : Nat → Nat) (irq : Bool) (how : RingEnd) :
    hostQueues (putEvent s ring mk irq how).1 = hostQueues s := by
  unfold putEvent
  split
  · rename_i t ht
    dsimp only
    split
    · rw [fireVector_hostQueues, ringPut_hostQueues ht]
    · exact ringPut_hostQueues ht
  · rfl

@[simp] theorem putLost_hostQueues (s : State) (ring count next : Nat) (irq : Bool) : hostQueues (putLost s ring count next irq).1 = hostQueues s :=
  (putEvent_hostQueues ..).trans (updHost_hostQueues s rfl rfl)

@[simp] theorem putOrLose_hostQueues (s : State) (ring : Nat) (mk : Nat → Nat) (irq : Bool) :
    hostQueues (putOrLose s ring mk irq).1 = hostQueues s := by
  unfold putOrLose
  extract_lets lost counted
  have hcounted : hostQueues counted = hostQueues s := rfl
  clear_value counted
  split
  · exact putEvent_hostQueues ..
  · split
    · exact (updHost_hostQueues counted rfl rfl).trans hcounted
    · exact (putLost_hostQueues ..).trans hcounted

@[simp] theorem ringEvent_hostQueues (s : State) (ring : Nat) (mk : Nat → Nat) (irq : Bool) :
    hostQueues (ringEvent s ring mk irq).1 = hostQueues s := by
  unfold ringEvent
  dsimp only
  (repeat' split) <;> simp only [putOrLose_hostQueues, putLost_hostQueues]

@[simp] theorem errRings_hostQueues (rec : Nat) (rings : List Nat) (s : State) (bad : List Nat) :
    hostQueues (errRings rec rings s bad).1 = hostQueues s := by
  induction rings generalizing s bad with
  | nil => rfl
  | cons ring rings ih =>
    unfold errRings
    dsimp only
    split
    · rw [ih]; split <;> simp only [fireVector_hostQueues, ringEvent_hostQueues]
    · exact ih ..

theorem partTake_hostQueues {out : State → Nat → State} (hout : ∀ s a, hostQueues (out s a) = hostQueues s) (s : State) (rec : Nat) :
    hostQueues (partTake out s rec) = hostQueues s := by
  unfold partTake
  dsimp only
  split <;> exact hout ..

theorem errOutN_hostQueues (n : Nat) (s : State) (rec : Nat) : hostQueues (errOutN n s rec) = hostQueues s := by
  induction n generalizing s rec with
  | zero => rfl
  | succ n ih =>
    unfold errOutN
    extract_lets noted triggered rings r sent
    have htriggered : hostQueues triggered = hostQueues s := by
      dsimp only [triggered]
      split
      · exact trkTrigger_hostQueues noted
      · rfl
    have hsent : hostQueues sent = hostQueues s := by
      dsimp only [sent, r]
      split <;> simp only [fireVector_hostQueues, errRings_hostQueues, htriggered]
    exact (foldl_hostQueues (fun s a => partTake_hostQueues ih s _) _ _).trans hsent

@[simp] theorem errOut_hostQueues (s : State) (rec : Nat) : hostQueues (errOut s rec) = hostQueues s := errOutN_hostQueues ..

@[simp] theorem errPart_hostQueues (s : State) (rec : Nat) : hostQueues (errPart s rec) = hostQueues s := partTake_hostQueues errOut_hostQueues s rec

@[simp] theorem postEvent_hostQueues (s : State) (ring type code gid task detail : Nat) :
    hostQueues (postEvent s ring type code gid task detail) = hostQueues s := by
  unfold postEvent
  dsimp only
  (repeat' split) <;> simp only [errPart_hostQueues, ringEvent_hostQueues]

@[simp] theorem unreported_hostQueues (s : State) (entry : Nat) (notRing : Bool) : hostQueues (unreported s entry notRing) = hostQueues s :=
  errPart_hostQueues ..

@[simp] theorem rejectGraph_hostQueues (s : State) (g : Graph) (code : Nat) : hostQueues (rejectGraph s g code) = hostQueues s := by
  unfold rejectGraph
  split
  · exact postEvent_hostQueues ..
  · exact unreported_hostQueues ..

/-! ## Entries that need no command leave them alone -/

@[simp] theorem ringFault_hostQueues (s : State) (sel addr : Nat) (overrun : Bool) : hostQueues (ringFault s sel addr overrun) = hostQueues s :=
  errPart_hostQueues ..

@[simp] theorem readWord_hostQueues (s : State) (sel : Nat) : hostQueues (readWord s sel).1 = hostQueues s := by
  unfold readWord
  dsimp only
  split
  · split
    · exact ringFault_hostQueues ..
    · rfl
  · split <;> rfl

@[simp] theorem writeHead_hostQueues (s : State) (n : Nat) : hostQueues (writeHead s n) = hostQueues s := by
  unfold writeHead
  extract_lets noted a
  have hnoted : hostQueues noted = hostQueues s := rfl
  clear_value noted
  split <;> simp only [hostWrite_hostQueues, hostTouch_hostQueues, ringFault_hostQueues, hnoted]

@[simp] theorem writeHeads_hostQueues (s : State) : hostQueues (writeHeads s) = hostQueues s := foldl_hostQueues writeHead_hostQueues ..

@[simp] theorem consumeEntry_hostQueues (s : State) (n : Nat) : hostQueues (consumeEntry s n) = hostQueues s := by
  unfold consumeEntry
  extract_lets a noted consumed
  have hnoted : hostQueues noted = hostQueues s := (trkInput_hostQueues ..).trans (hostTouch_hostQueues ..)
  have hconsumed : hostQueues consumed = hostQueues s :=
    (updHost_hostQueues _ rfl rfl).trans ((setRingIndex_hostQueues ..).trans hnoted)
  clear_value consumed
  split
  · exact hconsumed
  · exact (writeHead_hostQueues ..).trans hconsumed

theorem dropBad_hostQueues (k : Nat) (s : State) : hostQueues (dropBad k s) = hostQueues s := by
  induction k generalizing s with
  | zero => rfl
  | succ k ih =>
    unfold dropBad
    split
    · rfl
    · dsimp only
      split
      · exact (ih _).trans (ringFault_hostQueues ..)
      · split
        · exact (ih _).trans (consumeEntry_hostQueues ..)
        · rfl

@[simp] theorem settleSeen_hostQueues (s : State) : hostQueues (settleSeen s) = hostQueues s := by
  unfold settleSeen
  split
  · exact writeHeads_hostQueues s
  · exact dropBad_hostQueues ..

/-! ## Cuts leave the open graphs alone too (R290, R504, R509) -/

/-- The open graphs, with the graphs and nudges that wait. -/
def opened (s : State) : List Graph × List Graph × List Nat := (s.graphs, hostQueues s)

theorem opened_of_told {s t : State} (htold : told t = told s) (hqueues : hostQueues t = hostQueues s) : opened t = opened s :=
  Prod.ext (congrArg ToldPart.graphs htold) hqueues

theorem foldl_opened {α : Type} {g : State → α → State} (h : ∀ s a, opened (g s a) = opened s) (l : List α) (s : State) :
    opened (l.foldl g s) = opened s := by
  induction l generalizing s with
  | nil => rfl
  | cons a l ih => exact (ih _).trans (h s a)

@[simp] theorem errOut_opened (s : State) (rec : Nat) : opened (errOut s rec) = opened s := opened_of_told (errOut_told ..) (errOut_hostQueues ..)

@[simp] theorem errPart_opened (s : State) (rec : Nat) : opened (errPart s rec) = opened s :=
  opened_of_told (errPart_told ..) (errPart_hostQueues ..)

theorem tumRetest_opened (s : State) (t : TumRef) : opened (tumRetest s t) = opened s := by
  have hput (x : Tumbler) : opened (tumPut s t x) = opened s := by
    unfold tumPut; split <;> rfl
  exact (foldl_opened (g := passWait t _) (fun _ _ => rfl) _ _).trans (hput _)

theorem vecHeld_opened (s : State) (u : Nat) : opened (vecHeld s u) = opened s := by
  unfold vecHeld
  dsimp only
  (repeat' split) <;> rfl

theorem haltUnits_opened (p : Nat → Bool) (detail : Nat) (s : State) : opened (haltUnits p detail s) = opened s := by
  unfold haltUnits
  extract_lets held cut tums waits refs
  have hheld : opened held = opened s := foldl_opened (fun _ _ => vecHeld_opened ..) _ _
  refine (foldl_opened (fun s t => ?_) _ _).trans hheld
  split
  · rfl
  · exact tumRetest_opened s t

@[simp] theorem elect_opened (s : State) : opened (elect s) = opened s := by
  have hresume (t : State) : opened (resumeAtMark t) = opened t := by
    unfold resumeAtMark; split <;> rfl
  unfold elect
  split
  · split
    · rfl
    · dsimp only
      split
      · exact (errPart_opened ..).trans (hresume _)
      · exact hresume _
  · rfl

section
variable {cut : Cut} (hcut : ∀ s detail kind unit, opened (cut s detail kind unit) = opened s)
include hcut

theorem regionOut_opened (s : State) (r : Nat) (rec : Option Nat) : opened (regionOut cut s r rec) = opened s := by
  unfold regionOut
  extract_lets t posted
  have hposted : opened posted = opened s := by
    cases rec with
    | none => exact (elect_opened _).trans (hcut ..)
    | some rec => exact (errPart_opened ..).trans ((elect_opened _).trans (hcut ..))
  split
  · exact hposted
  · exact (errPart_opened ..).trans hposted

theorem regionTake_opened (s : State) (r rec : Nat) : opened (regionTake cut s r rec) = opened s := by
  unfold regionTake
  dsimp only
  split
  · exact errOut_opened ..
  · exact regionOut_opened hcut ..
  · exact regionOut_opened hcut ..

theorem blockCut_opened (s : State) (detail b : Nat) : opened (blockCut cut s detail b) = opened s := by
  unfold blockCut
  dsimp only
  split
  · rfl
  · split
    · exact (regionTake_opened hcut ..).trans (hcut ..)
    · exact hcut ..

theorem blockTake_opened (s : State) (b rec : Nat) : opened (blockTake cut s b rec) = opened s := by
  unfold blockTake
  dsimp only
  split
  · exact errOut_opened ..
  · exact (regionTake_opened hcut ..).trans (blockCut_opened hcut ..)
  · exact (regionTake_opened hcut ..).trans (blockCut_opened hcut ..)

theorem postHalt_opened (s : State) (u rec task action : Nat) : opened (postHalt cut s u rec task action) = opened s := by
  unfold postHalt
  split
  · exact regionTake_opened hcut ..
  · exact blockTake_opened hcut ..

theorem cutUnits_opened (p : Nat → Bool) (detail : Nat) (s : State) : opened (cutUnits cut p detail s) = opened s :=
  (foldl_opened (fun _ _ => postHalt_opened hcut ..) _ _).trans (haltUnits_opened p detail s)

end

theorem fenceN_opened (n : Nat) (s : State) (detail kind unit : Nat) : opened (fenceN n s detail kind unit) = opened s := by
  induction n generalizing s detail kind unit with
  | zero => rfl
  | succ n ih =>
    unfold fenceN
    split
    · rfl
    · dsimp only
      split
      · exact cutUnits_opened ih ..
      · exact cutUnits_opened ih ..
      · exact cutUnits_opened ih ..
      · exact cutUnits_opened ih ..
      · rfl
      · rfl

@[simp] theorem errRegion_opened (s : State) (r rec : Nat) : opened (errRegion s r rec) = opened s := regionTake_opened (fenceN_opened 3) ..

/-! ## Reads of memory leave them alone (R278, R286, R287, R514) -/

@[simp] theorem readTables_opened (s : State) (r : Nat) : opened (readTables s r) = opened s := by
  have hone (t : State) (k : SysStruct) : opened (readSystem t r k) = opened t := by
    unfold readSystem
    dsimp only
    split <;> rfl
  rw [readTables, hone, hone, hone]

theorem failPc_opened (s : State) (r f pc n : Nat) : opened (failPc s r f pc n) = opened s := by
  unfold failPc
  dsimp only
  split
  · rfl
  · split
    · exact errRegion_opened ..
    · exact errRegion_opened ..

theorem countUe_opened (s : State) (r f o : Nat) : opened (countUe s r f o) = opened s := by
  unfold countUe
  dsimp only
  split
  · exact failPc_opened ..
  · rfl

theorem readHalf_opened (s : State) (r f o : Nat) (lapLocal : Bool) : opened (readHalf s r f o lapLocal).1 = opened s := by
  unfold readHalf
  extract_lets h failed counted rebuilt
  have hcounted : opened counted = opened s := by
    dsimp only [counted]
    split
    · exact countUe_opened ..
    · rfl
  split
  · rfl
  · split
    · rfl
    · split
      · rfl
      · split
        · exact hcounted
        · split
          · exact (errRegion_opened ..).trans hcounted
          · exact (errRegion_opened ..).trans hcounted

theorem readHalves_opened (r page lap slot : Nat) (epoch : List (Nat × Nat)) (hs : List Nat) (s : State) :
    opened (readHalves r page lap slot epoch hs s).1 = opened s := by
  induction hs generalizing s with
  | nil => rfl
  | cons h hs ih =>
    unfold readHalves
    extract_lets x e f q
    have hq : opened q.1 = opened s := readHalf_opened ..
    split
    · exact hq
    · exact (ih _).trans hq

theorem readHbmEcc_opened (s : State) (r slot : Nat) (epoch : List (Nat × Nat)) (fuel page off n : Nat) :
    opened (readHbmEcc s r slot epoch fuel page off n).1 = opened s := by
  induction fuel generalizing s page off n with
  | zero => rfl
  | succ fuel ih =>
    unfold readHbmEcc
    dsimp only
    split
    · rfl
    · split
      · exact readTables_opened ..
      · split
        · exact (readHalves_opened ..).trans (readTables_opened ..)
        · exact (ih ..).trans ((readHalves_opened ..).trans (readTables_opened ..))

theorem taskRead_opened (s : State) (a n : Nat) : opened (taskRead s a n).1 = opened s := by
  unfold taskRead
  split
  · split
    · rfl
    · split
      · exact readHbmEcc_opened ..
      · rfl
  · rfl

/-- What resolution reads of a graph's lists may cut units off; it leaves every open and waiting graph as it is. -/
theorem readLists_opened (s : State) (g : Graph) : opened (readLists s g) = opened s := by
  refine foldl_opened (fun s t => ?_) _ _
  extract_lets declared list
  have hdeclared : opened declared = opened s := by
    dsimp only [declared]
    split
    · rfl
    · exact taskRead_opened ..
  have hlist : opened list.1 = opened s := (taskRead_opened ..).trans hdeclared
  split
  · exact (foldl_opened (fun _ _ => taskRead_opened ..) _ _).trans hlist
  · exact hlist

end Sys2Proof.Machine
end

section
/-! Graphs and nudges (R85, R86, R367, R369, R489, R491, R492, R500): GRAPH opens what its read finds, resolution rejects or accepts it, STOP_GRAPH
stops it, and a nudge has one ring's entries come first. -/

namespace Sys2Proof.Machine

/-! ## GRAPH (R85, R489, R491, R500) -/

theorem exec_graph (s : State) (ring : Nat) : exec (.graph ring) s = .next (graphEntry s ring) := rfl

theorem headEntry_full {s : State} (ring kind : Nat) (h : graphsFull s = true) : headEntry s ring kind = none := by
  unfold headEntry
  split
  · simp [h]
  · rfl

theorem graphEntry_none {s : State} {ring : Nat} (h : headEntry s ring 0 = none) : graphEntry s ring = s := by
  rw [graphEntry, h, Option.elim_none]

/-- A graph whose descriptor can be read is the one that its read finds. -/
theorem graphEntry_readable {s : State} {ring e : Nat} (he : headEntry s ring 0 = some e)
    (hok : hostOk (consumeEntry s ring) (nbits e 64 64) 64 = true) :
    graphEntry s ring = settleSub
      (openGraph (noteGraphRead (consumeEntry s ring) (nbits e 64 64) (leNat (hostRead (consumeEntry s ring) (nbits e 64 64) 64)))
        (readGraph (consumeEntry s ring) ring (nbits e 32 32) (leNat (hostRead (consumeEntry s ring) (nbits e 64 64) 64)))) := by
  rw [graphEntry, he, Option.elim_some, graphAt, if_neg (by simp [hok])]

theorem noteGraphRead_graphs (s : State) (a w : Nat) : (noteGraphRead s a w).graphs = s.graphs :=
  congrArg ToldPart.graphs (noteGraphRead_told ..)

theorem consumeEntry_graphs (s : State) (ring : Nat) : (consumeEntry s ring).graphs = s.graphs :=
  congrArg ToldPart.graphs (consumeEntry_told ..)

theorem openGraph_new {s : State} {g : Graph} (h : ∀ x ∈ s.graphs, x.id ≠ g.id) : openGraph s g = { s with graphs := s.graphs ++ [g] } := by
  have hnone : (s.graphs.find? fun x => x.id == g.id) = none := by simpa using h
  rw [openGraph, hnone]

theorem openGraph_resolved {s : State} {g x : Graph} (hx : s.graphs.find? (fun x => x.id == g.id) = some x) (hr : x.resolved = true) :
    openGraph s g = rejectOpen s g := by
  rw [openGraph, hx]
  exact if_pos hr

theorem openGraph_unresolved {s : State} {g x : Graph} (hx : s.graphs.find? (fun x => x.id == g.id) = some x) (hr : x.resolved = false) :
    openGraph s g = updHost s fun h => { h with sameId := h.sameId ++ [g] } := by
  rw [openGraph, hx]
  exact if_neg (by simp [hr])

/-! ### What the read of a graph's tables finds (R85, R86) -/

/-- The task and edge tables that a descriptor names can be read. -/
def tablesReadable (s : State) (w : Nat) : Prop :=
  (nbits w 32 16 = 0 ∨ hostOk s (nbits w 64 64) (128 * nbits w 32 16) = true) ∧
    (nbits w 192 32 = 0 ∨ hostOk s (nbits w 128 64) (8 * nbits w 192 32) = true)

/-- The test that `readGraph` makes of its tables. -/
theorem tablesReadable_iff (s : State) (w : Nat) : tablesReadable s w ↔
    ((nbits w 32 16 == 0 || hostOk s (nbits w 64 64) (128 * nbits w 32 16)) &&
      (nbits w 192 32 == 0 || hostOk s (nbits w 128 64) (8 * nbits w 192 32))) = true := by
  simp [tablesReadable]

theorem readGraph_tables {s : State} (ring tag : Nat) {w : Nat} (hok : tablesReadable s w) (hn : nbits w 32 16 ≤ 16384)
    (hm : nbits w 192 32 ≤ 262144) :
    (readGraph s ring tag w).tasks =
        (blocksOf 128 (nbits w 32 16) (hostRead s (nbits w 64 64) (128 * nbits w 32 16))).map (fun b => taskOfWord (leNat b)) ∧
      (readGraph s ring tag w).edges =
        (blocksOf 8 (nbits w 192 32) (hostRead s (nbits w 128 64) (8 * nbits w 192 32))).map fun b => edgeOfWord (leNat b) := by
  rw [tablesReadable_iff] at hok
  have hsmall : decide (nbits w 32 16 ≤ 16384 ∧ nbits w 192 32 ≤ 262144) = true := decide_eq_true ⟨hn, hm⟩
  unfold readGraph
  extract_lets n m tt et ok small tw ew
  have hread : (ok && small) = true := by rw [Bool.and_eq_true]; exact ⟨hok, hsmall⟩
  have htw : tw = (blocksOf 128 n (hostRead s tt (128 * n))).map leNat := if_pos hread
  have hew : ew = (blocksOf 8 m (hostRead s et (8 * m))).map leNat := if_pos hread
  dsimp only
  rw [htw, hew, List.map_map, List.map_map]
  exact ⟨rfl, rfl⟩

theorem readGraph_unreadable {s : State} (ring tag : Nat) {w : Nat} (hok : ¬ tablesReadable s w) :
    (readGraph s ring tag w).readFail = 0x0A := by
  rw [tablesReadable_iff, Bool.not_eq_true] at hok
  unfold readGraph
  dsimp only
  rw [hok]
  rfl

/-! ## Resolution (R86, R369, R500) -/

theorem exec_graphResolved (s : State) (gid : Nat) : exec (.graphResolved gid) s = .next (graphResolved s gid) := rfl

theorem getGraph_id {s : State} {gid : Nat} {g : Graph} (h : getGraph s gid = some g) : g.id = gid := by
  simpa using List.find?_some h

theorem graphResolved_none {s : State} {gid : Nat} (h : getGraph s gid = none) : graphResolved s gid = s := by
  rw [graphResolved, h, Option.elim_none]

theorem graphResolved_resolved {s : State} {gid : Nat} {g : Graph} (h : getGraph s gid = some g) (hr : g.resolved = true) :
    graphResolved s gid = s := by
  rw [graphResolved, h, Option.elim_some, if_pos hr]

/-- Resolution has read the graph's lists where the checks have come to them. -/
def listsRead (s : State) (g : Graph) : State :=
  if resolveCode s g = 0 ∨ resolveCode s g = 8 ∨ resolveCode s g = 9 then readLists s g else s

theorem listsRead_opened (s : State) (g : Graph) : opened (listsRead s g) = opened s := by
  unfold listsRead
  split
  · exact readLists_opened s g
  · rfl

theorem graphResolved_waits {s : State} {gid : Nat} {g : Graph} (h : getGraph s gid = some g) (hr : g.resolved = false) :
    graphResolved s gid = resolveAs (listsRead s g) g (resolveCode s g) := by
  rw [graphResolved, h, Option.elim_some, if_neg (by simp [hr])]
  rfl

/-- A rejected graph leaves its place to the oldest that waits for its ID. -/
theorem sameIdNext_rejected (s : State) (id : Nat) :
    (sameIdNext s id false).graphs = s.graphs ++ (s.host.sameId.filter fun x => x.id == id).take 1 := by
  unfold sameIdNext
  extract_lets mine keep
  rw [if_neg Bool.false_ne_true]
  show (match mine with | [] => s | g :: l => _).graphs = s.graphs ++ mine.take 1
  cases mine with
  | nil => simp
  | cons g l => rfl

/-- Where no graph waits for its ID, an accepted one has none to reject. -/
theorem sameIdNext_alone {s : State} {id : Nat} (h : s.host.sameId.filter (fun x => x.id == id) = []) : sameIdNext s id true = s := by
  have hkeep : s.host.sameId.filter (fun x => x.id != id) = s.host.sameId := by
    rw [List.filter_eq_nil_iff] at h
    exact List.filter_eq_self.mpr fun x hx => by simpa using h x hx
  unfold sameIdNext
  extract_lets mine keep
  have hmine : mine = [] := h
  rw [if_pos rfl, hmine, List.foldl_nil]
  simp only [keep, updHost, List.nil_append, hkeep]

theorem resolveAs_rejected (s : State) (g : Graph) {code : Nat} (h : code ≠ 0) :
    (resolveAs s g code).graphs = s.graphs.filter (fun x => x.id != g.id) ++ (s.host.sameId.filter fun x => x.id == g.id).take 1 := by
  rw [resolveAs, if_pos h, sameIdNext_rejected]
  have hgraphs (t : State) : (rejectGraph t g code).graphs = t.graphs := congrArg ToldPart.graphs (rejectGraph_told ..)
  have hsame (t : State) : (rejectGraph t g code).host.sameId = t.host.sameId := congrArg Prod.fst (rejectGraph_hostQueues ..)
  rw [hgraphs, hsame]

theorem resolveAs_accepted {s : State} {g : Graph} (h : s.host.sameId.filter (fun x => x.id == g.id) = []) :
    resolveAs s g 0 = checkGuards (postEvent (acceptGraph s g) g.evtRing 0x01 0 g.id 0 0) g := by
  have hsame : (postEvent (acceptGraph s g) g.evtRing 0x01 0 g.id 0 0).host.sameId = s.host.sameId :=
    congrArg Prod.fst (postEvent_hostQueues ..)
  rw [resolveAs, if_neg (not_not_intro rfl), sameIdNext_alone (by rw [hsame]; exact h)]

theorem mem_acceptGraph_resolved {s : State} {g q : Graph} (hq : q ∈ (acceptGraph s g).graphs) (hid : q.id = g.id) : q.resolved = true := by
  obtain ⟨x, -, rfl⟩ := List.mem_map.mp hq
  by_cases hx : x.id = g.id
  · rw [if_pos hx]
  · rw [if_neg hx] at hid
    contradiction

theorem acceptGraph_ids (s : State) (g : Graph) : (acceptGraph s g).graphs.map (·.id) = s.graphs.map (·.id) := by
  show (s.graphs.map _).map _ = _
  rw [List.map_map]
  refine List.map_congr_left fun x _ => ?_
  dsimp only [Function.comp]
  split <;> rfl

/-! ## STOP_GRAPH (R491) -/

theorem exec_stopGraph (s : State) (ring : Nat) : exec (.stopGraph ring) s = .next (stopGraphEntry s ring) := rfl

theorem stopGraphEntry_none {s : State} {ring : Nat} (h : headEntry s ring 4 = none) : stopGraphEntry s ring = s := by
  rw [stopGraphEntry, h, Option.elim_none]

theorem stopGraphEntry_some {s : State} {ring e : Nat} (h : headEntry s ring 4 = some e) :
    stopGraphEntry s ring = settleSub (stopAt (consumeEntry s ring) e) := by
  rw [stopGraphEntry, h, Option.elim_some]

/-- An entry that leaves its reserved bits zero is answered by whether the graph is open. -/
theorem stopAt_sound (s : State) {e : Nat} (hres : entryReserved e true = false) (hlen : nbits e 128 32 = 0) :
    stopAt s e = if mayStop s (nbits e 160 32) then stopOpen (commandDone s e 0) (nbits e 160 32) else commandDone s e 5 := by
  rw [stopAt, if_neg (by simp [hres, hlen])]

theorem mayStop_iff (s : State) (gid : Nat) : mayStop s gid = true ↔ ∃ g, getGraph s gid = some g ∧ g.resolved = true := by
  rw [mayStop, Option.any_eq_true]

/-! ## Nudges (R492) -/

theorem exec_nudge (s : State) (ring : Nat) : exec (.nudge ring) s = .next (nudge (driverWrite s 0x24 ring) ring) := rfl

theorem nudge_full {s : State} {n : Nat} (h : 16 ≤ s.host.nudges.length) : nudge s n = s := if_pos h

theorem nudge_room {s : State} {n : Nat} (h : s.host.nudges.length < 16) :
    nudge s n = serveNudges 16 (updHost s fun x => { x with nudges := x.nudges ++ [n] }) := if_neg (by omega)

theorem serveNudges_nudging {s : State} (k : Nat) (h : nudging s = true) : serveNudges k s = s := by
  cases k with
  | zero => rfl
  | succ k => exact if_pos h

theorem serveNudges_none {s : State} (k : Nat) (h : s.host.nudges = []) : serveNudges k s = s := by
  cases k with
  | zero => rfl
  | succ k => simp [serveNudges, h]

/-- A nudge that waits while a ring's entries are consumed. -/
theorem nudge_waits {s : State} {n : Nat} (hroom : s.host.nudges.length < 16) (h : nudging s = true) :
    nudge s n = updHost s fun x => { x with nudges := x.nudges ++ [n] } := by
  rw [nudge_room hroom]
  exact serveNudges_nudging 16 h

/-- A nudge that is served at once: no other waits, and no nudged ring's entries are being consumed. -/
theorem nudge_served {s : State} {n : Nat} (hnone : s.host.nudges = []) (hidle : nudging s = false) : nudge s n = serveNudges 15 (nudgeRead s n) := by
  have hidle' : ¬ nudging (updHost s fun x => { x with nudges := x.nudges ++ [n] }) = true := by
    show ¬ nudging s = true
    simp [hidle]
  have hqueue : (updHost s fun x => { x with nudges := x.nudges ++ [n] }).host.nudges = [n] := by
    show s.host.nudges ++ [n] = [n]
    rw [hnone, List.nil_append]
  have htaken : (updHost (updHost s fun x => { x with nudges := x.nudges ++ [n] }) fun x => { x with nudges := [] }) = s := by
    show updHost s (fun x => { x with nudges := [] }) = s
    rw [updHost, ← hnone]
  rw [nudge_room (by simp [hnone]), serveNudges, if_neg hidle', hqueue]
  dsimp only
  rw [htaken]

theorem nudgeRead_off {s : State} {n : Nat} (h : ringOn s n = false) : nudgeRead s n = s := by
  simp [nudgeRead, h]

/-- A nudged ring's entries come first. -/
theorem nudgeRead_on {s : State} {n : Nat} (hon : ringOn s n = true) (hok : hostOk s (dbBase s + 8 * n) 8 = true) :
    nudgeRead s n = settleSeen (updHost (readWord (hostFetch s (dbBase s + 8 * n) 8) n).1 fun x =>
      { x with subQ := List.replicate (readWord (hostFetch s (dbBase s + 8 * n) 8) n).2 n ++ x.subQ.filter (fun m => m != n),
               nudgeRing := some n }) := by
  simp [nudgeRead, hon, hok]

theorem nudgeRead_on_nudges {s : State} {n : Nat} (hon : ringOn s n = true) (hok : hostOk s (dbBase s + 8 * n) 8 = true) :
    (nudgeRead s n).host.nudges = s.host.nudges := by
  have h : hostQueues (nudgeRead s n) = hostQueues s := by
    rw [nudgeRead_on hon hok, settleSeen_hostQueues, updHost_hostQueues _ rfl rfl, readWord_hostQueues, hostFetch_hostQueues]
  exact congrArg Prod.snd h

theorem nudge_off {s : State} {n : Nat} (hnone : s.host.nudges = []) (hidle : nudging s = false) (hoff : ringOn s n = false) : nudge s n = s := by
  rw [nudge_served hnone hidle, nudgeRead_off hoff, serveNudges_none 15 hnone]

theorem nudge_on {s : State} {n : Nat} (hnone : s.host.nudges = []) (hidle : nudging s = false) (hon : ringOn s n = true)
    (hok : hostOk s (dbBase s + 8 * n) 8 = true) : nudge s n = nudgeRead s n := by
  rw [nudge_served hnone hidle, serveNudges_none 15 (by rw [nudgeRead_on_nudges hon hok, hnone])]

/-- The driver's write of the register is recorded, and no more (R538). -/
theorem driverWrite_eq (s : State) (o v : Nat) : ∃ x k, driverWrite s o v = { s with trk := x, freeCtr := k } := trkInput_eq ..

/-! ## The entries of graphs and nudges -/

/-- Settles O50: an entry opens what its read finds (`graphEntry_readable`), resolution ends by its code (`resolveAs_rejected`, `resolveAs_accepted`),
and what is read or posted on the way leaves the graphs and nudges that wait alone (`readLists_opened`, `settleSeen_hostQueues`). -/
theorem graphEntries : Obligations.GraphEntries := by
  unfold Obligations.GraphEntries
  intro s ring
  refine ⟨?noEntry, ?entry, ?noGraph, ?resolution, ?noStop, ?stop, ?nudges⟩
  case noEntry =>
    intro h
    have hnone : headEntry s ring 0 = none := h.elim id (headEntry_full ring 0)
    rw [exec_graph, graphEntry_none hnone]
  case entry =>
    intro e he _ t a w n m hok
    have hexec : exec (.graph ring) s = .next (settleSub (openGraph (noteGraphRead t a w) (readGraph t ring (nbits e 32 32) w))) := by
      rw [exec_graph, graphEntry_readable he hok]
    have hgraphs : (noteGraphRead t a w).graphs = t.graphs := noteGraphRead_graphs ..
    refine ⟨fun hnew => ?_, fun x hx => ⟨readGraph t ring (nbits e 32 32) w, rfl, fun hr => ?_, fun hr => ?_⟩⟩
    · refine ⟨noteGraphRead t a w, readGraph t ring (nbits e 32 32) w, ?_, rfl, rfl, rfl, rfl, rfl, rfl, rfl, rfl, rfl, rfl, rfl, rfl,
        fun htasks hedges hn hm => readGraph_tables _ _ ⟨htasks, hedges⟩ hn hm, readGraph_unreadable _ _⟩
      rw [hexec, openGraph_new (by rw [hgraphs]; exact hnew), hgraphs, consumeEntry_graphs]
    · rw [hexec, openGraph_resolved (by rw [hgraphs]; exact hx) hr]
    · rw [hexec, openGraph_unresolved (by rw [hgraphs]; exact hx) hr]
  case noGraph =>
    intro gid h
    rw [exec_graphResolved, graphResolved_none h]
  case resolution =>
    intro gid g hg
    obtain rfl := getGraph_id hg
    have hopened := listsRead_opened s g
    have hgraphs : (listsRead s g).graphs = s.graphs := congrArg Prod.fst hopened
    have hsame : (listsRead s g).host.sameId = s.host.sameId := congrArg (·.2.1) hopened
    refine ⟨fun hr => ?_, fun hr hcode => ?_, fun hr hcode halone => ?_⟩
    · rw [exec_graphResolved, graphResolved_resolved hg hr]
    · refine ⟨_, exec_graphResolved s g.id, ?_⟩
      rw [graphResolved_waits hg hr, resolveAs_rejected _ _ hcode, hgraphs, hsame]
    · refine ⟨acceptGraph (listsRead s g) g, fun q => mem_acceptGraph_resolved, by rw [acceptGraph_ids, hgraphs], ?_⟩
      rintro _ rfl
      have hexec : exec (.graphResolved g.id) s =
          .next (checkGuards (postEvent (acceptGraph (listsRead s g) g) g.evtRing 0x01 0 g.id 0 0) g) := by
        rw [exec_graphResolved, graphResolved_waits hg hr, hcode, resolveAs_accepted (by rw [hsame]; exact halone)]
      refine ⟨fun hguard => ?_, fun ty hguard => ?_⟩
      · rw [hexec, checkGuards, hguard, Option.elim_none]
      · rw [hexec, checkGuards, hguard, Option.elim_some]
  case noStop =>
    intro h
    rw [exec_stopGraph, stopGraphEntry_none h]
  case stop =>
    intro e he hres hlen t
    have hexec : exec (.stopGraph ring) s = .next (settleSub (stopAt t e)) := by rw [exec_stopGraph, stopGraphEntry_some he]
    rw [hexec, stopAt_sound t hres hlen]
    exact ⟨fun h => by rw [if_neg (by simp [h])], fun h => by rw [if_pos h], mayStop_iff t _⟩
  case nudges =>
    intro got
    obtain ⟨x, k, hgot⟩ := driverWrite_eq s 0x24 ring
    refine ⟨fun hfull => ?_, fun hroom hwait => ?_, fun hnone hidle hoff => ?_, fun hnone hidle hon hok => ?_⟩
    · rw [exec_nudge, nudge_full (by rw [hgot]; exact hfull)]
    · rw [exec_nudge, nudge_waits (by rw [hgot]; exact hroom) (by rw [hgot]; exact hwait)]
    · rw [exec_nudge, nudge_off (by rw [hgot]; exact hnone) (by rw [hgot]; exact hidle) (by rw [hgot]; exact hoff)]
    · have hbase : dbBase (driverWrite s 0x24 ring) = dbBase s := by rw [hgot]; rfl
      have hon' : ringOn (driverWrite s 0x24 ring) ring = true := by rw [hgot]; exact hon
      have hok' : hostOk (driverWrite s 0x24 ring) (dbBase (driverWrite s 0x24 ring) + 8 * ring) 8 = true := by rw [hgot]; exact hok
      rw [exec_nudge, nudge_on (by rw [hgot]; exact hnone) (by rw [hgot]; exact hidle) hon' hok', nudgeRead_on hon' hok', hbase]

end Sys2Proof.Machine
end

section
/-! The words of the sequencer that name no memory (R117 to R119, R127, R130 to R136): what each leaves of its sequencer, and what all of them
leave alone. -/

namespace Sys2Proof.Machine

open Sys2Proof.Safety

/-! ## The end test (R132, R133) -/

theorem endTest_inside {p : Nat} {l : LoopEnt} (outer : List LoopEnt) (h : p ≠ l.stop) : endTest p (l :: outer) = (p + 1, l :: outer) := by
  rw [endTest, if_pos h.symm]

theorem endTest_again {start stop left : Nat} (outer : List LoopEnt) (h : 1 < left) :
    endTest stop (⟨start, stop, left⟩ :: outer) = (start, ⟨start, stop, left - 1⟩ :: outer) := by
  rw [endTest, if_neg (by simp), if_neg (by simpa using h)]

theorem endTest_last (start stop : Nat) (outer : List LoopEnt) : endTest stop (⟨start, stop, 1⟩ :: outer) = endTest stop outer := by
  rw [endTest, if_neg (by simp), if_pos (Nat.le_refl 1)]

/-- The end tests of a loop at its end word, each on the loop stack that the one before it has left. -/
theorem endTest_iterate (start stop n : Nat) (outer : List LoopEnt) {k : Nat} (h : k < n) :
    (fun r : Nat × List LoopEnt => endTest stop r.2)^[k] (start, ⟨start, stop, n⟩ :: outer) = (start, ⟨start, stop, n - k⟩ :: outer) := by
  induction k with
  | zero => rfl
  | succ k ih => rw [Function.iterate_succ_apply', ih (by omega), endTest_again outer (by omega), Nat.sub_sub]

/-- Settles O11: the tests before the last count down, by induction, and the last finds a count of one. -/
theorem loopRunsLrTimes : Obligations.LoopRunsLrTimes := by
  intro start stop n outer test
  refine ⟨fun k _ hk => endTest_iterate start stop n outer hk, fun hn => ?_, fun p l hp => endTest_inside outer hp⟩
  obtain ⟨m, rfl⟩ : ∃ m, n = m + 1 := ⟨n - 1, by omega⟩
  rw [Function.iterate_succ_apply', endTest_iterate start stop (m + 1) outer (Nat.lt_succ_self m), Nat.add_sub_cancel_left]
  exact endTest_last start stop outer

/-! ## What each word issues -/

theorem isSop_of_eq {k w : Nat} (h : qSop w = k) : isSop k w = true := by simp [isSop, h]

theorem exec_nop (s : State) (u : Nat) : exec (.nop u) s = .next (issueNop s u) := rfl
theorem exec_endTask (s : State) (u : Nat) : exec (.endTask u) s = .next (issueWord s u (isSop 0x01) (opEnd u)) := rfl
theorem exec_loop (s : State) (u : Nat) : exec (.loop u) s = .next (issueWord s u (isSop 0x02) (opLoop u)) := rfl
theorem exec_branch (s : State) (u : Nat) : exec (.branch u) s = .next (issueWord s u (isSop 0x03) (opBranch u)) := rfl
theorem exec_branchIf (s : State) (u : Nat) : exec (.branchIf u) s = .next (issueWord s u (isSop 0x04) (opBranchIf u)) := rfl
theorem exec_lrSet (s : State) (u : Nat) : exec (.lrSet u) s = .next (issueWord s u (isSop 0x05) (opLrSet u)) := rfl
theorem exec_lrAdd (s : State) (u : Nat) : exec (.lrAdd u) s = .next (issueWord s u (isSop 0x06) (opLrAdd u)) := rfl
theorem exec_lrFromSum (s : State) (u : Nat) : exec (.lrFromSum u) s = .next (issueWord s u (isSop 0x07) (opLrFromSum u)) := rfl
theorem exec_fence (s : State) (u : Nat) : exec (.fence u) s = .next (issueWord s u (isSop 0x0E) (opFence u)) := rfl
theorem exec_sumPost (s : State) (u : Nat) : exec (.sumPost u) s = .next (issueWord s u (isSop 0x0F) (opSumPost u)) := rfl

/-- The next word in order is that of the end test (R132). -/
theorem stepPc_eq (s : State) (u : Nat) : stepPc s u = updSeq s u fun q =>
    { q with pc := (endTest (getCore s u).seq.pc (getCore s u).seq.loops).1, loops := (endTest (getCore s u).seq.pc (getCore s u).seq.loops).2 } :=
  updSeq_const _ _ _ _ rfl

/-- A word that writes a register goes on by the end test of the sequencer that it found. -/
theorem stepPc_updSeq (s : State) (u : Nat) {f : Seq → Seq} (hpc : ∀ q, (f q).pc = q.pc) (hloops : ∀ q, (f q).loops = q.loops) :
    stepPc (updSeq s u f) u = updSeq s u fun q =>
      { f q with
        pc := (endTest (getCore s u).seq.pc (getCore s u).seq.loops).1, loops := (endTest (getCore s u).seq.pc (getCore s u).seq.loops).2 } := by
  rw [stepPc, updSeq_updSeq]
  exact updSeq_const _ _ _ _ (by simp only [hpc, hloops])

theorem opLoop_skips {s : State} {u w : Nat} (h : getLr (getCore s u) (qLr w) = 0) :
    opLoop u s w = .go (updSeq s u fun q => { q with
      pc := (endTest (qTarget w) (getCore s u).seq.loops).1, loops := (endTest (qTarget w) (getCore s u).seq.loops).2 }) := by
  simp only [opLoop, h]
  exact congrArg SeqRes.go (updSeq_const _ _ _ _ rfl)

theorem opLoop_opens {s : State} {u w : Nat} (h : getLr (getCore s u) (qLr w) ≠ 0) :
    opLoop u s w = .go (updSeq s u fun q => { q with
      pc := (getCore s u).seq.pc + 1
      loops := ⟨(getCore s u).seq.pc + 1, qTarget w, (getLr (getCore s u) (qLr w)).toNat⟩ :: (getCore s u).seq.loops }) := by
  have hn : (getLr (getCore s u) (qLr w)).toNat ≠ 0 := fun h0 => h (BitVec.eq_of_toNat_eq h0)
  simp only [opLoop, hn, if_false]
  exact congrArg SeqRes.go (updSeq_const _ _ _ _ rfl)

theorem opBranchIf_taken {s : State} {u w : Nat} (h : condRel (qCond w) (getSum (getCore s u) (qSum w)) (BitVec.ofNat 32 (qImm w))) :
    opBranchIf u s w = .go (branchTo s u (qTarget w)) := if_pos ((condHolds_iff ..).mpr h)

theorem opBranchIf_passed {s : State} {u w : Nat} (h : ¬ condRel (qCond w) (getSum (getCore s u) (qSum w)) (BitVec.ofNat 32 (qImm w))) :
    opBranchIf u s w = .go (stepPc s u) := if_neg (mt (condHolds_iff ..).mp h)

/-- Settles O7: each word issues with the sequencer that its operation leaves. -/
theorem flowWords : Obligations.FlowWords := by
  intro s u w h pc loops
  refine ⟨fun hsop => ?_, fun hsop => ?_, fun hsop hlr => ?_, fun hsop hlr => ?_, fun hsop => ?_⟩
  · rw [exec_nop, issueNop_eq h hsop, stepPc_eq]
  · rw [exec_endTask, issueWord_go h (isSop_of_eq hsop) rfl]
  · rw [exec_loop, issueWord_go h (isSop_of_eq hsop) (opLoop_skips hlr)]
  · rw [exec_loop, issueWord_go h (isSop_of_eq hsop) (opLoop_opens hlr)]
  · rw [exec_branch, issueWord_go h (isSop_of_eq hsop) rfl, branchTo]
    exact congrArg (fun t => Host.Outcome.next (issued t u w pc)) (updSeq_const _ _ _ _ rfl)

/-- Settles O8: the model's COND is the relation of R119. -/
theorem branchIfByCond : Obligations.BranchIfByCond := by
  intro s u w h hsop q v i
  refine ⟨fun hcond => ?_, fun hcond => ?_⟩
  · rw [exec_branchIf, issueWord_go h (isSop_of_eq hsop) (opBranchIf_taken hcond)]
    rfl
  · rw [exec_branchIf, issueWord_go h (isSop_of_eq hsop) (opBranchIf_passed hcond)]
    rfl

/-- Settles O9: each word writes its register and goes on by the end test. -/
theorem registerWords : Obligations.RegisterWords := by
  intro s u w h c nextPc setLrTo
  have hlr (v : Word) : issued (stepPc (setLr s u (qLr w) v) u) u w c.seq.pc = setLrTo v := by
    rw [setLr, stepPc_updSeq s u (f := fun q => { q with lr := tabSet 0 q.lr (qLr w) v }) (fun _ => rfl) (fun _ => rfl)]
  refine ⟨fun hsop => ?_, fun hsop => ?_, fun hsop => ?_, fun hsop => ?_, fun hsop => ?_⟩
  · rw [exec_lrSet, issueWord_go h (isSop_of_eq hsop) rfl, hlr]
  · rw [exec_lrAdd, issueWord_go h (isSop_of_eq hsop) rfl, hlr]
  · rw [exec_lrFromSum, issueWord_go h (isSop_of_eq hsop) rfl, hlr]
  · rw [exec_fence, issueWord_go h (isSop_of_eq hsop) rfl, stepPc_eq]
  · rw [exec_sumPost, issueWord_go h (isSop_of_eq hsop) rfl]
    exact congrArg (fun t => Host.Outcome.next (issued t u w c.seq.pc)) (stepPc_updSeq s u
      (f := fun q => { q with results := tabSet 0 q.results (qImm w % 8) (getSum c (qSum w)) }) (fun _ => rfl) (fun _ => rfl))

/-! ## What they leave alone -/

/-- What the word w with SOP sop leaves of its sequencer: all but the place in the program, and the one register that it names. -/
structure SeqFrame (sop w : Nat) (q q' : Seq) : Prop where
  sums : q'.sums = q.sums
  cstore : q'.cstore = q.cstore
  st : q'.st = q.st
  haltRec : q'.haltRec = q.haltRec
  lr : ∀ k, ¬ ((sop = 0x05 ∨ sop = 0x06 ∨ sop = 0x07) ∧ k = qLr w) → tabGet 0 q'.lr k = tabGet 0 q.lr k
  results : ∀ k, ¬ (sop = 0x0F ∧ k = qImm w % 8) → tabGet 0 q'.results k = tabGet 0 q.results k

theorem seqFrame_flow (sop w : Nat) (q : Seq) (pc : Nat) (loops : List LoopEnt) (ended : Bool) :
    SeqFrame sop w q { q with pc := pc, loops := loops, ended := ended } :=
  ⟨rfl, rfl, rfl, rfl, fun _ _ => rfl, fun _ _ => rfl⟩

theorem seqFrame_lr {sop w : Nat} (q : Seq) (pc : Nat) (loops : List LoopEnt) (v : Word) (h : sop = 0x05 ∨ sop = 0x06 ∨ sop = 0x07) :
    SeqFrame sop w q { q with pc := pc, loops := loops, lr := tabSet 0 q.lr (qLr w) v } :=
  ⟨rfl, rfl, rfl, rfl, fun _ hk => tabGet_tabSet_ne 0 q.lr v fun he => hk ⟨h, he⟩, fun _ _ => rfl⟩

theorem seqFrame_results {sop w : Nat} (q : Seq) (pc : Nat) (loops : List LoopEnt) (v : Word) (h : sop = 0x0F) :
    SeqFrame sop w q { q with pc := pc, loops := loops, results := tabSet 0 q.results (qImm w % 8) v } :=
  ⟨rfl, rfl, rfl, rfl, fun _ _ => rfl, fun _ hk => tabGet_tabSet_ne 0 q.results v fun he => hk ⟨h, he⟩⟩

/-- A word that names no memory issues with a sequencer in its frame. -/
theorem word_issues_in_frame {s : State} {u w : Nat} (h : mayIssue s u w) {i : Nat × Instr}
    (hi : i ∈ ([(0x00, .nop u), (0x01, .endTask u), (0x02, .loop u), (0x03, .branch u), (0x04, .branchIf u), (0x05, .lrSet u), (0x06, .lrAdd u),
      (0x07, .lrFromSum u), (0x0E, .fence u), (0x0F, .sumPost u)] : List (Nat × Instr))) (hsop : qSop w = i.1) :
    ∃ f, exec i.2 s = .next (issued (updSeq s u f) u w (getCore s u).seq.pc) ∧ SeqFrame i.1 w (getCore s u).seq (f (getCore s u).seq) := by
  obtain ⟨hnop, hend, hskip, hopen, hbranch⟩ := flowWords s u w h
  obtain ⟨hset, hadd, hfrom, hfence, hpost⟩ := registerWords s u w h
  simp only [List.mem_cons, List.not_mem_nil, or_false] at hi
  rcases hi with rfl | rfl | rfl | rfl | rfl | rfl | rfl | rfl | rfl | rfl
  · exact ⟨_, hnop hsop, seqFrame_flow ..⟩
  · exact ⟨_, hend hsop, seqFrame_flow ..⟩
  · by_cases hlr : getLr (getCore s u) (qLr w) = 0
    · exact ⟨_, hskip hsop hlr, seqFrame_flow ..⟩
    · exact ⟨_, hopen hsop hlr, seqFrame_flow ..⟩
  · exact ⟨_, hbranch hsop, seqFrame_flow ..⟩
  · obtain ⟨htaken, hpassed⟩ := branchIfByCond s u w h hsop
    by_cases hcond : condRel (qCond w) (getSum (getCore s u) (qSum w)) (BitVec.ofNat 32 (qImm w))
    · exact ⟨_, htaken hcond, seqFrame_flow ..⟩
    · exact ⟨_, hpassed hcond, seqFrame_flow ..⟩
  · exact ⟨_, hset hsop, seqFrame_lr _ _ _ _ (by simp)⟩
  · exact ⟨_, hadd hsop, seqFrame_lr _ _ _ _ (by simp)⟩
  · exact ⟨_, hfrom hsop, seqFrame_lr _ _ _ _ (by simp)⟩
  · exact ⟨_, hfence hsop, seqFrame_flow ..⟩
  · exact ⟨_, hpost hsop, seqFrame_results _ _ _ _ rfl⟩

/-- Where no NOP field comes to the head of a queue, issue leaves the sequencer with its wait flags clear and the fields of the word queued. -/
theorem issued_updSeq_eq {s : State} {u w : Nat} (pc : Nat) (f : Seq → Seq) (h : noNopHead s u w) :
    issued (updSeq s u f) u w pc = setCore s u (joined { getCore s u with seq := waitsClear (f (getCore s u).seq) } w pc) := by
  obtain ⟨_, _, _, hfq⟩ := joined_facts { getCore s u with seq := waitsClear (f (getCore s u).seq) } w pc
  rw [issued, enqueue_eq, updSeq_updSeq]
  simp only [updSeq, updCore, getCore_setCore_self, setCore_setCore]
  refine settleNops_idle u _ fun eng heng g rest hg => ?_
  rw [getCore_setCore_self] at hg
  replace hg := (hfq eng).symm.trans hg
  obtain ⟨hempty, hfull⟩ := h eng heng
  change getFq (getCore s u) eng ++ _ = _ at hg
  cases hq : getFq (getCore s u) eng with
  | cons x l =>
    rw [hq, List.cons_append, List.cons.injEq] at hg
    exact hg.1 ▸ hfull x l hq
  | nil =>
    rw [hq, List.nil_append] at hg
    have hmem : g ∈ ((activeFields w).filter fun p => p.1 = eng).map fun p => (⟨p.2, pc, _⟩ : QField) := hg ▸ List.mem_cons_self
    obtain ⟨p, hp, rfl⟩ := List.mem_map.mp hmem
    obtain ⟨hact, heng⟩ := List.mem_filter.mp hp
    exact hempty hq p hact (of_decide_eq_true heng)

/-- Settles O10: such a word issues with a sequencer in its frame, and what issues changes the unit as the joining of its fields does. -/
theorem wordFrame : Obligations.WordFrame := by
  intro s t u w h hnop i hi hsop hexec c d
  obtain ⟨f, hf, hframe⟩ := word_issues_in_frame h hi hsop
  obtain ⟨hunit, hitems, hseq, _⟩ := joined_facts { c with seq := waitsClear (f c.seq) } w c.seq.pc
  have ht : t = setCore s u (joined { c with seq := waitsClear (f c.seq) } w c.seq.pc) := by
    rw [hf, issued_updSeq_eq _ _ hnop] at hexec
    exact (Host.Outcome.next.inj hexec).symm
  have hd : d = joined { c with seq := waitsClear (f c.seq) } w c.seq.pc := by simp only [d, ht, getCore_setCore_self]
  rw [← hd] at hunit hitems hseq
  refine ⟨by rw [ht]; rfl, fun v hv => by rw [ht, getCore_setCore, if_neg hv], hunit, hitems, (congrArg Seq.sums hseq).trans hframe.sums,
    (congrArg Seq.cstore hseq).trans hframe.cstore, ?_, (congrArg Seq.haltRec hseq).trans hframe.haltRec, fun k hk => ?_, fun k hk => ?_⟩
  · exact (congrArg Seq.st hseq).trans (hframe.st.trans (curWord_some h.1).2.1)
  · exact (congrArg (fun q => tabGet 0 q.lr k) hseq).trans (hframe.lr k hk)
  · exact (congrArg (fun q => tabGet 0 q.results k) hseq).trans (hframe.results k hk)

end Sys2Proof.Machine
end

section
/-! Halts (R146 to R152, R357): a unit that has halted stays halted through every report and cut that follows (R290, R504, R509), and a halt
whose record its queue takes changes nothing but its own unit, its lap's tasks and that queue. -/

namespace Sys2Proof.Machine

open Sys2Proof.Safety

/-! ## Units that stay halted -/

/-- What has halted in a state is halted in another. -/
structure StaysHalted (s t : State) : Prop where
  halted : ∀ u, (getCore s u).seq.st = .halted → (getCore t u).seq.st = .halted

theorem StaysHalted.refl (s : State) : StaysHalted s s := ⟨fun _ => id⟩

theorem StaysHalted.trans {s t u : State} (h : StaysHalted s t) (h' : StaysHalted t u) : StaysHalted s u :=
  ⟨fun c hc => h'.halted c (h.halted c hc)⟩

theorem StaysHalted.of_cores {s t : State} (h : t.cores = s.cores) : StaysHalted s t := ⟨fun u hu => by rwa [getCore, h]⟩

theorem StaysHalted.of_told {s t : State} (h : told t = told s) : StaysHalted s t := .of_cores (congrArg ToldPart.cores h)

theorem StaysHalted.foldl {α : Type} {g : State → α → State} (h : ∀ s a, StaysHalted s (g s a)) (l : List α) (s : State) :
    StaysHalted s (l.foldl g s) := by
  induction l generalizing s with
  | nil => exact .refl s
  | cons a l ih => exact (h s a).trans (ih _)

theorem StaysHalted.updCore (s : State) (u : Nat) {f : Core → Core} (hf : ∀ c, (f c).seq.st = c.seq.st) :
    StaysHalted s (updCore s u f) := by
  refine ⟨fun v hv => ?_⟩
  by_cases h : v = u
  · subst h
    rwa [getCore_updCore_self, hf]
  · rwa [getCore_updCore_ne s f h]

theorem tumPut_cores (s : State) (t : TumRef) (x : Tumbler) : (tumPut s t x).cores = s.cores := by
  unfold tumPut
  split <;> rfl

theorem tumRetest_staysHalted (s : State) (t : TumRef) : StaysHalted s (tumRetest s t) := by
  refine StaysHalted.trans (.of_cores (tumPut_cores s t _)) (.foldl (fun s w => ?_) _ _)
  exact StaysHalted.trans (t := updSeq s w.unit fun q => { q with tumPassed := true, waitTum := false }) (.updCore s _ fun _ => rfl) (.of_cores rfl)

theorem haltUnits_staysHalted (p : Nat → Bool) (detail : Nat) (s : State) : StaysHalted s (haltUnits p detail s) := by
  unfold haltUnits
  extract_lets held cut tums waits refs
  have hheld : StaysHalted s held := .foldl (fun _ _ => .of_cores (vecHeld_frame ..).2) _ _
  refine hheld.trans (StaysHalted.trans ⟨fun u hu => ?_⟩ (.foldl (fun s t => ?_) _ _))
  · refine tabGet_changed (P := fun c : Core => c.seq.st = .halted) (by decide) (fun e => ?_) (fun e he => ?_) _ _ hu
    · split <;> rfl
    · split
      · rfl
      · exact he
  · split
    · exact .refl s
    · exact tumRetest_staysHalted s t

theorem elect_cores (s : State) : (elect s).cores = s.cores := by
  have hresume (t : State) : (resumeAtMark t).cores = t.cores := by
    unfold resumeAtMark; split <;> rfl
  unfold elect
  split
  · split
    · rfl
    · dsimp only
      split
      · exact (congrArg ToldPart.cores (errPart_told ..)).trans (hresume _)
      · exact hresume _
  · rfl

section
variable {cut : Cut} (hcut : ∀ s detail kind unit, StaysHalted s (cut s detail kind unit))
include hcut

theorem regionOut_staysHalted (s : State) (r : Nat) (rec : Option Nat) : StaysHalted s (regionOut cut s r rec) := by
  have hout : StaysHalted s (elect (cut s byPart 2 r)) := (hcut ..).trans (.of_cores (elect_cores _))
  unfold regionOut
  extract_lets t posted
  have hposted : StaysHalted s posted := by
    cases rec with
    | none => exact hout
    | some rec => exact hout.trans (.of_told (errPart_told ..))
  split
  · exact hposted
  · exact hposted.trans (.of_told (errPart_told ..))

theorem regionTake_staysHalted (s : State) (r rec : Nat) : StaysHalted s (regionTake cut s r rec) := by
  have hqueued : StaysHalted s (updRegion s r fun x => { x with errq := errqTake x.errq rec }) := .of_cores rfl
  unfold regionTake
  dsimp only
  split
  · exact hqueued.trans (.of_told (errOut_told ..))
  · exact hqueued.trans (regionOut_staysHalted hcut ..)
  · exact hqueued.trans (regionOut_staysHalted hcut ..)

theorem blockCut_staysHalted (s : State) (detail b : Nat) : StaysHalted s (blockCut cut s detail b) := by
  unfold blockCut
  dsimp only
  split
  · exact .refl s
  · split
    · exact (hcut ..).trans (regionTake_staysHalted hcut ..)
    · exact hcut ..

theorem blockTake_staysHalted (s : State) (b rec : Nat) : StaysHalted s (blockTake cut s b rec) := by
  have hqueued : StaysHalted s (updBlock s b fun x => { x with errq := errqTake x.errq rec }) := .of_cores rfl
  unfold blockTake
  dsimp only
  split
  · exact hqueued.trans (.of_told (errOut_told ..))
  · exact (hqueued.trans (blockCut_staysHalted hcut ..)).trans (regionTake_staysHalted hcut ..)
  · exact (hqueued.trans (blockCut_staysHalted hcut ..)).trans (regionTake_staysHalted hcut ..)

theorem postHalt_staysHalted (s : State) (u rec task action : Nat) : StaysHalted s (postHalt cut s u rec task action) := by
  unfold postHalt
  split
  · exact regionTake_staysHalted hcut ..
  · exact blockTake_staysHalted hcut ..

theorem cutUnits_staysHalted (p : Nat → Bool) (detail : Nat) (s : State) : StaysHalted s (cutUnits cut p detail s) := by
  have hended : StaysHalted s (deadTasks (haltUnits p detail s) p) := (haltUnits_staysHalted p detail s).trans (.of_cores rfl)
  exact hended.trans (.foldl (fun _ _ => postHalt_staysHalted hcut ..) _ _)

end

theorem fenceN_staysHalted (n : Nat) (s : State) (detail kind unit : Nat) : StaysHalted s (fenceN n s detail kind unit) := by
  induction n generalizing s detail kind unit with
  | zero => exact .refl s
  | succ n ih =>
    unfold fenceN
    split
    · exact .refl s
    · extract_lets begun
      have hbegun : StaysHalted s begun := .of_cores rfl
      clear_value begun
      refine hbegun.trans ?_
      split
      · have hdead := StaysHalted.updCore begun unit (f := fun c => { c with deadbolted := true, quarantined := false }) fun _ => rfl
        exact hdead.trans (cutUnits_staysHalted ih ..)
      · have hdead : StaysHalted begun (updBlock begun unit fun b => { b with deadbolted := true }) := .of_cores rfl
        exact hdead.trans (cutUnits_staysHalted ih ..)
      · have hdead : StaysHalted begun (updRegion begun unit fun r => { r with deadbolted := true }) := .of_cores rfl
        exact hdead.trans (cutUnits_staysHalted ih ..)
      · have hdead := StaysHalted.updCore begun (512 + unit) (f := fun c => { c with deadbolted := true }) fun _ => rfl
        exact hdead.trans (cutUnits_staysHalted ih ..)
      · exact .of_cores rfl
      · exact .of_cores rfl

theorem fence_staysHalted (s : State) (detail kind unit : Nat) : StaysHalted s (fence s detail kind unit) := fenceN_staysHalted ..

theorem errRegion_staysHalted (s : State) (r rec : Nat) : StaysHalted s (errRegion s r rec) := regionTake_staysHalted fence_staysHalted ..

theorem loseEngine_staysHalted (s : State) (detail e : Nat) : StaysHalted s (loseEngine s detail e) := by
  have hlost := (fence_staysHalted s detail 3 e).trans (errRegion_staysHalted _ (e / 2) (errRecord (fence s detail 3 e) 3 2 0x0C e 3 2 0))
  unfold loseEngine
  dsimp only
  split
  · exact hlost.trans (errRegion_staysHalted ..)
  · exact hlost

/-- Error handling of a halt, in each of its cases, leaves what has halted halted (R147, R152, R357). -/
theorem handleHalt_staysHalted (s : State) (u reason rec task : Nat) : StaysHalted s (handleHalt s u reason rec task) := by
  have hpost (t : State) (action : Nat) : StaysHalted t (postHalt fence t u rec task action) := postHalt_staysHalted fence_staysHalted ..
  unfold handleHalt
  extract_lets counted c posted lapOf noted repeated
  have hnoted : StaysHalted s noted :=
    (hpost s 0).trans (.updCore posted u (f := fun c => { c with lastHaltLap := some posted.lap.num }) fun _ => rfl)
  split
  · exact hpost s 0
  split
  · split
    · exact hnoted.trans (loseEngine_staysHalted ..)
    · exact hnoted
  split
  · exact hpost s 0
  split
  · exact (hpost s 2).trans (fence_staysHalted ..)
  · have hmarked := StaysHalted.updCore s u (f := fun c => { c with quarantined := true, lastHaltLap := some s.lap.num }) fun _ => rfl
    exact hmarked.trans (hpost _ 1)

/-! ## What a halt leaves of its unit (R146 to R148) -/

/-- The record of a halt of a unit (R148). -/
def haltWordOf (s : State) (u reason engine pc detail : Nat) : Nat :=
  haltRecord s u reason engine pc (getCore s u).seq.loops.length (((unitTask s u).map (·.graph)).getD 0)
    (((unitTask s u).map (·.desc.index)).getD 0) detail

/-- A task of the lap once unit u has halted, whose own task is that of a slot: that one ends, and so do those that have not started (R147). -/
def haltMark (u slot reason w : Nat) (k : LapTask) : LapTask :=
  if k.unit ≠ u then k
  else if k.slot = slot then { endTask k (if reason = 0x14 then 4 else 7) with haltRec := w }
  else if k.started then k
  else endTask k 7

/-- The state in which error handling finds a unit that has halted with record w. -/
def unitStopped (s : State) (u reason w : Nat) : State :=
  updLap (setCore (vecHeld (tumDrop s u) u) u (haltCore (getCore s u) w)) fun l =>
    { l with cur := l.cur.map (haltMark u ((getCore s u).task.getD 0) reason w) }

theorem haltUnit_eq (s : State) (u reason engine pc detail : Nat) : haltUnit s u reason engine pc detail =
    handleHalt (unitStopped s u reason (haltWordOf s u reason engine pc detail)) u reason (haltWordOf s u reason engine pc detail)
      (((unitTask s u).map (·.desc.index)).getD 0) := by
  unfold haltUnit haltWordOf
  cases unitTask s u <;> rfl

@[simp] theorem getCore_unitStopped_self (s : State) (u reason w : Nat) : getCore (unitStopped s u reason w) u = haltCore (getCore s u) w := by
  simp [unitStopped]

/-- A unit that halts has halted once its halt has been handled, whatever the handling cuts off. -/
theorem haltUnit_halted (s : State) (u reason engine pc detail : Nat) :
    (getCore (haltUnit s u reason engine pc detail) u).seq.st = .halted := by
  rw [haltUnit_eq]
  exact (handleHalt_staysHalted ..).halted u (by simp)

theorem haltCore_items (c : Core) (w q : Nat) : (getQ (haltCore c w) q).items = [] :=
  queue_items_filter _ _ q fun e he => by
    obtain ⟨x, -, rfl⟩ := List.mem_map.mp he
    rfl

theorem getMv_haltCore (c : Core) (w m : Nat) : getMv (haltCore c w) m =
    { getMv c m with st := if (getMv c m).st = .unarmed then .unarmed else .armed, req := none, waitsFrame := false } :=
  tabGet_map moverReset moverReset c.movers (fun x => { x with st := if x.st = .unarmed then .unarmed else .armed, req := none, waitsFrame := false })
    m rfl

theorem haltCore_mover_st (c : Core) (w m : Nat) : (getMv (haltCore c w) m).st = .unarmed ∨ (getMv (haltCore c w) m).st = .armed := by
  rw [getMv_haltCore]
  dsimp only
  split
  · exact .inl rfl
  · exact .inr rfl

theorem endTask_slot (k : LapTask) (outcome : Nat) : (endTask k outcome).slot = k.slot := by
  unfold endTask; split <;> rfl

/-- A halt leaves each task of the lap on its unit and in its slot. -/
theorem haltMark_place (u slot reason w : Nat) (k : LapTask) :
    (haltMark u slot reason w k).unit = k.unit ∧ (haltMark u slot reason w k).slot = k.slot := by
  unfold haltMark
  split
  · exact ⟨rfl, rfl⟩
  · split
    · exact ⟨endTask_unit .., endTask_slot ..⟩
    · split
      · exact ⟨rfl, rfl⟩
      · exact ⟨endTask_unit .., endTask_slot ..⟩

/-- The task of a unit that halts has ended (R147). -/
theorem haltMark_ended {u slot : Nat} (reason w : Nat) {k : LapTask} (hu : k.unit = u) (hs : k.slot = slot) :
    (haltMark u slot reason w k).outcome ≠ none := by
  rw [haltMark, if_neg (by simp [hu]), if_pos hs]
  exact endTask_ended k _

/-! ## A halt whose record its queue takes (R152, R357, R509) -/

theorem errRecord_congr {s t : State} (hnum : t.lap.num = s.lap.num) (hid : fget t fPART_ID_ID 0 0 = fget s fPART_ID_ID 0 0)
    (cls level cause unit kind action detail : Nat) :
    errRecord t cls level cause unit kind action detail = errRecord s cls level cause unit kind action detail := by
  rw [errRecord, errRecord, hnum, hid]

/-- The cycles of a core or a stack engine are no register of the part. -/
theorem fget_vecHeld_id (s : State) (u : Nat) : fget (vecHeld s u) fPART_ID_ID 0 0 = fget s fPART_ID_ID 0 0 := by
  unfold vecHeld
  split
  · rfl
  · dsimp only
    split
    · exact fget_fput_ne _ _ _ _ _ _ _ _ (by simp only [fldKey, fPART_ID_ID, fSE_LANE_CYCLES_COUNT, spaceIdx]; omega)
    · exact fget_fput_ne _ _ _ _ _ _ _ _ (by simp only [fldKey, fPART_ID_ID, fCORE_VEC_CYCLES_COUNT, spaceIdx]; omega)

theorem unitStopped_told {s : State} {u : Nat} (reason w : Nat) (h : (getCore s u).seq.tumPending = none) :
    told (unitStopped s u reason w) = { told s with
      cores := tabSet coreReset s.cores u (haltCore (getCore s u) w)
      lap := { s.lap with cur := s.lap.cur.map (haltMark u ((getCore s u).task.getD 0) reason w) } } := by
  rw [unitStopped, tumDrop_none s u h, vecHeld]
  split
  · rfl
  · dsimp only
    split <;> rfl

theorem errRecord_unitStopped {s : State} {u : Nat} (reason w : Nat) (h : (getCore s u).seq.tumPending = none)
    (cls level cause unit kind action detail : Nat) :
    errRecord (unitStopped s u reason w) cls level cause unit kind action detail = errRecord s cls level cause unit kind action detail := by
  rw [unitStopped, tumDrop_none s u h]
  exact errRecord_congr (congrArg LapSt.num (vecHeld_frame s u).1) (fget_vecHeld_id s u) ..

/-- The error record that handling posts for a halt. -/
def haltReport (s : State) (u rec task action : Nat) : Nat :=
  if isSE u then errRecord s 3 2 0x0B (u - 512) 3 action (rec % 2 ^ 32)
  else errRecord s 0 1 0x01 u 0 action (rec % 2 ^ 32 + task % 2 ^ 16 * 2 ^ 32)

/-- The error queue that a halt of a unit is posted to. -/
def haltQueue (s : State) (u : Nat) : ErrQ := if isSE u then (getRegion s (unitRegion u)).errq else (getBlock s (unitBlock u)).errq

/-- The state once a record has come to that queue. -/
def haltQueued (s : State) (u rec : Nat) : State :=
  if isSE u then updRegion s (unitRegion u) fun x => { x with errq := errqTake x.errq rec }
  else updBlock s (unitBlock u) fun x => { x with errq := errqTake x.errq rec }

theorem haltQueue_unitStopped {s : State} {u : Nat} (reason w : Nat) (h : (getCore s u).seq.tumPending = none) :
    haltQueue (unitStopped s u reason w) u = haltQueue s u := by
  have hregions : (unitStopped s u reason w).regions = s.regions := congrArg ToldPart.regions (unitStopped_told reason w h)
  have hblocks : (unitStopped s u reason w).blocks = s.blocks := congrArg ToldPart.blocks (unitStopped_told reason w h)
  simp only [haltQueue, getRegion, getBlock, hregions, hblocks]

theorem postHalt_enters {cut : Cut} {s : State} {u rec task action : Nat}
    (h : arrive (haltQueue s u) (haltReport s u rec task action) = .enter) :
    postHalt cut s u rec task action = errOut (haltQueued s u (haltReport s u rec task action)) (haltReport s u rec task action) := by
  unfold haltQueue haltReport at h
  unfold postHalt haltQueued haltReport
  split
  · rename_i hse
    rw [if_pos hse, if_pos hse] at h
    simp only [regionTake, h]
  · rename_i hse
    rw [if_neg hse, if_neg hse] at h
    simp only [blockTake, h]

theorem handleHalt_program {reason : Nat} (s : State) (u rec task : Nat) (h : classH reason = false) :
    handleHalt s u reason rec task = postHalt fence s u rec task 0 := by
  rw [handleHalt]
  simp [h]

/-- A halt of class P whose record enters its queue leaves the lap, the units and their memories as its stop and that queue do. -/
theorem haltUnit_program_told {s : State} {u reason engine pc detail : Nat} (hclass : classH reason = false)
    (htum : (getCore s u).seq.tumPending = none)
    (h : arrive (haltQueue s u) (haltReport s u (haltWordOf s u reason engine pc detail) (((unitTask s u).map (·.desc.index)).getD 0) 0) = .enter) :
    told (haltUnit s u reason engine pc detail) =
      told (haltQueued (unitStopped s u reason (haltWordOf s u reason engine pc detail)) u
        (haltReport s u (haltWordOf s u reason engine pc detail) (((unitTask s u).map (·.desc.index)).getD 0) 0)) := by
  have hreport (rec task action : Nat) : haltReport (unitStopped s u reason rec) u rec task action = haltReport s u rec task action := by
    simp only [haltReport, errRecord_unitStopped reason rec htum]
  rw [haltUnit_eq, handleHalt_program _ _ _ _ hclass, postHalt_enters (by rw [haltQueue_unitStopped _ _ htum, hreport]; exact h), errOut_told,
    hreport]

theorem haltQueued_cores (s : State) (u rec : Nat) : (haltQueued s u rec).cores = s.cores := by
  unfold haltQueued; split <;> rfl

theorem haltQueued_frame (s : State) (u rec : Nat) : (haltQueued s u rec).lap = s.lap ∧ (haltQueued s u rec).graphs = s.graphs ∧
    (haltQueued s u rec).link = s.link ∧ (haltQueued s u rec).owners = s.owners ∧ (haltQueued s u rec).guards = s.guards ∧
    (haltQueued s u rec).hurdles = s.hurdles := by
  unfold haltQueued; split <;> exact ⟨rfl, rfl, rfl, rfl, rfl, rfl⟩

theorem getRegion_haltQueued (s : State) (u rec r : Nat) : getRegion (haltQueued s u rec) r = { getRegion s r with
    errq := if isSE u ∧ r = unitRegion u then errqTake (haltQueue s u) rec else (getRegion s r).errq } := by
  unfold haltQueued haltQueue
  by_cases hse : isSE u = true
  · by_cases hr : r = unitRegion u
    · subst hr; simp [hse]
    · simp [hse, hr, getRegion_updRegion_ne]
  · simp [hse]

theorem getBlock_haltQueued (s : State) (u rec b : Nat) : getBlock (haltQueued s u rec) b = { getBlock s b with
    errq := if ¬ isSE u ∧ b = unitBlock u then errqTake (haltQueue s u) rec else (getBlock s b).errq } := by
  unfold haltQueued haltQueue
  by_cases hse : isSE u = true
  · simp [hse]
  · by_cases hb : b = unitBlock u
    · subst hb; simp [hse]
    · simp [hse, hb, getBlock_updBlock_ne]

theorem exec_halt (s : State) (u : Nat) : exec (.halt u) s = .next (issueWord s u (isSop 0x10) opHalt) := rfl

/-- Settles O12: HALT is a halt of class P, whose record changes one queue where that takes it. -/
theorem haltWord : Obligations.HaltWord := by
  intro s u w h hsop
  obtain ⟨t, ht⟩ : ∃ t, haltUnit s u 0x15 0 (getCore s u).seq.pc (qImm w) = t := ⟨_, rfl⟩
  refine ⟨t, ?_, ?_⟩
  · rw [exec_halt, issueWord_halt h (isSop_of_eq hsop) rfl, ht]
  intro c d index halt rec_ queue henter
  obtain ⟨-, htum, -, -⟩ := h
  have htold : told t = told (haltQueued (unitStopped s u 0x15 halt) u rec_) := ht ▸ haltUnit_program_told rfl htum henter
  have hstop := unitStopped_told 0x15 halt htum
  obtain ⟨hlap, hgraphs, hlink, howners, hguards, hhurdles⟩ := haltQueued_frame (unitStopped s u 0x15 halt) u rec_
  have hcores : t.cores = tabSet coreReset s.cores u (haltCore c halt) :=
    (congrArg ToldPart.cores htold).trans ((haltQueued_cores ..).trans (congrArg ToldPart.cores hstop))
  have hcur : t.lap.cur = s.lap.cur.map (haltMark u (c.task.getD 0) 0x15 halt) :=
    congrArg LapSt.cur ((congrArg ToldPart.lap htold).trans (hlap.trans (congrArg ToldPart.lap hstop)))
  have hregions : (unitStopped s u 0x15 halt).regions = s.regions := congrArg ToldPart.regions hstop
  have hblocks : (unitStopped s u 0x15 halt).blocks = s.blocks := congrArg ToldPart.blocks hstop
  have hqueue : haltQueue (unitStopped s u 0x15 halt) u = queue := haltQueue_unitStopped 0x15 halt htum
  have hcore (v : Nat) : getCore t v = if v = u then haltCore c halt else getCore s v := by
    rw [getCore, hcores]
    exact tabGet_tabSet ..
  have hd : d = haltCore c halt := (hcore u).trans (if_pos rfl)
  rw [hd]
  refine ⟨rfl, rfl, haltCore_items c halt, rfl, rfl, rfl, haltCore_mover_st c halt, fun m => by rw [getMv_haltCore], rfl, rfl, rfl, rfl, rfl, rfl,
    rfl, rfl, fun k hk hunit hslot => ?_, fun r => ?_, fun b => ?_, ?_, ?_, ?_, ?_, ?_, fun v hv => (hcore v).trans (if_neg hv)⟩
  · rw [hcur] at hk
    obtain ⟨j, -, rfl⟩ := List.mem_map.mp hk
    obtain ⟨hju, hjs⟩ := haltMark_place u (c.task.getD 0) 0x15 halt j
    rw [hju] at hunit
    rw [hjs] at hslot
    exact haltMark_ended _ _ hunit (by rw [← hslot]; rfl)
  · refine (congrArg (tabGet regionReset · r) (congrArg ToldPart.regions htold)).trans ((getRegion_haltQueued ..).trans ?_)
    rw [hqueue, getRegion, hregions]
    rfl
  · refine (congrArg (tabGet blockReset · b) (congrArg ToldPart.blocks htold)).trans ((getBlock_haltQueued ..).trans ?_)
    rw [hqueue, getBlock, hblocks]
    rfl
  · exact (congrArg ToldPart.graphs htold).trans (hgraphs.trans (congrArg ToldPart.graphs hstop))
  · exact (congrArg ToldPart.link htold).trans (hlink.trans (congrArg ToldPart.link hstop))
  · exact (congrArg ToldPart.owners htold).trans (howners.trans (congrArg ToldPart.owners hstop))
  · exact (congrArg ToldPart.guards htold).trans (hguards.trans (congrArg ToldPart.guards hstop))
  · exact (congrArg ToldPart.hurdles htold).trans (hhurdles.trans (congrArg ToldPart.hurdles hstop))

end Sys2Proof.Machine
end

section
/-! The scoreboard (R141 to R145, R153): what its four words do in each role and at each count, and what a write of an entry leaves. -/

namespace Sys2Proof.Machine

open Sys2Proof.Safety

/-! ## The words (R142) -/

theorem exec_sbPost (s : State) (u : Nat) : exec (.sbPost u) s = .next (issueWord s u (isSop 0x08) (opSbPost u)) := rfl
theorem exec_sbWait (s : State) (u : Nat) : exec (.sbWait u) s = .next (issueWord s u (isSop 0x09) (opSbWait u)) := rfl
theorem exec_sbRelease (s : State) (u : Nat) : exec (.sbRelease u) s = .next (issueWord s u (isSop 0x0A) (opSbRelease u)) := rfl
theorem exec_sbWaitFree (s : State) (u : Nat) : exec (.sbWaitFree u) s = .next (issueWord s u (isSop 0x0B) (opSbWaitFree u)) := rfl

/-- The region of the unit's block that a word names. -/
abbrev wordSb (s : State) (u w : Nat) : SbRegion := getSb s (unitBlock u) (qImm w % 256)

@[simp] theorem getCore_putSb (s : State) (b r : Nat) (x : SbRegion) (v : Nat) : getCore (putSb s b r x) v = getCore s v := rfl

@[simp] theorem getCore_noteSb (s : State) (u : Nat) (x : SbRegion) (v : Nat) : getCore (noteSb s u x) v = getCore s v := rfl

/-- The unit has the role in a region that a word needs: that of the producer, or that of a consumer. -/
def SbRole (x : SbRegion) (producer : Bool) (me : Nat) : Prop := if producer then x.producer = me else nbit x.consumers me = true

section
variable {s : State} {u w : Nat} {producer : Bool} {f : State → SbRegion → SeqRes}

theorem sbOp_invalid (h : (wordSb s u w).valid = false) : sbOp u producer f s w = .halt s 0x0C (qImm w % 256) := by
  simp only [sbOp, h, Bool.not_false, if_true]

theorem sbOp_wrongRole (h : (wordSb s u w).valid = true)
    (hrole : ¬ SbRole (wordSb s u w) producer (u % 8)) : sbOp u producer f s w = .halt s 0x0D (qImm w % 256) := by
  cases producer with
  | false => simp only [sbOp, h, show nbit (wordSb s u w).consumers (u % 8) = false from Bool.eq_false_iff.mpr hrole, Bool.not_true, Bool.not_false,
      Bool.false_eq_true, if_false, if_true]
  | true => simp only [sbOp, h, show (wordSb s u w).producer ≠ u % 8 from hrole, Bool.not_true, Bool.false_eq_true, if_false, if_true, ne_eq,
      not_false_eq_true]

theorem sbOp_inRole (h : (wordSb s u w).valid = true)
    (hrole : SbRole (wordSb s u w) producer (u % 8)) :
    sbOp u producer f s w = f s (wordSb s u w) := by
  cases producer with
  | false => simp only [sbOp, h, show nbit (wordSb s u w).consumers (u % 8) = true from hrole, Bool.not_true, Bool.false_eq_true, if_false]
  | true => simp only [sbOp, h, show (wordSb s u w).producer = u % 8 from hrole, Bool.not_true, Bool.false_eq_true, if_false, if_true, ne_eq,
      not_true_eq_false]

/-! ### Each word in its role -/

section
variable (hv : (wordSb s u w).valid = true)
include hv

theorem opSbPost_inRole (hrole : (wordSb s u w).producer = u % 8) :
    opSbPost u s w = if (wordSb s u w).posted = 255 then .halt s 0x0C (qImm w % 256)
      else .go (stepPc (putSb s (unitBlock u) (qImm w % 256)
        { wordSb s u w with posted := (wordSb s u w).posted + 1 }) u) :=
  sbOp_inRole hv hrole

theorem opSbWaitFree_inRole (hrole : (wordSb s u w).producer = u % 8) :
    opSbWaitFree u s w = if (wordSb s u w).posted - sbReleased (wordSb s u w) ≤ nbits (qImm w) 8 8
      then .go (stepPc s u) else .stall (updSeq s u (setWaits true false false false)) :=
  sbOp_inRole hv hrole

theorem opSbRelease_inRole (hrole : nbit (wordSb s u w).consumers (u % 8) = true) :
    opSbRelease u s w = if tabGet 0 (wordSb s u w).rel (u % 8) = (wordSb s u w).posted
      then .halt s 0x0C (qImm w % 256)
      else .go (stepPc (putSb s (unitBlock u) (qImm w % 256) { wordSb s u w with
        rel := tabSet 0 (wordSb s u w).rel (u % 8) (tabGet 0 (wordSb s u w).rel (u % 8) + 1) }) u) :=
  sbOp_inRole hv hrole

theorem opSbWait_inRole (hrole : nbit (wordSb s u w).consumers (u % 8) = true) :
    opSbWait u s w =
      if (if nbits (qImm w) 8 8 = 0 then tabGet 0 (wordSb s u w).rel (u % 8) < (wordSb s u w).posted
        else nbits (qImm w) 8 8 ≤ (wordSb s u w).posted)
      then .go (stepPc (noteSb s u (wordSb s u w)) u)
      else .stall (updSeq (noteSb s u (wordSb s u w)) u (setWaits true false false false)) :=
  sbOp_inRole hv hrole

end
end

/-- Each word is a scoreboard operation in its role. -/
theorem sbWord_op {s : State} {u : Nat} {i : Nat × Instr}
    (hi : i ∈ ([(0x08, .sbPost u), (0x09, .sbWait u), (0x0A, .sbRelease u), (0x0B, .sbWaitFree u)] : List (Nat × Instr))) :
    ∃ producer op, (producer = true ∧ (i.1 = 0x08 ∨ i.1 = 0x0B) ∨ producer = false ∧ (i.1 = 0x09 ∨ i.1 = 0x0A)) ∧
      (∀ w, ∃ f, op s w = sbOp u producer f s w) ∧ exec i.2 s = .next (issueWord s u (isSop i.1) op) := by
  simp only [List.mem_cons, List.not_mem_nil, or_false] at hi
  rcases hi with rfl | rfl | rfl | rfl
  · exact ⟨true, opSbPost u, by simp, fun _ => ⟨_, rfl⟩, rfl⟩
  · exact ⟨false, opSbWait u, by simp, fun _ => ⟨_, rfl⟩, rfl⟩
  · exact ⟨false, opSbRelease u, by simp, fun _ => ⟨_, rfl⟩, rfl⟩
  · exact ⟨true, opSbWaitFree u, by simp, fun _ => ⟨_, rfl⟩, rfl⟩

/-- A word that has changed what is outside the units goes on by the end test of its own sequencer. -/
theorem stepPc_outside {s t : State} {u : Nat} (h : getCore t u = getCore s u) : stepPc t u = updSeq t u fun q => { q with
    pc := (endTest (getCore s u).seq.pc (getCore s u).seq.loops).1, loops := (endTest (getCore s u).seq.pc (getCore s u).seq.loops).2 } := by
  rw [stepPc_eq, h]

theorem issueWord_waits {s : State} {u w : Nat} {mine op} {f : Seq → Seq} (h : curWord s u = some w) (htum : (getCore s u).seq.tumPending = none)
    (hm : mine w = true) (hw : issueWait s u w = some f) : issueWord s u mine op = updSeq s u f := by
  simp [issueWord, h, htum, hm, hw]

/-- SB_POST of a core waits, as FENCE does, until the unit is quiet (R118, R142). -/
theorem issueWait_sbPost {s : State} {u w : Nat} (hsop : qSop w = 0x08) (hu : isSE u = false) (hq : quiet s u = false) :
    issueWait s u w = some (setWaits false false false false) := by
  simp [issueWait, hsop, badSop, hu, hq]

/-- Settles O13: range and role come first, and then each word's own count. -/
theorem scoreboardWords : Obligations.ScoreboardWords := by
  refine ⟨fun s u w h => ?_, fun s u w hcur htum hsop hu hq => ?_⟩
  swap
  · rw [exec_sbPost, issueWord_waits hcur htum (isSop_of_eq hsop) (issueWait_sbPost hsop hu hq)]
  intro b r n x me rel pc loops go stop stall
  refine ⟨fun i hi hsop => ?_, fun hv hrole => ?_, fun hv hrole => ?_⟩
  · obtain ⟨producer, op, hkind, hop, hexec⟩ := sbWord_op (s := s) hi
    obtain ⟨f, hop⟩ := hop w
    rw [hexec]
    refine ⟨fun hv => ?_, fun hv hrole => ?_⟩
    · rw [issueWord_halt h (isSop_of_eq hsop) (hop.trans (sbOp_invalid hv))]
    · refine congrArg Host.Outcome.next (issueWord_halt h (isSop_of_eq hsop) (hop.trans (sbOp_wrongRole hv ?_)))
      rcases hkind with ⟨rfl, hk⟩ | ⟨rfl, hk⟩
      · obtain ⟨-, hne⟩ | ⟨hother, -⟩ := hrole
        · exact hne
        · omega
      · obtain ⟨hother, -⟩ | ⟨-, hbit⟩ := hrole
        · omega
        · exact Bool.eq_false_iff.mp hbit
  · refine ⟨fun hsop hfull => ?_, fun hsop hroom => ?_, fun hsop hfree => ?_, fun hsop hbusy => ?_⟩
    · rw [exec_sbPost, issueWord_halt h (isSop_of_eq hsop) ((opSbPost_inRole hv hrole).trans (if_pos hfull))]
    · rw [exec_sbPost, issueWord_go h (isSop_of_eq hsop) ((opSbPost_inRole hv hrole).trans (if_neg hroom)), stepPc_outside (getCore_putSb ..)]
    · rw [exec_sbWaitFree, issueWord_go h (isSop_of_eq hsop) ((opSbWaitFree_inRole hv hrole).trans (if_pos hfree)), stepPc_eq]
    · rw [exec_sbWaitFree, issueWord_stall h (isSop_of_eq hsop) ((opSbWaitFree_inRole hv hrole).trans (if_neg (Nat.not_le.mpr hbusy)))]
  · refine ⟨fun hsop hall => ?_, fun hsop hmore => ?_, fun hsop hthere => ?_, fun hsop hless => ?_⟩
    · rw [exec_sbRelease, issueWord_halt h (isSop_of_eq hsop) ((opSbRelease_inRole hv hrole).trans (if_pos hall))]
    · rw [exec_sbRelease, issueWord_go h (isSop_of_eq hsop) ((opSbRelease_inRole hv hrole).trans (if_neg hmore)), stepPc_outside (getCore_putSb ..)]
    · have hpass : if n = 0 then rel < x.posted else n ≤ x.posted := by split <;> omega
      rw [exec_sbWait, issueWord_go h (isSop_of_eq hsop) ((opSbWait_inRole hv hrole).trans (if_pos hpass)), stepPc_outside (getCore_noteSb ..)]
    · have hwait : ¬ (if n = 0 then rel < x.posted else n ≤ x.posted) := by split <;> omega
      rw [exec_sbWait, issueWord_stall h (isSop_of_eq hsop) ((opSbWait_inRole hv hrole).trans (if_neg hwait))]

/-! ## A write of an entry (R153) -/

theorem exec_sbEntryWrite (s : State) (b : Nat) (hi : Bool) (w : Word) : exec (.sbEntryWrite b hi w) s = .next (sbEntryWrite s b hi w.toNat) := rfl

theorem getSb_putSb_self (s : State) (b r : Nat) (x : SbRegion) : getSb (putSb s b r x) b r = x := by
  simp [getSb, putSb]

theorem sbEntryWrite_cut {s : State} {b : Nat} (hi : Bool) (w : Nat) (h : blockAlive s b = false) : sbEntryWrite s b hi w = s := by
  simp [sbEntryWrite, h]

theorem sbEntryWrite_rejected {s : State} {b w : Nat} {hi : Bool} (h : blockAlive s b = true)
    (hrej : sbRejects s b (fget s fBLK_SB_IDX_INDEX b 0) hi w = true) : sbEntryWrite s b hi w = fput s fBLK_SB_COUNT_WRITE_REJECTED b 0 1 := by
  simp [sbEntryWrite, h, hrej]

theorem sbEntryWrite_taken {s : State} {b w : Nat} {hi : Bool} (h : blockAlive s b = true)
    (hrej : sbRejects s b (fget s fBLK_SB_IDX_INDEX b 0) hi w = false) : sbEntryWrite s b hi w = putSb s b (fget s fBLK_SB_IDX_INDEX b 0)
      { sbWritten (getSb s b (fget s fBLK_SB_IDX_INDEX b 0)) hi w with posted := 0, rel := [] } := by
  simp [sbEntryWrite, h, hrej]

/-- A core of the block that an entry names, as its producer or as a consumer. -/
def SbNamed (x : SbRegion) (c : Nat) : Prop := x.producer = c ∨ nbit x.consumers c = true

theorem mem_sbNames (x : SbRegion) (c : Nat) : c ∈ sbNames x ↔ c < 8 ∧ SbNamed x c := by
  simp [sbNames, mem_rangeFrom, SbNamed, eq_comm (a := c)]

theorem anyNamedRuns_iff (s : State) (b : Nat) (x : SbRegion) :
    ((sbNames x).any fun c => coreRuns s (b * 8 + c)) = true ↔ ∃ c < 8, SbNamed x c ∧ (getCore s (b * 8 + c)).seq.st = .running := by
  simp [List.any_eq_true, mem_sbNames, coreRuns, and_assoc]

/-- What R153 asks of a write, by its own clauses. -/
theorem sbRejects_eq_false {s : State} {b i w : Nat} {hi : Bool}
    (hrun : ∀ c < 8, SbNamed (sbWritten (getSb s b i) hi w) c ∨ (getSb s b i).valid = true ∧ SbNamed (getSb s b i) c →
      (getCore s (b * 8 + c)).seq.st ≠ .running)
    (hlines : hi = true → 1 ≤ nbits w 0 18 ∧ nbits w 0 18 ≤ 196608)
    (hshadow : (sbWritten (getSb s b i) hi w).base + (sbWritten (getSb s b i) hi w).lines ≤ shadowLine s b)
    (hmeets : (sbWritten (getSb s b i) hi w).valid = true → ∀ e ∈ (getBlock s b).sb, e.1 ≠ i → e.2.valid = true →
      e.2.base + e.2.lines ≤ (sbWritten (getSb s b i) hi w).base ∨
        (sbWritten (getSb s b i) hi w).base + (sbWritten (getSb s b i) hi w).lines ≤ e.2.base) :
    sbRejects s b i hi w = false := by
  have hnew : ¬ ((sbNames (sbWritten (getSb s b i) hi w)).any fun c => coreRuns s (b * 8 + c)) = true := by
    rw [anyNamedRuns_iff]
    exact fun ⟨c, hc, hn, hr⟩ => hrun c hc (.inl hn) hr
  have hold : ¬ ((getSb s b i).valid && (sbNames (getSb s b i)).any fun c => coreRuns s (b * 8 + c)) = true := by
    rw [Bool.and_eq_true, anyNamedRuns_iff]
    exact fun ⟨hv, c, hc, hn, hr⟩ => hrun c hc (.inr ⟨hv, hn⟩) hr
  rw [Bool.not_eq_true] at hnew hold
  have hlen : (hi && (nbits w 0 18 == 0 || decide (196608 < nbits w 0 18))) = false := by
    cases hi with
    | false => rfl
    | true => obtain ⟨h1, h2⟩ := hlines rfl; simp; omega
  simp only [sbRejects, hlen, hnew, hold, Bool.false_or, Bool.or_eq_false_iff, decide_eq_false_iff_not, Nat.not_lt, Bool.and_eq_false_imp,
    List.any_eq_false]
  refine ⟨hshadow, fun hv e he => ?_⟩
  simp only [Bool.and_eq_true, bne_iff_ne, decide_eq_true_eq, not_and]
  intro ⟨hne, hev⟩
  have happart := hmeets hv e he hne hev
  omega

/-- Settles O39: the entry fills where R153 lets the write through, and else one bit of the block says that it did not. -/
theorem scoreboardEntryWrites : Obligations.ScoreboardEntryWrites := by
  intro s b w i lo
  refine ⟨fun hi halive => ?_, fun halive hrej => ?_, fun halive hrej => ?_, fun hi halive hbusy => ?_, fun hi hdead => ?_⟩
  · intro x y named hrun hlines hshadow hmeets
    have hy : { sbWritten x hi w.toNat with posted := 0, rel := [] } = y := by cases hi <;> rfl
    have hrej : sbRejects s b i hi w.toNat = false := by
      cases hi with
      | false => exact sbRejects_eq_false hrun (by simp) hshadow hmeets
      | true => exact sbRejects_eq_false hrun (fun _ => hlines rfl) hshadow hmeets
    exact ⟨by rw [exec_sbEntryWrite, sbEntryWrite_taken halive hrej, hy], getSb_putSb_self ..⟩
  · rw [exec_sbEntryWrite, sbEntryWrite_taken halive hrej]
    rfl
  · rw [exec_sbEntryWrite, sbEntryWrite_taken halive hrej]
    rfl
  · obtain ⟨c, hc, hnamed, hvalid, hrun⟩ := hbusy
    have hold : ((sbNames (getSb s b i)).any fun c => coreRuns s (b * 8 + c)) = true := (anyNamedRuns_iff ..).mpr ⟨c, hc, hnamed, hrun⟩
    have hrej : sbRejects s b i hi w.toNat = true := by
      simp [sbRejects, hvalid, hold]
    rw [exec_sbEntryWrite, sbEntryWrite_rejected halive hrej]
  · rw [exec_sbEntryWrite, sbEntryWrite_cut hi _ hdead]

end Sys2Proof.Machine
end

section
/-! The vector engine (R122, R198 to R212, R255, R261): one law for a field that runs and one for a field that its checks halt, and what each
operation gives its destination. -/

namespace Sys2Proof.Machine

open Sys2Proof.Safety

/-! ## A field keeps its unit running -/

theorem takeBeats_frame {qs : List Nat} {c d : Core} {bs : Bytes} {acc beats : List (Nat × Bytes)} (h : takeBeats c qs acc = (.beat bs d, beats)) :
    d = { c with queues := d.queues } := by
  induction qs generalizing c acc with
  | nil =>
    obtain ⟨-, rfl⟩ := Pop.beat.inj (congrArg Prod.fst h)
    rfl
  | cons q qs ih =>
    unfold takeBeats at h
    split at h
    · rename_i c1 hpop
      have hrest := ih h
      rw [popBeat_frame hpop] at hrest
      exact hrest
    · rename_i p hno
      exact absurd (Prod.mk.inj h).1 (hno bs d)

theorem writeRow_seq {c d : Core} {o : Nat} {bs : Bytes} (h : writeRow c o bs = some d) : d.seq = c.seq := by
  unfold writeRow at h
  split at h
  · obtain rfl := Option.some.inj h
    rfl
  · rw [pushQ_frame h]
  · obtain rfl := Option.some.inj h
    rfl

@[simp] theorem putSum_st (c : Core) (b : Nat) (v : SumView) (xs : List (Nat × Nat)) : (putSum c b v xs).seq.st = c.seq.st := by
  unfold putSum
  split <;> rfl

theorem finishData_st {c d : Core} {b : Nat} {act : List Bool} {res : List Nat} (h : finishData c b act res = .ok d) : d.seq.st = c.seq.st := by
  unfold finishData at h
  dsimp only at h
  split at h
  · rename_i c1 hrow
    obtain rfl := EngRes.ok.inj h
    rw [putSum_st, writeRow_seq hrow]
  · cases h

@[simp] theorem drawRow_st (c : Core) (o ne : Nat) : (drawRow c o ne).2.seq.st = c.seq.st := by
  unfold drawRow
  split
  · split <;> rfl
  · rfl

theorem opCvt_st {sr : Bool} {c d : Core} {beats : List (Nat × Bytes)} {b : Nat} (h : opCvt sr c beats b = .ok d) : d.seq.st = c.seq.st := by
  unfold opCvt at h
  extract_lets dt t act xs drawn us c1 src vs bytes size wide lo n part res view sums row at h
  have hdrawn : c1.seq.st = c.seq.st := by
    cases sr with
    | false => rfl
    | true => exact drawRow_st ..
  split at h
  · split at h
    · rename_i c2 hrow
      obtain rfl := EngRes.ok.inj h
      rw [writeRow_seq hrow, hdrawn]
    · cases h
  · split at h
    · rename_i c2 hrow
      obtain rfl := EngRes.ok.inj h
      rw [putSum_st, writeRow_seq hrow, hdrawn]
    · cases h

@[simp] theorem mendRow_seq (c0 c : Core) (b : Nat) : (mendRow c0 c b).seq = c.seq := by
  unfold mendRow
  split
  · split <;> rfl
  · rfl

theorem mendRow_mask {c0 c : Core} {b d : Nat} (h : opdOf (vD b) = .mask d) : mendRow c0 c b = c := by
  rw [mendRow, h]

/-! ## The step of the engine -/

/-- The run of a VEC field once it has its baton: it takes its beats, and its operation runs under the checks of R208. -/
def vecRun (u : Nat) (op : Core → List (Nat × Bytes) → Nat → EngRes) (c : Core) (b : Nat) : EngRes :=
  match takeBeats c (vecQueues b) [] with
  | (.beat _ c, beats) => checkedVec u op c beats b
  | (.wait, _) => .wait
  | (.order, _) => .halt 0x0B (batonHead c (vecQueues b))

/-- The cycles of a VEC field, with a free value for those it waited (R213, R225, R366). -/
def vecCount (u cycles : Nat) (s : State) : State :=
  if isSE u then fbump (drawFree s).2 fSE_LANE_CYCLES_COUNT (u - 512) 0 (cycles + (drawFree s).1)
  else fbump (drawFree s).2 fCORE_VEC_CYCLES_COUNT u 0 (cycles + (drawFree s).1)

theorem vecStep_eq (s : State) (u vop : Nat) (op : Core → List (Nat × Bytes) → Nat → EngRes) :
    vecStep s u vop op = countedField s u 2 (fun b => vVop b == vop) (vecRun u op) (vecCount u (vecCycles vop)) := rfl

theorem vecDone_eq (s : State) (u cycles : Nat) (rest : List QField) (c : Core) :
    vecDone s u cycles rest c = settleNops (vecCount u cycles (retired s u 2 rest c)) u := rfl

/-- A VEC field that is ready, and whose operation gives its unit a core, retires (R127, R138, R213). -/
theorem vecStep_ok {s : State} {u vop : Nat} {op : Core → List (Nat × Bytes) → Nat → EngRes} {f : QField} {rest : List QField}
    {c c' c'' : Core} {beats : List (Nat × Bytes)} (h : vecReady s u f rest c beats) (hvop : vVop f.bits = vop)
    (hop : op c beats f.bits = .ok c') (hst : c'.seq.st = c.seq.st) (hput : putBaton (mendRow c c' f.bits) f.bits = .ok c'') :
    vecStep s u vop op = vecDone s u (vecCycles vop) rest c'' := by
  obtain ⟨hfield, c1, c2, fixes, sup, htake, hbeats, hcheck, rfl⟩ := h
  have hruns : vecRun u op c1 f.bits = .ok (mendRow c2 c' f.bits) := by
    simp only [vecRun, hbeats, checkedVec, hcheck, hop]
  have hstays : c''.seq.st = .running := by
    have hput_seq : c''.seq = c'.seq := (congrArg Core.seq (putBaton_frame hput)).trans (mendRow_seq ..)
    have hbeats_seq : c2.seq = c1.seq := by rw [takeBeats_frame hbeats]
    have htake_seq : c1.seq = (getCore s u).seq := by rw [takeBaton_frame htake]
    rw [hput_seq, hst]
    show c2.seq.st = _
    rw [hbeats_seq, htake_seq, hfield.1]
  rw [vecStep_eq, vecDone_eq, countedField_ok hfield (by simp [hvop]) htake hruns hput hstays]

/-- A VEC field whose checks find an error that counts halts its unit (R208). -/
theorem vecStep_halt {s : State} {u vop r d fixes sup : Nat} {op : Core → List (Nat × Bytes) → Nat → EngRes} {f : QField} {rest : List QField}
    {c1 c : Core} {beats : List (Nat × Bytes)} (hfield : fieldAt s u 2 f rest) (hvop : vVop f.bits = vop)
    (htake : takeBaton (getCore s u) f.bits = .ok c1) (hbeats : takeBeats c1 (vecQueues f.bits) [] = (.beat [] c, beats))
    (hcheck : vecCheck c u f.bits = (some (r, d), fixes, sup)) :
    vecStep s u vop op = settleNops (haltUnit s u r 2 f.pc d) u := by
  have hhalts : vecRun u op c1 f.bits = .halt r d := by
    simp only [vecRun, hbeats, checkedVec, hcheck]
  rw [vecStep_eq, countedField, runField_halt hfield (by simp [hvop]) htake hhalts, if_neg (by simp [haltUnit_halted])]

/-! ## Lane operations (R204, R205) -/

/-- Every VEC row is a step of the engine with its VOP. -/
theorem exec_vec (s : State) (u : Nat) {i : Nat × Instr}
    (hi : i ∈ ([(0x00, .vecNop u), (0x01, .mov u), (0x02, .add u), (0x03, .sub u), (0x04, .mul u), (0x05, .fma u), (0x06, .vecMin u),
      (0x07, .vecMax u), (0x08, .abs u), (0x09, .neg u), (0x0A, .cmpLt u), (0x0B, .cmpLe u), (0x0C, .cmpEq u), (0x0D, .cmpNe u),
      (0x0E, .sel u), (0x0F, .cvt u), (0x10, .compress u), (0x11, .expand u), (0x12, .and u), (0x13, .or u), (0x14, .xor u),
      (0x15, .shl u), (0x16, .shr u), (0x17, .rand u), (0x18, .srCvt u)] : List (Nat × Instr))) :
    ∃ op, exec i.2 s = .next (vecStep s u i.1 op) := by
  simp only [List.mem_cons, List.not_mem_nil, or_false] at hi
  rcases hi with rfl | rfl | rfl | rfl | rfl | rfl | rfl | rfl | rfl | rfl | rfl | rfl | rfl | rfl | rfl | rfl | rfl | rfl | rfl | rfl |
    rfl | rfl | rfl | rfl | rfl <;> exact ⟨_, rfl⟩

/-- AND, OR and XOR are lane operations unless both operands are masks (R203). -/
theorem opLogic_data {c : Core} {beats : List (Nat × Bytes)} {b : Nat} (vop : Nat)
    (h : ((opdOf (vA b)).isMask && (opdOf (vB b)).isMask) = false) : opLogic vop c beats b = opLane vop c beats b := by
  unfold opLogic
  split
  · rename_i ha hb
    simp [ha, hb, Opd.isMask] at h
  · rfl

/-- What a lane operation gives its destination: one operand for ABS and NEG, three for FMA, else two. -/
def laneResult (vop : Nat) (c : Core) (beats : List (Nat × Bytes)) (b : Nat) : EngRes :=
  finishData c b (activeList c b) (List.zipWith (fun x (p : Nat × Nat) => laneOp vop (vDtype b) x p.1 p.2) (dataElems c beats b (vA b))
    ((if vop = 0x08 ∨ vop = 0x09 then dataElems c beats b (vA b) else dataElems c beats b (vB b)).zip
      (if vop = 0x05 then dataElems c beats b (vC b) else dataElems c beats b (vA b))))

/-- Each lane row runs its operation on the elements of its operands, in one cycle. -/
theorem exec_lane (s : State) (u : Nat) {c : Core} {beats : List (Nat × Bytes)} {b : Nat}
    (hmask : ((opdOf (vA b)).isMask && (opdOf (vB b)).isMask) = false) {i : Nat × Instr}
    (hi : i ∈ ([(0x02, .add u), (0x03, .sub u), (0x04, .mul u), (0x05, .fma u), (0x06, .vecMin u), (0x07, .vecMax u), (0x08, .abs u),
      (0x09, .neg u), (0x12, .and u), (0x13, .or u), (0x14, .xor u), (0x15, .shl u), (0x16, .shr u)] : List (Nat × Instr))) :
    ∃ op, exec i.2 s = .next (vecStep s u i.1 op) ∧ op c beats b = laneResult i.1 c beats b ∧ vecCycles i.1 = 1 := by
  simp only [List.mem_cons, List.not_mem_nil, or_false] at hi
  iterate 8
    rcases hi with rfl | hi
    · exact ⟨opLane _, rfl, rfl, rfl⟩
  rcases hi with rfl | rfl | rfl | rfl | rfl
  · exact ⟨opLogic 0x12, rfl, opLogic_data 0x12 hmask, rfl⟩
  · exact ⟨opLogic 0x13, rfl, opLogic_data 0x13 hmask, rfl⟩
  · exact ⟨opLogic 0x14, rfl, opLogic_data 0x14 hmask, rfl⟩
  · exact ⟨opLane _, rfl, rfl, rfl⟩
  · exact ⟨opLane _, rfl, rfl, rfl⟩

/-- Settles O20: a field that its checks halt, and a lane field that runs. -/
theorem vectorLaneFields : Obligations.VectorLaneFields := by
  refine ⟨fun s u r d fixes sup f rest c1 c beats hfield htake hbeats hcheck i hi hvop => ?_, fun s u f rest c beats h => ?_⟩
  · obtain ⟨op, hexec⟩ := exec_vec s u hi
    rw [hexec, vecStep_halt hfield hvop htake hbeats hcheck]
  · intro b opd i hi hvop hmask unary ys zs c' c'' hfinish hput
    obtain ⟨op, hexec, hop, hcycles⟩ := exec_lane s u (c := c) (beats := beats) hmask hi
    have hresult : laneResult i.1 c beats b = .ok c' := by
      rw [← hfinish]
      simp only [laneResult, ys, zs, unary, opd, decide_eq_true_eq]
    rw [hexec, vecStep_ok h hvop (hop.trans hresult) (finishData_st hfinish) hput, hcycles]

/-! ## Moves, draws and conversions (R206, R209, R210, R255, R261) -/

theorem exec_vecNop (s : State) (u : Nat) : exec (.vecNop u) s = .next (vecStep s u 0x00 opNop) := rfl
theorem exec_mov (s : State) (u : Nat) : exec (.mov u) s = .next (vecStep s u 0x01 opMov) := rfl
theorem exec_sel (s : State) (u : Nat) : exec (.sel u) s = .next (vecStep s u 0x0E opSel) := rfl
theorem exec_cvt (s : State) (u : Nat) : exec (.cvt u) s = .next (vecStep s u 0x0F (opCvt false)) := rfl
theorem exec_compress (s : State) (u : Nat) : exec (.compress u) s = .next (vecStep s u 0x10 opCompress) := rfl
theorem exec_expand (s : State) (u : Nat) : exec (.expand u) s = .next (vecStep s u 0x11 opExpand) := rfl
theorem exec_rand (s : State) (u : Nat) : exec (.rand u) s = .next (vecStep s u 0x17 opRand) := rfl
theorem exec_srCvt (s : State) (u : Nat) : exec (.srCvt u) s = .next (vecStep s u 0x18 (opCvt true)) := rfl

section
variable {c : Core} {beats : List (Nat × Bytes)} {b : Nat}

theorem opNop_plain (h : vSumOp b = 0) : opNop c beats b = .ok c := if_pos h

/-- The summary of a NOP over data (R203, R210). -/
theorem opNop_data (h : vSumOp b ≠ 0) (ha : (opdOf (vA b)).isMask = false) :
    opNop c beats b = .ok (putSum c b (dtView (vDtype b)) (activeElems (activeList c b) (dataElems c beats b (vA b)))) := by
  unfold opNop
  dsimp only
  rw [if_neg h]
  split
  · rename_i hm
    simp [hm, Opd.isMask] at ha
  · rfl

theorem opMov_data (ha : (opdOf (vA b)).isMask = false) (hd : (opdOf (vD b)).isMask = false) :
    opMov c beats b = finishData c b (activeList c b) (dataElems c beats b (vA b)) := by
  unfold opMov
  dsimp only
  split
  · rename_i hm
    simp [hm, Opd.isMask] at hd
  · rw [if_neg (by simp [ha])]

theorem opSel_mask {m : Nat} (hm : opdOf (vC b) = .mask m) : opSel c beats b = finishData c b (activeList c b)
    (List.zipWith (fun (p : Bool) (q : Nat × Nat) => if p then q.1 else q.2) (maskElems (maskBits c m) (vDtype b))
      ((dataElems c beats b (vA b)).zip (dataElems c beats b (vB b)))) := by
  rw [opSel, hm]

theorem opCompress_row {d : Core} (h : writeRow c (vD b) (unElems (dtBytes (vDtype b))
      (padTo (dtCount (vDtype b)) 0 ((activeElems (activeList c b) (dataElems c beats b (vA b))).map (·.2)))) = some d) :
    opCompress c beats b = .ok (putSum d b (dtView (vDtype b))
      ((rangeFrom 0 ((activeElems (activeList c b) (dataElems c beats b (vA b))).map (·.2)).length).zip
        ((activeElems (activeList c b) (dataElems c beats b (vA b))).map (·.2)))) := by
  simp only [opCompress, h]

/-- A MOV between masks, under the active set (R203, R207). -/
theorem opMov_masks {d m : Nat} (hd : opdOf (vD b) = .mask d) (ha : opdOf (vA b) = .mask m) :
    opMov c beats b = finishMask c b (activeList c b) (maskElems (maskBits c m) (vDtype b)) := by
  simp [opMov, hd, ha, Opd.isMask]

theorem finishMask_mask {d : Nat} (act res : List Bool) (hd : opdOf (vD b) = .mask d) : finishMask c b act res =
    .ok (putSum { c with masks := tabSet none c.masks d (some (maskWrite (maskBits c d) (vDtype b) act res)) } b .mask
      (activeElems act (res.map b2n))) := by
  rw [finishMask, hd]

end

/-- Settles O21: each operation gives the core that its clause names, and its field retires. -/
theorem vectorMoveFields : Obligations.VectorMoveFields := by
  intro s u f rest c c' c'' beats h b a act ne packed hput
  refine ⟨fun hvop hsum hc => ?_, fun hvop hsum ha hc => ?_, fun hvop ha hd hc => ?_, fun m hvop hm hc => ?_, fun d hvop hrow hc => ?_,
    fun hvop hc => ?_, fun d hvop hdraw hc => ?_, fun hvop hc => ?_, fun hvop hc => ?_⟩
  · subst hc
    rw [exec_vecNop, vecStep_ok h hvop (opNop_plain hsum) rfl hput]
    rfl
  · have hst : c'.seq.st = c.seq.st := hc ▸ putSum_st ..
    rw [exec_vecNop, vecStep_ok h hvop ((opNop_data hsum ha).trans (congrArg _ hc.symm)) hst hput]
    rfl
  · rw [exec_mov, vecStep_ok h hvop ((opMov_data ha hd).trans hc) (finishData_st hc) hput]
    rfl
  · rw [exec_sel, vecStep_ok h hvop ((opSel_mask hm).trans hc) (finishData_st hc) hput]
    rfl
  · have hst : c'.seq.st = c.seq.st := by rw [hc, putSum_st, writeRow_seq hrow]
    rw [exec_compress, vecStep_ok h hvop ((opCompress_row hrow).trans (congrArg _ hc.symm)) hst hput]
    rfl
  · rw [exec_expand, vecStep_ok h hvop hc (finishData_st hc) hput]
    rfl
  · subst hdraw
    rw [exec_rand, vecStep_ok h hvop hc ((finishData_st hc).trans (drawRow_st ..)) hput]
    rfl
  · rw [exec_cvt, vecStep_ok h hvop hc (opCvt_st hc) hput]
    rfl
  · rw [exec_srCvt, vecStep_ok h hvop hc (opCvt_st hc) hput]
    rfl

/-! ## Fields with a mask as destination (R200, R205, R207) -/

/-- A field whose operation finishes a mask retires with its bits and its summary written. -/
theorem vecStep_mask {s : State} {u vop d : Nat} {op : Core → List (Nat × Bytes) → Nat → EngRes} {f : QField} {rest : List QField}
    {c c'' : Core} {beats : List (Nat × Bytes)} {res : List Bool} (h : vecReady s u f rest c beats) (hvop : vVop f.bits = vop)
    (hd : opdOf (vD f.bits) = .mask d) (hop : op c beats f.bits = finishMask c f.bits (activeList c f.bits) res)
    (hput : putBaton (putSum { c with masks := tabSet none c.masks d (some (maskWrite (maskBits c d) (vDtype f.bits) (activeList c f.bits) res)) }
      f.bits .mask (activeElems (activeList c f.bits) (res.map b2n))) f.bits = .ok c'') :
    vecStep s u vop op = vecDone s u (vecCycles vop) rest c'' :=
  vecStep_ok h hvop (hop.trans (finishMask_mask _ _ hd)) (putSum_st ..) ((congrArg (putBaton · f.bits) (mendRow_mask hd)).trans hput)

/-- Settles O22: each of these fields finishes a mask. -/
theorem vectorMaskFields : Obligations.VectorMaskFields := by
  intro s u d f rest c c'' beats h b act write bitsOf sum hd
  refine ⟨fun i hi hvop => ?_, fun m n ha hb i hi hvop => ?_, fun m ha hvop => ?_⟩ <;> intro res hput
  · simp only [List.mem_cons, List.not_mem_nil, or_false] at hi
    rcases hi with rfl | rfl | rfl | rfl <;> exact congrArg Host.Outcome.next (vecStep_mask h hvop hd rfl hput)
  · have hlogic (vop : Nat) : opLogic vop c beats b = finishMask c b act
        (maskElems (if vop = 0x12 then Nat.land (maskBits c m) (maskBits c n) else if vop = 0x13 then Nat.lor (maskBits c m) (maskBits c n)
          else Nat.xor (maskBits c m) (maskBits c n)) (vDtype b)) := by
      simp only [opLogic, ha, hb, act]
    simp only [List.mem_cons, List.not_mem_nil, or_false] at hi
    rcases hi with rfl | rfl | rfl <;> exact congrArg Host.Outcome.next (vecStep_mask h hvop hd (hlogic _) hput)
  · rw [exec_mov, vecStep_mask h hvop hd (opMov_masks hd ha) hput]
    rfl

end Sys2Proof.Machine
end

section
/-! The operations of a stream mover (R126, R139, R320, R603): what stops its walk, and how each operation at the head of its queue ends. -/

namespace Sys2Proof.Machine

open Sys2Proof.Safety

/-! ## The step of a mover -/

theorem exec_moverStart (s : State) (u m : Nat) : exec (.moverStart u m) s = .next (moverStep s u m 1 fun s f x => startWalk s u m f x) := rfl
theorem exec_moverStop (s : State) (u m : Nat) : exec (.moverStop u m) s =
    .next (moverStep s u m 2 fun s f x => match stopWalk s u m f x with | some s => .ok s | none => .wait) := rfl
theorem exec_rearm (s : State) (u m : Nat) : exec (.rearm u m) s = .next (moverStep s u m 3 fun s f x => rearm s u m f x) := rfl
theorem exec_flush (s : State) (u m : Nat) : exec (.flush u m) s = .next (moverStep s u m 4 fun s _ x => flushWalk s x) := rfl
theorem exec_takeBaton (s : State) (u m : Nat) : exec (.takeBaton u m) s = .next (moverStep s u m 5 fun s f x => takeMover s u m f x) := rfl

theorem moverOp_unarmed {s : State} {u m mvop : Nat} (op : State → QField → Mover → MvRes) (f : QField)
    (h : (getMv (getCore s u) m).st = .unarmed) (hop : mvop ≠ 3) : moverOp s u m mvop op f = .halt s 0x0E m := if_pos ⟨h, hop⟩

theorem moverOp_runs {s : State} {u m mvop : Nat} (op : State → QField → Mover → MvRes) (f : QField)
    (h : (getMv (getCore s u) m).st ≠ .unarmed ∨ mvop = 3) : moverOp s u m mvop op f = op s f (getMv (getCore s u) m) :=
  if_neg fun ⟨hst, hop⟩ => h.elim (· hst) hop

section
variable {s t : State} {u m mvop : Nat} {op : State → QField → Mover → MvRes} {f : QField} {rest : List QField}
  (h : fieldAt s u (6 + m) f rest) (hmvop : nbits f.bits 0 4 = mvop)
include h hmvop

theorem moverStep_ok (hop : moverOp s u m mvop op f = .ok t) :
    moverStep s u m mvop op = settleNops (updCore t u fun c => setFq c (6 + m) rest) u := by
  simp [moverStep, h.1, h.2, hmvop, hop]

theorem moverStep_halt {r d : Nat} (hop : moverOp s u m mvop op f = .halt t r d) :
    moverStep s u m mvop op = haltUnit t u r (6 + m) f.pc d := by
  simp [moverStep, h.1, h.2, hmvop, hop]

end

/-! ## Walks that start and stop (R156, R320) -/

/-- A unit whose mover's walk is cut: the entries that nobody has read are discarded, and the mover is armed. -/
def walkCut (s : State) (u m : Nat) (x : Mover) : State :=
  setCore s u (setMv (setQ (getCore s u) x.queue { getQ (getCore s u) x.queue with
    items := (getQ (getCore s u) x.queue).items.take ((getQ (getCore s u) x.queue).items.length - x.delivered) }) m
      { rewind x with st := .armed, due := false })

section
variable {s : State} {u m : Nat} {f : QField} {x : Mover}

theorem startWalk_starts (hst : x.st ≠ .running) (hdue : x.due = false) : startWalk s u m f x =
    .ok (updMv s u m fun x => { rewind x with st := if pRuns x.pat = 0 then .done else .running, pc := f.pc }) :=
  if_neg (by simp [hst, hdue])

theorem stopWalk_writeBack (hk : x.kind = 1) (hst : x.st ≠ .running) :
    stopWalk s u m f x = some (updMv s u m fun x => { x with st := .armed }) := by
  simp [stopWalk, hk, hst]

theorem stopWalk_prefetch (hk : x.kind ≠ 1) (hst : x.st ≠ .armed) (hread : readersDone (getCore s u) x.queue f.no = true) :
    stopWalk s u m f x = some (walkCut s u m x) := by
  simp [stopWalk, hk, hst, hread, walkCut]

theorem stopFirst_stands (hdue : x.kind = 1 → x.due = false) (hst : x.st = .unarmed ∨ x.st = .armed ∨ x.st = .done ∧ x.kind = 1) :
    stopFirst s u m f x = some s := by
  have hput : ¬ (x.kind = 1 ∧ x.due = true) := fun ⟨hk, hd⟩ => by simp [hdue hk] at hd
  have hstands : ¬ (x.st = .running ∨ x.st = .done ∧ x.kind ≠ 1) := by
    rcases hst with hst | hst | ⟨hst, hk⟩
    · simp [hst]
    · simp [hst]
    · simp [hst, hk]
  rw [stopFirst, if_neg hput, if_neg hstands]

theorem stopFirst_cut (hk : x.kind ≠ 1) (hst : x.st = .running ∨ x.st = .done) (hread : readersDone (getCore s u) x.queue f.no = true) :
    stopFirst s u m f x = some (walkCut s u m x) := by
  have hwalks : x.st = .running ∨ x.st = .done ∧ x.kind ≠ 1 := hst.imp_right (⟨·, hk⟩)
  have harmed : x.st ≠ .armed := by rcases hst with hst | hst <;> simp [hst]
  rw [stopFirst, if_neg (fun h => hk h.1), if_pos hwalks, stopWalk_prefetch hk harmed hread]

end

theorem getMv_walkCut (s : State) (u m : Nat) (x : Mover) :
    getMv (getCore (walkCut s u m x) u) m = { rewind x with st := .armed, due := false } := by
  rw [walkCut, getCore_setCore_self, getMv_setMv_self]

theorem updMv_const {s : State} {u m : Nat} {f g : Mover → Mover} (h : f (getMv (getCore s u) m) = g (getMv (getCore s u) m)) :
    updMv s u m f = updMv s u m g := by
  simp only [updMv, updCore, h]

/-! ## REARM (R317, R320, R603) -/

section
variable {s t : State} {u m e : Nat} {f : QField} {x : Mover}

theorem rearm_noEntry (h : (getCore s u).arms[nbits f.bits 4 3]? = none) : rearm s u m f x = .halt s 0x0E m := by
  simp only [rearm, h]

theorem rearm_baseUnarmed (h : (getCore s u).arms[nbits f.bits 4 3]? = some e) (hbase : nbits e 4 2 = 2) (hst : x.st = .unarmed) :
    rearm s u m f x = .halt s 0x0E m := by
  simp [rearm, h, hbase, hst]

theorem rearm_base (h : (getCore s u).arms[nbits f.bits 4 3]? = some e) (hbase : nbits e 4 2 = 2) (hst : x.st ≠ .unarmed)
    (hstop : stopFirst s u m f x = some t) : rearm s u m f x =
      .ok (updMv t u m fun y => { rewind y with pat := putBits x.pat 0 52 (nbits e 512 52), st := .armed, due := false }) := by
  simp [rearm, h, hbase, hst, hstop]

section
variable (h : (getCore s u).arms[nbits f.bits 4 3]? = some e) (hfull : nbits e 4 2 ≠ 2) (hstop : stopFirst s u m f x = some t) {q : State}
include h hfull hstop

theorem rearm_descRange {a : Nat} (hread : descRead t e = (q, .range a)) : rearm s u m f x = .halt q 0x0F a := by
  simp [rearm, h, hfull, hstop, hread]

theorem rearm_descBus {a : Nat} (hread : descRead t e = (q, .bus a)) : rearm s u m f x = .halt q 0x16 a := by
  simp [rearm, h, hfull, hstop, hread]

theorem rearm_armed {d : Bytes} {r : State} (hread : descRead t e = (q, .ok d)) (harm : armMover q u m e = (r, none)) :
    rearm s u m f x = .ok r := by
  simp [rearm, h, hfull, hstop, hread, harm]

theorem rearm_conflict {d : Bytes} {r : State} {n : Nat} (hread : descRead t e = (q, .ok d)) (harm : armMover q u m e = (r, some n)) :
    rearm s u m f x = .halt r 0x09 n := by
  simp [rearm, h, hfull, hstop, hread, harm]

end
end

/-! ## TAKE_BATON (R139, R321) -/

section
variable {s : State} {u m tag : Nat} {f : QField} {x : Mover} {items : List QItem}

theorem takeMover_prefetch (hk : x.kind ≠ 1) : takeMover s u m f x = .halt s 0x0E m := if_pos hk

theorem takeMover_written (hk : x.kind = 1) (hreq : x.req = none) (hpart : x.part = [])
    (hq : (getQ (getCore s u) x.queue).items = .baton tag :: items) : takeMover s u m f x =
      if tag = nbits f.bits 4 8 then .ok (setCore s u (setQ (getCore s u) x.queue { getQ (getCore s u) x.queue with items := items }))
      else .halt s 0x0A (x.queue + nbits f.bits 4 8 * 2 ^ 8 + tag * 2 ^ 16) := by
  simp [takeMover, hk, hreq, hpart, hq]

end

theorem flushWalk_quiet {s : State} {x : Mover} (h : ¬ (x.kind = 1 ∧ x.st = .running)) : flushWalk s x = .ok s := if_neg h

/-! ## The operations at the head of a mover's queue -/

/-- Every operation but REARM is a step of the mover that asks for an armed one. -/
theorem exec_moverField (s : State) (u m : Nat) {i : Nat × Instr}
    (hi : i ∈ ([(1, .moverStart u m), (2, .moverStop u m), (4, .flush u m), (5, .takeBaton u m)] : List (Nat × Instr))) :
    i.1 ≠ 3 ∧ ∃ op, exec i.2 s = .next (moverStep s u m i.1 op) := by
  simp only [List.mem_cons, List.not_mem_nil, or_false] at hi
  rcases hi with rfl | rfl | rfl | rfl <;> exact ⟨by simp, _, rfl⟩

theorem exec_moverStop_stops {s t : State} {u m : Nat} {f : QField} {rest : List QField} (h : fieldAt s u (6 + m) f rest)
    (hop : nbits f.bits 0 4 = 2) (hst : (getMv (getCore s u) m).st ≠ .unarmed) (hstop : stopWalk s u m f (getMv (getCore s u) m) = some t) :
    exec (.moverStop u m) s = .next (settleNops (updCore t u fun c => setFq c (6 + m) rest) u) := by
  rw [exec_moverStop, moverStep_ok h hop]
  rw [moverOp_runs _ f (.inl hst), hstop]

/-- Settles O28: an operation of an armed mover ends as its own law says, and a REARM after the stop of its walk. -/
theorem moverFields : Obligations.MoverFields := by
  intro s u m f rest h c x op k tag done cut stopped
  have hstopped {t : State} (ht : stopped t) : stopFirst s u m f x = some t := by
    obtain ⟨rfl, hdue, hst⟩ | ⟨rfl, hk, hst, hread⟩ := ht
    · exact stopFirst_stands hdue hst
    · exact stopFirst_cut hk hst hread
  refine ⟨fun i hi hop hst => ?_, fun hop hst hrun hdue => ?_, fun hop hk hst hrun => ?_, fun hop hk hst harmed hread => ?_, fun hop he => ?_,
    fun hop e he hbase hst => ?_,
    fun hop e t q he hfull ht => ⟨fun a hq => ?_, fun a hq => ?_, fun d hq => ⟨fun r hr => ?_, fun r n hr => ?_⟩⟩,
    fun hop e t he hbase ht hst => ?_, fun hop hst hquiet => ?_, fun hop hst hk => ?_,
    fun hop t items hst hk hreq hpart hq => ⟨fun htag => ?_, fun htag => ?_⟩⟩
  · obtain ⟨hne, o, hexec⟩ := exec_moverField s u m hi
    rw [hexec, moverStep_halt h hop (moverOp_unarmed _ f hst hne)]
  · rw [exec_moverStart, moverStep_ok h hop ((moverOp_runs _ f (.inl hst)).trans (startWalk_starts hrun hdue))]
  · exact exec_moverStop_stops h hop hst (stopWalk_writeBack hk hrun)
  · exact exec_moverStop_stops h hop hst (stopWalk_prefetch hk harmed hread)
  · rw [exec_rearm, moverStep_halt h hop ((moverOp_runs _ f (.inr rfl)).trans (rearm_noEntry he))]
  · rw [exec_rearm, moverStep_halt h hop ((moverOp_runs _ f (.inr rfl)).trans (rearm_baseUnarmed he hbase hst))]
  · rw [exec_rearm, moverStep_halt h hop ((moverOp_runs _ f (.inr rfl)).trans (rearm_descRange he hfull (hstopped ht) hq))]
  · rw [exec_rearm, moverStep_halt h hop ((moverOp_runs _ f (.inr rfl)).trans (rearm_descBus he hfull (hstopped ht) hq))]
  · rw [exec_rearm, moverStep_ok h hop ((moverOp_runs _ f (.inr rfl)).trans (rearm_armed he hfull (hstopped ht) hq hr))]
  · rw [exec_rearm, moverStep_halt h hop ((moverOp_runs _ f (.inr rfl)).trans (rearm_conflict he hfull (hstopped ht) hq hr))]
  · rw [exec_rearm, moverStep_ok h hop ((moverOp_runs _ f (.inr rfl)).trans (rearm_base he hbase hst (hstopped ht)))]
    refine congrArg (fun t => Host.Outcome.next (done t)) (updMv_const ?_)
    obtain ⟨rfl, -, -⟩ | ⟨rfl, -, -, -⟩ := ht
    · rfl
    · rw [show getMv (getCore cut u) m = _ from getMv_walkCut s u m x]
      rfl
  · rw [exec_flush, moverStep_ok h hop ((moverOp_runs _ f (.inl hst)).trans (flushWalk_quiet hquiet))]
  · rw [exec_takeBaton, moverStep_halt h hop ((moverOp_runs _ f (.inl hst)).trans (takeMover_prefetch hk))]
  · rw [exec_takeBaton, moverStep_ok h hop ((moverOp_runs _ f (.inl hst)).trans ((takeMover_written hk hreq hpart hq).trans (if_pos htag)))]
  · rw [exec_takeBaton, moverStep_halt h hop ((moverOp_runs _ f (.inl hst)).trans ((takeMover_written hk hreq hpart hq).trans (if_neg htag)))]

end Sys2Proof.Machine
end

section
/-! The registers that control a sequencer (R148, R151, R365, R548): HALT_CLEAR, FORCE_HALT and ENGINE_RESET. -/

namespace Sys2Proof.Machine

theorem exec_haltClear (s : State) (u : Nat) : exec (.haltClear u) s = .next (haltClear s u) := rfl
theorem exec_forceHalt (s : State) (u level : Nat) (bar0 : Bool) : exec (.forceHalt u level bar0) s = .next (forceHalt s u level bar0) := rfl
theorem exec_seHaltClear (s : State) (e : Nat) : exec (.seHaltClear e) s = .next (haltClear s (512 + e)) := rfl
theorem exec_seForceHalt (s : State) (e level : Nat) (bar0 : Bool) : exec (.seForceHalt e level bar0) s =
    .next (if (getCore s (512 + e)).deadbolted then s else forceHalt s (512 + e) level bar0) := rfl
theorem exec_engineReset (s : State) (e : Nat) : exec (.engineReset e) s = .next (engineReset s e) := rfl

section
variable {s : State} {u : Nat}

theorem haltClear_halted (hcut : unitCut s u = false) (hst : (getCore s u).seq.st = .halted) :
    haltClear s u = updSeq s u fun q => { q with st := .idle } := if_pos ⟨hcut, hst⟩

theorem haltClear_ignored (h : unitCut s u = true ∨ (getCore s u).seq.st ≠ .halted) : haltClear s u = s :=
  if_neg fun ⟨hcut, hst⟩ => h.elim (fun h => by simp [h] at hcut) (· hst)

theorem forceHalt_running (level : Nat) (bar0 : Bool) (hcut : unitCut s u = false) (hst : (getCore s u).seq.st = .running) :
    forceHalt s u level bar0 = haltUnit s u 0x1A 15 (getCore s u).seq.pc (externalDetail level bar0 false false) := if_pos ⟨hcut, hst⟩

theorem forceHalt_ignored (level : Nat) (bar0 : Bool) (h : unitCut s u = true ∨ (getCore s u).seq.st ≠ .running) :
    forceHalt s u level bar0 = s :=
  if_neg fun ⟨hcut, hst⟩ => h.elim (fun h => by simp [h] at hcut) (· hst)

end

/-- A stack engine at its reset state, with what its fence and firmware keep of it and its halt record (R365). -/
def engineCleared (c : Core) : Core :=
  { coreReset with
    seq := { seqReset with haltRec := c.seq.haltRec }, deadbolted := c.deadbolted, lastHaltLap := c.lastHaltLap, lastTask := c.lastTask }

theorem engineReset_ignored {s : State} {e : Nat} (h : unitCut s (512 + e) = true ∨ (getCore s (512 + e)).seq.st = .running) :
    engineReset s e = s :=
  if_neg fun ⟨hcut, hst⟩ => h.elim (fun h => by simp [h] at hcut) fun h => by simp [h] at hst

/-- Beside the engine and its registers, a reset changes nothing. -/
theorem engineReset_resets {s : State} {e : Nat} (hcut : unitCut s (512 + e) = false)
    (hst : (getCore s (512 + e)).seq.st = .idle ∨ (getCore s (512 + e)).seq.st = .halted) :
    ∃ flds shadows, engineReset s e =
      { setCore s (512 + e) (engineCleared (getCore s (512 + e))) with flds := flds, shadows := shadows } :=
  ⟨_, _, if_pos ⟨hcut, hst⟩⟩

/-- Settles O38: each control acts in its own state of the sequencer, unless the unit is cut. -/
theorem unitControls : Obligations.UnitControls := by
  intro s cut
  refine ⟨fun u hc hst => ?_, fun u h => ?_, fun u level bar0 hc hst => ?_, fun u level bar0 h => ?_, fun e => rfl, fun e level bar0 hdead => ?_,
    fun e level bar0 hdead => ?_, fun e h => ?_, fun e hc hst => ?_⟩
  · rw [exec_haltClear, haltClear_halted hc hst]
  · rw [exec_haltClear, haltClear_ignored h]
  · rw [exec_forceHalt, forceHalt_running level bar0 hc hst]
  · rw [exec_forceHalt, forceHalt_ignored level bar0 h]
  · rw [exec_seForceHalt, if_neg (by simp [hdead]), exec_forceHalt]
  · rw [exec_seForceHalt, if_pos hdead]
  · rw [exec_engineReset, engineReset_ignored h]
  · obtain ⟨flds, shadows, hreset⟩ := engineReset_resets hc hst
    refine ⟨_, exec_engineReset s e, ?_⟩
    rw [hreset]
    have hcore (v : Nat) : getCore { setCore s (512 + e) (engineCleared (getCore s (512 + e))) with flds := flds, shadows := shadows } v =
        if v = 512 + e then engineCleared (getCore s (512 + e)) else getCore s v := getCore_setCore ..
    rw [hcore, if_pos rfl]
    exact ⟨rfl, rfl, rfl, rfl, rfl, fun v hv => (hcore v).trans (if_neg hv), rfl, rfl, rfl, rfl, rfl⟩

end Sys2Proof.Machine
end

section
/-! The registers that clear counters and set tumblers (R170, R295, R426, R443). -/

namespace Sys2Proof.Machine

theorem exec_oobClear (s : State) (c : Nat) (mask : Word) : exec (.oobClear c mask) s = .next (oobClear s c mask.toNat) := rfl
theorem exec_bsConfClearAll (s : State) (b : Nat) : exec (.bsConfClearAll b) s = .next (bsConfClear s b) := rfl
theorem exec_tumSet (s : State) (region : Bool) (unit : Nat) (v : Word) : exec (.tumSet region unit v) s = .next (tumSet s region unit v.toNat) := rfl

/-! ## OOB_CLEAR (R170) -/

/-- The step of OOB_CLEAR for mover m: its count and SATURATED are zeroed where the mask names it. -/
def clearMover (c mask : Nat) (s : State) (m : Nat) : State :=
  if nbit mask m then fput (fput s (fCORE_STM_OOB_OOB_COUNT m) c 0 0) (fCORE_STM_OOB_SATURATED m) c 0 0 else s

theorem oobClear_present {s : State} {c : Nat} (mask : Nat) (hp : corePresent s c = true) (hcut : isCut s 0 c = false) :
    oobClear s c mask = (rangeFrom 0 8).foldl (clearMover c mask) s := if_neg (by simp [hp, hcut])

theorem fldKey_oobCount (m c : Nat) : fldKey (fCORE_STM_OOB_OOB_COUNT m) c 0 = 32 * (65536 * (65536 * (4096 + c)) + (0x180 + 4 * m)) := by
  simp only [fldKey, spaceIdx, fCORE_STM_OOB_OOB_COUNT]
  omega

theorem fldKey_oobSaturated (m c : Nat) : fldKey (fCORE_STM_OOB_SATURATED m) c 0 = fldKey (fCORE_STM_OOB_OOB_COUNT m) c 0 + 24 := rfl

theorem fget_clearMover_self {f : Nat → Fld} (hf : f = fCORE_STM_OOB_OOB_COUNT ∨ f = fCORE_STM_OOB_SATURATED) {c mask m : Nat} (s : State)
    (hbit : nbit mask m = true) : fget (clearMover c mask s m) (f m) c 0 = 0 := by
  rw [clearMover, if_pos hbit]
  obtain rfl | rfl := hf
  · have hkey : fldKey (fCORE_STM_OOB_OOB_COUNT m) c 0 ≠ fldKey (fCORE_STM_OOB_SATURATED m) c 0 := by
      rw [fldKey_oobSaturated]
      omega
    rw [fget_fput_ne _ _ _ _ _ _ _ _ hkey, fget_fput_self, Nat.zero_mod]
  · rw [fget_fput_self, Nat.zero_mod]

theorem fget_clearMover_ne {f : Nat → Fld} (hf : f = fCORE_STM_OOB_OOB_COUNT ∨ f = fCORE_STM_OOB_SATURATED) {m n : Nat} (c mask : Nat) (s : State)
    (h : n ≠ m) : fget (clearMover c mask s m) (f n) c 0 = fget s (f n) c 0 := by
  have hcount : fldKey (f n) c 0 ≠ fldKey (fCORE_STM_OOB_OOB_COUNT m) c 0 := by
    obtain rfl | rfl := hf <;> simp only [fldKey_oobSaturated, fldKey_oobCount] <;> omega
  have hsat : fldKey (f n) c 0 ≠ fldKey (fCORE_STM_OOB_SATURATED m) c 0 := by
    obtain rfl | rfl := hf <;> simp only [fldKey_oobSaturated, fldKey_oobCount] <;> omega
  unfold clearMover
  split
  · rw [fget_fput_ne _ _ _ _ _ _ _ _ hsat, fget_fput_ne _ _ _ _ _ _ _ _ hcount]
  · rfl

/-- The steps for a list of movers zero the two fields of every one in it that the mask names. -/
theorem fget_foldl_clearMover {f : Nat → Fld} (hf : f = fCORE_STM_OOB_OOB_COUNT ∨ f = fCORE_STM_OOB_SATURATED) (c mask n : Nat) (l : List Nat)
    (s : State) : fget (l.foldl (clearMover c mask) s) (f n) c 0 = if n ∈ l ∧ nbit mask n = true then 0 else fget s (f n) c 0 := by
  induction l generalizing s with
  | nil => simp
  | cons m l ih =>
    rw [List.foldl_cons, ih]
    by_cases hm : n = m
    · subst hm
      by_cases hbit : nbit mask n = true
      · simp [hbit, fget_clearMover_self hf s hbit]
      · simp [hbit, clearMover]
    · simp [hm, fget_clearMover_ne hf c mask s hm]

theorem foldl_clearMover_frame (c mask : Nat) (l : List Nat) (s : State) :
    l.foldl (clearMover c mask) s = { s with flds := (l.foldl (clearMover c mask) s).flds } := by
  induction l generalizing s with
  | nil => rfl
  | cons m l ih =>
    rw [List.foldl_cons, ih]
    unfold clearMover
    split <;> rfl

/-! ## CLEAR_ALL (R295) and TUM_SET (R426, R443) -/

theorem bsConfClear_alive {s : State} {b : Nat} (h : blockAlive s b = true) : bsConfClear s b = updBlock s b fun x => { x with conf := [] } :=
  if_pos h

theorem tumSet_reached {s : State} {region : Bool} {unit : Nat} {t : TumRef}
    (ht : t = ⟨region, unit, if region then fget s fRGN_TUM_IDX_INDEX unit 0 else fget s fBLK_TUM_IDX_INDEX unit 0⟩) (hcut : tumCut s t = false)
    (v : Nat) : tumSet s region unit v = tumSetCount s t (v % 65536) := by
  subst ht
  exact if_neg (by simp [hcut])

/-- Settles O40: OOB_CLEAR mover by mover, and the other two by their own equations. -/
theorem counterClears : Obligations.CounterClears := by
  intro s
  refine ⟨fun c mask hp hcut => ?_, fun b h => ?_, fun region unit v t ht hcut => ?_⟩
  · refine ⟨_, (exec_oobClear s c mask).trans (congrArg _ (oobClear_present _ hp hcut)), fun m hm => ?_, fun m hm => ?_,
      foldl_clearMover_frame ..⟩
    · rw [fget_foldl_clearMover (.inl rfl), nbit_eq_getLsbD]
      simp [mem_rangeFrom, hm]
    · rw [fget_foldl_clearMover (.inr rfl), nbit_eq_getLsbD]
      simp [mem_rangeFrom, hm]
  · rw [exec_bsConfClearAll, bsConfClear_alive h]
  · rw [exec_tumSet, tumSet_reached ht hcut, tumSetCount, Nat.mod_mod]

end Sys2Proof.Machine
end

section
/-! The runs of a mover's walk (R154 to R163, R303, R321, R323): where they start, the index that serves them, and the beats of a run. -/

namespace Sys2Proof.Machine

/-! ## The counters of a walk (R154, R157) -/

/-- What is left of a run's number above dimension d splits into the next dimension's counter and what is left above that. -/
theorem pCtr_split {p t d k q : Nat} (h : t / pProd p d = k + pCount p (d + 1) * q) (hk : k < pCount p (d + 1)) :
    pCtr p t (d + 1) = k ∧ t / pProd p (d + 1) = q := by
  constructor
  · rw [pCtr, Nat.add_sub_cancel, h, Nat.add_mul_mod_self_left, Nat.mod_eq_of_lt hk]
  · rw [pProd, ← Nat.div_div_eq_div_mul, h, Nat.add_mul_div_left _ _ (by omega), Nat.div_eq_of_lt hk, Nat.zero_add]

/-- A run is the first of its value of dimension d + 1 where the counters of dimensions 1 to d stand at 0. -/
theorem mod_pProd_eq_zero (p t d : Nat) : t % pProd p d = 0 ↔ ∀ e < d, pCtr p t (e + 1) = 0 := by
  induction d with
  | zero => simp [pProd, Nat.mod_one]
  | succ d ih =>
    have hsplit : t % pProd p (d + 1) = t % pProd p d + pProd p d * pCtr p t (d + 1) := by
      rw [pProd, Nat.mod_mul, pCtr, Nat.add_sub_cancel]
    have hzero : pProd p d * pCtr p t (d + 1) = 0 ↔ pCtr p t (d + 1) = 0 := by
      refine ⟨fun h => ?_, fun h => by rw [h, Nat.mul_zero]⟩
      obtain hprod | hctr := Nat.mul_eq_zero.mp h
      · rw [pCtr, Nat.add_sub_cancel, hprod, Nat.div_zero, Nat.zero_mod]
      · exact hctr
    rw [hsplit, Nat.add_eq_zero_iff, ih, hzero, Nat.forall_lt_succ_right]

theorem newIndex_iff {p t : Nat} (h : pIndexed p = true) : newIndex p t = true ↔ ∀ e < pIdxDim p - 1, pCtr p t (e + 1) = 0 := by
  rw [newIndex, h, Bool.true_and, beq_iff_eq, mod_pProd_eq_zero]

/-- Below the indexed dimension stand the counters that the statement of O31 lists. -/
theorem lowCounters_iff {p t : Nat} (hlo : 1 ≤ pIdxDim p) (hhi : pIdxDim p ≤ 5) : (∀ e < pIdxDim p - 1, pCtr p t (e + 1) = 0) ↔
    ∀ e ∈ [(1, pCtr p t 1), (2, pCtr p t 2), (3, pCtr p t 3), (4, pCtr p t 4), (5, pCtr p t 5)], e.1 < pIdxDim p → e.2 = 0 := by
  simp only [List.mem_cons, List.not_mem_nil, or_false, forall_eq_or_imp, forall_eq]
  constructor
  · intro h
    exact ⟨fun _ => h 0 (by omega), fun _ => h 1 (by omega), fun _ => h 2 (by omega), fun _ => h 3 (by omega), fun _ => by omega⟩
  · rintro ⟨h1, h2, h3, h4, -⟩ e he
    obtain rfl | rfl | rfl | rfl : e = 0 ∨ e = 1 ∨ e = 2 ∨ e = 3 := by omega
    · exact h1 (by omega)
    · exact h2 (by omega)
    · exact h3 (by omega)
    · exact h4 (by omega)

/-- What counter k of dimension d adds to a run start: nothing in the indexed dimension (R157). -/
def runPart (p d k : Nat) : Int := if pIndexed p = true ∧ d = pIdxDim p then 0 else (k : Int) * pStride p d

theorem runBase_eq (p t : Nat) : runBase p t = (pBase p : Int) + runPart p 1 (pCtr p t 1) + runPart p 2 (pCtr p t 2) +
    runPart p 3 (pCtr p t 3) + runPart p 4 (pCtr p t 4) + runPart p 5 (pCtr p t 5) := by
  have hstep : (fun (a : Int) d => if pIndexed p && d == pIdxDim p then a else a + (pCtr p t d : Int) * pStride p d) =
      fun a d => a + runPart p d (pCtr p t d) := by
    funext a d
    by_cases h : pIndexed p = true ∧ d = pIdxDim p <;> simp [runPart, h]
  rw [runBase, hstep]
  rfl

/-! ## What a mover's read leaves of its unit's walks -/

/-- In what its walks look at, a unit is as it was: its sequencer and its movers. -/
structure WalksSame (u : Nat) (s t : State) : Prop where
  seq : (getCore t u).seq = (getCore s u).seq
  movers : (getCore t u).movers = (getCore s u).movers

theorem WalksSame.trans {u : Nat} {s t v : State} (h : WalksSame u s t) (h' : WalksSame u t v) : WalksSame u s v :=
  ⟨h'.seq.trans h.seq, h'.movers.trans h.movers⟩

theorem WalksSame.of_cores {u : Nat} {s t : State} (h : t.cores = s.cores) : WalksSame u s t := by
  constructor <;> rw [getCore, h] <;> rfl

theorem WalksSame.updCore (u : Nat) (s : State) (v : Nat) {f : Core → Core} (hseq : ∀ c, (f c).seq = c.seq)
    (hmovers : ∀ c, (f c).movers = c.movers) : WalksSame u s (updCore s v f) := by
  by_cases h : u = v
  · subst h
    constructor
    · rw [getCore_updCore_self, hseq]
    · rw [getCore_updCore_self, hmovers]
  · constructor <;> rw [getCore_updCore_ne s f h]

theorem WalksSame.foldl {α : Type} {u : Nat} {g : State → α → State} (h : ∀ s a, WalksSame u s (g s a)) (l : List α) (s : State) :
    WalksSame u s (l.foldl g s) := by
  induction l generalizing s with
  | nil => exact ⟨rfl, rfl⟩
  | cons a l ih => exact (h s a).trans (ih _)

theorem fixStore_walksSame (u : Nat) (s : State) (v k : Nat) : WalksSame u s (fixStore s v k) := by
  unfold fixStore
  split
  · exact ⟨rfl, rfl⟩
  · exact .updCore u s v (fun _ => rfl) (fun _ => rfl)

theorem csConflict_walksSame (u : Nat) (s : State) (v m : Nat) : WalksSame u s (csConflict s v m) := by
  have hdrawn : WalksSame u s (drawFree s).2 := .of_cores (drawFree_cores s)
  exact hdrawn.trans (.updCore u (drawFree s).2 v
    (f := fun c => { c with conf := tabUpd 0 c.conf m fun n => satAdd 32 n (drawFree s).1 }) (fun _ => rfl) fun _ => rfl)

theorem conflictAt_walksSame (u : Nat) (s : State) (v m a : Nat) : WalksSame u s (conflictAt s v m a) := by
  unfold conflictAt
  split
  · exact ⟨rfl, rfl⟩
  · split
    · exact csConflict_walksSame ..
    · exact .of_cores rfl
    · exact ⟨rfl, rfl⟩

theorem noteBsRead_walksSame (u : Nat) (s : State) (b off n : Nat) (slot : Option Nat) : WalksSame u s (noteBsRead s b off n slot) := by
  unfold noteBsRead
  dsimp only
  split
  · refine .trans (.of_cores (fbump_cores ..)) (.foldl (fun _ _ => ?_) _ _)
    exact .of_cores rfl
  · exact .of_cores (fbump_cores ..)

theorem noteHbmRead_walksSame (u : Nat) (s : State) (r : Nat) (slot : Option Nat) (fuel page off n : Nat) :
    WalksSame u s (noteHbmRead s r slot fuel page off n) := by
  induction fuel generalizing s page off n with
  | zero => exact ⟨rfl, rfl⟩
  | succ fuel ih =>
    unfold noteHbmRead
    split
    · exact ⟨rfl, rfl⟩
    · refine .trans ?_ (ih ..)
      split
      · split <;> exact .of_cores rfl
      · exact ⟨rfl, rfl⟩

theorem noteAt_walksSame (u : Nat) (s : State) (v a n : Nat) : WalksSame u s (noteAt s v a n) := by
  unfold noteAt
  split
  · exact noteBsRead_walksSame ..
  · exact noteHbmRead_walksSame ..
  · exact ⟨rfl, rfl⟩

/-- A check of a read that loses no data: it counts corrections for a unit, or halts. -/
def EccCounts (s : State) (u : Nat) (e : EccRes) : Prop := (∃ k, e = .ok (fixStore s u k)) ∨ ∃ t r d, e = .halt t r d

theorem readCsEcc_counts (s : State) (u off n : Nat) : EccCounts s u (readCsEcc s u off n) := by
  unfold readCsEcc
  dsimp only
  split
  · exact .inr ⟨_, _, _, rfl⟩
  · exact .inl ⟨_, rfl⟩

theorem readBsEcc_counts (s : State) (u b off n slot : Nat) (epoch : List (Nat × Nat)) :
    EccCounts s u (readBsEcc s (some u) b off n slot epoch) := by
  unfold readBsEcc
  dsimp only
  split
  · exact .inr ⟨_, _, _, rfl⟩
  · exact .inl ⟨_, rfl⟩

/-- A read of indices ends in a bus error nowhere: they lie in the unit's own core store or its block's store (R155). -/
theorem eccAt_counts {s : State} {u a : Nat} (h : idxReach s u a = true) (n : Nat) : EccCounts s u (eccAt s u a n) := by
  unfold idxReach at h
  unfold eccAt
  split at h
  · rename_i v off hplace
    rw [hplace]
    obtain rfl : v = u := beq_iff_eq.mp h
    exact readCsEcc_counts ..
  · rename_i b off hplace
    rw [hplace]
    exact readBsEcc_counts ..
  · cases h

theorem WalksSame.getMv {u : Nat} {s t : State} (h : WalksSame u s t) (m : Nat) : getMv (getCore t u) m = getMv (getCore s u) m := by
  rw [Machine.getMv, h.movers]
  rfl

theorem getMv_updMv_self (s : State) (u m : Nat) (f : Mover → Mover) : getMv (getCore (updMv s u m f) u) m = f (getMv (getCore s u) m) := by
  rw [updMv, getCore_updCore_self, getMv_setMv_self]

theorem updMv_seq (s : State) (u m : Nat) (f : Mover → Mover) : (getCore (updMv s u m f) u).seq = (getCore s u).seq := by
  rw [updMv, getCore_updCore_self]
  rfl

/-- Reading an index line of the unit's own stores writes nothing of its walks but the mover's line (R160). -/
theorem readIndex_leaves {s t : State} {u m ia : Nat} {fresh : Bool} (hreach : fresh = true → idxReach s u ia = true)
    (h : readIndex s u m ia fresh = .ok t) : (getCore t u).seq = (getCore s u).seq ∧
      ∃ line, getMv (getCore t u) m = { getMv (getCore s u) m with line := line } := by
  unfold readIndex at h
  split at h
  · rename_i hline
    obtain ⟨hfresh, -⟩ := (Bool.and_eq_true ..).mp hline
    obtain ⟨k, hecc⟩ | ⟨v, r, d, hecc⟩ := eccAt_counts (hreach hfresh) 64
    · have hread : WalksSame u s (conflictAt (noteAt (fixStore s u k) u ia 64) u m ia) :=
        ((fixStore_walksSame ..).trans (noteAt_walksSame ..)).trans (conflictAt_walksSame ..)
      rw [hecc] at h
      obtain rfl := GenRes.ok.inj h
      exact ⟨(updMv_seq ..).trans hread.seq, _, (getMv_updMv_self ..).trans (by rw [hread.getMv])⟩
    · rw [hecc] at h
      cases h
  · obtain rfl := GenRes.ok.inj h
    exact ⟨rfl, _, rfl⟩

/-! ## The step of STREAM_RUN -/

theorem exec_streamRun (s : State) (u m : Nat) : exec (.streamRun u m) s = .next (streamRun s u m) := rfl

theorem mvRuns_iff {s : State} {u m : Nat} : mvRuns s u m = true ↔ (getCore s u).seq.st = .running ∧ (getMv (getCore s u) m).st = .running ∧
    (getMv (getCore s u) m).req = none ∧ (getMv (getCore s u) m).due = false ∧ (getMv (getCore s u) m).run < pRuns (getMv (getCore s u) m).pat := by
  simp [mvRuns, and_assoc]

theorem due_of_mvRuns {s : State} {u m : Nat} (h : mvRuns s u m = true) : (getMv (getCore s u) m).due = false := by
  obtain ⟨-, -, -, hdue, -⟩ := mvRuns_iff.mp h
  exact hdue

theorem runAtHand_new {s : State} {u m : Nat} (h : (getMv (getCore s u) m).gen = false) : runAtHand s u m = genRun s u m :=
  if_neg (by simp [h])

theorem runAtHand_generated {s : State} {u m : Nat} (h : (getMv (getCore s u) m).gen = true) : runAtHand s u m = .ok s := if_pos h

section
variable {s t : State} {u m : Nat} (h : mvRuns s u m = true)
include h

theorem streamRun_halt {r d : Nat} (hgen : runAtHand s u m = .halt t r d) :
    streamRun s u m = haltUnit t u r (6 + m) (getMv (getCore t u) m).pc d := by
  simp [streamRun, due_of_mvRuns h, h, hgen]

/-- Once its run is generated, the step is that of the mover with its run generated. -/
theorem streamRun_generated (hgen : runAtHand s u m = .ok t) (ht : mvRuns t u m = true) (hdone : (getMv (getCore t u) m).gen = true) :
    streamRun s u m = streamRun t u m := by
  simp [streamRun, due_of_mvRuns h, due_of_mvRuns ht, h, ht, hgen, runAtHand_generated hdone]

end

/-! ## The index of a run (R160 to R163) -/

theorem genRun_unreached {s : State} {u m : Nat} {x : Mover} (hx : getMv (getCore s u) m = x) (hnew : newIndex x.pat x.run = true)
    (hreach : idxReach s u (pIdxBase x.pat + 4 * x.idxPos) = false) : genRun s u m = .halt s 0x0F (pIdxBase x.pat + 4 * x.idxPos) := by
  subst hx
  exact if_pos (by rw [hnew, hreach]; rfl)

/-- The mover at a run with its index v, a new one or one taken before (R161, R162). -/
def withIndexOf (x : Mover) (fresh : Bool) (v : Int) : Mover :=
  { x with idx := v, idxPos := if fresh then x.idxPos + 1 else x.idxPos, idxOk := decide (0 ≤ v ∧ v < (pLimit x.pat : Int)), gen := true }

/-- How the generation of a run ends once its index v is with the mover, and, where the index is new, its word (R160 to R163). -/
def serveIndex (t : State) (u m : Nat) (fresh : Bool) (word : Nat) (v : Int) : GenRes :=
  let x := getMv (getCore t u) m
  if 0 ≤ v ∧ v < (pLimit x.pat : Int) then
    placeRun t u m x (withIndexOf x fresh v) (runBase x.pat x.run + v * pStride x.pat (pIdxDim x.pat))
  else if fresh && pStrict x.pat then .halt t 0x11 (m + x.idxPos % 2 ^ 29 * 2 ^ 3 + word * 2 ^ 32)
  else .ok (updMv (noteMiss t u m fresh) u m fun _ => { withIndexOf x fresh v with mergeEnd := 0 })

/-- Index v serves the run at hand of an indexed walk: new, from the word just read (t is the part after the read), or taken before. -/
structure IndexServes (s t : State) (u m word : Nat) (v : Int) (x : Mover) (fresh : Bool) : Prop where
  here : getMv (getCore s u) m = x
  new : newIndex x.pat x.run = fresh
  indexed : pIndexed x.pat = true
  reach : fresh = true → idxReach s u (pIdxBase x.pat + 4 * x.idxPos) = true
  read : readIndex s u m (pIdxBase x.pat + 4 * x.idxPos) fresh = .ok t
  taken : fresh = true → word = leNat (((getMv (getCore t u) m).line.drop ((pIdxBase x.pat + 4 * x.idxPos) % 64)).take 4)
  value : v = if fresh then toSigned 32 word else x.idx

section
variable {s t : State} {u m word : Nat} {v : Int} {x : Mover} {fresh : Bool} (h : IndexServes s t u m word v x fresh)
include h

theorem IndexServes.mover : ∃ line, getMv (getCore t u) m = { x with line := line } := h.here ▸ (readIndex_leaves h.reach h.read).2

theorem IndexServes.genRun_eq : genRun s u m = serveIndex t u m fresh word v := by
  obtain ⟨line, hy⟩ := h.mover
  obtain ⟨hx, hnew, hidx, hreach, hread, hword, hv⟩ := h
  have hreached : ¬ ((fresh && !idxReach s u (pIdxBase x.pat + 4 * x.idxPos)) = true) := by
    intro hbad
    obtain ⟨hfresh, hout⟩ := (Bool.and_eq_true ..).mp hbad
    simp [hreach hfresh] at hout
  unfold genRun serveIndex
  dsimp only
  rw [hx, hnew, if_neg hreached, hread]
  dsimp only
  rw [hy] at hword ⊢
  dsimp only at hword ⊢
  have hindex : (if fresh = true then toSigned 32 (if fresh = true then
      leNat ((line.drop ((pIdxBase x.pat + 4 * x.idxPos) % 64)).take 4) else 0) else x.idx) = v := by
    rw [hv]
    split
    · rename_i hfresh
      rw [hword hfresh]
    · rfl
  rw [hindex, hidx]
  by_cases hok : 0 ≤ v ∧ v < (pLimit x.pat : Int)
  · simp [hok, withIndexOf, noteMiss]
  · cases hstrict : pStrict x.pat <;> cases fresh
    · simp [hok, withIndexOf]
    · simp [hok, withIndexOf]
    · simp [hok, withIndexOf]
    · simp [hok, noteMiss, hword]

theorem IndexServes.running (hrun : mvRuns s u m = true) {q : State} (hcores : q.cores = t.cores) (a e : Nat) (j : Bool) :
    mvRuns (updMv q u m fun _ =>
      { withIndexOf (getMv (getCore t u) m) fresh v with addr := a, mergeEnd := e, joined := j }) u m = true := by
  obtain ⟨line, hy⟩ := h.mover
  have hseq : (getCore q u).seq = (getCore s u).seq := by
    rw [getCore, hcores]
    exact (readIndex_leaves h.reach h.read).1
  rw [mvRuns_iff, h.here] at hrun
  rw [mvRuns_iff, getMv_updMv_self, updMv_seq, hseq, hy]
  exact hrun

theorem IndexServes.streamRun_halt (hrun : mvRuns s u m = true) (hgen : x.gen = false) {r d : Nat}
    (hserve : serveIndex t u m fresh word v = .halt t r d) : streamRun s u m = haltUnit t u r (6 + m) x.pc d := by
  obtain ⟨line, hy⟩ := h.mover
  rw [Machine.streamRun_halt hrun ((runAtHand_new (h.here ▸ hgen)).trans (h.genRun_eq.trans hserve)), hy]

/-- A run that its index serves without a halt is generated, and the step goes on with it. -/
theorem IndexServes.streamRun_generated (hrun : mvRuns s u m = true) (hgen : x.gen = false) {q : State} (hcores : q.cores = t.cores)
    {a e : Nat} {j : Bool}
    (hserve : serveIndex t u m fresh word v = .ok (updMv q u m fun _ =>
      { withIndexOf (getMv (getCore t u) m) fresh v with addr := a, mergeEnd := e, joined := j })) :
    streamRun s u m = streamRun (updMv q u m fun _ =>
      { withIndexOf (getMv (getCore t u) m) fresh v with addr := a, mergeEnd := e, joined := j }) u m := by
  refine Machine.streamRun_generated hrun ((runAtHand_new (h.here ▸ hgen)).trans (h.genRun_eq.trans hserve)) (h.running hrun hcores ..) ?_
  rw [getMv_updMv_self]
  rfl

end

/-! ## The place of a run (R157, R158, R323) -/

section
variable {s : State} {u m : Nat} {x y : Mover} {a : Int}

theorem placeRun_misplaced (h : a < 0 ∨ 2 ^ 52 ≤ a ∨ a % 64 ≠ 0) : placeRun s u m x y a = .halt s 0x10 (ofSigned 64 a) := if_pos h

theorem placeRun_unreached (h : ¬ (a < 0 ∨ 2 ^ 52 ≤ a ∨ a % 64 ≠ 0)) {bad : Nat} (hbad : runBad s u x a.toNat = some bad) :
    placeRun s u m x y a = .halt s 0x0F bad := by
  rw [placeRun, if_neg h]
  simp only [hbad]

theorem placeRun_generated (h : ¬ (a < 0 ∨ 2 ^ 52 ≤ a ∨ a % 64 ≠ 0)) (hreach : runBad s u x a.toNat = none) {merged : Bool}
    (hmerged : merged = (!x.noMerge && x.mergeEnd == a.toNat && decide (a.toNat ≠ 0 ∧ a.toNat % 4096 ≠ 0))) :
    placeRun s u m x y a = .ok (updMv (if merged = true ∧ isSE u = false then fbump s fCORE_STM_MERGED_COUNT u 0 1 else s) u m fun _ =>
      { y with addr := a.toNat, mergeEnd := a.toNat + pLen x.pat, joined := merged }) := by
  rw [placeRun, if_neg h]
  simp [hreach, hmerged]

end

theorem noteMiss_eq (s : State) (u m : Nat) (miss : Bool) :
    noteMiss s u m miss = if miss = true ∧ isSE u = false then countOob s u m else s := by
  simp [noteMiss]

theorem countOob_cores (s : State) (u m : Nat) : (countOob s u m).cores = s.cores := by
  unfold countOob
  dsimp only
  split <;> rfl

theorem noteMiss_cores (s : State) (u m : Nat) (miss : Bool) : (noteMiss s u m miss).cores = s.cores := by
  unfold noteMiss
  split
  · exact countOob_cores ..
  · rfl

section
variable {t : State} {u m word p : Nat} {v : Int} {fresh : Bool} (hpat : (getMv (getCore t u) m).pat = p)
include hpat

theorem serveIndex_inRange (h : 0 ≤ v ∧ v < (pLimit p : Int)) : serveIndex t u m fresh word v =
    placeRun t u m (getMv (getCore t u) m) (withIndexOf (getMv (getCore t u) m) fresh v)
      (runBase p (getMv (getCore t u) m).run + v * pStride p (pIdxDim p)) := by
  subst hpat
  exact if_pos h

theorem serveIndex_strict (h : ¬ (0 ≤ v ∧ v < (pLimit p : Int))) (hfresh : fresh = true) (hstrict : pStrict p = true) :
    serveIndex t u m fresh word v = .halt t 0x11 (m + (getMv (getCore t u) m).idxPos % 2 ^ 29 * 2 ^ 3 + word * 2 ^ 32) := by
  subst hpat
  exact (if_neg h).trans (if_pos (by rw [hfresh, hstrict]; rfl))

theorem serveIndex_miss (h : ¬ (0 ≤ v ∧ v < (pLimit p : Int))) (hgoes : fresh = false ∨ pStrict p = false) : serveIndex t u m fresh word v =
    .ok (updMv (noteMiss t u m fresh) u m fun _ => { withIndexOf (getMv (getCore t u) m) fresh v with mergeEnd := 0 }) := by
  subst hpat
  exact (if_neg h).trans (if_neg (by rcases hgoes with hgoes | hgoes <;> simp [hgoes]))

end

/-- The index of the statement, new or taken before, serves the run at hand. -/
theorem indexServes_of {s t : State} {u m word : Nat} {v : Int} {x : Mover} (hx : getMv (getCore s u) m = x) (hidx : pIndexed x.pat = true)
    (h : newIndex x.pat x.run = true ∧ idxReach s u (pIdxBase x.pat + 4 * x.idxPos) = true ∧
        readIndex s u m (pIdxBase x.pat + 4 * x.idxPos) true = .ok t ∧
        word = leNat (((getMv (getCore t u) m).line.drop ((pIdxBase x.pat + 4 * x.idxPos) % 64)).take 4) ∧ v = toSigned 32 word ∨
      newIndex x.pat x.run = false ∧ t = s ∧ v = x.idx) : IndexServes s t u m word v x (newIndex x.pat x.run) := by
  rcases h with ⟨hnew, hreach, hread, hword, hv⟩ | ⟨hnew, rfl, hv⟩ <;> rw [hnew]
  · exact ⟨hx, hnew, hidx, fun _ => hreach, hread, fun _ => hword, hv⟩
  · exact ⟨hx, hnew, hidx, nofun, rfl, nofun, hv⟩

/-- Settles O31: the counters of a run are its number's digits (`pCtr_split`), the first run beneath an index has zeros below it
(`mod_pProd_eq_zero`), and a run that its index serves is generated, or halts, as `serveIndex` has it. -/
theorem walkAddresses : Obligations.WalkAddresses := by
  refine ⟨fun p k1 k2 k3 k4 k5 h1 h2 h3 h4 h5 => ?_, fun s u m hrun hgen hidx => ?_⟩
  · intro t part
    obtain ⟨hk1, hq1⟩ := pCtr_split (d := 0) (show t / pProd p 0 = _ from Nat.div_one t) h1
    obtain ⟨hk2, hq2⟩ := pCtr_split hq1 h2
    obtain ⟨hk3, hq3⟩ := pCtr_split hq2 h3
    obtain ⟨hk4, hq4⟩ := pCtr_split hq3 h4
    obtain ⟨hk5, -⟩ := pCtr_split (q := 0) hq4 h5
    refine ⟨?_, fun hidx hlo hhi => ?_⟩
    · rw [runBase_eq, hk1, hk2, hk3, hk4, hk5]
      rfl
    · rw [newIndex_iff hidx, ← hk1, ← hk2, ← hk3, ← hk4, ← hk5]
      exact lowCounters_iff hlo hhi
  · intro x p ia fresh
    refine ⟨fun hfresh hreach => ?_, fun t v word htaken => ?_⟩
    · rw [exec_streamRun, streamRun_halt hrun ((runAtHand_new hgen).trans (genRun_unreached rfl hfresh hreach))]
    · intro ok y
      have hserves := indexServes_of (x := x) rfl hidx htaken
      obtain ⟨line, hline⟩ := hserves.mover
      have hy : y = withIndexOf (getMv (getCore t u) m) fresh v := by
        simp only [y, hline]
        rfl
      have hpat : (getMv (getCore t u) m).pat = p := by rw [hline]
      refine ⟨fun hfresh hbad hstrict => ?_, fun hbad hgoes => ?_, fun hok => ?_⟩
      · rw [exec_streamRun, hserves.streamRun_halt hrun hgen (serveIndex_strict hpat hbad hfresh hstrict), hline]
      · rw [hy, ← noteMiss_eq]
        exact congrArg Host.Outcome.next (hserves.streamRun_generated hrun hgen (noteMiss_cores ..) (serveIndex_miss hpat hbad hgoes))
      · intro a
        have hserve := serveIndex_inRange (word := word) (fresh := fresh) hpat hok
        rw [show (getMv (getCore t u) m).run = x.run by rw [hline]] at hserve
        refine ⟨fun hout => ?_, fun hlo hhi hmul => ?_⟩
        · rw [exec_streamRun, hserves.streamRun_halt hrun hgen (hserve.trans (placeRun_misplaced hout))]
        · have hplaced : ¬ (a < 0 ∨ 2 ^ 52 ≤ a ∨ a % 64 ≠ 0) := by omega
          refine ⟨fun bad hbad => ?_, fun hreach => ?_⟩
          · rw [exec_streamRun, hserves.streamRun_halt hrun hgen (hserve.trans (placeRun_unreached hplaced hbad))]
          · rw [hy, ← hpat]
            refine congrArg Host.Outcome.next (hserves.streamRun_generated hrun hgen ?_ (hserve.trans (placeRun_generated hplaced hreach rfl)))
            split <;> rfl

/-! ## The beats of a run (R159, R161, R162, R303, R321, R323) -/

section
variable {s : State} {u m : Nat} {x : Mover} (hx : getMv (getCore s u) m = x)
include hx

theorem issueReq_read {a : Nat} (ha : walkAddr s x.table (x.addr + x.off) = some a) : issueReq s u m false [] =
    setCore s u (setMv (getCore s u) m { x with req := some (nextReq x a false []) }) := by
  subst hx
  simp only [issueReq, ha, List.take_nil]
  rfl

theorem issueReq_write {a : Nat} (ha : walkAddr s x.table (x.addr + x.off) = some a) (bs : Bytes) : issueReq s u m true bs =
    setCore s u (setMv (getCore s u) m
      { x with req := some (nextReq x a true (bs.take (reqLen x))), part := bs.drop (reqLen x) }) := by
  subst hx
  rw [issueReq, ha]
  rfl

/-- An offset that no entry of the owner table resolves (R303, R337). -/
theorem issueReq_lost (ha : walkAddr s x.table (x.addr + x.off) = none) (write : Bool) (bs : Bytes) :
    issueReq s u m write bs = haltUnit s u 0x16 (6 + m) x.pc (busDetail (x.addr + x.off) write m) := by
  subst hx
  rw [issueReq, ha]

/-- A run of a walk without an index that starts at no multiple of 64 (R158). -/
theorem genRun_misaligned (hidx : pIndexed x.pat = false) (hmul : runBase x.pat x.run % 64 ≠ 0) :
    genRun s u m = .halt s 0x10 (ofSigned 64 (runBase x.pat x.run)) := by
  have hnew : newIndex x.pat x.run = false := by rw [newIndex, hidx, Bool.false_and]
  subst hx
  simp [genRun, hnew, hidx, readIndex, noteMiss, placeRun_misplaced (.inr (.inr hmul))]

end

/-- Whether the run at hand is valid: its index is in range, or it has none (R162). -/
def runValid (x : Mover) : Bool := x.idxOk || !pIndexed x.pat

theorem runValid_iff {x : Mover} : runValid x = true ↔ x.idxOk = true ∨ pIndexed x.pat = false := by simp [runValid]

section
variable {s : State} {u m : Nat} {x : Mover} (h : mvRuns s u m = true) (hx : getMv (getCore s u) m = x) (hgen : x.gen = true)
include h hx hgen

theorem streamRun_reads (hk : x.kind = 0) (hv : runValid x = true) : streamRun s u m = issueReq s u m false [] := by
  rw [runValid] at hv
  subst hx
  simp only [streamRun, due_of_mvRuns h, h, runAtHand_generated hgen, hk, hv, Bool.false_eq_true, Bool.not_true, reduceIte]

theorem streamRun_zeros (hk : x.kind = 0) (hv : runValid x = false) {c : Core}
    (hc : pushQ (getCore s u) x.queue (.beat (List.replicate (beatLen x) 0)) = some c) :
    streamRun s u m = setCore s u (advance (setMv c m { x with delivered := x.delivered + 1 }) m (beatLen x)) := by
  rw [runValid] at hv
  subst hx
  simp only [streamRun, due_of_mvRuns h, h, runAtHand_generated hgen, hk, hv, hc, Bool.false_eq_true, Bool.not_true, reduceIte]

theorem streamRun_rest (hk : x.kind ≠ 0) (hpart : x.part ≠ []) : streamRun s u m = issueReq s u m true x.part := by
  have hrest : (!x.part.isEmpty) = true := by simpa using hpart
  subst hx
  simp only [streamRun, due_of_mvRuns h, h, runAtHand_generated hgen, hk, hrest, Bool.false_eq_true, Bool.not_true, reduceIte]

end

theorem popBeat_beat {c : Core} {q : Nat} {bs : Bytes} {items : List QItem} (h : (getQ c q).items = .beat bs :: items) :
    popBeat c q = .beat bs (setQ c q { getQ c q with items := items }) := by
  simp only [popBeat, h]

/-- A write-back mover whose next beat is the first entry of its queue; c is its unit without that entry. -/
structure BeatTaken (s : State) (u m : Nat) (x : Mover) (bs : Bytes) (c : Core) : Prop where
  runs : mvRuns s u m = true
  here : getMv (getCore s u) m = x
  generated : x.gen = true
  writes : x.kind ≠ 0
  whole : x.part = []
  taken : popBeat (getCore s u) x.queue = .beat bs c

section
variable {s : State} {u m : Nat} {x : Mover} {bs : Bytes} {c : Core} (h : BeatTaken s u m x bs c)
include h

theorem BeatTaken.streamRun_eq : streamRun s u m =
    if bs.length ≠ beatLen x then haltUnit s u 0x1B (6 + m) x.pc (m + beatLen x * 2 ^ 16 + bs.length * 2 ^ 32)
    else if runValid x = true then issueReq (setCore s u c) u m true bs
    else setCore s u (advance c m (beatLen x)) := by
  obtain ⟨hrun, rfl, hgen, hk, hpart, htaken⟩ := h
  have hrest : (!(getMv (getCore s u) m).part.isEmpty) = false := by simp [hpart]
  unfold popBeat at htaken
  dsimp only at htaken
  split at htaken
  · rename_i bs' items hitems
    obtain ⟨rfl, rfl⟩ := Pop.beat.inj htaken
    simp only [streamRun, due_of_mvRuns hrun, hrun, runAtHand_generated hgen, hk, hrest, hitems, Bool.false_eq_true, Bool.not_true, reduceIte]
    rfl
  · cases htaken
  · cases htaken

theorem BeatTaken.sends (hlen : bs.length = beatLen x) (hv : runValid x = true) : streamRun s u m = issueReq (setCore s u c) u m true bs := by
  rw [h.streamRun_eq, if_neg (not_not_intro hlen), if_pos hv]

theorem BeatTaken.drops (hlen : bs.length = beatLen x) (hv : ¬ runValid x = true) : streamRun s u m = setCore s u (advance c m (beatLen x)) := by
  rw [h.streamRun_eq, if_neg (not_not_intro hlen), if_neg hv]

theorem BeatTaken.halts (hlen : bs.length ≠ beatLen x) :
    streamRun s u m = haltUnit s u 0x1B (6 + m) x.pc (m + beatLen x * 2 ^ 16 + bs.length * 2 ^ 32) := by
  rw [h.streamRun_eq, if_pos hlen]

theorem BeatTaken.mover : getMv (getCore (setCore s u c) u) m = x := by
  rw [getCore_setCore_self, popBeat_frame h.taken]
  exact h.here

end

/-- Settles O29: what the mover does with its run is one equation for each kind of beat, and a request is `issueReq`. -/
theorem moverRuns : Obligations.MoverRuns := by
  intro s u m hrun c x n v k more valid lost
  refine ⟨fun a hgen hk hv ha => ?_, fun hgen hk hv ha => ?_, fun hgen hk hv c' hc => ?_, fun a hgen hk hpart ha => ?_,
    fun hgen hk hpart ha => ?_, fun bs items hgen hk hpart hq => ?_, fun hgen hidx hmul => ?_⟩
  · rw [exec_streamRun, streamRun_reads hrun rfl hgen hk (runValid_iff.mpr hv), issueReq_read rfl ha]
    rfl
  · rw [exec_streamRun, streamRun_reads hrun rfl hgen hk (runValid_iff.mpr hv), issueReq_lost rfl ha]
    rfl
  · rw [exec_streamRun, streamRun_zeros hrun rfl hgen hk (Bool.eq_false_iff.mpr fun h => hv (runValid_iff.mp h)) hc]
    rfl
  · rw [exec_streamRun, streamRun_rest hrun rfl hgen hk hpart, issueReq_write rfl ha]
    rfl
  · rw [exec_streamRun, streamRun_rest hrun rfl hgen hk hpart, issueReq_lost rfl ha]
    rfl
  · intro c'
    have hbeat : BeatTaken s u m x bs c' := ⟨hrun, rfl, hgen, hk, hpart, popBeat_beat hq⟩
    refine ⟨fun a hlen hv ha => ?_, fun hlen hv ha => ?_, fun hlen hv => ?_, fun hlen => ?_⟩
    · rw [exec_streamRun, hbeat.sends hlen (runValid_iff.mpr hv), issueReq_write hbeat.mover ha,
        getCore_setCore_self, setCore_setCore]
      rfl
    · rw [exec_streamRun, hbeat.sends hlen (runValid_iff.mpr hv), issueReq_lost hbeat.mover ha]
      rfl
    · rw [exec_streamRun, hbeat.drops hlen fun h => hv (runValid_iff.mp h)]
      rfl
    · rw [exec_streamRun, hbeat.halts hlen]
      rfl
  · rw [exec_streamRun, streamRun_halt hrun ((runAtHand_new hgen).trans (genRun_misaligned rfl hidx hmul))]

end Sys2Proof.Machine
end

section
/-! The sums of the matrix array (R177 to R183, R192, R193): the rows of a bank, what a MAC or MAC_T adds to them, and what it answers. -/

namespace Sys2Proof.Machine

open Sys2Proof.Safety

/-! ## Accumulator rows (R179, R180, R182) -/

@[simp] theorem length_padTo {α : Type} (n : Nat) (d : α) (l : List α) : (padTo n d l).length = n := by
  simp [padTo]; omega

theorem padTo_of_length {α : Type} {n : Nat} (d : α) {l : List α} (h : l.length = n) : padTo n d l = l := by
  simp [padTo, ← h]

@[simp] theorem length_accRow (c : Core) (bank r : Nat) : (accRow c bank r).length = 64 := length_padTo ..

@[simp] theorem length_macRow (t : Nat) (tile : WSlot) (record : Bytes) : (macRow t tile record).length = 64 := by
  simp [macRow, rangeFrom_eq_range']

theorem accRow_of_acc {c d : Core} (h : d.acc = c.acc) (bank r : Nat) : accRow d bank r = accRow c bank r := by
  rw [accRow, h, accRow]

/-- A row and 64 results, added with one rounding per element (R182). -/
def roundedSums (row : List Nat) (v : List FV) : List Nat :=
  List.zipWith (fun a x => fpEncode fmtFP32 (fvAdd (fpDecode fmtFP32 a) x)) row v

/-- An addition reaches the row it names, modulo 256, and no other row of any bank. -/
theorem accRow_addRow (c : Core) (bank r bank' r' : Nat) {v : List FV} (hv : v.length = 64) : accRow (addRow c bank r v) bank' r' =
    if bank' = bank ∧ r' % 256 = r % 256 then roundedSums (accRow c bank' r') v else accRow c bank' r' := by
  have hkey : bank' * 256 + r' % 256 = bank * 256 + r % 256 ↔ bank' = bank ∧ r' % 256 = r % 256 := by omega
  have hrow : accRow (addRow c bank r v) bank' r' = padTo 64 0 (if bank' * 256 + r' % 256 = bank * 256 + r % 256 then
      roundedSums (accRow c bank r) v else tabGet [] c.acc (bank' * 256 + r' % 256)) := congrArg _ (tabGet_tabSet ..)
  rw [hrow]
  simp only [hkey]
  split
  · rename_i h
    rw [padTo_of_length _ (by simp [roundedSums, hv]), accRow, accRow, hkey.mpr h]
  · rfl

/-- The place of a row above a base row, modulo 256. -/
def rowsAbove (base row : Nat) : Nat := (row + 256 - base % 256) % 256

theorem rowsAbove_eq_zero {base row : Nat} : rowsAbove base row = 0 ↔ row % 256 = base % 256 := by
  unfold rowsAbove; omega

theorem rowsAbove_succ (base row : Nat) : rowsAbove (base + 1) row = if rowsAbove base row = 0 then 255 else rowsAbove base row - 1 := by
  unfold rowsAbove; split <;> omega

/-! ## The sums of a MAC or MAC_T (R179, R182) -/

/-- The results of one record enter a bank: one row for MAC, four for MAC_T. -/
def addRecord (tr : Bool) (t : Nat) (tile : WSlot) (bank base : Nat) (c : Core) (r : Nat × Bytes) : Core :=
  if tr then ((rangeFrom 0 4).zip (blocksOf 64 4 (macTRow t tile r.2))).foldl (fun c q => addRow c bank (base + 4 * r.1 + q.1) q.2) c
  else addRow c bank (base + r.1) (macRow t tile r.2)

theorem foldl_acc_frame {α : Type} {g : Core → α → Core} (hg : ∀ c a, g c a = { c with acc := (g c a).acc }) (l : List α) (c : Core) :
    l.foldl g c = { c with acc := (l.foldl g c).acc } := by
  induction l generalizing c with
  | nil => rfl
  | cons a l ih => rw [List.foldl_cons, ih, hg]

theorem addRecord_frame (tr : Bool) (t : Nat) (tile : WSlot) (bank base : Nat) (c : Core) (r : Nat × Bytes) :
    addRecord tr t tile bank base c r = { c with acc := (addRecord tr t tile bank base c r).acc } := by
  cases tr
  · rfl
  · exact foldl_acc_frame (fun _ _ => rfl) _ c

/-- The records of a MAC enter one row each from the base upwards, and no other row of any bank changes. -/
theorem accRow_addRecords (t : Nat) (tile : WSlot) (bank base size bank' row : Nat) {n : Nat} (hn : n ≤ 255) (first : Nat) (bs : Bytes) (c : Core) :
    accRow (((rangeFrom first n).zip (blocksOf size n bs)).foldl (addRecord false t tile bank base) c) bank' row =
      if bank' = bank ∧ rowsAbove (base + first) row < n then
        roundedSums (accRow c bank' row) (macRow t tile ((bs.drop (rowsAbove (base + first) row * size)).take size))
      else accRow c bank' row := by
  induction n generalizing first bs c with
  | zero => simp [rangeFrom]
  | succ n ih =>
    have hfirst : accRow (addRecord false t tile bank base c (first, bs.take size)) bank' row =
        if bank' = bank ∧ rowsAbove (base + first) row = 0 then roundedSums (accRow c bank' row) (macRow t tile (bs.take size))
        else accRow c bank' row := by
      simp only [rowsAbove_eq_zero]
      exact accRow_addRow _ _ _ _ _ (length_macRow ..)
    rw [rangeFrom, blocksOf, List.zip_cons_cons, List.foldl_cons, ih (by omega), hfirst, ← Nat.add_assoc, rowsAbove_succ, List.drop_drop]
    by_cases hbank : bank' = bank
    · by_cases hzero : rowsAbove (base + first) row = 0
      · simp [hbank, hzero, show ¬ 255 < n by omega]
      · obtain ⟨i, hi⟩ := Nat.exists_eq_succ_of_ne_zero hzero
        simp [hbank, hi, Nat.succ_mul, Nat.add_comm]
    · simp [hbank]

/-! ## What a MAC or MAC_T answers (R192, R193) -/

theorem mtxRows_le (t : Nat) : mtxRows t ≤ 8 := by
  unfold mtxRows; split <;> omega

/-- No rule of R192 refuses a beat of whole records, as many as it may hold, on a READY slot whose format pairs with theirs. -/
theorem inputBad_slot_none {c : Core} {b : Nat} {tr : Bool} {bs : Bytes} (hready : (getSlot c (mSlot b)).st = .ready)
    (hpair : mtxPair (mFmt b) (getSlot c (mSlot b)).fmt tr = true) (hwhole : bs.length % mtxRecord (mFmt b) tr = 0)
    (hone : 1 ≤ bs.length / mtxRecord (mFmt b) tr) (hmost : bs.length / mtxRecord (mFmt b) tr ≤ mtxRows (mFmt b)) :
    inputBad c b [mSlot b] tr bs = none := by
  simp [inputBad, slotCause, hready, hpair, hwhole, hone, hmost]

/-- An input that no rule refuses holds as many records as a beat may. -/
theorem records_le_of_inputBad {c : Core} {b : Nat} {slots : List Nat} {tr : Bool} {bs : Bytes} (h : inputBad c b slots tr bs = none) :
    bs.length / mtxRecord (mFmt b) tr ≤ 8 := by
  unfold inputBad at h
  dsimp only at h
  split at h
  · cases h
  · split at h
    · rename_i hok
      obtain ⟨-, -, hmost⟩ := hok
      exact hmost.trans (mtxRows_le _)
    · cases h

section
variable {tr : Bool} {c d : Core} {b : Nat} {bs : Bytes} (hpop : popBeat c (mIq b) = .beat bs d)
include hpop

theorem macField_bad {detail : Nat} (h : inputBad d b [mSlot b] tr bs = some detail) : macField tr c b = .halt 0x03 detail := by
  simp only [macField, hpop, h]

variable (hin : inputBad d b [mSlot b] tr bs = none) {n : Nat} (hn : n = bs.length / mtxRecord (mFmt b) tr)
include hin hn

theorem macField_error {e : Nat × Nat}
    (h : arrayCheck d [mSlot b] (mAcc b) (rangeFrom (getBp d (mAcc b)) (if tr then 4 * n else n)) = .error e) :
    macField tr c b = .halt e.1 e.2 := by
  subst hn
  simp only [macField, hpop, hin, h]

theorem macField_ok {e : Core}
    (h : arrayCheck d [mSlot b] (mAcc b) (rangeFrom (getBp d (mAcc b)) (if tr then 4 * n else n)) = .ok e) :
    macField tr c b = .ok (((rangeFrom 0 n).zip (blocksOf (mtxRecord (mFmt b) tr) n bs)).foldl
      (addRecord tr (mFmt b) (getSlot d (mSlot b)) (mAcc b) (getBp d (mAcc b)))
      (mendAcc e (mAcc b) (rangeFrom (getBp d (mAcc b)) (if tr then 4 * n else n)))) := by
  subst hn
  simp only [macField, hpop, hin, h]
  rfl

end

/-- The checks of the array count what they correct, and change nothing else (R193). -/
theorem arrayCheck_frame {c e : Core} {slots : List Nat} {bank : Nat} {rows : List Nat} (h : arrayCheck c slots bank rows = .ok e) :
    e = { c with checks := e.checks } := by
  unfold arrayCheck at h
  split at h
  · cases h
  · split at h
    · cases h
    · obtain rfl := Except.ok.inj h
      rfl

/-- The records of a MAC or MAC_T leave all of their unit but its accumulators. -/
theorem addRecords_frame (tr : Bool) (t : Nat) (tile : WSlot) (bank base : Nat) (l : List (Nat × Bytes)) (c : Core) :
    l.foldl (addRecord tr t tile bank base) c = { c with acc := (l.foldl (addRecord tr t tile bank base) c).acc } :=
  foldl_acc_frame (addRecord_frame tr t tile bank base) l c

/-- Settles O19: a MAC that reads no uncorrectable word gives the core of `macField_ok`, whose rows are those of `accRow_addRecords`. -/
theorem macRowsAdd : Obligations.MacRowsAdd := by
  intro c d e b bs hpop hin t n base _ hcheck
  have hd := popBeat_frame hpop
  have hmend : mendAcc e (mAcc b) (rangeFrom base n) = { c with
      queues := d.queues, checks := e.checks, harm := (mendAcc e (mAcc b) (rangeFrom base n)).harm } := by
    rw [arrayCheck_frame hcheck, hd]
    rfl
  have hbase : getBp d (mAcc b) = base := by rw [hd]; rfl
  have hslot : getSlot d (mSlot b) = getSlot c (mSlot b) := by rw [hd]; rfl
  have hok : macField false c b = .ok (((rangeFrom 0 n).zip (blocksOf (mtxRecord t false) n bs)).foldl
      (addRecord false t (getSlot c (mSlot b)) (mAcc b) base) (mendAcc e (mAcc b) (rangeFrom base n))) := by
    rw [macField_ok hpop hin rfl (hbase.symm ▸ hcheck), hbase, hslot]
    rfl
  refine ⟨_, hok, ?_, ?_, ?_, ?_, fun bank row _ _ => ?_⟩
  · rw [addRecords_frame, hmend]; rfl
  · rw [addRecords_frame, hmend]
  · rw [addRecords_frame, hmend]
  · rw [addRecords_frame, hmend]
  · have hn : n ≤ 255 := (records_le_of_inputBad hin).trans (by omega)
    have hacc : accRow (mendAcc e (mAcc b) (rangeFrom base n)) bank row = accRow c bank row := accRow_of_acc (by rw [hmend]) ..
    rw [accRow_addRecords t _ _ base _ bank row hn, hacc]
    rfl

end Sys2Proof.Machine
end

section
/-! The fields of the matrix array other than BATCH (R174, R179, R182, R192, R193, R197): how a field at the head of the queue ends, and what
each operation answers. -/

namespace Sys2Proof.Machine

open Sys2Proof.Safety

/-! ## The step of the matrix engine (R127, R138, R184, R189) -/

/-- A field at the head of the matrix queue that starts while no batch is open; c is its unit without the baton it takes. -/
structure MtxStarts (s : State) (u mop : Nat) (f : QField) (rest : List QField) (c : Core) : Prop where
  head : fieldAt s u 1 f rest
  closed : (getCore s u).batch = none
  mop : fOp4 f.bits = mop
  taken : takeBaton (getCore s u) f.bits = .ok c

theorem mtxHead_eq {s : State} {u mop : Nat} {f : QField} {rest : List QField} (h : fieldAt s u 1 f rest) (hmop : fOp4 f.bits = mop) :
    mtxHead s u mop = some f := by
  simp [mtxHead, h.1, h.2, hmop]

section
variable {s : State} {u mop : Nat} {f : QField} {rest : List QField} {c1 : Core} (h : MtxStarts s u mop f rest c1)
include h

theorem MtxStarts.mtxStep_eq (op : Core → Nat → EngRes) (cost : State → Nat → Nat) : mtxStep s u mop op cost =
    countedField s u 1 (fun b => fOp4 b == mop) op fun t => countArray t u (cost s f.bits) := by
  simp only [mtxStep, mtxHead_eq h.head h.mop, closeBatch, h.closed]

/-- A field whose operation gives its unit a core retires, and its array cycles count (R197). -/
theorem MtxStarts.mtxStep_ok {op : Core → Nat → EngRes} {cost : State → Nat → Nat} {c2 c3 : Core} (hop : op c1 f.bits = .ok c2)
    (hseq : c2.seq = c1.seq) (hput : putBaton c2 f.bits = .ok c3) :
    mtxStep s u mop op cost = settleNops (countArray (retired s u 1 rest c3) u (cost s f.bits)) u := by
  have hput_seq : c3.seq = c2.seq := by rw [putBaton_frame hput]
  have htake_seq : c1.seq = (getCore s u).seq := by rw [takeBaton_frame h.taken]
  have hrun : c3.seq.st = .running := by rw [hput_seq, hseq, htake_seq, h.head.1]
  rw [h.mtxStep_eq, countedField_ok h.head (by simp [h.mop]) h.taken hop hput hrun]

/-- A field whose operation halts halts its unit. -/
theorem MtxStarts.mtxStep_halt {op : Core → Nat → EngRes} {cost : State → Nat → Nat} {r d : Nat} (hop : op c1 f.bits = .halt r d) :
    mtxStep s u mop op cost = settleNops (haltUnit s u r 1 f.pc d) u := by
  rw [h.mtxStep_eq, countedField, runField_halt h.head (by simp [h.mop]) h.taken hop, if_neg (by simp [haltUnit_halted])]

end

/-! ## What a MAC or MAC_T costs (R186) -/

theorem getQ_setQ (c : Core) (q k : Nat) (x : Queue) : getQ (setQ c q x) k = if k = q then x else getQ c k := tabGet_tabSet ..

theorem popBeat_head {c d : Core} {q : Nat} {bs : Bytes} (h : popBeat c q = .beat bs d) : ∃ items, (getQ c q).items = .beat bs :: items := by
  unfold popBeat at h
  dsimp only at h
  split at h
  · rename_i bs' items hitems
    obtain ⟨rfl, -⟩ := Pop.beat.inj h
    exact ⟨items, hitems⟩
  · cases h
  · cases h

/-- A field that takes its baton takes the head of that baton's queue, and leaves every other queue. -/
theorem takeBaton_items {c d : Core} {b : Nat} (h : takeBaton c b = .ok d) (q : Nat) :
    (getQ c q).items = (getQ d q).items ∨ ∃ tag, (getQ c q).items = .baton tag :: (getQ d q).items := by
  unfold takeBaton at h
  dsimp only at h
  split at h
  · split at h
    · cases h
    · rename_i tag items hitems
      split at h
      · obtain rfl := EngRes.ok.inj h
        rw [getQ_setQ]
        split
        · rename_i hq
          exact .inr ⟨tag, by rw [hq, hitems]⟩
        · exact .inl rfl
      · cases h
    · cases h
  · obtain rfl := EngRes.ok.inj h
    exact .inl rfl

/-- A MAC or MAC_T costs a cycle for each record of the beat it pops once it has its baton. -/
theorem macCost_eq {s : State} {u b : Nat} {c1 c2 : Core} {bs : Bytes} (htake : takeBaton (getCore s u) b = .ok c1)
    (hpop : popBeat c1 (mIq b) = .beat bs c2) (tr : Bool) : macCost s u b tr = bs.length / mtxRecord (mFmt b) tr := by
  obtain ⟨items, hitems⟩ := popBeat_head hpop
  obtain hq | ⟨tag, hq⟩ := takeBaton_items htake (mIq b) <;> simp [macCost, hq, hitems]

/-! ## MAC and MAC_T, LOAD, DRAIN and ZERO (R174, R179, R182) -/

theorem exec_mac (s : State) (u : Nat) : exec (.mac u) s = .next (mtxStep s u 1 (macField false) fun s b => macCost s u b false) := rfl
theorem exec_macT (s : State) (u : Nat) : exec (.macT u) s = .next (mtxStep s u 2 (macField true) fun s b => macCost s u b true) := rfl
theorem exec_mtxLoad (s : State) (u : Nat) : exec (.mtxLoad u) s = .next (mtxStep s u 3 loadField fun _ _ => 0) := rfl
theorem exec_drain (s : State) (u : Nat) : exec (.drain u) s = .next (mtxStep s u 4 drainField fun _ _ => 0) := rfl
theorem exec_zero (s : State) (u : Nat) : exec (.zero u) s = .next (mtxStep s u 5 zeroField fun _ _ => 0) := rfl

/-- MAC and MAC_T are one step, by the normal and by the transposed read. -/
theorem exec_macField (s : State) (u : Nat) {i : Nat × Bool × Instr}
    (hi : i ∈ ([(1, false, .mac u), (2, true, .macT u)] : List (Nat × Bool × Instr))) :
    exec i.2.2 s = .next (mtxStep s u i.1 (macField i.2.1) fun s b => macCost s u b i.2.1) := by
  simp only [List.mem_cons, List.not_mem_nil, or_false] at hi
  rcases hi with rfl | rfl
  · exact exec_mac s u
  · exact exec_macT s u

/-- The slot that a LOAD of one section leaves, by the section its cursor names (R173, R174). -/
def filledSlot (old : WSlot) (t : Nat) (bs : Bytes) : WSlot :=
  ⟨if old.cursor + 1 = mtxSections t + b2n (mtxScales t ≠ 0) then .ready else .filling,
    if old.cursor + 1 = mtxSections t + b2n (mtxScales t ≠ 0) then 0 else old.cursor + 1, t,
    if old.cursor = 0 then bs else if old.cursor < mtxSections t then old.elems ++ bs else old.elems,
    if old.cursor < mtxSections t then old.scales else bs⟩

/-- A LOAD that keeps the rules of R174 fills the section at the cursor of its slot. -/
theorem loadField_ok {c d : Core} {b : Nat} {bs : Bytes} {old : WSlot} (hpop : popBeat c (mIq b) = .beat bs d)
    (hold : getSlot d (mSlot b) = old) (hfmt : old.cursor = 0 → 1 ≤ mFmt b ∧ mFmt b ≤ 9) (hsame : old.cursor ≠ 0 → old.fmt = mFmt b)
    (hlen : bs.length = if old.cursor < mtxSections (mFmt b) then 4096 else mtxScales (mFmt b)) :
    loadField c b = .ok { d with
      slots := tabSet wslotReset d.slots (mSlot b) (filledSlot old (mFmt b) bs)
      harm := tabSet 0 d.harm (harmKey 2 (mSlot b) (if old.cursor < mtxSections (mFmt b) then old.cursor else 8)) 0 } := by
  have hcode : ¬ (old.cursor = 0 ∧ (mFmt b = 0 ∨ 0xA ≤ mFmt b)) := fun ⟨h0, hbad⟩ => by
    have := hfmt h0
    omega
  have hother : ¬ (old.cursor ≠ 0 ∧ old.fmt ≠ mFmt b) := fun ⟨h0, hne⟩ => hne (hsame h0)
  simp [loadField, hpop, hold, hcode, hother, hlen, filledSlot]

section
variable {c c' : Core} {b : Nat} (hpush : pushQ c (mOq b) (.beat (unElems 4 (accRow c (mAcc b) (getBp c (mAcc b))))) = some c')
include hpush

theorem drainRow_pushed : drainRow c (mAcc b) (mOq b) = some { c' with
    acc := tabSet [] c'.acc (mAcc b * 256 + getBp c (mAcc b)) []
    bp := tabSet 0 c'.bp (mAcc b) ((getBp c (mAcc b) + 1) % 256) } := by
  simp only [drainRow, hpush]

theorem drainField_error {e : Nat × Nat} (h : arrayCheck c [] (mAcc b) [getBp c (mAcc b)] = .error e) :
    drainField c b = .halt e.1 e.2 := by
  simp only [drainField, drainRow_pushed hpush, h]

theorem drainField_ok {x : Core} (h : arrayCheck c [] (mAcc b) [getBp c (mAcc b)] = .ok x) : drainField c b =
    .ok (mendAcc { c' with
      acc := tabSet [] c'.acc (mAcc b * 256 + getBp c (mAcc b)) []
      bp := tabSet 0 c'.bp (mAcc b) ((getBp c (mAcc b) + 1) % 256)
      checks := x.checks } (mAcc b) [getBp c (mAcc b)]) := by
  simp only [drainField, drainRow_pushed hpush, h]

end

/-- Settles O17: each operation answers the core that its clause names, or its halt, and `MtxStarts` retires or halts its field. -/
theorem matrixFields : Obligations.MatrixFields := by
  intro s u f rest c1 hfield hclosed htake b done
  have hstarts {mop : Nat} (hmop : fOp4 b = mop) : MtxStarts s u mop f rest c1 := ⟨hfield, hclosed, hmop, htake⟩
  refine ⟨fun i hi hmop bs c2 hpop => ?_, fun hmop bs c2 hpop => ?_, fun hmop c2 => ?_, fun hmop c3 hput => ?_⟩
  · intro t n tile base records rows
    rw [exec_macField s u hi]
    refine ⟨fun d hbad => ?_, fun hready hpair hwhole hone hmost => ⟨fun e hcheck => ?_, fun x c3 hcheck hput => ?_⟩⟩
    · rw [(hstarts hmop).mtxStep_halt (macField_bad hpop hbad)]
    · rw [(hstarts hmop).mtxStep_halt (macField_error hpop (inputBad_slot_none hready hpair hwhole hone hmost) rfl hcheck)]
    · have hop := macField_ok hpop (inputBad_slot_none hready hpair hwhole hone hmost) (n := n) rfl hcheck
      have hseq : (mendAcc x (mAcc b) rows).seq = c1.seq := by rw [arrayCheck_frame hcheck, popBeat_frame hpop]; rfl
      rw [(hstarts hmop).mtxStep_ok hop ((congrArg Core.seq (addRecords_frame ..)).trans hseq) hput, macCost_eq htake hpop]
  · intro t old elems last filled hfmt hsame hlen c3 hput
    have hop := loadField_ok hpop (old := old) rfl hfmt hsame (by simpa [elems] using hlen)
    have hseq : c2.seq = c1.seq := by rw [popBeat_frame hpop]
    rw [exec_mtxLoad, (hstarts hmop).mtxStep_ok hop hseq (by simpa [elems, filled, last, filledSlot] using hput)]
  · intro bp hpush
    have hseq : c2.seq = c1.seq := by rw [pushQ_frame hpush]
    rw [exec_drain]
    refine ⟨fun e hcheck => ?_, fun x c3 hcheck hput => ?_⟩
    · rw [(hstarts hmop).mtxStep_halt (drainField_error hpush hcheck)]
    · rw [(hstarts hmop).mtxStep_ok (drainField_ok hpush hcheck) hseq hput]
  · rw [exec_zero, (hstarts hmop).mtxStep_ok (op := zeroField) rfl rfl hput]

end Sys2Proof.Machine
end

section
/-! Batches of the matrix array (R188 to R191): what the run of a row leaves, a BATCH that opens a batch, and the timeout. -/

namespace Sys2Proof.Machine

open Sys2Proof.Safety

/-! ## The rows of a batch (R188 to R190) -/

/-- A core whose field queues are as before, and whose batch waits for as much of its beat as before. -/
structure StagingKept (c d : Core) : Prop where
  fq : d.fq = c.fq
  rest : d.batch.map (·.rest) = c.batch.map (·.rest)

theorem StagingKept.trans {c d e : Core} (h : StagingKept c d) (h' : StagingKept d e) : StagingKept c e :=
  ⟨h'.fq.trans h.fq, h'.rest.trans h.rest⟩

theorem drainRow_fq {c d : Core} {bank oq : Nat} (h : drainRow c bank oq = some d) : d.fq = c.fq := by
  unfold drainRow at h
  dsimp only at h
  split at h
  · rename_i c' hpush
    obtain rfl := Option.some.inj h
    rw [pushQ_frame hpush]
  · cases h

theorem batchRow_staging {c d : Core} {x : Batch} (hx : c.batch = some x) (h : batchRow c x = some (.ok d)) : StagingKept c d := by
  unfold batchRow at h
  extract_lets n row c' at h
  obtain ⟨e, hdrain, hcheck⟩ := Option.map_eq_some_iff.mp h
  have hfq : e.fq = c.fq := by
    have hsums : c' = { c with acc := c'.acc } := foldl_acc_frame (fun _ _ => rfl) _ c
    rw [drainRow_fq hdrain, hsums]
  cases hc : arrayCheck c (rangeFrom x.slot n) x.acc row with
  | error r =>
    rw [hc] at hcheck
    cases hcheck
  | ok y =>
    rw [hc] at hcheck
    obtain rfl := Except.ok.inj hcheck
    exact ⟨hfq, by rw [hx]; rfl⟩

theorem batchDrain_staging {n k j : Nat} {c d : Core} (h : batchDrain n c k = .ok d j) : StagingKept c d := by
  induction n generalizing c k with
  | zero =>
    obtain ⟨rfl, -⟩ := DrainRes.ok.inj h
    exact ⟨rfl, rfl⟩
  | succ n ih =>
    have hstop (h : DrainRes.ok c k = .ok d j) : StagingKept c d := (DrainRes.ok.inj h).1 ▸ ⟨rfl, rfl⟩
    unfold batchDrain at h
    split at h
    · rename_i x hx
      split at h
      · exact hstop h
      · split at h
        · rename_i c' hrow
          exact (batchRow_staging hx hrow).trans (ih h)
        · cases h
        · exact hstop h
    · exact hstop h

/-! ## A BATCH that opens a batch (R188, R189, R191) -/

/-- The batch that a field opens, with the records of its beat still to enter the staging buffer. -/
def openedBatch (b pc : Nat) (bs : Bytes) : Batch :=
  ⟨mSlot b, mFmt b, mAcc b, mOq b, [], 0, none,
    blocksOf (mtxRecord (mFmt b) false) (bs.length / mtxRecord (mFmt b) false) bs, pc, true, bs.length⟩

/-- That batch with its records staged and its whole windows closing; w is the window. -/
def filledBatch (b pc : Nat) (bs : Bytes) (w : Nat) : Batch :=
  let records := blocksOf (mtxRecord (mFmt b) false) (bs.length / mtxRecord (mFmt b) false) bs
  ⟨mSlot b, mFmt b, mAcc b, mOq b, records, records.length / (16 - mSlot b) / w * w, none, [], pc, true, bs.length⟩

@[simp] theorem length_blocksOf {α : Type} (n k : Nat) (l : List α) : (blocksOf n k l).length = k := by
  induction k generalizing l with
  | zero => rfl
  | succ k ih => rw [blocksOf, List.length_cons, ih]

/-- The staging buffer has room for the whole beat that opens a batch. -/
theorem batchFill_opened {b : Nat} {bs : Bytes} (pc w : Nat) (h : bs.length / mtxRecord (mFmt b) false ≤ 8) :
    batchFill w (openedBatch b pc bs) =
      (filledBatch b pc bs w, bs.length / mtxRecord (mFmt b) false / (16 - mSlot b) / w) := by
  have htake := List.take_of_length_le (i := 128) (l := (openedBatch b pc bs).rest) (by simp [openedBatch]; omega)
  have hdrop := List.drop_of_length_le (i := 128) (l := (openedBatch b pc bs).rest) (by simp [openedBatch]; omega)
  simp only [openedBatch] at htake hdrop
  simp [batchFill, openedBatch, filledBatch, batchRows, htake, hdrop]

theorem batchStage_opens {c c1 c2 : Core} {f : QField} {bs : Bytes} (hclosed : c.batch = none) (htake : takeBaton c f.bits = .ok c1)
    (hpop : popBeat c1 (mIq f.bits) = .beat bs c2)
    (hin : inputBad c2 f.bits (rangeFrom (mSlot f.bits) (16 - mSlot f.bits)) false bs = none) :
    batchStage c f = .ok { c2 with batch := some (openedBatch f.bits f.pc bs) } := by
  have hnone : c2.batch = none := by rw [popBeat_frame hpop, takeBaton_frame htake, hclosed]
  simp only [batchStage, htake, hpop, chainLen, hin, hnone]
  rfl

section
variable {w n k full closes : Nat} {c : Core} {x y : Batch} (hfill : batchFill w x = (y, closes))
include hfill

theorem batchPump_halt {d : Core} {j r detail : Nat} (h : batchDrain 128 { c with batch := some y } k = .halt d j r detail) :
    batchPump w (n + 1) { c with batch := some x } k full = (.halt d j r detail, full + closes) := by
  simp only [batchPump, hfill, h]

/-- A beat that is staged whole needs no second turn. -/
theorem batchPump_ok {d : Core} {j : Nat} {z : Batch} (h : batchDrain 128 { c with batch := some y } k = .ok d j) (hz : d.batch = some z)
    (hrest : z.rest = []) : batchPump w (n + 1) { c with batch := some x } k full = (.ok d j, full + closes) := by
  simp [batchPump, hfill, h, hz, hrest]

end

theorem batchWindow_setCore (s : State) (v u slot : Nat) (c : Core) : batchWindow (setCore s v c) u slot = batchWindow s u slot := rfl

section
variable {s : State} {u k full : Nat} {f : QField} {c0 c : Core}

theorem batchFinish_halt {r d : Nat} (h : batchPump (batchWindow s u (mSlot f.bits)) 64 c0 0 0 = (.halt c k r d, full)) :
    batchFinish (setCore s u c0) u f =
      haltUnit (fbump (countArray (setCore s u c) u k) fCORE_MTX_BATCH_STAT_FULL_CLOSES u 0 full) u r 1 f.pc d := by
  simp [batchFinish, batchWindow_setCore, h]

/-- A BATCH without PUT retires when its closes have drained (R191). -/
theorem batchFinish_retires {rest : List QField} {y : Batch}
    (h : batchPump (batchWindow s u (mSlot f.bits)) 64 c0 0 0 = (.ok c k, full)) (hy : c.batch = some y) (htodo : y.todo = 0)
    (hrest : y.rest = []) (hfq : getFq c 1 = f :: rest) (hput : nbit f.bits 1 = false) : batchFinish (setCore s u c0) u f =
      setCore (fbump (countArray (setCore s u c) u k) fCORE_MTX_BATCH_STAT_FULL_CLOSES u 0 full) u
        (batchTidy (setFq { c with batch := some { y with staged := false } } 1 rest)) := by
  simp [batchFinish, batchWindow_setCore, h, hy, htodo, hrest, hput, batchRetire, putBaton_of_not hput, hfq]

end

/-! ## The timeout of a batch (R189, R190) -/

section
variable {s : State} {u : Nat} {x : Batch} (hrun : (getCore s u).seq.st = .running) (hx : (getCore s u).batch = some x)
  (hfresh : x.todo < batchRows x) {c d : Core} {k : Nat}
  (hc : c = { getCore s u with batch := some { x with todo := batchRows x, late := some (batchRows x - x.todo) } })
include hrun hx hfresh hc

theorem batchTimeout_ok (h : batchDrain 128 c 0 = .ok d k) : batchTimeout s u =
    countArray (setCore (fbump s fCORE_MTX_BATCH_STAT_TIMEOUT_CLOSES u 0 1) u (batchTidy d)) u k := by
  subst hc
  simp [batchTimeout, hx, hrun, hfresh, h]

theorem batchTimeout_halt {r n : Nat} (h : batchDrain 128 c 0 = .halt d k r n) : batchTimeout s u =
    haltUnit (countArray (setCore (fbump s fCORE_MTX_BATCH_STAT_TIMEOUT_CLOSES u 0 1) u d) u k) u r 1 x.pc n := by
  subst hc
  simp [batchTimeout, hx, hrun, hfresh, h]

end

theorem exec_batch (s : State) (u : Nat) : exec (.batch u) s = .next (settleNops (batchStep s u) u) := rfl
theorem exec_batchTimeout (s : State) (u : Nat) : exec (.batchTimeout u) s = .next (settleNops (batchTimeout s u) u) := rfl

/-- A BATCH that may start with no batch open stages its beat and goes on with it. -/
theorem MtxStarts.batchStep_opens {s : State} {u : Nat} {f : QField} {rest : List QField} {c1 c2 : Core} {bs : Bytes}
    (h : MtxStarts s u 6 f rest c1) (hpop : popBeat c1 (mIq f.bits) = .beat bs c2)
    (hin : inputBad c2 f.bits (rangeFrom (mSlot f.bits) (16 - mSlot f.bits)) false bs = none) :
    batchStep s u = batchFinish (setCore s u { c2 with batch := some (openedBatch f.bits f.pc bs) }) u f := by
  simp only [batchStep, mtxHead_eq h.head h.mop, h.closed, batchStage_opens h.closed h.taken hpop hin]

/-- Settles O18: the beat that opens a batch is staged whole (`batchFill_opened`), so one turn of `batchPump` runs its windows. -/
theorem batchFields : Obligations.BatchFields := by
  refine ⟨fun s u f rest c1 c2 bs hfield hmop hclosed htake => ?_, fun s u x hrun hx hfresh => ?_⟩
  · intro b n records window windows staged counted hpop hin
    have hstarts : MtxStarts s u 6 f rest c1 := ⟨hfield, hclosed, hmop, htake⟩
    have hfill := batchFill_opened (b := b) f.pc window (records_le_of_inputBad hin)
    have hwindows : 0 + bs.length / mtxRecord (mFmt b) false / (16 - mSlot b) / window = windows := by simp [windows, records, n]
    rw [exec_batch, hstarts.batchStep_opens hpop hin]
    refine ⟨fun c k r d hdrain => ?_, fun c k y hdrain hy htodo hput => ?_⟩
    · rw [batchFinish_halt (batchPump_halt hfill hdrain), hwindows]
    · obtain ⟨hfq, hrest⟩ := batchDrain_staging hdrain
      have hempty : y.rest = [] := by simpa [hy, staged] using hrest
      have hqueue : getFq c 1 = f :: rest := by
        rw [← hfield.2, getFq, hfq]
        show getFq c2 1 = _
        rw [popBeat_frame hpop, takeBaton_frame htake]
        rfl
      rw [batchFinish_retires (batchPump_ok hfill hdrain hy hempty) hy htodo hempty hqueue hput, hwindows]
  · intro c t
    refine ⟨fun d k hdrain => ?_, fun d k r n hdrain => ?_⟩
    · rw [exec_batchTimeout, batchTimeout_ok hrun hx hfresh rfl hdrain]
    · rw [exec_batchTimeout, batchTimeout_halt hrun hx hfresh rfl hdrain]

end Sys2Proof.Machine
end

section
/-! The reduction unit (R214, R215, R217) and the scan unit (R219, R220): one law for a field that runs and one for a field that halts, and
what each operation gives its unit. -/

namespace Sys2Proof.Machine

open Sys2Proof.Safety

/-! ## A counted field that runs, or halts (R127, R138) -/

section
variable {s : State} {u eng : Nat} {mine : Nat → Bool} {op : Core → Nat → EngRes} {count : State → State} {f : QField} {rest : List QField}
  {c1 : Core} (hfield : fieldAt s u eng f rest) (hmine : mine f.bits = true) (htake : takeBaton (getCore s u) f.bits = .ok c1)
include hfield hmine htake

/-- A counted field whose operation leaves the sequencer alone retires, and is counted. -/
theorem countedField_retires {c2 c3 : Core} (hop : op c1 f.bits = .ok c2) (hseq : c2.seq = c1.seq) (hput : putBaton c2 f.bits = .ok c3) :
    countedField s u eng mine op count = settleNops (count (retired s u eng rest c3)) u := by
  have hput_seq : c3.seq = c2.seq := by rw [putBaton_frame hput]
  have htake_seq : c1.seq = (getCore s u).seq := by rw [takeBaton_frame htake]
  have hrun : c3.seq.st = .running := by rw [hput_seq, hseq, htake_seq, hfield.1]
  exact countedField_ok hfield hmine htake hop hput hrun

/-- A counted field that halts its unit is not counted. -/
theorem countedField_halts {r d : Nat} (hop : op c1 f.bits = .halt r d) :
    countedField s u eng mine op count = settleNops (haltUnit s u r eng f.pc d) u := by
  rw [countedField, runField_halt hfield hmine htake hop, if_neg (by simp [haltUnit_halted])]

end

/-! ## The reduction unit -/

/-- The five data fields of the reduction unit, by operation. -/
def redFields (u : Nat) : List (Nat × Instr) := [(2, .redSum u), (3, .redMax u), (4, .sumExp u), (5, .shiftedSq u), (6, .normTap u)]

theorem exec_redField (s : State) (u : Nat) {i : Nat × Instr} (hi : i ∈ redFields u) : exec i.2 s = .next (redStep s u i.1 redData) := by
  simp only [redFields, List.mem_cons, List.not_mem_nil, or_false] at hi
  rcases hi with rfl | rfl | rfl | rfl | rfl <;> rfl

theorem exec_rowStart (s : State) (u : Nat) : exec (.rowStart u) s = .next (redStep s u 1 redStart) := rfl
theorem exec_rowEnd (s : State) (u : Nat) : exec (.rowEnd u) s = .next (redStep s u 7 redEnd) := rfl

section
variable {c d : Core} {b : Nat} {r : RedRow}

theorem redStart_opens (h : c.row = none) : redStart c b = .ok { c with row := some ⟨0, rTree b, []⟩ } := by
  simp only [redStart, h]

theorem redStart_inRow (h : c.row ≠ none) : redStart c b = .halt 0x03 (operandDetail 0 4 5) := by
  obtain ⟨r, hr⟩ := Option.ne_none_iff_exists'.mp h
  simp only [redStart, hr]

theorem redData_noRow (h : c.row = none) : redData c b = .halt 0x03 (operandDetail (sIq b) 4 5) := by
  simp only [redData, h]

theorem redData_otherRow (h : c.row = some r) (hop : r.op ≠ 0) (hother : r.op ≠ fOp4 b ∨ r.tree ≠ rTree b) :
    redData c b = .halt 0x03 (operandDetail (sIq b) 4 6) := by
  simp only [redData, h, if_pos (And.intro hop hother)]

theorem redData_joins {bs : Bytes} (h : c.row = some r) (hsame : r.op = 0 ∨ r.op = fOp4 b ∧ r.tree = rTree b)
    (hpop : popBeat c (sIq b) = .beat bs d) : redData c b = .ok { d with row := some ⟨fOp4 b, rTree b, r.elems ++ chunk4 bs⟩ } := by
  have hfits : ¬ (r.op ≠ 0 ∧ (r.op ≠ fOp4 b ∨ r.tree ≠ rTree b)) := by tauto
  simp only [redData, h, if_neg hfits, hpop]

theorem redEnd_noRow (h : c.row = none) : redEnd c b = .halt 0x03 (operandDetail (sOq b) 4 5) := by
  simp only [redEnd, h]

theorem redEnd_otherTree (h : c.row = some r) (hop : r.op ≠ 0) (htree : r.tree ≠ rTree b) :
    redEnd c b = .halt 0x03 (operandDetail (sOq b) 4 6) := by
  simp only [redEnd, h, if_pos (And.intro hop htree)]

theorem redEnd_puts (h : c.row = some r) (hsame : r.op = 0 ∨ r.tree = rTree b)
    (hpush : pushAll { c with row := none } (sOq b)
      ((rowStats r.op r.elems).map fun v => .beat (unElems 4 (List.replicate 1024 v))) = some d) : redEnd c b = .ok d := by
  have hfits : ¬ (r.op ≠ 0 ∧ r.tree ≠ rTree b) := by tauto
  simp only [redEnd, h, if_neg hfits, hpush]

end

section
variable {s : State} {u k : Nat} {op : Core → Nat → EngRes} {f : QField} {rest : List QField} {c1 : Core}
  (hfield : fieldAt s u 4 f rest) (hop : fOp4 f.bits = k) (htake : takeBaton (getCore s u) f.bits = .ok c1)
include hfield hop htake

theorem redStep_ok {c2 c3 : Core} (hres : op c1 f.bits = .ok c2) (hseq : c2.seq = c1.seq) (hput : putBaton c2 f.bits = .ok c3) :
    redStep s u k op = settleNops (retired s u 4 rest c3) u :=
  countedField_retires hfield (by simp [hop]) htake hres hseq hput

theorem redStep_halt {r d : Nat} (hres : op c1 f.bits = .halt r d) : redStep s u k op = settleNops (haltUnit s u r 4 f.pc d) u :=
  countedField_halts hfield (by simp [hop]) htake hres

end

/-- Settles O25: each field gives the core that its clause names, or its halt. -/
theorem reductionFields : Obligations.ReductionFields := by
  intro s u f rest c1 c2 c3 hfield htake hput b done
  refine ⟨fun hop hrow hc => ?_, fun hop hrow => ?_, fun i hi hop r bs d hrow hsame hpop hc => ?_, fun hop r hrow hsame hpush => ?_⟩
  · subst hc
    rw [exec_rowStart, redStep_ok hfield hop htake (redStart_opens hrow) rfl hput]
  · rw [exec_rowStart, redStep_halt hfield hop htake (redStart_inRow hrow)]
    rfl
  · have hseq : d.seq = c1.seq := by rw [popBeat_frame hpop]
    rw [← hop] at hsame hc
    subst hc
    rw [exec_redField s u hi, redStep_ok hfield hop htake (redData_joins hrow hsame hpop) hseq hput]
  · have hseq : c2.seq = c1.seq := by rw [pushAll_frame hpush]
    rw [exec_rowEnd, redStep_ok hfield hop htake (redEnd_puts hrow hsame hpush) hseq hput]

/-- Settles O26: a field without its row, a ROW_START in a row, and a field of another operation or TREE. -/
theorem reductionFraming : Obligations.ReductionFraming := by
  intro s u f rest c1 hfield htake b bad
  refine ⟨fun i hi hop => ⟨fun hrow => ?_, fun r hrow hused hother => ?_⟩, fun hop hrow => ?_, fun hop hrow => ⟨0, ?_⟩,
    fun hop r hrow hused htree => ?_⟩
  · rw [exec_redField s u hi, redStep_halt hfield hop htake (redData_noRow hrow)]
    rfl
  · rw [← hop] at hother
    rw [exec_redField s u hi, redStep_halt hfield hop htake (redData_otherRow hrow hused hother)]
    rfl
  · rw [exec_rowEnd, redStep_halt hfield hop htake (redEnd_noRow hrow)]
    rfl
  · rw [exec_rowStart, redStep_halt hfield hop htake (redStart_inRow hrow)]
    rfl
  · rw [exec_rowEnd, redStep_halt hfield hop htake (redEnd_otherTree hrow hused htree)]
    rfl

/-! ## The scan unit -/

theorem exec_scanStep (s : State) (u : Nat) :
    exec (.scanStep u) s = .next (countedField s u 5 (fun b => fOp4 b == 1) scanOne (scanCount u 1)) := rfl
theorem exec_loadH (s : State) (u : Nat) : exec (.loadH u) s = .next (countedField s u 5 (fun b => fOp4 b == 2) loadH fun s => s) := rfl
theorem exec_storeH (s : State) (u : Nat) : exec (.storeH u) s = .next (countedField s u 5 (fun b => fOp4 b == 3) storeH fun s => s) := rfl
theorem exec_chunk (s : State) (u : Nat) : exec (.chunk u) s = .next (settleNops (chunkStep s u) u) := rfl

/-- The state h after a step over the elements of its two beats (R219). -/
def scanNext (h as bs : List Nat) : List Nat := List.zipWith (fun p y => scanElem p.1 p.2 y) (as.zip h) bs

section
variable {c d d1 d2 : Core} {b : Nat} {as bs : Bytes}

theorem scanBeat_whole {q : Nat} (hpop : popBeat c q = .beat as d) (hlen : as.length = 4096) : scanBeat c q = (.ok d, as) := by
  simp only [scanBeat, hpop, hlen, if_true]

/-- What a scan beat takes is in the queues alone. -/
theorem scanBeat_frame {q : Nat} (h : scanBeat c q = (.ok d, as)) : d = { c with queues := d.queues } := by
  unfold scanBeat at h
  split at h
  · cases h
  · cases h
  · rename_i bs' d' hpop
    split at h
    · obtain ⟨hd, -⟩ := Prod.mk.inj h
      obtain rfl := EngRes.ok.inj hd
      exact popBeat_frame hpop
    · cases h

theorem scanOne_ok (hpop1 : popBeat c (sIq b) = .beat as d1) (hlen1 : as.length = 4096)
    (hpop2 : popBeat d1 ((sIq b + 1) % 16) = .beat bs d2) (hlen2 : bs.length = 4096)
    (hpush : pushQ { d2 with h := scanNext (padTo 1024 0 c.h) (chunk4 as) (chunk4 bs) } (sOq b)
      (.beat (unElems 4 (scanNext (padTo 1024 0 c.h) (chunk4 as) (chunk4 bs)))) = some d) : scanOne c b = .ok d := by
  have hh : d2.h = c.h := by rw [popBeat_frame hpop2, popBeat_frame hpop1]
  rw [← hh] at hpush
  unfold scanNext at hpush
  simp only [scanOne, scanBeat_whole hpop1 hlen1, scanBeat_whole hpop2 hlen2, hpush]

/-- A step changes the queues and h of its unit, and nothing else. -/
theorem scanOne_frame (h : scanOne c b = .ok d) : d = { c with queues := d.queues, h := d.h } := by
  unfold scanOne at h
  split at h
  · rename_i d1 as hfirst
    split at h
    · rename_i d2 bs hsecond
      dsimp only at h
      split at h
      · rename_i d3 hpush
        obtain rfl := EngRes.ok.inj h
        rw [pushQ_frame hpush, scanBeat_frame hsecond, scanBeat_frame hfirst]
      · cases h
    · rename_i hno _
      exact (hno d h).elim
  · rename_i hno _
    exact (hno d h).elim

theorem loadH_ok (hpop : popBeat c (sIq b) = .beat as d) (hlen : as.length = 4096) : loadH c b = .ok { d with h := chunk4 as } := by
  simp only [loadH, scanBeat_whole hpop hlen]

theorem storeH_ok (hpush : pushQ c (sOq b) (.beat (unElems 4 (padTo 1024 0 c.h))) = some d) : storeH c b = .ok d := by
  simp only [storeH, hpush]

/-- The steps of a CHUNK change the queues and h of their unit, and nothing else. -/
theorem chunkSteps_frame {n j k : Nat} (h : chunkSteps n c b j = (.ok d, k)) : d = { c with queues := d.queues, h := d.h } := by
  induction n generalizing c j with
  | zero =>
    obtain ⟨hd, -⟩ := Prod.mk.inj h
    obtain rfl := EngRes.ok.inj hd
    rfl
  | succ n ih =>
    unfold chunkSteps at h
    split at h
    · rename_i e hone
      rw [ih h, scanOne_frame hone]
    · obtain ⟨hd, -⟩ := Prod.mk.inj h
      obtain rfl := EngRes.ok.inj hd
      rfl
    · cases h

end

section
variable {s : State} {u k : Nat} {f : QField} {rest : List QField} {c1 c2 : Core} (hfield : fieldAt s u 5 f rest) (hop : fOp4 f.bits = 4)
  (htake : (if (getCore s u).chunkDone = 0 then takeBaton (getCore s u) f.bits else .ok (getCore s u)) = .ok c1)
  (hsteps : chunkSteps (64 - c1.chunkDone) c1 f.bits 0 = (.ok c2, k)) (hk : 1 ≤ k)
include hfield hop htake hsteps hk

/-- A CHUNK that has steps to do keeps those that it has done. -/
theorem chunkStep_goesOn (hmore : c1.chunkDone + k < 64) :
    chunkStep s u = setCore (scanCount u k s) u { c2 with chunkDone := c1.chunkDone + k } := by
  have hdone : c2.chunkDone = c1.chunkDone := by rw [chunkSteps_frame hsteps]
  simp [chunkStep, hfield.1, hfield.2, hop, htake, hsteps, hdone, hmore, show k ≠ 0 by omega]

/-- A CHUNK retires with its 64th step. -/
theorem chunkStep_retires (hall : 64 ≤ c1.chunkDone + k) {c3 : Core} (hput : putBaton c2 f.bits = .ok c3) :
    chunkStep s u = retired (scanCount u k s) u 5 rest { c3 with chunkDone := 0 } := by
  have hdone : c2.chunkDone = c1.chunkDone := by rw [chunkSteps_frame hsteps]
  simp [chunkStep, hfield.1, hfield.2, hop, htake, hsteps, hdone, hput, retired, Nat.not_lt.mpr hall, show k ≠ 0 by omega]

end

/-- Settles O27: each field gives the core that its clause names, and CHUNK counts the steps that its queues allow. -/
theorem scanFields : Obligations.ScanFields := by
  refine ⟨fun s u f rest c1 c2 c3 hfield htake hput => ?_, fun s u k f rest c1 c2 hfield hop htake hsteps hk => ?_⟩
  · intro b h
    refine ⟨fun d1 d2 as bs d hop hpop1 hlen1 hpop2 hlen2 => ?_, fun as d hop hpop hlen hc => ?_, fun hop hpush => ?_⟩
    · rintro h' hpush rfl
      have hone : scanOne c1 b = .ok c2 := scanOne_ok hpop1 hlen1 hpop2 hlen2 hpush
      have hseq : c2.seq = c1.seq := by rw [scanOne_frame hone]
      rw [exec_scanStep, countedField_retires hfield (by simp [b, hop]) htake hone hseq hput]
      rfl
    · have hseq : d.seq = c1.seq := by rw [popBeat_frame hpop]
      subst hc
      rw [exec_loadH, countedField_retires hfield (by simp [b, hop]) htake (loadH_ok hpop hlen) hseq hput]
    · have hseq : c2.seq = c1.seq := by rw [pushQ_frame hpush]
      rw [exec_storeH, countedField_retires hfield (by simp [b, hop]) htake (storeH_ok hpush) hseq hput]
  · intro counted
    refine ⟨fun hmore => ?_, fun c3 hall hput => ?_⟩
    · rw [exec_chunk, chunkStep_goesOn hfield hop htake hsteps hk hmore]
      rfl
    · rw [exec_chunk, chunkStep_retires hfield hop htake hsteps hk hall hput]
      rfl

end Sys2Proof.Machine
end

section
/-! Rows as elements (R8, R198, R201): what stands at a place of a row, and what a row holds once elements are written to it. -/

namespace Sys2Proof.Machine

/-! ## Numbers and their bytes (R8) -/

@[simp] theorem length_natLe (n v : Nat) : (natLe n v).length = n := by
  induction n generalizing v with
  | zero => rfl
  | succ n ih => rw [natLe, List.length_cons, ih]

theorem leNat_natLe (n v : Nat) : leNat (natLe n v) = v % 2 ^ (8 * n) := by
  induction n generalizing v with
  | zero => simp [natLe, leNat, Nat.mod_one]
  | succ n ih => rw [natLe, leNat, ih, BitVec.toNat_ofNat, Nat.mul_succ, Nat.add_comm, Nat.pow_add, Nat.mul_comm (2 ^ (8 * n)), Nat.mod_mul,
      Nat.add_comm]

theorem leNat_lt (bs : Bytes) : leNat bs < 2 ^ (8 * bs.length) := by
  induction bs with
  | nil => simp [leNat]
  | cons x bs ih =>
    have hx : x.toNat < 256 := x.isLt
    rw [leNat, List.length_cons, Nat.mul_succ, Nat.pow_add]
    omega

/-- The number that the size bytes from o on are. -/
def numAt (bs : Bytes) (o size : Nat) : Nat := leNat ((bs.drop o).take size)

theorem numAt_lt (bs : Bytes) (o size : Nat) : numAt bs o size < 2 ^ (8 * size) :=
  (leNat_lt _).trans_le (Nat.pow_le_pow_right (by omega) (Nat.mul_le_mul_left _ (List.length_take_le ..)))

/-! ## The elements of a row (R198) -/

theorem numAt_past {bs : Bytes} {o : Nat} (size : Nat) (h : bs.length ≤ o) : numAt bs o size = 0 := by
  simp [numAt, List.drop_of_length_le h, leNat]

theorem chunk2_getD (bs : Bytes) (k : Nat) : (chunk2 bs).getD k 0 = numAt bs (k * 2) 2 := by
  induction k generalizing bs with
  | zero => obtain _ | ⟨a, _ | ⟨b, t⟩⟩ := bs <;> rfl
  | succ k ih =>
    obtain _ | ⟨a, _ | ⟨b, t⟩⟩ := bs
    iterate 2 exact (numAt_past 2 (by simp only [List.length_nil, List.length_cons]; omega)).symm
    exact (ih t).trans (by simp [numAt, Nat.succ_mul])

theorem chunk4_getD (bs : Bytes) (k : Nat) : (chunk4 bs).getD k 0 = numAt bs (k * 4) 4 := by
  induction k generalizing bs with
  | zero => obtain _ | ⟨a, _ | ⟨b, _ | ⟨c, _ | ⟨d, t⟩⟩⟩⟩ := bs <;> rfl
  | succ k ih =>
    obtain _ | ⟨a, _ | ⟨b, _ | ⟨c, _ | ⟨d, t⟩⟩⟩⟩ := bs
    iterate 4 exact (numAt_past 4 (by simp only [List.length_nil, List.length_cons]; omega)).symm
    exact (ih t).trans (by simp [numAt, Nat.succ_mul])

theorem length_chunk2 : ∀ bs : Bytes, (chunk2 bs).length = (bs.length + 1) / 2
  | [] => rfl
  | [_] => show 1 = 2 / 2 from rfl
  | _ :: _ :: t => by rw [chunk2, List.length_cons, length_chunk2 t, List.length_cons, List.length_cons]; omega

theorem length_chunk4 : ∀ bs : Bytes, (chunk4 bs).length = (bs.length + 3) / 4
  | [] => rfl
  | [_] => show 1 = 4 / 4 from rfl
  | [_, _] => show 1 = 5 / 4 from rfl
  | [_, _, _] => show 1 = 6 / 4 from rfl
  | _ :: _ :: _ :: _ :: t => by
    rw [chunk4, List.length_cons, length_chunk4 t, List.length_cons, List.length_cons, List.length_cons, List.length_cons]; omega

theorem elems_getD {size : Nat} (hsize : size = 2 ∨ size = 4) (bs : Bytes) (k : Nat) :
    (elems size bs).getD k 0 = numAt bs (k * size) size := by
  rcases hsize with rfl | rfl
  · exact chunk2_getD bs k
  · exact chunk4_getD bs k

theorem length_elems {size n : Nat} (hsize : size = 2 ∨ size = 4) {bs : Bytes} (h : bs.length = n * size) : (elems size bs).length = n := by
  rcases hsize with rfl | rfl
  · rw [elems, if_neg (by decide), if_pos rfl, length_chunk2, h]
    omega
  · rw [elems, if_pos rfl, length_chunk4, h]
    omega

theorem length_unElems (size : Nat) (l : List Nat) : (unElems size l).length = l.length * size := by
  induction l with
  | nil => simp [unElems]
  | cons x l ih =>
    rw [unElems, List.flatMap_cons, List.length_append, length_natLe, List.length_cons, Nat.succ_mul, Nat.add_comm]
    exact congrArg (· + size) ih

/-- Place k of the bytes of elements holds element k, cut to its size. -/
theorem numAt_unElems (size : Nat) {l : List Nat} {k : Nat} (hk : k < l.length) :
    numAt (unElems size l) (k * size) size = l.getD k 0 % 2 ^ (8 * size) := by
  induction l generalizing k with
  | nil => cases hk
  | cons x l ih =>
    have hcons : unElems size (x :: l) = natLe size x ++ unElems size l := rfl
    cases k with
    | zero => simp [numAt, hcons, leNat_natLe]
    | succ k =>
      rw [List.getD_cons_succ, ← ih (Nat.lt_of_succ_lt_succ hk), hcons]
      have hpast : (natLe size x).drop (k * size + size) = [] := List.drop_of_length_le (by simp)
      simp [numAt, Nat.succ_mul, List.drop_append, hpast]

/-! ## Writing over a row (R207, R256) -/

section
variable {old bs : Bytes} {o : Nat} (h : o + bs.length ≤ old.length)
include h

theorem length_spliceLine : (spliceLine old o bs).length = old.length := by
  simp [spliceLine]; omega

theorem numAt_spliceLine {j size : Nat} (hj : j + size ≤ bs.length) : numAt (spliceLine old o bs) (o + j) size = numAt bs j size := by
  have ho : (old.take o).length = o := by simp; omega
  rw [numAt, spliceLine, List.append_assoc, ← List.drop_drop, List.drop_append_of_le_length ho.ge, List.drop_of_length_le ho.le, List.nil_append,
    List.drop_append_of_le_length (by omega), List.take_append_of_le_length (by simp; omega), numAt]

theorem getD_spliceLine_outside {j : Nat} (hj : j < o ∨ o + bs.length ≤ j) : (spliceLine old o bs).getD j 0 = old.getD j 0 := by
  have ho : (old.take o).length = o := by simp; omega
  rw [spliceLine, List.append_assoc]
  rcases hj with hj | hj
  · rw [List.getD_append _ _ _ _ (by omega)]
    simp [List.getD_eq_getElem?_getD, hj]
  · rw [List.getD_append_right _ _ _ _ (by omega), List.getD_append_right _ _ _ _ (by omega), ho]
    simp only [List.getD_eq_getElem?_getD, List.getElem?_drop]
    congr 2
    omega

end

/-! ## Rows of the operand cache (R201, R202) -/

theorem length_rowBytes (bs : Bytes) : (rowBytes bs).length = 4096 := length_padTo ..

@[simp] theorem length_cacheRow (c : Core) (r : Nat) : (cacheRow c r).length = 4096 := length_rowBytes _

@[simp] theorem length_opdRow (c : Core) (beats : List (Nat × Bytes)) (o : Nat) : (opdRow c beats o).length = 4096 := by
  unfold opdRow
  split <;> exact length_rowBytes _

/-- A core with one row of its operand cache written. -/
def setRow (c : Core) (row : Nat) (bs : Bytes) : Core := { c with cache := tabSet [] c.cache row bs }

theorem cacheRow_of_cache {c d : Core} (h : d.cache = c.cache) (r : Nat) : cacheRow d r = cacheRow c r := by
  rw [cacheRow, h, cacheRow]

theorem cacheRow_setRow_self (c : Core) (row : Nat) {bs : Bytes} (h : bs.length = 4096) : cacheRow (setRow c row bs) row = bs :=
  (congrArg rowBytes (tabGet_tabSet_self ..)).trans (padTo_of_length 0 h)

theorem cacheRow_setRow_ne (c : Core) {row r : Nat} (bs : Bytes) (h : r ≠ row) : cacheRow (setRow c row bs) r = cacheRow c r :=
  congrArg rowBytes (tabGet_tabSet_ne _ _ _ h)

theorem writeRow_row {c : Core} {o row : Nat} (bs : Bytes) (h : opdOf o = .row row) : writeRow c o bs = some (setRow c row bs) := by
  rw [writeRow, h]
  rfl

theorem keepRow_row {c : Core} {o row : Nat} (h : opdOf o = .row row) : keepRow c o = cacheRow c row := by
  rw [keepRow, h]

theorem putSum_none {b : Nat} (c : Core) (v : SumView) (xs : List (Nat × Nat)) (h : vSumOp b = 0) : putSum c b v xs = c := if_pos h

/-! ## The elements of a data type (R198) -/

theorem dtBytes_cases (dt : Nat) : dtBytes dt = 2 ∨ dtBytes dt = 4 := by
  unfold dtBytes; split <;> simp

theorem dtCount_mul (dt : Nat) : dtCount dt * dtBytes dt = 4096 := by
  rcases dtBytes_cases dt with h | h <;> simp [dtCount, h]

@[simp] theorem length_dataElems (c : Core) (beats : List (Nat × Bytes)) (b o : Nat) :
    (dataElems c beats b o).length = dtCount (vDtype b) :=
  length_elems (dtBytes_cases _) ((length_opdRow ..).trans (dtCount_mul _).symm)

theorem dataElems_lt (c : Core) (beats : List (Nat × Bytes)) (b o e : Nat) :
    (dataElems c beats b o).getD e 0 < 2 ^ (8 * dtBytes (vDtype b)) := by
  rw [dataElems, elems_getD (dtBytes_cases _)]
  exact numAt_lt ..

@[simp] theorem length_activeList (c : Core) (b : Nat) : (activeList c b).length = dtCount (vDtype b) := by
  simp [activeList, rangeFrom_eq_range']

end Sys2Proof.Machine
end

section
/-! A value that a floating-point format holds does not move when it is rounded to that format (R204, R252, R257, R261). -/

namespace Sys2Proof.Machine

theorem bitLen_le {m k : Nat} (h : m < 2 ^ k) : bitLen m ≤ k := by
  unfold bitLen
  split
  · omega
  · rename_i hm
    exact (Nat.log2_lt hm).mpr h

theorem bitLen_eq_succ {m k : Nat} (hlo : 2 ^ k ≤ m) (hhi : m < 2 ^ (k + 1)) : bitLen m = k + 1 := by
  have hm : m ≠ 0 := by have := Nat.two_pow_pos k; omega
  have hlog : k ≤ m.log2 := (Nat.le_log2 hm).mpr hlo
  have := bitLen_le hhi
  rw [bitLen, if_neg hm] at this ⊢
  omega

/-- The fields of an encoding: sign, exponent and mantissa (R252). -/
theorem encoding_fields {eb mb x : Nat} (h : x < 2 ^ (eb + mb + 1)) :
    x = b2n (nbit x (eb + mb)) * 2 ^ (eb + mb) + nbits x mb eb * 2 ^ mb + nbits x 0 mb := by
  have hsign : b2n (nbit x (eb + mb)) = x / 2 ^ (eb + mb) := by
    have hlt : x / 2 ^ (eb + mb) < 2 := Nat.div_lt_of_lt_mul (by rwa [Nat.pow_succ] at h)
    rw [b2n, nbit, Nat.mod_eq_of_lt hlt]
    interval_cases x / 2 ^ (eb + mb) <;> rfl
  have hlow : nbits x mb eb * 2 ^ mb + nbits x 0 mb = x % 2 ^ (eb + mb) := by
    rw [nbits, nbits, Nat.pow_zero, Nat.div_one, Nat.add_comm eb mb, Nat.pow_add, Nat.mod_mul]
    ring
  rw [Nat.add_assoc, hlow, hsign, Nat.mul_comm, Nat.div_add_mod]

/-- A magnitude as a format holds it, with the low bits of its encoding: below the smallest normal, or normal with biased exponent k. -/
inductive Holds (f : FFmt) : Nat → Int → Nat → Prop
  | small {m : Nat} (h : m < 2 ^ f.mb) : Holds f m (fmtEmin f - f.mb) m
  | normal {m k : Nat} (hlo : 1 ≤ k) (hhi : k ≤ 2 ^ f.eb - 2) (hm : m < 2 ^ f.mb) :
      Holds f (m + 2 ^ f.mb) (k - f.bias - f.mb) (k * 2 ^ f.mb + m)

section
variable {f : FFmt} {m w : Nat} {e : Int} (h : Holds f m e w)
include h

theorem Holds.mag_lt : m < 2 ^ (f.mb + 1) := by
  rw [Nat.pow_succ]
  cases h <;> omega

theorem Holds.emin_le : fmtEmin f - f.mb ≤ e := by
  cases h with
  | small h => exact Int.le_refl _
  | normal hlo => unfold fmtEmin; omega

/-- Rounding needs no shift. -/
theorem Holds.shift_le : max ((bitLen m : Int) - (f.mb + 1 : Nat)) (fmtEmin f - (f.mb + 1 - 1 : Nat) - e) ≤ 0 := by
  have hlen := bitLen_le h.mag_lt
  have he := h.emin_le
  omega

theorem Holds.roundMag_eq : roundMag (f.mb + 1) (fmtEmin f) m e = (m, e) := if_pos h.shift_le

theorem Holds.truncMag_eq : truncMag (f.mb + 1) (fmtEmin f) m e = (m, e, 0, true) := if_pos h.shift_le

theorem Holds.encodeMag_eq (neg : Bool) : encodeMag f neg m e = b2n neg * 2 ^ (f.eb + f.mb) + w := by
  cases h with
  | small h =>
    have hlen := bitLen_le h
    unfold encodeMag
    dsimp only
    split
    · omega
    · rw [if_pos (by omega), Int.sub_self]
      simp
  | @normal m k hlo hhi hm =>
    have hlen : bitLen (m + 2 ^ f.mb) = f.mb + 1 := bitLen_eq_succ (by omega) (by rw [Nat.pow_succ]; omega)
    have hexp : ((k : Int) - f.bias - f.mb + (f.mb + 1 : Nat) - 1 + f.bias).toNat = k := by omega
    have hbig : ¬ ((k : Int) - f.bias - f.mb + (f.mb + 1 : Nat) - 1 < fmtEmin f) := by unfold fmtEmin; omega
    have hpos : m + 2 ^ f.mb ≠ 0 := by have := Nat.two_pow_pos f.mb; omega
    simp only [encodeMag, hlen, if_neg hpos, if_neg hbig, hexp, Nat.le_refl, if_true, Nat.sub_self, Nat.pow_zero, Nat.mul_one, Nat.add_mod_right,
      Nat.mod_eq_of_lt hm, Nat.add_assoc]

variable (htop : f.top = 2) (heb : 2 ≤ f.eb)
include htop heb

/-- It does not exceed the largest finite value. -/
theorem Holds.not_over : magLt (fmtMax f).1 (fmtMax f).2 m e = false := by
  have hfour : 4 ≤ 2 ^ f.eb := Nat.pow_le_pow_right (n := 2) (by omega) heb
  have hmost : e ≤ (2 ^ f.eb - 2 : Nat) - f.bias - f.mb := by
    cases h with
    | small h => unfold fmtEmin; omega
    | normal hlo hhi => omega
  have hm := h.mag_lt
  have hscale := Nat.le_mul_of_pos_right (2 ^ (f.mb + 1) - 1) (Nat.two_pow_pos (((2 ^ f.eb - 2 : Nat) - f.bias - f.mb - e : Int).toNat))
  simp only [magLt, fmtMax, htop, if_true, min_eq_right hmost, Int.sub_self, Int.toNat_zero, Nat.pow_zero, Nat.mul_one, decide_eq_false_iff_not]
  omega

theorem Holds.fpEncode_eq (neg : Bool) : fpEncode f (.fin neg m e) = b2n neg * 2 ^ (f.eb + f.mb) + w := by
  simp only [fpEncode, encodeFin, h.roundMag_eq, h.not_over htop heb, Bool.false_eq_true, if_false, h.encodeMag_eq]

theorem Holds.fpEncodeSr_eq (u : Nat) (neg : Bool) : fpEncodeSr f u (.fin neg m e) = b2n neg * 2 ^ (f.eb + f.mb) + w := by
  simp only [fpEncodeSr, h.truncMag_eq, h.not_over htop heb, Bool.false_eq_true, if_false, if_true, h.encodeMag_eq]

end

/-- What is no NaN decodes to an infinity or to a value as the format holds it. -/
theorem fpDecode_cases {f : FFmt} (htop : f.top = 2) {x : Nat} (hnan : (fpDecode f x).isNaN = false) :
    (fpDecode f x = .inf (nbit x (f.eb + f.mb)) ∧ nbits x f.mb f.eb = 2 ^ f.eb - 1 ∧ nbits x 0 f.mb = 0) ∨
    ∃ m e, fpDecode f x = .fin (nbit x (f.eb + f.mb)) m e ∧ Holds f m e (nbits x f.mb f.eb * 2 ^ f.mb + nbits x 0 f.mb) := by
  have hexp : nbits x f.mb f.eb < 2 ^ f.eb := Nat.mod_lt _ (Nat.two_pow_pos _)
  have hmant : nbits x 0 f.mb < 2 ^ f.mb := Nat.mod_lt _ (Nat.two_pow_pos _)
  by_cases hspecial : nbits x f.mb f.eb = 2 ^ f.eb - 1
  · by_cases hzero : nbits x 0 f.mb = 0
    · exact .inl ⟨by simp [fpDecode, htop, hspecial, hzero], hspecial, hzero⟩
    · simp [fpDecode, htop, hspecial, hzero, FV.isNaN] at hnan
  · by_cases hsmall : nbits x f.mb f.eb = 0
    · refine .inr ⟨nbits x 0 f.mb, fmtEmin f - f.mb, ?_, ?_⟩
      · rw [fpDecode, if_neg fun h => hspecial h.2, if_neg fun h => hspecial h.2.1, if_pos hsmall]
      · rw [hsmall, Nat.zero_mul, Nat.zero_add]
        exact .small hmant
    · refine .inr ⟨nbits x 0 f.mb + 2 ^ f.mb, nbits x f.mb f.eb - f.bias - f.mb, ?_, .normal (by omega) (by omega) hmant⟩
      rw [fpDecode, if_neg fun h => hspecial h.2, if_neg fun h => hspecial h.2.1, if_neg hsmall]

theorem fpEncode_fpDecode {f : FFmt} (htop : f.top = 2) (heb : 2 ≤ f.eb) {x : Nat} (hx : x < 2 ^ (f.eb + f.mb + 1))
    (hnan : (fpDecode f x).isNaN = false) (u : Nat) : fpEncode f (fpDecode f x) = x ∧ fpEncodeSr f u (fpDecode f x) = x := by
  have hfields := encoding_fields hx
  obtain ⟨hinf, hexp, hmant⟩ | ⟨m, e, hfin, hholds⟩ := fpDecode_cases htop hnan
  · rw [hexp, hmant, Nat.add_zero] at hfields
    rw [hinf]
    constructor <;> exact (if_pos htop).trans hfields.symm
  · rw [Nat.add_assoc] at hfields
    rw [hfin]
    exact ⟨(hholds.fpEncode_eq htop heb _).trans hfields.symm, (hholds.fpEncodeSr_eq htop heb u _).trans hfields.symm⟩

end Sys2Proof.Machine
end

section
/-! What the lanes give a row of the operand cache (R204, R205, R207, R255 to R257, R261): the values of a lane operation, and the places and
values of a conversion. -/

namespace Sys2Proof.Machine

/-! ## Results under the active set (R207) -/

/-- The row that holds the results where elements are active, and what old holds elsewhere. -/
def mergeRow (size : Nat) (old : Bytes) (act : List Bool) (res : List Nat) : Bytes :=
  unElems size (List.zipWith (fun o (p : Bool × Nat) => if p.1 then p.2 else o) (elems size old) (act.zip res))

section
variable {size n : Nat} (hsize : size = 2 ∨ size = 4) {old : Bytes} (hold : old.length = n * size) {act : List Bool} (hact : act.length = n)
  {res : List Nat} (hres : res.length = n)
include hsize hold hact hres

theorem length_mergeRow : (mergeRow size old act res).length = n * size := by
  simp [mergeRow, length_unElems, length_elems hsize hold, hact, hres]

theorem numAt_mergeRow {k : Nat} (hk : k < n) : numAt (mergeRow size old act res) (k * size) size =
    if act.getD k false then res.getD k 0 % 2 ^ (8 * size) else numAt old (k * size) size := by
  have helems : (elems size old).length = n := length_elems hsize hold
  rw [mergeRow, numAt_unElems size (by simp [helems, hact, hres, hk])]
  have hmerge : (List.zipWith (fun o (p : Bool × Nat) => if p.1 then p.2 else o) (elems size old) (act.zip res)).getD k 0 =
      if act.getD k false then res.getD k 0 else (elems size old).getD k 0 := by
    simp [List.getD_eq_getElem?_getD, helems, hact, hres, hk]
  rw [hmerge, elems_getD hsize]
  split
  · rfl
  · exact Nat.mod_eq_of_lt (numAt_lt ..)

end

/-! ## Lane operations (R204, R205) -/

/-- The INT32 lanes, by VOP. -/
def intLanes : List (Nat × (Nat → Nat → Nat → Nat)) :=
  [(0x02, fun x y _ => (x + y) % 2 ^ 32), (0x03, fun x y _ => (x + 2 ^ 32 - y) % 2 ^ 32), (0x04, fun x y _ => x * y % 2 ^ 32),
    (0x05, fun x y z => (x * y + z) % 2 ^ 32), (0x12, fun x y _ => x &&& y), (0x13, fun x y _ => x ||| y), (0x14, fun x y _ => x ^^^ y),
    (0x15, fun x y _ => if 32 ≤ y then 0 else x <<< y % 2 ^ 32), (0x16, fun x y _ => if 32 ≤ y then 0 else x >>> y)]

/-- The floating-point lanes, by VOP, each on exact values. -/
def fpLanes : List (Nat × (FV → FV → FV → FV)) :=
  [(0x02, fun x y _ => fvAdd x y), (0x03, fun x y _ => fvAdd x (fvNeg y)), (0x04, fun x y _ => fvMul x y), (0x05, fun x y z => fvFma x y z)]

/-- An INT32 lane gives its word, cut to 32 bits already. -/
theorem laneOp_int {i : Nat × (Nat → Nat → Nat → Nat)} (hi : i ∈ intLanes) {x y : Nat} (hx : x < 2 ^ 32) (hy : y < 2 ^ 32) (z : Nat) :
    laneOp i.1 3 x y z % 2 ^ 32 = i.2 x y z := by
  have hwidth : 8 * dtBytes 3 = 32 := rfl
  simp only [intLanes, List.mem_cons, List.not_mem_nil, or_false] at hi
  rcases hi with rfl | rfl | rfl | rfl | rfl | rfl | rfl | rfl | rfl <;> simp only [laneOp, if_true, hwidth, ge_iff_le]
  iterate 4 exact Nat.mod_mod ..
  · exact Nat.mod_eq_of_lt (Nat.and_lt_two_pow _ hy)
  · exact Nat.mod_eq_of_lt (Nat.or_lt_two_pow hx hy)
  · exact Nat.mod_eq_of_lt (Nat.xor_lt_two_pow hx hy)
  · rw [Nat.shiftLeft_eq]
    split
    · rfl
    · exact Nat.mod_mod ..
  · rw [Nat.shiftRight_eq_div_pow]
    split
    · rfl
    · exact Nat.mod_eq_of_lt ((Nat.div_le_self ..).trans_lt hx)

theorem laneOp_fp {i : Nat × (FV → FV → FV → FV)} (hi : i ∈ fpLanes) {dt : Nat} (hdt : dt ≤ 2) (x y z : Nat) :
    laneOp i.1 dt x y z = fpEncode (dtFmt dt) (i.2 (fpDecode (dtFmt dt) x) (fpDecode (dtFmt dt) y) (fpDecode (dtFmt dt) z)) := by
  have hfloat : dt ≠ 3 := by omega
  simp only [fpLanes, List.mem_cons, List.not_mem_nil, or_false] at hi
  rcases hi with rfl | rfl | rfl | rfl <;> exact if_neg hfloat

/-- The lane operations of two operands, and FMA. -/
def binaryVops : List Nat := [0x02, 0x03, 0x04, 0x05, 0x12, 0x13, 0x14, 0x15, 0x16]

theorem intLanes_vop {i : Nat × (Nat → Nat → Nat → Nat)} (hi : i ∈ intLanes) :
    i.1 ∈ binaryVops := by
  simp only [intLanes, List.mem_cons, List.not_mem_nil, or_false] at hi
  rcases hi with rfl | rfl | rfl | rfl | rfl | rfl | rfl | rfl | rfl <;> simp [binaryVops]

theorem fpLanes_vop {i : Nat × (FV → FV → FV → FV)} (hi : i ∈ fpLanes) :
    i.1 ∈ binaryVops := by
  simp only [fpLanes, List.mem_cons, List.not_mem_nil, or_false] at hi
  rcases hi with rfl | rfl | rfl | rfl <;> simp [binaryVops]

/-- A data result goes to its row, with the inactive elements as they were. -/
theorem finishData_row {c : Core} {b row : Nat} (hsum : vSumOp b = 0) (hd : opdOf (vD b) = .row row) (act : List Bool) (res : List Nat) :
    finishData c b act res = .ok (setRow c row (mergeRow (dtBytes (vDtype b)) (cacheRow c row) act res)) := by
  simp only [finishData, writeRow_row _ hd, keepRow_row hd, putSum_none _ _ _ hsum]
  rfl

/-- The lane operation gives the active elements of its row the values of lane, on the elements of A, B and, for FMA, C; the other elements of
the row, every other row, and all else of the core stay as they were. -/
def LaneGives (vop : Nat) (c : Core) (beats : List (Nat × Bytes)) (b row : Nat) (lane : Nat → Nat → Nat → Nat) : Prop :=
  ∃ c', opLane vop c beats b = .ok c' ∧ { c' with cache := c.cache } = c ∧ (∀ r, r ≠ row → cacheRow c' r = cacheRow c r) ∧
    ∀ e, e < dtCount (vDtype b) → (elems (dtBytes (vDtype b)) (cacheRow c' row)).getD e 0 =
      if (activeList c b).getD e false then
        lane ((dataElems c beats b (vA b)).getD e 0) ((dataElems c beats b (vB b)).getD e 0)
          ((dataElems c beats b (if vop = 0x05 then vC b else vA b)).getD e 0)
      else (elems (dtBytes (vDtype b)) (cacheRow c row)).getD e 0

/-- A lane operation of two operands, or FMA, gives its values cut to the size of an element. -/
theorem opLane_gives (c : Core) (beats : List (Nat × Bytes)) {b row vop : Nat} (hsum : vSumOp b = 0) (hd : opdOf (vD b) = .row row)
    (hvop : vop ∈ binaryVops) :
    LaneGives vop c beats b row fun x y z => laneOp vop (vDtype b) x y z % 2 ^ (8 * dtBytes (vDtype b)) := by
  have hlane : opLane vop c beats b = laneResult vop c beats b := by
    simp only [binaryVops, List.mem_cons, List.not_mem_nil, or_false] at hvop
    rcases hvop with rfl | rfl | rfl | rfl | rfl | rfl | rfl | rfl | rfl <;> rfl
  have htwo : ¬ (vop = 0x08 ∨ vop = 0x09) := by
    rintro (rfl | rfl) <;> simp [binaryVops] at hvop
  rw [LaneGives, hlane, laneResult, finishData_row hsum hd, if_neg htwo, ← apply_ite (dataElems c beats b)]
  have hsize := dtBytes_cases (vDtype b)
  have hold : (cacheRow c row).length = dtCount (vDtype b) * dtBytes (vDtype b) := (length_cacheRow ..).trans (dtCount_mul _).symm
  have hact := length_activeList c b
  refine ⟨_, rfl, rfl, fun r hr => cacheRow_setRow_ne _ _ hr, fun e he => ?_⟩
  rw [cacheRow_setRow_self _ _ ((length_mergeRow hsize hold hact (by simp)).trans (dtCount_mul _)), elems_getD hsize,
    numAt_mergeRow hsize hold hact (by simp) he, elems_getD hsize]
  simp [List.getD_eq_getElem?_getD, he]

/-- What lanes give depends on their values for operands of the size of an element alone. -/
theorem LaneGives.congr {vop : Nat} {c : Core} {beats : List (Nat × Bytes)} {b row : Nat} {lane lane' : Nat → Nat → Nat → Nat}
    (h : LaneGives vop c beats b row lane) (hlane : ∀ x y z, x < 2 ^ (8 * dtBytes (vDtype b)) → y < 2 ^ (8 * dtBytes (vDtype b)) →
      lane x y z = lane' x y z) : LaneGives vop c beats b row lane' := by
  obtain ⟨c', hc', hframe, hrows, helems⟩ := h
  refine ⟨c', hc', hframe, hrows, fun e he => (helems e he).trans (if_congr Iff.rfl ?_ rfl)⟩
  exact hlane _ _ _ (dataElems_lt ..) (dataElems_lt ..)

/-! ## Conversions (R207, R255 to R257, R261) -/

/-- The draws of SR_CVT, or none for CVT, and the core that has drawn them (R206, R261). -/
def cvtDraws (sr : Bool) (c : Core) (b : Nat) : List Nat × Core :=
  if sr then drawRow c (vC b) (dtCount (vDtype b)) else ([], c)

theorem length_drawRow (c : Core) (o ne : Nat) : (drawRow c o ne).1.length = ne := by
  unfold drawRow
  split
  · split <;> simp [rangeFrom_eq_range']
  · simp

theorem drawRow_cache (c : Core) (o ne : Nat) : (drawRow c o ne).2.cache = c.cache := by
  unfold drawRow
  split
  · split <;> rfl
  · rfl

theorem cvtDraws_cache (sr : Bool) (c : Core) (b : Nat) : (cvtDraws sr c b).2.cache = c.cache := by
  cases sr
  · rfl
  · exact drawRow_cache ..

/-- Each source element with whether it is active and its draw. -/
def cvtSource (sr : Bool) (c : Core) (beats : List (Nat × Bytes)) (b : Nat) : List (Bool × Nat × Option Nat) :=
  (activeList c b).zip ((dataElems c beats b (vA b)).zip
    (if sr then (cvtDraws sr c b).1.map some else (dataElems c beats b (vA b)).map fun _ => none))

@[simp] theorem length_cvtSource (sr : Bool) (c : Core) (beats : List (Nat × Bytes)) (b : Nat) :
    (cvtSource sr c beats b).length = dtCount (vDtype b) := by
  cases sr <;> simp [cvtSource, cvtDraws, length_drawRow]

theorem cvtSource_getElem (sr : Bool) (c : Core) (beats : List (Nat × Bytes)) (b : Nat) {e : Nat} (he : e < (cvtSource sr c beats b).length) :
    (cvtSource sr c beats b)[e] = ((activeList c b).getD e false, (dataElems c beats b (vA b)).getD e 0,
      if sr then some ((cvtDraws sr c b).1.getD e 0) else none) := by
  have hcount : e < dtCount (vDtype b) := by simpa using he
  cases sr <;> simp [cvtSource, cvtDraws, List.getD_eq_getElem?_getD, length_drawRow, hcount]

/-- Results as bytes, with zeros for inactive elements. -/
def zeroRow (size : Nat) (act : List Bool) (res : List Nat) : Bytes :=
  unElems size (List.zipWith (fun (p : Bool) x => if p then x else 0) act res)

section
variable (size : Nat) {n : Nat} {act : List Bool} (hact : act.length = n) {res : List Nat} (hres : res.length = n)
include hact hres

theorem length_zeroRow : (zeroRow size act res).length = n * size := by
  simp [zeroRow, length_unElems, hact, hres]

theorem numAt_zeroRow {k : Nat} (hk : k < n) :
    numAt (zeroRow size act res) (k * size) size = if act.getD k false then res.getD k 0 % 2 ^ (8 * size) else 0 := by
  have hzero : (List.zipWith (fun (p : Bool) x => if p then x else 0) act res).getD k 0 = if act.getD k false then res.getD k 0 else 0 := by
    simp [List.getD_eq_getElem?_getD, hact, hres, hk]
  rw [zeroRow, numAt_unElems size (by simp [hact, hres, hk]), hzero]
  split
  · rfl
  · exact Nat.zero_mod _

end

/-- The row that a conversion writes: merged element by element where the width stays, else placed in it with zeros for inactive elements. -/
def placedRow (width size place : Nat) (old : Bytes) (act : List Bool) (res : List Nat) : Bytes :=
  if size = width then mergeRow size old act res else spliceLine old place (zeroRow size act res)

section
variable {width size place n : Nat} (hwhole : size = width → n * size = 4096) (hfits : place + n * size ≤ 4096) {old : Bytes}
  (hold : old.length = 4096) {act : List Bool} (hact : act.length = n) {res : List Nat} (hres : res.length = n)
include hwhole hfits hold hact hres

theorem getD_placedRow_outside {j : Nat} (hj : j < place ∨ place + n * size ≤ j) (hrow : j < 4096) :
    (placedRow width size place old act res).getD j 0 = old.getD j 0 := by
  have hbytes := length_zeroRow size hact hres
  unfold placedRow
  split
  · rename_i h
    have hn := hwhole h
    omega
  · exact getD_spliceLine_outside (by omega) (by omega)

variable (hwidth : width = 2 ∨ width = 4)
include hwidth

theorem length_placedRow : (placedRow width size place old act res).length = 4096 := by
  have hbytes := length_zeroRow size hact hres
  unfold placedRow
  split
  · rename_i h
    have hn := hwhole h
    subst h
    rw [length_mergeRow hwidth (hold.trans hn.symm) hact hres, hn]
  · rw [length_spliceLine (by omega), hold]

theorem numAt_placedRow {k : Nat} (hk : k < n) : numAt (placedRow width size place old act res) (place + k * size) size =
    if act.getD k false then res.getD k 0 % 2 ^ (8 * size) else if size = width then numAt old (place + k * size) size else 0 := by
  unfold placedRow
  by_cases h : size = width
  · have hn := hwhole h
    obtain rfl : place = 0 := by omega
    subst h
    rw [if_pos rfl, if_pos rfl, Nat.zero_add, numAt_mergeRow hwidth (hold.trans hn.symm) hact hres hk]
  · have hbytes := length_zeroRow size hact hres
    have hlast : k * size + size ≤ n * size := by
      rw [← Nat.succ_mul]
      exact Nat.mul_le_mul_right _ hk
    rw [if_neg h, if_neg h, numAt_spliceLine (by omega) (by omega), numAt_zeroRow size hact hres hk]

end

/-- The format code of a conversion's target, its element width, and whether that is wider than the source's (R255). -/
def cvtTarget (b : Nat) : Nat := nbits (vB b) 0 4
def cvtSize (b : Nat) : Nat := codeBytes (cvtTarget b)
def cvtWide (b : Nat) : Bool := decide (dtBytes (vDtype b) < cvtSize b)

/-- Where a conversion puts its results in the row, the first source element it takes, and how many (R255, R256). -/
def cvtPlace (b : Nat) : Nat := if cvtWide b then 0 else 128 * nbits (vB b) 4 5
def cvtFirst (b : Nat) : Nat := if cvtWide b then 1024 * nbits (vB b) 4 1 else 0
def cvtCount (b : Nat) : Nat := if cvtWide b then 1024 else dtCount (vDtype b)

/-- The source elements that a conversion takes. -/
def cvtTaken (sr : Bool) (c : Core) (beats : List (Nat × Bytes)) (b : Nat) : List (Bool × Nat × Option Nat) :=
  ((cvtSource sr c beats b).drop (cvtFirst b)).take (cvtCount b)

/-- A conversion to a format of R255 that is no MX format. -/
theorem codeBytes_cases {t : Nat} (h : t ≤ 4 ∨ t = 0xA ∨ t = 0xB) : isMx t = false ∧ (codeBytes t = 1 ∨ codeBytes t = 2 ∨ codeBytes t = 4) := by
  rcases h with h | rfl | rfl
  · interval_cases t <;> decide
  · decide
  · decide

theorem cvtTaken_getElem (sr : Bool) (c : Core) (beats : List (Nat × Bytes)) {b k : Nat} (hk : k < (cvtTaken sr c beats b).length) :
    (cvtTaken sr c beats b)[k] = ((activeList c b).getD (cvtFirst b + k) false, (dataElems c beats b (vA b)).getD (cvtFirst b + k) 0,
      if sr then some ((cvtDraws sr c b).1.getD (cvtFirst b + k) 0) else none) := by
  simp only [cvtTaken, List.getElem_take, List.getElem_drop, cvtSource_getElem]

section
variable {b : Nat} (ht : cvtTarget b ≤ 4 ∨ cvtTarget b = 0xA ∨ cvtTarget b = 0xB)
include ht

/-- A conversion takes elements that its source has: half of them where it widens. -/
theorem cvtFirst_add_count : cvtFirst b + cvtCount b ≤ dtCount (vDtype b) := by
  unfold cvtFirst cvtCount
  split
  · rename_i hwide
    have hwider : dtBytes (vDtype b) < cvtSize b := by simpa [cvtWide] using hwide
    have hsize : cvtSize b = 1 ∨ cvtSize b = 2 ∨ cvtSize b = 4 := (codeBytes_cases ht).2
    have hbytes : dtBytes (vDtype b) = 2 := by have := dtBytes_cases (vDtype b); omega
    have hhalf : nbits (vB b) 4 1 < 2 := Nat.mod_lt _ (by decide)
    rw [dtCount, hbytes]
    omega
  · omega

theorem length_cvtTaken (sr : Bool) (c : Core) (beats : List (Nat × Bytes)) : (cvtTaken sr c beats b).length = cvtCount b := by
  have := cvtFirst_add_count ht
  simp [cvtTaken]
  omega

end

theorem cvtCount_whole {b : Nat} (h : cvtSize b = dtBytes (vDtype b)) : cvtCount b * cvtSize b = 4096 := by
  simp [cvtCount, cvtWide, h, dtCount_mul]

/-- A converted element: unchanged where its format stays, an integer, or rounded once (R255, R257, R261). -/
theorem cvtElem_eq (sr : Bool) (dt t u x : Nat) : cvtElem dt t (if sr then some u else none) x =
    if dt = 0 ∧ t = 0 ∨ dt = 3 ∧ t = 0xB then x
    else if t = 0xA ∨ t = 0xB then toIntSat (8 * codeBytes t) (if sr then some u else none) (srcValue dt x)
    else if sr then fpEncodeSr (codeFmt t) u (srcValue dt x) else fpEncode (codeFmt t) (srcValue dt x) := by
  unfold cvtElem
  refine if_congr (by simp) rfl ?_
  by_cases hbyte : t = 0xA
  · subst hbyte
    rfl
  by_cases hword : t = 0xB
  · subst hword
    rfl
  · rw [if_neg hbyte, if_neg hword, if_neg (not_or.mpr ⟨hbyte, hword⟩)]
    cases sr <;> rfl

section
variable {sr : Bool} {c : Core} {beats : List (Nat × Bytes)} {b row : Nat} (hsum : vSumOp b = 0) (hd : opdOf (vD b) = .row row)
include hsum hd

theorem opCvt_row (hmx : isMx (cvtTarget b) = false) : opCvt sr c beats b = .ok (setRow (cvtDraws sr c b).2 row
    (placedRow (dtBytes (vDtype b)) (cvtSize b) (cvtPlace b) (cacheRow c row) ((cvtTaken sr c beats b).map (·.1))
      ((cvtTaken sr c beats b).map fun p => cvtElem (vDtype b) (cvtTarget b) p.2.2 p.2.1))) := by
  have hkeep : keepRow (cvtDraws sr c b).2 (vD b) = cacheRow c row := (keepRow_row hd).trans (cacheRow_of_cache (cvtDraws_cache ..) _)
  have hdraws : (if sr = true then drawRow c (vC b) (dtCount (vDtype b)) else ([], c)) = cvtDraws sr c b := rfl
  have htarget : nbits (vB b) 0 4 = cvtTarget b := rfl
  simp only [opCvt, hdraws, htarget, hmx, Bool.false_eq_true, if_false, hkeep, writeRow_row _ hd, putSum_none _ _ _ hsum]
  rfl

/-- What a conversion leaves: its results at their place of its row, and all else as it was but the stream of the draws. -/
theorem opCvt_placed (ht : cvtTarget b ≤ 4 ∨ cvtTarget b = 0xA ∨ cvtTarget b = 0xB) (hfits : cvtPlace b + cvtCount b * cvtSize b ≤ 4096) :
    ∃ c', opCvt sr c beats b = .ok c' ∧ { c' with cache := c.cache } = (cvtDraws sr c b).2 ∧
      (∀ r, r ≠ row → cacheRow c' r = cacheRow c r) ∧
      (∀ k, k < cvtCount b → numAt (cacheRow c' row) (cvtPlace b + k * cvtSize b) (cvtSize b) =
        if (activeList c b).getD (cvtFirst b + k) false then
          cvtElem (vDtype b) (cvtTarget b) (if sr then some ((cvtDraws sr c b).1.getD (cvtFirst b + k) 0) else none)
            ((dataElems c beats b (vA b)).getD (cvtFirst b + k) 0) % 2 ^ (8 * cvtSize b)
        else if cvtSize b = dtBytes (vDtype b) then numAt (cacheRow c row) (cvtPlace b + k * cvtSize b) (cvtSize b) else 0) ∧
      ∀ j, j < 4096 → (j < cvtPlace b ∨ cvtPlace b + cvtCount b * cvtSize b ≤ j) → (cacheRow c' row).getD j 0 = (cacheRow c row).getD j 0 := by
  have hold := length_cacheRow c row
  have htaken := length_cvtTaken ht sr c beats
  have hact : ((cvtTaken sr c beats b).map (·.1)).length = cvtCount b := by simpa using htaken
  have hres : ((cvtTaken sr c beats b).map fun p => cvtElem (vDtype b) (cvtTarget b) p.2.2 p.2.1).length = cvtCount b := by simpa using htaken
  have hrow := cacheRow_setRow_self (cvtDraws sr c b).2 row
    (length_placedRow cvtCount_whole hfits hold hact hres (dtBytes_cases (vDtype b)))
  refine ⟨_, opCvt_row hsum hd (codeBytes_cases ht).1, ?_, fun r hr => ?_, fun k hk => ?_, fun j hj hout => ?_⟩
  · rw [← cvtDraws_cache sr c b]
    rfl
  · exact (cacheRow_setRow_ne _ _ hr).trans (cacheRow_of_cache (cvtDraws_cache ..) r)
  · have hk' : k < (cvtTaken sr c beats b).length := by omega
    rw [hrow, numAt_placedRow cvtCount_whole hfits hold hact hres (dtBytes_cases _) hk]
    simp [List.getD_eq_getElem?_getD, hk', cvtTaken_getElem]
  · rw [hrow, getD_placedRow_outside cvtCount_whole hfits hold hact hres hout hj]

end

/-- Settles O23: a lane operation gives its values cut to their size (`opLane_gives`), a conversion is placed (`opCvt_placed`), and what a
format holds is encoded as it stands (`fpEncode_fpDecode`). -/
theorem laneResults : Obligations.LaneResults := by
  refine ⟨fun c beats b row hdt hsum hd i hi => ?_, fun c beats b row hdt hsum hd => ?_, ?_, ?_⟩
  · have hbytes : dtBytes (vDtype b) = 4 := by rw [hdt]; rfl
    have hcount : dtCount (vDtype b) = 1024 := by rw [hdt]; rfl
    have hwidth : 8 * dtBytes (vDtype b) = 32 := by rw [hbytes]
    have hgives : LaneGives i.1 c beats b row i.2 := (opLane_gives c beats hsum hd (intLanes_vop hi)).congr fun x y z hx hy => by
      rw [hwidth] at hx hy ⊢
      rw [hdt, laneOp_int hi hx hy]
    simpa only [LaneGives, hbytes, hcount] using hgives
  · intro form size i hi
    exact (opLane_gives c beats hsum hd (fpLanes_vop hi)).congr fun x y z _ _ => by rw [laneOp_fp hi hdt]
  · intro sr c beats b row hsum hd dt target size wide place lo n draws ht hfits
    obtain ⟨c', hc', hframe, hrows, hplaced, hout⟩ := opCvt_placed (sr := sr) (c := c) (beats := beats) hsum hd ht hfits
    refine ⟨c', hc', hframe, hrows, fun k hk => ?_, hout⟩
    have hkept : wide = false ∧ size = dtBytes dt ↔ cvtSize b = dtBytes (vDtype b) :=
      ⟨And.right, fun h => ⟨decide_eq_false (Nat.not_lt.mpr h.le), h⟩⟩
    refine (hplaced k hk).trans ?_
    rw [cvtElem_eq]
    simp only [hkept]
    rfl
  · intro f hf x u hx _ hnan
    have hform : f.top = 2 ∧ 2 ≤ f.eb := by
      simp only [List.mem_cons, List.not_mem_nil, or_false] at hf
      rcases hf with rfl | rfl | rfl <;> decide
    exact fpEncode_fpDecode hform.1 hform.2 hx hnan u

end Sys2Proof.Machine
end

section
/-! The special-function unit (R226, R227): what a field gives its core, within its beat and at the beat's end, and the law for a field that
retires with no error of R229 in its way. -/

namespace Sys2Proof.Machine

open Sys2Proof.Safety

/-- The four functions of the unit, by operation. -/
def sfuFields (u : Nat) : List (Nat × (Nat → Nat) × Instr) := [(1, fpExp, .exp u), (2, fpLog, .log u), (3, fpRcp, .rcp u), (4, fpRsqrt, .rsqrt u)]

theorem exec_sfuField (s : State) (u : Nat) {i : Nat × (Nat → Nat) × Instr} (hi : i ∈ sfuFields u) :
    exec i.2.2 s = .next (sfuStep s u i.1 i.2.1) := by
  simp only [sfuFields, List.mem_cons, List.not_mem_nil, or_false] at hi
  rcases hi with rfl | rfl | rfl | rfl <;> rfl

/-- The assembly row once quarter SEL of a beat has gone through the function (R226). -/
def sfuRow (fn : Nat → Nat) (c : Core) (b : Nat) (bs : Bytes) : List Nat :=
  (padTo 1024 0 c.asm).take (256 * sSel b) ++ (((padTo 1024 0 (chunk4 bs)).drop (256 * sSel b)).take 256).map fn ++
    (padTo 1024 0 c.asm).drop (256 * (sSel b + 1))

section
variable {fn : Nat → Nat} {c d : Core} {b : Nat} {bs : Bytes} {items : List QItem}

theorem sfuField_goesOn (hhead : (getQ c (sIq b)).items = .beat bs :: items) (hsel : sSel b ≠ 3) (hmore : 1024 * (sSel b + 1) < bs.length) :
    sfuField fn c b = .ok { c with asm := sfuRow fn c b bs, asmOpen := true } := by
  have hwithin : ¬ (sSel b = 3 ∨ bs.length ≤ 1024 * (sSel b + 1)) := by omega
  simp only [sfuField, hhead, if_neg hwithin, sfuRow]

theorem sfuField_puts (hhead : (getQ c (sIq b)).items = .beat bs :: items) (hend : sSel b = 3 ∨ bs.length ≤ 1024 * (sSel b + 1))
    (hpush : pushQ (setQ c (sIq b) { getQ c (sIq b) with items := items }) (sOq b)
      (.beat (unElems 4 ((sfuRow fn c b bs).take (256 * (sSel b + 1))))) = some d) :
    sfuField fn c b = .ok { d with asm := [], asmOpen := false } := by
  rw [sfuRow] at hpush
  simp only [sfuField, hhead, if_pos hend, hpush]

/-- A field changes the queues and the assembly row of its unit, and nothing else. -/
theorem sfuField_frame (h : sfuField fn c b = .ok d) : d = { c with queues := d.queues, asm := d.asm, asmOpen := d.asmOpen } := by
  unfold sfuField at h
  split at h
  · cases h
  · cases h
  · dsimp only at h
    split at h
    · split at h
      · rename_i e hpush
        obtain rfl := EngRes.ok.inj h
        rw [pushQ_frame hpush, setQ_frame]
      · cases h
    · obtain rfl := EngRes.ok.inj h
      rfl

theorem checkedSfu_ok (h : sfuField fn c b = .ok d) (hharm : sfuHarm c b < 2) : checkedSfu fn c b = .ok d := by
  simp only [checkedSfu, h, if_neg (Nat.not_le.mpr hharm)]

end

/-- A core counts the field in CORE_SFU_COUNT (R250); a stack engine has no such register. -/
def sfuCounted (s : State) (u : Nat) : State := if isSE u then s else fbump s fCORE_SFU_COUNT_COUNT u 0 1

section
variable {s : State} {u : Nat} {f : QField} {rest : List QField} (hfield : fieldAt s u 3 f rest) (hharm : sfuHarm (getCore s u) f.bits < 2)
include hfield hharm

theorem countRom_of_noHarm (t : State) : countRom s t u = t := by
  have hnone : sfuHarm (getCore s u) f.bits ≠ 2 := by omega
  simp [countRom, hfield.2, hnone]

/-- A field that no check of R229 stops retires, and is counted. -/
theorem sfuStep_retires {k : Nat} {fn : Nat → Nat} {c1 c2 c3 : Core} (hop : fOp4 f.bits = k) (htake : takeBaton (getCore s u) f.bits = .ok c1)
    (hrun : sfuField fn c1 f.bits = .ok c2) (hput : putBaton c2 f.bits = .ok c3) :
    sfuStep s u k fn = settleNops (sfuCounted (retired s u 3 rest c3) u) u := by
  have hkept : sfuHarm c1 f.bits = sfuHarm (getCore s u) f.bits := by rw [takeBaton_frame htake]; rfl
  have hseq : c2.seq = c1.seq := by rw [sfuField_frame hrun]
  rw [sfuStep, countRom_of_noHarm hfield hharm,
    countedField_retires hfield (by simp [hop]) htake (checkedSfu_ok hrun (hkept ▸ hharm)) hseq hput]
  rfl

end

/-- Settles O24: a field within its beat keeps the row open (`sfuField_goesOn`), one at the beat's end puts it (`sfuField_puts`). -/
theorem specialFunctionFields : Obligations.SpecialFunctionFields := by
  intro s u f rest c1 c2 c3 bs items hfield htake hhead b q done hput hharm i hi hop quarter row
  have hretires (hrun : sfuField i.2.1 c1 b = .ok c2) : exec i.2.2 s = .next (done c3) := by
    rw [exec_sfuField s u hi, sfuStep_retires hfield hharm hop htake hrun hput]
    rfl
  refine ⟨fun hsel hmore hc => hretires ?_, fun hend d hpush hc => hretires ?_⟩
  · rw [hc]
    exact sfuField_goesOn hhead hsel hmore
  · rw [hc]
    exact sfuField_puts hhead hend hpush

end Sys2Proof.Machine
end

section
/-! What a memory reads after a write (R266, R270, R273): the bytes written, and every other byte as before. -/

namespace Sys2Proof.Machine

/-- A write leaves every byte above it alone. -/
theorem memGet_memWrite_above (m : Mem) (a j : Nat) (bs : Bytes) (h : a + bs.length ≤ j) : memGet (memWrite m a bs) j = memGet m j := by
  induction bs generalizing m a with
  | nil => rfl
  | cons b bs ih =>
    rw [List.length_cons] at h
    rw [memWrite, ih _ _ (by omega), memGet_memSet_ne _ _ (by omega)]

/-- Bytes written together read back together: the first is below what the rest of the write touches. -/
theorem memRead_memWrite_self (m : Mem) (a : Nat) (bs : Bytes) : memRead (memWrite m a bs) a bs.length = bs := by
  induction bs generalizing m a with
  | nil => rfl
  | cons b bs ih =>
    have hfirst : memGet (memWrite (memSet m a b) (a + 1) bs) a = b := by
      rw [memGet_memWrite_below _ _ _ _ (Nat.lt_succ_self a), memGet_memSet_self]
    rw [memWrite, List.length_cons, memRead, hfirst, ih]

/-- Settles O5: canonical form, read-back, and the frame on either side of what is written. -/
theorem memoryReadsWhatWasWritten : Obligations.MemoryReadsWhatWasWritten := by
  intro m a bs hwf
  refine ⟨memory_wf_memWrite m a bs hwf, memRead_memWrite_self m a bs, fun b hb => ?_⟩
  rcases hb with hbelow | habove
  · exact memGet_memWrite_below m a b bs hbelow
  · exact memGet_memWrite_above m a b bs habove

end Sys2Proof.Machine
end

section
/-! A pseudo-channel that fails PHY training (R286, R581), in a stack that lists it as lost (R514) and is not DEGRADED: it is not declared failed
again, and the stack stays as it is. -/

namespace Sys2Proof.Machine

/-! ## The phase tells whether the lists were requested (R573, R574) -/

theorem bootPhase_setPhase (s : State) (v : Nat) : bootPhase (setPhase s v) = v % 16 := fget_fput_self ..

theorem bootPhase_bootFail (s : State) (reason : Nat) : bootPhase (bootFail s reason) = 15 :=
  (fget_fput_ne _ _ _ _ _ _ _ _ (by decide)).trans (bootPhase_setPhase s 15)

theorem bootPhase_notify (s : State) (entry : Bool) (data : Nat) : bootPhase (notify s entry data) = bootPhase s := rfl

/-- The end of step 5 goes on to LISTS or to FAILED, or boot waits and nothing changes. -/
theorem startLists_cases (s : State) : startLists s = s ∨ bootPhase (startLists s) = 2 ∨ bootPhase (startLists s) = 15 := by
  unfold startLists
  split
  · split
    · exact .inr (.inl (by rw [bootPhase_notify, bootPhase_setPhase]))
    · exact .inr (.inr (bootPhase_bootFail ..))
  · exact .inl rfl

/-! ## The stack that has lost a pseudo-channel and is not DEGRADED -/

/-- A part that boots, whose region 0 lists pseudo-channel 0 of its first stack among those lost to a second failure. No stack is DEGRADED. -/
def lostUndegraded : State := { State.reset with
  pins := { State.reset.pins with powerGood := true, perstN := true }
  regions := [(0, { regionReset with lostPcs := [0] })] }

/-- That part after its built-in test has named that pseudo-channel, unit 528. -/
def trainingFailed : State := builtInTest lostUndegraded [(528, 0)] []

/-- Refutes O58: a pseudo-channel already in the list of those lost (R514) fails PHY training, and its stack is not marked DEGRADED; the statement
has every such failure degrade the stack (R286). It asks this of every state, and `lostUndegraded` is one that the model's own commands do not
make: they add to that list on a DEGRADED stack alone. The clause lacks that condition on the state. -/
theorem not_resetsAndBoot : ¬ Obligations.ResetsAndBoot := by
  rintro ⟨-, -, -, htest, -⟩
  obtain ⟨-, hruns⟩ := htest lostUndegraded [(528, 0)] []
  obtain ⟨t, hexec, -, -, -, hdegraded, -⟩ := hruns (by decide +kernel) (by decide +kernel)
  have hstack : stackDegraded t 0 0 = true := hdegraded 528 0 (by simp) (by decide) (by decide +kernel)
  have hafter : trainingFailed = startLists t := Host.Outcome.next.inj hexec
  have hphase : bootPhase trainingFailed = 1 := by decide +kernel
  rcases startLists_cases t with hwaits | hlists | hfailed
  · rw [← hwaits, ← hafter] at hstack
    exact absurd hstack (by decide +kernel)
  · rw [← hafter, hphase] at hlists
    exact absurd hlists (by decide)
  · rw [← hafter, hphase] at hfailed
    exact absurd hfailed (by decide)

end Sys2Proof.Machine
end

section
/-! A tile transposed (R310): the rows of its destination are the columns of its source. -/

namespace Sys2Proof.Machine

/-- Piece j of a list cut into pieces of n. -/
theorem getElem_blocksOf {α : Type} (n : Nat) {k j : Nat} (l : List α) (hj : j < (blocksOf n k l).length) :
    (blocksOf n k l)[j] = (l.drop (j * n)).take n := by
  induction k generalizing l j with
  | zero => cases hj
  | succ k ih =>
    cases j with
    | zero => simp [blocksOf]
    | succ j => simp [blocksOf, ih, Nat.succ_mul, Nat.add_comm]

/-- Pieces of one length, laid end to end: place k of piece i. -/
theorem flatMap_getD {α β : Type} (d : β) {n i k : Nat} {f : α → List β} {l : List α} (hlen : ∀ a ∈ l, (f a).length = n)
    (hi : i < l.length) (hk : k < n) : (l.flatMap f).getD (i * n + k) d = (f l[i]).getD k d := by
  induction l generalizing i with
  | nil => cases hi
  | cons a l ih =>
    have ha : (f a).length = n := hlen a (by simp)
    rw [List.flatMap_cons]
    cases i with
    | zero => rw [Nat.zero_mul, Nat.zero_add, List.getD_append _ _ _ _ (ha ▸ hk), List.getElem_cons_zero]
    | succ i =>
      have hpast : (f a).length ≤ (i + 1) * n + k := by rw [ha, Nat.succ_mul]; omega
      have hplace : (i + 1) * n + k - (f a).length = i * n + k := by rw [ha, Nat.succ_mul]; omega
      rw [List.getD_append_right _ _ _ _ hpast, hplace, ih (fun b hb => hlen b (by simp [hb])) (Nat.lt_of_succ_lt_succ hi),
        List.getElem_cons_succ]

/-- Row j of a tile transposed is column j of the tile. -/
theorem hingeRows_transpose {w j : Nat} (idx : List Nat) (src : List Bytes) (hop : hPermute w = false) (hj : j < hCols w) :
    (hingeRows w idx src).getD j [] = src.flatMap fun r => (r.drop (j * hSize w)).take (hSize w) := by
  simp [hingeRows, hop, tileColumn, rangeFrom_eq_range', hj, List.flatMap_map, getElem_blocksOf]

/-- Settles O34: row j of the destination is column j of the tile, and the bytes of its element i are those of element j of row i. -/
theorem transposeMovesElements : Obligations.TransposeMovesElements := by
  intro w src i j k hop hrows hlen hi hj hk
  have hin : i < src.length := hrows ▸ hi
  have hfits : j * hSize w + hSize w ≤ hCols w * hSize w := by
    rw [← Nat.succ_mul]
    exact Nat.mul_le_mul_right _ hj
  have hpiece : ∀ r ∈ src, ((r.drop (j * hSize w)).take (hSize w)).length = hSize w := fun r hr => by
    rw [List.length_take, List.length_drop, hlen r hr]
    omega
  rw [hingeRows_transpose [] src hop hj, flatMap_getD 0 hpiece hin hk]
  simp [List.getD_eq_getElem?_getD, hk, hin]

end Sys2Proof.Machine
end

section
/-! The XFR field (R125, R307, R308, R327, R340) and the hinge network (R308 to R314): how a field at the head of the queue ends, and what
becomes of an operation. -/

namespace Sys2Proof.Machine

open Sys2Proof.Safety

/-! ## The step of the XFR field (R125, R127, R138) -/

/-- The fields of XFR, by operation. -/
def xfrFields (u : Nat) : List (Nat × Instr) := [(1, .hingeSubmit u), (2, .hingeWait u), (3, .dmaKick u), (4, .dmaWait u)]

/-- What the field of an operation does to its part. -/
def xfrOp (u k : Nat) : State → QField → MvRes :=
  match k with
  | 1 => hingeSubmit u
  | 2 => hingeWait u
  | 3 => dmaKick u
  | _ => dmaWait u

theorem exec_xfrField (s : State) (u : Nat) {i : Nat × Instr} (hi : i ∈ xfrFields u) :
    exec i.2 s = .next (xfrStep s u i.1 (xfrOp u i.1)) := by
  simp only [xfrFields, List.mem_cons, List.not_mem_nil, or_false] at hi
  rcases hi with rfl | rfl | rfl | rfl <;> rfl

section
variable {s t : State} {u : Nat} {f : QField} {rest : List QField} {c1 c : Core} {i : Nat × Instr} (hfield : fieldAt s u 14 f rest)
  (htake : takeBaton (getCore s u) f.bits = .ok c1) (hi : i ∈ xfrFields u) (hop : fOp4 f.bits = i.1)
include hfield htake hi hop

/-- A field whose operation goes on retires. -/
theorem xfrField_retires (hres : xfrOp u (fOp4 f.bits) (setCore s u c1) f = .ok t) (hput : putBaton (getCore t u) f.bits = .ok c) :
    exec i.2 s = .next (settleNops (retired t u 14 rest c) u) := by
  obtain ⟨hrun, hhead⟩ := hfield
  rw [hop] at hres
  rw [exec_xfrField s u hi]
  simp [xfrStep, hrun, hhead, hop, htake, hres, hput, retired]

/-- A field whose operation halts stops its unit at its word. -/
theorem xfrField_halts {r d : Nat} (hres : xfrOp u (fOp4 f.bits) (setCore s u c1) f = .halt t r d) :
    exec i.2 s = .next (haltUnit t u r 14 f.pc d) := by
  obtain ⟨hrun, hhead⟩ := hfield
  rw [hop] at hres
  rw [exec_xfrField s u hi]
  simp [xfrStep, hrun, hhead, hop, htake, hres]

end

/-! ## HINGE_SUBMIT and HINGE_WAIT (R307 to R311, R314) -/

/-- The descriptor that a HINGE_SUBMIT names. -/
def submitted (s : State) (u : Nat) (f : QField) : Nat := leNat (memRead (getCore s u).store (xDesc f.bits * 4096) 64)

/-- The read of that descriptor, with its check. -/
def readSubmitted (s : State) (u : Nat) (f : QField) : EccRes := hingeReads u (runSlot s u) [(.cs u (xDesc f.bits * 4096), 64)] s

section
variable {s t v : State} {u : Nat} {f : QField} (hfree : hingeBusy s u (xUnit f.bits) = false)
  (hroom : (getBlock s (u / 8)).hingeQ.length < 16)
include hfree hroom

/-- A descriptor that does not read halts the core. -/
theorem hingeSubmit_unread {r d : Nat} (hread : readSubmitted s u f = .halt t r d) : hingeSubmit u s f = .halt t r d := by
  rw [readSubmitted] at hread
  simp [hingeSubmit, hfree, Nat.not_le.mpr hroom, hread]

section
variable (hread : readSubmitted s u f = .ok t)
include hread

theorem hingeSubmit_badShape {r d : Nat} (hshape : hingeShapeBad (xUnit f.bits) (submitted s u f) = some (r, d)) :
    hingeSubmit u s f = .halt t r d := by
  rw [submitted] at hshape
  rw [readSubmitted] at hread
  simp [hingeSubmit, hfree, Nat.not_le.mpr hroom, hread, hshape]

variable (hshape : hingeShapeBad (xUnit f.bits) (submitted s u f) = none)
include hshape

/-- An index that does not read halts the core. -/
theorem hingeSubmit_indexUnread {r d : Nat}
    (hindex : hingeReads u (runSlot s u) (indexPlace s u (submitted s u f)) t = .halt v r d) : hingeSubmit u s f = .halt v r d := by
  rw [submitted] at hshape hindex
  rw [readSubmitted] at hread
  simp [hingeSubmit, hfree, Nat.not_le.mpr hroom, hread, hshape, hindex]

variable (hindex : hingeReads u (runSlot s u) (indexPlace s u (submitted s u f)) t = .ok v)
include hindex

theorem hingeSubmit_bad {r d : Nat}
    (hbad : hingeBad s u (xUnit f.bits) (xDesc f.bits * 4096) (submitted s u f) = some (r, d)) : hingeSubmit u s f = .halt v r d := by
  rw [submitted] at hshape hindex hbad
  rw [readSubmitted] at hread
  simp [hingeSubmit, hfree, Nat.not_le.mpr hroom, hread, hshape, hindex, hbad]

theorem hingeSubmit_accepts (hgood : hingeBad s u (xUnit f.bits) (xDesc f.bits * 4096) (submitted s u f) = none) :
    hingeSubmit u s f = .ok (hingeAccept v u (xUnit f.bits) (submitted s u f) f.pc) := by
  rw [submitted] at hshape hindex hgood
  rw [readSubmitted] at hread
  simp [hingeSubmit, hfree, Nat.not_le.mpr hroom, hread, hshape, hindex, hgood, submitted]

end
end

theorem hingeWait_free {s : State} {u : Nat} {f : QField} (hfree : hingeBusy s u (xUnit f.bits) = false) : hingeWait u s f = .ok s := by
  simp [hingeWait, hfree]

/-! ## DMA_KICK and DMA_WAIT (R327, R340) -/

section
variable {s : State} {u : Nat} {f : QField}

theorem dmaKick_foreign (howner : chOwner s (.blk (unitBlock u)) (xUnit f.bits) ≠ some u) :
    dmaKick u s f = .halt s 0x03 (xUnit f.bits + 3 * 2 ^ 4 + 0x10 * 2 ^ 16) := by
  simp [dmaKick, howner]

theorem dmaWait_foreign (howner : chOwner s (.blk (unitBlock u)) (xUnit f.bits) ≠ some u) :
    dmaWait u s f = .halt s 0x03 (xUnit f.bits + 4 * 2 ^ 4 + 0x10 * 2 ^ 16) := by
  simp [dmaWait, howner]

variable (howner : chOwner s (.blk (unitBlock u)) (xUnit f.bits) = some u)
include howner

/-- An idle channel takes another ring at its start. -/
theorem dmaKick_newRing (hring : (getChan s (.blk (unitBlock u)) (xUnit f.bits)).ring ≠ xDesc f.bits * 4096)
    (hidle : chState s (.blk (unitBlock u)) (xUnit f.bits) = 0) :
    dmaKick u s f = .ok (settleChan (updChan (setChHead s (.blk (unitBlock u)) (xUnit f.bits) 0) (.blk (unitBlock u)) (xUnit f.bits)
      fun x => { x with ring := xDesc f.bits * 4096, pc := f.pc }) (.blk (unitBlock u)) (xUnit f.bits)) := by
  simp [dmaKick, howner, hring, hidle]

theorem dmaKick_sameRing (hring : (getChan s (.blk (unitBlock u)) (xUnit f.bits)).ring = xDesc f.bits * 4096)
    (hidle : chState s (.blk (unitBlock u)) (xUnit f.bits) = 0) :
    dmaKick u s f = .ok (settleChan (updChan s (.blk (unitBlock u)) (xUnit f.bits) fun x => { x with pc := f.pc })
      (.blk (unitBlock u)) (xUnit f.bits)) := by
  simp [dmaKick, howner, hring, hidle]

theorem dmaKick_running (hring : (getChan s (.blk (unitBlock u)) (xUnit f.bits)).ring = xDesc f.bits * 4096)
    (hbusy : chState s (.blk (unitBlock u)) (xUnit f.bits) ≠ 0) : dmaKick u s f = .ok s := by
  simp [dmaKick, howner, hring, hbusy]

theorem dmaWait_idle (hidle : chState s (.blk (unitBlock u)) (xUnit f.bits) = 0) : dmaWait u s f = .ok s := by
  simp [dmaWait, howner, hidle]

end

/-! ## The XFR fields -/

/-- Settles O32: each field goes on or halts as its operation does. -/
theorem transferFields : Obligations.TransferFields := by
  intro s u f rest c1 hfield htake b unit at_ e s1 done
  have goes : ∀ {k t}, fOp4 f.bits = k → xfrOp u k s1 f = .ok t → done t := fun hop hres c hput i hi hi_op =>
    xfrField_retires hfield htake hi hi_op (hop ▸ hres) hput
  have stops : ∀ {i t r d}, i ∈ xfrFields u → fOp4 f.bits = i.1 → xfrOp u i.1 s1 f = .halt t r d →
      exec i.2 s = .next (haltUnit t u r 14 f.pc d) := fun hi hop hres => xfrField_halts hfield htake hi hop (hop ▸ hres)
  refine ⟨?submit, fun hop hfree => goes hop (hingeWait_free hfree),
    fun hop howner hring hidle => goes hop (dmaKick_newRing howner hring hidle),
    fun hop howner hring hidle => goes hop (dmaKick_sameRing howner hring hidle),
    fun hop howner hring hbusy => goes hop (dmaKick_running howner hring hbusy),
    fun hop howner hidle => goes hop (dmaWait_idle howner hidle), ?foreign⟩
  case submit =>
    intro hop hfree hroom w read stop
    have halts : ∀ {t r d}, hingeSubmit u s1 f = .halt t r d → stop t r d :=
      fun hres => stops (i := (1, .hingeSubmit u)) (by simp [xfrFields]) hop hres
    have hw : w = submitted s1 u f := by rw [submitted, getCore_setCore_self]
    rw [hw]
    exact ⟨fun t r d hread => halts (hingeSubmit_unread hfree hroom hread),
      fun t r d hread hshape => halts (hingeSubmit_badShape hfree hroom hread hshape), fun t hread hshape =>
      ⟨fun v r d hindex => halts (hingeSubmit_indexUnread hfree hroom hread hshape hindex),
        fun v r d hindex hbad => halts (hingeSubmit_bad hfree hroom hread hshape hindex hbad),
        fun v hindex hgood => goes hop (hingeSubmit_accepts hfree hroom hread hshape hindex hgood)⟩⟩
  case foreign =>
    intro i hi hop howner
    simp only [List.mem_cons, List.not_mem_nil, or_false] at hi
    rcases hi with rfl | rfl
    · exact stops (by simp [xfrFields]) hop (dmaKick_foreign howner)
    · exact stops (by simp [xfrFields]) hop (dmaWait_foreign howner)

/-! ## HINGE_OPERATION and HINGE_COMPLETE (R267, R291, R308, R310, R314) -/

section
variable {s t v : State} {b : Nat} {op : HingeOp} {rest : List HingeOp} (hidle : (getBlock s b).hingeRun = none)
  (hqueue : (getBlock s b).hingeQ = op :: rest) (halive : blockAlive s b = true)
include hidle hqueue halive

/-- The operation of a fenced core is dropped. -/
theorem hingeStart_cut (hcut : isCut s 0 op.core = true) :
    hingeStart s b = setHingeSlot (updBlock s b fun x => { x with hingeQ := rest }) op.core op.slot 0 := by
  simp [hingeStart, hidle, hqueue, halive, hcut]

variable (hcut : isCut s 0 op.core = false)
include hcut

theorem hingeStart_runs (hchecks : hingeChecks s b op ((hSrcRows op.desc).map fun a => placeOf s (some op.core) a.toNat) = .ok t) :
    hingeStart s b = hingeRunOp s t b rest op ((hSrcRows op.desc).map fun a => placeOf s (some op.core) a.toNat) := by
  simp [hingeStart, hidle, hqueue, halive, hcut, hchecks]

theorem hingeStart_fails {r d : Nat}
    (hchecks : hingeChecks s b op ((hSrcRows op.desc).map fun a => placeOf s (some op.core) a.toNat) = .halt t r d) :
    hingeStart s b = hingeDrop t b rest op r d := by
  simp [hingeStart, hidle, hqueue, halive, hcut, hchecks]

end

theorem hingeDrop_running {s : State} {b r d : Nat} {rest : List HingeOp} {op : HingeOp}
    (hrun : (getCore (setHingeSlot (updBlock s b fun x => { x with hingeQ := rest, hingeRun := none }) op.core op.slot 0)
      op.core).seq.st = .running) : hingeDrop s b rest op r d =
    haltUnit (setHingeSlot (updBlock s b fun x => { x with hingeQ := rest, hingeRun := none }) op.core op.slot 0) op.core r 14 op.pc d :=
  if_pos hrun

/-- Settles O33: an operation that starts runs, is dropped, or halts its core, and one that has run completes. -/
theorem hingeOperations : Obligations.HingeOperations := by
  refine ⟨?_, ?_⟩
  · intro s b op rest hidle hqueue halive places src idx dst
    refine ⟨fun hcut => congrArg _ (hingeStart_cut hidle hqueue halive hcut), ?_, ?_⟩
    · intro hcut t hchecks s1 s2 v hwrites
      refine congrArg _ ((hingeStart_runs hidle hqueue halive hcut hchecks).trans ?_)
      rw [hingeRunOp, show hingeWrites op _ _ = .ok v from hwrites]
    · intro hcut t r d hchecks t1 hrun
      exact congrArg _ ((hingeStart_fails hidle hqueue halive hcut hchecks).trans (hingeDrop_running hrun))
  · intro s b op hrunning t count
    have hcomplete : hingeComplete s b = count (if hStaged t op.core op.desc then fbump t fBLK_HINGE_STATUS_STAGED_OPS b 0 1 else t) := by
      rw [hingeComplete, hrunning]
    refine ⟨fun hplain => ?_, fun hstaged => ?_⟩
    · exact congrArg Host.Outcome.next (hcomplete.trans (by simp [hplain]))
    · exact congrArg Host.Outcome.next (hcomplete.trans (by simp [hstaged]))

end Sys2Proof.Machine
end

section
/-! Table commands (R301, R491, R539): an image loaded out of lap service while the trackside recorder runs. -/

namespace Sys2Proof.Machine

/-! ## A table loaded while the recorder runs (R301, R538, R539) -/

/-- A part out of lap service whose trackside recorder has been enabled. -/
def recorderOn : State := trkEnable State.reset true

/-- The image of table 0 with one block of 64 KiB, in region 0 of this part: its header but for the check word, and its entry (R301). -/
def tableHeader : Nat := 0 + 16 * 2 ^ 8 + 1 * 2 ^ 16
def tableBlocks : Bytes := natLe 8 0
def tableImage : Bytes := natLe 60 tableHeader ++ natLe 4 (crc32c (natLe 60 tableHeader ++ tableBlocks)) ++ tableBlocks

/-- That part after the image has been loaded. -/
def recordedLoad : State := applyOwn recorderOn ⟨0, 0, some ⟨16, 1, []⟩, 0, 0⟩

theorem loadOwner_recorderOn : loadOwner recorderOn 0 tableImage = .inl recordedLoad := by decide +kernel

/-- Refutes O49: a recorder that has been enabled keeps in its journal the table that an image replaces (R539, log entry 15), out of lap service
as well, and the statement has the load of an OWNER_TABLE change nothing but the tables then. -/
theorem not_tableCommands : ¬ Obligations.TableCommands := by
  intro h
  obtain ⟨-, -, -, howner, -⟩ := h recorderOn 0
  obtain ⟨hframe, -⟩ := howner (by decide) 0 tableImage recordedLoad loadOwner_recorderOn
  have hjournal : recordedLoad.trk.journal = recorderOn.trk.journal := congrArg (·.trk.journal) hframe
  exact absurd hjournal (by decide +kernel)

end Sys2Proof.Machine
end

section
/-! Rings that are down (R497): reports write to rings, and each that fails is disabled with FAULT set; a ring that is down stays down through
all of that. -/

namespace Sys2Proof.Machine

/-! ## The keys of register fields (R10, R546) -/

theorem one_le_spaceIdx {sp : Space} (h : sp ≠ .host) : 1 ≤ spaceIdx sp := by
  cases sp <;> simp_all [spaceIdx]

/-- A field of the host's registers and one of another space have no copy in common. -/
theorem fldKey_ne_host {f g : Fld} {u sel sel' : Nat} (hf : f.space = .host) (hg : g.space ≠ .host) (hsel : sel < 65536)
    (hoff : f.off < 65536) (hlo : f.lo < 32) : fldKey g u sel' ≠ fldKey f 0 sel := by
  have hidx : 1 ≤ spaceIdx g.space := one_le_spaceIdx hg
  have hzero : spaceIdx f.space = 0 := by rw [hf]; rfl
  unfold fldKey
  omega

/-! ## Reports keep a failed ring down (R497) -/

/-- What fields are read from. -/
def regs (s : State) : Fuses × Tab Tri := (s.fuses, s.flds)

theorem fget_of_regs {s t : State} (h : regs t = regs s) (f : Fld) (u sel : Nat) : fget t f u sel = fget s f u sel := by
  obtain ⟨hfuses, hflds⟩ := Prod.ext_iff.mp h
  simp only [regs] at hfuses hflds
  rw [fget, fget, hfuses, hflds]

/-- A ring that is disabled stays so, and one whose FAULT is set keeps it. -/
structure RingStaysDown (sel : Nat) (s t : State) : Prop where
  off : ringOn s sel = false → ringOn t sel = false
  fault : fget s fHOST_RING_STATUS_FAULT 0 sel = 1 → fget t fHOST_RING_STATUS_FAULT 0 sel = 1

section
variable {sel : Nat}

theorem RingStaysDown.refl (s : State) : RingStaysDown sel s s := ⟨id, id⟩

theorem RingStaysDown.trans {s t u : State} (h : RingStaysDown sel s t) (h' : RingStaysDown sel t u) : RingStaysDown sel s u :=
  ⟨fun hs => h'.off (h.off hs), fun hs => h'.fault (h.fault hs)⟩

theorem RingStaysDown.of_regs {s t : State} (h : regs t = regs s) : RingStaysDown sel s t := by
  constructor
  · rw [ringOn, ringOn, fget_of_regs h]; exact id
  · rw [fget_of_regs h]; exact id

/-- A write of another field leaves a ring as it is. -/
theorem fput_ringStaysDown (s : State) {f : Fld} {u sel' : Nat} (v : Nat) (henable : fldKey fHOST_RING_CFG_ENABLE 0 sel ≠ fldKey f u sel')
    (hfault : fldKey fHOST_RING_STATUS_FAULT 0 sel ≠ fldKey f u sel') : RingStaysDown sel s (fput s f u sel' v) := by
  constructor
  · rw [ringOn, ringOn, fget_fput_ne _ _ _ _ _ _ _ _ henable]; exact id
  · rw [fget_fput_ne _ _ _ _ _ _ _ _ hfault]; exact id

theorem foldl_ringStaysDown {α : Type} {g : State → α → State} (h : ∀ s a, RingStaysDown sel s (g s a)) (l : List α) (s : State) :
    RingStaysDown sel s (l.foldl g s) := by
  induction l generalizing s with
  | nil => exact .refl s
  | cons a l ih => exact (h s a).trans (ih _)

/-- A ring that fails is disabled, with FAULT set. -/
theorem ringFaultMark_down (s : State) (sel : Nat) :
    ringOn (ringFaultMark s sel) sel = false ∧ fget (ringFaultMark s sel) fHOST_RING_STATUS_FAULT 0 sel = 1 := by
  have hkey : fldKey fHOST_RING_CFG_ENABLE 0 sel ≠ fldKey fHOST_RING_STATUS_FAULT 0 sel := by
    simp only [fldKey, fHOST_RING_CFG_ENABLE, fHOST_RING_STATUS_FAULT]
    omega
  simp [ringFaultMark, ringOn, fget_fput_ne _ _ _ _ _ _ _ _ hkey, show fHOST_RING_STATUS_FAULT.width = 1 from rfl]

theorem ringFaultMark_ringStaysDown (s : State) (sel' : Nat) : RingStaysDown sel s (ringFaultMark s sel') := by
  by_cases h : sel = sel'
  · subst h
    exact ⟨fun _ => (ringFaultMark_down s sel).1, fun _ => (ringFaultMark_down s sel).2⟩
  · have hput (f : Fld) (t : State) (v : Nat) (hf : f = fHOST_RING_CFG_ENABLE ∨ f = fHOST_RING_STATUS_FAULT) :
        RingStaysDown sel t (fput t f 0 sel' v) := by
      refine fput_ringStaysDown t v ?_ ?_ <;> rcases hf with rfl | rfl <;>
        (simp only [fldKey, fHOST_RING_CFG_ENABLE, fHOST_RING_STATUS_FAULT]; omega)
    have hmarked : regs (ringFaultMark s sel') = regs (fput (fput s fHOST_RING_CFG_ENABLE 0 sel' 0) fHOST_RING_STATUS_FAULT 0 sel' 1) := rfl
    exact ((hput _ s 0 (.inl rfl)).trans (hput _ _ 1 (.inr rfl))).trans (.of_regs hmarked)

/-! ### Interrupts, host memory, and what they are written with -/

theorem hostTouch_regs (s : State) (h n : Nat) : regs (hostTouch s h n) = regs s := by
  unfold hostTouch; split <;> rfl

theorem hostWrite_regs (s : State) (h : Nat) (b : Bytes) : regs (hostWrite s h b) = regs s := by
  unfold hostWrite; split <;> rfl

theorem fireVector_regs (s : State) (v : Nat) : regs (fireVector s v) = regs s := by
  unfold fireVector; (repeat' split) <;> rfl

theorem ringPut_regs {s t : State} {ring : Nat} {mk : Nat → Nat} (h : ringPut s ring mk = some t) : regs t = regs s := by
  unfold ringPut at h
  extract_lets sel p n a w touched written at h
  split at h
  · rw [← Option.some.inj h]
    calc regs (hostWrite written w _) = regs written := hostWrite_regs ..
      _ = regs touched := hostWrite_regs ..
      _ = regs s := (hostTouch_regs ..).trans (hostTouch_regs ..)
  · cases h

/-! ### Events -/

theorem putEvent_ringStaysDown (s : State) (ring : Nat) (mk : Nat → Nat) (irq : Bool) (how : RingEnd) :
    RingStaysDown sel s (putEvent s ring mk irq how).1 := by
  unfold putEvent
  split
  · rename_i t ht
    dsimp only
    split
    · exact .of_regs ((fireVector_regs ..).trans (ringPut_regs ht))
    · exact .of_regs (ringPut_regs ht)
  · exact ringFaultMark_ringStaysDown ..

theorem putLost_ringStaysDown (s : State) (ring count next : Nat) (irq : Bool) : RingStaysDown sel s (putLost s ring count next irq).1 := by
  have hcleared : RingStaysDown sel s (updHost s fun x => { x with lostRun := tabSet 0 x.lostRun ring next }) := .of_regs rfl
  exact hcleared.trans (putEvent_ringStaysDown ..)

theorem putOrLose_ringStaysDown (s : State) (ring : Nat) (mk : Nat → Nat) (irq : Bool) : RingStaysDown sel s (putOrLose s ring mk irq).1 := by
  unfold putOrLose
  extract_lets lost counted
  clear_value lost
  have hcounted : RingStaysDown sel s counted := by
    refine fput_ringStaysDown s _ ?_ ?_ <;>
      (simp only [fldKey, fHOST_RING_CFG_ENABLE, fHOST_RING_STATUS_FAULT, fHOST_RING_STATUS_LOST]; omega)
  clear_value counted
  split
  · exact putEvent_ringStaysDown ..
  · split
    · have hlost : RingStaysDown sel counted (updHost counted fun x => { x with lostRun := tabSet 0 x.lostRun ring lost }) := .of_regs rfl
      exact hcounted.trans hlost
    · exact hcounted.trans (putLost_ringStaysDown ..)

theorem ringEvent_ringStaysDown (s : State) (ring : Nat) (mk : Nat → Nat) (irq : Bool) : RingStaysDown sel s (ringEvent s ring mk irq).1 := by
  unfold ringEvent
  dsimp only
  split
  · exact putOrLose_ringStaysDown ..
  · split
    · exact putLost_ringStaysDown ..
    · exact (putLost_ringStaysDown ..).trans (putOrLose_ringStaysDown ..)

/-! ### Error records -/

theorem errRings_ringStaysDown (rec : Nat) (rings : List Nat) (s : State) (bad : List Nat) :
    RingStaysDown sel s (errRings rec rings s bad).1 := by
  induction rings generalizing s bad with
  | nil => exact .refl s
  | cons ring rings ih =>
    unfold errRings
    split
    · extract_lets r
      have hevent : RingStaysDown sel s r.1 := ringEvent_ringStaysDown ..
      clear_value r
      refine (hevent.trans ?_).trans (ih ..)
      split
      · exact .of_regs (fireVector_regs ..)
      · exact .refl _
    · exact ih ..

theorem partTake_ringStaysDown {out : State → Nat → State} (hout : ∀ s a, RingStaysDown sel s (out s a)) (s : State) (rec : Nat) :
    RingStaysDown sel s (partTake out s rec) := by
  unfold partTake
  extract_lets a taken
  have htaken : RingStaysDown sel s taken := .of_regs rfl
  clear_value a taken
  split <;> exact htaken.trans (hout ..)

section
variable (hsel : sel < 65536)
include hsel

theorem trkTrigger_ringStaysDown (s : State) : RingStaysDown sel s (trkTrigger s) := by
  have hput (g : Fld) (v : Nat) (hg : g.space ≠ .host) : RingStaysDown sel s (fput s g 0 0 v) :=
    fput_ringStaysDown s v (fldKey_ne_host rfl hg hsel (by decide) (by decide)).symm (fldKey_ne_host rfl hg hsel (by decide) (by decide)).symm
  unfold trkTrigger
  split
  · exact (hput fPART_TRK_STATUS_STATE 2 (by decide)).trans (.of_regs rfl)
  · exact hput fPART_TRK_STATUS_TRIGGERS _ (by decide)

theorem errOutN_ringStaysDown (n : Nat) (s : State) (rec : Nat) : RingStaysDown sel s (errOutN n s rec) := by
  induction n generalizing s rec with
  | zero => exact .refl s
  | succ n ih =>
    unfold errOutN
    extract_lets noted triggered rings r sent
    have hnoted : RingStaysDown sel s noted := .of_regs rfl
    have htriggered : RingStaysDown sel s triggered := by
      dsimp only [triggered]
      split
      · exact hnoted.trans (trkTrigger_ringStaysDown hsel noted)
      · exact hnoted
    have hrings : RingStaysDown sel triggered r.1 := errRings_ringStaysDown ..
    have hsent : RingStaysDown sel r.1 sent := by
      dsimp only [sent]
      split
      · exact .refl _
      · exact .of_regs (fireVector_regs ..)
    exact ((htriggered.trans hrings).trans hsent).trans (foldl_ringStaysDown (fun s a => partTake_ringStaysDown ih s _) _ _)

theorem errPart_ringStaysDown (s : State) (rec : Nat) : RingStaysDown sel s (errPart s rec) :=
  partTake_ringStaysDown (fun _ _ => errOutN_ringStaysDown hsel _ _ _) s rec

/-- A ring that fails stays disabled, with FAULT set, through the report of it. -/
theorem ringFault_down (s : State) (addr : Nat) (overrun : Bool) :
    ringOn (ringFault s sel addr overrun) sel = false ∧ fget (ringFault s sel addr overrun) fHOST_RING_STATUS_FAULT 0 sel = 1 := by
  have hstays : RingStaysDown sel (ringFaultMark s sel) (ringFault s sel addr overrun) := errPart_ringStaysDown hsel ..
  obtain ⟨hoff, hfault⟩ := ringFaultMark_down s sel
  exact ⟨hstays.off hoff, hstays.fault hfault⟩

end
end

end Sys2Proof.Machine
end

section
/-! RING_ENABLE (R489, R497, R500, R551): what the write of HOST_RING_CFG leaves of its ring, and what ENABLE then does. -/

namespace Sys2Proof.Machine

/-! ## A write of HOST_RING_CFG (R497, R500, R551) -/

/-- What RING_ENABLE reads beside the fields of the ring. -/
def ringInputs (s : State) : Fuses × Tab Region × PartSt × HostSt := (s.fuses, s.regions, s.part, s.host)

/-- From s to t, nothing that RING_ENABLE reads has changed but the copies of fields listed by key. -/
structure WritesOnly (ks : List Nat) (s t : State) : Prop where
  rest : ringInputs t = ringInputs s
  fields : ∀ f u sel, fldKey f u sel ∉ ks → fget t f u sel = fget s f u sel

section
variable {ks : List Nat}

theorem WritesOnly.refl (s : State) : WritesOnly ks s s := ⟨rfl, fun _ _ _ _ => rfl⟩

theorem WritesOnly.trans {s t u : State} (h : WritesOnly ks s t) (h' : WritesOnly ks t u) : WritesOnly ks s u :=
  ⟨h'.rest.trans h.rest, fun f u sel hk => (h'.fields f u sel hk).trans (h.fields f u sel hk)⟩

theorem fput_writesOnly (s : State) {f : Fld} {u sel : Nat} (v : Nat) (h : fldKey f u sel ∈ ks) : WritesOnly ks s (fput s f u sel v) where
  rest := rfl
  fields g u' sel' hk := fget_fput_ne s f g u sel u' sel' v fun heq => hk (by rw [heq]; exact h)

theorem driverWrite_writesOnly (s : State) (o v : Nat) : WritesOnly ks s (driverWrite s o v) := by
  obtain ⟨x, k, h⟩ := driverWrite_eq s o v
  rw [h]
  exact ⟨rfl, fun _ _ _ _ => rfl⟩

theorem WritesOnly.mono {ks' : List Nat} {s t : State} (h : WritesOnly ks s t) (hsub : ks ⊆ ks') : WritesOnly ks' s t :=
  ⟨h.rest, fun f u sel hk => h.fields f u sel fun hmem => hk (hsub hmem)⟩

theorem WritesOnly.host_eq {s t : State} (h : WritesOnly ks s t) : t.host = s.host := congrArg (·.2.2.2) h.rest

/-- A host address translates alike where the bridges' service lanes are as before. -/
theorem WritesOnly.hostOk_eq {s t : State} (h : WritesOnly ks s t) (hks : ∀ b, fldKey fPART_BRIDGE_STATUS_SERVICE_UP 0 b ∉ ks) (a n : Nat) :
    hostOk t a n = hostOk s a n := by
  obtain ⟨hrest, hfields⟩ := h
  simp only [ringInputs, Prod.mk.injEq] at hrest
  obtain ⟨hfuses, hregions, hpart, hhost⟩ := hrest
  have hlanes : serviceUp t = serviceUp s := funext fun b => by rw [serviceUp, serviceUp, hfields _ _ _ (hks b)]
  have hregion : regionAlive t 0 = regionAlive s 0 := by
    rw [regionAlive, regionAlive, regionPresent, regionPresent, nRegions, nRegions, getRegion, getRegion, hfuses, hregions]
  have hend : endpointUp t = endpointUp s := by rw [endpointUp, endpointUp, hregion, hpart, hlanes]
  rw [hostOk, hostOk, hend, hhost]

end

/-! ### Copies of the host's fields -/

/-- The keys of copies of fields of the host's registers. -/
def copyKeys (l : List (Fld × Nat)) : List Nat := l.map fun p => fldKey p.1 0 p.2

/-- Two fields of the host's registers at different places (R546). -/
def apart (f g : Fld) : Bool :=
  f.space == .host && g.space == .host && decide (f.off < 65536 ∧ g.off < 65536 ∧ f.lo < 32 ∧ g.lo < 32 ∧ (f.off ≠ g.off ∨ f.lo ≠ g.lo))

theorem fldKey_ne_of_apart {f g : Fld} (h : apart f g = true) (sel sel' : Nat) : fldKey f 0 sel ≠ fldKey g 0 sel' := by
  simp only [apart, Bool.and_eq_true, beq_iff_eq, decide_eq_true_eq] at h
  obtain ⟨⟨hf, hg⟩, hplaces⟩ := h
  simp only [fldKey, hf, hg]
  omega

theorem notMem_copyKeys {f : Fld} {l : List (Fld × Nat)} (h : l.all (fun p => apart f p.1) = true) (sel : Nat) :
    fldKey f 0 sel ∉ copyKeys l := by
  intro hmem
  obtain ⟨p, hp, hkey⟩ := List.mem_map.mp hmem
  exact fldKey_ne_of_apart (List.all_eq_true.mp h p hp) sel p.2 hkey.symm

/-! ### The fields of the register -/

/-- What a write of a ring's HOST_RING_CFG may change while the ring is enabled; SIZE_LOG2 is held then. -/
def cfgCopies (sel : Nat) : List (Fld × Nat) :=
  [(fHOST_RING_CFG_TYPE, sel), (fHOST_RING_CFG_IRQ_EN, sel), (fHOST_RING_STATUS_WRITE_REJECTED, sel)]

/-- The ring that the driver has selected. -/
def selectedRing (s : State) : Nat := fget s fHOST_RING_IDX_RING 0 0 + 1024 * fget s fHOST_RING_IDX_SIDE 0 0

theorem WritesOnly.selectedRing_eq {ks : List Nat} {s t : State} (h : WritesOnly ks s t) (hring : fldKey fHOST_RING_IDX_RING 0 0 ∉ ks)
    (hside : fldKey fHOST_RING_IDX_SIDE 0 0 ∉ ks) : selectedRing t = selectedRing s := by
  rw [selectedRing, selectedRing, h.fields _ _ _ hring, h.fields _ _ _ hside]

/-- A data field of HOST_RING_CFG is put, or refused with WRITE_REJECTED; one held while the ring is enabled is refused then. -/
theorem writeField_ringCfg {s0 s : State} {v : Nat} {ok : Bool} {f : Fld} {ks : List Nat}
    (hf : f ∈ [fHOST_RING_CFG_SIZE_LOG2, fHOST_RING_CFG_TYPE, fHOST_RING_CFG_IRQ_EN])
    (hkey : fldKey f 0 (selectedRing s) ∈ ks ∨ f.kind = .heldRunning ∧ ringOn s0 (selectedRing s) = true)
    (hrej : fldKey fHOST_RING_STATUS_WRITE_REJECTED 0 (selectedRing s) ∈ ks) : WritesOnly ks s (writeField s0 0 0 v (s, ok) f).1 := by
  have hshape : f.space = .host ∧ f.access = .rw ∧ f.sel = .ring ∧ actField f = false ∧ f.kind ≠ .lapApplied ∧ f.off = 0x1C := by
    simp only [List.mem_cons, List.not_mem_nil, or_false] at hf
    rcases hf with rfl | rfl | rfl <;> decide
  obtain ⟨hspace, haccess, hsel, hact, hkind, hoff⟩ := hshape
  have hring : selOf s f 0 0 = selectedRing s := by simp only [selOf, hsel, selectedRing]
  have hruns : unitRuns s0 f 0 (selectedRing s) = ringOn s0 (selectedRing s) := by simp [unitRuns, hspace, hoff]
  have hrejected : rejectField s f 0 (selectedRing s) = fput s fHOST_RING_STATUS_WRITE_REJECTED 0 (selectedRing s) 1 := by
    simp [rejectField, rejectBit, hspace, hoff]
  have hput (x : Nat) : putField s f 0 (selectedRing s) x = fput s f 0 (selectedRing s) x := by simp [putField, hkind]
  unfold writeField
  simp only [hring, haccess, hact, hruns, hput, hrejected, hsel, Bool.false_eq_true, reduceCtorEq, if_false]
  split
  · exact .refl s
  · split
    · exact .refl s
    · split
      · exact fput_writesOnly s 1 hrej
      · next hgoes =>
        refine fput_writesOnly s _ (hkey.resolve_right fun hheld => hgoes (.inl hheld))

theorem writeField_ringCfg_enable (s0 s : State) (v : Nat) (ok : Bool) : (writeField s0 0 0 v (s, ok) fHOST_RING_CFG_ENABLE).1 = s := by
  simp [writeField, show fHOST_RING_CFG_ENABLE.access = .rw from rfl, show actField fHOST_RING_CFG_ENABLE = true from rfl]

/-- The fields of HOST_RING_CFG after a write of the word v. -/
def ringCfgFields (s : State) (v : Nat) : State :=
  ([fHOST_RING_CFG_SIZE_LOG2, fHOST_RING_CFG_ENABLE, fHOST_RING_CFG_TYPE, fHOST_RING_CFG_IRQ_EN].foldl (writeField s 0 0 v) (s, true)).1

theorem ringCfgFields_writesOnly (s : State) (v : Nat) {l : List (Fld × Nat)}
    (hsize : (fHOST_RING_CFG_SIZE_LOG2, selectedRing s) ∈ l ∨ ringOn s (selectedRing s) = true) (hcfg : cfgCopies (selectedRing s) ⊆ l)
    (hring : l.all (fun p => apart fHOST_RING_IDX_RING p.1) = true) (hside : l.all (fun p => apart fHOST_RING_IDX_SIDE p.1) = true) :
    WritesOnly (copyKeys l) s (ringCfgFields s v) := by
  have hkey {g : Fld} {j : Nat} (hp : (g, j) ∈ l) : fldKey g 0 j ∈ copyKeys l := List.mem_map.mpr ⟨(g, j), hp, rfl⟩
  have hstep {r : State × Bool} {f : Fld} (hf : f ∈ [fHOST_RING_CFG_SIZE_LOG2, fHOST_RING_CFG_TYPE, fHOST_RING_CFG_IRQ_EN])
      (h : WritesOnly (copyKeys l) s r.1) : WritesOnly (copyKeys l) s (writeField s 0 0 v r f).1 := by
    obtain ⟨t, ok⟩ := r
    have hsel : selectedRing t = selectedRing s := h.selectedRing_eq (notMem_copyKeys hring 0) (notMem_copyKeys hside 0)
    have hrej : (fHOST_RING_STATUS_WRITE_REJECTED, selectedRing s) ∈ l := hcfg (by simp [cfgCopies])
    refine h.trans (writeField_ringCfg hf ?_ (by rw [hsel]; exact hkey hrej))
    rw [hsel]
    simp only [List.mem_cons, List.not_mem_nil, or_false] at hf
    rcases hf with rfl | rfl | rfl
    · exact hsize.imp hkey fun hon => ⟨rfl, hon⟩
    · exact .inl (hkey (hcfg (by simp [cfgCopies])))
    · exact .inl (hkey (hcfg (by simp [cfgCopies])))
  have henable {r : State × Bool} (h : WritesOnly (copyKeys l) s r.1) :
      WritesOnly (copyKeys l) s (writeField s 0 0 v r fHOST_RING_CFG_ENABLE).1 := by
    obtain ⟨t, ok⟩ := r
    rw [writeField_ringCfg_enable]
    exact h
  simp only [ringCfgFields, List.foldl_cons, List.foldl_nil]
  exact hstep (by simp) (hstep (by simp) (henable (hstep (by simp) (.refl s))))

theorem regAct_ringCfg (s0 s : State) (who : Requester) (u v : Nat) :
    regAct s0 s who .host u 0x1C v = (ringEnable s (selectedRing s) (nbit v 4), true) := by
  have hsel : selOf s fHOST_RING_CFG_ENABLE 0 0 = selectedRing s := rfl
  simp [regAct, hsel]

/-! ### The write of the register by the driver -/

/-- The part once the driver has selected a ring and written its HOST_RING_CFG: its fields, before ENABLE acts. -/
def ringWritten (s : State) (side : Bool) (ring v : Nat) : State := ringCfgFields (driverWrite (selectRing s ring (b2n side)) 0x1C v) v

section
variable {s : State} {side : Bool} {ring : Nat}

/-- The copies that such a write may change, with those of a list. -/
def selCopies (l : List (Fld × Nat)) : List (Fld × Nat) := (fHOST_RING_IDX_RING, 0) :: (fHOST_RING_IDX_SIDE, 0) :: l

theorem selectRing_writesOnly (s : State) (ring side : Nat) (l : List (Fld × Nat)) :
    WritesOnly (copyKeys (selCopies l)) s (selectRing s ring side) :=
  (fput_writesOnly s ring (by simp [selCopies, copyKeys])).trans (fput_writesOnly _ side (by simp [selCopies, copyKeys]))

theorem selectRing_fields (s : State) (ring side : Nat) :
    fget (selectRing s ring side) fHOST_RING_IDX_RING 0 0 = ring % 2 ^ 10 ∧ fget (selectRing s ring side) fHOST_RING_IDX_SIDE 0 0 = side % 2 := by
  refine ⟨?_, fget_fput_self ..⟩
  exact (fget_fput_ne _ _ _ _ _ _ _ _ (fldKey_ne_of_apart rfl 0 0)).trans (fget_fput_self ..)

theorem selectedRing_selectRing (s : State) (side : Bool) (hring : ring < 1024) :
    selectedRing (selectRing s ring (b2n side)) = ringSel side ring := by
  obtain ⟨hsel, hside⟩ := selectRing_fields s ring (b2n side)
  have hbit : b2n side % 2 = b2n side := by cases side <;> rfl
  rw [selectedRing, hsel, hside, hbit, Nat.mod_eq_of_lt (show ring < 2 ^ 10 from hring), ringSel]

/-- A field of a ring that its write does not name reads as before. -/
theorem WritesOnly.ringOn_eq {ks : List Nat} {s t : State} {sel : Nat} (h : WritesOnly ks s t) (hks : fldKey fHOST_RING_CFG_ENABLE 0 sel ∉ ks) :
    ringOn t sel = ringOn s sel := by
  rw [ringOn, ringOn, h.fields _ _ _ hks]

variable (hring : ring < 1024)
include hring

theorem ringWritten_selected (s : State) (side : Bool) (v : Nat) :
    selectedRing (driverWrite (selectRing s ring (b2n side)) 0x1C v) = ringSel side ring := by
  rw [(driverWrite_writesOnly (ks := []) _ _ _).selectedRing_eq (by simp) (by simp), selectedRing_selectRing s side hring]

theorem ringWritten_writesOnly (v : Nat) {l : List (Fld × Nat)}
    (hsize : (fHOST_RING_CFG_SIZE_LOG2, ringSel side ring) ∈ l ∨ ringOn s (ringSel side ring) = true) (hcfg : cfgCopies (ringSel side ring) ⊆ l)
    (hidx : l.all (fun p => apart fHOST_RING_IDX_RING p.1) = true) (hside : l.all (fun p => apart fHOST_RING_IDX_SIDE p.1) = true) :
    WritesOnly (copyKeys (selCopies l)) s (ringWritten s side ring v) := by
  have hsel := ringWritten_selected hring s side v
  have hwrite : WritesOnly (copyKeys (selCopies [])) s (driverWrite (selectRing s ring (b2n side)) 0x1C v) :=
    (selectRing_writesOnly s ring (b2n side) []).trans (driverWrite_writesOnly ..)
  have hon : ringOn (driverWrite (selectRing s ring (b2n side)) 0x1C v) (ringSel side ring) = ringOn s (ringSel side ring) :=
    hwrite.ringOn_eq (notMem_copyKeys rfl _)
  have hfields : WritesOnly (copyKeys l) _ (ringWritten s side ring v) :=
    ringCfgFields_writesOnly _ v (by rw [hsel, hon]; exact hsize) (by rw [hsel]; exact hcfg) hidx hside
  refine (hwrite.mono ?_).trans (hfields.mono ?_) <;> simp [selCopies, copyKeys]

theorem exec_ringEnable_ready (v : Word) (hready : fget s fPART_BOOT_STATUS_PHASE 0 0 = 4) :
    exec (.ringEnable side ring v) s = .next (selectRing (ringEnable (ringWritten s side ring v.toNat) (ringSel side ring) (v.getLsbD 4))
      (fget s fHOST_RING_IDX_RING 0 0) (fget s fHOST_RING_IDX_SIDE 0 0)) := by
  have hphase : fget (selectRing s ring (b2n side)) fPART_BOOT_STATUS_PHASE 0 0 = 4 := by
    rw [← hready]
    refine (selectRing_writesOnly s ring (b2n side) []).fields _ _ _ ?_
    simp only [copyKeys, selCopies, List.map_cons, List.map_nil, List.mem_cons, List.not_mem_nil, or_false, not_or]
    exact ⟨fldKey_ne_host rfl (by decide) (by decide) (by decide) (by decide), fldKey_ne_host rfl (by decide) (by decide) (by decide) (by decide)⟩
  have hwritten : selectedRing (ringWritten s side ring v.toNat) = ringSel side ring := by
    have hsel := ringWritten_selected hring s side v.toNat
    rw [← hsel]
    refine (ringCfgFields_writesOnly _ v.toNat (l := (fHOST_RING_CFG_SIZE_LOG2, ringSel side ring) :: cfgCopies (ringSel side ring))
      (.inl ?_) ?_ rfl rfl).selectedRing_eq (notMem_copyKeys rfl 0) (notMem_copyKeys rfl 0)
    · simp [hsel]
    · simp [hsel]
  have hact : registerWrite (selectRing s ring (b2n side)) .bar0 0x1C v.toNat 4 =
      ringEnable (ringWritten s side ring v.toNat) (selectedRing (ringWritten s side ring v.toNat)) (nbit v.toNat 4) := by
    have hserved : hostServed (selectRing s ring (b2n side)) 0x1C = true := (hostServed_iff ..).mpr (.inl (by decide))
    have hplace : regPlace 0x1C = some (.host, 0, 0x1C) := by decide
    have hfields : fieldsAt .host 0x1C =
        some [fHOST_RING_CFG_SIZE_LOG2, fHOST_RING_CFG_ENABLE, fHOST_RING_CFG_TYPE, fHOST_RING_CFG_IRQ_EN] := by decide
    rw [registerWrite_bar0 _ _ (by decide) hserved, if_pos (.inl hphase), putAt_register _ _ _ hplace (by decide),
      regWrite_fields _ _ hfields rfl rfl, regAct_ringCfg, copyOf, ringWritten, ringCfgFields]
  rw [hwritten, nbit_eq_getLsbD] at hact
  show Host.Outcome.next (if ring < 1024 then ringCfgWrite s side ring v.toNat else s) = _
  rw [if_pos hring, ringCfgWrite, hact]

end

/-! ### ENABLE (R497) -/

section
variable {s : State} {sel : Nat}

theorem ringEnable_already (hon : ringOn s sel = true) : ringEnable s sel true = s := by simp [ringEnable, hon]

theorem hostFetch_mem (s : State) (a n : Nat) : (hostFetch s a n).host.mem = s.host.mem := by
  rw [hostFetch, trkInput_host, hostTouch]
  split <;> rfl

/-- A ring that is enabled takes its index from the index array. -/
theorem ringEnable_reads {w : Nat} (hw : idxBase s + 8 * sel = w) (hoff : ringOn s sel = false) (hok : hostOk s w 8 = true) :
    ringOn (ringEnable s sel true) sel = true ∧ ringIndex (ringEnable s sel true) sel = leNat (hostRead s w 4) % 2 ^ 32 := by
  have henable : ringEnable s sel true =
      setRingIndex (fput (hostFetch s w 8) fHOST_RING_CFG_ENABLE 0 sel 1) sel (leNat (hostRead s w 4)) := by
    simp only [ringEnable, hoff, hw, hok, Bool.not_false, Bool.and_self, if_true, hostRead, fput_host, hostFetch_mem]
  rw [henable]
  constructor
  · rw [setRingIndex, ringOn, fget_updHost, fget_fput_self]
    rfl
  · rw [ringIndex, setRingIndex, updHost_host, tabGet_tabSet_self]

theorem ringEnable_faults (hsel : sel < 65536) (hoff : ringOn s sel = false) (hok : hostOk s (idxBase s + 8 * sel) 8 = false) :
    ringOn (ringEnable s sel true) sel = false ∧ fget (ringEnable s sel true) fHOST_RING_STATUS_FAULT 0 sel = 1 := by
  have hfault : ringEnable s sel true = ringFault s sel (idxBase s + 8 * sel) false := by simp [ringEnable, hoff, hok]
  rw [hfault]
  exact ringFault_down hsel ..

theorem ringEnable_off (s : State) (sel : Nat) : ringOn (ringEnable s sel false) sel = false := by
  simp only [ringEnable, Bool.false_and, Bool.not_false, Bool.false_eq_true, if_false, if_true, ringOn, fget_updHost, fget_fput_self]
  rfl

end

/-! ### What the write leaves of its ring -/

theorem notMem_copyKeys_other {f : Fld} {l : List (Fld × Nat)} (hf : f.space ≠ .host)
    (hl : l.all (fun p => p.1.space == .host && decide (p.1.off < 65536 ∧ p.1.lo < 32)) = true) (hsel : ∀ p ∈ l, p.2 < 65536) (u sel : Nat) :
    fldKey f u sel ∉ copyKeys l := by
  intro hmem
  obtain ⟨p, hp, hkey⟩ := List.mem_map.mp hmem
  have hplace := List.all_eq_true.mp hl p hp
  simp only [Bool.and_eq_true, beq_iff_eq, decide_eq_true_eq] at hplace
  obtain ⟨hspace, hoff, hlo⟩ := hplace
  exact fldKey_ne_host hspace hf (hsel p hp) hoff hlo hkey.symm

theorem ringSel_lt (side : Bool) {ring : Nat} (h : ring < 1024) : ringSel side ring < 65536 := by
  cases side <;> simp only [ringSel, b2n, Bool.false_eq_true, if_false, if_true] <;> omega

section
variable {s : State} {side : Bool} {ring : Nat} (hring : ring < 1024) (v : Nat)
include hring

theorem ringWritten_any : WritesOnly (copyKeys (selCopies ((fHOST_RING_CFG_SIZE_LOG2, ringSel side ring) :: cfgCopies (ringSel side ring)))) s
    (ringWritten s side ring v) :=
  ringWritten_writesOnly hring v (.inl (by simp)) (by simp) rfl rfl

theorem ringWritten_ringOn : ringOn (ringWritten s side ring v) (ringSel side ring) = ringOn s (ringSel side ring) :=
  (ringWritten_any hring v).ringOn_eq (notMem_copyKeys rfl _)

theorem ringWritten_host : (ringWritten s side ring v).host = s.host := (ringWritten_any hring v).host_eq

theorem ringWritten_idxBase : idxBase (ringWritten s side ring v) = idxBase s := by
  have hfields := (ringWritten_any (s := s) (side := side) hring v).fields
  rw [idxBase, idxBase, hfields _ _ _ (notMem_copyKeys rfl 0), hfields _ _ _ (notMem_copyKeys rfl 0)]

theorem ringWritten_hostOk (a n : Nat) : hostOk (ringWritten s side ring v) a n = hostOk s a n := by
  refine (ringWritten_any hring v).hostOk_eq (fun b => notMem_copyKeys_other (by decide) rfl (fun p hp => ?_) 0 b) a n
  have hsel := ringSel_lt side hring
  simp only [selCopies, cfgCopies, List.mem_cons, List.not_mem_nil, or_false] at hp
  rcases hp with rfl | rfl | rfl | rfl | rfl | rfl <;> omega

/-- SIZE_LOG2 is held while the ring is enabled (R551). -/
theorem ringWritten_ringSize (hon : ringOn s (ringSel side ring) = true) :
    ringSize (ringWritten s side ring v) (ringSel side ring) = ringSize s (ringSel side ring) := by
  have hheld : WritesOnly (copyKeys (selCopies (cfgCopies (ringSel side ring)))) s (ringWritten s side ring v) :=
    ringWritten_writesOnly hring v (.inr hon) (by simp) rfl rfl
  rw [ringSize, ringSize, hheld.fields _ _ _ (notMem_copyKeys rfl _)]

end

/-- What RING_ENABLE does to its ring, at READY. -/
theorem ringEnable_ready {s : State} {side : Bool} {ring : Nat} (v : Word) (hring : ring < 1024)
    (hready : fget s fPART_BOOT_STATUS_PHASE 0 0 = 4) :
    let sel := ringSel side ring
    let w := idxBase s + 8 * sel
    ∃ t, exec (.ringEnable side ring v) s = .next t ∧
      fget t fHOST_RING_IDX_RING 0 0 = fget s fHOST_RING_IDX_RING 0 0 % 2 ^ 10 ∧
      fget t fHOST_RING_IDX_SIDE 0 0 = fget s fHOST_RING_IDX_SIDE 0 0 % 2 ∧
      (v.getLsbD 4 = false → ringOn t sel = false) ∧
      (v.getLsbD 4 = true → ringOn s sel = true → ringOn t sel = true ∧ ringIndex t sel = ringIndex s sel ∧ ringSize t sel = ringSize s sel) ∧
      (v.getLsbD 4 = true → ringOn s sel = false → hostOk s w 8 = true →
        ringOn t sel = true ∧ ringIndex t sel = leNat (hostRead s w 4) % 2 ^ 32) ∧
      (v.getLsbD 4 = true → ringOn s sel = false → hostOk s w 8 = false →
        ringOn t sel = false ∧ fget t fHOST_RING_STATUS_FAULT 0 sel = 1) := by
  intro sel w
  have hbase : idxBase (ringWritten s side ring v.toNat) + 8 * sel = w := by rw [ringWritten_idxBase hring]
  have hwasOn : ringOn (ringWritten s side ring v.toNat) sel = ringOn s sel := ringWritten_ringOn hring _
  have hhost : (ringWritten s side ring v.toNat).host = s.host := ringWritten_host hring _
  have hsame (x : State) : WritesOnly (copyKeys (selCopies [])) x (selectRing x (fget s fHOST_RING_IDX_RING 0 0) (fget s fHOST_RING_IDX_SIDE 0 0)) :=
    selectRing_writesOnly ..
  have hon (x : State) : ringOn (selectRing x (fget s fHOST_RING_IDX_RING 0 0) (fget s fHOST_RING_IDX_SIDE 0 0)) sel = ringOn x sel :=
    (hsame x).ringOn_eq (notMem_copyKeys rfl _)
  obtain ⟨hselRing, hselSide⟩ := selectRing_fields (ringEnable (ringWritten s side ring v.toNat) sel (v.getLsbD 4))
    (fget s fHOST_RING_IDX_RING 0 0) (fget s fHOST_RING_IDX_SIDE 0 0)
  refine ⟨_, exec_ringEnable_ready hring v hready, hselRing, hselSide, fun hbit => ?_, fun hbit hs => ?_, fun hbit hs hok => ?_,
    fun hbit hs hok => ?_⟩ <;> rw [hbit, hon]
  · exact ringEnable_off ..
  · rw [ringEnable_already (hwasOn.trans hs)]
    refine ⟨hwasOn.trans hs, ?_, ?_⟩
    · rw [ringIndex, ringIndex, (hsame _).host_eq, hhost]
    · rw [← ringWritten_ringSize hring v.toNat hs, ringSize, ringSize, (hsame _).fields _ _ _ (notMem_copyKeys rfl _)]
  · have hread := ringEnable_reads hbase (hwasOn.trans hs) ((ringWritten_hostOk hring _ w 8).trans hok)
    rw [hostRead, hhost] at hread
    obtain ⟨hnow, hindex⟩ := hread
    refine ⟨hnow, ?_⟩
    rw [ringIndex, (hsame _).host_eq]
    exact hindex
  · rw [← hbase] at hok
    obtain ⟨hnow, hfault⟩ := ringEnable_faults (ringSel_lt side hring) (hwasOn.trans hs) ((ringWritten_hostOk hring v.toNat _ 8).trans hok)
    refine ⟨hnow, ?_⟩
    rw [(hsame _).fields _ _ _ (notMem_copyKeys rfl _)]
    exact hfault

end Sys2Proof.Machine
end

section
/-! The host window (R305, R478 to R485): owner update records, BAR2, BAR4, FLR and ATS invalidation. -/

namespace Sys2Proof.Machine

/-! ## OWNER_UPDATE_RECORD (R305) -/

/-- A record from the four words of PART_OWN_UPD. -/
def ownWord (s : State) (word3 : Nat) : Nat :=
  fget s fPART_OWN_UPD0_DATA 0 0 + fget s fPART_OWN_UPD1_DATA 0 0 * 2 ^ 32 + fget s fPART_OWN_UPD2_DATA 0 0 * 2 ^ 64 + word3 * 2 ^ 96

/-- The change that a record asks for: its lap, its table and block, and the new entry. -/
def ownRecord (s : State) (w : Nat) : OwnPend := ⟨resolveLap s.lap.num (nbits w 96 16), nbits w 84 8, none, nbits w 64 20, nbits w 0 64⟩

/-- Records of single entries that wait. -/
def ownQueued (s : State) : Nat := (s.ownPend.filter fun p => p.image.isNone).length

/-- Whether the entry of a record names a region that its part has. -/
def ownRegionOk (s : State) (e : Nat) : Bool :=
  if nbits e 0 17 = selfId s then regionPresent s (nbits e 17 3) else Config.partHasRegion (nbits e 0 17) (nbits e 17 3)

/-- Whether a record does not suit the table as it stands, or uses reserved bits (R305). -/
def ownRecordBad (s : State) (w : Nat) : Bool :=
  decide ((getOwner s (nbits w 84 8)).count ≤ nbits w 64 20) || nbits w 92 4 != 0 || nbits w 112 16 != 0 ||
    ownEntryBad s (getOwner s (nbits w 84 8)).log2 (nbits w 0 64) || !ownRegionOk s (nbits w 0 64)

section
variable {s : State} {w : Nat}

theorem ownRecordBad_of (h : (getOwner s (nbits w 84 8)).count ≤ nbits w 64 20 ∨
    ownEntryBad s (getOwner s (nbits w 84 8)).log2 (nbits w 0 64) = true) : ownRecordBad s w = true := by
  rcases h with h | h <;> simp [ownRecordBad, h]

theorem ownRecordBad_eq_false (hblock : nbits w 64 20 < (getOwner s (nbits w 84 8)).count)
    (hentry : ownEntryBad s (getOwner s (nbits w 84 8)).log2 (nbits w 0 64) = false) (hres : nbits w 92 4 = 0) (hres' : nbits w 112 16 = 0)
    (hself : nbits (nbits w 0 64) 0 17 = selfId s) (hregion : regionPresent s (nbits (nbits w 0 64) 17 3) = true) :
    ownRecordBad s w = false := by
  have hok : ownRegionOk s (nbits w 0 64) = true := (if_pos hself).trans hregion
  simp [ownRecordBad, hblock, hentry, hres, hres', hok]

end

/-- A record is judged by the part as it was before the write of the record's last word. -/
theorem ownUpdate_driverWrite (s : State) (o v word3 : Nat) : ownUpdate (driverWrite s o v) word3 =
    if 4096 ≤ ownQueued s then fput (driverWrite s o v) fPART_OWN_STATUS_QUEUE_FULL 0 0 1
    else if (ownRecord s (ownWord s word3)).lap ≤ s.lap.num then fput (driverWrite s o v) fPART_OWN_STATUS_LATE 0 0 1
    else if ownRecordBad s (ownWord s word3) then fput (driverWrite s o v) fPART_OWN_STATUS_BAD_RECORD 0 0 1
    else { driverWrite s o v with ownPend := s.ownPend ++ [ownRecord s (ownWord s word3)] } := by
  obtain ⟨x, k, h⟩ := driverWrite_eq s o v
  rw [h]
  rfl

theorem exec_ownerUpdateRecord (s : State) (v : Word) :
    exec (.ownerUpdateRecord v) s = .next (ownUpdate (driverWrite s 0x10_050C v.toNat) v.toNat) := rfl

/-! ## BAR2 (R479, R482, R483) -/

theorem exec_bar2Write (s : State) (o : Nat) (d : Bytes) (p : Bool) : exec (.bar2Write o ⟨d, p⟩) s = .next (bar2Write s o d p) := rfl
theorem exec_bar2WriteRelease (s : State) : exec .bar2WriteRelease s = .next (bar2Release s) := rfl
theorem exec_bar2Read (s : State) (o n : Nat) : exec (.bar2Read o n) s = .next (bar2Read s o n) := rfl

/-- A sound write is posted, as an input record, in the order of arrival. -/
theorem bar2Write_posts (s : State) (o : Nat) {d : Bytes} (hd : d ≠ []) : bar2Write s o d false = bar2Post s (bar2Addr s o) d := by
  simp [bar2Write, hd]

section
variable {s : State} {a : Nat} {d : Bytes}

/-- A posted write waits behind those that wait, or where it cannot be taken. -/
theorem bar2Post_waits
    (h : (trkInput s 2 hostRegion a d).host.heldWrites ≠ [] ∨ bar2Take (trkInput s 2 hostRegion a d) a d = none) :
    bar2Post s a d = updHost (trkInput s 2 hostRegion a d) fun h => { h with heldWrites := h.heldWrites ++ [(a, d)] } := by
  by_cases hheld : (trkInput s 2 hostRegion a d).host.heldWrites = []
  · have hnone := h.resolve_left (not_not_intro hheld)
    simp [bar2Post, hheld, hnone]
  · simp [bar2Post, hheld]

theorem bar2Post_taken {u : State} (hnone : (trkInput s 2 hostRegion a d).host.heldWrites = [])
    (htake : bar2Take (trkInput s 2 hostRegion a d) a d = some u) : bar2Post s a d = u := by
  simp [bar2Post, hnone, htake]

theorem bar2Take_nowhere (h : bar2Place s a d.length = none) : bar2Take s a d = some (fbump s fHOST_BAR_STATUS_DROPPED 0 0 1) := by
  rw [bar2Take, h, bar2TakeAt]

section
variable {r page off : Nat} (h : bar2Place s a d.length = some (r, page, off))
include h

theorem bar2Take_committed (hserv : inService s = false) : bar2Take s a d = some (writeNow s r page off d) := by
  simp [bar2Take, h, bar2TakeAt, hserv]

variable (hserv : inService s = true)
include hserv

theorem bar2Take_over (hover : hostOver s r page = true) : bar2Take s a d = none := by
  simp [bar2Take, h, bar2TakeAt, hserv, hover]

theorem bar2Take_held {u : State} (hover : hostOver s r page = false)
    (hwrite : writeHbm s r 0x3FFF false (d.length / 65536 + 2) page off d = .ok u) :
    bar2Take s a d = some (updHost u fun h =>
      { h with hostPages := if h.hostPages.any (fun p => p == (r, page)) then h.hostPages else h.hostPages ++ [(r, page)] }) := by
  simp [bar2Take, h, bar2TakeAt, hserv, hover, hwrite]

end
end

/-! ### Writes that waited, and reads -/

theorem bar2Release_idle {s : State} (h : s.host.heldWrites = [] ∨ s.lap.phase = .marked) : bar2Release s = s := by
  unfold bar2Release
  split
  · rfl
  · next hheld => rw [if_pos (h.resolve_left (by simp [hheld]))]

theorem bar2Release_first {s : State} {a : Nat} {d : Bytes} {rest : List (Nat × Bytes)} (hheld : s.host.heldWrites = (a, d) :: rest)
    (hphase : s.lap.phase ≠ .marked) :
    bar2Release s = (bar2Take s a d).elim s fun s => updHost s fun h => { h with heldWrites := rest } := by
  simp [bar2Release, hheld, hphase]

section
variable {s : State} {o n : Nat}

theorem bar2Read_waits (hphase : s.lap.phase = .committed) :
    bar2Read s o n = updHost s fun h => { h with heldReads := h.heldReads ++ [(bar2Addr s o, n)] } := if_pos hphase

variable (hphase : s.lap.phase ≠ .committed)
include hphase

theorem bar2Read_nowhere (h : bar2Place s (bar2Addr s o) n = none) : bar2Read s o n = bar2Ones s n := by
  rw [bar2Read, if_neg hphase, bar2Answer, h, bar2AnswerAt]

theorem bar2Read_place {r page off : Nat} (h : bar2Place s (bar2Addr s o) n = some (r, page, off)) :
    bar2Read s o n = if (readHbmEcc s r noSlot [] (n / 65536 + 2) page off n).2
      then bar2Ones (readHbmEcc s r noSlot [] (n / 65536 + 2) page off n).1 n
      else emit (readHbmEcc s r noSlot [] (n / 65536 + 2) page off n).1
        (.read 0 0 ((readCommitted (readHbmEcc s r noSlot [] (n / 65536 + 2) page off n).1 r page off n).map (·.toNat))) := by
  rw [bar2Read, if_neg hphase, bar2Answer, h, bar2AnswerAt]

end

/-! ## BAR4 (R480) -/

theorem registerWrite_bar4 {s : State} {o : Nat} (v : Nat) (h : o % 4 = 0) : registerWrite s .bar4 o v 4 = bar4Write s o v := by
  simp [registerWrite, h]

/-- The MSI-X table after a write of one of its words. -/
def msixWritten (s : State) (i v : Nat) : State :=
  updHost s fun x => { x with msix := tabSet (b2n (i % 4 == 3)) x.msix i (if i % 4 = 3 then v % 2 else v) }

theorem bar4Write_beyond {s : State} {o : Nat} (v : Nat) (h : 0x8000 ≤ o) : bar4Write s o v = s := if_pos h

/-- An unmasked vector sends the message that it holds pending. -/
theorem bar4Write_table (s : State) {o : Nat} (v : Nat) (h : o < 0x8000) : bar4Write s o v =
    if o / 4 % 4 = 3 ∧ v % 2 = 0 ∧ hasNat s.host.pba (o / 4 / 4) = true
    then msixSend (updHost (msixWritten s (o / 4) v) fun x => { x with pba := x.pba.filter fun n => n != o / 4 / 4 }) (o / 4 / 4)
    else msixWritten s (o / 4) v := if_neg (Nat.not_le.mpr h)

/-! ## FLR (R478) -/

theorem tabGet_filter_key {α : Type} (d : α) (t : Tab α) (p : Nat → Bool) (k : Nat) :
    tabGet d (t.filter fun e => p e.1) k = if p k then tabGet d t k else d := by
  induction t with
  | nil => simp [tabGet]
  | cons e t ih =>
    obtain ⟨k', v⟩ := e
    by_cases hk : k' = k
    · subst hk
      cases hp : p k' <;> simp [hp, tabGet, ih]
    · cases hp : p k' <;> simp [hp, tabGet, hk, ih]

/-- Keys of fields that lie outside the host's registers. -/
def flrKeeps (k : Nat) : Bool := k / (65536 * 65536 * 32 * 1024) != 0

theorem flrKeeps_host {f : Fld} {u sel : Nat} (hspace : f.space = .host) (hu : u < 1024) (hsel : sel < 65536) (hoff : f.off < 65536)
    (hlo : f.lo < 32) : flrKeeps (fldKey f u sel) = false := by
  have hkey : fldKey f u sel < 65536 * 65536 * 32 * 1024 := by
    simp only [fldKey, hspace, spaceIdx]
    omega
  simp only [flrKeeps, Nat.div_eq_of_lt hkey]
  rfl

theorem flrKeeps_other {f : Fld} (hspace : f.space ≠ .host) (u sel : Nat) : flrKeeps (fldKey f u sel) = true := by
  have hidx : 1 ≤ spaceIdx f.space := one_le_spaceIdx hspace
  have hkey : 65536 * 65536 * 32 * 1024 ≤ fldKey f u sel := by
    simp only [fldKey]
    omega
  have hpos : 0 < fldKey f u sel / (65536 * 65536 * 32 * 1024) := Nat.div_pos hkey (by decide)
  simp only [flrKeeps, bne_iff_ne]
  omega

/-- The state in which FLR stops the open graphs. -/
def flrCleared (s : State) : State :=
  let t := dropCpls s fun _ => true
  updHost { t with flds := t.flds.filter (fun e => flrKeeps e.1), shadows := t.shadows.filter fun e => flrKeeps e.1 } fun h => { h with
    ringIdx := [], consumed := [], subQ := [], nextRing := 0, lostRun := [], cplWait := [], heldWrites := [], heldReads := []
    nudges := [], nudgeRing := none, headDue := [], msix := [], pba := [], atsEnable := false, atsCache := [] }

theorem flr_eq (s : State) : flr s = (s.graphs.map (·.id)).foldl stopOpen (flrCleared s) := rfl

theorem fget_flrCleared (s : State) (f : Fld) (u sel : Nat) :
    fget (flrCleared s) f u sel = if flrKeeps (fldKey f u sel) then fget s f u sel else fldDefault s.fuses.grade f sel := by
  have hfget : fget (flrCleared s) f u sel =
      voteTri (tabGet (triOf (fldDefault s.fuses.grade f sel)) (s.flds.filter fun e => flrKeeps e.1) (fldKey f u sel)) := rfl
  rw [hfget, tabGet_filter_key]
  split
  · rfl
  · exact voteTri_triOf _

/-- The tasks already placed run on, and those of open graphs get no completion record. -/
theorem flrCleared_lap (s : State) :
    let quiet := fun (k : LapTask) => if (getGraph s k.graph).isSome then { k with noCpl := true } else k
    (flrCleared s).lap = { s.lap with plan := s.lap.plan.map quiet, cur := s.lap.cur.map quiet, deciding := s.lap.deciding.map quiet,
                                      specHeld := s.lap.specHeld.map fun e => (e.1, quiet e.2) } := by
  intro quiet
  have hmark : (fun (k : LapTask) => if (getGraph s k.graph).any fun _ => true then { k with noCpl := true } else k) = quiet := by
    funext k
    rw [Option.any_true]
  rw [← hmark]
  rfl

/-! ## The host window -/

/-- Settles O52: RING_ENABLE from what the write of its register leaves (`ringEnable_ready`), the others from what each access does. -/
theorem hostWindow : Obligations.HostWindow := by
  unfold Obligations.HostWindow
  refine ⟨?ringEnable, ?ownerUpdate, ?bar2Write, ?bar2Waits, ?bar4, ?flr, ?ats⟩
  case ringEnable =>
    intro s side ring v
    refine ⟨fun hring => ?_, fun hring hready => ringEnable_ready v hring hready⟩
    exact congrArg Host.Outcome.next (if_neg (Nat.not_lt.mpr hring))
  case ownerUpdate =>
    intro s v w table block e lap queued got
    rw [exec_ownerUpdateRecord, ownUpdate_driverWrite]
    refine ⟨fun hfull => congrArg _ (if_pos hfull), fun hroom hlate => congrArg _ ((if_neg (Nat.not_le.mpr hroom)).trans (if_pos hlate)),
      fun hroom hlap => ?_⟩
    rw [if_neg (show ¬ 4096 ≤ ownQueued s from Nat.not_le.mpr hroom),
      if_neg (show ¬ (ownRecord s (ownWord s v.toNat)).lap ≤ s.lap.num from Nat.not_le.mpr hlap)]
    refine ⟨fun hbad => congrArg _ (if_pos (ownRecordBad_of hbad)), fun hblock hentry hres hres' hself hregion => congrArg _ (if_neg ?_)⟩
    rw [Bool.not_eq_true]
    exact ownRecordBad_eq_false hblock hentry hres hres' hself hregion
  case bar2Write =>
    intro s o d a t held
    refine ⟨rfl, rfl, fun hd => ?_⟩
    simp only [exec_bar2Write, bar2Write_posts s o hd]
    refine ⟨fun hwaits => congrArg _ (bar2Post_waits (.inl hwaits)),
      fun hnone hplace => congrArg _ (bar2Post_taken hnone (bar2Take_nowhere hplace)),
      fun r page off hnone hplace => ⟨fun hserv => congrArg _ (bar2Post_taken hnone (bar2Take_committed hplace hserv)),
        fun hserv hover => congrArg _ (bar2Post_waits (.inr (bar2Take_over hplace hserv hover))),
        fun u hserv hover hwrite => congrArg _ (bar2Post_taken hnone (bar2Take_held hplace hserv hover hwrite))⟩⟩
  case bar2Waits =>
    intro s
    simp only [exec_bar2WriteRelease, exec_bar2Read]
    refine ⟨fun hidle => congrArg _ (bar2Release_idle hidle), fun a d rest hheld hphase => ?_, fun o n => ?_⟩
    · rw [bar2Release_first hheld hphase]
      exact ⟨fun hwaits => by rw [hwaits, Option.elim_none], fun t htaken => by rw [htaken, Option.elim_some]⟩
    · refine ⟨fun hphase => congrArg _ (bar2Read_waits hphase), fun hphase hnone => congrArg _ (bar2Read_nowhere hphase hnone),
        fun r page off hphase hplace => ?_⟩
      rw [bar2Read_place hphase hplace]
      exact ⟨fun hsound => congrArg _ (if_neg (by simp [hsound])), fun hlost => congrArg _ (if_pos hlost)⟩
  case bar4 =>
    intro s o v halign i t
    rw [exec_registerWrite, registerWrite_bar4 _ halign]
    refine ⟨fun hbeyond => by rw [bar4Write_beyond _ hbeyond], fun htable hquiet => ?_, fun htable hword hunmasked hpending => ?_⟩ <;>
      rw [bar4Write_table s _ htable]
    · rw [if_neg hquiet]
      rfl
    · rw [if_pos ⟨hword, hunmasked, hpending⟩]
      rfl
  case flr =>
    intro s
    refine ⟨flrCleared s, congrArg Host.Outcome.next (flr_eq s), rfl, flrCleared_lap s, rfl,
      fun f u sel hspace hu hsel hoff hlo => ?_, fun f u sel hspace => ?_⟩
    · rw [fget_flrCleared, flrKeeps_host hspace hu hsel hoff hlo, if_neg (by decide)]
    · rw [fget_flrCleared, flrKeeps_other hspace, if_pos rfl]
  case ats =>
    intro s a n
    refine ⟨_, rfl, rfl, fun p => ?_⟩
    show p ∈ s.host.atsCache.filter _ ↔ _
    rw [List.mem_filter, Bool.not_eq_true', decide_eq_false_iff_not, not_and_or, Nat.not_lt, Nat.not_lt]

end Sys2Proof.Machine
end

section
/-! The machine itself: what a step runs (R10, R565, R566), what reset leaves, and what every step keeps of manufacture, burns and the queue
(R571, R583). -/

namespace Sys2Proof.Machine

open Sys2Proof.Safety

/-! ## The front of the queue -/

theorem step_front {s : State} {c : Instr} {rest : List Instr} (h : s.pending = c :: rest) : step s = exec c { s with pending := rest } := by
  rw [step, h]

theorem step_empty {s : State} (h : s.pending = []) : step s = .next (idle s) := by rw [step, h]

theorem idle_boots {s : State} (hboot : booting s = true) (hphase : bootPhase s = 0) : idle s = fput s fPART_BOOT_STATUS_PHASE 0 0 1 :=
  if_pos (by rw [hboot, hphase]; rfl)

theorem idle_rests {s : State} (h : booting s = false ∨ bootPhase s ≠ 0) : idle s = s := if_neg (by simpa [or_iff_not_imp_left] using h)

/-- Settles O1: `step` by the queue, and `idle` by the phase of boot. -/
theorem stepRunsFront : Obligations.StepRunsFront := by
  refine ⟨fun s c rest hfront => step_front hfront, fun s hempty => ⟨fun hboot hphase => ?_, fun hrests => ?_⟩⟩
  · rw [step_empty hempty, idle_boots hboot hphase]
  · rw [step_empty hempty, idle_rests hrests]

/-! ## Reset -/

/-- A field that nothing has written reads its reset value: its three copies agree. -/
theorem fget_unwritten {s : State} (h : s.flds = []) (f : Fld) (unit sel : Nat) : fget s f unit sel = fldDefault s.fuses.grade f sel := by
  rw [fget, h]
  exact if_pos rfl

theorem fget_reset (f : Fld) (unit sel : Nat) : fget State.reset f unit sel = fldDefault State.reset.fuses.grade f sel := fget_unwritten rfl f unit sel

theorem queueOf_reset (q : QueueId) : queueOf State.reset q = errqReset := by
  cases q <;> rfl

theorem queueOk_of_empty {s : State} (h : s.pending = []) : queueOk s := by
  intro c hc
  rw [h] at hc
  cases hc

/-- Settles O2: fields by `fget_reset`; every unit, table and queue is the one that `State.reset` lists. -/
theorem resetState : Obligations.ResetState := by
  refine ⟨fget_reset, rfl, rfl, rfl, rfl, rfl, fun _ => rfl, fun _ => rfl, rfl, rfl, rfl, rfl, rfl, rfl, rfl, rfl, rfl, rfl, rfl, rfl,
    fun q => ?_, fun _ => rfl, fun _ => rfl, fun _ => rfl, ?_, ?_, queueOk_of_empty rfl, rfl, rfl, rfl⟩
  · rw [queueOf_reset]
    rfl
  · rw [fget_reset]
    decide
  · rw [fget_reset]
    decide

/-! ## What every step keeps -/

theorem powerRise_fuses (s : State) : (powerRise s).fuses = s.fuses := by
  unfold powerRise
  split
  · rfl
  · exact partReset_fuses _

theorem powerFall_fuses (s : State) : (powerFall s).fuses = s.fuses := by
  unfold powerFall
  split
  · exact partReset_fuses _
  · rfl

theorem perst_fuses (s : State) (high : Bool) : (perst s high).fuses = s.fuses := by
  unfold perst
  split
  · rfl
  · dsimp only
    split
    · exact partReset_fuses _
    · rfl

/-- No command changes what manufacture fixed or takes a burn back: outside `movesLap` the fuses stay, and of the eleven in it the lists and
OWNER_ENROLL burn, and nothing else writes the fuses. -/
theorem exec_fusesGrow {s t : State} {c : Instr} (h : exec c s = .next t) : fusesGrow s t := by
  have of_kept : ∀ u, kept u = kept s → fusesGrow s u := fun u hu => fusesGrow_of_eq (fuses_of_kept hu)
  cases hc : movesLap c with
  | false =>
    have hkept := exec_kept s hc
    rw [h] at hkept
    exact of_kept t hkept
  | true =>
    cases c with
    | lapMark =>
      cases h
      exact (benchMark_keptTo s).elim (of_kept _) fun hto => fusesGrow_of_eq (congrArg KeptPart.fuses hto.2)
    | commitPoint =>
      cases h
      exact (benchCommit_keptTo s).elim (of_kept _) fun ⟨_, _, _, hto⟩ => fusesGrow_of_eq (congrArg KeptPart.fuses hto)
    | firstIssue => cases h; exact (benchIssue_keptTo s).2
    | marker port m =>
      cases h
      exact (markerIn_keptTo s port m).elim (of_kept _) fun hto => fusesGrow_of_eq (congrArg KeptPart.fuses hto.2)
    | lapRefEdge o =>
      cases h
      exact (lapRefEdge_keptTo s o).elim (of_kept _) fun hto => fusesGrow_of_eq (congrArg KeptPart.fuses hto.2)
    | powerGoodRise => cases h; exact fusesGrow_of_eq (powerRise_fuses s)
    | powerGoodFall => cases h; exact fusesGrow_of_eq (powerFall_fuses s)
    | perstN high => cases h; exact fusesGrow_of_eq (perst_fuses s high)
    | listTimeout => cases h; exact (listTimeout_keptTo s).2
    | listDone tag =>
      cases h
      exact (sideCommand_keptTo s 8 tag [] _ fun t => ⟨(keptLap_of_kept (answer_kept ..)).trans (listDone_keptTo t).1,
        fusesGrow_trans (listDone_keptTo t).2 (fuses_of_kept (answer_kept ..))⟩).2
    | ownerEnroll digest tag => cases h; exact (sideCommand_keptTo s 0xC tag _ _ fun t => ownerEnroll_keptTo digest tag t).2
    | _ => cases hc

theorem sameMake_of_fusesGrow {m s t : State} (hsame : sameMake m s) (hgrow : fusesGrow s t) : sameMake m t := by
  unfold sameMake
  rw [hgrow.1]
  exact hsame

theorem burnKept_of_fusesGrow {m s t : State} (hburn : burnKept m s) (hgrow : fusesGrow s t) : burnKept m t :=
  ⟨hburn.1.trans hgrow.2.1, fun d hd => hgrow.2.2 d (hburn.2 d hd)⟩

theorem step_fusesGrow {s t : State} (h : step s = .next t) : fusesGrow s t := by
  cases hq : s.pending with
  | nil =>
    rw [step_empty hq] at h
    cases h
    exact fusesGrow_of_eq (fuses_of_kept (idle_kept s))
  | cons c rest =>
    rw [step_front hq] at h
    have hgrow := exec_fusesGrow h
    exact fusesGrow_pre hgrow rfl

/-- A step drops at most the front of the queue. -/
theorem step_pending {s t : State} (h : step s = .next t) : t.pending = s.pending.tail := by
  cases hq : s.pending with
  | nil =>
    rw [step_empty hq] at h
    cases h
    exact (congrArg KeptPart.pending (idle_kept s)).trans hq
  | cons c rest =>
    rw [step_front hq] at h
    exact (exec_lapMoves h).1

/-- Settles O3: a step lets the fuses grow only, and the queue that it leaves is the tail of the one that it found. -/
theorem everyStepKeepsFuses : Obligations.EveryStepKeepsFuses := by
  intro m s t hsame hburn hqueue hstep
  have hgrow := step_fusesGrow hstep
  refine ⟨sameMake_of_fusesGrow hsame hgrow, burnKept_of_fusesGrow hburn hgrow, fun c hc => hqueue c ?_⟩
  rw [step_pending hstep] at hc
  exact List.mem_of_mem_tail hc

end Sys2Proof.Machine
end

section
/-! Tumblers: how the TAKE waits of one are served (R432). -/

namespace Sys2Proof.Machine

/-! ## TAKE waits in order of arrival -/

/-- Behind a TAKE that cannot pass nothing passes. -/
theorem serveTakes_blocked (ws : List TumPend) (count : Nat) : serveTakes ws count true = ([], ws, count) := by
  induction ws with
  | nil => rfl
  | cons w ws ih => cases hw : w.take <;> simp [serveTakes, hw, ih]

theorem serveTakes_reach {w : TumPend} (ws : List TumPend) (count : Nat) (hw : w.take = false) :
    serveTakes (w :: ws) count false =
      ((serveTakes ws count false).1, w :: (serveTakes ws count false).2.1, (serveTakes ws count false).2.2) := by
  simp [serveTakes, hw]

theorem serveTakes_passes {w : TumPend} (ws : List TumPend) {count : Nat} (hw : w.take = true) (h : w.amount ≤ count) :
    serveTakes (w :: ws) count false = (w :: (serveTakes ws (count - w.amount) false).1, (serveTakes ws (count - w.amount) false).2) := by
  simp [serveTakes, hw, h]

theorem serveTakes_stops {w : TumPend} (ws : List TumPend) {count : Nat} (hw : w.take = true) (h : count < w.amount) :
    serveTakes (w :: ws) count false = ([], w :: ws, count) := by
  simp [serveTakes, hw, Nat.not_le.mpr h, serveTakes_blocked]

/-- Settles O16, by induction over the waits in their order: a REACH stays, a TAKE within COUNT passes, and the first one past it ends the
service. -/
theorem takesServedInOrder : Obligations.TakesServedInOrder := by
  intro ws
  induction ws with
  | nil => exact fun count => ⟨rfl, rfl, Nat.zero_add count, fun w rest h => by cases h⟩
  | cons w ws ih =>
    intro count
    cases hw : w.take with
    | false =>
      rw [serveTakes_reach ws count hw]
      obtain ⟨htakes, hreach, hsum, hfirst⟩ := ih count
      simp only [List.filter_cons, hw, Bool.false_eq_true, if_false, Bool.not_false, if_true]
      exact ⟨htakes, congrArg (w :: ·) hreach, hsum, hfirst⟩
    | true =>
      by_cases h : w.amount ≤ count
      · rw [serveTakes_passes ws hw h]
        obtain ⟨htakes, hreach, hsum, hfirst⟩ := ih (count - w.amount)
        simp only [List.filter_cons, hw, Bool.not_true, Bool.false_eq_true, if_false, if_true, List.cons_append, List.map_cons, List.sum_cons]
        exact ⟨congrArg (w :: ·) htakes, hreach, by omega, hfirst⟩
      · rw [serveTakes_stops ws hw (Nat.lt_of_not_le h)]
        refine ⟨rfl, rfl, Nat.zero_add count, fun v rest hv => ?_⟩
        rw [List.filter_cons, if_pos hw] at hv
        cases hv
        exact Nat.lt_of_not_le h

end Sys2Proof.Machine
end

section
/-! The words that signal a tumbler and wait at one (R430, R432, R437). -/

namespace Sys2Proof.Machine

open Sys2Proof.Safety

theorem exec_tumSignal (s : State) (u : Nat) : exec (.tumSignal u) s = .next (issueWord s u (isSop 0x0C) (opTumSignal u)) := rfl
theorem exec_tumWait (s : State) (u : Nat) : exec (.tumWait u) s = .next (issueWord s u (isSop 0x0D) (opTumWait u)) := rfl

/-! ## A tumbler after a write -/

@[simp] theorem tumGet_tumPut_self (s : State) (t : TumRef) (x : Tumbler) : tumGet (tumPut s t x) t = x := by
  obtain ⟨region, unit, index⟩ := t
  cases region <;> simp [tumGet, tumPut]

@[simp] theorem tumPut_tumPut (s : State) (t : TumRef) (x y : Tumbler) : tumPut (tumPut s t x) t y = tumPut s t y := by
  obtain ⟨region, unit, index⟩ := t
  cases region <;> simp [tumPut, updBlock, updRegion, setBlock, setRegion, getBlock, getRegion]

theorem updSeq_tumPut (s : State) (t : TumRef) (x : Tumbler) (u : Nat) (f : Seq → Seq) :
    updSeq (tumPut s t x) u f = tumPut (updSeq s u f) t x := by
  obtain ⟨region, unit, index⟩ := t
  cases region <;> rfl

theorem updSeq_updTask (s : State) (k u : Nat) (f : LapTask → LapTask) (g : Seq → Seq) : updSeq (updTask s k f) u g = updTask (updSeq s u g) k f := rfl

@[simp] theorem tumGet_updSeq (s : State) (u : Nat) (f : Seq → Seq) (t : TumRef) : tumGet (updSeq s u f) t = tumGet s t := rfl

@[simp] theorem tumCut_updSeq (s : State) (u : Nat) (f : Seq → Seq) (t : TumRef) : tumCut (updSeq s u f) t = tumCut s t := rfl

theorem getCore_tumPut (s : State) (t : TumRef) (x : Tumbler) (v : Nat) : getCore (tumPut s t x) v = getCore s v := by
  rw [getCore, tumPut_cores, getCore]

/-! ## TUM_SIGNAL -/

section
variable {s : State} {t : TumRef} {amount core slot : Nat}

theorem tumSignal_cut (h : tumCut s t = true) : tumSignal s t amount core 0 slot = (s, false) := if_pos h

theorem tumSignal_adds (h : tumCut s t = false) (hroom : (tumGet s t).count + amount ≤ 65535) :
    tumSignal s t amount core 0 slot = (tumRetest (noteSignaller (tumPut s t { tumGet s t with
      count := (tumGet s t).count + amount, signals := min ((tumGet s t).signals + 1) 65535, lastCore := core, lastSource := 0
      sigs := insNat (tumGet s t).sigs slot }) t slot) t, false) := by
  rw [tumSignal, if_neg (by simp [h])]
  exact if_neg (Nat.not_lt.mpr hroom)

theorem tumSignal_saturates (h : tumCut s t = false) (hpast : 65535 < (tumGet s t).count + amount) :
    tumSignal s t amount core 0 slot = (tumPut s t { tumGet s t with sat := true }, true) := by
  rw [tumSignal, if_neg (by simp [h])]
  exact if_pos hpast

end

theorem opTumSignal_go {s t : State} {u w : Nat}
    (h : tumSignal s (tumRefOf (unitBlock u) (qImm w)) (tumAmountOf (getCore s u) w) u 0 (runSlot s u) = (t, false)) :
    opTumSignal u s w = .go (stepPc t u) := by
  rw [opTumSignal, h]
  rfl

theorem opTumSignal_halt {s t : State} {u w : Nat}
    (h : tumSignal s (tumRefOf (unitBlock u) (qImm w)) (tumAmountOf (getCore s u) w) u 0 (runSlot s u) = (t, true)) :
    opTumSignal u s w = .halt t 0x13 (qImm w) := by
  rw [opTumSignal, h]
  rfl

/-- Settles O14: the signal is dropped, added or refused, and the word goes on but in the last case. -/
theorem tumblerSignalWord : Obligations.TumblerSignalWord := by
  intro s u w hissue hsop t x amount pc
  refine ⟨fun hcut => ?_, fun hcut hroom => ?_, fun hcut hpast => ?_⟩ <;> rw [exec_tumSignal]
  · exact congrArg _ (issueWord_go hissue (isSop_of_eq hsop) (opTumSignal_go (tumSignal_cut hcut)))
  · exact congrArg _ (issueWord_go hissue (isSop_of_eq hsop) (opTumSignal_go (tumSignal_adds hcut hroom)))
  · exact congrArg _ (issueWord_halt hissue (isSop_of_eq hsop) (opTumSignal_halt (tumSignal_saturates hcut hpast)))

/-! ## A wait that arrives where nothing waits -/

theorem tumRetest_tumPut (s : State) (t : TumRef) (x : Tumbler) {passed left : List TumPend} {count : Nat}
    (hserve : serveTakes x.waits x.count false = (passed, left, count)) :
    tumRetest (tumPut s t x) t = (passed ++ left.filter fun w => !w.take && decide (w.amount ≤ count)).foldl (passWait t x.hand)
      (tumPut s t { x with count := count, waits := left.filter fun w => w.take || !decide (w.amount ≤ count) }) := by
  rw [tumRetest, tumGet_tumPut_self, hserve]
  simp only [tumPut_tumPut]

section
variable {s : State} {t : TumRef} {p : TumPend}

theorem tumArrive_cut (h : tumCut s t = true) : tumArrive s t p = s := if_pos h

theorem tumArrive_alone (h : tumCut s t = false) (hfirst : (tumGet s t).waits = []) :
    tumArrive s t p = tumRetest (tumPut s t { tumGet s t with waits := [p] }) t := by
  rw [tumArrive, if_neg (by simp [h])]
  simp only [hfirst, List.nil_append]

theorem serveTakes_one_short {p : TumPend} {count : Nat} (h : count < p.amount) : serveTakes [p] count false = ([], [p], count) := by
  cases hp : p.take <;> simp [serveTakes, hp, Nat.not_le.mpr h]

theorem tumArrive_stalls (h : tumCut s t = false) (hfirst : (tumGet s t).waits = []) (hshort : (tumGet s t).count < p.amount) :
    tumArrive s t p = tumPut s t { tumGet s t with waits := [p] } := by
  rw [tumArrive_alone h hfirst, tumRetest_tumPut _ _ _ (serveTakes_one_short hshort)]
  simp [Nat.not_le.mpr hshort]

theorem tumArrive_passes (h : tumCut s t = false) (hfirst : (tumGet s t).waits = []) (henough : p.amount ≤ (tumGet s t).count) :
    tumArrive s t p = passWait t (tumGet s t).hand (tumPut s t { tumGet s t with
      count := if p.take then (tumGet s t).count - p.amount else (tumGet s t).count, waits := [] }) p := by
  rw [tumArrive_alone h hfirst]
  cases hp : p.take with
  | false =>
    have hserve : serveTakes [p] (tumGet s t).count false = ([], [p], (tumGet s t).count) := by simp [serveTakes, hp]
    rw [tumRetest_tumPut _ _ _ hserve]
    simp [hp, henough]
  | true =>
    have hserve : serveTakes [p] (tumGet s t).count false = ([p], [], (tumGet s t).count - p.amount) := by simp [serveTakes, hp, henough]
    rw [tumRetest_tumPut _ _ _ hserve]
    simp

end

/-! ## TUM_WAIT -/

/-- The unit at a wait that has not passed: issue stalls on its tumbler (R432). -/
def tumWaiting (s : State) (u w : Nat) : State :=
  updSeq s u fun q =>
    setWaits false false true false { q with tumPending := some (qImm w), tumAmount := tumAmountOf (getCore s u) w, tumPassed := false }

/-- The wait that a TUM_WAIT word names. -/
def wordPend (s : State) (u w : Nat) : TumPend := ⟨u, runSlot s u, tumAmountOf (getCore s u) w, !nmReach (qImm w)⟩

/-- A wait that has passed is forgotten, and issue goes on behind its word. -/
def tumServed (s : State) (u : Nat) : State :=
  stepPc (updSeq s u fun q => { q with tumPending := none, tumAmount := 0, tumPassed := false }) u

theorem runSlot_tumWaiting (s : State) (u w : Nat) : runSlot (tumWaiting s u w) u = runSlot s u := by simp [runSlot, tumWaiting, updSeq]

theorem opTumWait_first {s : State} {u w : Nat} (h : (getCore s u).seq.tumPending = none) :
    opTumWait u s w = (let t := tumArrive (tumWaiting s u w) (tumRefOf (unitBlock u) (qImm w)) (wordPend s u w)
      if (getCore t u).seq.tumPassed then .go (tumServed t u) else .stall t) := by
  simp only [opTumWait, h, Option.isSome_none, Bool.false_eq_true, if_false]
  rw [wordPend, ← runSlot_tumWaiting s u w]
  rfl

theorem opTumWait_passed {s : State} {u w : Nat} (h : (getCore s u).seq.tumPending ≠ none) (hpassed : (getCore s u).seq.tumPassed = true) :
    opTumWait u s w = .go (tumServed s u) := by
  have hsome : (getCore s u).seq.tumPending.isSome = true := Option.isSome_iff_ne_none.mpr h
  simp only [opTumWait, hsome, if_true, hpassed]
  rfl

theorem tumServed_eq (s : State) (u : Nat) : tumServed s u = updSeq s u fun q => { q with
    pc := (endTest q.pc q.loops).1, loops := (endTest q.pc q.loops).2, tumPending := none, tumAmount := 0, tumPassed := false } := by
  rw [tumServed, stepPc, updSeq_updSeq]

/-- What a word leaves does not depend on the wait flags, which its issue clears. -/
theorem issued_congr {a b : State} {u : Nat} (w pc : Nat)
    (h : updSeq a u (setWaits false false false false) = updSeq b u (setWaits false false false false)) : issued a u w pc = issued b u w pc := by
  rw [issued, h, issued]

/-- A word whose wait is pending has been checked, and goes on when its operation does. -/
theorem issueWord_pending {s t : State} {u w : Nat} {mine op} (h : curWord s u = some w) (hpend : (getCore s u).seq.tumPending ≠ none)
    (hm : mine w = true) (ho : op s w = .go t) : issueWord s u mine op = issued t u w (getCore s u).seq.pc := by
  simp [issueWord, h, hm, Option.isSome_iff_ne_none.mpr hpend, ho, issued]

section
variable {s : State} {u w : Nat} (hissue : mayIssue s u w)
include hissue

theorem issueWord_tumWait_stalls {t : State} (hsop : qSop w = 0x0D)
    (harrive : tumArrive (tumWaiting s u w) (tumRefOf (unitBlock u) (qImm w)) (wordPend s u w) = t)
    (hpassed : (getCore t u).seq.tumPassed = false) : issueWord s u (isSop 0x0D) (opTumWait u) = t := by
  refine issueWord_stall hissue (isSop_of_eq hsop) ?_
  rw [opTumWait_first hissue.2.1, harrive]
  exact if_neg (by simp [hpassed])

theorem issueWord_tumWait_passes {t : State} (hsop : qSop w = 0x0D)
    (harrive : tumArrive (tumWaiting s u w) (tumRefOf (unitBlock u) (qImm w)) (wordPend s u w) = t)
    (hpassed : (getCore t u).seq.tumPassed = true) :
    issueWord s u (isSop 0x0D) (opTumWait u) = issued (tumServed t u) u w (getCore s u).seq.pc := by
  refine issueWord_go hissue (isSop_of_eq hsop) ?_
  rw [opTumWait_first hissue.2.1, harrive]
  exact if_pos hpassed

end

theorem getCore_tumWaiting (s : State) (u w : Nat) : (getCore (tumWaiting s u w) u).seq.tumPassed = false := by
  simp [tumWaiting, updSeq, setWaits]

theorem getCore_passWait (t : TumRef) (hand : Bool) (s : State) (p : TumPend) : (getCore (passWait t hand s p) p.unit).seq.tumPassed = true := by
  simp [passWait, updSeq]

/-- A wait that passes at once leaves the unit as one that never stalled, with the tumbler and the task as the pass leaves them. -/
theorem issued_passes (s : State) (u w pc : Nat) (t : TumRef) (hand : Bool) (x : Tumbler) :
    issued (tumServed (passWait t hand (tumPut (tumWaiting s u w) t x) (wordPend s u w)) u) u w pc =
      issued (updTask (tumPut (updSeq s u fun q => { q with
          pc := (endTest q.pc q.loops).1, loops := (endTest q.pc q.loops).2,
          tumPending := none, tumAmount := 0, tumPassed := false, waitTum := false }) t x)
        (runSlot s u) fun k => { k with rdTums := insNat k.rdTums (tumKey t), replay := k.replay || hand }) u w pc := by
  refine issued_congr w pc ?_
  simp only [passWait, wordPend, tumServed_eq, tumWaiting, updSeq_updTask, updSeq_tumPut, updSeq_updSeq]
  exact congrArg (fun a => updTask (tumPut a t x) _ _) (updSeq_const _ _ _ _ rfl)

/-- Settles O15: the wait arrives at a tumbler that is cut, short of it or enough for it; a word whose wait has passed issues. -/
theorem tumblerWaitWord : Obligations.TumblerWaitWord := by
  refine ⟨?_, fun s u w hword hsop hpend hpassed => ?_⟩
  swap
  · rw [exec_tumWait, issueWord_pending hword hpend (isSop_of_eq hsop) (opTumWait_passed hpend hpassed), tumServed_eq]
  intro s u w hissue hsop t x amount take pc waiting
  rw [exec_tumWait]
  refine ⟨fun hcut => ?_, fun hcut hfirst hshort => ?_, fun hcut hfirst henough => ?_⟩
  · exact congrArg _ (issueWord_tumWait_stalls hissue hsop (tumArrive_cut hcut) (getCore_tumWaiting s u w))
  · refine congrArg _ (issueWord_tumWait_stalls hissue hsop (tumArrive_stalls hcut hfirst hshort) ?_)
    rw [getCore_tumPut]
    exact getCore_tumWaiting s u w
  · refine congrArg _ ((issueWord_tumWait_passes hissue hsop (tumArrive_passes hcut hfirst henough) (getCore_passWait ..)).trans ?_)
    exact issued_passes s u w pc t x.hand _

end Sys2Proof.Machine
end

section
/-! The synchronisation-state dump (R444 to R446), as the register port and the sideband port read it. -/

namespace Sys2Proof.Machine

theorem exec_syncDumpStart (s : State) : exec .syncDumpStart s = .next (dumpStart s) := rfl
theorem exec_syncDumpCancel (s : State) : exec .syncDumpCancel s = .next (dumpCancel s) := rfl
theorem exec_syncDumpDataRead (s : State) : exec .syncDumpDataRead s = .next (emit (dumpNext s).2 (.read 0 0 [(dumpNext s).1])) := rfl

/-- The header entry of a dump that starts (R444). -/
def dumpHeader (s : State) : DumpRef :=
  .header (s.lap.num % 2 ^ 48 * 2 ^ 4 + fget s fPART_ID_ID 0 0 * 2 ^ 52 + (dumpBody s).length * 2 ^ 72)

theorem dumpStart_idle {s : State} (h : s.dump.busy = false) : dumpStart s = { s with dump := ⟨true, dumpHeader s :: dumpBody s, 0, [], 0⟩ } :=
  if_neg (by simp [h])

theorem dumpStart_busy {s : State} (h : s.dump.busy = true) : dumpStart s = s := if_pos h

theorem dumpCancel_busy {s : State} (h : s.dump.busy = true) : dumpCancel s = { s with dump := { s.dump with todo := [], cur := 0, word := 0 } } :=
  if_pos h

/-! ## The entry at hand -/

section
variable {s : State}

theorem dumpAt_first {e : DumpRef} {rest : List DumpRef} (htodo : s.dump.todo = e :: rest) (hword : s.dump.word = 0) : dumpAt s = dumpEntry s e := by
  simp [dumpAt, hword, htodo]

theorem dumpAt_end (htodo : s.dump.todo = []) (hword : s.dump.word = 0) : dumpAt s = dumpEnd s.dump.read := by
  simp [dumpAt, hword, htodo]

theorem dumpAt_within (hword : s.dump.word ≠ 0) : dumpAt s = s.dump.cur := if_pos hword

end

/-! ## The next word -/

section
variable {s : State} (hbusy : s.dump.busy = true)

theorem dumpNext_idle (h : s.dump.busy = false) : dumpNext s = (0, s) := by simp [dumpNext, h]

include hbusy

theorem dumpNext_within (hword : s.dump.word < 7) : dumpNext s =
    (nbits (dumpAt s) (32 * s.dump.word) 32, { s with dump := { s.dump with cur := dumpAt s, word := s.dump.word + 1 } }) := by
  simp [dumpNext, hbusy, hword]

theorem dumpNext_entry {e : DumpRef} {rest : List DumpRef} (htodo : s.dump.todo = e :: rest) (hword : s.dump.word = 7) : dumpNext s =
    (nbits s.dump.cur 224 32, { s with dump := { s.dump with todo := rest, cur := 0, read := s.dump.read ++ [s.dump.cur], word := 0 } }) := by
  simp [dumpNext, hbusy, hword, htodo, dumpAt_within (s := s) (by omega)]

theorem dumpNext_end (htodo : s.dump.todo = []) (hword : s.dump.word = 7) : dumpNext s =
    (nbits s.dump.cur 224 32, fput { s with dump := dumpReset } fPART_SYNC_DUMP_STATUS_DONE 0 0 1) := by
  simp [dumpNext, hbusy, hword, htodo, dumpAt_within (s := s) (by omega)]

end

/-- Settles O41: START, CANCEL and each word by the place of the dump. -/
theorem dumpReads : Obligations.DumpReads := by
  intro s d
  refine ⟨fun hidle => ?_, fun hbusy => ?_, fun hbusy => ?_, fun hidle => ?_, fun e rest hbusy htodo hword => ?_, fun hbusy hpos hword => ?_,
    fun e rest hbusy htodo hword => ?_, fun hbusy htodo hword => ?_, fun hbusy htodo hword => ?_⟩
  · rw [exec_syncDumpStart, dumpStart_idle hidle]
    rfl
  · rw [exec_syncDumpStart, dumpStart_busy hbusy]
  · rw [exec_syncDumpCancel, dumpCancel_busy hbusy]
  · rw [exec_syncDumpDataRead, dumpNext_idle hidle]
  · rw [exec_syncDumpDataRead, dumpNext_within hbusy (lt_of_eq_of_lt hword (by decide)), dumpAt_first htodo hword, hword]
  · rw [exec_syncDumpDataRead, dumpNext_within hbusy hword, dumpAt_within (Nat.ne_of_gt hpos)]
  · rw [exec_syncDumpDataRead, dumpNext_entry hbusy htodo hword]
  · rw [exec_syncDumpDataRead, dumpNext_within hbusy (lt_of_eq_of_lt hword (by decide)), dumpAt_end htodo hword, hword]
  · rw [exec_syncDumpDataRead, dumpNext_end hbusy htodo hword]
    rfl

/-! ## Two entries at a time -/

/-- The eight words of an entry. -/
def entryWords (x : Nat) : List Nat := (List.range 8).map fun i => nbits x (32 * i) 32

theorem dumpWords_next {s : State} (n : Nat) (hbusy : s.dump.busy = true) :
    dumpWords (n + 1) s = ((dumpNext s).1 :: (dumpWords n (dumpNext s).2).1, (dumpWords n (dumpNext s).2).2) := if_pos hbusy

/-- The dump with its entry at hand, k words of it read. -/
def dumpWithin (s : State) (x k : Nat) : State := { s with dump := { s.dump with cur := x, word := k } }

/-- The dump past its entry at hand. -/
def dumpPast (s : State) (rest : List DumpRef) (x : Nat) : State :=
  { s with dump := { s.dump with todo := rest, cur := 0, read := s.dump.read ++ [x], word := 0 } }

/-- The words of an entry from the one that comes next. -/
theorem dumpWords_within {s : State} {e : DumpRef} {rest : List DumpRef} (hbusy : s.dump.busy = true) (htodo : s.dump.todo = e :: rest) (n x : Nat)
    {j : Nat} (hj : j ≤ 6) :
    dumpWords (n + (j + 1)) (dumpWithin s x (7 - j)) =
      ((List.range' (7 - j) (j + 1)).map (fun i => nbits x (32 * i) 32) ++ (dumpWords n (dumpPast s rest x)).1,
        (dumpWords n (dumpPast s rest x)).2) := by
  have hwithin (k : Nat) : (dumpWithin s x k).dump.busy = true := hbusy
  induction j with
  | zero =>
    rw [Nat.zero_add, dumpWords_next n (hwithin _), dumpNext_entry (s := dumpWithin s x (7 - 0)) hbusy htodo rfl]
    rfl
  | succ j ih =>
    have hplace : (dumpWithin s x (7 - (j + 1))).dump.word = 7 - (j + 1) := rfl
    have hnext : dumpNext (dumpWithin s x (7 - (j + 1))) = (nbits x (32 * (7 - (j + 1))) 32, dumpWithin s x (7 - j)) := by
      rw [dumpNext_within (hwithin _) (by omega), dumpAt_within (by omega), hplace, show 7 - (j + 1) + 1 = 7 - j by omega]
      rfl
    have hplaces : List.range' (7 - (j + 1)) (j + 1 + 1) = (7 - (j + 1)) :: List.range' (7 - j) (j + 1) := by
      rw [List.range'_succ, show 7 - (j + 1) + 1 = 7 - j by omega]
    rw [← Nat.add_assoc, dumpWords_next _ (hwithin _), hnext, ih (by omega), hplaces]
    rfl

theorem dumpWords_entry {s : State} {e : DumpRef} {rest : List DumpRef} (hbusy : s.dump.busy = true) (htodo : s.dump.todo = e :: rest)
    (hword : s.dump.word = 0) (n : Nat) :
    dumpWords (n + 8) s = (entryWords (dumpEntry s e) ++ (dumpWords n (dumpPast s rest (dumpEntry s e))).1,
      (dumpWords n (dumpPast s rest (dumpEntry s e))).2) := by
  have hnext : dumpNext s = (nbits (dumpEntry s e) (32 * 0) 32, dumpWithin s (dumpEntry s e) (7 - 6)) := by
    rw [dumpNext_within hbusy (by omega), dumpAt_first htodo hword, hword]
    rfl
  rw [dumpWords_next (n + 7) hbusy, hnext, dumpWords_within hbusy htodo n _ (Nat.le_refl 6)]
  rfl

/-- What an entry says does not depend on how far the dump has come. -/
theorem dumpEntry_dumpPast (s : State) (rest : List DumpRef) (x : Nat) (e : DumpRef) : dumpEntry (dumpPast s rest x) e = dumpEntry s e := by
  cases e <;> rfl

end Sys2Proof.Machine
end

section
/-! The sideband port (R505, R519, R522, R542, R548, R554, R579, R580, R582 to R584, R589): a request by whether it is served, and then by its
own command. -/

namespace Sys2Proof.Machine

/-! ## Whether a request is served (R574, R580) -/

theorem sideServed_iff (s : State) : sideServed s = true ↔ partOn s = true ∧ 2 ≤ bootPhase s := by simp [sideServed]

section
variable {s : State} (cmd tag : Nat) (ops : Bytes) (act : State → State)

theorem sideCommand_held (h : partOn s = false) : sideCommand s cmd tag ops act = s := if_pos (by simp [h])

theorem sideCommand_early (hon : partOn s = true) (hphase : bootPhase s < 2) : sideCommand s cmd tag ops act = answer s tag 1 [] := by
  have hserved : ¬ sideServed s = true := by simp [sideServed_iff, hphase]
  rw [sideCommand, if_neg (by simp [hon]), if_neg hserved]

theorem sideCommand_served (h : sideServed s = true) : sideCommand s cmd tag ops act = act (sideInput s cmd tag ops) := by
  rw [sideCommand, if_neg (by simp [((sideServed_iff s).1 h).1]), if_pos h]

end

/-- The commands that are served from LISTS on, each with its command byte, operands and act. -/
theorem exec_errqRead (s : State) (q : QueueId) (tag : Nat) : exec (.errqRead q tag) s = .next (sideCommand s 2 tag (queueBytes q) (errqRead q tag)) := rfl
theorem exec_deadbolt (s : State) (k u tag : Nat) :
    exec (.deadbolt k u tag) s = .next (sideCommand s 3 tag (natLe 1 k ++ natLe 2 u) (sideDeadbolt k u tag)) := rfl
theorem exec_regionReset (s : State) (r tag : Nat) : exec (.regionReset r tag) s =
    .next (sideCommand s 4 tag (natLe 1 r) fun s => answer (partRegionReset s byBoard r) tag 0 []) := rfl
theorem exec_syncDump (s : State) (start : Bool) (tag : Nat) :
    exec (.syncDump start tag) s = .next (sideCommand s 5 tag (natLe 1 (b2n start)) (sideDump start tag)) := rfl
theorem exec_trkTrigger (s : State) (tag : Nat) :
    exec (.trkTrigger tag) s = .next (sideCommand s 6 tag [] fun s => answer (trkTrigger s) tag 0 []) := rfl
theorem exec_listPut (s : State) (es : List (BitVec 64)) (tag : Nat) : exec (.listPut es tag) s =
    .next (sideCommand s 7 tag (es.flatMap fun e => natLe 8 e.toNat) (listPut es tag)) := rfl
theorem exec_listDone (s : State) (tag : Nat) : exec (.listDone tag) s = .next (sideCommand s 8 tag [] fun s => answer (listDone s) tag 0 []) := rfl
theorem exec_debugNonce (s : State) (tag : Nat) : exec (.debugNonce tag) s =
    .next (sideCommand s 0xA tag [] fun s => answer s tag 0 ((rangeFrom 0 4).map fun i => nbits s.boot.nonce (32 * i) 32)) := rfl
theorem exec_debugUnlock (s : State) (token : Bytes) (tag : Nat) :
    exec (.debugUnlock token tag) s = .next (sideCommand s 0xB tag token (debugUnlock token tag)) := rfl
theorem exec_ownerEnroll (s : State) (d : BitVec 256) (tag : Nat) :
    exec (.ownerEnroll d tag) s = .next (sideCommand s 0xC tag (natLe 32 d.toNat) (ownerEnroll d tag)) := rfl
theorem exec_indRead (s : State) (r target o n tag : Nat) : exec (.indRead r target o n tag) s =
    .next (sideCommand s 0xD tag (natLe 1 r ++ natLe 1 target ++ natLe 4 o ++ natLe 1 n) (indReadCmd r target o n tag)) := rfl
theorem exec_regRead (s : State) (o n tag : Nat) : exec (.regRead o n tag) s = .next (regReadCmd s o n tag) := rfl

/-- A command of the port that is served from LISTS on, whatever its act. -/
def SideCommandOf (c : Instr) (tag : Nat) : Prop := ∃ cmd ops act, ∀ s, exec c s = .next (sideCommand s cmd tag ops act)

theorem sideCommandOf_mem {r target o n tag k u : Nat} {q : QueueId} {start : Bool} {es : List (BitVec 64)} {token : Bytes} {d : BitVec 256} {c : Instr}
    (hc : c ∈ ([.errqRead q tag, .deadbolt k u tag, .regionReset r tag, .syncDump start tag, .trkTrigger tag, .listPut es tag, .listDone tag,
      .debugNonce tag, .debugUnlock token tag, .ownerEnroll d tag, .indRead r target o n tag] : List Instr)) : SideCommandOf c tag := by
  simp only [List.mem_cons, List.not_mem_nil, or_false] at hc
  rcases hc with rfl | rfl | rfl | rfl | rfl | rfl | rfl | rfl | rfl | rfl | rfl <;> exact ⟨_, _, _, fun _ => rfl⟩

theorem exec_sideCommand_held {c : Instr} {tag : Nat} (hc : SideCommandOf c tag) {s : State} (h : partOn s = false) : exec c s = .next s := by
  obtain ⟨cmd, ops, act, hexec⟩ := hc
  rw [hexec, sideCommand_held _ _ _ _ h]

theorem exec_sideCommand_early {c : Instr} {tag : Nat} (hc : SideCommandOf c tag) {s : State} (hon : partOn s = true) (hphase : bootPhase s < 2) :
    exec c s = .next (answer s tag 1 []) := by
  obtain ⟨cmd, ops, act, hexec⟩ := hc
  rw [hexec, sideCommand_early _ _ _ _ hon hphase]

/-! ## Reads -/

theorem length_sideWords (n o : Nat) (s : State) : (sideWords n o s).1.length = n := by
  induction n generalizing o s with
  | zero => rfl
  | succ n ih => exact congrArg (· + 1) (ih ..)

theorem length_indWords (r n : Nat) (s : State) : (indWords r n s).1.length = n := by
  induction n generalizing s with
  | zero => rfl
  | succ n ih => exact congrArg (· + 1) (ih ..)

section
variable {s : State} {o n : Nat} (tag : Nat)

theorem regReadCmd_held (h : partOn s = false) : regReadCmd s o n tag = s := if_pos (by simp [h])

theorem regReadCmd_refused (hon : partOn s = true) (h : n = 0 ∨ 16 < n ∨ o % 4 ≠ 0) : regReadCmd s o n tag = answer s tag 1 [] := by
  rw [regReadCmd, if_neg (by simp [hon]), if_pos h]

theorem regReadCmd_words (hon : partOn s = true) (hlow : 1 ≤ n) (hhigh : n ≤ 16) (halign : o % 4 = 0) :
    regReadCmd s o n tag = (let t := sideWords n o (sideInput s 1 tag (natLe 4 o ++ natLe 1 n)); answer t.2 tag 0 t.1) := by
  rw [regReadCmd, if_neg (by simp [hon]), if_neg (by omega)]

end

theorem errqRead_empty {s : State} {q : QueueId} (tag : Nat) (h : (queueOf s q).recs = []) : errqRead q tag s = answer s tag 0 [] := by
  rw [errqRead, h]

theorem errqRead_head {s : State} {q : QueueId} (tag : Nat) {x : Nat} {rest : List Nat} (h : (queueOf s q).recs = x :: rest) :
    errqRead q tag s = answer s tag 0 ((rangeFrom 0 8).map fun i => nbits x (32 * i) 32) := by
  rw [errqRead, h]

/-- Recording a request leaves the fuses, and so the regions that the part has. -/
theorem regionPresent_sideInput (s : State) (cmd tag : Nat) (ops : Bytes) (r : Nat) : regionPresent (sideInput s cmd tag ops) r = regionPresent s r :=
  congrArg (fun f : Fuses => decide (r < regionCount f.grade)) (fuses_of_kept (sideInput_kept s cmd tag ops))

section
variable {s : State} {r n : Nat} (target o tag : Nat)

theorem indReadCmd_refused (h : regionPresent s r = false ∨ n = 0 ∨ 16 < n) : indReadCmd r target o n tag s = answer s tag 1 [] :=
  if_pos (by simpa [or_assoc] using h)

theorem indReadCmd_words (hr : regionPresent s r = true) (hlow : 1 ≤ n) (hhigh : n ≤ 16) : indReadCmd r target o n tag s =
    answer (indWords r n (setIndAddr s r target o)).2 tag 0 (indWords r n (setIndAddr s r target o)).1 :=
  if_neg (by simp [hr]; omega)

end

/-! ## Commands that act -/

section
variable {s : State} (k u tag : Nat)

theorem sideDeadbolt_lists (h : bootPhase s = 2) : sideDeadbolt k u tag s =
    answer { s with boot := { s.boot with heldDead := s.boot.heldDead ++ [(k, u)] } } tag 0 [] := if_pos h

theorem sideDeadbolt_acts (h : bootPhase s ≠ 2) : sideDeadbolt k u tag s = answer (deadboltCmd s byBoard k u) tag 0 [] := if_neg h

end

theorem sideDump_idle {s : State} (tag : Nat) (h : s.dump.busy = false) : sideDump false tag s = answer s tag 0 [] := by
  have hnone : dumpWords 16 s = ([], s) := if_neg (by simp [h])
  simp [sideDump, hnone]

/-- The next two entries go out whole, the second as it stood when the first did. -/
theorem sideDump_entries {s : State} (tag : Nat) {a b : DumpRef} {rest : List DumpRef} (hbusy : s.dump.busy = true) (hword : s.dump.word = 0)
    (htodo : s.dump.todo = a :: b :: rest) : sideDump false tag s = answer { s with dump := { s.dump with
      todo := rest, cur := 0, read := s.dump.read ++ [dumpEntry s a, dumpEntry s b], word := 0 } } tag 0
        (entryWords (dumpEntry s a) ++ entryWords (dumpEntry s b)) := by
  have hsecond := dumpWords_entry (s := dumpPast s (b :: rest) (dumpEntry s a)) (e := b) (rest := rest) hbusy rfl rfl 0
  have hwords : dumpWords 16 s = (entryWords (dumpEntry s a) ++ entryWords (dumpEntry s b),
      dumpPast (dumpPast s (b :: rest) (dumpEntry s a)) rest (dumpEntry s b)) := by
    rw [dumpWords_entry hbusy htodo hword 8, hsecond, dumpEntry_dumpPast]
    simp [dumpWords]
  simp [sideDump, hwords, dumpPast]

/-! ## The board's lists (R584) -/

section
variable {s : State} {es : List (BitVec 64)} (tag : Nat)

/-- The part with a message of list entries kept. -/
def listsKept (s : State) (es : List (BitVec 64)) : State := { s with side := { s.side with lists := s.side.lists ++ es.map (·.toNat) } }

theorem listPut_long (h : 7 < es.length) : listPut es tag s = answer s tag 1 [] := if_pos h

theorem listPut_lists (h : es.length ≤ 7) (hphase : bootPhase s = 2) : listPut es tag s = answer (listsKept s es) tag 0 [] := by
  have hkept : bootPhase (listsKept s es) = 2 := hphase
  rw [listPut, if_neg (by omega)]
  exact congrArg (answer · tag 0 []) (if_pos hkept)

theorem listPut_later (h : es.length ≤ 7) (hphase : bootPhase s ≠ 2) :
    listPut es tag s = answer (measLists (listsKept s es)) tag 0 [] := by
  have hkept : bootPhase (listsKept s es) ≠ 2 := hphase
  rw [listPut, if_neg (by omega)]
  exact congrArg (answer · tag 0 []) (if_neg hkept)

end

/-! ## Debug unlock (R579, R589) -/

theorem debugUnlock_refused {s : State} {token : Bytes} (tag : Nat) (h : tokenOk s token = false) :
    debugUnlock token tag s = answer (securityEvent (renewNonce s) 3) tag 1 [] := if_neg (by simp [h])

theorem tokenOk_iff (s : State) (token : Bytes) : tokenOk s token = true ↔
    fget s fPART_SEC_CFG_DEBUG_ALLOW 0 0 = 1 ∧ outOfService s = true ∧ token.take 16 = deviceBinding s ∧
      leNat ((token.drop 16).take 16) = s.boot.nonce ∧ (tokenLevel token = 1 ∨ tokenLevel token = 2) ∧
      Config.falconVerify Config.genlonRootKey (natLe 32 (digest (token.take 33))) (token.drop 33) = true := by
  simp [tokenOk, and_assoc]

theorem outOfService_iff (s : State) : outOfService s = true ↔ inService s = false ∧ fget s fPART_BOOT_CTRL_SERVICE 0 0 = 0 := by simp [outOfService]

theorem tokenOk_eq_false {s : State} {token : Bytes} (h : inService s = true ∨ fget s fPART_BOOT_CTRL_SERVICE 0 0 = 1 ∨
    fget s fPART_SEC_CFG_DEBUG_ALLOW 0 0 = 0 ∨ leNat ((token.drop 16).take 16) ≠ s.boot.nonce) : tokenOk s token = false := by
  rw [Bool.eq_false_iff, Ne, tokenOk_iff, outOfService_iff]
  rintro ⟨hallow, ⟨hservice, hoff⟩, -, hnonce, -⟩
  rcases h with h | h | h | h
  · simp [hservice] at h
  · omega
  · omega
  · exact h hnonce

/-- The part with a token accepted: its level in force, M5 taken and the alias certificate signed again. -/
def unlocked (s : State) (token : Bytes) : State :=
  let t := fput (renewNonce s) fPART_BOOT_STATUS_DEBUG_LEVEL 0 0 (tokenLevel token)
  signAlias (measDebug { t with boot := { t.boot with debugToken := token } })

theorem debugUnlock_accepted {s : State} {token : Bytes} (tag : Nat) (h : tokenOk s token = true) :
    debugUnlock token tag s = answer (securityEvent (unlocked s token) 2) tag 0 [] := if_pos h

theorem debugLevel_unlocked {s : State} {token : Bytes} (h : tokenOk s token = true) :
    fget (unlocked s token) fPART_BOOT_STATUS_DEBUG_LEVEL 0 0 = tokenLevel token := by
  obtain ⟨-, -, -, -, hlevel, -⟩ := (tokenOk_iff s token).1 h
  have hput := fget_fput_self (renewNonce s) fPART_BOOT_STATUS_DEBUG_LEVEL 0 0 (tokenLevel token)
  exact hput.trans (Nat.mod_eq_of_lt (show tokenLevel token < 4 by omega))

theorem token_ne_nil {s : State} {token : Bytes} (h : tokenOk s token = true) : token ≠ [] := by
  obtain ⟨-, -, -, -, hlevel, -⟩ := (tokenOk_iff s token).1 h
  rintro rfl
  exact absurd hlevel (by decide)

theorem meas_unlocked {s : State} {token : Bytes} (h : tokenOk s token = true) :
    tabGet 0 (unlocked s token).boot.meas 5 = digest (natLe 1 (tokenLevel token) ++ natLe 32 (digest token)) := by
  have htoken : token.isEmpty = false := List.isEmpty_eq_false_iff.mpr (token_ne_nil h)
  have hlevel := debugLevel_unlocked h
  let t := fput (renewNonce s) fPART_BOOT_STATUS_DEBUG_LEVEL 0 0 (tokenLevel token)
  have hbytes : debugBytes { t with boot := { t.boot with debugToken := token } } = natLe 1 (tokenLevel token) ++ natLe 32 (digest token) := by
    refine congrArg₂ (fun a b => natLe 1 a ++ natLe 32 b) hlevel ?_
    exact if_neg (by simp [htoken])
  exact (tabGet_tabSet_self 0 _ 5 _).trans (congrArg digest hbytes)

theorem unlocked_frame (s : State) (token : Bytes) :
    unlocked s token = { renewNonce s with flds := (unlocked s token).flds, boot := (unlocked s token).boot } := rfl

theorem debugToken_unlocked (s : State) (token : Bytes) : (unlocked s token).boot.debugToken = token := rfl

theorem nonce_unlocked (s : State) (token : Bytes) : (unlocked s token).boot.nonce = (renewNonce s).boot.nonce := rfl

theorem aliasCert_unlocked (s : State) (token : Bytes) :
    let v := unlocked s token
    let body := Config.certBody (Config.aliasKey s.fuses.seed (getMeas v 1) (getMeas v 2) (getMeas v 5))
    v.boot.aliasCert = body ++ Config.deviceSign s.fuses.seed body := rfl

theorem testPortServed_iff (s : State) : testPortServed s = true ↔ fget s fPART_BOOT_STATUS_DEBUG_LEVEL 0 0 = 2 := by simp [testPortServed]

/-! ## Owner enrolment (R583) -/

section
variable {s : State} {d : BitVec 256} (tag : Nat)

theorem ownerEnroll_burns (hblank : s.fuses.ownerDigest = none) (hservice : inService s = false) (hoff : fget s fPART_BOOT_CTRL_SERVICE 0 0 = 0) :
    ownerEnroll d tag s = answer (securityEvent (fuseOwner s d) 4) tag 0 [] :=
  if_pos (by simp [hblank, (outOfService_iff s).2 ⟨hservice, hoff⟩])

theorem ownerEnroll_refused (h : s.fuses.ownerDigest ≠ none ∨ inService s = true ∨ fget s fPART_BOOT_CTRL_SERVICE 0 0 ≠ 0) :
    ownerEnroll d tag s = answer s tag 1 [] := by
  refine if_neg fun hall => ?_
  obtain ⟨hblank, hout⟩ := Bool.and_eq_true_iff.1 hall
  obtain ⟨hservice, hoff⟩ := (outOfService_iff s).1 hout
  rcases h with h | h | h
  · exact h (Option.isNone_iff_eq_none.1 hblank)
  · simp [hservice] at h
  · exact h hoff

end

/-! ## Messages to the board, and from it by their command byte (R580, R582) -/

theorem exec_notifyAck (s : State) : exec .notifyAck s = .next (notifyAck s) := rfl
theorem exec_notifyResend (s : State) : exec .notifyResend s = .next (notifyResend s) := rfl

theorem notifyAck_empty {s : State} (h : s.side.queue = []) : notifyAck s = { s with pins := { s.pins with smbAlertN := true } } := by
  have hside : { s.side with queue := [] } = s.side := by rw [← h]
  rw [notifyAck, h]
  exact congrArg (fun side => { s with side := side, pins := { s.pins with smbAlertN := true } }) hside

/-- Every message that waits goes out again, the oldest first. -/
theorem notifyResend_eq (s : State) : notifyResend s = { s with
    out := (s.side.queue.map fun m => Output.notify s.side.eid m.seq (b2n m.entry) m.data).reverse ++ s.out } := by
  have emit_each (q : List Notify) (t : State) : q.foldl (fun t m => emit t (.notify t.side.eid m.seq (b2n m.entry) m.data)) t =
      { t with out := (q.map fun m => Output.notify t.side.eid m.seq (b2n m.entry) m.data).reverse ++ t.out } := by
    induction q generalizing t with
    | nil => rfl
    | cons m q ih =>
      rw [List.foldl_cons, ih, List.map_cons, List.reverse_cons, List.append_assoc]
      rfl
  exact emit_each s.side.queue s

theorem notify_queue (s : State) (entry : Bool) (data : Nat) : (notify s entry data).side.queue =
    if s.side.queue.length < 4096 then s.side.queue ++ [(⟨s.side.seq, entry, data⟩ : Notify)]
    else (s.side.queue ++ [(⟨s.side.seq, entry, data⟩ : Notify)]).eraseP fun x => !x.entry := rfl

/-- Where a message that is no list entry joins, one that is none leaves. -/
theorem length_eraseP_join (q : List Notify) {m : Notify} (h : m.entry = false) : ((q ++ [m]).eraseP fun x => !x.entry).length = q.length := by
  rw [List.length_eraseP_of_mem (a := m) (by simp) (by simp [h])]
  simp

theorem sideAction_reserved {cmd : Nat} (tag : Nat) (ops : Bytes) (h : cmd = 0 ∨ cmd = 9 ∨ 0xE ≤ cmd) : sideAction cmd tag ops = none := by
  unfold sideAction
  dsimp only
  split
  case h_12 => rfl
  all_goals omega

theorem sideMessage_reserved {s : State} {cmd : Nat} (tag : Nat) (ops : Bytes) (h : cmd = 0 ∨ cmd = 9 ∨ 0xE ≤ cmd) :
    sideMessage s cmd tag ops = if partOn s then answer s tag 1 [] else s := by
  cases hon : partOn s with
  | false => exact if_pos (by simp [hon])
  | true =>
    rw [sideMessage, if_neg (by simp [hon]), if_neg (by omega), sideAction_reserved tag ops h]
    rfl

/-- Settles O59: whether the port serves, then each request in turn, then what goes to the board. -/
theorem sidebandCommands : Obligations.SidebandCommands := by
  refine ⟨?_, fun s => ?_⟩
  swap
  · refine ⟨fun hnone => ?_, fun m rest hqueue => ?_, ?_, fun eid => ⟨fun hon => ?_, fun hoff => ?_⟩, fun cmd tag ops h => ?_, fun entry data => ?_⟩
    · rw [exec_notifyAck, notifyAck_empty hnone]
    · rw [exec_notifyAck, notifyAck, hqueue]
      rfl
    · rw [exec_notifyResend, notifyResend_eq]
    · exact congrArg _ (if_pos hon)
    · exact congrArg _ (if_neg (by simp [hoff]))
    · exact sideMessage_reserved tag ops h
    · rw [notify_queue]
      exact ⟨fun hroom => if_pos hroom, fun hfull => ⟨if_neg (by omega), fun hentry => by rw [if_neg (by omega), length_eraseP_join _ hentry]⟩⟩
  intro s o n tag r target k u q start es token d served
  refine ⟨fun c hc hoff => ?_, fun c hc hon hphase => ?_, fun hon => ?_, fun hserved => ?_⟩
  · rcases List.mem_cons.1 hc with rfl | hc
    · rw [exec_regRead, regReadCmd_held tag hoff]
    · exact exec_sideCommand_held (sideCommandOf_mem hc) hoff
  · exact exec_sideCommand_early (sideCommandOf_mem hc) hon hphase
  · refine ⟨fun hbad => ?_, fun hlow hhigh halign => ?_⟩ <;> rw [exec_regRead]
    · rw [regReadCmd_refused tag hon hbad]
    · rw [regReadCmd_words tag hon hlow hhigh halign]
      exact ⟨_, _, rfl, length_sideWords .., rfl, fun hone => by subst hone; rfl⟩
  · refine ⟨?_, ?_, ?_, ?_, ?_, ?_, ?_, ?_, ?_, ?_⟩
    case refine_1 =>
      intro t
      rw [exec_errqRead, sideCommand_served _ _ _ _ hserved]
      exact ⟨fun hempty => congrArg _ (errqRead_empty tag hempty), fun x rest hhead => congrArg _ (errqRead_head tag hhead)⟩
    case refine_2 =>
      intro t
      rw [exec_deadbolt, sideCommand_served _ _ _ _ hserved]
      exact ⟨fun hphase => congrArg _ (sideDeadbolt_lists k u tag hphase), fun hphase => congrArg _ (sideDeadbolt_acts k u tag hphase)⟩
    case refine_3 => rw [exec_regionReset, sideCommand_served _ _ _ _ hserved]
    case refine_4 => rw [exec_trkTrigger, sideCommand_served _ _ _ _ hserved]
    case refine_5 =>
      intro t
      rw [exec_syncDump, sideCommand_served _ _ _ _ hserved]
      refine ⟨fun hstart => ?_, fun hstart hidle => ?_, fun a b rest hstart hbusy hword htodo => ?_⟩ <;> subst hstart
      · rfl
      · exact congrArg _ (sideDump_idle tag hidle)
      · exact congrArg _ (sideDump_entries tag hbusy hword htodo)
    case refine_6 =>
      intro t kept
      rw [exec_listPut, sideCommand_served _ _ _ _ hserved]
      exact ⟨fun hlong => congrArg _ (listPut_long tag hlong), fun hshort hphase => congrArg _ (listPut_lists tag hshort hphase),
        fun hshort hphase => congrArg _ (listPut_later tag hshort hphase)⟩
    case refine_7 =>
      intro t
      rw [exec_debugNonce, sideCommand_served _ _ _ _ hserved]
      rfl
    case refine_8 =>
      intro t renewed
      rw [exec_debugUnlock, sideCommand_served _ _ _ _ hserved]
      refine ⟨fun hrefused => congrArg _ (debugUnlock_refused tag hrefused), tokenOk_eq_false, fun hok => ?_⟩
      refine ⟨unlocked t token, congrArg _ (debugUnlock_accepted tag hok), debugLevel_unlocked hok, debugToken_unlocked t token,
        nonce_unlocked t token, meas_unlocked hok, aliasCert_unlocked t token, ?_, unlocked_frame t token⟩
      rw [testPortServed_iff, debugLevel_unlocked hok]
    case refine_9 =>
      intro t
      rw [exec_ownerEnroll, sideCommand_served _ _ _ _ hserved]
      exact ⟨fun hblank hservice hoff => congrArg _ (ownerEnroll_burns tag hblank hservice hoff), fun h => congrArg _ (ownerEnroll_refused tag h)⟩
    case refine_10 =>
      intro t ws
      rw [exec_indRead, sideCommand_served _ _ _ _ hserved]
      rw [← regionPresent_sideInput s 0xD tag (natLe 1 r ++ natLe 1 target ++ natLe 4 o ++ natLe 1 n) r]
      exact ⟨fun h => congrArg _ (indReadCmd_refused target o tag h),
        fun hr hlow hhigh => ⟨congrArg _ (indReadCmd_words target o tag hr hlow hhigh), length_indWords ..⟩⟩

end Sys2Proof.Machine
end

section
/-! Snapshots (R525 to R537, R545) and the trackside recorder (R538, R542 to R544): a request of the driver by its bits and the state of the part,
and what a drain and a freeze leave. -/

namespace Sys2Proof.Machine

/-! ## Reads of host memory leave the snapshot -/

theorem hostTouch_snap (s : State) (h n : Nat) : (hostTouch s h n).snap = s.snap := by
  unfold hostTouch
  split <;> rfl

theorem hostFetch_snap (s : State) (h n : Nat) : (hostFetch s h n).snap = s.snap := by
  obtain ⟨x, k, hinput⟩ := trkInput_eq (hostTouch s h n) 1 hostRegion h (hostRead s h n)
  rw [hostFetch, hinput]
  exact hostTouch_snap s h n

theorem fetchManifest_snap (s : State) : (fetchManifest s).snap = s.snap := by
  unfold fetchManifest
  dsimp only
  split
  · rfl
  · split
    · exact hostFetch_snap ..
    · exact (hostFetch_snap ..).trans (hostFetch_snap ..)

@[simp] theorem driverWrite_snap (s : State) (o v : Nat) : (driverWrite s o v).snap = s.snap := by
  obtain ⟨x, k, h⟩ := driverWrite_eq s o v
  rw [h]

@[simp] theorem driverWrite_lap (s : State) (o v : Nat) : (driverWrite s o v).lap = s.lap := by
  obtain ⟨x, k, h⟩ := driverWrite_eq s o v
  rw [h]

@[simp] theorem driverWrite_graphs (s : State) (o v : Nat) : (driverWrite s o v).graphs = s.graphs := by
  obtain ⟨x, k, h⟩ := driverWrite_eq s o v
  rw [h]

@[simp] theorem snapState_driverWrite (s : State) (o v : Nat) : snapState (driverWrite s o v) = snapState s := fget_driverWrite ..
@[simp] theorem snapPartner_driverWrite (s : State) (o v : Nat) : snapPartner (driverWrite s o v) = snapPartner s := fget_driverWrite ..
@[simp] theorem selfId_driverWrite (s : State) (o v : Nat) : selfId (driverWrite s o v) = selfId s := fget_driverWrite ..

/-! ## SNAPSHOT_REQUEST (R525 to R527, R532) -/

theorem exec_snapshotRequest (s : State) (v : Word) :
    exec (.snapshotRequest v) s = .next (snapRequest (driverWrite s 0x100910 v.toNat) v.toNat) := rfl

/-- The slot that does not hold the newest sealed copy (R527). -/
def nextSlot (s : State) : Nat := if s.snap.newest = some 0 then 1 else 0

theorem heldForHost_empty {s : State} {slot : Nat} (h : tabGet 0 s.snap.slotSeq slot = 0) : heldForHost s slot = (s, false) := if_pos h

theorem heldForHost_sealed {s : State} {slot : Nat} (h : tabGet 0 s.snap.slotSeq slot ≠ 0) :
    heldForHost s slot = ((drawFree s).2, (drawFree s).1 % 2 == 1) := if_neg h

section
variable {s : State} {value : Nat}

theorem snapRequest_none (h : nbit value 16 = false) : snapRequest s value = s := if_pos (by simp [h])

section
variable (hbit : nbit value 16 = true)
include hbit

theorem snapRequest_late (hlate : resolveLap s.lap.num (nbits value 0 16) ≤ s.lap.num) :
    snapRequest s value = fput s fPART_SNAP_STATUS_LATE 0 0 1 := by
  rw [snapRequest, if_neg (by simp [hbit])]
  exact if_pos hlate

variable (hlap : s.lap.num < resolveLap s.lap.num (nbits value 0 16))
include hlap

theorem snapRequest_refused (h : snapState s ≠ 0 ∨ snapPartner s = selfId s) : snapRequest s value = snapRefuse s := by
  rw [snapRequest, if_neg (by simp [hbit])]
  exact (if_neg (Nat.not_le.mpr hlap)).trans (if_pos h)

variable (hidle : snapState s = 0) (hpartner : snapPartner s ≠ selfId s)
include hidle hpartner

theorem snapRequest_reads : snapRequest s value = match readManifest s with
    | none => snapRefuse (fetchManifest s)
    | some (h, es) =>
      let l := resolveLap s.lap.num (nbits value 0 16)
      let x := heldForHost (fetchManifest s) (nextSlot s)
      if !manifestOwned (ownersIn s l) es then snapRefuse (fetchManifest s)
      else if x.2 then snapRefuse x.1 else snapBegin x.1 l (nextSlot s) (nbits h 32 32) es := by
  rw [snapRequest, if_neg (by simp [hbit])]
  refine (if_neg (Nat.not_le.mpr hlap)).trans ((if_neg (by simp [hidle, hpartner])).trans ?_)
  cases readManifest s <;> rfl

theorem snapRequest_unread (h : readManifest s = none) : snapRequest s value = snapRefuse (fetchManifest s) := by
  rw [snapRequest_reads hbit hlap hidle hpartner, h]

variable {h : Nat} {es : List Nat} (hread : readManifest s = some (h, es))
include hread

theorem snapRequest_notOwned (howned : manifestOwned (ownersIn s (resolveLap s.lap.num (nbits value 0 16))) es = false) :
    snapRequest s value = snapRefuse (fetchManifest s) := by
  rw [snapRequest_reads hbit hlap hidle hpartner, hread]
  exact if_pos (by simp [howned])

section
variable (howned : manifestOwned (ownersIn s (resolveLap s.lap.num (nbits value 0 16))) es = true)
include howned

theorem snapRequest_owned : snapRequest s value =
    let x := heldForHost (fetchManifest s) (nextSlot s)
    if x.2 then snapRefuse x.1 else snapBegin x.1 (resolveLap s.lap.num (nbits value 0 16)) (nextSlot s) (nbits h 32 32) es := by
  rw [snapRequest_reads hbit hlap hidle hpartner, hread]
  exact if_neg (by simp [howned])

theorem snapRequest_slotEmpty (hempty : tabGet 0 (fetchManifest s).snap.slotSeq (nextSlot s) = 0) : snapRequest s value =
    snapBegin (fetchManifest s) (resolveLap s.lap.num (nbits value 0 16)) (nextSlot s) (nbits h 32 32) es := by
  rw [snapRequest_owned hbit hlap hidle hpartner hread howned, heldForHost_empty hempty]
  rfl

variable (hfull : tabGet 0 (fetchManifest s).snap.slotSeq (nextSlot s) ≠ 0)
include hfull

theorem snapRequest_slotHeld (hheld : (drawFree (fetchManifest s)).1 % 2 = 1) :
    snapRequest s value = snapRefuse (drawFree (fetchManifest s)).2 := by
  rw [snapRequest_owned hbit hlap hidle hpartner hread howned, heldForHost_sealed hfull]
  exact if_pos (beq_iff_eq.mpr hheld)

theorem snapRequest_slotLet (hlet : (drawFree (fetchManifest s)).1 % 2 ≠ 1) : snapRequest s value =
    snapBegin (drawFree (fetchManifest s)).2 (resolveLap s.lap.num (nbits value 0 16)) (nextSlot s) (nbits h 32 32) es := by
  rw [snapRequest_owned hbit hlap hidle hpartner hread howned, heldForHost_sealed hfull]
  exact if_neg (mt beq_iff_eq.mp hlet)

end
end
end

theorem snapBegin_seq {s : State} {n : Nat} (h : s.snap.seq = n) (lap slot runStep : Nat) (es : List Nat) : snapBegin s lap slot runStep es =
    fput { s with snap := { s.snap with
      lap := lap, seq := n + 1, slot := slot, runStep := runStep, manifest := es, digests := [], next := 0, early := [],
      total := (manifestPages (ownersIn s lap) es).length, pages := [], saved := [], head := 0, lastLap := none, sealing := false } }
      fPART_SNAP_STATUS_STATE 0 0 1 := by
  rw [snapBegin, h]
  rfl

/-! ## RESTORE (R536, R537) -/

theorem exec_restore (s : State) (v : Word) : exec (.restore v) s = .next (snapRestore (driverWrite s 0x100910 v.toNat) v.toNat) := rfl

/-- The part as a restore of a slot begins. -/
def restoring (s : State) (slot : Nat) : State :=
  setSnapState { s with snap := { s.snap with
    slot := slot, manifest := [], digests := [], next := 0, total := 0, sealing := false, lastLap := none } } 3

section
variable {s : State} {value : Nat}

theorem snapRestore_none (h : nbit value 17 = false) : snapRestore s value = s := if_pos (by simp [h])

theorem snapRestore_refused (hbit : nbit value 17 = true) (h : snapState s ≠ 0 ∨ s.graphs ≠ [] ∨ snapPartner s = selfId s) :
    snapRestore s value = snapRefuse s := by
  rw [snapRestore, if_neg (by simp [hbit])]
  exact if_pos (by simpa using h)

theorem snapRestore_asks (hbit : nbit value 17 = true) (hidle : snapState s = 0) (hgraphs : s.graphs = []) (hpartner : snapPartner s ≠ selfId s) :
    snapRestore s value = restoreAsk (restoring s (nbits value 18 1)) 0 := by
  rw [snapRestore, if_neg (by simp [hbit])]
  exact if_neg (by simp [hidle, hgraphs, hpartner])

end

/-- The request for page k of the slot being restored, to the part that holds it (log entry 132). -/
def restoreSegment (s : State) (k : Nat) (o : Owned) : Segment :=
  { blankSeg s o.part with
    held := true, tableId := relayTable s, offset := slotOffset s (relayTable s) s.snap.slot k, gen := o.gen, replyAddr := 0, readLen := 65536 }

theorem restoreAsk_lost {s : State} {k : Nat} (h : resolveOwner s (relayTable s) (slotOffset s (relayTable s) s.snap.slot k) = none) :
    restoreAsk s k = snapFail s 1 s.snap.seq := by
  simp only [restoreAsk, h]

theorem restoreAsk_sent {s t : State} {k : Nat} {o : Owned}
    (h : resolveOwner s (relayTable s) (slotOffset s (relayTable s) s.snap.slot k) = some o)
    (hsend : sendSegment s (managerRegion s) opReadOwner 1 0 (restoreSegment s k o) none none = some t) :
    restoreAsk s k = { t with snap := { t.snap with next := k } } := by
  rw [restoreSegment] at hsend
  simp only [restoreAsk, h, hsend]

/-! ## PUSH (R536, R537) -/

theorem exec_push (s : State) (v : Word) : exec (.push v) s = .next (snapPush (driverWrite s 0x100A0C v.toNat) v.toNat) := rfl

theorem slotHeader_hosted {s : State} {slot h : Nat} (hh : slotHeader s slot = some h) : ∃ t, s.snap.hosted = some t := by
  cases hhost : s.snap.hosted with
  | none => simp [slotHeader, hhost] at hh
  | some t => exact ⟨t, rfl⟩

/-- Page k of a hosted slot, empty where it does not resolve. -/
def hostedPage (s : State) (t slot k : Nat) : Bytes :=
  match resolveOwner s t (slotOffset s t slot k) with
  | some o => readCommitted s o.region (o.off / 65536) 0 65536
  | none => []

theorem hostedPage_of_resolves {s : State} {t slot k : Nat} {o : Owned} (h : resolveOwner s t (slotOffset s t slot k) = some o) :
    hostedPage s t slot k = readCommitted s o.region (o.off / 65536) 0 65536 := by
  rw [hostedPage, h]

/-- The manifest entries of a hosted slot with header h. -/
def pushEntries (s : State) (t slot h : Nat) : List Nat := (blocksOf 16 (nbits h 224 16) ((hostedPage s t slot 0).drop 512)).map leNat

theorem pushEntries_one {s : State} {t slot h : Nat} (hcount : nbits h 224 16 = 1) :
    pushEntries s t slot h = [leNat (((hostedPage s t slot 0).drop 512).take 16)] := by
  rw [pushEntries, hcount]
  rfl

/-- The pages of a manifest, each with its block. -/
def pushItems (s : State) (es : List Nat) : List ((Nat × Nat × Nat × Nat) × Nat) :=
  (manifestBlocks s es).flatMap fun b => (rangeFrom 0 b.2.2.2).map fun p => (b, p)

/-- The step of PUSH for a numbered page, which ends with the first that does not go. -/
def pushItem (t slot seq : Nat) (r : State × Bool) (e : Nat × (Nat × Nat × Nat × Nat) × Nat) : State × Bool :=
  if !r.2 then r
  else pushPage r.1 seq (hostedPage r.1 t slot e.1) e.2.1.2.2.1 e.2.1.2.1 (e.2.2 * 65536) e.2.1.1 (getOwner r.1 e.2.1.1).log2

theorem foldl_pushItem_one (s : State) (t slot seq : Nat) (b : Nat × Nat × Nat × Nat) :
    ((rangeFrom 1 [(b, 0)].length).zip [(b, 0)]).foldl (pushItem t slot seq) (s, true) =
      pushPage s seq (hostedPage s t slot 1) b.2.2.1 b.2.1 0 b.1 (getOwner s b.1).log2 := by
  simp [rangeFrom, pushItem]

/-- A manifest without UPDATE_HEADER extents has no headers that could break R411. -/
theorem pushBad_nil {es : List Nat} (h : headerExtents es = []) (s : State) (items : List ((Nat × Nat × Nat × Nat) × Nat)) (page : Nat → Bytes) :
    pushBad s es items page = [] := by
  have hheads : manifestBlocks s (headerExtents es) = [] := by rw [h]; rfl
  rw [pushBad, hheads]
  exact List.filterMap_eq_nil_iff.mpr fun e _ => if_neg (by simp)

section
variable {s : State} {value : Nat}

theorem snapPush_none (h : nbit value 0 = false) : snapPush s value = s := if_pos (by simp [h])

variable (hbit : nbit value 0 = true)
include hbit

theorem snapPush_hostsNone (h : s.snap.hosted = none) : snapPush s value = snapFail s 2 0 := by
  rw [snapPush, if_neg (by simp [hbit])]
  simp only [h]

variable {h : Nat} (hheader : slotHeader s (nbits value 1 1) = some h)
include hheader

theorem snapPush_notSealed (hstate : slotState s (nbits value 1 1) ≠ 2) : snapPush s value = snapFail s 2 (nbits h 96 32) := by
  obtain ⟨t, ht⟩ := slotHeader_hosted hheader
  rw [snapPush, if_neg (by simp [hbit])]
  simp only [ht, hheader]
  exact if_pos hstate

theorem snapPush_sealed {t : Nat} (ht : s.snap.hosted = some t) (hstate : slotState s (nbits value 1 1) = 2) : snapPush s value =
    let slot := nbits value 1 1
    let es := pushEntries s t slot h
    let items := pushItems s es
    let q := checkPages s (hostedPages s t slot items.length)
    let bad := pushBad q.1 es items (hostedPage q.1 t slot)
    if q.2 || !bad.isEmpty then
      snapFail (headerEvents q.1 ((bad.filter fun e => nbits e 0 17 == selfId q.1).map fun e => (nbits e 17 3, nbits e 20 21))) 2 (nbits h 96 32)
    else
      let r := ((rangeFrom 1 items.length).zip items).foldl (pushItem t slot (nbits h 96 32)) (q.1, true)
      if r.2 then r.1 else snapFail r.1 2 (nbits h 96 32) := by
  rw [snapPush, if_neg (by simp [hbit])]
  extract_lets slot
  have hslot : slotHeader s slot = some h := hheader
  simp -zeta only [ht, hslot]
  exact if_neg (not_not_intro hstate)

section
variable {t entry : Nat} {b : Nat × Nat × Nat × Nat} (ht : s.snap.hosted = some t) (hstate : slotState s (nbits value 1 1) = 2)
  (hentry : pushEntries s t (nbits value 1 1) h = [entry]) (hblocks : manifestBlocks s [entry] = [b]) (hsize : b.2.2.2 = 1)
  (hkind : nbits entry 48 4 ≠ 4)
include ht hstate hentry hblocks hsize hkind

/-- A sealed slot of one manifest entry, whose one block is one page and no header of R411: that page is checked and sent. -/
theorem snapPush_onePage : snapPush s value =
    let r := checkPages s (hostedPages s t (nbits value 1 1) 1)
    if r.2 then snapFail r.1 2 (nbits h 96 32)
    else
      let u := pushPage r.1 (nbits h 96 32) (hostedPage r.1 t (nbits value 1 1) 1) b.2.2.1 b.2.1 0 b.1 (getOwner r.1 b.1).log2
      if u.2 then u.1 else snapFail u.1 2 (nbits h 96 32) := by
  have hitems : pushItems s [entry] = [(b, 0)] := by simp [pushItems, hblocks, hsize, rangeFrom]
  have hnone : headerExtents [entry] = [] := by simp [headerExtents, hkind]
  rw [snapPush_sealed hbit hheader ht hstate]
  simp only [hentry, hitems, pushBad_nil hnone, foldl_pushItem_one, List.isEmpty_nil, Bool.not_true, Bool.or_false]
  rfl

theorem snapPush_onePage_lost (hlost : (checkPages s (hostedPages s t (nbits value 1 1) 1)).2 = true) :
    snapPush s value = snapFail (checkPages s (hostedPages s t (nbits value 1 1) 1)).1 2 (nbits h 96 32) :=
  (snapPush_onePage hbit hheader ht hstate hentry hblocks hsize hkind).trans (if_pos hlost)

theorem snapPush_onePage_sound {r : State} (hsound : checkPages s (hostedPages s t (nbits value 1 1) 1) = (r, false)) {q : Owned}
    (hpage : resolveOwner r t (slotOffset r t (nbits value 1 1) 1) = some q) : snapPush s value =
      let u := pushPage r (nbits h 96 32) (readCommitted r q.region (q.off / 65536) 0 65536) b.2.2.1 b.2.1 0 b.1 (getOwner r b.1).log2
      if u.2 then u.1 else snapFail u.1 2 (nbits h 96 32) := by
  rw [snapPush_onePage hbit hheader ht hstate hentry hblocks hsize hkind]
  simp only [hsound, hostedPage_of_resolves hpage]
  rfl

end
end

/-! ## STREAMS_LOAD (R545) -/

theorem exec_streamsLoad (s : State) (v : Word) : exec (.streamsLoad v) s = .next (streamsLoad (driverWrite s 0x100928 v.toNat) v.toNat) := rfl

/-- Where the driver's stream list lies. -/
def streamsBase (s : State) : Nat := fget s fPART_SNAP_STREAMS_HI_BASE_HI 0 0 * 2 ^ 32 + fget s fPART_SNAP_STREAMS_LO_BASE_LO 0 0 * 64

theorem length_memRead (m : Mem) (a n : Nat) : (memRead m a n).length = n := by
  induction n generalizing a with
  | zero => rfl
  | succ n ih => exact congrArg (· + 1) (ih _)

section
variable {s : State} {value : Nat}

theorem streamsLoad_rejected (h : nbits value 0 17 = 0 ∨ 65536 < nbits value 0 17) :
    streamsLoad s value = fput s fPART_SNAP_STATUS_WRITE_REJECTED 0 0 1 := if_pos h

variable (hlow : 1 ≤ nbits value 0 17) (hhigh : nbits value 0 17 ≤ 65536)
include hlow hhigh

theorem streamsLoad_idle (h : nbit value 17 = false ∨ s.graphs ≠ []) : streamsLoad s value = s := by
  refine (if_neg (by omega)).trans (if_pos ?_)
  simpa using h

variable (hgo : nbit value 17 = true) (hgraphs : s.graphs = [])
include hgo hgraphs

theorem streamsLoad_reads : streamsLoad s value =
    if !hostOk s (streamsBase s) (48 * nbits value 0 17) then fput s fPART_SNAP_STATUS_FAILED 0 0 1
    else (blocksOf 48 (nbits value 0 17) (hostRead s (streamsBase s) (48 * nbits value 0 17))).foldl (fun s e =>
      if regionAlive s (leNat (e.take 2) / 8192) then (takeStream s 1 (leNat (e.take 2)) (leNat (e.drop 16))).1 else s)
        (hostFetch s (streamsBase s) (48 * nbits value 0 17)) :=
  (if_neg (by omega)).trans (if_neg (by simp [hgo, hgraphs]))

theorem streamsLoad_failed (h : hostOk s (streamsBase s) (48 * nbits value 0 17) = false) :
    streamsLoad s value = fput s fPART_SNAP_STATUS_FAILED 0 0 1 := by
  rw [streamsLoad_reads hlow hhigh hgo hgraphs, if_pos (by simp [h])]

theorem streamsLoad_one (hone : nbits value 0 17 = 1) (h : hostOk s (streamsBase s) 48 = true) :
    streamsLoad s value =
      let b := hostRead s (streamsBase s) 48
      let t := hostFetch s (streamsBase s) 48
      let k := leNat (b.take 2)
      if regionAlive t (k / 8192) then (takeStream t 1 k (leNat (b.drop 16))).1 else t := by
  have hwhole : blocksOf 48 1 (hostRead s (streamsBase s) 48) = [hostRead s (streamsBase s) 48] :=
    congrArg ([·]) (List.take_of_length_le (Nat.le_of_eq (length_memRead ..)))
  rw [streamsLoad_reads hlow hhigh hgo hgraphs, hone, if_neg (by simp [h]), hwhole]
  rfl

end

/-! ## The flash drain (R533) -/

theorem exec_flashDrainComplete (s : State) (slot : Nat) (ok : Bool) : exec (.flashDrainComplete slot ok) s = .next (drainDone s slot ok) := rfl

/-- A drain that has failed: it is reported with its sequence number (R507, R533). -/
def drainFailed (s : State) (seq : Nat) : State :=
  let t := fput s fPART_RELAY_STATUS_FLASH 0 0 0
  errPart t (errRecord t 0xC 3 0x21 0 8 0 (3 + seq * 2 ^ 32))

/-- The pages of the slot, checked as they are read. -/
def drainChecked (s : State) (slot h : Nat) : State × Bool :=
  match s.snap.hosted with
  | some t => checkPages s (hostedPages s t slot (nbits h 256 32 + nbits h 288 32 / 2048))
  | none => (s, false)

theorem selfId_fput_flash (s : State) (v : Nat) :
    fget (fput s fPART_RELAY_STATUS_FLASH 0 0 v) fPART_ID_ID 0 0 = fget s fPART_ID_ID 0 0 :=
  fget_fput_ne _ _ _ _ _ _ _ _ (by decide)

theorem errRecord_fput_flash (s : State) (v cls level cause unit kind action detail : Nat) :
    errRecord (fput s fPART_RELAY_STATUS_FLASH 0 0 v) cls level cause unit kind action detail = errRecord s cls level cause unit kind action detail := by
  rw [errRecord, errRecord, selfId_fput_flash]
  rfl

theorem drainDone_other {s : State} {slot : Nat} {ok : Bool} (h : s.snap.drain ≠ some slot) : drainDone s slot ok = s := if_pos h

theorem drainDone_eq {s : State} {slot : Nat} {ok : Bool} (h : s.snap.drain = some slot) : drainDone s slot ok =
    let t := { s with snap := { s.snap with drain := none } }
    let x := (slotHeader s slot).getD 0
    let q := drainChecked t slot x
    if ok && drainReaches s slot then
      if q.2 then drainFailed q.1 (nbits x 96 32) else fput (writeImage q.1 (slotBytes q.1 slot x)) fPART_RELAY_STATUS_FLASH 0 0 2
    else drainFailed t (nbits x 96 32) := by
  rw [drainDone, if_neg (by simp [h])]
  simp only [drainFailed, errRecord_fput_flash]
  rfl

/-! ## An image on flash (R533) -/

/-- The write of numbered pages puts each of them out. -/
theorem foldl_flashPage (i : Nat) (l : List (Nat × Bytes)) (s : State) :
    l.foldl (fun s e => emit s (.flashPage (e.1 % 2) i e.1 e.2)) s =
      { s with out := (l.map fun e => Output.flashPage (e.1 % 2) i e.1 e.2).reverse ++ s.out } := by
  induction l generalizing s with
  | nil => rfl
  | cons e l ih =>
    rw [List.foldl_cons, ih, List.map_cons, List.reverse_cons, List.append_assoc]
    rfl

theorem writeImage_eq (s : State) (ps : List Bytes) : writeImage s ps =
    let numbered := (rangeFrom 0 ps.length).zip ps
    { s with
      out := ((numbered.drop 1 ++ numbered.take 1).map fun e => Output.flashPage (e.1 % 2) s.snap.nextImage e.1 e.2).reverse ++ s.out
      snap := { s.snap with
        images := tabSet [] s.snap.images s.snap.nextImage ps, nextImage := (s.snap.nextImage + 1) % Config.flashImages } } := by
  rw [writeImage]
  simp only [foldl_flashPage]

theorem mem_zip_rangeFrom {ps : List Bytes} {k : Nat} {p : Bytes} (h : ps[k]? = some p) : (k, p) ∈ (rangeFrom 0 ps.length).zip ps := by
  obtain ⟨hk, hp⟩ := List.getElem?_eq_some_iff.mp h
  rw [rangeFrom_eq_range', List.mem_iff_getElem?]
  exact ⟨k, by simp [hk, hp]⟩

theorem flashPage_mem_writeImage {s : State} {ps : List Bytes} {k : Nat} {p : Bytes} (h : ps[k]? = some p) :
    Output.flashPage (k % 2) s.snap.nextImage k p ∈ (writeImage s ps).out := by
  have hmem := mem_zip_rangeFrom h
  rw [← List.take_append_drop 1 ((rangeFrom 0 ps.length).zip ps), List.mem_append, or_comm, ← List.mem_append] at hmem
  rw [writeImage_eq]
  exact List.mem_append_left _ (List.mem_reverse.mpr (List.mem_map_of_mem hmem))

/-! ## The recorder (R538, R542 to R544) -/

theorem exec_trigger (s : State) : exec .trigger s = .next (trkTrigger (driverWrite s 0x100B04 1)) := rfl
theorem exec_tracksideFreeze (s : State) : exec .tracksideFreeze s = .next (trkPost s) := rfl
theorem exec_release (s : State) : exec .release s = .next (trkRelease (driverWrite s 0x100B04 2)) := rfl
theorem exec_exportImage (s : State) : exec .exportImage s = .next (trkExport (driverWrite s 0x100B04 4)) := rfl
theorem exec_importImage (s : State) : exec .importImage s = .next (trkImport (driverWrite s 0x100B04 8)) := rfl

@[simp] theorem trkState_driverWrite (s : State) (o v : Nat) : trkState (driverWrite s o v) = trkState s := fget_driverWrite ..

/-- A frozen recorder takes no record. -/
theorem driverWrite_frozen {s : State} (h : trkState s = 3) (o v : Nat) : driverWrite s o v = s := if_neg (by simp [recordingOn, h])

/-- A recorder that has triggered: its lap and POST_LAPS more are to be recorded whole (R542). -/
def triggered (s : State) : State :=
  { fput s fPART_TRK_STATUS_STATE 0 0 2 with
    trk := { s.trk with triggerLap := s.lap.num, postLeft := fget s fPART_TRK_CFG_POST_LAPS 0 0 + 1 } }

theorem trkState_triggered (s : State) : trkState (triggered s) = 2 := fget_fput_self s fPART_TRK_STATUS_STATE 0 0 2

theorem triggered_frame (s : State) : triggered s = { s with flds := (triggered s).flds, trk := (triggered s).trk } := rfl

theorem triggered_driverWrite_trk (s : State) (o v : Nat) : (triggered (driverWrite s o v)).trk = { (driverWrite s o v).trk with
    triggerLap := s.lap.num, postLeft := fget s fPART_TRK_CFG_POST_LAPS 0 0 + 1 } := by
  rw [← fget_driverWrite s o v fPART_TRK_CFG_POST_LAPS, ← driverWrite_lap s o v]
  rfl

section
variable {s : State}

theorem trkTrigger_recording (h : trkState s = 1) : trkTrigger s = triggered s := by
  unfold triggered
  rw [← fget_fput_ne s fPART_TRK_STATUS_STATE fPART_TRK_CFG_POST_LAPS 0 0 0 0 2 (by decide)]
  exact if_pos h

theorem trkTrigger_counts (h : trkState s ≠ 1) : trkTrigger s = fbump s fPART_TRK_STATUS_TRIGGERS 0 0 1 := if_neg h

theorem trkPost_notDue (h : trkState s ≠ 2 ∨ s.trk.postLeft ≠ 0) : trkPost s = s := by
  refine if_neg ?_
  simpa [freezeDue, or_iff_not_imp_left] using h

theorem trkPost_due (hstate : trkState s = 2) (hleft : s.trk.postLeft = 0) : trkPost s = trkFreeze s := if_pos (by simp [freezeDue, hstate, hleft])

theorem trkRelease_other (h : trkState s ≠ 3) : trkRelease s = s := if_neg h

theorem trkRelease_frozen (h : trkState s = 3) :
    trkRelease s = setTrkState (dropWindow s) (if fget s fPART_TRK_CFG_ENABLE 0 0 = 1 then 1 else 0) := if_pos h

theorem trkState_released (s : State) (p : Prop) [Decidable p] :
    trkState (setTrkState (dropWindow s) (if p then 1 else 0)) = if p then 1 else 0 :=
  (fget_fput_self ..).trans (Nat.mod_eq_of_lt (show (if p then 1 else 0) < 8 by split <;> decide))

theorem dropWindow_trk (s : State) : (dropWindow s).trk.recs = [] ∧ (dropWindow s).trk.journal = [] ∧ (dropWindow s).trk.firstLap = s.lap.num :=
  ⟨rfl, rfl, congrArg KeptPart.num (kept_foldl giveBack s.trk.journal s giveBack_kept)⟩

end

/-- Where the image lies in host memory. -/
def imageBase (s : State) : Nat := fget s fPART_TRK_IMG_HI_BASE_HI 0 0 * 2 ^ 32 + fget s fPART_TRK_IMG_LO_BASE_LO 0 0 * 4096

section
variable {s : State}

theorem trkExport_none (h : trkState s ≠ 3 ∨ hostOk s (imageBase s) s.trk.image.length = false) : trkExport s = s := by
  refine if_neg ?_
  rintro ⟨hstate, hok⟩
  exact h.elim (· hstate) fun h => by rw [imageBase] at h; rw [h] at hok; cases hok

theorem trkExport_writes (hstate : trkState s = 3) (h : hostOk s (imageBase s) s.trk.image.length = true) :
    trkExport s = hostWrite (hostTouch (checkBase s) (imageBase s) s.trk.image.length) (imageBase s) s.trk.image := if_pos ⟨hstate, h⟩

end

/-! ### IMPORT (R544) -/

section
variable {s : State}

theorem trkImport_ignored (h : fget s fPART_TRK_CFG_BENCH 0 0 = 0 ∨ inService s = true) : trkImport s = s := if_pos h

variable (hbench : fget s fPART_TRK_CFG_BENCH 0 0 ≠ 0) (hservice : inService s = false)
include hbench hservice

theorem trkImport_unread (h : hostOk s (imageBase s) 64 = false) : trkImport s = fput s fPART_TRK_STATUS_WRITE_REJECTED 0 0 1 :=
  (if_neg (by simp [hbench, hservice])).trans (if_pos (congrArg not h))

/-- The header of the image, and its five sections. -/
def imageHeader (s : State) : Nat := leNat (hostRead s (imageBase s) 64)
def sectionBytes (s : State) (i : Nat) : Nat := nbits (imageHeader s) (192 + 64 * i) 64
def imageBytes (s : State) : Nat := 64 + sectionBytes s 0 + sectionBytes s 1 + sectionBytes s 2 + sectionBytes s 3 + sectionBytes s 4
def imageLogs (s : State) : Tab Nat := parseLogs (sectionBytes s 0 / 64 + 1) (hostRead s (imageBase s + 64) (sectionBytes s 0)) []

/-- The part as the image's base and its inputs leave it. -/
def imported (s : State) : State :=
  let a := imageBase s + 64 + sectionBytes s 0
  loadBase (sectionBytes s 4 / 16 + 1) (hostRead s (a + sectionBytes s 1 + sectionBytes s 2 + sectionBytes s 3) (sectionBytes s 4))
    (benchHost { s with trk := { s.trk with
      benchLog := imageLogs s
      benchDigest := parseDigests (sectionBytes s 3 / 128 + 1) (hostRead s (a + sectionBytes s 1 + sectionBytes s 2) (sectionBytes s 3)) []
      benchIn := parseInputs (sectionBytes s 1 / 32 + 1) (hostRead s a (sectionBytes s 1)) } } (nbits (imageHeader s) 0 48))

theorem trkImport_reads (h : hostOk s (imageBase s) 64 = true) : trkImport s =
    if !hostOk s (imageBase s) (imageBytes s) then fput s fPART_TRK_STATUS_WRITE_REJECTED 0 0 1
    else if logLacks s (imageLogs s) then fput s fPART_TRK_STATUS_WRITE_REJECTED 0 0 1 else imported s :=
  (if_neg (by simp [hbench, hservice])).trans (if_neg (Bool.not_not_eq.mpr h))

variable (h : hostOk s (imageBase s) 64 = true)
include h

theorem trkImport_rejected (hbad : hostOk s (imageBase s) (imageBytes s) = false ∨ logLacks s (imageLogs s) = true) :
    trkImport s = fput s fPART_TRK_STATUS_WRITE_REJECTED 0 0 1 := by
  rw [trkImport_reads hbench hservice h]
  rcases hbad with hbad | hbad
  · exact if_pos (by simp [hbad])
  · simp only [hbad, if_true, ite_self]

theorem trkImport_loads (hok : hostOk s (imageBase s) (imageBytes s) = true) (hunits : logLacks s (imageLogs s) = false) :
    trkImport s = imported s := by
  rw [trkImport_reads hbench hservice h, if_neg (by simp [hok]), if_neg (by simp [hunits])]

end

@[simp] theorem imageBase_driverWrite (s : State) (o v : Nat) : imageBase (driverWrite s o v) = imageBase s := by
  simp only [imageBase, fget_driverWrite]

/-! ## Requests as the driver writes them -/

theorem nbit_word {v : Word} {i : Nat} {b : Bool} (h : v.getLsbD i = b) : nbit v.toNat i = b := (nbit_eq_getLsbD v i).trans h

theorem readManifest_slotSeq (s : State) (slot : Nat) : tabGet 0 (fetchManifest s).snap.slotSeq slot = tabGet 0 s.snap.slotSeq slot := by
  rw [fetchManifest_snap]

/-- Settles O57: each request by its bit and the part's state, then the drain, the image on flash, and the recorder by its state. -/
theorem snapshotsAndRecorder : Obligations.SnapshotsAndRecorder := by
  refine ⟨fun s v => ?_, fun s0 v => ?_, fun s0 v => ?_, fun s slot ok => ?_, fun s ps => ?_, fun s => ?_⟩
  case refine_1 =>
    intro q low lap slot refused
    have hnum : resolveLap q.lap.num (nbits v.toNat 0 16) = lap :=
      congrArg₂ resolveLap (congrArg LapSt.num (driverWrite_lap ..)) (congrArg (· % 2 ^ 16) (Nat.div_one v.toNat))
    have hseq : q.snap = s.snap := driverWrite_snap ..
    have hlast : q.lap.num = s.lap.num := congrArg LapSt.num (driverWrite_lap ..)
    refine ⟨fun hbit => ?_, fun hbit hlate => ?_, fun hbit hlap => ⟨fun hbusy => ?_, fun hidle hpartner => ?_⟩, fun hbit => ?_,
      fun hbit => ⟨fun hbusy => ?_, fun hidle hgraphs hpartner => ?_⟩⟩
    · exact congrArg _ (snapRequest_none (nbit_word hbit))
    · exact congrArg _ (snapRequest_late (nbit_word hbit) (by rwa [hnum, hlast]))
    · exact congrArg _ (snapRequest_refused (nbit_word hbit) (by rwa [hnum, hlast]) (by simpa using hbusy))
    · intro t d
      have hbegin : q.lap.num < resolveLap q.lap.num (nbits v.toNat 0 16) := by rwa [hnum, hlast]
      have hfree : snapState q = 0 := (snapState_driverWrite ..).trans hidle
      have hother : snapPartner q ≠ selfId q := by rwa [snapPartner_driverWrite, selfId_driverWrite]
      have hslot : nextSlot q = slot := by rw [nextSlot, hseq]
      have htseq : t.snap = s.snap := (fetchManifest_snap q).trans hseq
      refine ⟨fun hnone => ?_, fun h es hread => ?_⟩
      · exact congrArg _ (snapRequest_unread (nbit_word hbit) hbegin hfree hother hnone)
      · intro begun
        refine ⟨fun hforeign => ?_, fun howned => ?_⟩
        · exact congrArg _ (snapRequest_notOwned (nbit_word hbit) hbegin hfree hother hread (by rwa [hnum]))
        · refine ⟨fun hempty => ?_, fun hfull hheld => ?_, fun hfull hlet => ?_⟩
          · have hrequest := snapRequest_slotEmpty (nbit_word hbit) hbegin hfree hother hread (by rwa [hnum]) (by rwa [htseq, hslot])
            rw [hnum, hslot, snapBegin_seq (congrArg SnapSt.seq htseq)] at hrequest
            exact congrArg _ hrequest
          · exact congrArg _ (snapRequest_slotHeld (nbit_word hbit) hbegin hfree hother hread (by rwa [hnum]) (by rwa [htseq, hslot]) hheld)
          · have hrequest := snapRequest_slotLet (nbit_word hbit) hbegin hfree hother hread (by rwa [hnum]) (by rwa [htseq, hslot]) hlet
            rw [hnum, hslot, snapBegin_seq (s := d.2) (congrArg SnapSt.seq htseq)] at hrequest
            exact congrArg _ hrequest
    · exact congrArg _ (snapRestore_none (nbit_word hbit))
    · exact congrArg _ (snapRestore_refused (nbit_word hbit) (by simpa using hbusy))
    · intro t table x
      have hrestore : snapRestore q v.toNat = restoreAsk t 0 := snapRestore_asks (nbit_word hbit) ((snapState_driverWrite ..).trans hidle)
        ((driverWrite_graphs ..).trans hgraphs) (by rwa [snapPartner_driverWrite, selfId_driverWrite])
      have hslot : t.snap.slot = v.toNat / 2 ^ 18 % 2 := rfl
      have htseq : t.snap.seq = s.snap.seq := show q.snap.seq = s.snap.seq from congrArg SnapSt.seq hseq
      refine ⟨fun hlost => ?_, fun o u hfound hsend => ?_⟩
      · have hasked : restoreAsk t 0 = snapFail t 1 s.snap.seq := htseq ▸ restoreAsk_lost (by rw [hslot]; exact hlost)
        exact congrArg _ (hrestore.trans hasked)
      · exact congrArg _ (hrestore.trans (restoreAsk_sent hfound hsend))
  case refine_2 =>
    intro s
    refine ⟨fun hbit => congrArg _ (snapPush_none (nbit_word hbit)), fun hbit => ⟨fun hnone => ?_, fun h hheader hstate => ?_, ?_⟩⟩
    · exact congrArg _ (snapPush_hostsNone (nbit_word hbit) hnone)
    · exact congrArg _ (snapPush_notSealed (nbit_word hbit) hheader hstate)
    · intro t h o b ht hheader hstate hcount hresolve entry hblocks hsize hkind r
      have hentry : pushEntries s t (nbits v.toNat 1 1) h = [entry] :=
        (pushEntries_one hcount).trans (congrArg (fun p : Bytes => [leNat ((p.drop 512).take 16)]) (hostedPage_of_resolves hresolve))
      refine ⟨fun hlost => ?_, fun q hsound hpage => ?_⟩
      · exact congrArg _ (snapPush_onePage_lost (nbit_word hbit) hheader ht hstate hentry hblocks hsize hkind hlost)
      · intro u
        have hsent := snapPush_onePage_sound (nbit_word hbit) hheader ht hstate hentry hblocks hsize hkind (r := r.1) (Prod.ext rfl hsound) hpage
        exact ⟨fun hgone => congrArg _ (hsent.trans (if_pos hgone)), fun hkept => congrArg _ (hsent.trans (if_neg (Bool.eq_false_iff.mp hkept)))⟩
  case refine_3 =>
    intro s n a
    have hn : nbits v.toNat 0 17 = n := congrArg (· % 2 ^ 17) (Nat.div_one _)
    refine ⟨fun hcount => ?_, fun hlow hhigh => ⟨fun hidle => ?_, fun hgo hgraphs => ⟨fun hfail => ?_, fun hone hok => ?_⟩⟩⟩
    · exact congrArg _ (streamsLoad_rejected (hn ▸ hcount))
    · exact congrArg _ (streamsLoad_idle (hn ▸ hlow) (hn ▸ hhigh) (hidle.imp_left nbit_word))
    · exact congrArg _ (streamsLoad_failed (hn ▸ hlow) (hn ▸ hhigh) (nbit_word hgo) hgraphs (hn ▸ hfail))
    · exact congrArg _ (streamsLoad_one (hn ▸ hlow) (hn ▸ hhigh) (nbit_word hgo) hgraphs (hn.trans hone) hok)
  case refine_4 =>
    rw [exec_flashDrainComplete]
    refine ⟨fun hother => ?_, fun hdrain => ?_⟩
    · rw [drainDone_other hother]
    · intro t h q failed
      rw [drainDone_eq hdrain]
      refine ⟨fun hfail => ?_, fun hok hreach hlost => ?_, fun hok hreach hsound => ?_⟩
      · exact congrArg _ (if_neg (by simpa [or_iff_not_imp_left] using hfail))
      · exact congrArg _ ((if_pos (by simp [hok, hreach])).trans (if_pos hlost))
      · exact congrArg _ ((if_pos (by simp [hok, hreach])).trans (if_neg (Bool.eq_false_iff.mp hsound)))
  case refine_5 =>
    refine ⟨?_, ?_, fun k p hp => flashPage_mem_writeImage hp⟩ <;> rw [writeImage_eq]
    exact tabGet_tabSet_self ..
  case refine_6 =>
    intro h ctl
    have hctl (v : Nat) : trkState (ctl v) = trkState s := trkState_driverWrite ..
    refine ⟨fun hstate => ?_, fun hstate => ?_, fun hnot => ?_, fun hstate hleft => ?_, fun hstate => ⟨?_, ?_⟩, fun hstate => ⟨?_, ?_, ?_⟩, ?_⟩
    · exact ⟨_, congrArg Host.Outcome.next (trkTrigger_recording ((hctl 1).trans hstate)), trkState_triggered _,
        triggered_driverWrite_trk .., triggered_frame _⟩
    · exact congrArg _ (trkTrigger_counts (by rwa [hctl 1]))
    · exact congrArg _ (trkPost_notDue hnot)
    · exact congrArg _ (trkPost_due hstate hleft)
    · exact congrArg _ (trkRelease_other (by rwa [hctl 2]))
    · exact congrArg _ (trkExport_none (.inl (by rwa [hctl 4])))
    · rw [exec_release, driverWrite_frozen hstate, trkRelease_frozen hstate]
      obtain ⟨hrecs, hjournal, hfirst⟩ := dropWindow_trk s
      exact ⟨_, rfl, trkState_released s _, hrecs, hjournal, hfirst⟩
    · intro hok
      rw [exec_exportImage, driverWrite_frozen hstate]
      exact congrArg _ (trkExport_writes hstate hok)
    · intro hfail
      rw [exec_exportImage, driverWrite_frozen hstate]
      exact congrArg _ (trkExport_none (.inr hfail))
    · intro q
      have hbase : imageBase q = h := imageBase_driverWrite ..
      have hbench : fget q fPART_TRK_CFG_BENCH 0 0 = fget s fPART_TRK_CFG_BENCH 0 0 := fget_driverWrite ..
      have hservice : inService q = inService s := inService_driverWrite ..
      rw [← hbench, ← hservice, ← hbase]
      refine ⟨fun hignored => ?_, fun hon hout hunread => ?_, fun hon hout hread => ⟨fun hbad => ?_, fun hok hunits => ?_⟩⟩
      · exact congrArg _ (trkImport_ignored hignored)
      · exact congrArg _ (trkImport_unread hon hout hunread)
      · exact congrArg _ (trkImport_rejected hon hout hread hbad)
      · exact congrArg _ (trkImport_loads hon hout hread hok hunits)

end Sys2Proof.Machine
end

section
/-! Drivezar ports (R449, R457, R459, R460, R462 to R464, R575): training and retraining by STATE, acknowledgement, and what forwards a flit. -/

namespace Sys2Proof.Machine

/-! ## Fields of a port's registers -/

/-- Two fields of one port at different places in its registers (R474). -/
theorem fldKey_ne_of_place {f g : Fld} (hspace : f.space = g.space) (hplace : f.off * 32 + f.lo ≠ g.off * 32 + g.lo) (unit sel : Nat) :
    fldKey f unit sel ≠ fldKey g unit sel := by
  unfold fldKey
  rw [hspace]
  omega

theorem pget_pput_ne {f g : Fld} (hspace : f.space = g.space) (hplace : f.off * 32 + f.lo ≠ g.off * 32 + g.lo) (s : State) (p v : Nat) :
    pget (pput s f p v) g p = pget s g p :=
  fget_fput_ne s f g (p / 4) p (p / 4) p v (fldKey_ne_of_place hspace hplace _ _).symm

theorem pget_pput_self (s : State) (f : Fld) (p v : Nat) : pget (pput s f p v) f p = v % 2 ^ f.width := fget_fput_self ..

theorem pget_updPort (s : State) (p q : Nat) (f : Port → Port) (g : Fld) : pget (updPort s p f) g q = pget s g q := rfl

theorem getPort_pput (s : State) (f : Fld) (p v q : Nat) : getPort (pput s f p v) q = getPort s q := rfl

theorem getPort_pbump (s : State) (f : Fld) (p k q : Nat) : getPort (pbump s f p k) q = getPort s q := rfl

theorem getPort_updPort_self (s : State) (p : Nat) (f : Port → Port) : getPort (updPort s p f) p = f (getPort s p) := tabGet_tabSet_self ..

theorem getPort_updPort_ne (s : State) {p q : Nat} (f : Port → Port) (h : q ≠ p) : getPort (updPort s p f) q = getPort s q :=
  tabGet_tabSet_ne _ _ _ h

/-- A write of a port's field leaves every field of the part's own registers. -/
theorem fget_pput_part (s : State) {f g : Fld} (hf : f.space = .dzl) (hg : g.space = .part) (hoff : g.off < 65536) (hlo : g.lo < 32) (p v : Nat) :
    fget (pput s f p v) g 0 0 = fget s g 0 0 := by
  refine fget_fput_ne _ _ _ _ _ _ _ _ ?_
  simp only [fldKey, hf, hg, spaceIdx]
  omega

theorem selfId_pput (s : State) {f : Fld} (hf : f.space = .dzl) (p v : Nat) : selfId (pput s f p v) = selfId s :=
  fget_pput_part s hf rfl (by decide) (by decide) p v

/-! ## Training starts (R449, R460, R575) -/

theorem exec_dzlPortEnable (s : State) (p : Nat) (on : Bool) : exec (.dzlPortEnable p on) s = .next (portEnable s p on) := rfl
theorem exec_retrain (s : State) (p : Nat) : exec (.retrain p) s = .next (retrainPort s p) := rfl

theorem startTraining_cut {s : State} {p : Nat} (h : portCut s p = true) : startTraining s p = s := if_pos h

theorem startTraining_starts {s : State} {p : Nat} (h : portCut s p = false) :
    startTraining s p = pput (updPort (downPort s p) p fun x => { x with badLanes := 0 }) fDZL_PORT_STATUS_STATE p 1 := if_neg (by simp [h])

/-- A port with its ENABLE written. -/
def portEnabled (s : State) (p : Nat) (on : Bool) : State := pput s fDZL_PORT_CFG_ENABLE p (b2n on)

section
variable {s : State} {p : Nat} (hpresent : portPresent s p = true)
include hpresent

theorem portEnable_off : portEnable s p false = downPort (portEnabled s p false) p := by
  rw [portEnable, if_neg (by simp [hpresent])]
  rfl

theorem portEnable_on : portEnable s p true =
    if fget s fPART_BOOT_STATUS_PHASE 0 0 = 3 then portEnabled s p true
    else if portState (portEnabled s p true) p = 0 then startTraining (portEnabled s p true) p else portEnabled s p true := by
  rw [portEnable, if_neg (by simp [hpresent]),
    ← fget_pput_part s (f := fDZL_PORT_CFG_ENABLE) rfl rfl (by decide) (by decide) p (b2n true)]
  rfl

theorem retrainPort_enabled (h : pget s fDZL_PORT_CFG_ENABLE p = 1) : retrainPort s p = startTraining s p := if_pos (by simp [hpresent, h])

end

theorem retrainPort_disabled {s : State} {p : Nat} (h : pget s fDZL_PORT_CFG_ENABLE p ≠ 1) : retrainPort s p = s := if_neg (by simp [h])

/-! ## Lane failures (R459) -/

theorem exec_laneFailure (s : State) (p lane : Nat) : exec (.laneFailure p lane) s = .next (laneFailure s p lane) := rfl

/-- A port with a lane out of use. -/
def laneOut (s : State) (p lane fails : Nat) : State :=
  pput (updPort s p fun x => { x with badLanes := putBits x.badLanes lane 1 1, fails := fails, echoes := [] })
    fDZL_PORT_STATUS_LANES_GOOD p (putBits (pget s fDZL_PORT_STATUS_LANES_GOOD p) lane 1 0)

theorem getPort_laneOut_self (s : State) (p lane fails : Nat) : getPort (laneOut s p lane fails) p =
    { getPort s p with badLanes := putBits (getPort s p).badLanes lane 1 1, fails := fails, echoes := [] } := by
  rw [laneOut, getPort_pput, getPort_updPort_self]

section
variable {s : State} {p lane : Nat} (hpresent : portPresent s p = true) (hlane : lane < 8)
include hpresent hlane

theorem laneFailure_up (h : portState s p = 2) :
    laneFailure s p lane = pbump (pput (laneOut s p lane 0) fDZL_PORT_STATUS_STATE p 3) fDZL_PORT_STATUS_RETRAINS p 1 := by
  simp only [laneFailure, hpresent, h, Nat.not_le.mpr hlane]
  rfl

theorem laneFailure_retrains (h : portState s p = 3) : laneFailure s p lane =
    let t := laneOut s p lane ((getPort s p).fails + 1)
    if 2 ≤ (getPort t p).fails then failPort t p else t := by
  simp only [laneFailure, hpresent, h, Nat.not_le.mpr hlane]
  rfl

end

/-! ## Training and retraining end -/

theorem exec_trainingComplete (s : State) (p lanes farId farPort delay : Nat) :
    exec (.trainingComplete p lanes farId farPort delay) s = .next (trainingDone s p lanes farId farPort delay) := rfl
theorem exec_retrainComplete (s : State) (p lanes : Nat) : exec (.retrainComplete p lanes) s = .next (retrainDone s p lanes) := rfl
theorem exec_trainingTimeout (s : State) (p : Nat) : exec (.trainingTimeout p) s = .next (trainingTimeout s p) := rfl
theorem exec_echo (s : State) (p rt ta : Nat) : exec (.echo p rt ta) s = .next (echoIn s p rt ta) := rfl

theorem length_goodLanes (s : State) (p lanes : Nat) : (goodLanes s p lanes).length ≤ 8 :=
  List.length_filter_le _ (rangeFrom 0 8)

theorem widthOf_eq_zero {n : Nat} (h : n < 4) : widthOf n = 0 := by
  rw [widthOf, if_neg (by omega), if_neg (by omega), if_neg (by omega), if_neg (by omega)]

/-- Lanes in use of 4 to 8 good ones: 5 serve as 4 (R448, R459). -/
theorem widthOf_eq {n : Nat} (hlow : 4 ≤ n) (hhigh : n ≤ 8) : widthOf n = if n = 5 then 4 else n := by
  obtain rfl | rfl | rfl | rfl | rfl : n = 4 ∨ n = 5 ∨ n = 6 ∨ n = 7 ∨ n = 8 := by omega
  all_goals rfl

theorem widthOf_ne_zero {n : Nat} (hlow : 4 ≤ n) (hhigh : n ≤ 8) : widthOf n ≠ 0 := by
  rw [widthOf_eq hlow hhigh]
  split <;> omega

/-- The delay that training ends with: measured where 256 echoes have come, and else the one given. -/
def trainedDelay (s : State) (p delay : Nat) : Nat := if 256 ≤ (getPort s p).echoes.length then echoDelay (getPort s p) else delay

/-- The port's registers as training leaves them. -/
def trained (s : State) (p farId farPort delay : Nat) (good : List Nat) : State :=
  pput (pput (pput (pput (pput s fDZL_PORT_DELAY_DELAY_PS p (min delay (2 ^ 20 - 1))) fDZL_PORT_STATUS_LANES_GOOD p (laneMask good))
    fDZL_PORT_FAR_FAR_ID p farId) fDZL_PORT_FAR_FAR_PORT p farPort) fDZL_PORT_STATUS_BOUNDARY p
      (b2n (farId != 0x1FFFF && domainOf farId != domainOf (selfId s)))

theorem minWidth_trained (s : State) (p farId farPort delay : Nat) (good : List Nat) :
    pget (trained s p farId farPort delay good) fDZL_PORT_CFG_MIN_WIDTH p = pget s fDZL_PORT_CFG_MIN_WIDTH p := by
  unfold trained
  rw [pget_pput_ne (f := fDZL_PORT_STATUS_BOUNDARY) (g := fDZL_PORT_CFG_MIN_WIDTH) rfl (by decide),
    pget_pput_ne (f := fDZL_PORT_FAR_FAR_PORT) (g := fDZL_PORT_CFG_MIN_WIDTH) rfl (by decide),
    pget_pput_ne (f := fDZL_PORT_FAR_FAR_ID) (g := fDZL_PORT_CFG_MIN_WIDTH) rfl (by decide),
    pget_pput_ne (f := fDZL_PORT_STATUS_LANES_GOOD) (g := fDZL_PORT_CFG_MIN_WIDTH) rfl (by decide),
    pget_pput_ne (f := fDZL_PORT_DELAY_DELAY_PS) (g := fDZL_PORT_CFG_MIN_WIDTH) rfl (by decide)]

section
variable {s : State} {p : Nat} (hpresent : portPresent s p = true)
include hpresent

theorem trainingDone_eq (lanes farId farPort delay : Nat) (h : portState s p = 1) : trainingDone s p lanes farId farPort delay =
    let good := goodLanes s p lanes
    let t := trained s p farId farPort (trainedDelay s p delay) good
    if 250000 < trainedDelay s p delay ∨ good.length < pget s fDZL_PORT_CFG_MIN_WIDTH p ∨ widthOf good.length = 0 then downPort t p
    else pput (pput (updPort t p fun x => { x with seq := 0, fails := 0, echoes := [] })
      fDZL_PORT_STATUS_WIDTH p (widthOf good.length)) fDZL_PORT_STATUS_STATE p 2 := by
  rw [trainingDone, if_neg (by simp [hpresent, h])]
  dsimp only
  rw [← minWidth_trained s p farId farPort (trainedDelay s p delay) (goodLanes s p lanes)]
  iterate 4 rw [selfId_pput _ rfl]
  rfl

/-- The port as a retrain leaves it that keeps it UP, before the record and the resend. -/
def retrained (s : State) (p width : Nat) (good : List Nat) : State :=
  pput (pput (updPort (pput s fDZL_PORT_STATUS_LANES_GOOD p (laneMask good)) p fun x => { x with fails := 0, echoes := [] })
    fDZL_PORT_STATUS_WIDTH p width) fDZL_PORT_STATUS_STATE p 2

/-- A retrain reports the width that it lost, or that it kept it (R459). -/
def retrainRecord (s : State) (p unit old width : Nat) : Nat :=
  if width < old then errRecord s 5 2 0x0E unit 5 3 width else errRecord s 5 2 0x20 unit 5 0 (pget s fDZL_PORT_STATUS_RETRAINS p)

theorem retrainDone_eq (lanes : Nat) (h : portState s p = 3) : retrainDone s p lanes =
    let good := goodLanes s p lanes
    let w := widthOf good.length
    if good.length < pget s fDZL_PORT_CFG_MIN_WIDTH p ∨ w = 0 then failPort (pput s fDZL_PORT_STATUS_LANES_GOOD p (laneMask good)) p
    else
      let u := retrained s p w good
      pumpAll (resendAll (errRegion u (p / 4) (retrainRecord u p (p * 8 + (lowestBit (getPort s p).badLanes 0 8).getD 0)
        (pget s fDZL_PORT_STATUS_WIDTH p) w)) p) p := by
  rw [retrainDone, if_neg (by simp [hpresent, h])]
  dsimp only
  rw [pget_pput_ne (f := fDZL_PORT_STATUS_LANES_GOOD) (g := fDZL_PORT_CFG_MIN_WIDTH) rfl (by decide)]
  rfl

theorem retrainDone_resends {lanes w : Nat} (h : portState s p = 3) (hwidth : widthOf (goodLanes s p lanes).length = w)
    (hmin : pget s fDZL_PORT_CFG_MIN_WIDTH p ≤ (goodLanes s p lanes).length) (hw : w ≠ 0) :
    retrainDone s p lanes =
      let u := retrained s p w (goodLanes s p lanes)
      pumpAll (resendAll (errRegion u (p / 4) (retrainRecord u p (p * 8 + (lowestBit (getPort s p).badLanes 0 8).getD 0)
        (pget s fDZL_PORT_STATUS_WIDTH p) w)) p) p := by
  subst hwidth
  exact (retrainDone_eq hpresent lanes h).trans (if_neg (not_or_intro (Nat.not_lt.mpr hmin) hw))

end

theorem trainingTimeout_trains {s : State} {p : Nat} (h : portState s p = 1) : trainingTimeout s p = downPort s p := if_pos h
theorem trainingTimeout_other {s : State} {p : Nat} (h : portState s p ≠ 1) : trainingTimeout s p = s := if_neg h

/-! ## Echoes (R449) -/

/-- A port that has sent an echo and taken one. -/
def echoed (s : State) (p rt ta : Nat) : State :=
  updPort (putFlit s p (getPort s p).seq (echoFlit s)) p fun x => { x with echoes := x.echoes ++ [rt - ta] }

theorem length_echoes_echoed (s : State) (p rt ta : Nat) : (getPort (echoed s p rt ta) p).echoes.length = (getPort s p).echoes.length + 1 := by
  rw [echoed, getPort_updPort_self]
  exact List.length_append

theorem echoIn_other {s : State} {p : Nat} (rt ta : Nat) (htrains : portState s p ≠ 1) (hretrains : portState s p ≠ 3) :
    echoIn s p rt ta = s := if_neg (by simp [htrains, hretrains])

theorem echoIn_eq {s : State} {p : Nat} (rt ta : Nat) (h : portState s p = 1 ∨ portState s p = 3) : echoIn s p rt ta =
    if (getPort s p).echoes.length = (if portState s p = 1 then 255 else 15) then
      pput (echoed s p rt ta) fDZL_PORT_DELAY_DELAY_PS p (min (echoDelay (getPort (echoed s p rt ta) p)) (2 ^ 20 - 1))
    else echoed s p rt ta := by
  have hlast : ((getPort (echoed s p rt ta) p).echoes.length = if portState s p = 1 then 256 else 16) ↔
      (getPort s p).echoes.length = if portState s p = 1 then 255 else 15 := by
    rw [length_echoes_echoed]
    split <;> omega
  refine (if_pos h).trans ?_
  exact if_congr hlast rfl rfl

/-! ## Acknowledgement (R457) -/

theorem exec_idle (s : State) (p ack : Nat) : exec (.idle p ack) s = .next (pumpAll (ackTo s p ack) p) := rfl
theorem exec_nak (s : State) (p ack : Nat) : exec (.nak p ack) s = .next (nakIn s p ack) := rfl
theorem exec_flitCrcFailure (s : State) (p good : Nat) : exec (.flitCrcFailure ⟨p, good⟩) s = .next (crcFailure s p good) := rfl

theorem dropAcked_found {ack : Nat} {f : Flit} {a b : List (Nat × Flit)} (h : ∀ e ∈ a, e.1 ≠ ack) : dropAcked ack (a ++ (ack, f) :: b) = some b := by
  induction a with
  | nil => exact if_pos rfl
  | cons e a ih =>
    rw [List.cons_append, dropAcked, if_neg (h e List.mem_cons_self)]
    exact ih fun x hx => h x (List.mem_cons_of_mem e hx)

theorem dropAcked_none {ack : Nat} {l : List (Nat × Flit)} (h : ∀ e ∈ l, e.1 ≠ ack) : dropAcked ack l = none := by
  induction l with
  | nil => rfl
  | cons e l ih =>
    rw [dropAcked, if_neg (h e List.mem_cons_self)]
    exact ih fun x hx => h x (List.mem_cons_of_mem e hx)

section
variable {s : State} {p ack : Nat}

theorem ackTo_found {f : Flit} {a b : List (Nat × Flit)} (hreplay : (getPort s p).replay = a ++ (ack, f) :: b) (h : ∀ e ∈ a, e.1 ≠ ack) :
    ackTo s p ack = updPort s p fun x => { x with replay := b } := by
  rw [ackTo, hreplay, dropAcked_found h]

theorem ackTo_none (h : ∀ e ∈ (getPort s p).replay, e.1 ≠ ack) : ackTo s p ack = s := by
  rw [ackTo, dropAcked_none h]

theorem nakIn_up (hup : portUp s p = true) : nakIn s p ack = pumpAll (resendAll (pbump (ackTo s p ack) fDZL_PORT_ERR_RETRIES p 1) p) p :=
  if_neg (by simp [hup])

theorem nakIn_notUp (hup : portUp s p = false) : nakIn s p ack = s := if_pos (by simp [hup])

theorem resendAll_eq {l : List (Nat × Flit)} (h : (getPort s p).replay = l) : resendAll s p = l.foldl (fun s e => putFlit s p e.1 e.2) s := by
  rw [resendAll, h]

end

/-! ## Forwarding (R462 to R464) -/

theorem exec_forward (s : State) (r : Nat) (f : Flit) : exec (.forward r f) s = .next (forwardFlit s r f) := rfl

section
variable {s : State} {r : Nat} {f : Flit}

theorem forwardFlit_ignored (h : f.dst = selfId s ∨ regionAlive s r = false ∨ f.ftype = 0 ∨ 4 ≤ f.ftype) : forwardFlit s r f = s := if_pos h

variable (hdst : f.dst ≠ selfId s) (halive : regionAlive s r = true) (hlow : 1 ≤ f.ftype) (hhigh : f.ftype ≤ 3)
include hdst halive hlow hhigh

theorem forwardFlit_routes : forwardFlit s r f =
    let tell := fun (reason : Nat) => sendControl s f.src 5 (noRouteRec s f.src f.dst f.seg reason)
    if 63 ≤ f.hops then (if f.ftype = 2 then s else tell 1)
    else match forwardPort s r f with
      | some p => portSend (notePath s f p) p 0 [{ f with hops := f.hops + 1 }]
      | none => if f.ftype = 2 then s else tell 0 := by
  refine (if_neg ?_).trans rfl
  rintro (h | h | h | h)
  · exact hdst h
  · simp [halive] at h
  · omega
  · omega

theorem forwardFlit_tooFar (h : 63 ≤ f.hops) : forwardFlit s r f =
    if f.ftype = 2 then s else sendControl s f.src 5 (noRouteRec s f.src f.dst f.seg 1) :=
  (forwardFlit_routes hdst halive hlow hhigh).trans (if_pos h)

theorem forwardFlit_noPort (h : f.hops < 63) (hport : forwardPort s r f = none) : forwardFlit s r f =
    if f.ftype = 2 then s else sendControl s f.src 5 (noRouteRec s f.src f.dst f.seg 0) := by
  refine (forwardFlit_routes hdst halive hlow hhigh).trans ((if_neg (Nat.not_le.mpr h)).trans ?_)
  rw [hport]

theorem forwardFlit_goes (h : f.hops < 63) {q : Nat} (hport : forwardPort s r f = some q) :
    forwardFlit s r f = portSend (notePath s f q) q 0 [{ f with hops := f.hops + 1 }] := by
  refine (forwardFlit_routes hdst halive hlow hhigh).trans ((if_neg (Nat.not_le.mpr h)).trans ?_)
  rw [hport]

end

/-- Settles O54: a port's commands by its STATE and its good lanes, acknowledgements by the replay buffer, and a flit by its hops and its port. -/
theorem portsAndFlits : Obligations.PortsAndFlits := by
  intro s p
  refine ⟨fun hpresent => ⟨fun on => ?_, fun hon hcut => ?_, fun h => ?_, fun lane hlane => ⟨fun hup => ?_, fun hretrain => ?_⟩,
    fun lanes farId farPort delay htrain => ?_, fun lanes hretrain => ?_⟩, ?_, ?_, fun rt ta => ?_, fun ack => ⟨fun a b f hreplay hfirst => ?_,
    fun hnone => ?_, fun hup => ?_⟩, fun good => ⟨fun hup => ?_, fun hup => ?_⟩, fun r f => ?_⟩
  case refine_1 =>
    intro t
    rw [exec_dzlPortEnable]
    refine ⟨fun hoff => ?_, fun hon hphase => ?_, fun hon hphase hdown hcut => ?_, fun hon h => ?_⟩ <;> subst on
    · exact congrArg _ (portEnable_off hpresent)
    · exact congrArg _ ((portEnable_on hpresent).trans (if_pos hphase))
    · exact congrArg _ ((portEnable_on hpresent).trans ((if_neg hphase).trans ((if_pos hdown).trans (startTraining_starts hcut))))
    · refine congrArg _ ((portEnable_on hpresent).trans ?_)
      have h' : portState (portEnabled s p true) p ≠ 0 ∨ portCut (portEnabled s p true) p = true := h
      rcases h' with h' | h'
      · rw [if_neg h', ite_self]
        rfl
      · rw [startTraining_cut h', ite_self, ite_self]
        rfl
  case refine_2 => rw [exec_retrain, retrainPort_enabled hpresent hon, startTraining_starts hcut]
  case refine_3 =>
    rw [exec_retrain]
    by_cases hon : pget s fDZL_PORT_CFG_ENABLE p = 1
    · rw [retrainPort_enabled hpresent hon, startTraining_cut (h.resolve_left (not_not_intro hon))]
    · rw [retrainPort_disabled hon]
  case refine_4 =>
    refine ⟨_, congrArg Host.Outcome.next (laneFailure_up hpresent hlane hup), ?_, ?_, ?_, ?_, ?_, fun q hq => ?_⟩
    · exact (pget_pput_ne (f := fDZL_PORT_STATUS_RETRAINS) (g := fDZL_PORT_STATUS_STATE) rfl (by decide) ..).trans (pget_pput_self ..)
    · rw [getPort_pbump, getPort_pput, getPort_laneOut_self]
    · rw [getPort_pbump, getPort_pput, getPort_laneOut_self]
    · rw [getPort_pbump, getPort_pput, getPort_laneOut_self]
    · rw [getPort_pbump, getPort_pput, getPort_laneOut_self]
    · rw [getPort_pbump, getPort_pput, laneOut, getPort_pput, getPort_updPort_ne _ _ hq]
  case refine_5 =>
    intro t
    have hfails : (getPort (laneOut s p lane ((getPort s p).fails + 1)) p).fails = (getPort s p).fails + 1 := by rw [getPort_laneOut_self]
    refine ⟨fun hfirst => ?_, fun hsecond => ?_⟩
    · exact congrArg _ ((laneFailure_retrains hpresent hlane hretrain).trans (if_neg (by rw [hfails]; omega)))
    · exact congrArg _ ((laneFailure_retrains hpresent hlane hretrain).trans (if_pos (by rw [hfails]; omega)))
  case refine_6 =>
    intro good d t
    have hmost : good.length ≤ 8 := length_goodLanes ..
    refine ⟨fun h => ?_, fun hd hfour hmin => ?_⟩
    · refine congrArg _ ((trainingDone_eq hpresent lanes farId farPort delay htrain).trans (if_pos ?_))
      rcases h with h | h | h
      · exact .inl h
      · exact .inr (.inr (widthOf_eq_zero h))
      · exact .inr (.inl h)
    · have hwidth : widthOf good.length = if good.length = 5 then 4 else good.length := widthOf_eq hfour hmost
      refine congrArg _ ((trainingDone_eq hpresent lanes farId farPort delay htrain).trans ((if_neg ?_).trans ?_))
      · rintro (h | h | h)
        · exact Nat.not_lt.mpr hd h
        · exact Nat.not_lt.mpr hmin h
        · exact widthOf_ne_zero hfour hmost h
      · rw [← hwidth]
        rfl
  case refine_7 =>
    intro good w t unit u
    have hmost : good.length ≤ 8 := length_goodLanes ..
    refine ⟨fun h => ?_, fun hfour hmin => ?_⟩
    · refine congrArg _ ((retrainDone_eq hpresent lanes hretrain).trans (if_pos ?_))
      exact h.elim (fun h => .inr (widthOf_eq_zero h)) .inl
    · have hw : w ≠ 0 := ne_of_eq_of_ne (widthOf_eq hfour hmost).symm (widthOf_ne_zero hfour hmost)
      intro v
      rw [exec_retrainComplete, retrainDone_resends hpresent hretrain (widthOf_eq hfour hmost) hmin hw]
      rfl
  case refine_8 =>
    intro h
    rw [exec_trainingTimeout, trainingTimeout_trains h]
  case refine_9 =>
    intro h
    rw [exec_trainingTimeout, trainingTimeout_other h]
  case refine_10 =>
    intro t last
    rw [exec_echo]
    refine ⟨fun h hlast => ?_, fun h hlast => ?_, fun htrains hretrains => ?_⟩
    · exact congrArg _ ((echoIn_eq rt ta h).trans (if_neg hlast))
    · exact congrArg _ ((echoIn_eq rt ta h).trans (if_pos hlast))
    · rw [echoIn_other rt ta htrains hretrains]
  case refine_11 =>
    intro t
    rw [exec_idle, exec_nak, ackTo_found hreplay hfirst]
    refine ⟨rfl, fun hup => ?_⟩
    rw [nakIn_up hup, ackTo_found hreplay hfirst, resendAll_eq (l := b)]
    rw [getPort_pbump, getPort_updPort_self]
  case refine_12 =>
    rw [exec_idle, exec_nak, ackTo_none hnone]
    refine ⟨rfl, fun hup => ?_⟩
    rw [nakIn_up hup, ackTo_none hnone, resendAll_eq (congrArg Port.replay (getPort_pbump ..))]
  case refine_13 => rw [exec_nak, nakIn_notUp hup]
  case refine_14 => exact (exec_flitCrcFailure s p good).trans (congrArg _ (if_neg (by simp [hup])))
  case refine_15 => exact (exec_flitCrcFailure s p good).trans (congrArg _ (if_pos (by simp [hup])))
  case refine_16 =>
    intro tell
    rw [exec_forward]
    refine ⟨fun h => ?_, fun hdst halive hlow hhigh => ⟨fun h => ?_, fun h hport => ?_, fun q h hport => ?_⟩⟩
    · rw [forwardFlit_ignored h]
    · exact congrArg _ (forwardFlit_tooFar hdst halive hlow hhigh h)
    · exact congrArg _ (forwardFlit_noPort hdst halive hlow hhigh h hport)
    · exact congrArg _ (forwardFlit_goes hdst halive hlow hhigh h hport)

end Sys2Proof.Machine
end

section
/-! Firmware's registers of a DMA channel (R327, R339, R341) by the state of the selected channel. -/

namespace Sys2Proof.Machine

theorem exec_dmaTailWrite (s : State) (e : DmaEng) (tail : Nat) :
    exec (.dmaTailWrite e tail) s = .next (if engDead s e then s else dmaTail s e tail) := rfl
theorem exec_resume (s : State) (e : DmaEng) : exec (.resume e) s = .next (if engDead s e then s else dmaResume s e) := rfl
theorem exec_abort (s : State) (e : DmaEng) : exec (.abort e) s = .next (if engDead s e then s else abortChan s e (selChan s e)) := rfl

/-- Firmware's registers of an engine that is cut take no write (R548). -/
theorem engDead_ignores {s : State} {e : DmaEng} (h : engDead s e = true) {c : Instr} {tail : Nat}
    (hc : c ∈ [Instr.dmaTailWrite e tail, .resume e, .abort e]) : exec c s = .next s := by
  simp only [List.mem_cons, List.not_mem_nil, or_false] at hc
  obtain rfl | rfl | rfl := hc
  · rw [exec_dmaTailWrite, if_pos h]
  · rw [exec_resume, if_pos h]
  · rw [exec_abort, if_pos h]

theorem dmaTail_starts {s : State} {e : DmaEng} {tail : Nat}
    (h : chFw (chPut s fBLK_DMA_TAIL_TAIL fRGN_DMA_TAIL_TAIL e (selChan s e) tail) e (selChan s e) = true ∧
      chState (chPut s fBLK_DMA_TAIL_TAIL fRGN_DMA_TAIL_TAIL e (selChan s e) tail) e (selChan s e) = 0) :
    dmaTail s e tail = settleChan (chPut s fBLK_DMA_TAIL_TAIL fRGN_DMA_TAIL_TAIL e (selChan s e) tail) e (selChan s e) :=
  if_pos (by simp [h])

theorem dmaTail_writes {s : State} {e : DmaEng} {tail : Nat}
    (h : ¬(chFw (chPut s fBLK_DMA_TAIL_TAIL fRGN_DMA_TAIL_TAIL e (selChan s e) tail) e (selChan s e) = true ∧
      chState (chPut s fBLK_DMA_TAIL_TAIL fRGN_DMA_TAIL_TAIL e (selChan s e) tail) e (selChan s e) = 0)) :
    dmaTail s e tail = chPut s fBLK_DMA_TAIL_TAIL fRGN_DMA_TAIL_TAIL e (selChan s e) tail :=
  if_neg (by simpa using h)

theorem signalled_eq (s : State) (e : DmaEng) (ch failed : Nat) (aborted : List Nat) : signalled s e ch failed aborted =
    if chOwner s e ch = none ∧ (nbits failed 224 8 = 1 ∨ nbits failed 224 8 = 2) then aborted else failed :: aborted :=
  if_congr (by simp) rfl rfl

theorem abortChan_running {s : State} {e : DmaEng} {ch : Nat} (h : chState s e ch ≠ 3) : abortChan s e ch = s := if_pos h

theorem abortChan_stopped {s : State} {e : DmaEng} {ch : Nat} (h : chState s e ch = 3) : abortChan s e ch =
    let i := chHead s e ch
    let failed := readEntry s e ch i
    let r := abortRing e ch (chRing s e ch - 1) (i + 1) s []
    let t := (signalled s e ch failed (r.2.reverse.map (·.2))).foldl (setForSig e) r.1
    chPut (updChan (setChHead (setChState t e ch 0) e ch (((r.2.head?.map (·.1)).getD i + 1) % chRing t e ch)) e ch
      fun x => { x with desc := none, rerun := false, waits := false }) fBLK_DMA_STATUS_ERR_KIND fRGN_DMA_STATUS_ERR_KIND e ch 0 :=
  if_neg (not_not_intro h)

/-- Settles O37: each register by the STATE of the channel that the index selects, and none at an engine that is cut. -/
theorem dmaRegisters : Obligations.DmaRegisters := by
  refine ⟨fun s e tail hcut c hc => engDead_ignores hcut hc, fun s e hcut => ?_⟩
  have hlive : ¬ engDead s e = true := Bool.eq_false_iff.mp hcut
  intro ch errKind
  refine ⟨fun tail => ?_, fun hstopped => ?_, fun hruns => ⟨?_, ?_⟩, fun hstopped => ?_⟩
  · intro t
    rw [exec_dmaTailWrite, if_neg hlive]
    exact ⟨fun h => congrArg _ (dmaTail_starts h), fun h => congrArg _ (dmaTail_writes h)⟩
  · rw [exec_resume, if_neg hlive]
    exact congrArg _ (if_pos hstopped)
  · rw [exec_resume, if_neg hlive]
    exact congrArg _ (if_neg hruns)
  · rw [exec_abort, if_neg hlive]
    exact congrArg _ (abortChan_running hruns)
  · intro i r failed aborted told signalled past
    rw [exec_abort, if_neg hlive]
    refine congrArg _ ((abortChan_stopped hstopped).trans ?_)
    dsimp only
    rw [signalled_eq]

end Sys2Proof.Machine
end

section
/-! COPY, FILL and SWAP64 within the part (R326, R330, R331, R335): the fetch of a channel's head, its checks, and the bytes that land. -/

namespace Sys2Proof.Machine

theorem exec_dmaCopy (s : State) (e : DmaEng) (ch : Nat) : exec (.dmaCopy e ch) s = .next (dmaFetch s e ch fun k => k == 0 || decide (3 ≤ k)) := rfl
theorem exec_dmaFill (s : State) (e : DmaEng) (ch : Nat) : exec (.dmaFill e ch) s = .next (dmaFetch s e ch fun k => k == 1) := rfl
theorem exec_dmaSwap64 (s : State) (e : DmaEng) (ch : Nat) : exec (.dmaSwap64 e ch) s = .next (dmaFetch s e ch fun k => k == 2) := rfl

/-! ## The fetch -/

section
variable {s : State} {e : DmaEng} {ch : Nat} {mine : Nat → Bool}

theorem dmaFetch_cut (h : engCut s e ch = true) : dmaFetch s e ch mine = s := if_pos (.inl h)

variable {w : Nat} (hfree : (getChan s e ch).desc = none) (hstate : chState s e ch = 1 ∨ chState s e ch = 2)
  (hw : w = readEntry s e ch (chHead s e ch)) (hown : dOwn w = true)
include hfree hstate hw hown

theorem dmaFetch_owned (hlive : engCut s e ch = false) :
    dmaFetch s e ch mine = if !mine (dKind w) ∨ outranked s e ch w then s else fetchEntry s e ch w := by
  subst hw
  refine (if_neg ?_).trans (if_neg (by simp [hown]))
  rintro (h | h | ⟨h1, h2⟩)
  · simp [hlive] at h
  · simp [hfree] at h
  · exact hstate.elim h1 h2

theorem dmaFetch_waits (h : engCut s e ch = true ∨ outranked s e ch w = true) : dmaFetch s e ch mine = s := by
  cases hcut : engCut s e ch with
  | true => exact dmaFetch_cut hcut
  | false => exact (dmaFetch_owned hfree hstate hw hown hcut).trans (if_pos (.inr (h.resolve_left (by simp [hcut]))))

theorem dmaFetch_fetches (hlive : engCut s e ch = false) (hturn : outranked s e ch w = false) (hmine : mine (dKind w) = true) :
    dmaFetch s e ch mine = fetchEntry s e ch w :=
  (dmaFetch_owned hfree hstate hw hown hlive).trans (if_neg (by simp [hmine, hturn]))

end

section
variable {s r : State} {e : DmaEng} {ch w : Nat}

theorem fetchEntry_runs (hdead : dmaDead s e (chPlace s e ch (entryAddr s e ch (chHead s e ch))) = false)
    (hread : sourceEcc s e ch 64 (chPlace s e ch (entryAddr s e ch (chHead s e ch))) = .ok r) : fetchEntry s e ch w =
      runFetched (dmaConflict (notePlace r (chSlot r e ch) 64 (chPlace s e ch (entryAddr s e ch (chHead s e ch)))) e
        (chPlace s e ch (entryAddr s e ch (chHead s e ch)))) e ch w := by
  refine (if_neg (Bool.eq_false_iff.mp hdead)).trans ?_
  rw [hread]

/-- A channel that a local transfer starts on: the copy it belongs to is noted, and it hands nothing off. -/
def localStart (s : State) (e : DmaEng) (ch w : Nat) : State := updChan (noteCopy (pacePaused s e ch w).1 e ch w) e ch fun x => { x with remote := false }

theorem regionChanFree_local (s : State) (e : DmaEng) (hlocal : dRemote w = false) : regionChanFree s e w = true := by
  cases e with
  | blk b => simp [regionChanFree, hlocal]
  | rgn r => rfl

theorem takeRegionChan_local (s : State) (e : DmaEng) (hlocal : dRemote w = false) : takeRegionChan s e w = s := by
  cases e with
  | blk b => simp [takeRegionChan, hlocal]
  | rgn r => rfl

theorem runXfer_local (s : State) (e : DmaEng) (ch : Nat) (hlocal : dRemote w = false) :
    runXfer s e ch w = localXfer (updChan s e ch fun x => { x with remote := false }) e ch w (dLen w) := by
  rw [runXfer, hlocal, takeRegionChan_local s e hlocal]
  rfl

/-- A descriptor that passes its checks, whose pace lets it go on and which stays within the part, runs. -/
theorem runFetched_local (hgood : fetchBad s e ch w = none) (hpace : (pacePaused s e ch w).2 = false) (hlocal : dRemote w = false) :
    runFetched s e ch w =
      startedXfer (noteCopy (pacePaused s e ch w).1 e ch w) e ch w (localXfer (localStart s e ch w) e ch w (dLen w)) := by
  rw [runFetched, hgood]
  refine (if_neg (Bool.eq_false_iff.mp hpace)).trans ((if_neg (by simp [regionChanFree_local _ _ hlocal])).trans ?_)
  rw [runXfer_local _ _ _ hlocal]
  rfl

/-- A checked descriptor's LEN is of whole lines (R330, R336). -/
theorem dLen_of_fetchBad (hgood : fetchBad s e ch w = none) (hkind : dKind w ≠ 2) : dLen w ≠ 0 ∧ dLen w % 64 = 0 := by
  have hcause : descCause s e ch w = none := by
    cases h : descCause s e ch w with
    | none => rfl
    | some c => simp [fetchBad, h] at hgood
  unfold descCause at hcause
  extract_lets k bare copy checkBad lenBad urgBad member spaceBad meets paceBad at hcause
  have hlen : ¬ lenBad = true := by
    intro h
    rw [if_pos h] at hcause
    split at hcause <;> cases hcause
  have hk : ¬ k = 2 := hkind
  simpa [lenBad, hk] using hlen

end

/-! ## Transfers within the part -/

section
variable {s : State} {e : DmaEng} {ch w n : Nat}

theorem hostStop_part {p : Place} (fixed : Bool) (h : ∀ a, p ≠ .host a) : hostStop s fixed n p = none := by
  cases p with
  | host a => exact absurd rfl (h a)
  | _ => rfl

theorem offload_part {src dst : Place} (hsrc : ∀ a, src ≠ .host a) (hdst : ∀ a, dst ≠ .host a) : offload s n src dst = some s := by
  unfold offload
  split
  · rfl
  · split
    · exact absurd rfl (hdst _)
    · exact absurd rfl (hsrc _)
    · rfl

theorem hostCut_part (hsrc : dKind w = 0 → ∀ a, chPlace s e ch (dSrc w) ≠ .host a) (hdst : ∀ a, chPlace s e ch (dDst w) ≠ .host a) :
    hostCut s e ch w n = none := by
  unfold hostCut
  rw [hostStop_part _ hdst]
  by_cases hkind : dKind w = 0
  · rw [hostStop_part _ (hsrc hkind), ite_self]
  · rw [if_neg hkind]

/-- A transfer whose sides are alive and within the part moves all its bytes. -/
theorem localXfer_moves (hsrcDead : dKind w = 0 → dmaDead s e (chPlace s e ch (dSrc w)) = false)
    (hdstDead : dmaDead s e (chPlace s e ch (dDst w)) = false) (hsrc : dKind w = 0 → ∀ a, chPlace s e ch (dSrc w) ≠ .host a)
    (hdst : ∀ a, chPlace s e ch (dDst w) ≠ .host a) :
    localXfer s e ch w n = moveBytes s e ch w n (chPlace s e ch (dSrc w)) (chPlace s e ch (dDst w)) := by
  refine (if_neg ?_).trans ((if_neg (Bool.eq_false_iff.mp hdstDead)).trans ?_)
  · rintro ⟨hkind, h⟩
    exact Bool.eq_false_iff.mp (hsrcDead hkind) h
  · rw [hostCut_part hsrc hdst]

/-- What lands of a transfer's bytes, under the channel's slot. -/
def landed (t : State) (e : DmaEng) (ch w n : Nat) (bs : Bytes) : UnitWr :=
  writePlace t (chOwner t e ch) (chSlot t e ch) (landing (dDstFixed w) (bs.take n)) (chPlace t e ch (dDst w))

theorem landBytes_lands {v : State} {bs : Bytes} (hn : n ≠ 0) (h : landed s e ch w n bs = .ok v) :
    landBytes s e ch w n bs = .ok (updChan v e ch fun x => { x with moved := n }) w := by
  refine (if_neg hn).trans ?_
  rw [show writePlace s (chOwner s e ch) (chSlot s e ch) (landing (dDstFixed w) (bs.take n)) (chPlace s e ch (dDst w)) = .ok v from h]

theorem moveBytes_copy {t v : State} {src dst : Place} (hkind : dKind w = 0) (hn : n ≠ 0) (hsrc : ∀ a, src ≠ .host a) (hdst : ∀ a, dst ≠ .host a)
    (hread : sourceEcc s e ch (if dSrcFixed w then min 64 n else n) src = .ok t)
    (hland : landed (dmaConflict (dmaConflict (notePlace t (chSlot s e ch) (if dSrcFixed w then min 64 n else n) src) e src) e dst) e ch w n
      (sourceBytes s (chSlot s e ch) n (dSrcFixed w) src) = .ok v) :
    moveBytes s e ch w n src dst = .ok (updChan v e ch fun x => { x with moved := n }) w := by
  refine (if_pos hkind).trans ?_
  rw [offload_part hsrc hdst]
  dsimp only
  unfold copyBytes
  dsimp only
  rw [hread]
  exact landBytes_lands hn hland

theorem moveBytes_fill {v : State} {src dst : Place} (hkind : dKind w = 1) (hn : n ≠ 0)
    (hland : landed (dmaConflict s e dst) e ch w n (List.replicate (n / 8) (natLe 8 (dValue w))).flatten = .ok v) :
    moveBytes s e ch w n src dst = .ok (updChan v e ch fun x => { x with moved := n }) w :=
  (if_neg (by simp [hkind])).trans ((if_pos hkind).trans (landBytes_lands hn hland))

theorem moveBytes_swap {t v : State} {src dst : Place} (hkind : dKind w = 2) (hn : n ≠ 0) (hread : sourceEcc s e ch 8 dst = .ok t)
    (hland : landed (dmaConflict t e dst) e ch w n (natLe 8 (dValue w)) = .ok v) :
    moveBytes s e ch w n src dst =
      .ok (updChan v e ch fun x => { x with moved := n }) (putBits w 288 64 (leNat (readPlace s (chSlot s e ch) 8 dst))) := by
  refine (if_neg (by simp [hkind])).trans ((if_neg (by simp [hkind])).trans ?_)
  rw [hread]
  dsimp only
  rw [landBytes_lands hn hland]

end

/-- Settles O35: the fetch, the checks and the pace let a head descriptor through, and its KIND says what lands. -/
theorem dmaTransfers : Obligations.DmaTransfers := by
  intro s e ch w hfree hstate hw hown forms
  refine ⟨fun hwaits i hi => ?_, ?_⟩
  · simp only [forms, List.mem_cons, List.not_mem_nil, or_false] at hi
    obtain rfl | rfl | rfl := hi
    · exact congrArg _ (dmaFetch_waits hfree hstate hw hown hwaits)
    · exact congrArg _ (dmaFetch_waits hfree hstate hw hown hwaits)
    · exact congrArg _ (dmaFetch_waits hfree hstate hw hown hwaits)
  · intro hlive hturn ring hdead r hread s0 hgood hpace hlocal s1 src dst slot n land inFlight onPart hn hdst hdstPart
    have hrun (mine : Nat → Bool) (hmine : mine (dKind w) = true) (hsrc : dKind w = 0 → dmaDead s1 e src = false)
        (hsrcPart : dKind w = 0 → onPart src) : dmaFetch s e ch mine =
          startedXfer (noteCopy (pacePaused s0 e ch w).1 e ch w) e ch w (moveBytes s1 e ch w n src dst) :=
      calc dmaFetch s e ch mine
        _ = fetchEntry s e ch w := dmaFetch_fetches hfree hstate hw hown hlive hturn hmine
        _ = runFetched s0 e ch w := fetchEntry_runs hdead hread
        _ = startedXfer (noteCopy (pacePaused s0 e ch w).1 e ch w) e ch w (localXfer s1 e ch w n) := runFetched_local hgood hpace hlocal
        _ = _ := congrArg _ (localXfer_moves hsrc hdst hsrcPart hdstPart)
    refine ⟨fun hkind hsrc hsrcPart t v hsource hland => ?_, fun hkind v hland => ?_, fun hkind t v hsource hland => ?_⟩
    · obtain ⟨hlen, hlines⟩ := dLen_of_fetchBad hgood (by omega)
      have hside : sideLen w (dSrcFixed w) = if dSrcFixed w then min 64 n else n := by
        unfold sideLen
        split <;> omega
      refine congrArg _ ((hrun _ (by simp [hkind]) (fun _ => hsrc) fun _ => hsrcPart).trans ?_)
      rw [moveBytes_copy hkind hn hsrcPart hdstPart (hside ▸ hsource) (hside ▸ hland)]
      rfl
    · refine congrArg _ ((hrun _ (by simp [hkind]) (fun h => absurd h (by omega)) fun h => absurd h (by omega)).trans ?_)
      rw [moveBytes_fill hkind hn hland]
      rfl
    · refine congrArg _ ((hrun _ (by simp [hkind]) (fun h => absurd h (by omega)) fun h => absurd h (by omega)).trans ?_)
      rw [moveBytes_swap hkind hn hsource hland]
      rfl

end Sys2Proof.Machine
end

section
/-! The end of a mover's read whose words hold both a single-bit error and an uncorrectable one (R267, R337). -/

namespace Sys2Proof.Machine

/-- A mover that walks one run of 64 bytes, whose read of the first 64 bytes of its core's store is in flight. -/
def readingMover : Mover :=
  { moverReset with st := .running, pat := 2 ^ 64, gen := true, addr := 0x101_0000_0000, req := some ⟨0x101_0000_0000, 64, false, [], false⟩ }

/-- Core 0 runs, and waits for that read; the first word of its store holds a single-bit error and the second an uncorrectable one. -/
def harmedRead : State := { State.reset with
  cores := [(0, { coreReset with
    seq := { seqReset with st := .running }, movers := [(0, readingMover)], harm := [(harmKey 0 0 0, 1), (harmKey 0 0 1, 2)] })] }

/-- What the check of that read leaves: the core's count of corrections is 1. -/
theorem harmedRead_halts : eccAt harmedRead 0 0x101_0000_0000 64 = .halt (fixStore harmedRead 0 1) 0x18 (storeDetail 0 0 0) := by
  rfl

/-- Corrections that a core's store has counted after a command. -/
def correctionsAfter (u : Nat) : Host.Outcome State Fault Refusal → Nat
  | .next t => (getCore t u).checks.cs
  | _ => 0

/-- Refutes O30: a read that meets an uncorrectable word halts the unit from the state in which the check has counted its single-bit errors
(R267); the statement halts it from the state before the check. In `harmedRead` the core's count of corrections is 1 after the response, and
the statement has it 0. -/
theorem not_moverAnswers : ¬ Obligations.MoverAnswers := by
  intro h
  obtain ⟨-, -, hread, -⟩ := h harmedRead 0 0 ⟨0x101_0000_0000, 64, false, [], false⟩ (by decide +kernel) (by decide +kernel)
  obtain ⟨-, hhalt, -⟩ := hread (by decide +kernel) (by decide +kernel) rfl fun _ => by decide +kernel
  exact absurd (congrArg (correctionsAfter 0) (hhalt _ _ _ harmedRead_halts)) (by decide +kernel)

end Sys2Proof.Machine
end

section
/-! Deadbolts, error records and writes of memory leave the part's link state: its ports, segments and candidates (R54, R290, R504, R509). -/

namespace Sys2Proof.Machine

theorem link_of_told {s t : State} (h : told t = told s) : t.link = s.link := congrArg ToldPart.link h

theorem foldl_link {α : Type} {g : State → α → State} (h : ∀ s a, (g s a).link = s.link) (l : List α) (s : State) : (l.foldl g s).link = s.link := by
  induction l generalizing s with
  | nil => rfl
  | cons a l ih => exact (ih _).trans (h s a)

/-! ## Deadbolts and error records -/

theorem tumPut_link (s : State) (t : TumRef) (x : Tumbler) : (tumPut s t x).link = s.link := by
  unfold tumPut
  split <;> rfl

theorem tumRetest_link (s : State) (t : TumRef) : (tumRetest s t).link = s.link :=
  (foldl_link (g := passWait t (tumGet s t).hand) (fun _ _ => rfl) _ _).trans (tumPut_link ..)

theorem vecHeld_link (s : State) (u : Nat) : (vecHeld s u).link = s.link := by
  unfold vecHeld
  split
  · rfl
  · dsimp only
    split <;> rfl

theorem haltUnits_link (p : Nat → Bool) (detail : Nat) (s : State) : (haltUnits p detail s).link = s.link := by
  unfold haltUnits
  extract_lets held cut tums waits refs
  have hheld : held.link = s.link := foldl_link (fun _ _ => vecHeld_link ..) _ _
  refine (foldl_link (fun s t => ?_) _ _).trans hheld
  split
  · rfl
  · exact tumRetest_link ..

theorem elect_link (s : State) : (elect s).link = s.link := by
  have hresume (t : State) : (resumeAtMark t).link = t.link := by
    unfold resumeAtMark
    split <;> rfl
  unfold elect
  split
  · split
    · rfl
    · dsimp only
      split
      · exact (link_of_told (errPart_told ..)).trans (hresume _)
      · exact hresume _
  · rfl

section
variable {cut : Cut} (hcut : ∀ s detail kind unit, (cut s detail kind unit).link = s.link)
include hcut

theorem regionOut_link (s : State) (r : Nat) (rec : Option Nat) : (regionOut cut s r rec).link = s.link := by
  have hout : (elect (cut s byPart 2 r)).link = s.link := (elect_link _).trans (hcut ..)
  unfold regionOut
  extract_lets t posted
  have hposted : posted.link = s.link := by
    cases rec with
    | none => exact hout
    | some rec => exact (link_of_told (errPart_told ..)).trans hout
  split
  · exact hposted
  · exact (link_of_told (errPart_told ..)).trans hposted

theorem regionTake_link (s : State) (r rec : Nat) : (regionTake cut s r rec).link = s.link := by
  unfold regionTake
  dsimp only
  split
  · exact (link_of_told (errOut_told ..)).trans rfl
  · exact regionOut_link hcut ..
  · exact regionOut_link hcut ..

theorem blockCut_link (s : State) (detail b : Nat) : (blockCut cut s detail b).link = s.link := by
  unfold blockCut
  dsimp only
  split
  · rfl
  · split
    · exact (regionTake_link hcut ..).trans (hcut ..)
    · exact hcut ..

theorem blockTake_link (s : State) (b rec : Nat) : (blockTake cut s b rec).link = s.link := by
  unfold blockTake
  dsimp only
  split
  · exact (link_of_told (errOut_told ..)).trans rfl
  · exact (regionTake_link hcut ..).trans (blockCut_link hcut ..)
  · exact (regionTake_link hcut ..).trans (blockCut_link hcut ..)

theorem postHalt_link (s : State) (u rec task action : Nat) : (postHalt cut s u rec task action).link = s.link := by
  unfold postHalt
  split
  · exact regionTake_link hcut ..
  · exact blockTake_link hcut ..

theorem cutUnits_link (p : Nat → Bool) (detail : Nat) (s : State) : (cutUnits cut p detail s).link = s.link :=
  (foldl_link (fun _ _ => postHalt_link hcut ..) _ _).trans (haltUnits_link ..)

end

theorem fenceN_link (n : Nat) (s : State) (detail kind unit : Nat) : (fenceN n s detail kind unit).link = s.link := by
  induction n generalizing s detail kind unit with
  | zero => rfl
  | succ n ih =>
    unfold fenceN
    split
    · rfl
    · dsimp only
      split
      · exact cutUnits_link ih ..
      · exact cutUnits_link ih ..
      · exact cutUnits_link ih ..
      · exact cutUnits_link ih ..
      · rfl
      · rfl

theorem errRegion_link (s : State) (r rec : Nat) : (errRegion s r rec).link = s.link := regionTake_link (fenceN_link 3) ..

/-! ## Frames and pages (R55, R276, R284 to R287) -/

theorem readSystem_link (s : State) (r : Nat) (k : SysStruct) : (readSystem s r k).link = s.link := by
  unfold readSystem
  dsimp only
  split <;> rfl

theorem readTables_link (s : State) (r : Nat) : (readTables s r).link = s.link := by
  simp only [readTables, readSystem_link]

theorem retireFrame_link (s : State) (r f : Nat) : (retireFrame s r f).link = s.link := by
  unfold retireFrame
  extract_lets side w retired told n
  have htold : told.link = s.link := errRegion_link ..
  split
  · exact (errRegion_link ..).trans htold
  · exact htold

theorem toPool_link (s : State) (r f : Nat) : (toPool s r f).link = s.link := by
  unfold toPool
  split
  · dsimp only
    split
    · exact (updRegion_link ..).trans (retireFrame_link ..)
    · exact retireFrame_link ..
  · rfl

theorem releaseFrame_link (s : State) (r page f lap : Nat) : (releaseFrame s r page f lap).link = s.link := by
  unfold releaseFrame
  split
  · rfl
  · exact toPool_link ..

theorem foldPage_link (s : State) (r page : Nat) : (foldPage s r page).link = s.link := by
  unfold foldPage
  extract_lets settled e out committed dropped keep
  have hcommitted : committed.link = settled.link := foldl_link (fun t h => (updRegion_link ..).trans (releaseFrame_link ..)) _ _
  have hdropped : dropped.link = committed.link := foldl_link (fun t h => toPool_link ..) _ _
  exact (updRegion_link ..).trans (hdropped.trans hcommitted)

theorem foldFinal_link (s : State) (r page : Nat) : (foldFinal s r page).link = s.link := by
  unfold foldFinal
  dsimp only
  split
  · exact foldPage_link ..
  · rfl

theorem foldFor_link {r : Nat} {stackB : Bool} {pages : List Nat} {s : State} {d : Nat × State} (h : foldFor r stackB pages s = some d) :
    d.2.link = s.link := by
  induction pages generalizing s with
  | nil => cases h
  | cons p pages ih =>
    unfold foldFor at h
    split at h
    · dsimp only at h
      split at h
      · cases h
        exact foldPage_link ..
      · exact (ih h).trans (foldPage_link ..)
    · exact ih h

theorem drawHalf_link {s : State} {r : Nat} {stackB : Bool} {d : Nat × State} (h : drawHalf s r stackB = some d) : d.2.link = s.link := by
  unfold drawHalf at h
  split at h
  · cases h
    rfl
  · exact foldFor_link h

theorem drawFrame_link {s : State} {r : Nat} {stackB own : Bool} {d : Nat × State} (h : drawFrame s r stackB own = some d) :
    d.2.link = s.link := by
  unfold drawFrame at h
  split at h
  · rename_i hd
    cases h
    exact (updRegion_link ..).trans (drawHalf_link hd)
  · split at h
    · cases h
    · obtain ⟨d', hd, rfl⟩ := Option.map_eq_some_iff.mp h
      exact (updRegion_link ..).trans (drawHalf_link hd)

theorem failPc_link (s : State) (r f pc n : Nat) : (failPc s r f pc n).link = s.link := by
  unfold failPc
  dsimp only
  split
  · rfl
  · split
    · exact errRegion_link ..
    · exact errRegion_link ..

theorem countUe_link (s : State) (r f o : Nat) : (countUe s r f o).link = s.link := by
  unfold countUe
  dsimp only
  split
  · exact failPc_link ..
  · rfl

theorem readHalf_link (s : State) (r f o : Nat) (lapLocal : Bool) : (readHalf s r f o lapLocal).1.link = s.link := by
  unfold readHalf
  extract_lets h failed counted rebuilt
  have hcounted : counted.link = s.link := by
    dsimp only [counted]
    split
    · exact countUe_link ..
    · rfl
  clear_value counted
  split
  · rfl
  · split
    · rfl
    · split
      · rfl
      · split
        · exact hcounted
        · split
          · exact (errRegion_link ..).trans hcounted
          · exact (errRegion_link ..).trans hcounted

theorem checkLines_link (s : State) (r f : Nat) (lapLocal : Bool) (ls : List Nat) : (checkLines s r f lapLocal ls).link = s.link := by
  unfold checkLines
  split
  · rfl
  · exact foldl_link (fun _ _ => readHalf_link ..) _ _

/-! ## Writes to memory (R54, R58, R61) -/

/-- Where a write is done, the link state is the one given. -/
def wrLink (l : LinkSt) : WrRes → Prop
  | .ok t => t.link = l
  | _ => True

/-- Where a unit's write is done, the link state is the one given. -/
def unitLink (l : LinkSt) : UnitWr → Prop
  | .ok t => t.link = l
  | _ => True

theorem copyLine_link (s : State) (b line o n slot : Nat) : (copyLine s b line o n slot).1.link = s.link := by
  unfold copyLine
  extract_lets t kind ws bad fixes fixed
  have hfixed : fixed.link = s.link := by
    dsimp only [fixed]
    split
    · unfold fixStore
      split <;> rfl
    · rfl
  clear_value fixed
  dsimp only
  split
  · exact hfixed
  · exact (errRegion_link ..).trans hfixed

theorem writeLine_link (s : State) (b line o slot : Nat) (bs : Bytes) : wrLink s.link (writeLine s b line o slot bs) := by
  unfold writeLine
  extract_lets x fresh m y ep mine excess data copied held
  have hheld : held.link = s.link := copyLine_link ..
  clear_value held excess
  split
  · exact rfl
  · split
    · dsimp only
      split <;> exact rfl
    · split
      · trivial
      · split
        · trivial
        · exact hheld

theorem writeBs_link (s : State) (b slot fuel off : Nat) (bs : Bytes) : wrLink s.link (writeBs s b slot fuel off bs) := by
  induction fuel generalizing s off bs with
  | zero => exact rfl
  | succ fuel ih =>
    unfold writeBs
    split
    · exact rfl
    · extract_lets k
      have hline := writeLine_link s b (off / 128) (off % 128) slot (bs.take k)
      cases hw : writeLine s b (off / 128) (off % 128) slot (bs.take k) with
      | ok t =>
        rw [hw] at hline
        exact (show t.link = s.link from hline) ▸ ih t ..
      | wait => trivial
      | excess kind declared => trivial

theorem ensureHeld_link (s : State) (r page slot : Nat) (own : Bool) : wrLink s.link (ensureHeld s r page slot own) := by
  unfold ensureHeld
  extract_lets e ep settled folded e' task
  have hfolded : folded.link = s.link := (readSystem_link ..).trans (foldFinal_link ..)
  clear_value folded task
  split
  · exact rfl
  · split
    · exact rfl
    · cases task with
      | some k =>
        dsimp only
        split
        · trivial
        · split
          · trivial
          · rename_i hdrawn
            exact (drawFrame_link hdrawn).trans hfolded
      | none =>
        dsimp only
        split
        · trivial
        · rename_i hdrawn
          exact (drawFrame_link hdrawn).trans hfolded

theorem writePage_link (s : State) (r page off slot : Nat) (own : Bool) (bs : Bytes) : wrLink s.link (writePage s r page off slot own bs) := by
  unfold writePage
  extract_lets read e
  have hread : read.link = s.link := readTables_link ..
  clear_value read
  split
  · exact hread
  · have hheld := ensureHeld_link read r page slot own
    cases hw : ensureHeld read r page slot own with
    | ok t =>
      rw [hw] at hheld
      dsimp only
      split
      · exact (checkLines_link ..).trans ((show t.link = read.link from hheld).trans hread)
      · trivial
    | wait => trivial
    | excess kind declared => trivial

theorem writeHbm_link (s : State) (r slot : Nat) (own : Bool) (fuel page off : Nat) (bs : Bytes) :
    wrLink s.link (writeHbm s r slot own fuel page off bs) := by
  induction fuel generalizing s page off bs with
  | zero => exact rfl
  | succ fuel ih =>
    unfold writeHbm
    split
    · exact rfl
    · extract_lets k
      have hpage := writePage_link s r page off slot own (bs.take k)
      cases hw : writePage s r page off slot own (bs.take k) with
      | ok t =>
        rw [hw] at hpage
        exact (show t.link = s.link from hpage) ▸ ih t ..
      | wait => trivial
      | excess kind declared => trivial

theorem writePlace_link (s : State) (core : Option Nat) (slot : Nat) (bs : Bytes) (p : Place) :
    unitLink s.link (writePlace s core slot bs p) := by
  unfold writePlace
  extract_lets done
  have hdone (w : WrRes) (h : wrLink s.link w) : unitLink s.link (done w) := by
    cases w <;> exact h
  cases p with
  | cs v off => exact rfl
  | bs b off =>
    dsimp only
    split
    · trivial
    · exact hdone _ (writeBs_link ..)
  | hbm r page off => exact hdone _ (writeHbm_link ..)
  | host h => exact link_of_told ((hostWrite_told ..).trans (hostTouch_told ..))
  | nowhere => exact rfl

/-! ## Rings of descriptors (R326, R333) -/

theorem chPut_link (s : State) (fb fr : Fld) (e : DmaEng) (ch v : Nat) : (chPut s fb fr e ch v).link = s.link := by
  cases e <;> rfl

theorem setChan_link (s : State) (e : DmaEng) (ch : Nat) (x : DmaChan) : (setChan s e ch x).link = s.link := by
  cases e <;> rfl

theorem dmaConflict_link (s : State) (e : DmaEng) (p : Place) : (dmaConflict s e p).link = s.link := by
  cases p <;> rfl

theorem writeEntry_link (s : State) (e : DmaEng) (ch i w : Nat) : (writeEntry s e ch i w).link = s.link := by
  have hwrite := writePlace_link (dmaConflict s e (chPlace s e ch (entryAddr s e ch i))) none (chSlot s e ch) (natLe 64 w)
    (chPlace s e ch (entryAddr s e ch i))
  unfold writeEntry
  dsimp only
  split
  · rename_i t ht
    rw [ht] at hwrite
    exact (setChan_link ..).trans ((show t.link = _ from hwrite).trans (dmaConflict_link ..))
  · exact setChan_link ..

theorem freeRegionChan_link (s : State) (e : DmaEng) (ch : Nat) : (freeRegionChan s e ch).link = s.link := by
  unfold freeRegionChan
  split
  · cases e <;> rfl
  · rfl

end Sys2Proof.Machine
end

section
/-! The end of a transfer, and a transfer that fails (R329, R333, R338). -/

namespace Sys2Proof.Machine

theorem exec_dmaComplete (s : State) (e : DmaEng) (ch : Nat) : exec (.dmaComplete e ch) s = .next (dmaComplete s e ch) := rfl
theorem exec_dmaTransferError (s : State) (e : DmaEng) (ch : Nat) (kind : XferError) (write : Bool) (delivered : Nat) :
    exec (.dmaTransferError e ch kind write delivered) s =
      .next (dmaError s e ch (match kind with | .busError => 1 | .translation => 2) write delivered) := rfl

/-! ## A transfer that ends -/

section
variable {s : State} {e : DmaEng} {ch w : Nat} (hdesc : (getChan s e ch).desc = some w)
include hdesc

theorem dmaComplete_early (h : (getChan s e ch).moved < dLen w ∨ entryRoom s e ch = false) : dmaComplete s e ch = s := by
  unfold dmaComplete
  rw [hdesc]
  exact if_pos (.inr (h.imp id fun h => .inr (.inr (by simp [h]))))

variable (hstate : chState s e ch ≠ 3) (hhand : isHandCh e ch = false) (hlive : engCut s e ch = false)
include hstate hhand hlive

theorem dmaComplete_due (hmoved : dLen w ≤ (getChan s e ch).moved) (hroom : entryRoom s e ch = true) : dmaComplete s e ch =
    if readBackDead s e ch w then failTransfer s e ch w 1 0 (readBackAddr w) 0 (dLen w)
    else dmaFinish (readBackNote s e ch w) e ch w (chHead s e ch) := by
  unfold dmaComplete
  rw [hdesc]
  refine if_neg ?_
  rintro (h | h | h | h | h)
  · simp [hlive] at h
  · omega
  · exact hstate h
  · simp [hhand] at h
  · simp [hroom] at h

theorem dmaError_running (kind : Nat) (write : Bool) (delivered : Nat) : dmaError s e ch kind write delivered = failHead s e ch kind write delivered w := by
  unfold dmaError
  rw [hdesc]
  refine if_neg ?_
  rintro (h | h | h)
  · simp [hlive] at h
  · exact hstate h
  · simp [hhand] at h

end

/-! ## What a channel that stops holds -/

theorem foldl_min_le {α : Type} (f : α → Nat) (l : List α) (n : Nat) :
    l.foldl (fun n a => min n (f a)) n ≤ n ∧ ∀ a ∈ l, l.foldl (fun n a => min n (f a)) n ≤ f a := by
  induction l generalizing n with
  | nil => exact ⟨Nat.le_refl n, fun a ha => absurd ha List.not_mem_nil⟩
  | cons b l ih =>
    obtain ⟨hinit, hmem⟩ := ih (min n (f b))
    refine ⟨hinit.trans (Nat.min_le_left ..), fun a ha => ?_⟩
    rcases List.mem_cons.mp ha with rfl | ha
    · exact hinit.trans (Nat.min_le_right ..)
    · exact hmem a ha

theorem landedBytes_le (s : State) (e : DmaEng) (ch w delivered : Nat) : landedBytes s e ch w delivered ≤ delivered := by
  unfold landedBytes
  split
  · exact (foldl_min_le ..).1
  · exact Nat.le_refl _

/-- No byte past a READ_OWNER that is not answered counts (R338). -/
theorem landedBytes_le_pos {s : State} {e : DmaEng} {ch w delivered : Nat} {g : SegOut} (hg : g ∈ s.link.segs) (heng : g.eng = e)
    (hchan : g.chan = ch) (hspace : dSrcSpace w = 1) (hkind : dKind w = 0) : landedBytes s e ch w delivered ≤ g.pos := by
  rw [landedBytes, if_pos ⟨hspace, hkind⟩]
  exact (foldl_min_le SegOut.pos ..).2 g (List.mem_filter.mpr ⟨hg, by simp [heng, hchan]⟩)

/-- A write of another field of a channel leaves its STATE (R342). -/
theorem chState_chPut_ne {fb fr : Fld} (hblk : fb.space = .blk) (hrgn : fr.space = .rgn) (hbplace : 0x314 * 32 + 0 ≠ fb.off * 32 + fb.lo)
    (hrplace : 0x314 * 32 + 0 ≠ fr.off * 32 + fr.lo) (s : State) (e : DmaEng) (ch v : Nat) :
    chState (chPut s fb fr e ch v) e ch = chState s e ch := by
  cases e with
  | blk b => exact fget_fput_ne _ _ _ _ _ _ _ _ (fldKey_ne_of_place (f := fBLK_DMA_STATUS_STATE) hblk.symm hbplace _ _)
  | rgn r => exact fget_fput_ne _ _ _ _ _ _ _ _ (fldKey_ne_of_place (f := fRGN_DMA_STATUS_STATE) hrgn.symm hrplace _ _)

theorem chState_setChState (s : State) (e : DmaEng) (ch v : Nat) : chState (setChState s e ch v) e ch = v % 4 := by
  cases e <;> exact fget_fput_self ..

theorem getChan_chPut (s : State) (fb fr : Fld) (e : DmaEng) (ch v : Nat) : getChan (chPut s fb fr e ch v) e ch = getChan s e ch := by
  cases e <;> rfl

theorem getChan_updChan (s : State) (e : DmaEng) (ch : Nat) (f : DmaChan → DmaChan) : getChan (updChan s e ch f) e ch = f (getChan s e ch) := by
  cases e with
  | blk b => exact (congrArg (fun x : Block => tabGet dmaReset x.dma ch) (getBlock_updBlock_self ..)).trans (tabGet_tabSet_self ..)
  | rgn r => exact (congrArg (fun x : Region => tabGet dmaReset x.dma ch) (getRegion_updRegion_self ..)).trans (tabGet_tabSet_self ..)

section
variable (s : State) (e : DmaEng) (ch w kind dir addr space delivered : Nat)

theorem chState_stopChan : chState (stopChan s e ch w kind dir addr space delivered) e ch = 3 := by
  unfold stopChan
  extract_lets closed freed failed directed addressed spaced
  calc chState spaced e ch
    _ = chState addressed e ch := chState_chPut_ne rfl rfl (by decide) (by decide) ..
    _ = chState directed e ch := (chState_chPut_ne rfl rfl (by decide) (by decide) ..).trans (chState_chPut_ne rfl rfl (by decide) (by decide) ..)
    _ = chState failed e ch := chState_chPut_ne rfl rfl (by decide) (by decide) ..
    _ = chState (setChState freed e ch 3) e ch := chState_chPut_ne rfl rfl (by decide) (by decide) ..
    _ = 3 := chState_setChState ..

theorem desc_stopChan : (getChan (stopChan s e ch w kind dir addr space delivered) e ch).desc = none := by
  unfold stopChan
  extract_lets closed freed failed directed addressed spaced
  have hfreed : getChan spaced e ch = getChan freed e ch := by
    simp only [spaced, addressed, directed, failed, setChState, getChan_chPut]
  have hdesc : (getChan freed e ch).desc = none := congrArg DmaChan.desc (getChan_updChan ..)
  exact (congrArg DmaChan.desc hfreed).trans hdesc

theorem segs_stopChan :
    (stopChan s e ch w kind dir addr space delivered).link.segs = s.link.segs.filter fun g => !(g.eng == e && g.chan == ch) := by
  unfold stopChan
  extract_lets closed freed failed directed addressed spaced
  have hlink : spaced.link = s.link := by
    simp only [spaced, addressed, directed, failed, freed, closed, setChState, updChan, chPut_link, setChan_link, writeEntry_link, freeRegionChan_link]
  exact congrArg (fun l : LinkSt => l.segs.filter fun g => !(g.eng == e && g.chan == ch)) hlink

end

/-- Settles O36: a completion that is due closes the head, one that is not does nothing, and an error stops the channel with what has landed. -/
theorem dmaEnds : Obligations.DmaEnds := by
  intro s e ch w hdesc hstate hhand hlive i
  refine ⟨fun hmoved hroom => ?_, fun hearly => ?_, fun write delivered k hk => ?_, fun kind dir addr space delivered => ?_⟩
  · intro t
    rw [exec_dmaComplete, dmaComplete_due hdesc hstate hhand hlive hmoved hroom]
    exact ⟨fun h => congrArg _ (if_neg (Bool.eq_false_iff.mp h)), fun h => congrArg _ (if_pos h)⟩
  · rw [exec_dmaComplete, dmaComplete_early hdesc hearly]
  · intro side past
    simp only [List.mem_cons, List.not_mem_nil, or_false] at hk
    rcases hk with rfl | rfl
    · exact congrArg _ (dmaError_running hdesc hstate hhand hlive 1 write delivered)
    · exact congrArg _ (dmaError_running hdesc hstate hhand hlive 2 write delivered)
  · intro n t
    exact ⟨landedBytes_le .., fun g hg heng hchan hspace hkind => landedBytes_le_pos hg heng hchan hspace hkind, chState_stopChan ..,
      desc_stopChan .., segs_stopChan ..⟩

end Sys2Proof.Machine
end
